-- ==== Sys2Proof/Word.lean ====
section
/-!
DEFINITION. The words, numbers and small name sets every later file uses: widths (R2, R37), tile and
resource numbers (R6, R12), scopes and orders (R45), and the 64 cause codes (R382).
-/
namespace Sys2Proof

/-- A 64-bit register or doubleword. -/
abbrev Word := BitVec 64
/-- One byte of memory. -/
abbrev Byte := BitVec 8
/-- A tile's number: die × 48 + cluster × 8 + tile (R6). -/
abbrev TileNo := Fin 384
/-- A resident slot of a dealer: 0 or 1 (R365). -/
abbrev SlotNo := Fin 2
/-- A chain code: 0 `ld`, 1 `st`, 2 `mx`, 3 `vx` (R156). -/
abbrev ChainNo := Fin 4
/-- A region semaphore number, sem0 to sem63 (R12). -/
abbrev SemNo := Fin 64
/-- A port number: Roleno ports 0 to 15, then Fernen ports 0 and 1 as 16 and 17 (R15, R451). -/
abbrev PortNo := Fin 18

/-- The die of a tile (R6). -/
def dieOf (t : Nat) : Nat := t / 48
/-- The cluster of a tile, numbered 0 to 47 over the module (R6, R14). -/
def clusterOf (t : Nat) : Nat := t / 8

/-- The scopes of R341. -/
inductive Scope | tile | clu | die | dev | dom
  deriving DecidableEq, Repr

/-- The order codes of R45. -/
inductive Order | rlx | acq | rel | ar
  deriving DecidableEq, Repr

/-- The order is REL or AR. -/
def Order.isRel : Order → Bool
  | .rel | .ar => true
  | .rlx | .acq => false

/-- The order is ACQ or AR. -/
def Order.isAcq : Order → Bool
  | .acq | .ar => true
  | .rlx | .rel => false

/-- The wider scopes have the larger numbers (R45). -/
def Scope.code : Scope → Nat
  | .tile => 0 | .clu => 1 | .die => 2 | .dev => 3 | .dom => 4

/-- The 64 cause codes (R382). -/
inductive Cause
  | illegalOp | reservedField | badReg | latchStale | priv | trapInsn | brk | misalignedFetch
  | loopBoundsWrite | loopNest | csrUnknown | step | ifetchFault | longSplit | csrReadonly | predCode
  | pageNotPresent | pagePermission | misalignedData | outOfPool | race | unsyncRegion | eccStrict | atomicSpace
  | windowFault | peerUnreachable | pinOverflow | tidInvalid | tidGeometry | tidInUse | partitionMismatch | addressSpace
  | forwardWait | semCeiling | semUnbound | semUnsatisfiable | chainFull | cbMalformed | cbUnsupportedTypes | nestDepth
  | patchRange | patchTarget | slotNotHeld | slotExhausted | accConflict | queueUnbound | queueRebind | rdvMismatch
  | doubleResolve | futureState | joinOverflow | deckOverflow | packetMalformed | groupLimit | cancelled | slip
  | nbvUnsupported | axisOrder | coverageConfig | scaleRange | contextLimit | watchdog | firmwareCall | machineCheck
  deriving DecidableEq, Repr

/-- The number of a cause (R382). -/
def Cause.code (c : Cause) : Nat := c.ctorIdx

end Sys2Proof
end

