-- ==== Sys2Proof/Config.lean ====
section
/-!
DEFINITION. What the spec leaves open: free values. Each constant has no body, so nothing in Lean can prove a value of
it; the step applies it to the plain counter `State.free` (log 4) or to what the value depends on.
-/
namespace Sys2Proof.Config

/-- A choice between an old and a new value that the spec leaves open (R109, R351, R390): log 6, 7, 8. -/
opaque freeBit : Nat → Bool
/-- Whether the boot ROM checks the equation of an Ed25519 signature or its eightfold (R447 names Ed25519, whose definition allows both): log 160. -/
opaque edEightfold : Bool
/-- The byte of the header of a firmware image at which the digest of the body begins (R447 gives no place): log 18. -/
opaque imageDigestAt : Nat
/-- The header of a firmware image: its target (even for the banker, odd for a leaf), load address, entry address and length (R447 gives the fields and no
places): log 18. -/
opaque imageTarget : List Byte → Nat
opaque imageLoad : List Byte → Nat
opaque imageEntry : List Byte → Nat
opaque imageLength : List Byte → Nat
/-- The units per period that the banker sets in POOL: for a power mode (0 full, 1 balanced, 2 economy) and HBM (false) or NET (true)
(R420: "at or below the die's capacity"): log 32. -/
opaque poolUnits : Nat → Bool → Nat
/-- What HBM4 holds after a cold reset, as cells in any order (R449: "HBM4 contents are undefined"): log 3. -/
opaque coldHbm : Nat → List (Nat × Byte)
/-- How many records beyond the first a cluster's overflow queue of one class holds (R319: "set up by the leaf controller"): log 19. -/
opaque overflowMore : Nat
/-- How many records a cluster's overflow queue of one class holds: one at least (log 19). -/
def overflowCapacity : Nat := overflowMore + 1
/-- Where the residue banks lie in their region of a save area, in units of 64 bytes (R371 gives the region): log 14. -/
opaque bankOffset : Nat
/-- Which doubleword of the region 0x40 to 0xFFF of a save area holds LOOPST (R371 gives the region): log 14. -/
opaque loopstPlace : Nat
/-- A number the spec leaves open, with its subject as argument. -/
opaque freeNat : Nat → Nat

/-- What stands in doubleword k of the part of the module region that holds the domain number, the route table and the event weights (R430
gives the part and no places): 0 the domain number, 1 + d the route of device d, 129 + w event weight w, else nothing: log 80. -/
opaque moduleLayout : Nat → Nat
/-- What stands in doubleword k of a die's region (R429 names its contents and gives no places), as a kind and a number: 0 a pool register, 1
and 2 an entry of the grant map of a tenant for the die pool and for a cluster pool, 3 and 4 the two words of a pin-table entry, 5 an entry of a
cluster job table, 6 a tag of a pool, 7 a tag of HBM4, else nothing: log 80. -/
opaque dieLayout : Nat → Nat × Nat
/-- What stands in doubleword k of a tile's region from +96 KiB on (R429), as a kind and a number: 0 to 2 DKB, DKL and DKT, 3 a relocation
register, 4 EP, 5 an entry of FR, else nothing: log 80. -/
opaque tileLayout : Nat → Nat × Nat
/-- The form of the ports of a route in its register (R395 gives none): log 80. -/
opaque routeWord : List Nat → Nat
/-- The ports of a route by the form of its register: log 80. -/
opaque routePorts : Nat → List Nat
/-- The form of a pin-table entry: word, job, base, size code and count (R391 gives the fields and no places): log 80. -/
opaque pinWord : Nat → Nat → Nat → Nat → Nat → Nat
/-- The form of a cluster's job-table entry: the job and its cancel flag (R327): log 80. -/
opaque jobWord : Nat → Bool → Nat
/-- The cancel flag of a job-table entry by the form of the entry: log 80. -/
opaque jobFlag : Nat → Bool
/-- How an entry NONE of FR reads (R354): log 80. -/
opaque noneWord : Nat

/-- Where the word with a number in a job's log stands in the mailbox region, in doublewords (R447, R448 give no place): log 18. -/
opaque logPlace : Nat → Nat → Nat
/-- The silicon revision in IDENT (R430; no rule gives it): log 32. -/
opaque revision : Nat

end Sys2Proof.Config
end

