-- ==== Sys2Proof/Fields.lean ====
section
/-!
DEFINITION. The operand fields of a dealer instruction (R37 to R47): heads, source registers, destinations, the predicate
write modes, and the codes that encode them.
-/
namespace Sys2Proof

/-- What every dealer word holds: its guard predicate (R40) and its stop bit (R42). -/
structure Hd where
  guard : Fin 8
  stop  : Bool
  deriving DecidableEq, Repr

/-- A source register field (R39). -/
inductive Src
  | g (i : Fin 48)
  | b (k : Fin 8)
  | zero | tileid | ctxid | lc0 | lc1
  deriving DecidableEq, Repr

/-- A destination field: a general register, or nothing when the n bit suppresses the write-back (R41). -/
abbrev Dst := Option (Fin 48)

/-- The predicate-write modes of a compare, `ct` codes 0 to 6 (R114). -/
inductive CmpMode | plain | z | all | any | xor | hit | mix
  deriving DecidableEq, Repr

/-- The code of a source field (R39). -/
def Src.code : Src → Nat
  | .g i => i | .b k => 48 + k | .zero => 56 | .tileid => 57 | .ctxid => 58 | .lc0 => 59 | .lc1 => 60

/-- The code of a predicate-write mode (R114). -/
def CmpMode.code : CmpMode → Nat
  | .plain => 0 | .z => 1 | .all => 2 | .any => 3 | .xor => 4 | .hit => 5 | .mix => 6

/-- The code of an order (R45). -/
def Order.code : Order → Nat
  | .rlx => 0 | .acq => 1 | .rel => 2 | .ar => 3

/-- The data of one outer event: which port or agent it comes from, an address or number, a size, a value and bytes. -/
structure Input where
  who   : Nat := 0
  addr  : Nat := 0
  size  : Nat := 0
  value : Nat := 0
  flag  : Bool := false
  nums  : List Nat := []
  bytes : List Byte := []
  deriving DecidableEq, Repr

end Sys2Proof
end

