-- ==== Sys2Proof/Syntax.lean ====
section
/-!
DEFINITION. The abstract syntax: one constructor for every row of spec/opcode_table.json, in the table's order, but for the
outer events, which stand last. The dealer's instructions carry their decoded fields; the steps of other agents carry which
tile, slot, chain or queue takes the step, and the choices the spec leaves to that agent; an outer event takes its data from
the machine's input (State.input).
-/
namespace Sys2Proof

/-- The steps of the machine (R50 and the rules the table names). -/
inductive Instr
  | add (h : Hd) (d : Dst) (a c : Src)
  | sub (h : Hd) (d : Dst) (a c : Src)
  | addw (h : Hd) (d : Dst) (a c : Src)
  | subw (h : Hd) (d : Dst) (a c : Src)
  | and (h : Hd) (d : Dst) (a c : Src)
  | or (h : Hd) (d : Dst) (a c : Src)
  | xor (h : Hd) (d : Dst) (a c : Src)
  | andn (h : Hd) (d : Dst) (a c : Src)
  | orn (h : Hd) (d : Dst) (a c : Src)
  | xnor (h : Hd) (d : Dst) (a c : Src)
  | sll (h : Hd) (d : Dst) (a c : Src)
  | srl (h : Hd) (d : Dst) (a c : Src)
  | sra (h : Hd) (d : Dst) (a c : Src)
  | rol (h : Hd) (d : Dst) (a c : Src)
  | ror (h : Hd) (d : Dst) (a c : Src)
  | sllw (h : Hd) (d : Dst) (a c : Src)
  | srlw (h : Hd) (d : Dst) (a c : Src)
  | sraw (h : Hd) (d : Dst) (a c : Src)
  | mul (h : Hd) (d : Dst) (a c : Src)
  | mulh (h : Hd) (d : Dst) (a c : Src)
  | mulhu (h : Hd) (d : Dst) (a c : Src)
  | mulhsu (h : Hd) (d : Dst) (a c : Src)
  | div (h : Hd) (d : Dst) (a c : Src)
  | divu (h : Hd) (d : Dst) (a c : Src)
  | rem (h : Hd) (d : Dst) (a c : Src)
  | remu (h : Hd) (d : Dst) (a c : Src)
  | min (h : Hd) (d : Dst) (a c : Src)
  | max (h : Hd) (d : Dst) (a c : Src)
  | minu (h : Hd) (d : Dst) (a c : Src)
  | maxu (h : Hd) (d : Dst) (a c : Src)
  | abs (h : Hd) (d : Dst) (a : Src)
  | movnz (h : Hd) (d : Fin 48) (a c : Src)
  | movz (h : Hd) (d : Fin 48) (a c : Src)
  | clz (h : Hd) (d : Dst) (a : Src)
  | ctz (h : Hd) (d : Dst) (a : Src)
  | popc (h : Hd) (d : Dst) (a : Src)
  | bfxu (h : Hd) (d : Dst) (a c : Src)
  | bfxs (h : Hd) (d : Dst) (a c : Src)
  | bfi (h : Hd) (d : Fin 48) (a c : Src)
  | rev8 (h : Hd) (d : Dst) (a : Src)
  | sh1add (h : Hd) (d : Dst) (a c : Src)
  | sh2add (h : Hd) (d : Dst) (a c : Src)
  | sh3add (h : Hd) (d : Dst) (a c : Src)
  | sh4add (h : Hd) (d : Dst) (a c : Src)
  | sh6add (h : Hd) (d : Dst) (a c : Src)
  | sh8add (h : Hd) (d : Dst) (a c : Src)
  | sh13add (h : Hd) (d : Dst) (a c : Src)
  | addi (h : Hd) (d : Dst) (a : Src) (imm : BitVec 9)
  | andi (h : Hd) (d : Dst) (a : Src) (imm : BitVec 9)
  | ori (h : Hd) (d : Dst) (a : Src) (imm : BitVec 9)
  | slli (h : Hd) (d : Dst) (a : Src) (imm : BitVec 6)
  | srli (h : Hd) (d : Dst) (a : Src) (imm : BitVec 6)
  | srai (h : Hd) (d : Dst) (a : Src) (imm : BitVec 6)
  | rori (h : Hd) (d : Dst) (a : Src) (imm : BitVec 6)
  | xori (h : Hd) (d : Dst) (a : Src) (imm : BitVec 6)
  | cmpeq (g : Fin 8) (ct : CmpMode) (pd1 pd2 : Fin 8) (a c : Src)
  | cmpne (g : Fin 8) (ct : CmpMode) (pd1 pd2 : Fin 8) (a c : Src)
  | cmplt (g : Fin 8) (ct : CmpMode) (pd1 pd2 : Fin 8) (a c : Src)
  | cmpge (g : Fin 8) (ct : CmpMode) (pd1 pd2 : Fin 8) (a c : Src)
  | cmpltu (g : Fin 8) (ct : CmpMode) (pd1 pd2 : Fin 8) (a c : Src)
  | cmpgeu (g : Fin 8) (ct : CmpMode) (pd1 pd2 : Fin 8) (a c : Src)
  | cmpts (g : Fin 8) (ct : CmpMode) (pd1 pd2 : Fin 8) (a c : Src)
  | cmptc (g : Fin 8) (ct : CmpMode) (pd1 pd2 : Fin 8) (a c : Src)
  | cmpeqi (g : Fin 8) (ct : CmpMode) (pd1 pd2 : Fin 8) (a : Src) (imm : BitVec 6)
  | cmpnei (g : Fin 8) (ct : CmpMode) (pd1 pd2 : Fin 8) (a : Src) (imm : BitVec 6)
  | cmplti (g : Fin 8) (ct : CmpMode) (pd1 pd2 : Fin 8) (a : Src) (imm : BitVec 6)
  | cmpgei (g : Fin 8) (ct : CmpMode) (pd1 pd2 : Fin 8) (a : Src) (imm : BitVec 6)
  | cmpltui (g : Fin 8) (ct : CmpMode) (pd1 pd2 : Fin 8) (a : Src) (imm : BitVec 6)
  | cmpgeui (g : Fin 8) (ct : CmpMode) (pd1 pd2 : Fin 8) (a : Src) (imm : BitVec 6)
  | cmptsi (g : Fin 8) (ct : CmpMode) (pd1 pd2 : Fin 8) (a : Src) (imm : BitVec 6)
  | cmptci (g : Fin 8) (ct : CmpMode) (pd1 pd2 : Fin 8) (a : Src) (imm : BitVec 6)
  | pand (h : Hd) (pd pa pc : Fin 8)
  | por (h : Hd) (pd pa pc : Fin 8)
  | pxor (h : Hd) (pd pa pc : Fin 8)
  | pandn (h : Hd) (pd pa pc : Fin 8)
  | pnot (h : Hd) (pd pa : Fin 8)
  | pget (h : Hd) (d : Dst)
  | pput (h : Hd) (a c : Src)
  | br (g : Fin 8) (disp : BitVec 23)
  | brl (g : Fin 8) (disp : BitVec 23)
  | jr (h : Hd) (a : Src)
  | jrl (h : Hd) (d : Fin 48) (a : Src)
  | ret (h : Hd)
  | loop (h : Hd) (a : Src) (last : BitVec 9)
  | lbu (h : Hd) (d : Dst) (a : Src) (m : Option (Fin 7)) (off : BitVec 4)
  | lhu (h : Hd) (d : Dst) (a : Src) (m : Option (Fin 7)) (off : BitVec 4)
  | lwu (h : Hd) (d : Dst) (a : Src) (m : Option (Fin 7)) (off : BitVec 4)
  | ld (h : Hd) (d : Dst) (a : Src) (m : Option (Fin 7)) (off : BitVec 4)
  | lb (h : Hd) (d : Dst) (a : Src) (m : Option (Fin 7)) (off : BitVec 4)
  | lh (h : Hd) (d : Dst) (a : Src) (m : Option (Fin 7)) (off : BitVec 4)
  | lw (h : Hd) (d : Dst) (a : Src) (m : Option (Fin 7)) (off : BitVec 4)
  | sb (h : Hd) (x : Src) (a : Src) (m : Option (Fin 7)) (off : BitVec 4)
  | sh (h : Hd) (x : Src) (a : Src) (m : Option (Fin 7)) (off : BitVec 4)
  | sw (h : Hd) (x : Src) (a : Src) (m : Option (Fin 7)) (off : BitVec 4)
  | sd (h : Hd) (x : Src) (a : Src) (m : Option (Fin 7)) (off : BitVec 4)
  | mset (h : Hd) (k : Fin 7) (a c : Src)
  | mgetb (h : Hd) (d : Dst) (k : Fin 7)
  | mgetl (h : Hd) (d : Dst) (k : Fin 7)
  | csrr (h : Hd) (d : Dst) (csr : BitVec 12)
  | csrw (h : Hd) (csr : BitVec 12) (x : Src)
  | csrs (h : Hd) (csr : BitVec 12) (x : Src)
  | csrc (h : Hd) (csr : BitVec 12) (x : Src)
  | amoadd (h : Hd) (word : Bool) (sc : Scope) (ord : Order) (d : Fin 48) (a : Src)
  | amoand (h : Hd) (word : Bool) (sc : Scope) (ord : Order) (d : Fin 48) (a : Src)
  | amoor (h : Hd) (word : Bool) (sc : Scope) (ord : Order) (d : Fin 48) (a : Src)
  | amoxor (h : Hd) (word : Bool) (sc : Scope) (ord : Order) (d : Fin 48) (a : Src)
  | amomin (h : Hd) (word : Bool) (sc : Scope) (ord : Order) (d : Fin 48) (a : Src)
  | amomax (h : Hd) (word : Bool) (sc : Scope) (ord : Order) (d : Fin 48) (a : Src)
  | amoswap (h : Hd) (word : Bool) (sc : Scope) (ord : Order) (d : Fin 48) (a : Src)
  | amocas (h : Hd) (word : Bool) (sc : Scope) (ord : Order) (d : Fin 48) (a : Src)
  | fence (h : Hd) (sc : Scope) (ord : Order)
  | fenceI (h : Hd)
  | nop (h : Hd)
  | trap (h : Hd) (n : BitVec 6)
  | eret (h : Hd)
  | brk (h : Hd)
  | link (h : Hd) (ch : Fin 4) (a : Src)
  | kick (h : Hd) (ch : Fin 4)
  | fork (h : Hd) (mask : BitVec 4)
  | rdv (h : Hd) (mask : BitVec 4)
  | rdvRelease (t : TileNo) (c : SlotNo)
  | drain (h : Hd)
  | drainComplete (t : TileNo) (c : SlotNo)
  | chseq (h : Hd) (d : Dst) (ch : Fin 4)
  | chstat (h : Hd) (d : Dst) (ch : Fin 4)
  | semi (h : Hd) (n : Fin 64) (a c : Src)
  | semb (h : Hd) (n : Fin 64) (a c : Src)
  | semw (h : Hd) (n : Fin 64) (a c : Src)
  | semwGrant (t : TileNo) (c : SlotNo)
  | semp (h : Hd) (n : Fin 64) (a : Src)
  | semr (h : Hd) (d : Dst) (n : Fin 64) (c : Src)
  | semk (h : Hd) (n : Fin 64)
  | semIdleAction (t : TileNo) (c : SlotNo)
  | tdef (h : Hd) (n : Fin 128) (a : Src)
  | tmod (h : Hd) (n : Fin 128) (a x : Src)
  | tget (h : Hd) (d : Dst) (n : Fin 128) (a : Src)
  | tkill (h : Hd) (n : Fin 128)
  | claim (h : Hd) (a : Src)
  | release (h : Hd) (a : Src)
  | releaseComplete (t : TileNo) (c : SlotNo)
  | aclr (h : Hd) (a : Src)
  | hstat (h : Hd) (d : Dst) (a : Src)
  | partw (h : Hd) (d : Dst)
  | axis (h : Hd) (n : Fin 4) (a : Src)
  | resi (h : Hd) (n : Fin 4) (a : Src)
  | resx (h : Hd) (n : Fin 4) (a : Src)
  | resr (h : Hd) (d : Dst) (n : Fin 4) (c : Src)
  | resclr (h : Hd) (n : Fin 4)
  | bankIdleAction (t : TileNo) (c : SlotNo)
  | qsw (h : Hd) (n : Fin 8) (a : Src)
  | qsr (h : Hd) (d : Dst) (n : Fin 8)
  | covset (h : Hd) (n : Fin 4) (a : Src)
  | covsetIdleAction (t : TileNo) (c : SlotNo)
  | covget (h : Hd) (d : Dst) (n : Fin 4) (c : Src)
  | covstat (h : Hd) (d : Dst) (n : Fin 4) (c : Src)
  | spawn (h : Hd) (a : Src)
  | enq (h : Hd) (a c : Src)
  | enqQueueRoom (t : TileNo) (c : SlotNo)
  | await (h : Hd) (a c : Src)
  | resolve (h : Hd) (a c : Src)
  | yield (h : Hd)
  | endRec (h : Hd)
  | cancel (h : Hd) (a : Src)
  | cancelFlagsSet (t : TileNo) (c : SlotNo)
  | jobCancelComplete (job : Nat)
  | join (h : Hd) (a : Src)
  | leave (h : Hd) (a : Src)
  | gbar (h : Hd) (a : Src)
  | wfe (h : Hd)
  | wfeWake (t : TileNo) (c : SlotNo)
  | sev (h : Hd) (a : Src)
  | ctxsave (h : Hd) (a : Src)
  | ctxrestore (h : Hd) (a : Src)
  | qbind (h : Hd) (a c : Src)
  | qunbind (h : Hd) (a : Src)
  | qunbindIdle (t : TileNo) (c : SlotNo)
  | qdepth (h : Hd) (d : Dst) (a : Src)
  | tprobe (h : Hd) (d : Dst) (a : Src)
  | tinv (h : Hd) (a c : Src)
  | tinvPinsReleased (t : TileNo) (c : SlotNo)
  | burst (h : Hd) (n : BitVec 9)
  | li (h : Hd) (d : Dst) (imm : BitVec 32)
  | liu (h : Hd) (d : Dst) (imm : BitVec 32)
  | lih (h : Hd) (d : Fin 48) (imm : BitVec 32)
  | addl (h : Hd) (d : Fin 48) (imm : BitVec 32)
  | trapEntry (t : TileNo) (c : SlotNo)
  | leafTrapHandling (t : TileNo) (c : SlotNo)
  | fwDomainNumber (t : TileNo) (c : SlotNo)
  | fwSetWatchdog (t : TileNo) (c : SlotNo)
  | fwUnbindSaved (t : TileNo) (c : SlotNo)
  | fwLog (t : TileNo) (c : SlotNo)
  | watchdog (t : TileNo) (c : SlotNo)
  | machineCheck (t : TileNo) (c : SlotNo)
  | contextSwitch (t : TileNo)
  | timeSliceExpiry (t : TileNo)
  | recordPop (t : TileNo) (c : SlotNo) (num : BitVec 16)
  | overflowPushRetry (cl : Fin 48) (i : Nat)
  | preemption (t : TileNo) (c : SlotNo)
  | blockWaitGrant (t : TileNo) (c : SlotNo) (ch : ChainNo)
  | coverageFractionWait (t : TileNo) (c : SlotNo) (ch : ChainNo)
  | loadIteration (t : TileNo) (c : SlotNo)
  | storeIteration (t : TileNo) (c : SlotNo)
  | linkedQueueEntryArrive (t : TileNo) (e : Fin 8)
  | linkedQueueCreditReturn (t : TileNo) (e : Fin 8)
  | queueStallResume (t : TileNo) (c : SlotNo) (ch : ChainNo)
  | matrixFloatKStep (t : TileNo) (c : SlotNo)
  | matrixIntKStep (t : TileNo) (c : SlotNo)
  | vectorIteration (t : TileNo) (c : SlotNo)
  | blockRetire (t : TileNo) (c : SlotNo) (ch : ChainNo)
  | coverageContribution (t : TileNo) (c : SlotNo) (n : Fin 4)
  | nopBlock (t : TileNo) (c : SlotNo) (ch : ChainNo)
  | endBlock (t : TileNo) (c : SlotNo) (ch : ChainNo)
  | markResolve (t : TileNo) (c : SlotNo) (ch : ChainNo)
  | markRendezvous (t : TileNo) (c : SlotNo) (ch : ChainNo)
  | patchAction (t : TileNo) (c : SlotNo) (ch : ChainNo)
  | patchHoldResume (t : TileNo) (c : SlotNo) (ch : ChainNo)
  | patchRangePolicy (t : TileNo) (c : SlotNo) (ch : ChainNo)
  | heldPostApply (t : TileNo) (c : SlotNo) (n : SemNo)
  | rampComplete (t : TileNo)
  | matrixCold (t : TileNo)
  | burstHoldExpiry (t : TileNo)
  | windowMessageRetry (i : Nat)
  | windowAck (i : Nat)
  | lossDetected (i : Nat)
  | tokenRefill (die : Fin 8)
  | bandwidthRequest (t : TileNo)
  | subnetworkPower (t : TileNo) (up : Bool)
  | budgetPeriodEnd (q : Nat)
  | wrap (q : Nat)
  | launch (q : Nat)
  | invoke (q : Nat)
  | copy (q : Nat)
  | signal (q : Nat)
  | wait (q : Nat)
  | waitPoll (q : Nat)
  | indirect (q : Nat)
  | loadModel (q : Nat)
  | modelUnloadComplete (slot : Fin 64)
  | barrier (q : Nat)
  | packetCompletion (q idx : Nat)
  | frameTick
  | windowMessageArrival
  | lossNotice
  | flitReplay
  | permitReturn
  | auditFlit
  | resynchronisation
  | commandLinkMessage
  | tailWrite
  | haltClear
  | hsemTake
  | hsemRelease
  | pwrmodeWrite
  | powerModeChange
  | resetRequest
  | registerWrite
  | firmwareImageLoad
  | coldReset
  | warmReset
  | portReset
  | bankerBoot
  | hbmTraining
  | leafBoot
  | bringupReady
  | thermalStepUp
  | thermalTrip
  | managementReset
  | debugAccess
  | hostMemoryAccess
  | retrainComplete
  | errorCheckAndScrub
  deriving DecidableEq, Repr

end Sys2Proof
end

