-- ==== Sys2Proof/Machine/State.lean ====
section
/-!
DEFINITION. The state of the module as plain data: every register, table, queue and memory that spec/ names, and beside
them the model's own fields (the agenda, the clock, the free-value counter, the stamps that carry releases). The value each
field has after reset is its default here; State.reset at the end of the file is the machine right after a reset.
-/
namespace Sys2Proof.Machine

/-- Why a step stops the machine. -/
inductive Fault
  /-- Raised by step for every turn but a reset while the clocks are stopped by a thermal or coolant trip (R452: a warm
  reset is required). Safe: the hardware does nothing either. -/
  | clocksStopped
  deriving DecidableEq, Repr

/-- Why a step has no meaning. -/
inductive Refusal
  /-- An arm of the dispatch whose instruction is not modelled. Safe. -/
  | notModelled (mnemonic : String)
  deriving DecidableEq, Repr

/-! ## The dealer -/

/-- One hardware-loop level (R95, R102). -/
structure LoopLevel where
  lc  : Word := 0
  ls  : Word := 0
  le  : Word := 0
  act : Bool := false
  deriving DecidableEq, Repr

/-- A modulo register (R95, R126). -/
structure ModReg where
  base : Word := 0
  len  : Word := 0
  deriving DecidableEq, Repr

/-- A release that travels with a record, a flag, a token or a word: the tile and the epoch of its snapshot (R354). -/
abbrev Stamp := Nat × Nat
/-- A frontier: tile and epoch, tiles rising; a tile that is absent stands at NONE (R354). -/
abbrev Frontier := List (Nat × Nat)

/-- A release published at a place in memory (R347): the write of a REL atomic, or of a write after a REL fence. -/
structure Pub where
  key   : Nat
  size  : Nat
  fence : Bool
  scope : Scope
  tile  : Nat
  stamp : Option Stamp
  deriving DecidableEq, Repr

/-- What a dealer waits for. The operands an idle action needs stand beside the kind. -/
inductive WaitKind
  /-- A wait that no step of its own completes: the instruction starts again at the dealer's next turn (R175, R365, R419). -/
  | again
  /-- A request waits at the port for HBM and NET units (R419). -/
  | port (hbm net : Nat)
  | rdv (mask : BitVec 4)
  | drain
  | endDrain
  | semw (n : SemNo) (th k : Nat)
  | semIdle (op : Fin 3) (n : SemNo) (a c : Word)
  | release (run : Word)
  | bank (op : Fin 4) (n : Fin 4) (a : Word)
  | covset (n : Fin 4) (a : Word)
  | enq (a c : Word)
  | cancel (job : Nat)
  | wfe
  | qunbind (a : Word)
  | tinv (pins : List (Nat × Nat))
  | gbar (g gen : Nat)
  | window (msg : Nat)
  deriving DecidableEq, Repr

/-- A dealer waiting in one instruction (R321, R379). -/
structure Wait where
  kind  : WaitKind
  h     : Hd
  len   : Nat
  dst   : Option Dst
  since : Nat
  /-- The instruction ends its group, so that the dealer may leave it for the other context (R321, R367). -/
  ends  : Bool := false
  deriving DecidableEq, Repr

/-- How a trap reached the dealer (R374). -/
inductive TrapKind | d | dplus | l | e | a
  deriving DecidableEq, Repr

/-- Trap state as R376 would write it, in the leaf controller's own record (R378). -/
structure TrapRec where
  kind    : TrapKind
  cause   : Cause
  epc     : Word
  eval    : Word
  latches : List (Option Word)
  elatch  : List Word
  deriving DecidableEq, Repr

/-- Whether the dealer may execute a context that stands in a resident slot. -/
inductive RunState
  /-- Its record runs. -/
  | run
  /-- Its record is SUSPENDED or was queued by YIELD, and the context stays in its slot (R314). -/
  | held
  /-- A cause was delivered to the leaf controller (R375). -/
  | leaf
  /-- Held for the debug interface (R378). -/
  | debug
  deriving DecidableEq, Repr

/-! ## Chains -/

/-- Where an engine fault arose (R377). -/
inductive FaultPoint | iteration | posts | start
  deriving DecidableEq, Repr

/-- The fault of a chain in the FAULTED state (R180). -/
structure ChainFault where
  cause    : Cause
  seq      : Nat
  point    : FaultPoint
  idx      : List Nat
  addr     : Word
  reported : Bool
  toLeaf   : Bool
  deriving DecidableEq, Repr

/-- The state of a chain (R157). -/
inductive ChainState | stopped | running | faulted
  deriving DecidableEq, Repr

/-! ## Control blocks (R53 to R61) -/

/-- The kinds of block, in code order (R54). -/
inductive BlockKind | nop | load | store | matrix | vector | patch | mark | endK
  deriving DecidableEq, Repr

/-- A wait token (R168). -/
structure WaitTok where
  sem  : Fin 64
  thr  : Nat
  take : Nat
  deriving DecidableEq, Repr

/-- A post token: a semaphore and an amount, or a future index (R54, R168, R170). -/
structure PostTok where
  fut : Bool
  sem : Fin 64
  amt : Nat
  deriving DecidableEq, Repr

/-- The header fields of a block (R54). -/
structure BHdr where
  kind    : BlockKind
  psel    : Fin 8
  csel    : Nat
  patchok : Bool
  w0      : Option WaitTok
  w1      : Option WaitTok
  p0      : Option PostTok
  p1      : Option PostTok
  deriving DecidableEq, Repr

/-- An operand descriptor of a MATRIX block (R57); `ring` is the length. -/
structure MatOp where
  base : Nat
  ring : Nat
  lvl  : Nat
  dir  : Nat
  tid  : Nat
  deriving DecidableEq, Repr

/-- A MATRIX body (R57). -/
structure MatBody where
  bnd   : List Nat
  a     : MatOp
  b     : MatOp
  cbase : Nat
  cring : Nat
  clvl  : Nat
  cstr  : List Int
  op    : Nat
  qsen  : Bool
  qsel  : Fin 8
  sat   : Bool
  deriving DecidableEq, Repr

/-- A port descriptor of a VECTOR block (R58). -/
structure VPort where
  kind  : Nat
  type  : Nat
  dir   : Nat
  count : Nat
  base  : Nat
  str   : List Int
  deriving DecidableEq, Repr

/-- A VECTOR body (R58). -/
structure VecBody where
  bnd    : List Nat
  op     : Nat
  mmode  : Nat
  msrc   : Nat
  ragged : Bool
  imm    : BitVec 32
  x      : VPort
  y      : VPort
  z      : VPort
  w      : VPort
  rlt    : Nat
  deriving DecidableEq, Repr

/-- One level of a LOAD or STORE nest (R59). -/
structure CopyLvl where
  bnd   : Nat
  tdim  : Nat
  tstep : Int
  lstr  : Int
  deriving DecidableEq, Repr

/-- A LOAD or STORE body (R59); `lring` is the length. -/
structure CopyBody where
  tid     : Nat
  lkind   : Nat
  combine : Bool
  lring   : Nat
  llvl    : Nat
  ndim    : Nat
  shape   : Bool
  cnten   : Bool
  csem    : Fin 64
  lbase   : Nat
  torg    : Int
  lvls    : List CopyLvl
  deriving DecidableEq, Repr

/-- A PATCH body (R60). -/
structure PatchBody where
  src    : Nat
  tchain : Fin 4
  trel   : Nat
  tfield : Nat
  clamp  : Bool
  deriving DecidableEq, Repr

/-- The body of a block by kind. -/
inductive Body
  | nop
  | endB
  | load (b : CopyBody)
  | store (b : CopyBody)
  | matrix (b : MatBody)
  | vector (b : VecBody)
  | patch (b : PatchBody)
  | rendezvous
  | resolve (addr val : Word)
  deriving DecidableEq, Repr

/-- A block. -/
structure Blk where
  hdr  : BHdr
  body : Body
  deriving DecidableEq, Repr


/-! ## What LINK captures (R173) and how far a block has run -/

/-- The axis declaration (R274). -/
structure AxisDecl where
  en   : Bool := false
  dim  : Nat := 0
  bsq  : Bool := false
  qsel : Fin 8 := 0
  bank : Fin 4 := 0
  deriving DecidableEq, Repr

/-- A ticket of a coverage controller with what LINK captured of it; no fraction means the pending mark (R302 to R304). -/
structure CovCap where
  cov    : Fin 4
  ticket : Nat
  pat    : Nat
  kern   : Nat
  srate  : Bool
  adapt  : Bool
  g      : Nat
  frac   : Option Nat
  deriving DecidableEq, Repr

/-- The effective bases of a tensor identifier (R152). -/
structure TensCap where
  tid  : Fin 128
  base : Word
  s0   : Word
  s1   : Word
  deriving DecidableEq, Repr

/-- A pinned translation (R175): the page, where it lies and whether it is checked. -/
structure Leaf where
  base : Nat
  size : Nat
  pa   : Nat
  chk  : Bool
  deriving DecidableEq, Repr

/-- An outbound window entry (R399). -/
structure OutWin where
  v    : Bool := false
  r    : Bool := false
  w    : Bool := false
  c    : Bool := false
  tb   : Bool := false
  dev  : Nat := 0
  inb  : Fin 256 := 0
  tile : Nat := 0
  job  : Nat := 0
  size : Nat := 0
  deriving DecidableEq, Repr

/-- What a block holds of the dealer state as it stood at its LINK. -/
structure Cap where
  fp     : BitVec 4 := 0
  nbv    : Bool := false
  pred   : Bool := true
  strict : Bool := false
  qs     : BitVec 16 := 0
  axis   : AxisDecl := {}
  covs   : List CovCap := []
  fut0   : Word := 0
  fut1   : Word := 0
  tens   : List TensCap := []
  leaves : List Leaf := []
  fmtA   : Option Nat := none
  fmtB   : Option Nat := none
  /-- The identifiers the block names: its tensor set and its residue tensor (R154, R267). -/
  set    : List (Fin 128) := []
  /-- The target of a PATCH: chain and sequence number (R263). -/
  target : Option (ChainNo × Nat) := none
  /-- The pending patches, by chain and sequence number, that one of the block's wait tokens is ordered after (R268). -/
  after  : List (ChainNo × Nat) := []
  /-- The outbound windows that the envelope leads through, as LINK checked them (R401). -/
  wins   : List (Fin 256 × OutWin) := []
  deriving DecidableEq, Repr

/-- One element of an F4B8 block that was quantised with its block (R279): code, residue after it, and what it counts. -/
structure QElem where
  code : Nat
  e    : Nat
  nan  : Nat
  sat  : Nat
  deriving DecidableEq, Repr

/-- The answer to a window access (R403, R404), with the releases published at the place (R347, R408) and how many of its bytes the
destination could not read (R197). -/
inductive Answer
  | refused
  | lost
  | data (bytes : List Byte) (pubs : List Pub) (bad : Nat)
  deriving DecidableEq, Repr

/-- The message through a window that a STORE is filling (R404): the iteration of its first element, its place, the formats of the
tensor and of the local elements of a combining store (none for a plain one), the codes or bytes so far, and the bytes of the tensor they are. -/
structure OutMsg where
  it    : Nat
  addr  : Word
  comb  : Option (Nat × Nat)
  codes : List Nat
  size  : Nat
  count : Nat
  deriving DecidableEq, Repr

/-- How far a block has run. -/
structure Progress where
  /-- Its waits are granted (R163). -/
  started : Bool := false
  /-- Iterations complete. -/
  iter    : Nat := 0
  /-- Half bytes written and not yet counted into CSEM (R196). -/
  unit    : Nat := 0
  /-- Units of a remote STORE that are held or unacknowledged are not here; this counts them (R196). -/
  owed    : Nat := 0
  /-- Units visited: accumulator tiles in order of first visit (R208), or units whose tag the block has set (R191). -/
  visited : List Nat := []
  /-- Elements of the running segment, the newest first; none is a masked one (R257, R258, R260). -/
  seg     : List (Option Nat) := []
  /-- Unread or unpushed bytes of the queue entries of ports x, y, z and w, or of a copy block (R192, R240). -/
  qx      : List Byte := []
  qy      : List Byte := []
  qz      : List Byte := []
  qw      : List Byte := []
  stalled : Bool := false
  /-- The window message that the current iteration waits for (R195). -/
  await   : Option Nat := none
  /-- The controller the block uses, from its start (R267, R304). -/
  cov     : Option CovCap := none
  /-- The grid read before the first iteration: row lengths and mask, in walk order (R299). -/
  lens    : List Nat := []
  mask    : List Bool := []
  gridded : Bool := false
  /-- The shaping bank's check has passed, and the block has faulted at an iteration after it (R286); the band scale of the block (R278). -/
  banked  : Bool := false
  spoils  : Bool := false
  band    : Nat := 0
  /-- The F4B8 block being written: its scale code and its elements; none where the scale of their band was lost on a link (R197). -/
  scale   : Nat := 0
  quant   : List (Option QElem) := []
  /-- The bands of the rows that a LOAD has begun its hand slots with, by slot (R191), or the scales of the bands that an F4B8 STORE has written
in, by band (R81, R193). -/
  bands   : List (Nat × Nat) := []
  /-- Half bytes lost on a link and not yet counted (R197). -/
  lost    : Nat := 0
  /-- The answers to the window reads of the current iteration, in order (R404). -/
  answers : List Answer := []
  /-- The writes made at the end of the walk are done (R240, R257, R305). -/
  ended   : Bool := false
  /-- The error sum and the sample count of the block, once they are known (R305). -/
  bsum    : Nat := 0
  /-- The value that a PATCH could not write (R270). -/
  refused : Nat := 0
  /-- The message through a window that is being filled (R404). -/
  out     : Option OutMsg := none
  /-- The bytes of the entry being packed that count into CSEM once it has arrived (R196). -/
  packed  : Nat := 0
  bn      : Nat := 0
  deriving DecidableEq, Repr
/-- A piece of an envelope in one address space (R174). -/
structure Span where
  space : Nat
  lo    : Int
  hi    : Int
  write : Bool
  /-- The page must be checked (R153). -/
  chk   : Bool
  deriving DecidableEq, Repr

/-- One queued block: its linked copy, its current copy, what LINK captured and how far it has run (R163 to R175). -/
structure Entry where
  seq   : Nat
  /-- The hand slots and accumulator tiles the block names in its envelope (R138, R139). -/
  slots : BitVec 384
  tiles : BitVec 192
  /-- The number of the LINK that queued it, over the module; and the pages it pinned: die, base and size code (R175, R391). -/
  linkId : Nat
  pins   : List (Fin 8 × Nat × Nat)
  /-- The block as linked, and its queued copy, which a PATCH may change (R162). -/
  linked : Blk
  cur    : Blk
  cap    : Cap
  /-- The scratchpad bytes of its envelope: first and end offsets (R132, R174). -/
  sp     : List (Nat × Nat)
  /-- The memory of its envelope, as it was linked (R174, R267). -/
  spans  : List Span := []
  run    : Progress := {}
  deriving DecidableEq, Repr

/-- One chain of a context (R156 to R158). -/
structure Chain where
  state : ChainState := .stopped
  fault : Option ChainFault := none
  seq   : Nat := 0
  queue : List Entry := []
  /-- The pending patches that a retired block of the chain was ordered after (R268). -/
  after : List (ChainNo × Nat) := []
  deriving DecidableEq, Repr


/-! ## Semaphores, banks and controllers -/

/-- A bound region (R224): kind 1 scratchpad bytes, 2 hand slots, 3 accumulator tiles. -/
structure Region where
  kind : Nat
  base : Nat
  len  : Nat
  deriving DecidableEq, Repr

/-- A place in a semaphore's wait order: a block's token, or the dealer (R169). -/
inductive Waiter
  | block (ch : ChainNo) (seq : Nat)
  | dealer
  deriving DecidableEq, Repr

/-- An arrival held at the ceiling (R217, R219): an amount, whether its bytes are lost, and the block of the context whose remote
STORE it counts, if it is one (R196). -/
structure HeldUnit where
  amount : Nat
  lost   : Bool
  ack    : Option (ChainNo × Nat)
  stamp  : Option Stamp := none
  deriving DecidableEq, Repr

/-- A region semaphore (R215). HELD is set while an arrival is held. -/
structure Sem where
  phaseMode : Bool := false
  count     : Nat := 0
  ceil      : Nat := 0
  loss      : Nat := 0
  expect    : Nat := 0
  phase     : Bool := false
  cur       : Nat := 0
  curl      : Nat := 0
  lostb     : Nat := 0
  n         : Nat := 0
  pb        : Nat := 0
  ext       : Nat := 0
  held      : List HeldUnit := []
  bind      : Option Region := none
  order     : List Waiter := []
  /-- Phases completed and phases taken since SEMI, in their order of completion (R221). -/
  done      : Nat := 0
  taken     : Nat := 0
  /-- Releases that came with external arrivals, by the phase they were counted into (R358, R408). -/
  stamps    : List (Nat × Stamp) := []
  deriving DecidableEq, Repr

/-- A residue bank (R282). -/
structure ResBank where
  valid  : Bool := false
  dim    : Nat := 0
  tid    : Nat := 0
  format : Nat := 0
  bscale : Nat := 0
  band   : Nat := 0
  next   : Nat := 0
  e      : Vector (BitVec 32) 64 := Vector.replicate 64 0
  sp     : Vector Byte 64 := Vector.replicate 64 0
  deriving DecidableEq, Repr

/-- A coverage controller (R297). `hist` holds the index of the latest update and of the one before it; `early` the contributions
held until earlier tickets are applied (R306). -/
structure Cov where
  frac   : Nat := 0
  pat    : Nat := 0
  kern   : Nat := 0
  srate  : Bool := false
  adapt  : Bool := false
  g      : Nat := 0
  tlo    : BitVec 32 := 0
  thi    : BitVec 32 := 0
  period : Nat := 1
  esum   : BitVec 32 := 0
  ns     : Nat := 0
  tkt    : Nat := 0
  appl   : Nat := 0
  hist   : Nat × Nat := (0, 0)
  lastm  : BitVec 32 := 0
  upd    : Nat := 0
  start  : Nat := 0
  early  : List (Nat × Nat × Nat) := []
  deriving DecidableEq, Repr


/-! ## Contexts -/

/-- A context: everything one running continuation record owns on a tile (R95, R99, R365, R371). -/
structure Ctx where
  num      : BitVec 16
  job      : Nat
  record   : Word
  cls      : Fin 4
  run      : RunState := .run
  regs     : Vector Word 48 := Vector.replicate 48 0
  preds    : BitVec 8 := 1
  /-- Latch entries of the current group, the newest first (R42). -/
  latches  : List (Option Word) := []
  mods     : Vector ModReg 7 := Vector.replicate 7 {}
  loops    : Vector LoopLevel 2 := Vector.replicate 2 {}
  pc       : Word
  partw    : BitVec 32 := 0x3022
  fpctl    : BitVec 32 := 0
  nbv      : BitVec 32 := 0
  nancnt   : BitVec 32 := 0
  satcnt   : BitVec 32 := 0
  errmode  : BitVec 32 := 0
  dropcnt  : BitVec 32 := 0
  epc      : Word := 0
  ecause   : BitVec 32 := 0
  eval     : Word := 0
  tvec     : Word := 0
  elatch   : Vector Word 8 := Vector.replicate 8 0
  chainbase : BitVec 32 := 0
  chainlim : BitVec 32 := 0
  dbgctl   : BitVec 32 := 0
  /-- The sticky event flag (R330) and the releases of the SEVs that set it. -/
  event    : Bool := false
  evStamps : List Stamp := []
  /-- The group the context is a member of (R328). -/
  grp      : Option Nat := none
  wait     : Option Wait := none
  /-- When the context last gained the dealer, and when it lost it or entered its slot (R321). -/
  gained   : Nat := 0
  lost     : Nat := 0
  /-- An instruction that began with no handler active has still to be followed by STEP: one with which the context left its slot, or a TRAP or
BREAK, once its own trap is over (R383, log 5). -/
  stepDue  : Bool := false
  /-- A CTXSAVE of the context waits for its engines to stop (R368, R384). -/
  stopping : Bool := false
  /-- Marked by the leaf for pre-emption (R368), and marked because its queue is descheduled (R426). -/
  marked   : Bool := false
  desched  : Bool := false
  leafTrap : Option TrapRec := none
  /-- Asynchronous causes not yet delivered (R374, kind A). -/
  asyncs   : List Cause := []
  /-- Release fences of this dealer, by scope, with their snapshots (R347). -/
  fences   : List (Scope × Option Stamp) := []
  /-- Releases published at the words this dealer has read (R347). -/
  seen     : List Pub := []
  /-- The activity counters, in the order of R424. -/
  activity : Vector Nat 9 := Vector.replicate 9 0
  chains   : Vector Chain 4 := Vector.replicate 4 {}
  /-- The hand slots and accumulator tiles the context holds (R138). -/
  heldSlots : BitVec 384 := 0
  heldTiles : BitVec 192 := 0
  /-- The tensor identifier table: 128 entries of 32 doublewords (R148). -/
  tit      : Vector (Vector Word 32) 128 := Vector.replicate 128 (Vector.replicate 32 0)
  sems     : Vector Sem 64 := Vector.replicate 64 {}
  qs       : Vector (BitVec 16) 8 := Vector.replicate 8 0x3F80
  axis     : AxisDecl := {}
  banks    : Vector ResBank 4 := Vector.replicate 4 {}
  covs     : Vector Cov 4 := Vector.replicate 4 {}
  /-- The relocation registers (R152, R441). -/
  reloc    : Vector Word 16 := Vector.replicate 16 0
  /-- The answers to the window accesses of the instruction that waits for them, in order (R403). -/
  answers  : List Answer := []
  deriving DecidableEq, Repr

/-- The registers of a slot in which no context stands: their reset values (R7, log 112). -/
def Ctx.blank : Ctx := { num := 0, job := 0, record := 0, cls := 0, pc := 0 }

/-! ## Tiles, clusters and dies -/

/-- The tag of a hand slot (R136). -/
structure SlotTag where
  valid     : Bool := false
  format    : BitVec 4 := 0
  tid       : BitVec 7 := 0
  bandscale : BitVec 16 := 0
  band      : BitVec 16 := 0
  deriving DecidableEq, Repr

/-- The tag of an accumulator tile (R137). -/
structure AccTag where
  format  : BitVec 4 := 0
  written : Bool := false
  deriving DecidableEq, Repr

/-- One entry of a dealer TLB (R390). -/
structure TlbEntry where
  job  : Nat
  base : Nat
  size : Nat
  pa   : Nat
  w    : Bool
  x    : Bool
  chk  : Bool
  deriving DecidableEq, Repr

/-- What a bound endpoint leads to (R412). -/
structure EpBind where
  job      : Nat
  num      : BitVec 16
  consumer : Bool
  tile     : Nat
  ep       : Fin 8
  /-- The peer's device, when it is another one. -/
  dev      : Option Nat
  deriving DecidableEq, Repr

/-- A linked-queue endpoint (R409, R410). A consumer holds `entries`; `flight` are pushed and not yet arrived; a producer holds
`credits`, and `back` are returned and not yet arrived. Bindings and unbindings are stamped, to tell which came last. -/
structure Endpoint where
  bind    : Option EpBind := none
  bound   : Nat := 0
  unbound : Nat := 0
  entries : List (List Byte) := []
  flight  : List (List Byte) := []
  credits : Nat := 32
  back    : Nat := 0
  /-- What other devices have reported that they have bound to this endpoint since it was last unbound: device, tile, endpoint and whether it is
the consumer (R409). -/
  far     : List (Nat × Nat × Fin 8 × Bool) := []
  deriving DecidableEq, Repr

/-- The power states of the matrix engine (R213). -/
inductive MxState | cold | ramp | full
  deriving DecidableEq, Repr

/-- The matrix engine's power: its state, when it entered it, the BURST hold with the cycle since which one has been in force, when its last
iteration ends, and whether a block fills the ramp (R213, R214). -/
structure MxPower where
  state : MxState := .cold
  since : Nat := 0
  hold  : Nat := 0
  idle  : Nat := 0
  from' : Nat := 0
  filled : Bool := false
  /-- The context whose BURST or whose block caused the ramp: job and number. -/
  owner : Option (Nat × BitVec 16) := none
  deriving DecidableEq, Repr

/-- A line of a data cache (R108): its first byte's address, its bytes, the releases that a read of it takes its value from (R347), and which of
its doublewords, the code words of the cache, cannot be read (R381). -/
structure Line where
  base  : Nat
  bytes : List Byte
  pubs  : List Pub
  bad   : List Nat := []
  deriving DecidableEq, Repr

/-- What waits at a tile's port (R419): a step of the dealer of a slot, or of a block by its chain and sequence number, for the context that made it,
with its requests in issue order as HBM and NET units, how many of them have left, and what those have paid. -/
structure PortReq where
  slot  : SlotNo
  who   : Option (ChainNo × Nat)
  job   : Nat
  num   : BitVec 16
  reqs  : List (Nat × Nat)
  left  : Nat := 0
  paidH : Nat := 0
  paidN : Nat := 0
  deriving DecidableEq, Repr

/-- One tile: two resident contexts, the shared stores' tags, the caches, the epoch and its frontier. -/
structure Tile where
  slots   : Vector (Option Ctx) 2 := Vector.replicate 2 none
  /-- The registers of the three slots while no context stands in them (R7, R24, log 112). -/
  idle    : Vector Ctx 3 := Vector.replicate 3 Ctx.blank
  /-- The slot whose context has the dealer (R321). -/
  cur     : SlotNo := 0
  dkb     : Vector (BitVec 32) 4 := Vector.replicate 4 0
  dkl     : Vector (BitVec 32) 4 := Vector.replicate 4 0
  dkt     : Vector (BitVec 32) 4 := Vector.replicate 4 0
  /-- Lines of the data cache, at most 512, the newest first (R18, R108). -/
  dcache  : List Line := []
  /-- The write stamp of the last FENCE.I (R361), and the overwritten words that the instruction cache has delivered since, with the write stamp
  up to which each had its word, the newest first: at most 16384, the words of 64 KiB (R18, R109, log 7). -/
  ifence  : Nat := 0
  icache  : List (Nat × Nat) := []
  /-- The doublewords of the instruction cache that cannot be read, by their physical addresses (R381). -/
  ibad    : List Nat := []
  /-- The dealer TLB, at most 512 entries, the newest first (R390). -/
  tlb     : List TlbEntry := []
  ep      : Nat := 0
  fr      : Frontier := []
  /-- The last 32 snapshots, the newest first (R354). -/
  ring    : List (Nat × Frontier) := []
  slotTags : Vector SlotTag 384 := Vector.replicate 384 {}
  accTags  : Vector AccTag 192 := Vector.replicate 192 {}
  /-- The job whose scratchpad the tile holds (R130, R141). -/
  padJob   : Option Nat := none
  /-- The eight linked-queue endpoints (R409). -/
  eps      : Vector Endpoint 8 := Vector.replicate 8 {}
  /-- The slot that supplied the block each engine ran last (R185). -/
  last     : Vector (Option SlotNo) 4 := Vector.replicate 4 none
  mx       : MxPower := {}
  /-- The requests that wait at the tile's port, in issue order (R419). -/
  port     : List PortReq := []
  /-- Which subnetworks of the tile's router are powered (R423). -/
  subs     : Vector Bool 4 := #v[true, false, false, false]
  /-- For each subnetwork the last occupancy that its buffers reported, 0 below one-eighth, 2 above three-quarters and 1 between, and the cycle
  since which it holds (R423). -/
  occ      : Vector (Nat × Nat) 4 := Vector.replicate 4 (0, 0)
  deriving DecidableEq, Repr

/-- One chunk's entry in the grant map of the job it is granted to (R344, R345). -/
structure Grant where
  job     : Nat
  write   : Bool
  checked : Bool
  deriving DecidableEq, Repr

/-- What the leaf controller gets of a PATCH whose value is not admitted (R270): the context, the patch and its target as chain and sequence
number, the field, the value, and the least and the greatest value admitted. -/
structure RangeRec where
  job    : Nat
  num    : BitVec 16
  patch  : ChainNo × Nat
  target : ChainNo × Nat
  field  : Nat
  value  : Nat
  least  : Nat
  most   : Nat
  deriving DecidableEq, Repr

/-- One cluster: its pool's grants and what its leaf controller holds. -/
structure Cluster where
  grants   : Vector (Option Grant) 32 := Vector.replicate 32 none
  /-- Jobs whose cancel flag stands in this cluster's job table (R327). -/
  cancels  : List Nat := []
  /-- The overflow queue of each class (R319), the oldest first: job and record address. -/
  overflow : Vector (List (Nat × Word)) 4 := Vector.replicate 4 []
  /-- Records the leaf has still to push (R319): job, record address, tile. -/
  pushes   : List (Nat × Word × TileNo) := []
  /-- The PATCH_RANGE faults that the leaf controller has received, the newest first (R270). -/
  ranges   : List RangeRec := []
  /-- The command link to the leaf and back (R446): permits, messages under way, messages sent since the last audit. -/
  cmdDown  : Nat × List (List Byte) × Nat := (8, [], 0)
  cmdUp    : Nat × List (List Byte) × Nat := (8, [], 0)
  /-- Permit repairs of the two links (R446). -/
  cmdFixes : Nat := 0
  deriving DecidableEq, Repr

/-- One pin-table entry (R391): the counts are kept with the block that took the pin. -/
structure Pin where
  job   : Nat
  base  : Nat
  size  : Nat
  count : Nat
  deriving DecidableEq, Repr

/-- A tenant's two balances on one die (R418), and whether it consumed or waited in this period. -/
structure Bucket where
  tenant : Fin 64
  hbm    : Nat
  net    : Nat
  hbmUse : Bool := false
  netUse : Bool := false
  deriving DecidableEq, Repr

/-- One die. -/
structure Die where
  grants  : Vector (Option Grant) 128 := Vector.replicate 128 none
  pins    : List Pin := []
  poolHbm : Nat := 0
  poolNet : Nat := 0
  buckets : List Bucket := []
  /-- When the period of R420 began, in arithmetic cycles. -/
  period  : Nat := 0
  /-- The hottest junction that the die reported, in degrees (R452, R455). -/
  temp    : Nat := 0
  deriving DecidableEq, Repr

/-! ## The firmware processors -/

/-- The mode of a firmware processor (R445). -/
inductive FwMode | user | supervisor | machine
  deriving DecidableEq, Repr

/-- A firmware processor (R445): its registers, its mode and its private SRAM, in the canonical form of memory. Its CSRs are listed by
number where they are not 0. A leaf controller uses the low 32 bits of a register. -/
structure Proc where
  started : Bool := false
  mode    : FwMode := .machine
  pc      : Word := 0
  x       : Vector Word 32 := Vector.replicate 32 0
  f       : Vector Word 32 := Vector.replicate 32 0
  csrs    : List (Nat × Word) := []
  sram    : List Host.Cell := []
  deriving DecidableEq, Repr

/-- An operator's public key in its one-time fuses, and whether it is revoked (R447). -/
structure Fuse where
  key     : Nat := 0
  revoked : Bool := false
  deriving DecidableEq, Repr

/-! ## The module -/

/-- A group (R328); a group that is not listed has MEMB 0. -/
structure Grp where
  id     : Nat
  memb   : Nat := 0
  arr    : Nat := 0
  gen    : Nat := 0
  job    : Nat := 0
  /-- The releases of the arrivals so far, and those of the last released barrier (R347). -/
  stamps : List Stamp := []
  past   : List Stamp := []
  deriving DecidableEq, Repr

/-- One error record (R451). -/
structure ErrRec where
  cause : Nat
  phys  : Bool
  src   : Nat
  ctx   : Nat
  job   : Nat
  frame : Word
  addr  : Word
  info  : Word
  deriving DecidableEq, Repr

/-- The power modes (R23), the slowest first. -/
inductive PowerMode | economy | balanced | full
  deriving DecidableEq, Repr

/-- Which agent takes the next step. The agenda is the model's form of the freedom spec/ leaves to the agents (R339). -/
inductive Turn
  /-- The dealer of a tile executes one instruction. -/
  | dealer (t : TileNo)
  /-- Another agent, or an outside event, takes the step a row of the table names. -/
  | event (i : Instr) (inp : Input := {})
  /-- Time passes: arithmetic cycles. -/
  | pass (cycles : Nat)
  /-- The host writes its own memory behind a Fernen port. -/
  | host (port : Fin 2) (addr : Nat) (bytes : List Byte)
  deriving DecidableEq, Repr

/-- Why a context was streamed out: its record suspended or yielded (R314), it was pre-empted while its record ran (R368), or it
executed CTXSAVE (R384). -/
inductive SaveKind | suspended | preempted | program
  deriving DecidableEq, Repr

/-- A saved context (R365, R371): the context itself, its area where CTXSAVE wrote one, and what went with it of its tile's stores:
the tags of its units, and the bytes of its units, companions and scratchpad by their places in a tile. -/
structure Saved where
  job   : Nat
  num   : BitVec 16
  kind  : SaveKind
  area  : Word
  tile  : TileNo
  ctx   : Ctx
  spinc : Bool := false
  slotTags : List (Fin 384 × SlotTag) := []
  accTags  : List (Fin 192 × AccTag) := []
  cells : List Host.Cell := []
  /-- The release with which the context left its tile, and which its next instruction anywhere follows (R346, R350). -/
  stamp : Option Stamp := none
  /-- The places of `cells` that could not be read (R381). -/
  bad   : List Nat := []
  /-- The endpoints whose bindings lead to the context's own tile, which go with it (R411). -/
  eps   : List (Fin 8 × Endpoint) := []
  /-- Where the leaf's area of the context lies in HBM4 (R370). -/
  pool  : Option Nat := none
  /-- The number in `State.forms` of the context as it was written into its area. -/
  form  : Option Nat := none
  deriving DecidableEq, Repr


end Sys2Proof.Machine

namespace Sys2Proof.Config
open Sys2Proof.Machine

/-- A byte of the device's own form of a saved context (R371, which gives the regions and not the form): log 14. -/
opaque formByte : Saved → Nat → Byte
/-- The context that the bytes of a save area hold in the form of another device (R371): log 14. -/
opaque formContext : List Byte → Option Saved

end Sys2Proof.Config

namespace Sys2Proof.Machine

/-! ## Windows and messages -/

/-- An inbound entry (R400). -/
structure InWin where
  v      : Bool := false
  r      : Bool := false
  w      : Bool := false
  c      : Bool := false
  arrk   : Nat := 0
  bound  : Bool := false
  srcdev : Nat := 0
  anysrc : Bool := false
  job    : Nat := 0
  base   : Word := 0
  size   : Nat := 0
  btile  : Nat := 0
  bsem   : Fin 64 := 0
  bctx   : BitVec 16 := 0
  deriving DecidableEq, Repr

/-- What a window message does at its destination. -/
inductive MsgOp
  | read (n : Nat)
  | write (bytes : List Byte)
  /-- A combining store of consecutive elements: format, mode snapshot, the local format and the codes to add (R194, R404). -/
  | combine (ty : Nat) (fp : BitVec 4) (loc : Nat) (xs : List Nat)
  /-- An atomic: operation code, size, operand, compare value (R363, R364). -/
  | atomic (op : Nat) (n : Nat) (x c : Word)
  /-- One half of a byte of an F4B8 tensor, the upper one or the lower one (R187, R193). -/
  | half (hi : Bool) (v : Nat)
  /-- An entry of a linked queue for an endpoint of another device (R410). -/
  | entry (bytes : List Byte) (tile : Nat) (ep : Fin 8)
  /-- A credit that goes back to a producer endpoint of another device (R410). -/
  | credit (tile : Nat) (ep : Fin 8)
  deriving DecidableEq, Repr

/-- How a message stands: under way or held, or with its answer on the way back. -/
inductive MsgState
  | going
  /-- It met a hold and is retried (R402). -/
  | held
  | refused
  /-- The link lost it or its answer (R397, R405). -/
  | lost
  /-- Refused or lost, and reported: the block sends it again once its chain is started again (R180). -/
  | parked
  | done (bytes : List Byte) (nan sat : Nat) (pubs : List Pub) (bad : Nat)
  deriving DecidableEq, Repr

/-- A message through a window, from its issue to its answer (R402 to R404). `chain` is the block that sent it, with the
number of its iteration; a message without one is the dealer's. -/
structure Msg where
  id    : Nat
  tile  : TileNo
  job   : Nat
  num   : BitVec 16
  chain : Option (ChainNo × Nat × Nat)
  win   : Fin 256
  dev   : Nat
  inb   : Fin 256
  off   : Nat
  op    : MsgOp
  addr  : Word
  stamp : Option Stamp
  state : MsgState := .going
  /-- The bytes that count into the block's CSEM at acknowledgement (R196). -/
  count : Nat := 0
  /-- The network class (R422) and, for another device, the flits that have still to be sent (R396, R398). -/
  cls   : Fin 4 := 0
  flits : Nat := 0
  /-- The release fences of a dealer before the access (R347). -/
  fences : List (Scope × Option Stamp) := []
  deriving DecidableEq, Repr

/-- One channel of one direction of a Roleno port, as its sender and as the receiver of the other direction (R398). -/
structure Chan where
  permits  : Nat := 64
  /-- Flits sent since the last return was received, and permits withheld from the next returns. -/
  sent     : Nat := 0
  withheld : Nat := 0
  /-- Occupied buffers, and returns sent since the last one an audit acknowledged. -/
  occupied : Nat := 0
  returns  : Nat := 0
  deriving DecidableEq, Repr

/-- A port's link: its channels, the flits sent since the last audit flit, the failures of the flit being replayed, and whether it
retrains (R397, R398). -/
structure Link where
  chans : Vector Chan 4 := Vector.replicate 4 {}
  flits : Nat := 0
  /-- Flits of answers and notices that wait for permits, by channel (R398). -/
  out   : Vector Nat 4 := Vector.replicate 4 0
  /-- What the last audit flit carried for each channel (R398). -/
  audit : List Nat := []
  tries : Nat := 0
  retraining : Bool := false
  deriving DecidableEq, Repr

/-! ## Shares and the front end -/

/-- A tenant's share register (R417). -/
structure Share where
  hbmw : Nat := 1
  netw : Nat := 1
  job  : Nat := 0
  deriving DecidableEq, Repr

/-- What a LOAD_MODEL packet has to do (R442): its slot, an unload or the image to load, and whether it holds lock 1. -/
structure Load where
  slot   : Fin 64
  unload : Bool
  image  : Nat
  bytes  : Nat
  locked : Bool := false
  deriving DecidableEq, Repr

/-- A packet that has been taken and started and has not completed (R436 to R438); `status` is there once what completes it has come
about. -/
structure Pkt where
  type   : Nat
  idx    : Nat
  sigen  : Bool
  sig    : Nat
  /-- The grid of a LAUNCH or INVOKE: its job and its grid word. -/
  grid   : Option (Nat × Nat) := none
  /-- The model slot that an INVOKE runs, or that a LOAD_MODEL unloads. -/
  slot   : Option (Fin 64) := none
  /-- The work of a LOAD_MODEL that has not completed. -/
  load   : Option Load := none
  /-- A record of the grid ended by an unhandled fault (R436). -/
  fault  : Bool := false
  status : Option Nat := none
  deriving DecidableEq, Repr

/-- An open indirect buffer (R444): the packet that opened it, the address of the next entry and the entries left. -/
structure Indirect where
  pkt  : Pkt
  addr : Nat
  left : Nat
  deriving DecidableEq, Repr

/-- A WAIT that holds its queue (R437). -/
structure QWait where
  pkt   : Pkt
  addr  : Nat
  value : Word
  ge    : Bool
  deriving DecidableEq, Repr

/-- A command queue: its descriptor (R432), its budget (R425), and the front end's place in it. -/
structure Queue where
  base   : Nat := 0
  logsz  : Nat := 0
  space  : Nat := 0
  en     : Bool := false
  halt   : Bool := false
  hcause : Nat := 0
  job    : Nat := 0
  ptroot : Nat := 0
  head   : Nat := 0
  tail   : Nat := 0
  malcnt : Nat := 0
  wdog   : Nat := 26
  budget : Nat := 0
  per    : Nat := 2
  desch  : Bool := false
  /-- Energy charged in this period, in 1/512 pJ, and when the period began, in time units. -/
  used   : Nat := 0
  began  : Nat := 0
  /-- The period has ended: the cycle and the time of the frame tick that ended it (R425). -/
  due    : Option (Nat × Nat) := none
  stack  : List Indirect := []
  wait   : Option QWait := none
  started : List Pkt := []
  /-- Parent grid words of the entries that ENQ has placed, by their index (R317). -/
  parents : List (Nat × Nat) := []
  deriving DecidableEq, Repr

/-- The states of a model slot (R441). -/
inductive SlotState | free | loading | resident | evicting
  deriving DecidableEq, Repr

/-- A model slot (R441). -/
structure Model where
  state : SlotState := .free
  job   : Nat := 0
  pbase : Nat := 0
  bytes : Nat := 0
  live  : Nat := 0
  deriving DecidableEq, Repr

/-- One HSEM lock (R431): 0 free, 1 port 0, 2 port 1, 3 banker; and which port the toggle favours. -/
structure HsemLock where
  owner  : Fin 4 := 0
  toggle : Fin 2 := 0
  deriving DecidableEq, Repr

/-- The counters of an error source (R430, R451): corrected, uncorrected, replays, retrains, permit repairs. -/
abbrev Counters := Vector Nat 5

/-- What a new context of a grid starts with: partition, chain memory, tensors, semaphores, relocation registers (R129, R149, R160,
R216, R441). -/
structure Tmpl where
  partw    : BitVec 32 := 0x3022
  clb      : BitVec 32 := 0
  cll      : BitVec 32 := 0
  tens     : List (Fin 128 × Vector Word 32) := []
  semInit  : List (Fin 64 × Sem) := []
  reloc    : Vector Word 16 := Vector.replicate 16 0
  deriving DecidableEq, Repr

/-- A job (R439): what its launch gave it. -/
structure Job where
  id       : Nat
  ptbase   : Nat
  tenant   : Fin 64
  queue    : Fin 256
  timed    : Bool := false
  /-- The watchdog period in dealer cycles (R379). -/
  watchdog : Nat := 67108864
  /-- NUMs of its live contexts (R370). -/
  live     : List (BitVec 16) := []
  /-- The patch policy: 0 CLAMP, 1 RELINK, 2 ABORT (R270); and whether an unhandled fault cancels the job (R378). -/
  ppol     : Nat := 0
  fcancel  : Bool := false
  /-- What the contexts of each grid start with, by the address of its grid word, the newest first. -/
  tmpls    : List (Nat × Tmpl) := []
  /-- Scratchpad images of the launch (R130): offset and bytes. -/
  spData   : List (Nat × List Byte) := []
  /-- Tiles of the job: first and count (R440). -/
  first    : Nat := 0
  ntile    : Nat := 0
  /-- Records of a timetabled job that have been pushed (R329). -/
  pushed   : List Nat := []
  /-- The context pool in HBM4: first byte and size (R370, R439). -/
  pool     : Nat × Nat := (0, 0)
  deriving DecidableEq, Repr

end Sys2Proof.Machine


namespace Sys2Proof.Machine

/-- The state of the module. -/
structure State where
  /-- The turns still to come, in order; when none is left the dealer of tile `cur` moves (log 1). -/
  agenda   : List Turn
  /-- The data of the outer event being taken. -/
  input    : Input
  /-- The tile whose dealer took the last dealer turn. -/
  cur      : TileNo
  tiles    : Vector Tile 384
  clusters : Vector Cluster 48
  dies     : Vector Die 8
  /-- All memory, in canonical form: addresses rising, no zero byte listed (log 3). -/
  mem      : List Host.Cell
  /-- First bytes of uncorrectable code words (R381). -/
  poison   : List Nat
  /-- Race tags by granule number, where they differ from 0x01FF01FF (R353). -/
  tags     : List (Nat × BitVec 32)
  /-- The carve-outs of 16 MiB that hold the tags of checked pages of HBM4: first byte, and the GiB that each serves (R20, R388). -/
  carve    : List (Nat × Nat)
  pubs     : List Pub
  /-- Releases that travel with a record or a future, by physical address (R315, R323). -/
  carried  : List (Nat × List Stamp)
  /-- The AR fences and atomics so far, the last of each tile and scope (R348). -/
  so       : List (Scope × Nat × Stamp)
  /-- Overwritten words of fetchable memory: address, old word, write stamp (R109, log 7). -/
  hist     : List (Nat × BitVec 32 × Nat)
  wstamp   : Nat
  frame    : Word
  frameAt  : Nat
  jobs     : List Job
  /-- WRITE and CHECKED of the entries of grant maps whose GRANT is 0, where they are not both 0: job, chunk address and the two fields (R344). -/
  ungranted : List (Nat × Nat × Bool × Bool)
  groups   : List Grp
  saved    : List Saved
  /-- The contexts that stand in the save areas written so far, in order (R371, log 14). -/
  forms    : List Saved
  /-- The logs of the jobs (R448). -/
  logs     : List (Nat × List Word)
  errRing  : List ErrRec
  lostRec  : Nat
  mode     : PowerMode
  /-- Arithmetic cycles since reset (R5), and time in units of 1/198 ns. -/
  now      : Nat
  time     : Nat
  /-- The counter behind free values (log 4). -/
  free     : Nat
  /-- The requests of the step being taken, in issue order: their HBM and NET units (R418, R419). -/
  reqs     : List (Nat × Nat)
  tripped  : Bool
  /-- LINKs so far. -/
  links    : Nat
  /-- The window tables (R399, R400), the domain number and, for each domain number, the ports that lead there (R395). -/
  outWin   : List (Fin 256 × OutWin)
  inWin    : List (Fin 256 × InWin)
  domain   : Nat
  routes   : List (Nat × List Nat)
  /-- Messages in flight, and how many were sent. -/
  msgs     : List Msg
  msgNo    : Nat
  /-- Bindings and unbindings of endpoints so far. -/
  bindNo   : Nat
  /-- Roleno ports 0 to 15, then Fernen ports 0 and 1. -/
  ports    : Vector Link 18
  /-- The tenant share registers (R417) and the event weights in pJ, in the order of R424. -/
  shares   : Vector Share 64
  weights  : Vector Nat 9
  queues   : Vector Queue 256
  models   : Vector Model 64
  hsems    : Vector HsemLock 16
  /-- The counters of stacks 0 to 15, Roleno ports 0 to 15 and Fernen ports 0 and 1 (R451); records written, modulo 2^32; ERRSEL. -/
  counters : Vector Counters 34
  errCount : Nat
  errSel   : Vector (Fin 4) 2
  /-- PWRMODE (R430): REQ, LIMIT and PEND; a step down that is due, and since when every junction has been below 90 degrees (R452). -/
  req      : PowerMode
  limit    : PowerMode
  pend     : Bool
  hot      : Bool
  coolAt   : Option Nat
  /-- Module power in 10 W and coolant flow in 0.1 L/min, as the management interface shows them (R455). -/
  power    : Nat
  flow     : Nat
  /-- The step of R450 that is done; READY, boot failure; the stacks that are fenced; a warm reset that the host has asked for. -/
  boot     : Nat
  ready    : Bool
  bootFail : Bool
  fenced   : List Nat
  asked    : Bool
  /-- The firmware processors: 0 the banker, 1 + c the leaf of cluster c (R445); the fused keys (R447). -/
  procs    : Vector Proc 49
  fuses    : Vector Fuse 4
  /-- Time of the last frame tick, and the timetabled jobs that have held back the tick that is due (R329). -/
  frameT   : Nat
  slips    : List Nat
  /-- What the last read by a port, the debug port or another device delivered. -/
  answer   : List Byte
  /-- Loss notices that no acknowledgement has come for (R405): device, inbound entry, offset, bytes and sum of amounts. -/
  notices  : List (Nat × Nat × Nat × Nat × Nat)
  deriving DecidableEq, Repr

end Sys2Proof.Machine

namespace Sys2Proof.Machine

/-- The module right after a cold reset (R449): every register, pool, tag and table at its reset value, nothing in memory, and
the bring-up of R450 still to come (log 1, 3). -/
def State.reset : State where
  agenda := [.event .bankerBoot, .event .hbmTraining, .event .leafBoot, .event .bringupReady]
  input := {}
  cur := 0
  tiles := Vector.replicate 384 {}
  clusters := Vector.replicate 48 {}
  dies := Vector.replicate 8 {}
  mem := []
  poison := []
  tags := []
  carve := []
  pubs := []
  carried := []
  so := []
  hist := []
  wstamp := 1
  frame := 0
  frameAt := 0
  jobs := []
  ungranted := []
  groups := []
  saved := []
  forms := []
  logs := []
  errRing := []
  lostRec := 0
  mode := .economy
  now := 0
  time := 0
  free := 0
  reqs := []
  tripped := false
  links := 0
  outWin := []
  inWin := []
  domain := 0
  routes := []
  msgs := []
  msgNo := 0
  bindNo := 0
  ports := Vector.replicate 18 {}
  shares := Vector.replicate 64 {}
  weights := #v[64800, 48000, 40000, 600, 350, 40, 1280, 640, 25]
  queues := Vector.replicate 256 {}
  models := Vector.replicate 64 {}
  hsems := Vector.replicate 16 {}
  counters := Vector.replicate 34 (Vector.replicate 5 0)
  errCount := 0
  errSel := Vector.replicate 2 0
  req := .full
  limit := .full
  pend := false
  hot := false
  coolAt := none
  power := 0
  flow := 40
  boot := 0
  ready := false
  bootFail := false
  fenced := []
  asked := false
  procs := Vector.replicate 49 {}
  fuses := Vector.replicate 4 {}
  frameT := 0
  slips := []
  answer := []
  notices := []

end Sys2Proof.Machine
end

