-- ==== Sys2Proof/Machine/Mem.lean ====
section
/-!
DEFINITION. Memory as a list of cells in one canonical form, code words, byte order, and the named places of the memory map:
HBM4 and the pools at their physical addresses (R388), the stores of each tile (R127, R135) and the host's memory behind a
Fernen port (R434) at keys of their own.
-/
namespace Sys2Proof.Machine

/-! ## Cells -/

/-- What an address that no cell lists reads as (log 3). -/
def unlisted : Byte := 0

/-- One byte of a list of cells. -/
def cellGet (m : List Host.Cell) (k : Nat) : Byte :=
  match m with
  | [] => unlisted
  | (a, b) :: r => if a = k then b else if k < a then unlisted else cellGet r k

/-- Put a cell at the head, unless it reads as unlisted. -/
def cellCons (k : Nat) (b : Byte) (m : List Host.Cell) : List Host.Cell :=
  if b = unlisted then m else (k, b) :: m

/-- Write one byte, keeping the canonical form. -/
def cellSet (m : List Host.Cell) (k : Nat) (b : Byte) : List Host.Cell :=
  match m with
  | [] => cellCons k b []
  | (a, v) :: r =>
    if a = k then cellCons k b r
    else if k < a then cellCons k b ((a, v) :: r)
    else (a, v) :: cellSet r k b

/-- The canonical form above a bound: addresses rising, none below the bound, no unlisted value. -/
def cellsWfFrom (lo : Nat) (m : List Host.Cell) : Bool :=
  match m with
  | [] => true
  | (a, b) :: r => decide (lo ≤ a) && b != unlisted && cellsWfFrom (a + 1) r

/-- The canonical form of memory. -/
def Memory.wf (m : List Host.Cell) : Bool := cellsWfFrom 0 m

/-- n bytes from an address upward. -/
def cellsRead (m : List Host.Cell) (k : Nat) : Nat → List Byte
  | 0 => []
  | n + 1 => cellGet m k :: cellsRead m (k + 1) n

/-- Write bytes from an address upward. -/
def cellsWrite (m : List Host.Cell) (k : Nat) (bs : List Byte) : List Host.Cell :=
  match bs with
  | [] => m
  | b :: r => cellsWrite (cellSet m k b) (k + 1) r

/-- The number that bytes hold, least significant first (R1). -/
def leNat (bs : List Byte) : Nat :=
  match bs with
  | [] => 0
  | b :: r => b.toNat + 256 * leNat r

/-- The n low bytes of a number, least significant first (R1). -/
def natLe (n v : Nat) : List Byte :=
  match n with
  | 0 => []
  | k + 1 => BitVec.ofNat 8 v :: natLe k (v / 256)

/-! ## The map -/

/-- The first address past HBM4 (R388). -/
def hbmEnd : Nat := 0xC000000000
/-- The physical address of a byte of a cluster pool (R388). -/
def clPoolAt (c off : Nat) : Nat := 0xF000000000 + 33554432 * c + off
/-- The physical address of a byte of a die pool (R388). -/
def diePoolAt (d off : Nat) : Nat := 0xF800000000 + 134217728 * d + off
/-- The key of a byte of a tile's scratchpad. -/
def spAt (t off : Nat) : Nat := 0x10000000000 + 67108864 * t + off
/-- The key of a byte of a hand slot: 8 KiB each (R133). -/
def handAt (t slot off : Nat) : Nat := 0x10000000000 + 67108864 * t + 0x1000000 + 8192 * slot + off
/-- The key of a byte of an accumulator tile: 16 KiB each (R137). -/
def accAt (t tile off : Nat) : Nat := 0x10000000000 + 67108864 * t + 0x2000000 + 16384 * tile + off
/-- The key of a byte of a companion: 2 KiB each (R135). -/
def compAt (t slot off : Nat) : Nat := 0x10000000000 + 67108864 * t + 0x3000000 + 2048 * slot + off
/-- The key of a byte of host memory behind a Fernen port (R434, log 17). -/
def hostAt (port addr : Nat) : Nat := 18446744073709551616 * (1 + port) + addr

/-- The address is in HBM4. -/
def isHbm (k : Nat) : Bool := decide (k < hbmEnd)
/-- The address is fetchable memory or a target of translation: HBM4 or a pool. -/
def isPhys (k : Nat) : Bool := decide (k < 0x10000000000)

/-- Where a pool address lies: the cluster pool and chunk, or the die pool and chunk (R344). -/
inductive PoolPlace
  | cluster (c : Fin 48) (chunk : Fin 32)
  | die (d : Fin 8) (chunk : Fin 128)
  deriving DecidableEq, Repr

/-- The chunk of a physical address, none in HBM4 and outside the map (R388). -/
def poolPlace (pa : Nat) : Option PoolPlace :=
  if pa < 0xF000000000 then none
  else if h : (pa - 0xF000000000) / 33554432 < 48 then
    some (.cluster ⟨_, h⟩ ⟨(pa - 0xF000000000) % 33554432 / 1048576, by
      have := Nat.mod_lt (pa - 0xF000000000) (show 0 < 33554432 by decide)
      omega⟩)
  else if pa < 0xF800000000 then none
  else if h : (pa - 0xF800000000) / 134217728 < 8 then
    some (.die ⟨_, h⟩ ⟨(pa - 0xF800000000) % 134217728 / 1048576, by
      have := Nat.mod_lt (pa - 0xF800000000) (show 0 < 134217728 by decide)
      omega⟩)
  else none

/-- The address is on the physical map (R388). -/
def onMap (pa : Nat) : Bool := isHbm pa || (poolPlace pa).isSome

/-- The host's memory of the mailbox and loader region: plain storage (R429). -/
def mailAt (off : Nat) : Nat := 0x20000000000 + off

/-! ## Code words (R381) -/

/-- The first byte of the code word that holds a byte: 32 bytes in HBM4, 8 in every SRAM. -/
def codeWord (k : Nat) : Nat := if isHbm k then k / 32 * 32 else k / 8 * 8
/-- The size of the code word that holds a byte. -/
def codeSize (k : Nat) : Nat := if isHbm k then 32 else 8

/-- How many of the n bytes at k lie in an uncorrectable code word. -/
def badBytes (s : State) (k : Nat) : Nat → Nat
  | 0 => 0
  | n + 1 => (if codeWord k ∈ s.poison then 1 else 0) + badBytes s (k + 1) n

/-- The n bytes at k, with zeros for those that cannot be read (R381). -/
def readBytes (s : State) (k : Nat) : Nat → List Byte
  | 0 => []
  | n + 1 => (if codeWord k ∈ s.poison then 0 else cellGet s.mem k) :: readBytes s (k + 1) n

/-- The number in the n bytes at k. -/
def readNat (s : State) (k n : Nat) : Nat := leNat (readBytes s k n)

/-! ## Writes -/

/-- The words a write to [k, k + n) changes, as they stood: what a later fetch may still find (R109). -/
def histAdd (s : State) (w : Nat) : Nat → List (Nat × BitVec 32 × Nat)
  | 0 => []
  | n + 1 => (w, BitVec.ofNat 32 (leNat (cellsRead s.mem w 4)), s.wstamp) :: histAdd s (w + 4) n

/-- What a write of [k, k + n) leaves of a published release, unless it is a part of a read-modify-write: its bytes below and above (R347). -/
def Pub.outside (k n : Nat) (p : Pub) : List Pub :=
  if p.key + p.size ≤ k ∨ k + n ≤ p.key then [p]
  else
    (if p.key < k then [{ p with size := k - p.key }] else []) ++
    (if k + n < p.key + p.size then [{ p with key := k + n, size := p.key + p.size - (k + n) }] else [])

/-- The published releases after a write of [k, k + n): the bytes that it leaves still come from theirs (R347). -/
def pubDrop (ps : List Pub) (k n : Nat) : List Pub := ps.flatMap (Pub.outside k n)

/-- A code word that a write covers whole can be read again. -/
def poisonDrop (ps : List Nat) (k n : Nat) : List Nat :=
  ps.filter fun p => !(decide (k ≤ p) && decide (p + codeSize p ≤ k + n))

/-- Write bytes. A plain write ends the releases published at the place; an atomic one (`rmw`) carries them on. -/
def writeBytes (s : State) (k : Nat) (bs : List Byte) (rmw : Bool := false) : State :=
  { s with
    mem := cellsWrite s.mem k bs
    hist := if isPhys k then histAdd s (k / 4 * 4) ((k + bs.length + 3) / 4 - k / 4) ++ s.hist else s.hist
    wstamp := s.wstamp + 1
    pubs := if rmw then s.pubs else pubDrop s.pubs k bs.length
    poison := poisonDrop s.poison k bs.length }

/-- Write the n low bytes of a number. -/
def writeNat (s : State) (k n v : Nat) : State := writeBytes s k (natLe n v)

/-- Set n bytes to zero: the clearing of units and chunks (R145, R345). -/
def zeroCells (m : List Host.Cell) (k n : Nat) : List Host.Cell :=
  m.filter fun c => decide (c.1 < k) || decide (k + n ≤ c.1)

/-- Clear a range of memory. Words that it clears leave nothing in `hist`: a fetch after it finds zeros (log 7). -/
def zeroBytes (s : State) (k n : Nat) : State :=
  { s with mem := zeroCells s.mem k n, poison := poisonDrop s.poison k n }

/-! ## Race tags (R353) -/

/-- The tag of a granule that nothing has touched. -/
def tagReset : BitVec 32 := 0x01FF01FF

/-- The tag of a granule. -/
def tagGet (ts : List (Nat × BitVec 32)) (g : Nat) : BitVec 32 :=
  match ts with
  | [] => tagReset
  | (a, v) :: r => if a = g then v else tagGet r g

/-- Set the tag of a granule; the reset value is not listed. -/
def tagSet (ts : List (Nat × BitVec 32)) (g : Nat) (v : BitVec 32) : List (Nat × BitVec 32) :=
  let rest := ts.filter fun c => c.1 != g
  if v = tagReset then rest else (g, v) :: rest

/-! ## Carve-outs (R20) -/

/-- The carve-out of a checked GiB: 16 MiB, four bytes for each granule (R20, R353). -/
def carveBytes : Nat := 16777216

/-- The carve-out that an address lies in: its first byte and the GiB that it serves. -/
def State.carveAt (s : State) (pa : Nat) : Option (Nat × Nat) := s.carve.find? fun c => decide (c.1 ≤ pa) && decide (pa < c.1 + carveBytes)

/-- The tags of a GiB of HBM4 have a carve-out. -/
def State.hasCarve (s : State) (gib : Nat) : Bool := s.carve.any (·.2 == gib)

/-- A place of the physical map that an access of a program, a packet or firmware may name: no carve-out (R20, R388). -/
def State.physOk (s : State) (pa : Nat) : Bool := onMap pa && (s.carveAt pa).isNone

/-- The granule of a byte of a carve-out, and which byte of its tag it is. -/
def carveTag (c : Nat × Nat) (pa : Nat) : Nat × Nat := (4194304 * c.2 + (pa - c.1) / 4, (pa - c.1) % 4)

/-- A byte of HBM4 or a pool as it stands there: in a carve-out a byte of a tag (R20, R353). -/
def State.byteAt (s : State) (pa : Nat) : Byte :=
  match s.carveAt pa with
  | some c => BitVec.ofNat 8 ((tagGet s.tags (carveTag c pa).1).toNat / 256 ^ (carveTag c pa).2)
  | none => cellGet s.mem pa

/-- Write bytes where they may lie in a carve-out, whose tags then change (R20, R353). -/
def writeCarve (s : State) (pa : Nat) (bs : List Byte) : State :=
  match bs with
  | [] => s
  | b :: r =>
    let s' := match s.carveAt pa with
      | some c =>
        let g := carveTag c pa
        let v := (tagGet s.tags g.1).toNat
        let w := 256 ^ g.2
        { s with tags := tagSet s.tags g.1 (BitVec.ofNat 32 (v - v / w % 256 * w + b.toNat * w)) }
      | none => writeBytes s pa [b]
    writeCarve s' (pa + 1) r

/-! ## Frontiers (R354) -/

/-- A tile's epoch in a frontier; none is NONE. -/
def frGet (f : Frontier) (t : Nat) : Option Nat :=
  match f with
  | [] => none
  | (u, e) :: r => if u = t then some e else frGet r t

/-- Raise a tile's epoch in a frontier, keeping it sorted. -/
def frRaise (f : Frontier) (t e : Nat) : Frontier :=
  match f with
  | [] => [(t, e)]
  | (u, d) :: r => if u = t then (u, max d e) :: r else if t < u then (t, e) :: (u, d) :: r else (u, d) :: frRaise r t e

/-- The elementwise maximum; NONE stands below every epoch. -/
def frMerge (f g : Frontier) : Frontier := g.foldl (fun a p => frRaise a p.1 p.2) f

end Sys2Proof.Machine
end

