-- ==== Sys2Proof/Machine/Ops.lean ====
section
/-!
DEFINITION. The shared operations of every meaning: the step monad and its exits, access to tiles and contexts, the error
ring, groups and loops (R42, R119 to R122), taking an exception and returning from one (R374 to R383), and the two wrappers
through which a dealer instruction and a step of another agent become one step of the machine.
-/
namespace Sys2Proof.Machine

/-! ## The step monad -/

/-- What a fault leaves behind although the step takes no other effect: dropped bytes (R389), error records (R356), how many free values were
drawn, and the requests that the step has made (R418). -/
structure Side where
  drops : Nat := 0
  recs  : List ErrRec := []
  free  : Nat
  reqs  : List (Nat × Nat)

/-- How an effect ends when it does not complete. -/
inductive Exit
  /-- A precise fault of a dealer instruction (R10): no other effect. -/
  | trap (c : Cause) (eval : Word) (side : Side)
  /-- A precise fault at a LINK (R176). -/
  | ltrap (c : Cause) (eval : Word) (side : Side)
  /-- An engine fault of the block being run (R180). -/
  | efault (c : Cause) (pt : FaultPoint) (addr : Word) (side : Side)
  /-- The instruction waits; what it did before waiting stands. -/
  | wait (k : WaitKind) (s : State)
  /-- A window access has no answer yet: nothing is done but that its message goes out (R403, R404). The function gives the state
  with the message, and its number. -/
  | send (f : State → State × Nat)
  /-- The step is not enabled: its agent has nothing to do. -/
  | idle
  | fault (f : Fault)
  | refuse (r : Refusal)

/-- An effect on the machine. -/
abbrev M := StateT State (Except Exit)

/-- Leave the effect. -/
def exit {α : Type} (e : Exit) : M α := fun _ => .error e

/-- A precise fault of a dealer instruction. -/
def trap {α : Type} (c : Cause) (eval : Word) : M α := fun s => .error (.trap c eval ⟨0, [], s.free, s.reqs⟩)

/-- Raise a cause unless a condition holds. -/
def check (ok : Bool) (c : Cause) (eval : Word) : M Unit := if ok then pure () else trap c eval

/-- The step is enabled only if a condition holds. -/
def enabled (ok : Bool) : M Unit := if ok then pure () else exit .idle

/-- A value that is there, or the step is not enabled. -/
def present {α : Type} (o : Option α) : M α :=
  match o with
  | some a => pure a
  | none => exit .idle

/-- The value of an effect that completes; none, and nothing done, for one that does not. -/
def attempt {α : Type} (m : M α) : M (Option α) := fun s =>
  match m s with
  | .ok (a, s') => .ok (some a, s')
  | .error _ => .ok (none, s)

/-- Wait, keeping what was done. -/
def waitFor {α : Type} (k : WaitKind) : M α := fun s => .error (.wait k s)

/-- Draw a number that the spec leaves open (log 4). -/
def drawNat : M Nat := fun s => .ok (Config.freeNat s.free, { s with free := s.free + 1 })
/-- Draw a choice that the spec leaves open (log 4). -/
def drawBit : M Bool := fun s => .ok (Config.freeBit s.free, { s with free := s.free + 1 })

/-! ## Tiles and contexts -/

/-- A tile of the state. -/
def State.tile (s : State) (t : TileNo) : Tile := s.tiles.get t
/-- Replace a tile. -/
def State.setTile (s : State) (t : TileNo) (x : Tile) : State := { s with tiles := s.tiles.set t x }
/-- The context in a resident slot. -/
def State.ctx? (s : State) (t : TileNo) (c : SlotNo) : Option Ctx := (s.tile t).slots.get c
/-- Put a context into a slot, or clear it. -/
def State.setSlot (s : State) (t : TileNo) (c : SlotNo) (x : Option Ctx) : State :=
  s.setTile t { s.tile t with slots := (s.tile t).slots.set c x }
/-- Change the context in a slot, if there is one. -/
def State.modCtx (s : State) (t : TileNo) (c : SlotNo) (f : Ctx → Ctx) : State :=
  match s.ctx? t c with
  | some x => s.setSlot t c (some (f x))
  | none => s

/-- The cluster of a tile. -/
def clOf (t : TileNo) : Fin 48 := ⟨t / 8, by omega⟩
/-- The die of a tile. -/
def dieNo (t : TileNo) : Fin 8 := ⟨t / 48, by omega⟩

/-- Change the state. -/
def upd (f : State → State) : M Unit := fun s => .ok ((), f s)
/-- Read the state. -/
def see {α : Type} (f : State → α) : M α := fun s => .ok (f s, s)

/-- The tile and the slot whose dealer acts. -/
def me : M (TileNo × SlotNo) := fun s => .ok ((s.cur, (s.tile s.cur).cur), s)
/-- The context in a slot; without one the step is not enabled. -/
def getCtx (t : TileNo) (c : SlotNo) : M Ctx := do present (← see (·.ctx? t c))
/-- Change the context in a slot. -/
def modCtx (t : TileNo) (c : SlotNo) (f : Ctx → Ctx) : M Unit := upd (·.modCtx t c f)
/-- The context whose dealer acts. -/
def myCtx : M Ctx := do
  let (t, c) ← me
  getCtx t c
/-- Change the context whose dealer acts. -/
def modMe (f : Ctx → Ctx) : M Unit := do
  let (t, c) ← me
  modCtx t c f
/-- Change a tile. -/
def modTile (t : TileNo) (f : Tile → Tile) : M Unit := upd fun s => s.setTile t (f (s.tile t))

/-- The job with a number. -/
def State.job? (s : State) (id : Nat) : Option Job := s.jobs.find? (·.id == id)
/-- Change a job. -/
def State.modJob (s : State) (id : Nat) (f : Job → Job) : State :=
  { s with jobs := s.jobs.map fun j => if j.id == id then f j else j }

/-! ## The error ring (R451) -/

/-- Append a record; the oldest goes when the ring holds 4096. -/
def State.addErr (s : State) (r : ErrRec) : State :=
  let s := { s with errCount := (s.errCount + 1) % 4294967296 }
  if s.errRing.length < 4096 then { s with errRing := s.errRing ++ [r] }
  else { s with errRing := s.errRing.drop 1 ++ [r], lostRec := s.lostRec + 1 }

/-- A record of a cause, from the leaf controller of a tile's cluster, for a context. -/
def causeRec (s : State) (t : TileNo) (x : Ctx) (c : Cause) (addr info : Word) : ErrRec :=
  { cause := c.code, phys := false, src := t / 8, ctx := x.num.toNat, job := x.job, frame := s.frame, addr, info }

/-- Record a cause of a context. -/
def recordCause (t : TileNo) (x : Ctx) (c : Cause) (addr info : Word) : M Unit :=
  upd fun s => s.addErr (causeRec s t x c addr info)

/-! ## Registers and latches -/

/-- A predicate: p0 reads true (R95). -/
def Ctx.pred (x : Ctx) (p : Fin 8) : Bool := p == 0 || x.preds.getLsbD p
/-- Write a predicate: writes to p0 are discarded (R95). -/
def Ctx.setPred (x : Ctx) (p : Fin 8) (v : Bool) : Ctx :=
  if p = 0 then x
  else { x with preds := if v then x.preds ||| (1#8 <<< p.val) else x.preds &&& ~~~(1#8 <<< p.val) }
/-- Write a general register (R95). -/
def Ctx.setReg (x : Ctx) (g : Fin 48) (v : Word) : Ctx := { x with regs := x.regs.set g v }
/-- Write a destination; none discards the value (R41). -/
def Ctx.setDst (x : Ctx) (d : Dst) (v : Word) : Ctx :=
  match d with
  | none => x
  | some g => x.setReg g v
/-- CTXID of a context in a slot (R101). -/
def ctxidWord (x : Ctx) (c : SlotNo) : Word := BitVec.ofNat 64 (x.num.toNat * 65536 + c)

/-- The value of a source, none for a latch entry that holds no value (R39, R42). -/
def srcVal (t : TileNo) (c : SlotNo) (x : Ctx) (r : Src) : Option Word :=
  match r with
  | .g i => some (x.regs.get i)
  | .b k => (x.latches[k.val]?).join
  | .zero => some 0
  | .tileid => some (BitVec.ofNat 64 t)
  | .ctxid => some (ctxidWord x c)
  | .lc0 => some (x.loops.get 0).lc
  | .lc1 => some (x.loops.get 1).lc

/-- Read the a operand. A stale latch has no value to report, so EVAL is then a free value (R377, log 5). -/
def readA (r : Src) : M Word := do
  let (t, c) ← me
  let x ← getCtx t c
  match srcVal t c x r with
  | some v => pure v
  | none => do
    let v ← drawNat
    trap .latchStale (BitVec.ofNat 64 v)

/-- Read a further operand; EVAL of a stale latch is the value of the a operand (R377). -/
def readC (r : Src) (a : Word) : M Word := do
  let (t, c) ← me
  let x ← getCtx t c
  match srcVal t c x r with
  | some v => pure v
  | none => trap .latchStale a

/-! ## Groups and loops -/

/-- What follows an effect. -/
inductive Ctl
  /-- The next instruction, after the end test of a loop. -/
  | fall
  /-- A transfer under R122. -/
  | jump (tgt : Word)
  /-- A return from a handler: no transfer under R122 and no group end of its own (R123, R375). -/
  | eret (tgt : Word) (group : List (Option Word))
  /-- The context left the dealer. -/
  | leave
  /-- The instruction completed and raises a cause of kind D+ (R374). -/
  | dplus (c : Cause) (eval : Word)
  deriving DecidableEq, Repr

/-- A completed effect: its result, if it has one, and what follows. -/
structure Eff where
  val : Option Word := none
  ctl : Ctl := .fall
  deriving DecidableEq, Repr

/-- End a level: its count and its flag go to 0 (R122). -/
def LoopLevel.stop (l : LoopLevel) : LoopLevel := { l with lc := 0, act := false }

/-- The end test of the active level whose last word the instruction at pc is (R120): the context, the next address, and
whether a test ran. The inner level is looked at first; at most one test applies (R119). -/
def endTest (x : Ctx) (pc : Word) (len : Nat) : Ctx × Word × Bool :=
  let test (L : Fin 2) : Ctx × Word × Bool :=
    let l := x.loops.get L
    if l.lc.toNat ≤ 1 then ({ x with loops := x.loops.set L l.stop }, l.le + 4, true)
    else ({ x with loops := x.loops.set L { l with lc := l.lc - 1 } }, l.ls, true)
  if (x.loops.get 1).act && (x.loops.get 1).le == pc then test 1
  else if (x.loops.get 0).act && (x.loops.get 0).le == pc then test 0
  else (x, pc + BitVec.ofNat 64 (4 * len), false)

/-- A transfer to an address outside the body of an active level ends it, and with level 0 level 1 (R122). -/
def leaveLoops (x : Ctx) (tgt : Word) : Ctx :=
  let out (l : LoopLevel) : Bool := l.act && !(decide (l.ls.toNat ≤ tgt.toNat) && decide (tgt.toNat ≤ l.le.toNat))
  let l0 := x.loops.get 0
  let l1 := x.loops.get 1
  if out l0 then { x with loops := #v[l0.stop, if l1.act then l1.stop else l1] }
  else if out l1 then { x with loops := #v[l0, l1.stop] }
  else x

/-! ## Taking an exception (R374 to R378) -/

/-- A handler is active (R373). -/
def Ctx.active (x : Ctx) : Bool := x.dbgctl.getLsbD 2
/-- DBGCTL.STEP (R373). -/
def Ctx.stepping (x : Ctx) : Bool := x.dbgctl.getLsbD 0
/-- The address without its two low bits: EPC and TVEC are word aligned (R373). -/
def wordAlign (a : Word) : Word := a &&& ~~~3#64

/-- The cause goes to the leaf controller instead of the program (R375). -/
def toLeaf (x : Ctx) (k : TrapKind) (c : Cause) : Bool :=
  x.tvec == 0 || c == .firmwareCall || c == .machineCheck ||
  ((c == .brk || c == .step) && x.dbgctl.getLsbD 1) ||
  ((k == .d || k == .dplus || k == .l) && x.active)

/-- Kinds D, D+ and L keep the group (R376). -/
def TrapKind.keepsGroup (k : TrapKind) : Bool := k == .d || k == .dplus || k == .l

/-- TLVALID for the group's entries (R376). -/
def tlvalid (ls : List (Option Word)) : Nat :=
  match ls with
  | [] => 0
  | l :: r => (if l.isSome then 1 else 0) + 2 * tlvalid r

/-- TGCNT of a group of n instructions; the field has no value for 16 of them, which is then free (log 5). -/
def tgcnt (s : State) (n : Nat) : Nat := if n < 16 then n else Config.freeNat s.free % 16

/-- The eight ELATCH values of a list, 0 where it has none. -/
def elatchOf (ls : List Word) : Vector Word 8 := Vector.ofFn fun k => (ls[k.val]?).getD 0

/-- Enter the program's handler, or pass the cause to the leaf controller (R375, R376, R378). `elatch` is the detail of an
engine fault (R377). -/
def enterTrap (t : TileNo) (c : SlotNo) (k : TrapKind) (cause : Cause) (epc eval : Word) (elatch : List Word) (s : State) :
    State :=
  match s.ctx? t c with
  | none => s
  | some x =>
    if toLeaf x k cause then
      (s.setSlot t c (some { x with
        run := .leaf, wait := none, answers := [], pc := epc, latches := [], stopping := false,
        leafTrap := some ⟨k, cause, epc, eval, if k.keepsGroup then x.latches else [], elatch⟩ }))
    else
      let grp := if k.keepsGroup then x.latches else []
      let saved := if k.keepsGroup then grp.map (·.getD 0) else elatch
      { s with free := s.free + 1 }.setSlot t c (some { x with
        epc := wordAlign epc
        ecause := BitVec.ofNat 32 cause.code
        eval := eval
        dbgctl := BitVec.ofNat 32 (x.dbgctl.toNat % 4 + 4 + 16 * tgcnt s grp.length + 256 * tlvalid (grp.take 8))
        elatch := elatchOf saved
        pc := x.tvec
        latches := []
        wait := none
        stopping := false
        answers := [] })

/-- A context whose instruction has still to be followed by STEP takes it, unless a handler is active (R383). -/
def resumeStep (t : TileNo) (c : SlotNo) (s : State) : State :=
  match s.ctx? t c with
  | none => s
  | some x =>
    if x.stepDue && !x.active then enterTrap t c .dplus .step x.pc 0 [] (s.setSlot t c (some { x with stepDue := false })) else s

/-- The group that ERET restores: TGCNT instructions with the valid entries of ELATCH0 to 7 (R383). -/
def savedGroup (x : Ctx) : List (Option Word) :=
  (List.range (x.dbgctl.toNat / 16 % 16)).map fun k =>
    if x.dbgctl.getLsbD (8 + k) && decide (k < 8) then some (x.elatch.toList[k]?.getD 0) else none

/-- The return from a handler (R383): the group, ACTIVE and the next address. The caller has made its checks. -/
def eretEff (x : Ctx) : Ctx × Eff :=
  ({ x with dbgctl := x.dbgctl &&& ~~~4#32 }, { ctl := .eret x.epc (savedGroup x) })

/-- The first chain with an engine fault that the dealer has still to take (R180). -/
def pendingFault (x : Ctx) : Option (ChainNo × ChainFault) :=
  ([0, 1, 2, 3] : List ChainNo).findSome? fun ch =>
    match (x.chains.get ch).fault with
    | some f => if f.reported || f.toLeaf then none else some (ch, f)
    | none => none

/-- EVAL of an engine fault (R377). -/
def faultEval (ch : ChainNo) (f : ChainFault) : Word :=
  let pt := match f.point with
    | .iteration => 0
    | .posts => 1
    | .start => 2
  BitVec.ofNat 64 (f.seq % 4294967296 + 4294967296 * ch + 17179869184 * pt)

/-- Four 16-bit loop indices in one ELATCH (R377). -/
def packIdx (idx : List Nat) : Nat :=
  idx.foldr (fun i acc => i % 65536 + 65536 * acc) 0

/-- ELATCH0 to 4 of an engine fault (R377): only three causes have an address. -/
def faultElatch (f : ChainFault) : List Word :=
  [BitVec.ofNat 64 (packIdx (f.idx.take 4)), BitVec.ofNat 64 (packIdx ((f.idx.drop 4).take 4)),
   BitVec.ofNat 64 (packIdx ((f.idx.drop 8).take 4)), BitVec.ofNat 64 (packIdx ((f.idx.drop 12).take 4)),
   if f.cause = .race ∨ f.cause = .eccStrict ∨ f.cause = .windowFault then f.addr else 0]

/-- Take a pending asynchronous cause or engine fault, unless a handler is active (R375): asynchronous causes in the order in which they
came, then the chains in code order (log 5). -/
def takePending (t : TileNo) (c : SlotNo) (s : State) : State :=
  match s.ctx? t c with
  | none => s
  | some x =>
    if x.run != .run || x.active then s
    else
      match x.asyncs with
      | a :: rest => enterTrap t c .a a x.pc 0 [] (s.setSlot t c (some { x with asyncs := rest }))
      | [] =>
        match pendingFault x with
        | some (ch, f) =>
          enterTrap t c .e f.cause x.pc (faultEval ch f) (faultElatch f)
            (s.setSlot t c (some { x with
              chains := x.chains.set ch { x.chains.get ch with fault := some { f with reported := true } } }))
        | none => s

/-! ## Bandwidth (R418, R419) -/

/-- The units of 64 bytes that a request of n bytes is charged. -/
def unitsOf (n : Nat) : Nat := (n + 63) / 64
/-- The HBM and the NET units of some requests. -/
def unitSums (l : List (Nat × Nat)) : Nat × Nat := l.foldl (fun a r => (a.1 + r.1, a.2 + r.2)) (0, 0)
/-- HBM units of the step being taken. -/
def State.meterHbm (s : State) : Nat := (unitSums s.reqs).1
/-- NET units of the step being taken. -/
def State.meterNet (s : State) : Nat := (unitSums s.reqs).2
/-- The step makes a request of so many units; one that touches neither resource is none. -/
def State.request (h n : Nat) (s : State) : State := if h = 0 && n = 0 then s else { s with reqs := s.reqs ++ [(h, n)] }
/-- A request of n bytes leaves the die. -/
def meterNet (n : Nat) : M Unit := upd (State.request 0 (unitsOf n))

/-- A waiting request still stands: the context that made it is in the slot; its dealer waits, or its chain holds the block and may step it. -/
def State.asks (s : State) (t : TileNo) (r : PortReq) : Bool :=
  match s.ctx? t r.slot with
  | none => false
  | some x =>
    x.job == r.job && x.num == r.num && match r.who with
    | none => x.wait.isSome
    | some (ch, seq) =>
      let k := x.chains.get ch
      (k.state == .running || k.state == .faulted && !k.fault.any (·.seq == seq)) && k.queue.any (·.seq == seq)

/-- A request belongs to a slot's dealer or to a block of a chain of it. -/
def PortReq.of (c : SlotNo) (who : Option (ChainNo × Nat)) (r : PortReq) : Bool := r.slot == c && r.who == who

/-- The requests that stand at a tile's port, in issue order. -/
def State.portQueue (s : State) (t : TileNo) : List PortReq := (s.tile t).port.filter (s.asks t)

/-- G(t) of R420: a tenant's grant of a pool of units, by its weight and the weights of all. -/
def grantOf (pool w total : Nat) : Nat := if total = 0 then 0 else pool * w / total

/-- One resource of a tenant at a refill: its weight, its balance, and whether it is in A. -/
structure Claim where
  w   : Nat
  bal : Nat
  act : Bool
  deriving DecidableEq, Repr

/-- The balance after a refill of a pool of units, of a tenant among all those of the die (R420). -/
def refillOf (pool : Nat) (all : List Claim) (c : Claim) : Nat :=
  let sum (l : List Claim) : Nat := l.foldl (fun a x => a + x.w) 0
  let g := grantOf pool c.w (sum (all.filter (0 < ·.w)))
  let pot := (all.filter fun x => 0 < x.w && !x.act).foldl (fun a x => a + x.bal) 0
  if c.act then min c.bal g + g + grantOf pot c.w (sum (all.filter (·.act)))
  else if c.w = 0 then c.bal
  else g

/-- A request of a tenant waits at a port of the die for units of a resource (R420). -/
def waitsAt (s : State) (d : Fin 8) (k : Fin 64) (hbm : Bool) : Bool :=
  (List.finRange 384).any fun t => dieNo t == d && (s.portQueue t).any fun r =>
    ((r.reqs.drop r.left).any fun q => if hbm then q.1 != 0 else q.2 != 0) && (s.job? r.job).any (·.tenant == k)

/-- A die whose period ends: the tenants with a request that waits are in A of the refill (R420). -/
def claimDie (s : State) (d : Fin 8) : Die :=
  let k := s.dies.get d
  { k with buckets := k.buckets.map fun b =>
      { b with hbmUse := b.hbmUse || waitsAt s d b.tenant true, netUse := b.netUse || waitsAt s d b.tenant false } }

/-- A die's buckets after a refill, and the marks of A cleared (R420). -/
def refillDie (s : State) (d : Fin 8) : Die :=
  let k := s.dies.get d
  let claimH (b : Bucket) : Claim := ⟨(s.shares.get b.tenant).hbmw, b.hbm, b.hbmUse⟩
  let claimN (b : Bucket) : Claim := ⟨(s.shares.get b.tenant).netw, b.net, b.netUse⟩
  let h := k.buckets.map claimH
  let n := k.buckets.map claimN
  let one (b : Bucket) : Bucket :=
    { tenant := b.tenant, hbm := refillOf k.poolHbm h (claimH b), net := refillOf k.poolNet n (claimN b) }
  { k with buckets := k.buckets.map one, period := k.period + 1024 }

/-- Periods of a die that have ended and whose refill no turn has made yet. -/
def refillsDue (s : State) (d : Fin 8) : Nat := (s.now - (s.dies.get d).period) / 1024

/-- n refills of a die. -/
def refills (d : Fin 8) (n : Nat) (s : State) : State :=
  match n with
  | 0 => s
  | n + 1 => refills d n { s with dies := s.dies.set d (refillDie s d) }

/-- The refills that are due at a die, before anything is charged there or a weight or POOL changes (R421). After the fourth refill without
a charge the balances stay as they are. -/
def settleDie (d : Fin 8) (s : State) : State :=
  let n := refillsDue s d
  if n = 0 then s
  else
    let p := (s.dies.get d).period
    let s := refills d (min n 4) s
    { s with dies := s.dies.set d { s.dies.get d with period := p + 1024 * n } }

/-- n periods of a die end: each one's refill is due, with the requests that wait as it ends; the refill that was due before it (`due`) is made
(R420). -/
def endPeriods (d : Fin 8) (due : Bool) (n : Nat) (s : State) : State :=
  match n with
  | 0 => s
  | n + 1 =>
    let s := if due then { s with dies := s.dies.set d (refillDie s d) } else s
    endPeriods d true n { s with dies := s.dies.set d (claimDie s d) }

/-- What time that has passed since `was` ends at a die. After the fourth refill in a row the balances stay as they are. -/
def passDie (d : Fin 8) (was s : State) : State :=
  let m := refillsDue was d
  let n := refillsDue s d
  if n ≤ m then s
  else
    let p := (s.dies.get d).period
    let s := endPeriods d (m != 0) (min (n - m) 5) s
    { s with dies := s.dies.set d { s.dies.get d with period := p + 1024 * (n - 1) } }

/-- The refills that are due on every die. -/
def settleDies (s : State) : State := (List.finRange 8).foldl (fun s d => settleDie d s) s

/-- What a slot's dealer, or a block, has paid for the step it waits with. -/
def State.paidFor (s : State) (t : TileNo) (c : SlotNo) (who : Option (ChainNo × Nat)) : Nat × Nat :=
  match (s.portQueue t).find? (PortReq.of c who) with
  | some r => (r.paidH, r.paidN)
  | none => (0, 0)

/-- An older request of the same tenant waits at the port (R419). -/
def State.queuedBehind (s : State) (t : TileNo) (c : SlotNo) (who : Option (ChainNo × Nat)) (job : Nat) : Bool :=
  ((s.portQueue t).takeWhile fun r => !r.of c who).any (·.job == job)

/-- Change a tenant's bucket on a die. -/
def State.modBucket (s : State) (d : Fin 8) (k : Fin 64) (f : Bucket → Bucket) : State :=
  { s with dies := s.dies.set d { s.dies.get d with buckets := (s.dies.get d).buckets.map fun b => if b.tenant == k then f b else b } }

/-- The request of a slot's dealer or of a block leaves the port's queue. -/
def State.dropReq (s : State) (t : TileNo) (c : SlotNo) (who : Option (ChainNo × Nat)) : State :=
  if (s.tile t).port.isEmpty then s
  else s.setTile t { s.tile t with port := (s.tile t).port.filter fun r => !r.of c who }

/-- The step's units paid from the tenant's buckets of a tile's die, after the refills that are due; none when they cannot pay, or an older
request of the tenant waits (R419, R421). The port stands as the step found it, in s0. A job without a tenant has no buckets and pays nothing. -/
def payUnits (s0 : State) (t : TileNo) (c : SlotNo) (who : Option (ChainNo × Nat)) (job : Nat) (s : State) : Option State :=
  let free (s : State) : State := { s with reqs := [] }
  if s.meterHbm = 0 && s.meterNet = 0 then some s
  else match s.job? job with
    | none => some (free s)
    | some j =>
      let s := settleDie (dieNo t) s
      match (s.dies.get (dieNo t)).buckets.find? (·.tenant == j.tenant) with
      | none => some (free s)
      | some b =>
        let h := s.meterHbm - (s0.paidFor t c who).1
        let n := s.meterNet - (s0.paidFor t c who).2
        if h ≤ b.hbm && n ≤ b.net && !s0.queuedBehind t c who job then
          some (free ((s.modBucket (dieNo t) j.tenant fun e => { e with
            hbm := e.hbm - h, net := e.net - n, hbmUse := e.hbmUse || h != 0, netUse := e.netUse || n != 0 }).dropReq t c who))
        else none

/-- The requests of a list, from its first one on, that balances of HBM and NET can pay one after another (R418, R419). -/
def leaving (hbm net : Nat) (l : List (Nat × Nat)) : List (Nat × Nat) :=
  match l with
  | [] => []
  | r :: l => if r.1 ≤ hbm && r.2 ≤ net then r :: leaving (hbm - r.1) (net - r.2) l else []

/-- The request that a waiting step of a slot's dealer or of a block has at the port; none where the instruction only now begins to wait. -/
def State.oldReq (s : State) (t : TileNo) (c : SlotNo) (who : Option (ChainNo × Nat)) : Option PortReq :=
  if who.isNone && (s.ctx? t c).any (·.wait.isNone) then none else (s.portQueue t).find? (PortReq.of c who)

/-- A slot is emptied, and the requests of the context that stood in it leave the port with it (R419). -/
def State.emptySlot (s : State) (t : TileNo) (c : SlotNo) : State :=
  let s := s.setSlot t c none
  if (s.tile t).port.isEmpty then s else s.setTile t { s.tile t with port := (s.tile t).port.filter (·.slot != c) }

/-- The step waits at the port. It keeps its place in the queue, or takes the last one. Of its requests those leave, in issue order, that the
buckets can pay (R418, R419, log 25). -/
def markWaiting (t : TileNo) (c : SlotNo) (who : Option (ChainNo × Nat)) (job : Nat) (reqs : List (Nat × Nat)) (s : State) : State :=
  match s.job? job with
  | none => s
  | some j =>
    let s := settleDie (dieNo t) s
    let had := s.oldReq t c who
    let q := (s.portQueue t).filter fun r => had.isSome || !r.of c who
    let num := ((s.ctx? t c).map (·.num)).getD 0
    let old : PortReq := had.getD { slot := c, who, job, num, reqs }
    let out := match (s.dies.get (dieNo t)).buckets.find? (·.tenant == j.tenant) with
      | some b => if s.queuedBehind t c who job then [] else leaving b.hbm b.net (reqs.drop old.left)
      | none => []
    let u := unitSums out
    let req : PortReq := { old with reqs, left := old.left + out.length, paidH := old.paidH + u.1, paidN := old.paidN + u.2 }
    let s := s.modBucket (dieNo t) j.tenant fun e => { e with
      hbm := e.hbm - u.1, net := e.net - u.2, hbmUse := e.hbmUse || u.1 != 0, netUse := e.netUse || u.2 != 0 }
    s.setTile t { s.tile t with
      port := if q.any (PortReq.of c who) then q.map fun r => if r.of c who then req else r else q ++ [req] }

/-! ## Energy (R424 to R426) -/

/-- Count events of an activity counter (R424). -/
def Ctx.count (x : Ctx) (k : Fin 9) (n : Nat) : Ctx := { x with activity := x.activity.set k (x.activity.get k + n) }

/-- The parts in 1/512 of an event for which a counter rises by 1: a K-step counts its computed cells, 64 of them, filler its quarters, a vector
iteration its parts, a copy its half bytes, 128 of them (log 27). -/
def eventParts (k : Fin 9) : Nat := if k.val < 3 then 8 else if k = 3 then 128 else if k = 4 then 1 else if k = 5 then 4 else 512

/-- USED has reached BUDGET; 0 means unlimited (R425, R426). -/
def Queue.spent (q : Queue) : Bool := q.budget != 0 && decide (q.budget * 512000000 ≤ q.used)

/-- Mark the resident contexts of a queue's jobs as descheduled, or take that mark away (R426, R368 step 1). -/
def State.markQueue (q : Fin 256) (on : Bool) (s : State) : State :=
  let hit (x : Ctx) : Bool := (s.job? x.job).any fun j => j.queue == q
  { s with tiles := s.tiles.map fun t => { t with slots := t.slots.map fun o => o.map fun x => if hit x then { x with desched := on } else x } }

/-- DESCHEDULE: a queue whose USED has reached its BUDGET (R426). -/
def State.deschedule (q : Fin 256) (s : State) : State :=
  let k := s.queues.get q
  if k.spent && !k.desch then { s with queues := s.queues.set q { k with desch := true } }.markQueue q true else s

/-- A queue after its period has ended: the overrun is carried forward, and the queue is rescheduled if it is under its budget (R426). -/
def endPeriod (at' : Nat) (k : Queue) : Queue :=
  let k := { k with used := k.used - k.budget * 512000000, began := at', due := none }
  { k with desch := k.desch && k.spent }

/-- End a queue's period, and take the marks away where it is rescheduled (R426). -/
def State.closePeriod (q : Fin 256) (at' : Nat) (s : State) : State :=
  let k := s.queues.get q
  let s := { s with queues := s.queues.set q (endPeriod at' k) }
  if k.desch && !(endPeriod at' k).desch then s.markQueue q false else s

/-- A period that ended in an earlier cycle is over before anything more is charged (R426). -/
def State.settleQueue (q : Fin 256) (s : State) : State :=
  match (s.queues.get q).due with
  | some (cyc, at') => if cyc < s.now then s.closePeriod q at' else s
  | none => s

/-- The greatest energy that USED shows, in 1/512 pJ: it holds there (R425). -/
def usedMax : Nat := 0xFFFFFFFF * 512000000

/-- Charge n events to a queue (R425, R426). -/
def State.chargeQueue (s : State) (i : Fin 256) (k : Fin 9) (n : Nat) : State :=
  let s := s.settleQueue i
  let q := s.queues.get i
  let q := { q with used := min (q.used + n * eventParts k * s.weights.get k) usedMax }
  { s with queues := s.queues.set i q }.deschedule i

/-- Charge n events of a job to its queue (R425, R426). -/
def State.chargeJob (job : Nat) (k : Fin 9) (n : Nat) (s : State) : State :=
  match s.job? job with
  | none => s
  | some j => s.chargeQueue j.queue k n

/-- Count n events of the context in a slot and charge them to the queue of its job (R424 to R426). -/
def State.charge (t : TileNo) (c : SlotNo) (k : Fin 9) (n : Nat) (s : State) : State :=
  match s.ctx? t c with
  | none => s
  | some x => if n = 0 then s else (s.setSlot t c (some (x.count k n))).chargeJob x.job k n

/-- Change a context wherever it stands: in a slot of any tile, or saved. -/
def State.modEvery (job : Nat) (num : BitVec 16) (f : Ctx → Ctx) (s : State) : State :=
  let g (x : Ctx) : Ctx := if x.job = job ∧ x.num = num then f x else x
  let tile (t : Tile) : Tile := { t with slots := t.slots.map (Option.map g) }
  let one (e : Saved) : Saved := { e with ctx := g e.ctx }
  { s with tiles := s.tiles.map tile, saved := s.saved.map one }

/-- Count n events of a context and charge them to the queue of its job, wherever the context stands (R213, R424). -/
def State.chargeOwner (job : Nat) (num : BitVec 16) (k : Fin 9) (n : Nat) (s : State) : State :=
  if n = 0 then s else (s.modEvery job num (·.count k n)).chargeJob job k n

/-- The HBM4 accesses of a step count as events of the context that stood in its slot as the step began, and are charged to the queue that its job
had then, also where the step has taken the context out of the slot or has completed the job (R424, R425). -/
def chargeAccess (s0 : State) (t : TileNo) (c : SlotNo) (n : Nat) (s : State) : State :=
  if n = 0 then s
  else match s0.ctx? t c with
    | none => s
    | some x =>
      match s0.job? x.job with
      | none => s
      | some j =>
        let here := (s.ctx? t c).any fun y => y.job == x.job && y.num == x.num
        (if here then s.modCtx t c (·.count 6 n) else s.modEvery x.job x.num (·.count 6 n)).chargeQueue j.queue 6 n

/-- The units that a step owes are paid, and its HBM4 accesses count as energy (R418, R424); none where it has to wait. -/
def settleStep (s0 : State) (t : TileNo) (c : SlotNo) (who : Option (ChainNo × Nat)) (job : Nat) (s : State) : Option State :=
  payUnits s0 t c who job (chargeAccess s0 t c s.meterHbm s)

/-- The slot of a tile that holds a context. -/
def State.slotOf (s : State) (t : TileNo) (job : Nat) (num : BitVec 16) : Option SlotNo :=
  ([0, 1] : List SlotNo).find? fun c => (s.ctx? t c).any fun x => x.job == job && x.num == num

/-! ## One dealer instruction -/

/-- The dealer's own turn takes up a wait of this kind: the instruction starts again, or looks at the barrier again. -/
def WaitKind.ownTurn (k : WaitKind) : Bool :=
  match k with
  | .again | .gbar _ _ => true
  | .port _ _ | .rdv _ | .drain | .endDrain | .semw _ _ _ | .semIdle _ _ _ _ | .release _ | .bank _ _ _ | .covset _ _ | .enq _ _ | .cancel _
  | .wfe | .qunbind _ | .tinv _ | .window _ => false

/-- The instruction starts again from its beginning when its context gets the dealer back (R145, R175, R181, R183, R229, R291, R308, R394, log
48), and so does one that waits at the port (R419). A SEMW keeps its place (R234), and so do a GBAR's arrival, a sleeping WFE, and a request that
is under way. -/
def WaitKind.restarts (k : WaitKind) : Bool :=
  match k with
  | .port _ _ | .rdv _ | .drain | .endDrain | .semIdle _ _ _ _ | .release _ | .bank _ _ _ | .covset _ _ | .enq _ _ | .cancel _ | .qunbind _
  | .tinv _ => true
  | .again | .semw _ _ _ | .wfe | .gbar _ _ | .window _ => false

/-- A wait for a barrier. -/
def WaitKind.isGbar (k : WaitKind) : Bool :=
  match k with
  | .gbar _ _ => true
  | .again | .port _ _ | .rdv _ | .drain | .endDrain | .semw _ _ _ | .semIdle _ _ _ _ | .release _ | .bank _ _ _ | .covset _ _ | .enq _ _
  | .cancel _ | .wfe | .qunbind _ | .tinv _ | .window _ => false

/-- A wait whose instruction starts again once its context has the dealer: with no answer at hand, so does one that is tried again. -/
def Ctx.restarts (x : Ctx) : Bool := x.wait.any fun w => w.kind.restarts || (w.kind == .again && x.answers.isEmpty)

/-- The count of R379 begins again when the context gets the dealer back: its instruction starts again, a GBAR with the arrival that it has made
(R337, log 48). -/
def Ctx.recounts (x : Ctx) : Bool := x.restarts || x.wait.any (·.kind.isGbar)

/-- The context stands at a group end: between groups, or in a waiting instruction that ends its group (R321, R367). -/
def Ctx.atEnd (x : Ctx) : Bool := x.latches.isEmpty || x.wait.any (·.ends)

/-- The context is marked: for pre-emption, or because its queue is descheduled (R368, R426). -/
def Ctx.halted (x : Ctx) : Bool := x.marked || x.desched

/-- The dealer may execute the context: its record runs, it waits in nothing that a step of another agent completes, and it is
not stopped by a mark at a group end, unless the answer to a request of its instruction is at hand (R368). -/
def Ctx.runnable (x : Ctx) : Bool :=
  x.run == .run && (match x.wait with
    | none => true
    | some w => w.kind.ownTurn) && !(x.halted && x.latches.isEmpty && x.answers.isEmpty)

/-- An instruction completes: its latch entry, the next address with the end test or the transfer, the end of its group, then
what a D+ cause, the STEP event or a pending engine fault raises (R42, R120, R122, R180, R375, R383). EVAL of STEP is 0 (DESIGN CHOICE, log 155). -/
def complete (t : TileNo) (c : SlotNo) (len : Nat) (ends : Bool) (stepOn : Bool) (e : Eff) (s : State) : State :=
  let s := s.charge t c 8 1
  match s.ctx? t c with
  | none => s
  | some x0 =>
    let x := { x0 with wait := none, answers := [], latches := e.val :: x0.latches }
    match e.ctl with
    | .leave =>
      let (x, pc, _) := endTest x x.pc len
      s.setSlot t c (some { x with pc := pc, latches := [], stepDue := x.stepDue || stepOn })
    | .eret tgt g => resumeStep t c (s.setSlot t c (some { x with pc := tgt, latches := g }))
    | .jump tgt =>
      let x := leaveLoops x tgt
      let x := { x with pc := tgt, latches := if ends then [] else x.latches }
      let s := s.setSlot t c (some x)
      if stepOn then enterTrap t c .dplus .step x.pc 0 [] s
      else if ends then takePending t c s else s
    | .fall =>
      let (x, pc, tested) := endTest x x.pc len
      let x := { x with pc := pc, latches := if ends || tested then [] else x.latches }
      let s := s.setSlot t c (some x)
      if stepOn then enterTrap t c .dplus .step x.pc 0 [] s
      else if ends || tested then takePending t c s else s
    | .dplus cause eval =>
      let (x, pc, _) := endTest x x.pc len
      let x := { x with pc := pc, latches := [], stepDue := x.stepDue || stepOn }
      enterTrap t c .dplus cause pc eval [] (s.setSlot t c (some x))

/-- What a fault leaves although it takes no other effect; the requests of the step are still to be paid. -/
def applySide (t : TileNo) (c : SlotNo) (d : Side) (s : State) : State :=
  let s := { s with free := max s.free d.free, reqs := d.reqs }
  let s := d.recs.foldl State.addErr s
  s.modCtx t c fun x => { x with dropcnt := BitVec.ofNat 32 (min (x.dropcnt.toNat + d.drops) 0xFFFFFFFF) }

/-- A wait at the port. -/
def WaitKind.isPort (k : WaitKind) : Bool :=
  match k with
  | .port _ _ => true
  | .again | .gbar _ _ | .rdv _ | .drain | .endDrain | .semw _ _ _ | .semIdle _ _ _ _ | .release _ | .bank _ _ _ | .covset _ _ | .enq _ _
  | .cancel _ | .wfe | .qunbind _ | .tinv _ | .window _ => false

/-- Begin to wait, or go on waiting: the count of R379 restarts only where the instruction starts. What waits elsewhere has no request at the port
any more (R419). -/
def setWait (t : TileNo) (c : SlotNo) (h : Hd) (len : Nat) (ends : Bool) (dst : Option Dst) (k : WaitKind) (s : State) : State :=
  (if k.isPort then s else s.dropReq t c none).modCtx t c fun x => { x with wait := some ⟨k, h, len, dst, match x.wait with
    | some w => w.since
    | none => s.now, ends⟩ }

/-- A step of a dealer ends in f, once what it owes is paid; else it waits at the port with nothing done (R419). -/
def paidOr (t : TileNo) (c : SlotNo) (x : Ctx) (h : Hd) (len : Nat) (ends : Bool) (dst : Option Dst) (s s' : State) (f : State → State) : State :=
  match settleStep s t c none x.job s' with
  | some s'' => f s''
  | none => setWait t c h len ends dst (.port s'.meterHbm s'.meterNet) (markWaiting t c none x.job s'.reqs s)

/-- Run the effect of a dealer instruction whose context stands in slot c of tile t. -/
def runEff (t : TileNo) (c : SlotNo) (x : Ctx) (h : Hd) (len : Nat) (ends : Bool) (dst : Option Dst) (eff : M Eff)
    (s : State) : Host.Outcome State Fault Refusal :=
  let stepOn := x.stepping && !x.active
  let paid (s' : State) (f : State → State) := paidOr t c x h len (ends || h.stop) dst s s' f
  match eff s with
  | .ok (e, s') => .next (paid s' (complete t c len (ends || h.stop) stepOn e))
  | .error (.trap cause eval d) => .next (paid (applySide t c d s) (enterTrap t c .d cause x.pc eval []))
  | .error (.ltrap cause eval d) => .next (paid (applySide t c d s) (enterTrap t c .l cause x.pc eval []))
  | .error (.wait k s') => .next (paid s' (setWait t c h len (ends || h.stop) dst k))
  | .error (.send f) => .next (paid (f s).1 (setWait t c h len (ends || h.stop) dst (.window (f s).2)))
  | .error (.fault f) => .fault f
  | .error (.refuse r) => .refused r
  | .error .idle => .next s
  | .error (.efault _ _ _ _) => .next s

/-- One dealer instruction: head, length in words, whether it always ends its group, its destination where a later step
completes it, and its effect. With a false guard only the group and the next address move (R40). -/
def dealer (h : Hd) (eff : M Eff) (s : State) (len : Nat := 1) (ends : Bool := false) (dst : Option Dst := none) :
    Host.Outcome State Fault Refusal :=
  let t := s.cur
  let c := (s.tile t).cur
  match s.ctx? t c with
  | none => .next s
  | some x =>
    if x.runnable then
      if x.pred h.guard then runEff t c x h len ends dst eff s
      else .next (complete t c len (ends || h.stop) (x.stepping && !x.active) {} s)
    else .next s

/-! ## One step of another agent -/

/-- Run an agent's effect on behalf of a tile's tenant, for a dealer that waits or for a block: its units are paid, or it stalls at the port with
nothing done (R419). -/
def paying (t : TileNo) (c : SlotNo) (who : Option (ChainNo × Nat)) (job : Nat) (m : M Unit) : M Unit := fun s =>
  let paid (s' : State) (f : State → Except Exit (Unit × State)) : Except Exit (Unit × State) :=
    match settleStep s t c who job s' with
    | some s'' => f s''
    | none => .error (.wait .again (markWaiting t c who job s'.reqs s))
  match m s with
  | .ok (_, s') => paid s' fun s => .ok ((), s)
  | .error (.wait k s') => paid s' fun s => .error (.wait k s)
  | .error e => .error e

/-- A step of another agent: a step that is not enabled changes nothing. -/
def agent (m : M Unit) (s : State) : Host.Outcome State Fault Refusal :=
  match m s with
  | .ok (_, s') => .next { s' with reqs := [] }
  | .error (.wait _ s') => .next { s' with reqs := [] }
  | .error (.fault f) => .fault f
  | .error (.refuse r) => .refused r
  | .error _ => .next s

/-- The context has the dealer: an instruction that waits completes there only (R321). -/
def onDealer (t : TileNo) (c : SlotNo) : M Unit := do enabled (← see fun s => (s.tile t).cur == c)

/-- A later step completes the instruction that a context waits in. -/
def finishWait (t : TileNo) (c : SlotNo) (w : Wait) (e : Eff) : M Unit := do
  onDealer t c
  let x ← getCtx t c
  modCtx t c fun y => match w.dst, e.val with
    | some d, some v => y.setDst d v
    | _, _ => y
  upd (complete t c w.len true (x.stepping && !x.active) e)

end Sys2Proof.Machine
end

