-- ==== Sys2Proof/Machine/Race.lean ====
section
/-!
DEFINITION. Scopes, releases and acquires with their epochs and frontiers (R341, R347, R348, R354), and the race check of
checked memory (R352 to R356).
-/
namespace Sys2Proof.Machine

/-- Tile u lies in tile t's instance of a scope (R341). -/
def inScope (sc : Scope) (t u : Nat) : Bool :=
  match sc with
  | .tile => t == u
  | .clu => clusterOf t == clusterOf u
  | .die => dieOf t == dieOf u
  | .dev | .dom => true

/-- A release at one scope and an acquire at another are mutually covering (R341). -/
def covering (sr : Scope) (r : Nat) (sa : Scope) (a : Nat) : Bool := inScope sr r a && inScope sa a r

/-- A release of a tile: snapshot, ring and epoch (R354). At TILE scope it has no snapshot. -/
def releaseAt (t : TileNo) (sc : Scope) (s : State) : State × Option Stamp :=
  match sc with
  | .tile => (s, none)
  | .clu | .die | .dev | .dom =>
    let x := s.tile t
    let fr := frRaise x.fr t x.ep
    (s.setTile t { x with fr := fr, ring := ((x.ep, fr) :: x.ring).take 32, ep := (x.ep + 1) % 4294967296 }, some (t, x.ep))

/-- A release of a tile. -/
def release (t : TileNo) (sc : Scope) : M (Option Stamp) := fun s => .ok ((releaseAt t sc s).2, (releaseAt t sc s).1)

/-- The frontier that travels with a release: its snapshot, or the tile's current frontier once that has left the ring. -/
def snapshot (s : State) (p : Stamp) : Frontier :=
  if h : p.1 < 384 then
    let x := s.tile ⟨p.1, h⟩
    match x.ring.find? (·.1 == p.2) with
    | some r => r.2
    | none => x.fr
  else []

/-- Merge the releases that an acquire of a tile synchronises with (R354). -/
def mergeAt (t : TileNo) (ps : List Stamp) (s : State) : State :=
  let fr := ps.foldl (fun f p => if p.1 = t.val then f else frMerge f (snapshot s p)) (s.tile t).fr
  s.setTile t { s.tile t with fr := fr }

/-- Merge the releases that an acquire synchronises with (R354). -/
def mergeStamps (t : TileNo) (ps : List Stamp) : M Unit := upd (mergeAt t ps)

/-- An acquire by a dealer: it merges, and invalidates the whole data cache (R342). -/
def dealerAcquire (t : TileNo) (ps : List Stamp) : M Unit := do
  mergeStamps t ps
  modTile t fun x => { x with dcache := [] }

/-- The published releases that an access of [k, k + n) by a tile at a scope synchronises with (R347). -/
def pubsAt (s : State) (fence : Bool) (sc : Scope) (t k n : Nat) : List Stamp :=
  s.pubs.filterMap fun p =>
    if p.fence == fence && decide (p.key < k + n) && decide (k < p.key + p.size) && covering p.scope p.tile sc t then p.stamp
    else none

/-- Take a place in the order of the AR operations: the earlier covering ones are acquired, and this one is listed (R348). -/
def soEnter (t : TileNo) (sc : Scope) (p : Option Stamp) : M Unit := do
  let old ← see (·.so)
  mergeStamps t (old.filterMap fun e => if covering e.1 e.2.1 sc t then some e.2.2 else none)
  match p with
  | none => pure ()
  | some p => upd fun s => { s with so := (sc, t.val, p) :: s.so.filter fun e => !(e.1 == sc && e.2.1 == t.val) }

/-- Releases to be carried with a record or a future, by physical address (R315, R323). -/
def carry (pa : Nat) (p : Option Stamp) : M Unit :=
  match p with
  | none => pure ()
  | some p => upd fun s =>
    let old := ((s.carried.find? (·.1 == pa)).map (·.2)).getD []
    { s with carried := (pa, p :: old) :: s.carried.filter (·.1 != pa) }

/-- The releases carried with a record or a future. -/
def carriedAt (s : State) (pa : Nat) : List Stamp := ((s.carried.find? (·.1 == pa)).map (·.2)).getD []

/-! ## The race check -/

/-- The largest value at most ep that equals the stored epoch modulo 64, if there is one (R355). -/
def expandEpoch (ep s : Nat) : Option Nat :=
  let d := (ep + 64 - s % 64) % 64
  if d ≤ ep then some (ep - d) else none

/-- A recorded access of tile x with stored epoch e is ordered before tile t's access (R355). -/
def orderedFor (s : State) (t x e : Nat) : Bool :=
  if x = t then true
  else if h : x < 384 then
    let ep := (s.tile ⟨x, h⟩).ep
    match expandEpoch ep e with
    | none => true
    | some E =>
      decide (ep - E ≥ 32) ||
      (if ht : t < 384 then (match frGet (s.tile ⟨t, ht⟩).fr x with
        | some f => decide (f ≥ E)
        | none => false) else false)
  else true

/-- WT, WE, WA, RT, RE and MANY packed into a tag (R353). -/
def mkTag (wt we : Nat) (wa : Bool) (rt re : Nat) (many : Bool) : BitVec 32 :=
  BitVec.ofNat 32 (wt + 512 * (we % 64) + 32768 * wa.toNat + 65536 * rt + 33554432 * (re % 64) + 2147483648 * many.toNat)

/-- The check of one granule (R355): the tag after the access, or nothing where it races. A write, atomic or not, is checked against the last read,
atomic or not, as the steps of R355 say (log 147). -/
def raceTag (s : State) (t : TileNo) (tag : BitVec 32) (write atomic : Bool) : Option (BitVec 32) :=
  let v := tag.toNat
  let wt := v % 512
  let we := v / 512 % 64
  let wa := v / 32768 % 2 == 1
  let rt := v / 65536 % 512
  let re := v / 33554432 % 64
  let many := v / 2147483648 == 1
  let ep := (s.tile t).ep
  if wt != 0x1FF && wt != 0x1FD && !(wa && atomic) && !orderedFor s t wt we then none
  else if write && rt != 0x1FF && !orderedFor s t rt re then none
  else if write then some (mkTag t ep atomic 0x1FF re false)
  else some (mkTag wt we wa t ep (many || (rt != 0x1FF && !orderedFor s t rt re)))

/-- The tile of the recorded pair that an access races with (R355, R356): the last writer, or the last reader where the writer is
ordered. -/
def racedTile (s : State) (t : TileNo) (tag : BitVec 32) (atomic : Bool) : Nat :=
  let v := tag.toNat
  let wt := v % 512
  if wt != 0x1FF && wt != 0x1FD && !(v / 32768 % 2 == 1 && atomic) && !orderedFor s t wt (v / 512 % 64) then wt else v / 65536 % 512

/-- The record of a race (R356): ADDR holds the granule's address, the accessing tile in bits 56 to 48 and NONE in bit 63; INFO the tag and
above it the accessing tile's FR entry for the recorded tile (log 114). -/
def raceRec (s : State) (t : TileNo) (x : Ctx) (g : Nat) (tag : BitVec 32) (atomic : Bool) : ErrRec :=
  let f := frGet (s.tile t).fr (racedTile s t tag atomic)
  causeRec s t x .race (BitVec.ofNat 64 (256 * g + 281474976710656 * t + 9223372036854775808 * f.isNone.toNat))
    (BitVec.ofNat 64 (tag.toNat + 4294967296 * f.getD 0))

/-- The check of an access that lies in one granule, and the update of its tag, in one step (R355). -/
def raceCheck (t : TileNo) (x : Ctx) (pa : Nat) (write atomic : Bool) : M (Option ErrRec) := do
  let g := pa / 256
  let tag ← see fun s => tagGet s.tags g
  match ← see fun s => raceTag s t tag write atomic with
  | some v => do
    upd fun s => { s with tags := tagSet s.tags g v }
    return none
  | none => return some (← see fun s => raceRec s t x g tag atomic)

/-- An arrival from a peer is recorded and not checked: WT names a peer, and the other fields stay (R352, R355). -/
def peerTag (pa : Nat) : M Unit :=
  upd fun s =>
    let v := (tagGet s.tags (pa / 256)).toNat
    { s with tags := tagSet s.tags (pa / 256) (BitVec.ofNat 32 (v / 512 * 512 + 0x1FD)) }

end Sys2Proof.Machine
end

