-- ==== Sys2Proof/Machine/Translate.lean ====
section
/-!
DEFINITION. Address translation: page-table entries (R386, R387), the walk (R389), the TLB that may still hold an old leaf
(R390, log 8), the grant maps of the pools (R344), and which memory is checked (R352).
-/
namespace Sys2Proof.Machine

/-- A field of a page-table entry. -/
def pteBits (e lo n : Nat) : Nat := e / 2 ^ lo % 2 ^ n
/-- ADDR of an entry: physical address bits 47 to 8 (R387). -/
def pteAddr (e : Nat) : Nat := pteBits e 16 40 * 256
/-- The bytes a leaf of a size code maps (R386). -/
def leafBytes (size : Nat) : Nat :=
  match size with
  | 0 => 65536
  | 1 => 2097152
  | 2 => 33554432
  | _ => 1073741824

/-- A level of the tree (R386). -/
inductive PtLevel | root | l1 | l0
  deriving DecidableEq, Repr

/-- A pool takes leaves of 64 KiB and 2 MiB only; HBM4 takes all (R388). -/
def leafFits (pa size : Nat) : Bool :=
  (isHbm pa && isHbm (pa + leafBytes size - 1)) || (size ≤ 1 && (poolPlace pa).isSome)

/-- A valid entry is well formed at its level (R387); `first` says it is the first of its aligned group of 16. -/
def pteOk (lv : PtLevel) (first : Bool) (e : Nat) : Bool :=
  pteBits e 7 9 == 0 && pteBits e 56 8 == 0 &&
  (let size := pteBits e 2 2
   let pa := pteAddr e
   if pteBits e 1 1 == 1 then
     (match lv with
      | .root => size == 3
      | .l1 => size == 1 || (size == 2 && first)
      | .l0 => size == 0) && pa % leafBytes size == 0 && leafFits pa size
   else
     size == 0 && pteBits e 4 3 == 0 &&
     (match lv with
      | .root => pa % 4096 == 0
      | .l1 => pa % 256 == 0
      | .l0 => false) && isHbm pa)

/-- The entry is valid, well formed and a leaf. -/
def pteLeaf (lv : PtLevel) (first : Bool) (e : Nat) : Bool := e % 2 == 1 && pteOk lv first e && pteBits e 1 1 == 1
/-- The entry is valid, well formed and a pointer. -/
def ptePointer (lv : PtLevel) (first : Bool) (e : Nat) : Bool := e % 2 == 1 && pteOk lv first e && pteBits e 1 1 == 0

/-- How a walk ends: a leaf, or a cause with the bytes it adds to DROPCNT; with the addresses of the entries it read. -/
structure Walk where
  leaf  : Except (Cause × Nat) TlbEntry
  reads : List Nat

/-- The leaf that an entry gives for an address. -/
def leafOf (job va e : Nat) : TlbEntry :=
  let size := pteBits e 2 2
  { job, base := va / leafBytes size * leafBytes size, size, pa := pteAddr e,
    w := pteBits e 4 1 == 1, x := pteBits e 5 1 == 1, chk := pteBits e 6 1 == 1 }

/-- One 8-byte read of the walker; an uncorrectable entry faults under strict and fails the walk otherwise (R389). A root off the physical map leads
nowhere (DESIGN CHOICE, log 156). -/
def readPte (s : State) (strict : Bool) (k : Nat) : Except (Cause × Nat) Nat :=
  if !onMap k then .error (.pageNotPresent, 0)
  else if badBytes s k 8 = 0 then .ok (readNat s k 8)
  else if strict then .error (.eccStrict, 0) else .error (.pageNotPresent, 8)

/-- The L0 step of the walk. -/
def walkL0 (s : State) (strict : Bool) (job va table : Nat) (rs : List Nat) : Walk :=
  let k := table + 8 * (va / 65536 % 32)
  match readPte s strict k with
  | .error c => ⟨.error c, k :: rs⟩
  | .ok e => if pteLeaf .l0 true e then ⟨.ok (leafOf job va e), k :: rs⟩ else ⟨.error (.pageNotPresent, 0), k :: rs⟩

/-- The L1 step: the first entry of the group of 16, then the indexed one (R386). -/
def walkL1 (s : State) (strict : Bool) (job va table : Nat) (rs : List Nat) : Walk :=
  let i := va / 2097152 % 512
  let g := i / 16 * 16
  let r0 := (table + 8 * g) :: rs
  match readPte s strict (table + 8 * g) with
  | .error c => ⟨.error c, r0⟩
  | .ok e0 =>
    if pteLeaf .l1 true e0 && pteBits e0 2 2 == 2 then ⟨.ok (leafOf job va e0), r0⟩
    else
      let n := if i = g then r0 else (table + 8 * i) :: r0
      match (if i = g then .ok e0 else readPte s strict (table + 8 * i)) with
      | .error c => ⟨.error c, n⟩
      | .ok e =>
        if pteLeaf .l1 (i == g) e then ⟨.ok (leafOf job va e), n⟩
        else if ptePointer .l1 (i == g) e then walkL0 s strict job va (pteAddr e) n
        else ⟨.error (.pageNotPresent, 0), n⟩

/-- The walk of a device-virtual address through the tables from a root (R386 to R389). -/
def walkTables (s : State) (strict : Bool) (job root va : Nat) : Walk :=
  if va / 2 ^ 48 ≠ 0 then ⟨.error (.pageNotPresent, 0), []⟩
  else
    let k := root + 8 * (va / 1073741824)
    match readPte s strict k with
    | .error c => ⟨.error c, [k]⟩
    | .ok e =>
      if pteLeaf .root true e then ⟨.ok (leafOf job va e), [k]⟩
      else if ptePointer .root true e then walkL1 s strict job va (pteAddr e) [k]
      else ⟨.error (.pageNotPresent, 0), [k]⟩

/-- A leaf reaches into a carve-out, which programs cannot address (R20, log 113). -/
def State.carved (s : State) (e : TlbEntry) : Bool :=
  s.carve.any fun c => decide (c.1 < e.pa + leafBytes e.size) && decide (e.pa < c.1 + carveBytes)

/-- The walk of a device-virtual address from a root table; a leaf that reaches into a carve-out is not there. -/
def walkFrom (s : State) (strict : Bool) (job root va : Nat) : Walk :=
  let w := walkTables s strict job root va
  match w.leaf with
  | .ok e => if s.carved e then ⟨.error (.pageNotPresent, 0), w.reads⟩ else w
  | .error _ => w

/-- The walk of a device-virtual address of a job. -/
def walk (s : State) (strict : Bool) (job va : Nat) : Walk :=
  match s.job? job with
  | none => ⟨.error (.pageNotPresent, 0), []⟩
  | some j => walkFrom s strict job j.ptbase va

/-- The HBM4 stack that holds an address: each of the 16 holds 48 GiB, in the order of the addresses (R15, R450, log 28). -/
def stackOf (pa : Nat) : Nat := pa / 51539607552 % 16

/-- The die that an address of the physical map belongs to (R15, log 28). -/
def dieOfPa (pa : Nat) : Nat :=
  match poolPlace pa with
  | some (.cluster c _) => c / 6
  | some (.die d _) => d
  | none => stackOf pa / 2

/-- The HBM and the NET units of an access of a tile to the physical map (R418). -/
def unitsAt (t : TileNo) (pa n : Nat) : Nat × Nat :=
  (if isHbm pa then unitsOf n else 0, if dieOfPa pa = (dieNo t).val then 0 else unitsOf n)

/-- Meter one access of a tile to the physical map (R418). -/
def meterPa (t : TileNo) (pa n : Nat) : M Unit := upd (State.request (unitsAt t pa n).1 (unitsAt t pa n).2)

/-- The TLB entry that covers an address of a job. -/
def tlbFind (tlb : List TlbEntry) (job va : Nat) : Option TlbEntry :=
  tlb.find? fun e => e.job == job && decide (e.base ≤ va) && decide (va < e.base + leafBytes e.size)

/-- Forget the entry that covers an address. -/
def tlbDrop (tlb : List TlbEntry) (job va : Nat) : List TlbEntry :=
  tlb.filter fun e => !(e.job == job && decide (e.base ≤ va) && decide (va < e.base + leafBytes e.size))

/-- The TLB with a new entry: the oldest goes when it would hold more than 512 (R24, R390). -/
def tlbAdd (tlb : List TlbEntry) (va : Nat) (e : TlbEntry) : List TlbEntry := (e :: tlbDrop tlb e.job va).take 512

/-- Translate on a tile. An entry that the tables no longer give may still be used, until a TINV (R390, log 8). -/
def xlate (t : TileNo) (strict : Bool) (job va : Nat) : M (Except (Cause × Nat) TlbEntry) := do
  let w ← see fun s => walk s strict job va
  let old ← see fun s => tlbFind (s.tile t).tlb job va
  let fresh : M (Except (Cause × Nat) TlbEntry) := do
    w.reads.forM fun k => meterPa t k 8
    modTile t fun x => { x with tlb := match w.leaf with
      | .ok e => tlbAdd x.tlb va e
      | .error _ => tlbDrop x.tlb job va }
    return w.leaf
  match old with
  | none => fresh
  | some e =>
    match w.leaf with
    | .ok f => if e = f then return .ok e else if ← drawBit then return .ok e else fresh
    | .error _ => if ← drawBit then return .ok e else fresh

/-- The physical address that a leaf gives. -/
def leafPa (e : TlbEntry) (va : Nat) : Nat := e.pa + (va - e.base)

/-! ## Grants and checked memory -/

/-- The grant of the chunk a pool address lies in (R344). -/
def State.grantAt (s : State) (pa : Nat) : Option Grant :=
  match poolPlace pa with
  | some (.cluster c k) => (s.clusters.get c).grants.get k
  | some (.die d k) => (s.dies.get d).grants.get k
  | none => none

/-- The cause that the grant map gives an access of a job to a physical address, if any (R344). -/
def grantFault (s : State) (job pa : Nat) (write : Bool) : Option Cause :=
  if (poolPlace pa).isNone then none
  else match s.grantAt pa with
    | none => some .outOfPool
    | some g => if g.job != job then some .outOfPool else if write && !g.write then some .pagePermission else none

/-- GRANT, WRITE and CHECKED of a job's own entry for the chunk that a pool address lies in (R344). -/
def State.entryOf (s : State) (job pa : Nat) : Bool × Bool × Bool :=
  match (s.grantAt pa).filter (·.job == job), s.ungranted.find? fun e => e.1 == job && e.2.1 == pa / 1048576 * 1048576 with
  | some g, _ => (true, g.write, g.checked)
  | none, some e => (false, e.2.2.1, e.2.2.2)
  | none, none => (false, false, false)

/-- The address is checked memory: a chunk's CHECKED overrides the leaf's, and a leaf in HBM4 acts as CHK once its GiB has a carve-out (R20, R352,
R388, log 113). -/
def checkedAt (s : State) (pa : Nat) (chk : Bool) : Bool :=
  if (poolPlace pa).isSome then (match s.grantAt pa with
    | some g => g.checked
    | none => false) else chk && s.hasCarve (pa / 1073741824)

/-- What a job's own tables say of an address: as `checkedAt`, with the job's entry of a chunk it has no GRANT to (R344, R388, R393). -/
def checkedFor (s : State) (job pa : Nat) (chk : Bool) : Bool :=
  if (poolPlace pa).isSome then (s.entryOf job pa).2.2 else checkedAt s pa chk

end Sys2Proof.Machine
end

