-- ==== Sys2Proof/Machine/Access.lean ====
section
/-!
DEFINITION. The dealer's memory accesses: spaces (R104, R105), the order of the checks (R106), the data cache (R108, log 6),
error modes (R381), and the plain reads and writes that firmware and address operands make. Peer windows are in Peers.lean.
-/
namespace Sys2Proof.Machine

/-- Where a dealer address leads. -/
inductive Place
  /-- A physical address, with whether the cache may hold it and whether it is checked. -/
  | phys (pa : Nat) (cached checked : Bool)
  /-- A byte of a tile's scratchpad. -/
  | pad (t : Nat) (off : Nat)
  /-- A peer window and the offset in it. -/
  | window (w off : Nat)
  deriving DecidableEq, Repr

/-- The space of an address: bits 63 to 60. -/
def spaceOf (a : Word) : Nat := a.toNat / 1152921504606846976
/-- Bits 59 to 0 of an address. -/
def offOf (a : Word) : Nat := a.toNat % 1152921504606846976

/-- The address is in a space of R104 with no bit outside the bits the space uses. -/
def spaceOk (a : Word) : Bool :=
  let o := offOf a
  match spaceOf a with
  | 0x0 => true
  | 0x8 => decide (o < 16777216)
  | 0x9 => decide (o < 33554432)
  | 0xA => decide (o < 134217728)
  | 0xB => decide (o / 4294967296 < 384) && decide (o % 4294967296 < 16777216)
  | 0xC => decide (o < 281474976710656)
  | _ => false

/-- The scratchpad bytes of a partition word (R105, R128). -/
def padBytes (partw : BitVec 32) : Nat := partw.toNat / 256 % 64 * 196608

/-- The capacity of deck n of a tile; 0 where the deck is disabled (R318). -/
def deckCap (x : Tile) (n : Fin 4) : Nat :=
  let c := ((x.dkl.get n).toNat - (x.dkb.get n).toNat) / 8
  if [8, 16, 32, 64, 128, 256, 512, 1024, 2048, 4096, 8192, 16384, 32768].contains c then c else 0

/-- [off, off + n) of a tile's scratchpad reaches a deck ring (R318). -/
def hitsDeck (x : Tile) (off n : Nat) : Bool :=
  (List.finRange 4).any fun d =>
    deckCap x d != 0 && decide (off < (x.dkl.get d).toNat) && decide ((x.dkb.get d).toNat < off + n)

/-- A resident context of a job on a tile, in slot order. -/
def residentOf (x : Tile) (job : Nat) : Option Ctx :=
  match x.slots.get 0, x.slots.get 1 with
  | some a, b => if a.job = job then some a else (match b with
    | some b => if b.job = job then some b else none
    | none => none)
  | none, some b => if b.job = job then some b else none
  | none, none => none

/-- Strict error mode (R373). -/
def Ctx.strict (x : Ctx) : Bool := x.errmode.getLsbD 0

/-- A cause with the bytes it drops (R389). -/
def trapDrop {α : Type} (c : Cause) (a : Word) (drops : Nat) (recs : List ErrRec := []) : M α :=
  fun s => .error (.trap c a ⟨drops, recs, s.free, s.reqs⟩)

/-- A failed walk: its cause, with the entry it could not read counted and recorded (R381, R389). -/
def walkTrap {α : Type} (t : TileNo) (x : Ctx) (c : Cause) (eval a : Word) (drops : Nat) : M α := do
  let r ← see fun s => causeRec s t x .eccStrict a (BitVec.ofNat 64 drops)
  trapDrop c eval drops (if drops = 0 then [] else [r])

/-- Step 3 of R106 for space 0x0: translation, permission and the grant map. -/
def devPlace (t : TileNo) (x : Ctx) (a : Word) (write : Bool) : M (Nat × Bool) := do
  match ← xlate t x.strict x.job (offOf a) with
  | .error (c, n) => walkTrap t x c a a n
  | .ok e => do
    check (e.w || !write) .pagePermission a
    let pa := leafPa e (offOf a)
    match ← see fun s => grantFault s x.job pa write with
    | some c => trap c a
    | none => return (pa, ← see fun s => checkedAt s pa e.chk)

/-- A place in a pool, with its grant (R344). -/
def poolAccess (x : Ctx) (a : Word) (pa : Nat) (write : Bool) : M Place := do
  match ← see fun s => grantFault s x.job pa write with
  | some c => trap c a
  | none => do
    let chk ← see fun s => checkedAt s pa false
    return .phys pa (!chk) chk

/-- Step 3 of R106: where an access of n bytes leads, with the faults of its space. -/
def resolve (t : TileNo) (x : Ctx) (a : Word) (n : Nat) (write : Bool) : M Place := do
  let o := offOf a
  match spaceOf a with
  | 0x0 => do
    let (pa, chk) ← devPlace t x a write
    return .phys pa (!chk) chk
  | 0x8 => do
    check (decide (o + n ≤ padBytes x.partw)) .outOfPool a
    check (!hitsDeck (← see (·.tile t)) o n) .outOfPool a
    return .pad t o
  | 0x9 => poolAccess x a (clPoolAt (t / 8) o) write
  | 0xA => poolAccess x a (diePoolAt (t / 48) o) write
  | 0xB => do
    let u := o / 4294967296
    let off := o % 4294967296
    if h : u < 384 then do
      let y ← see (·.tile ⟨u, h⟩)
      match residentOf y x.job with
      | none => trap .outOfPool a
      | some r => do
        check (decide (off + n ≤ padBytes r.partw)) .outOfPool a
        check (!hitsDeck y off n) .outOfPool a
        meterIf (dieOf u != dieOf t) n
        return .pad u off
    else trap .addressSpace a
  | 0xC => return .window (o / 1099511627776) (o % 1099511627776)
  | _ => trap .addressSpace a
where
  /-- A request to a scratchpad on another die is charged NET (R418). -/
  meterIf (far : Bool) (n : Nat) : M Unit := if far then meterNet n else pure ()

/-- Steps 1 and 2 of R106. -/
def accessChecks (a : Word) (n : Nat) : M Unit := do
  check (spaceOk a) .addressSpace a
  check (a.toNat % n == 0) .misalignedData a

/-- Step 4 of R106: the race check of a checked place. -/
def raceStep (t : TileNo) (x : Ctx) (a : Word) (p : Place) (write atomic : Bool) : M Unit := do
  match p with
  | .phys pa _ true => do
    match ← raceCheck t x pa write atomic with
    | none => pure ()
    | some r => trapDrop .race a 0 [r]
  | .phys _ _ false | .pad _ _ | .window _ _ => pure ()

/-- Step 5 of R106 for n bytes read at a key: strict faults, counted-drop counts the bytes and delivers zeros (R381). -/
def eccRead (t : TileNo) (c : SlotNo) (x : Ctx) (a : Word) (k n : Nat) : M (List Byte) := do
  let bad ← see fun s => badBytes s k n
  if bad = 0 then see fun s => cellsRead s.mem k n
  else if x.strict then trap .eccStrict a
  else do
    modCtx t c fun y => { y with dropcnt := BitVec.ofNat 32 (min (y.dropcnt.toNat + bad) 0xFFFFFFFF) }
    recordCause t x .eccStrict a (BitVec.ofNat 64 bad)
    see fun s => readBytes s k n

/-- Bytes that a dealer access has found, `bad` of which cannot be read and stand as zeros: strict faults, counted-drop counts and records them
(R381). -/
def deliverBad {α : Type} (t : TileNo) (c : SlotNo) (x : Ctx) (a : Word) (bad : Nat) (v : α) : M α := do
  if bad = 0 then return v
  else if x.strict then trap .eccStrict a
  else do
    modCtx t c fun y => { y with dropcnt := BitVec.ofNat 32 (min (y.dropcnt.toNat + bad) 0xFFFFFFFF) }
    recordCause t x .eccStrict a (BitVec.ofNat 64 bad)
    return v

/-- Keep the fence releases among those that a read of this dealer takes its value from (R347). -/
def noteFences (t : TileNo) (c : SlotNo) (ps : List Pub) : M Unit :=
  let ps := ps.filter (·.fence)
  if ps.isEmpty then pure ()
  else modCtx t c fun y => { y with seen := ps ++ y.seen.filter fun p => !ps.contains p }

/-- The releases published at a place. -/
def pubsOver (s : State) (k n : Nat) : List Pub := s.pubs.filter fun p => decide (p.key < k + n) && decide (k < p.key + p.size)

/-- Collect the fence releases that a read of a place takes its value from. -/
def noteRead (t : TileNo) (c : SlotNo) (k n : Nat) : M Unit := do noteFences t c (← see fun s => pubsOver s k n)

/-- The requests of accesses to the doublewords of n bytes of the physical map (R311, R418). -/
def meterDws (t : TileNo) (k n : Nat) : M Unit := (List.range ((n + 7) / 8)).forM fun i => meterPa t (k + 8 * i) 8

/-- An access of hardware for a dealer's instruction to n bytes of the physical map: as reads of doublewords by that dealer, with their bytes to be
used elsewhere (R311, R347, R381, R418, R453). -/
def eccTouch (t : TileNo) (c : SlotNo) (x : Ctx) (a : Word) (k n : Nat) : M Unit := do
  noteRead t c k n
  meterDws t k n
  let _ ← eccRead t c x a k n

/-- A release published within [k, k + n). -/
def Pub.over (k n : Nat) (p : Pub) : Bool := decide (p.key < k + n) && decide (k < p.key + p.size)

/-- The line at an address leaves the data cache. -/
def dropLine (l : List Line) (base : Nat) : List Line := l.filter (·.base != base)
/-- A filled line; the oldest goes when the cache would hold more than 512 (R18, R108). -/
def addLine (l : List Line) (x : Line) : List Line := (x :: dropLine l x.base).take 512

/-- A write of this dealer after its release fences publishes them at the place (R347). -/
def publish (t : TileNo) (x : Ctx) (k n : Nat) : M Unit :=
  if x.fences.isEmpty then pure ()
  else upd fun s => { s with pubs := (x.fences.map fun f => ⟨k, n, true, f.1, t, f.2⟩) ++ s.pubs }

/-- The byte of a line at an address cannot be read (R381). -/
def Line.lost (l : Line) (pa : Nat) : Bool := l.bad.contains (pa % 64 / 8)

/-- Read a place through the data cache (R108, R381). A line that differs from memory may still be there or have gone (log 6). -/
def cachedRead (t : TileNo) (c : SlotNo) (x : Ctx) (a : Word) (pa n : Nat) : M (List Byte) := do
  let base := pa / 64 * 64
  let line ← see fun s => (s.tile t).dcache.find? (·.base == base)
  let fill : M (List Byte) := do
    noteRead t c pa n
    meterPa t pa n
    let v ← eccRead t c x a pa n
    let bad ← see fun s => badBytes s base 64
    let new ← see fun s => Line.mk base (cellsRead s.mem base 64) (pubsOver s base 64) []
    modTile t fun y => { y with dcache := if bad = 0 then addLine y.dcache new else dropLine y.dcache base }
    return v
  match line with
  | none => fill
  | some l => do
    let lost := (List.range n).map fun i => l.lost (pa + i)
    let old := (((l.bytes.drop (pa - base)).take n).zip lost).map fun p => if p.2 then 0 else p.1
    let bad := lost.count true
    let hit : M (List Byte) := do
      noteFences t c (l.pubs.filter (Pub.over pa n))
      deliverBad t c x a bad old
    let same ← see fun s => bad == 0 && badBytes s pa n == 0 && cellsRead s.mem pa n == old
    if same then hit
    else if ← drawBit then hit
    else fill

/-- Deliver the bytes of a resolved read. Windows have been handled by the caller. -/
def placeRead (t : TileNo) (c : SlotNo) (x : Ctx) (a : Word) (p : Place) (n : Nat) : M (List Byte) := do
  match p with
  | .phys pa cached _ => do
    if cached then cachedRead t c x a pa n
    else do
      noteRead t c pa n
      meterPa t pa n
      eccRead t c x a pa n
  | .pad u off => do
    noteRead t c (spAt u off) n
    eccRead t c x a (spAt u off) n
  | .window _ _ => exit .idle

/-- The line of a cached write is updated where it is present (R108). -/
def lineWrite (l : List Byte) (i : Nat) (bs : List Byte) : List Byte := l.take i ++ bs ++ l.drop (i + bs.length)

/-- The lines after a write of this dealer: the one that holds the place is updated; the releases read there are the write's own, and a code word
that the write covers whole can be read again (log 39). -/
def writeLines (ls : List Line) (pa : Nat) (bs : List Byte) : List Line :=
  ls.map fun l =>
    if l.base == pa / 64 * 64 then
      { l with bytes := lineWrite l.bytes (pa % 64) bs, pubs := l.pubs.filter fun p => !p.over pa bs.length
               bad := l.bad.filter fun i => !(decide (pa ≤ l.base + 8 * i) && decide (l.base + 8 * i + 8 ≤ pa + bs.length)) }
    else l

/-- The key of a place; windows have none. -/
def Place.key (p : Place) : Option Nat :=
  match p with
  | .phys pa _ _ => some pa
  | .pad u off => some (spAt u off)
  | .window _ _ => none

/-- Step 5 of R106 for a store: under strict, bytes of an uncorrectable code word fault (R453, log 115). -/
def eccWrite (x : Ctx) (a : Word) (p : Place) (n : Nat) : M Unit :=
  match p.key with
  | none => pure ()
  | some k => do check (!x.strict || (← see fun s => badBytes s k n) == 0) .eccStrict a

/-- Perform a resolved write. -/
def placeWrite (t : TileNo) (x : Ctx) (p : Place) (bs : List Byte) (rmw : Bool := false) : M Unit := do
  match p with
  | .phys pa _ _ => do
    meterPa t pa bs.length
    upd fun s => writeBytes s pa bs rmw
    publish t x pa bs.length
    modTile t fun y => { y with
      dcache := if rmw then dropLine y.dcache (pa / 64 * 64) else writeLines y.dcache pa bs }
  | .pad u off => do
    upd fun s => writeBytes s (spAt u off) bs rmw
    publish t x (spAt u off) bs.length
  | .window _ _ => exit .idle

/-- A dealer load of n bytes outside the windows, after step 1 and 2. -/
def loadPlace (t : TileNo) (c : SlotNo) (x : Ctx) (a : Word) (p : Place) (n : Nat) : M Word := do
  raceStep t x a p false false
  let bs ← placeRead t c x a p n
  return BitVec.ofNat 64 (leNat bs)

/-- A dealer store outside the windows. -/
def storePlace (t : TileNo) (x : Ctx) (a : Word) (p : Place) (n : Nat) (v : Word) : M Unit := do
  raceStep t x a p true false
  eccWrite x a p n
  placeWrite t x p (natLe n v.toNat)

/-! ## Writes of hardware for a dealer -/

/-- The words of memory that a step has written: they stand in `hist` (R109). -/
def wroteSince (s s' : State) : List Nat := (s'.hist.take (s'.hist.length - s.hist.length)).map (·.1)

/-- The requests of the doublewords of the physical map that a step has written, the first one first (R311, R418). -/
def wroteReqs (t : TileNo) (s s' : State) : List (Nat × Nat) :=
  (((wroteSince s s').reverse.map (· / 8 * 8)).dedup.map fun k => unitsAt t k 8).filter (· != (0, 0))

/-- An effect of hardware on records, futures and grids, with the requests of its writes (R418). -/
def metering {α : Type} (t : TileNo) (m : M α) : M α := fun s =>
  match m s with
  | .ok (a, s') => .ok (a, { s' with reqs := s'.reqs ++ wroteReqs t s s' })
  | .error e => .error e

/-- The writes of hardware in an instruction are its dealer's: its release fences are published there, and its data cache keeps no older copy of
their lines (R108, R347, R349). -/
def ownLines (t : TileNo) (x : Ctx) (s s' : State) : State :=
  let ws := wroteSince s s'
  let ps : List Pub := ws.flatMap fun w => x.fences.map fun f => Pub.mk w 4 true f.1 t f.2
  let s' := { s' with pubs := ps ++ s'.pubs }
  s'.setTile t { s'.tile t with dcache := (s'.tile t).dcache.filter fun l => !ws.any fun w => l.base == w / 64 * 64 }

/-- The writes of records, futures and grids in an instruction: its dealer's, with their requests (R418). -/
def ownWrites (t : TileNo) (x : Ctx) (s s' : State) : State :=
  ownLines t x s { s' with reqs := s'.reqs ++ wroteReqs t s s' }

/-- An effect whose writes by hardware are its dealer's, as `f` takes them. -/
def owningBy (f : TileNo → Ctx → State → State → State) (m : M Eff) : M Eff := fun s =>
  match m s with
  | .ok (e, s') => .ok (e, match s.ctx? s.cur (s.tile s.cur).cur with
    | some x => f s.cur x s s'
    | none => s')
  | .error e => .error e

/-- An effect whose writes of records, futures and grids are its dealer's. -/
def owning (m : M Eff) : M Eff := owningBy ownWrites m
/-- An effect whose writes of areas and queues are its dealer's; it makes their requests itself. -/
def owningArea (m : M Eff) : M Eff := owningBy ownLines m

/-! ## Address operands of system instructions -/

/-- The checks of an address operand: space 0x0, alignment, then the page (chapter 15). The access behind it is an atomic
(R311), so on a checked page it is checked as one (R355). -/
def operandPlace (t : TileNo) (x : Ctx) (a : Word) (align : Nat) (write : Bool) : M Nat := do
  check (spaceOf a == 0) .atomicSpace a
  check (a.toNat % align == 0) .misalignedData a
  let (pa, chk) ← devPlace t x a write
  raceStep t x a (.phys pa false chk) write true
  modTile t fun y => { y with dcache := dropLine y.dcache (pa / 64 * 64) }
  return pa

/-- An indivisible 8-byte read at device scope by hardware (R311). -/
def read8 (pa : Nat) : M Nat := see fun s => readNat s pa 8
/-- An indivisible 8-byte write at device scope by hardware (R311). -/
def write8 (pa v : Nat) : M Unit := upd fun s => writeNat s pa 8 v

end Sys2Proof.Machine
end

