-- ==== Sys2Proof/Machine/Bind.lean ====
section
/-!
DEFINITION. Linked-queue endpoints and arrival bindings as state: access, and what removing a binding does (R409, R411, R414).
-/
namespace Sys2Proof.Machine

/-- An endpoint of a tile; a tile number out of range has a free one. -/
def State.ep (s : State) (t : Nat) (e : Fin 8) : Endpoint := if h : t < 384 then (s.tile ⟨t, h⟩).eps.get e else {}
/-- Change an endpoint. -/
def State.modEp (s : State) (t : Nat) (e : Fin 8) (f : Endpoint → Endpoint) : State :=
  if h : t < 384 then
    let x := s.tile ⟨t, h⟩
    s.setTile ⟨t, h⟩ { x with eps := x.eps.set e (f (x.eps.get e)) }
  else s

/-- Endpoint e of tile t, as it stands in p, and endpoint n of tile u, as it stands in q, are the ends of one queue: each is bound to the other in
the other role, and both bindings were made after the last unbinding of either (R409). -/
def Endpoint.meets (t : Nat) (e : Fin 8) (p : Endpoint) (u : Nat) (n : Fin 8) (q : Endpoint) : Bool :=
  match p.bind, q.bind with
  | some b, some r =>
    b.dev.isNone && b.tile == u && b.ep == n && r.dev.isNone && r.tile == t && r.ep == e && r.consumer != b.consumer &&
      decide (max p.unbound q.unbound < min p.bound q.bound)
  | _, _ => false

/-- The queue of an endpoint has formed: the peer is bound to it in the other role, and both bindings were made after the last
unbinding of either (R409). -/
def State.formed (s : State) (t : Nat) (e : Fin 8) : Bool :=
  let p := s.ep t e
  match p.bind with
  | none => false
  | some b =>
    match b.dev with
    | some d => p.far.contains (d, b.tile, b.ep, !b.consumer) && decide (p.unbound < p.bound)
    | none => p.meets t e b.tile b.ep (s.ep b.tile b.ep)

/-- The entries that a producer's end has pushed reach the consumer's end, on its tile or with the context that took it along (R411). -/
def deliverFlight (t : TileNo) (e : Fin 8) (p : Endpoint) (s : State) : State :=
  match p.bind with
  | none => s
  | some b =>
    let hit (q : Endpoint) : Bool := !b.consumer && p.meets t e b.tile b.ep q
    let add (q : Endpoint) : Endpoint := { q with entries := q.entries ++ p.flight }
    let s := if hit (s.ep b.tile b.ep) then s.modEp b.tile b.ep add else s
    let one (g : Saved) (q : Fin 8 × Endpoint) : Fin 8 × Endpoint := if g.tile.val = b.tile ∧ q.1 = b.ep ∧ hit q.2 = true then (q.1, add q.2) else q
    { s with saved := s.saved.map fun g => { g with eps := g.eps.map (one g) } }

/-- Unbind an endpoint: a consumer discards its entries, a producer's pushed entries are delivered first (R411). -/
def unbindEp (t : TileNo) (e : Fin 8) (s : State) : State :=
  let p := s.ep t e
  match p.bind with
  | none => s
  | some _ =>
    let s := deliverFlight t e p s
    { s with bindNo := s.bindNo + 1 }.modEp t e fun q =>
      { q with bind := none, unbound := s.bindNo + 1, entries := [], flight := [], back := 0, far := [] }

/-- Bind an endpoint (R413): a fresh queue end, with all the credits of a queue that has formed (R410). -/
def bindEp (t : TileNo) (e : Fin 8) (b : EpBind) (s : State) : State :=
  { s with bindNo := s.bindNo + 1 }.modEp t e fun q =>
    { bind := some b, bound := s.bindNo + 1, unbound := q.unbound, far := q.far }

/-- Another device reports that it has bound an endpoint to this one (R409, log 118). -/
def farBound (t : TileNo) (e : Fin 8) (p : Nat × Nat × Fin 8 × Bool) (s : State) : State :=
  s.modEp t e fun q => { q with far := p :: q.far.filter (· != p) }

/-- The endpoint is bound to the end of a queue that another device reports. -/
def Endpoint.peerIs (q : Endpoint) (p : Nat × Nat × Fin 8 × Bool) : Bool := q.bind.any fun b => (b.dev, b.tile, b.ep) == (some p.1, p.2.1, p.2.2.1)

/-- Another device reports that it has unbound its end: its report goes, and a binding to it made here before no longer counts (R409, log 118). -/
def farUnbound (t : TileNo) (e : Fin 8) (p : Nat × Nat × Fin 8 × Bool) (s : State) : State :=
  { s with bindNo := s.bindNo + 1 }.modEp t e fun q =>
    { q with far := q.far.filter (· != p), unbound := if q.peerIs p then s.bindNo + 1 else q.unbound }

/-- Change the end of a queue that a context took along when it left tile t: the endpoint that is bound in the other role to (t, e) (R410, R411). -/
def State.modAway (s : State) (t : TileNo) (e : Fin 8) (consumer : Bool) (n : Fin 8) (f : Endpoint → Endpoint) : State :=
  let hit (g : Saved) (q : Fin 8 × Endpoint) : Bool :=
    g.tile == t && q.1 == n && q.2.bind.any fun b => b.dev.isNone && b.tile == t.val && b.ep == e && b.consumer != consumer &&
      decide (max (s.ep t e).unbound q.2.unbound < min (s.ep t e).bound q.2.bound)
  { s with saved := s.saved.map fun g => { g with eps := g.eps.map fun q => if hit g q then (q.1, f q.2) else q } }

/-- Clear the arrival binding of an inbound entry (R414). -/
def InWin.unbind (e : InWin) : InWin := { e with bound := false, btile := 0, bsem := 0, bctx := 0 }

/-- The entry is bound by a context of a job on a tile. -/
def InWin.boundBy (e : InWin) (t : TileNo) (job : Nat) (num : BitVec 16) : Bool :=
  e.bound && e.btile == t.val && e.job == job && e.bctx == num

/-- The endpoint is bound by a context. -/
def Endpoint.boundBy (p : Endpoint) (job : Nat) (num : BitVec 16) : Bool := p.bind.any fun b => b.job == job && b.num == num

/-- Unbind every endpoint and arrival binding that a context holds on a tile (R411, R448). -/
def unbindAll (t : TileNo) (job : Nat) (num : BitVec 16) (s : State) : State :=
  let s := (List.finRange 8).foldl (fun s e => if (s.ep t e).boundBy job num then unbindEp t e s else s) s
  { s with inWin := s.inWin.map fun w => if w.2.boundBy t job num then (w.1, w.2.unbind) else w }

/-- Unbind everything that a saved context holds: on its tile, and the queue ends that it took along, whose endpoints there have been unbound since
unless another context has bound them (R411, R448). -/
def unbindSaved (g : Saved) (s : State) : State :=
  let s := g.eps.foldl (fun s e => deliverFlight g.tile e.1 e.2 s) (unbindAll g.tile g.job g.num s)
  let s := { s with bindNo := s.bindNo + 1, saved := s.saved.map fun k => if k.job = g.job ∧ k.num = g.num then { k with eps := [] } else k }
  g.eps.foldl (fun s e => s.modEp g.tile e.1 fun p => if p.bind.isSome then p else { p with unbound := s.bindNo }) s

/-- The context holds a binding to another tile or an arrival binding: it is saved with QB = 1 (R411). -/
def State.holdsBindings (s : State) (t : TileNo) (job : Nat) (num : BitVec 16) : Bool :=
  ((List.finRange 8).any fun e => (s.ep t e).bind.any fun b => b.job == job && b.num == num && (b.dev.isSome || b.tile != t.val)) ||
  s.inWin.any fun w => w.2.boundBy t job num

end Sys2Proof.Machine
end

