-- ==== Sys2Proof/Machine/Records.lean ====
section
/-!
DEFINITION. Continuation records (R310 to R312), grids (R317), decks and the overflow queue (R318, R319), futures (R322 to
R326), groups (R328), and how a context ends: what END, a cancelled suspension point and an unhandled fault do to its record.
-/
namespace Sys2Proof.Machine

/-! ## Bit fields of a doubleword -/

/-- n bits of v from lo. -/
def bits (v lo n : Nat) : Nat := v / 2 ^ lo % 2 ^ n
/-- v with its n bits from lo replaced by x. -/
def setBits (v lo n x : Nat) : Nat := v % 2 ^ lo + 2 ^ lo * (x % 2 ^ n) + 2 ^ (lo + n) * (v / 2 ^ (lo + n))

/-- The leaf of a device-virtual address of a job as firmware reaches it; none where it does not translate, or leads to a pool chunk that the
job's grant map withholds (R388). -/
def hwLeaf (s : State) (job va : Nat) (write : Bool) : Option TlbEntry :=
  if va / 2 ^ 60 ≠ 0 then none
  else match (walk s false job va).leaf with
    | .error _ => none
    | .ok e => if (write && !e.w) || (grantFault s job (leafPa e va) write).isSome then none else some e

/-- A device-virtual address of a job as firmware reaches it. -/
def hwXlate (s : State) (job va : Nat) (write : Bool) : Option Nat := (hwLeaf s job va write).map fun e => leafPa e va

/-- The atomic access of the hardware, on behalf of a tile, to 8 bytes of a record or future (R311, R322): on a checked page it is checked
and tagged as one (R355). None where it races. -/
def hwTag (t : TileNo) (job va : Nat) (write : Bool) (s : State) : Option State :=
  match hwLeaf s job va write with
  | none => some s
  | some e =>
    let pa := leafPa e va
    if checkedAt s pa e.chk then
      (raceTag s t (tagGet s.tags (pa / 256)) write true).map fun v => { s with tags := tagSet s.tags (pa / 256) v }
    else some s

/-- The record that a leaf controller makes of a race on such an access (R356). -/
def hwRaceRec (s : State) (t : TileNo) (ctx job va : Nat) : ErrRec :=
  let pa := ((hwLeaf s job va false).map fun e => leafPa e va).getD 0
  raceRec s t { Ctx.blank with job, num := BitVec.ofNat 16 ctx } (pa / 256) (tagGet s.tags (pa / 256)) true

/-- Such an access of a dealer's instruction: it raises RACE where it races (R311, R356). -/
def ownTag (t : TileNo) (x : Ctx) (va : Word) (write : Bool) : M Unit := do
  match ← see (hwTag t x.job va.toNat write) with
  | some s' => upd fun _ => s'
  | none => trapDrop .race va 0 [← see fun s => hwRaceRec s t x.num.toNat x.job va.toNat]

/-- An access of the hardware that no instruction waits for: tagged; a race is recorded and leaves the tag (R311, R356, log 116). -/
def hwReach (t : TileNo) (job va : Nat) (write : Bool) (s : State) : State :=
  match hwTag t job va write s with
  | some s' => s'
  | none => s.addErr (hwRaceRec s t 0 job va)
/-- A write of that kind. -/
def hwTouch (t : TileNo) (job va : Nat) (s : State) : State := hwReach t job va true s

/-! ## Record fields (R310) -/

/-- Doubleword k of a record. -/
def recDw (s : State) (pa k : Nat) : Nat := readNat s (pa + 8 * k) 8
/-- Write doubleword k of a record in one indivisible access (R311). -/
def setRecDw (pa k v : Nat) (s : State) : State := writeNat s (pa + 8 * k) 8 v
/-- JOIN. -/
def recJoin (s : State) (pa : Nat) : Nat := bits (recDw s pa 2) 0 32
/-- PRIO. -/
def recPrio (s : State) (pa : Nat) : Fin 4 := ⟨bits (recDw s pa 2) 32 2, Nat.mod_lt _ (by decide)⟩
/-- CHECKED. -/
def recChecked (s : State) (pa : Nat) : Bool := bits (recDw s pa 2) 34 1 == 1
/-- STATE: 0 NEW, 1 PARKED, 2 QUEUED, 3 RUNNING, 4 SUSPENDED, 5 RETIRED. -/
def recState (s : State) (pa : Nat) : Nat := bits (recDw s pa 2) 36 3
/-- RESUME. -/
def recResume (s : State) (pa : Nat) : Bool := bits (recDw s pa 2) 39 1 == 1
/-- CTXNUM. -/
def recCtxnum (s : State) (pa : Nat) : Nat := bits (recDw s pa 2) 48 16
/-- PARENT. -/
def recParent (s : State) (pa : Nat) : Nat := recDw s pa 4
/-- Doubleword 2 with a new STATE. -/
def withState (v st : Nat) : Nat := setBits v 36 3 st
/-- Doubleword 2 of a retired record. -/
def withRetired (v cause : Nat) : Nat := setBits (withState v 5) 40 6 cause
/-- Doubleword 2 of a record that resumes context num. -/
def withResume (v st num : Nat) : Nat := setBits (setBits (withState v st) 39 1 1) 48 16 num

/-- The job's cancel flag stands in a cluster's job table (R327). -/
def State.cancelled (s : State) (cl : Fin 48) (job : Nat) : Bool := (s.clusters.get cl).cancels.contains job

/-- Set a job's cancel flag in a cluster's job table (R327). -/
def setCancel (job : Nat) (k : Fin 48) (s : State) : State :=
  let c := s.clusters.get k
  if c.cancels.contains job then s else { s with clusters := s.clusters.set k { c with cancels := job :: c.cancels } }

/-- All 48 job tables hold the job's cancel flag. -/
def State.cancelledAll (s : State) (job : Nat) : Bool := s.clusters.toList.all fun c => c.cancels.contains job

/-- Set a job's cancel flag in every cluster (R327). -/
def cancelJob (job : Nat) (s : State) : State := (List.finRange 48).foldl (fun s k => setCancel job k s) s

/-- An access of hardware to n bytes of HBM4 or a pool: those that it cannot read are zeros, which the leaf of the tile records (R381, R453, log
111). -/
def noteBad (t : TileNo) (job pa n : Nat) (s : State) : State :=
  let bad := badBytes s pa n
  if bad = 0 then s
  else s.addErr { cause := Cause.eccStrict.code, phys := false, src := t / 8, ctx := 0, job, frame := s.frame, addr := BitVec.ofNat 64 pa
                  info := BitVec.ofNat 64 bad }

/-! ## Grids (R317) -/

/-- Add to OUT of a grid word, for a record on a tile. -/
def gridUp (t : TileNo) (job va : Nat) (s : State) : State :=
  match hwXlate s job va true with
  | none => s
  | some pa =>
    let s := noteBad t job pa 8 s
    let v := readNat s pa 8
    writeNat s pa 8 (setBits v 0 32 (bits v 0 32 + 1))

/-- A job completes: its chunks are returned, its tenant number, its tiles and its cancel flags are free (R345, R417). Refills that are due still
count its tenant (R420). -/
def endJob (job : Nat) (s : State) : State :=
  match s.job? job with
  | none => s
  | some j =>
    let s := settleDies s
    let drop (g : Option Grant) : Option Grant := g.filter (·.job != job)
    { s with
      jobs := s.jobs.filter (·.id != job)
      ungranted := s.ungranted.filter (·.1 != job)
      clusters := s.clusters.map fun c => { c with grants := c.grants.map drop, cancels := c.cancels.filter (· != job) }
      dies := s.dies.map fun d => { d with grants := d.grants.map drop, buckets := d.buckets.filter (·.tenant != j.tenant) }
      tiles := s.tiles.map fun t => { t with padJob := t.padJob.filter (· != job) } }

/-- The packet runs a grid of a job. -/
def Pkt.runs (p : Pkt) (job va : Nat) : Bool := p.grid == some (job, va)

/-- A packet of the job has not completed its grid. -/
def State.gridOpen (s : State) (job : Nat) : Bool :=
  s.queues.toList.any fun q => q.started.any fun p => p.status.isNone && p.grid.any fun g => g.1 == job

/-- GRID_COMPLETE: the packets of a grid complete with a status, and the model slots they run have one grid less (R317, R436, R441);
when no grid of the job is left the job completes. -/
def gridDone (job va : Nat) (status : Option Nat) (s : State) : State :=
  let hit (p : Pkt) : Bool := p.runs job va && p.status.isNone
  let slots := s.queues.toList.flatMap fun q => q.started.filterMap fun p => if hit p then p.slot else none
  let close (p : Pkt) : Pkt := if hit p then { p with status := some (status.getD (if p.fault then 3 else 0)) } else p
  let s := { s with
    queues := s.queues.map fun q => { q with started := q.started.map close }
    models := slots.foldl (fun ms (k : Fin 64) => ms.set k { ms.get k with live := (ms.get k).live - 1 }) s.models }
  if s.gridOpen job then s else endJob job s

/-- The packets of a grid that an unhandled fault has ended (R436). -/
def gridFault (job va : Nat) (s : State) : State :=
  let mark (p : Pkt) : Pkt := if p.runs job va then { p with fault := true } else p
  { s with queues := s.queues.map fun q => { q with started := q.started.map mark } }

/-- Lower OUT of a grid word; a grid that completes lowers its parent's OUT, and so on upward. -/
def gridDown (t : TileNo) (fuel job va : Nat) (s : State) : State :=
  match fuel with
  | 0 => s
  | n + 1 =>
    match hwXlate s job va true with
    | none => s
    | some pa =>
      let s := noteBad t job pa 16 s
      let v := readNat s pa 8
      if bits v 0 32 = 0 then s
      else
        let s := writeNat s pa 8 (setBits v 0 32 (bits v 0 32 - 1))
        let up := readNat s (pa + 8) 8
        if bits v 0 32 ≠ 1 then s
        else gridDone job va none (if up ≠ 0 then gridDown t n job up s else s)

/-- Lower OUT of the grid a record counts in. Every grid that completes on the way up has a word whose OUT goes from 1 to 0, so the cells
of memory bound the way. -/
def gridLeave (t : TileNo) (job va : Nat) (s : State) : State := gridDown t (s.mem.length + 1) job va s

/-- Retire a record on behalf of a tile: STATE and CAUSE, then its count in its grid (R312, R317); a timetabled job no longer waits for it
(R329). -/
def retireRec (t : TileNo) (job va pa cause : Nat) (s : State) : State :=
  let s := noteBad t job (pa + 32) 8 (noteBad t job (pa + 16) 8 (hwTouch t job va s))
  let s := setRecDw pa 2 (withRetired (recDw s pa 2) cause) s
  let s := s.modJob job fun j => { j with pushed := j.pushed.filter (· != va) }
  gridLeave t job (recParent s pa) s

/-! ## Groups (R328) -/

/-- A group; one that is not listed is dissolved. -/
def State.group (s : State) (g : Nat) : Grp := (s.groups.find? (·.id == g)).getD { id := g }
/-- Set a group. -/
def State.setGroup (s : State) (g : Grp) : State := { s with groups := g :: s.groups.filter (·.id != g.id) }

/-- A barrier whose members have all arrived is released: ARR to 0 and a new GEN (R337). -/
def releaseBarrier (g : Grp) : Grp := 
  { g with arr := 0, gen := g.gen + 1, past := g.stamps, stamps := [] }

/-- A member leaves (R337). -/
def leaveGroup (g : Nat) (s : State) : State :=
  let x := s.group g
  let x := { x with memb := x.memb - 1 }
  s.setGroup (if 0 < x.memb ∧ x.arr = x.memb then releaseBarrier x else x)

/-- Write the GROUP field of a record (R328). -/
def writeGroup (g : Option Nat) (pa : Nat) (s : State) : State := setRecDw pa 3 (setBits (recDw s pa 3) 32 32 (g.getD 0xFFFFFFFF)) s

/-- Write the GROUP field of a context's record (R328). -/
def writeGroupField (x : Ctx) (pa : Nat) (s : State) : State := writeGroup x.grp pa s

/-- The context of a record, in a slot or saved. -/
def State.recordCtx (s : State) (job : Nat) (va : Word) : Option Ctx :=
  let hit (x : Ctx) : Bool := x.job == job && x.record == va
  ((s.tiles.toList.flatMap fun t => t.slots.toList.filterMap id) ++ s.saved.map (·.ctx)).find? hit

/-- A suspended record of a cancelled job is retired instead of pushed: its context releases its units and leaves its group, and the record says so
(R140, R327, R328, log 157). -/
def retireHeld (t : TileNo) (job : Nat) (va : Word) (pa cause : Nat) (s : State) : State :=
  let s := match s.recordCtx job va with
    | none => s
    | some x =>
      let s := match x.grp with
        | some g => (leaveGroup g s).modEvery job x.num fun y => { y with grp := none }
        | none => s
      writeGroup none pa (s.modEvery job x.num fun y => { y with heldSlots := 0, heldTiles := 0 })
  retireRec t job va.toNat pa cause s

/-! ## Decks (R318, R319) -/

/-- The key of deck entry i of a tile. -/
def deckEntry (t : TileNo) (x : Tile) (n : Fin 4) (i : Nat) : Nat :=
  spAt t ((x.dkb.get n).toNat + 8 * (i % deckCap x n))
/-- TOP of a deck. -/
def deckTop (x : Tile) (n : Fin 4) : Nat := (x.dkt.get n).toNat % 65536
/-- BOT of a deck. -/
def deckBot (x : Tile) (n : Fin 4) : Nat := (x.dkt.get n).toNat / 65536
/-- The records a deck holds. -/
def deckLen (x : Tile) (n : Fin 4) : Nat := (deckBot x n + 65536 - deckTop x n) % 65536
/-- Set TOP and BOT. -/
def setDkt (t : TileNo) (n : Fin 4) (top bot : Nat) (s : State) : State :=
  let x := s.tile t
  s.setTile t { x with dkt := x.dkt.set n (BitVec.ofNat 32 (top % 65536 + 65536 * (bot % 65536))) }

/-- The deck has room. -/
def deckRoom (x : Tile) (n : Fin 4) : Bool := deckCap x n != 0 && decide (deckLen x n < deckCap x n)

/-- The records that a timetabled job has pushed (R329). -/
def notePush (job : Nat) (timed : Bool) (va : Word) (s : State) : State :=
  if timed then s.modJob job fun j => { j with pushed := va.toNat :: j.pushed.filter (· != va.toNat) } else s

/-- A push to the cluster's overflow queue of a class; none when it is full, or for a timetabled job (R319, R329). -/
def overflowPush (t : TileNo) (job : Nat) (timed : Bool) (n : Fin 4) (va : Word) (s : State) : Option State :=
  let cl := s.clusters.get (clOf t)
  if timed || !decide ((cl.overflow.get n).length < Config.overflowCapacity) then none
  else some { s with clusters := s.clusters.set (clOf t) { cl with
    overflow := cl.overflow.set n (cl.overflow.get n ++ [(job, va)]) } }

/-- A push at the owner end (R319). -/
def ownerPush (t : TileNo) (job : Nat) (timed : Bool) (n : Fin 4) (va : Word) (s : State) : Option State :=
  let x := s.tile t
  if deckRoom x n then
    some (notePush job timed va (setDkt t n (deckTop x n) (deckBot x n + 1) (writeNat s (deckEntry t x n (deckBot x n)) 8 va.toNat)))
  else overflowPush t job timed n va s

/-- A push at the thief end: the record is then the oldest of the deck (R319, R335). -/
def thiefPush (t : TileNo) (job : Nat) (timed : Bool) (n : Fin 4) (va : Word) (s : State) : Option State :=
  let x := s.tile t
  if deckRoom x n then
    let top := (deckTop x n + 65535) % 65536
    some (notePush job timed va (setDkt t n top (deckBot x n) (writeNat s (deckEntry t x n top) 8 va.toNat)))
  else overflowPush t job timed n va s

/-- The job is timetabled. -/
def State.timed (s : State) (job : Nat) : Bool := ((s.job? job).map (·.timed)).getD false

/-- Push a record that R326 queued. It never fails: a record that finds no room stays as it was with JOIN 0, DECK_OVERFLOW is
recorded, and the leaf keeps it to push later (R319). -/
def leafPush (t : TileNo) (job pa : Nat) (va : Word) (s : State) : State :=
  let s' := setRecDw pa 2 (withState (recDw s pa 2) 2) s
  match ownerPush t job (s.timed job) (recPrio s pa) va s' with
  | some s'' => s''
  | none =>
    let cl := s.clusters.get (clOf t)
    let s := { s with clusters := s.clusters.set (clOf t) { cl with pushes := cl.pushes ++ [(job, va, t)] } }
    s.addErr { cause := Cause.deckOverflow.code, phys := false, src := t / 8, ctx := 0, job, frame := s.frame, addr := va,
               info := 0 }

/-- What a decrement did. -/
inductive DecResult | done | overflow
  deriving DecidableEq, Repr

/-- The context of a record was saved by CTXSAVE: its record's JOIN reaching 0 does not resume it (R384). -/
def State.parkedByProgram (s : State) (job : Nat) (va : Word) : Bool :=
  s.saved.any fun e => e.job == job && e.kind == .program && e.ctx.record == va

/-- DECREMENT of a record at a physical address (R326): one indivisible step on doubleword 2. A cancelled job's record is
retired instead of pushed (R327). -/
def decrement (t : TileNo) (job pa : Nat) (va : Word) (s : State) : State × DecResult :=
  let s := noteBad t job (pa + 16) 8 s
  let v := recDw s pa 2
  if bits v 0 32 = 0 then (s, .overflow)
  else
    let s := setRecDw pa 2 (setBits v 0 32 (bits v 0 32 - 1)) s
    if bits v 0 32 = 1 ∧ (recState s pa = 1 ∨ recState s pa = 4) ∧ !s.parkedByProgram job va then
      if s.cancelled (clOf t) job then (retireHeld t job va pa 0x36 s, .done)
      else (leafPush t job pa va s, .done)
    else (s, .done)

/-! ## Futures (R322 to R326) -/

/-- ST, NW and reserved bits hold valid codes (R322). -/
def futureValid (w : Nat) : Bool := bits w 0 2 ≤ 1 && bits w 2 3 ≤ 6 && w / 32 == 0

/-- One decrement of a resolution, through an address stored in the future (R326). `race` is what a race on the record's page raises: the
resolver's fault (R311, R355). -/
def resolveWaiter (t : TileNo) (job ctx : Nat) (race : ErrRec → M Unit) (fva : Word) (wva : Nat) : M Unit := do
  let bad : M Unit := upd fun s => State.addErr s <|
    { cause := Cause.futureState.code, phys := false, src := t / 8, ctx, job, frame := s.frame, addr := fva,
      info := BitVec.ofNat 64 wva }
  if wva / 2 ^ 60 ≠ 0 ∨ wva % 64 ≠ 0 then bad
  else match ← see fun s => hwXlate s job wva true with
    | none => bad
    | some pa =>
      if (← see fun s => recState s pa) ≥ 6 then bad
      else do
        match ← see (hwTag t job wva true) with
        | some s' => upd fun _ => s'
        | none => race (← see fun s => hwRaceRec s t ctx job wva)
        let p ← release t .dev
        carry pa p
        let r ← see fun s => (decrement t job pa (BitVec.ofNat 64 wva) s).2
        upd fun s => (decrement t job pa (BitVec.ofNat 64 wva) s).1
        match r with
        | .done => pure ()
        | .overflow => upd fun s => State.addErr s <|
            { cause := Cause.joinOverflow.code, phys := false, src := t / 8, ctx, job, frame := s.frame,
              addr := BitVec.ofNat 64 wva, info := 0 }

/-- The cause that resolution of a future meets before it changes anything (R323). -/
def resolveFault (s : State) (fpa : Nat) : Option Cause :=
  let w := readNat s fpa 8
  if !futureValid w then some .futureState else if bits w 0 2 = 1 then some .doubleResolve else none

/-- Resolution of a future that R323 lets through: ST, VALUE, then a decrement of each waiter in order. -/
def resolveFuture (t : TileNo) (job ctx : Nat) (race : ErrRec → M Unit) (fva : Word) (fpa : Nat) (v : Word) : M Unit := do
  let p ← release t .dev
  carry fpa p
  let w ← see fun s => readNat s fpa 8
  upd fun s => writeNat s fpa 8 (setBits w 0 2 1)
  upd fun s => writeNat s (fpa + 8) 8 v.toNat
  (List.range (bits w 2 3)).forM fun j => do
    let wva ← see fun s => readNat s (fpa + 16 + 8 * j) 8
    resolveWaiter t job ctx race fva wva

/-! ## The end of a context -/

/-- Release pins that a block took, on the dies where they stand (R391). -/
def unpin (job : Nat) (ps : List (Fin 8 × Nat × Nat)) (s : State) : State :=
  ps.foldl (fun s p =>
    let d := s.dies.get p.1
    let hit (e : Pin) : Bool := e.job == job && e.base == p.2.1 && e.size == p.2.2
    { s with dies := s.dies.set p.1 { d with
        pins := (d.pins.map fun e => if hit e then { e with count := e.count - 1 } else e).filter (·.count != 0) } }) s

/-- The blocks of all chains of a context. -/
def allBlocks (x : Ctx) : List Entry := x.chains.toList.flatMap (·.queue)


/-- Messages of a context that were refused or lost and wait to be sent again go with its blocks (R181). -/
def State.dropParked (x : Ctx) (s : State) : State :=
  { s with msgs := s.msgs.filter fun m => !(m.state == .parked && m.job == x.job && m.num == x.num) }

/-- What goes with a context wherever it stands: its pins, its bindings on a tile, its membership and its number (R140, R181, R411). -/
def releaseCtx (t : TileNo) (x : Ctx) (s : State) : State :=
  let s := (allBlocks x).foldl (fun s e => unpin x.job e.pins s) s
  let s := unbindAll t x.job x.num (s.dropParked x)
  let s := match x.grp with
    | some g => leaveGroup g s
    | none => s
  s.modJob x.job fun j => { j with live := j.live.filter (· != x.num) }

/-- A context goes: its chains are abandoned with their pins, its units, its bindings and its group membership go with it, its record
is retired with a cause, and its number and its slot are free (R140, R181, R327, R335, R378). -/
def retireCtx (t : TileNo) (c : SlotNo) (cause : Nat) (s : State) : State :=
  match s.ctx? t c with
  | none => s
  | some x =>
    let s := (releaseCtx t x s).emptySlot t c
    match hwXlate s x.job x.record.toNat true with
    | none => s
    | some pa => retireRec t x.job x.record.toNat pa cause (writeGroupField { x with grp := none } pa s)

end Sys2Proof.Machine
end

