-- ==== Sys2Proof/Machine/Block.lean ====
section
/-!
DEFINITION. Reading a control block from its 64 or 128 bytes, with the form checks of R62: steps 1 and 2, the tokens of R169 and
the chain of R159. The type checks of step 3 belong to the engines' files.
-/
namespace Sys2Proof.Machine

/-- n bits at bit b of byte offset o of a block image. -/
def bf (v o b n : Nat) : Nat := bits v (8 * o + b) n

/-- An n-bit two's complement field. -/
def signed (n x : Nat) : Int := if x < 2 ^ (n - 1) then x else x - 2 ^ n

/-- The length a ring code stands for (R56). -/
def ringLen (c : Nat) : Option Nat := [1, 2, 3, 4, 6, 8][c]?

/-- A block image byte range is zero. -/
def zeroRange (v o n : Nat) : Bool := bf v o 0 (8 * n) == 0

/-- The kind codes (R54). -/
def kindOf (c : Nat) : Option BlockKind :=
  match c with
  | 0 => some .nop
  | 1 => some .load
  | 2 => some .store
  | 3 => some .matrix
  | 4 => some .vector
  | 5 => some .patch
  | 6 => some .mark
  | 7 => some .endK
  | _ => none

/-- The chain takes blocks of the kind (R159). -/
def kindFits (k : BlockKind) (ch : ChainNo) : Bool :=
  match k with
  | .load => ch == 0
  | .store => ch == 1
  | .matrix => ch == 2
  | .vector => ch == 3
  | .nop | .patch | .mark | .endK => true

/-- Refuse a malformed block. -/
def formed (ok : Bool) : Except Cause Unit := if ok then .ok () else .error .cbMalformed

/-- A wait token from its fields; a token that is not enabled has zero fields (R54), and a take is at most its threshold
(R169). -/
def waitTok (en : Bool) (sem thr take : Nat) : Except Cause (Option WaitTok) := do
  if en then do
    formed (decide (take ≤ thr))
    return some ⟨⟨sem % 64, Nat.mod_lt _ (by decide)⟩, thr, take⟩
  else do
    formed (sem == 0 && thr == 0 && take == 0)
    return none

/-- A post token from its fields; its amount is 0 when it resolves a future (R54). -/
def postTok (en fut : Bool) (sem amt : Nat) : Except Cause (Option PostTok) := do
  if en then do
    formed (!fut || amt == 0)
    return some ⟨fut, ⟨sem % 64, Nat.mod_lt _ (by decide)⟩, amt⟩
  else do
    formed (!fut && sem == 0 && amt == 0)
    return none

/-- The header (R54, R169); the captured fields are ignored (R55). -/
def parseHdr (v : Nat) : Except Cause BHdr := do
  match kindOf (bf v 0 0 4) with
  | none => .error .cbMalformed
  | some k => do
    let long := bf v 0 4 1 == 1
    formed (long == (k == .vector || k == .load || k == .store))
    let csel := bf v 0 8 3
    formed (decide (csel ≤ 4) && (csel == 0 || k == .matrix || k == .vector))
    let pok := bf v 0 11 1 == 1
    formed (!pok || k == .load || k == .store || k == .matrix || k == .vector)
    let p0 ← postTok (bf v 0 30 1 == 1) (bf v 4 31 1 == 1) (bf v 0 12 6) (bf v 0 18 6)
    let p1 ← postTok (bf v 0 31 1 == 1) (bf v 8 30 1 == 1) (bf v 0 24 6) (bf v 4 24 6)
    let w0 ← waitTok (bf v 4 30 1 == 1) (bf v 4 0 6) (bf v 4 6 12) (bf v 4 18 6)
    let w1 ← waitTok (bf v 8 29 1 == 1) (bf v 8 0 6) (bf v 8 6 12) (bf v 8 18 6)
    formed (bf v 8 31 1 == 0)
    formed (match w0, w1 with
      | some a, some b => a.sem != b.sem
      | _, _ => true)
    return { kind := k, psel := ⟨bf v 0 5 3, Nat.mod_lt _ (by decide)⟩, csel, patchok := pok, w0, w1, p0, p1 }

/-- The six bounds of a MATRIX or VECTOR body. -/
def parseBnd6 (v : Nat) : List Nat := (List.range 6).map fun k => bf v (16 + 2 * k) 0 16

/-- An operand descriptor (R57). -/
def parseMatOp (v o : Nat) : Except Cause MatOp := do
  match ringLen (bf v o 9 3) with
  | none => .error .cbMalformed
  | some ring => do
    formed (decide (bf v o 12 3 ≤ 5) && bf v o 24 8 == 0)
    formed (decide (1 < ring) || bf v o 12 3 == 0)
    return { base := bf v o 0 9, ring, lvl := bf v o 12 3, dir := bf v o 15 2, tid := bf v o 17 7 }

/-- A MATRIX body (R57), with the level rules of R202 and R205. -/
def parseMatrix (v : Nat) : Except Cause MatBody := do
  formed (zeroRange v 28 4 && bf v 40 14 18 == 0 && bf v 48 25 7 == 0 && zeroRange v 52 12)
  let a ← parseMatOp v 32
  let b ← parseMatOp v 36
  match ringLen (bf v 40 8 3) with
  | none => .error .cbMalformed
  | some cring => do
    let op := bf v 48 16 4
    let clvl := bf v 40 11 3
    formed (decide (clvl ≤ 5) && [0, 1, 2, 4, 5, 6].contains op)
    let sat := bf v 48 24 1 == 1
    let qsen := bf v 48 20 1 == 1
    formed ((!sat || decide (4 ≤ op)) && (!qsen || decide (op < 4)))
    let cstr := (List.range 6).map fun k => signed 8 (bf v (44 + k) 0 8)
    formed (if cring = 1 then clvl == 0 else cstr[clvl]?.getD 0 == 0)
    return { bnd := parseBnd6 v, a, b, cbase := bf v 40 0 8, cring, clvl, cstr
             op, qsen, qsel := ⟨bf v 48 21 3, Nat.mod_lt _ (by decide)⟩, sat }

/-- A port descriptor (R58); TYPE 9 to 15 is undefined (the text under R64). -/
def parsePort (v o : Nat) : Except Cause VPort := do
  let kind := bf v o 0 3
  let dir := bf v o 7 2
  formed (decide (kind ≤ 4) && decide (bf v o 3 4 ≤ 8) && bf v o 9 7 == 0 && bf v (o + 4) 24 8 == 0)
  formed (kind != 0 || zeroRange v o 20)
  formed (kind == 3 || dir == 0 || (kind == 2 && dir == 1))
  return { kind, type := bf v o 3 4, dir, count := bf v o 16 16, base := bf v (o + 4) 0 24
           str := (List.range 6).map fun k => signed 16 (bf v (o + 8 + 2 * k) 0 16) }

/-- A VECTOR body (R58); `opOk` says which operator codes are assigned (R249). -/
def parseVector (opOk : Nat → Bool) (v : Nat) : Except Cause VecBody := do
  let op := bf v 28 0 8
  let mmode := bf v 28 8 2
  let msrc := bf v 28 10 2
  let ragged := bf v 28 12 1 == 1
  let rlt := bf v 116 0 24
  formed (opOk op && decide (mmode ≤ 2) && decide (msrc ≤ 2) && (mmode == 0) == (msrc == 0))
  formed (bf v 28 13 19 == 0 && bf v 116 24 8 == 0 && zeroRange v 120 8)
  formed (ragged || msrc == 2 || rlt == 0)
  return { bnd := parseBnd6 v, op, mmode, msrc, ragged, imm := BitVec.ofNat 32 (bf v 32 0 32)
           x := ← parsePort v 36, y := ← parsePort v 56, z := ← parsePort v 76, w := ← parsePort v 96, rlt }

/-- One level of a LOAD or STORE nest (R59). -/
def parseLvl (v i : Nat) : CopyLvl :=
  let o := 30 + 7 * i
  { bnd := bf v o 0 16, tdim := bf v o 16 4, tstep := signed 12 (bf v o 20 12), lstr := signed 24 (bf v o 32 24) }

/-- A LOAD or STORE body (R59) with the rules of R190 and R192: step 1 of R62 and then NEST_DEPTH. -/
def parseCopy (store : Bool) (v : Nat) : Except Cause CopyBody := do
  let lkind := bf v 16 8 3
  let combine := bf v 16 11 1 == 1
  let llvl := bf v 16 15 4
  let ndim := bf v 16 19 4
  let shape := bf v 16 23 1 == 1
  let cnten := bf v 16 24 1 == 1
  let csem := bf v 16 25 6
  formed (bf v 16 7 1 == 0 && decide (lkind ≤ 3) && bf v 16 31 1 == 0 && bf v 20 24 8 == 0 && zeroRange v 28 2)
  formed ((store || (!combine && !shape)) && (cnten || csem == 0))
  formed (decide (llvl ≤ 13) && (lkind == 1 || lkind == 2 || (bf v 16 12 3 == 0 && llvl == 0)))
  match ringLen (bf v 16 12 3) with
  | none => .error .cbMalformed
  | some lring => do
    let lvls := (List.range (min ndim 14)).map (parseLvl v)
    formed ((lvls.all fun l => decide (l.tdim ≤ 13) && (lkind != 3 || l.lstr == 0)) && (lkind != 3 || decide (bf v 20 0 24 < 8)))
    formed ((List.range 14).all fun i => decide (i < ndim) || zeroRange v (30 + 7 * i) 7)
    formed ((lkind != 1 && lkind != 2) || (lvls.take 2).all (·.lstr == 0))
    formed (if lring = 1 then llvl == 0 else decide (2 ≤ llvl) && decide (llvl < ndim) && (parseLvl v llvl).lstr == 0)
    if ndim = 0 ∨ 15 ≤ ndim then .error .nestDepth
    else return { tid := bf v 16 0 7, lkind, combine, lring, llvl, ndim, shape, cnten
                  csem := ⟨csem % 64, Nat.mod_lt _ (by decide)⟩
                  lbase := bf v 20 0 24, torg := signed 32 (bf v 24 0 32), lvls }

/-- The field codes of a PATCH (R60). -/
def patchFieldOk (f : Nat) : Bool := decide (f ≤ 0x0D) || (decide (0x10 ≤ f) && decide (f ≤ 0x18))

/-- A PATCH body (R60, R272). -/
def parsePatch (v : Nat) : Except Cause PatchBody := do
  let trel := bf v 20 2 6
  let f := bf v 20 8 8
  formed (bf v 16 24 8 == 0 && trel != 0 && patchFieldOk f && bf v 20 17 15 == 0 && zeroRange v 24 40)
  let clamp := bf v 20 16 1 == 1
  formed (!clamp || decide (f ≤ 0x0D))
  return { src := bf v 16 0 24, tchain := ⟨bf v 20 0 2, Nat.mod_lt _ (by decide)⟩, trel, tfield := f, clamp }

/-- A MARK body (R61). -/
def parseMark (v : Nat) : Except Cause Body := do
  let k := bf v 16 0 2
  formed (decide (k ≤ 1) && bf v 16 2 30 == 0 && zeroRange v 20 4 && zeroRange v 40 24)
  if k = 0 then do
    formed (zeroRange v 24 16)
    return .rendezvous
  else return .resolve (BitVec.ofNat 64 (bf v 24 0 64)) (BitVec.ofNat 64 (bf v 32 0 64))

/-- A block from its image, for a chain: R62 steps 1 and 2. -/
def parseBlk (opOk : Nat → Bool) (ch : ChainNo) (v : Nat) : Except Cause Blk := do
  let hdr ← parseHdr v
  formed (kindFits hdr.kind ch)
  let body ← match hdr.kind with
    | .nop => do
      formed (zeroRange v 16 48)
      pure Body.nop
    | .endK => do
      formed (zeroRange v 16 48)
      pure Body.endB
    | .load => Body.load <$> parseCopy false v
    | .store => Body.store <$> parseCopy true v
    | .matrix => Body.matrix <$> parseMatrix v
    | .vector => Body.vector <$> parseVector opOk v
    | .patch => Body.patch <$> parsePatch v
    | .mark => parseMark v
  return { hdr, body }

/-! ## Nests (R164) -/

/-- The bounds of the levels a block uses, innermost first. -/
def Body.bounds (b : Body) : List Nat :=
  match b with
  | .load c | .store c => c.lvls.map (·.bnd)
  | .matrix m => m.bnd
  | .vector v => v.bnd
  | .nop | .endB | .patch _ | .rendezvous | .resolve _ _ => []

/-- The number of iterations: none where a used level has bound 0. -/
def iterCount (bnd : List Nat) : Nat := bnd.foldl (· * ·) 1

/-- The index tuple of iteration k, level 0 varying fastest. -/
def indexAt (bnd : List Nat) (k : Nat) : List Nat :=
  match bnd with
  | [] => []
  | b :: r => k % b :: indexAt r (k / b)

/-- The sum of index times step over the levels. -/
def dot (idx : List Nat) (step : List Int) : Int := (List.zipWith (fun (i : Nat) (s : Int) => (i : Int) * s) idx step).foldl (· + ·) 0

end Sys2Proof.Machine
end

