-- ==== Sys2Proof/Machine/Numbers.lean ====
section
/-!
DEFINITION. Number formats, exact values, rounding and conversion (R64 to R82), the order of matrix sums (R86 to R89) and the
correctly rounded special functions (R255). A value is exact until a rule rounds it; codes are plain numbers.
-/
namespace Sys2Proof.Machine

/-! ## Exact values -/

/-- An exact rational: num / den. -/
structure Q where
  num : Int
  den : Nat
  deriving DecidableEq, Repr

/-- The sum; equal denominators are kept. -/
def Q.add (a b : Q) : Q := if a.den = b.den then ⟨a.num + b.num, a.den⟩ else ⟨a.num * b.den + b.num * a.den, a.den * b.den⟩
/-- The product. -/
def Q.mul (a b : Q) : Q := ⟨a.num * b.num, a.den * b.den⟩
/-- The quotient by a nonzero value. -/
def Q.div (a b : Q) : Q := ⟨a.num * b.den * b.num.sign, a.den * b.num.natAbs⟩
/-- The negation. -/
def Q.neg (a : Q) : Q := ⟨-a.num, a.den⟩
/-- a < b. -/
def Q.lt (a b : Q) : Bool := decide (a.num * b.den < b.num * a.den)
/-- a = b as numbers. -/
def Q.eq (a b : Q) : Bool := decide (a.num * b.den = b.num * a.den)
/-- An integer. -/
def Q.ofInt (i : Int) : Q := ⟨i, 1⟩
/-- m times 2 to the e. -/
def Q.pow2 (m e : Int) : Q := if 0 ≤ e then ⟨m * 2 ^ e.toNat, 1⟩ else ⟨m, 2 ^ (-e).toNat⟩

/-- What an element holds: R65 to R68. A `num` is never zero. -/
inductive Val
  | nan
  | inf (neg : Bool)
  | zero (neg : Bool)
  | num (q : Q)
  deriving DecidableEq, Repr

/-- A rational as a value; an exact zero takes the sign given. -/
def Val.ofQ (neg : Bool) (q : Q) : Val := if q.num = 0 then .zero neg else .num q
/-- The sign. -/
def Val.neg? (v : Val) : Bool :=
  match v with
  | .nan => false
  | .inf n => n
  | .zero n => n
  | .num q => decide (q.num < 0)
/-- The value negated; a NaN stays one. -/
def Val.negate (v : Val) : Val :=
  match v with
  | .nan => .nan
  | .inf n => .inf (!n)
  | .zero n => .zero (!n)
  | .num q => .num q.neg
/-- The magnitude. -/
def Val.abs (v : Val) : Val := if v.neg? then v.negate else v

/-- The exact sum; an exact zero sum of opposite signs is −0 under RDN only (R67). -/
def Val.add (rdn : Bool) (a b : Val) : Val :=
  match a, b with
  | .nan, _ | _, .nan => .nan
  | .inf m, .inf n => if m = n then .inf m else .nan
  | .inf m, _ => .inf m
  | _, .inf n => .inf n
  | .zero m, .zero n => .zero (if m = n then m else rdn)
  | .zero _, .num q => .num q
  | .num q, .zero _ => .num q
  | .num p, .num q => .ofQ rdn (p.add q)

/-- The exact product. -/
def Val.mul (a b : Val) : Val :=
  let s := a.neg? != b.neg?
  match a, b with
  | .nan, _ | _, .nan => .nan
  | .inf _, .zero _ | .zero _, .inf _ => .nan
  | .inf _, _ | _, .inf _ => .inf s
  | .zero _, _ | _, .zero _ => .zero s
  | .num p, .num q => .num (p.mul q)

/-- The exact quotient (R250). -/
def Val.div (a b : Val) : Val :=
  let s := a.neg? != b.neg?
  match a, b with
  | .nan, _ | _, .nan => .nan
  | .inf _, .inf _ | .zero _, .zero _ => .nan
  | .inf _, _ => .inf s
  | _, .inf _ => .zero s
  | .zero _, .num _ => .zero s
  | .num _, .zero _ => .inf s
  | .num p, .num q => .num (p.div q)

/-- a < b; false with a NaN. +0 equals −0. -/
def Val.lt (a b : Val) : Bool :=
  match a, b with
  | .nan, _ | _, .nan => false
  | .inf m, .inf n => m && !n
  | .inf m, _ => m
  | _, .inf n => !n
  | .zero _, .zero _ => false
  | .zero _, .num q => decide (0 < q.num)
  | .num q, .zero _ => decide (q.num < 0)
  | .num p, .num q => p.lt q

/-- a = b as numbers; false with a NaN. -/
def Val.eq (a b : Val) : Bool :=
  match a, b with
  | .inf m, .inf n => m == n
  | .zero _, .zero _ => true
  | .num p, .num q => p.eq q
  | _, _ => false

/-- The smaller value: NaN wins, and −0 is below +0 (R93, R250). -/
def Val.min (a b : Val) : Val :=
  match a, b with
  | .nan, _ | _, .nan => .nan
  | .zero m, .zero n => .zero (m || n)
  | _, _ => if b.lt a then b else a
/-- The larger value: NaN wins, and +0 is above −0 (R93, R250). -/
def Val.max (a b : Val) : Val :=
  match a, b with
  | .nan, _ | _, .nan => .nan
  | .zero m, .zero n => .zero (m && n)
  | _, _ => if a.lt b then b else a

/-! ## Formats -/

/-- A binary floating format without its sign bit: precision, exponent bias, code of the largest finite value. -/
structure Flt where
  p    : Nat
  bias : Nat
  maxc : Nat
  deriving DecidableEq, Repr

/-- FP32 (R65). -/
def fp32 : Flt := ⟨24, 127, 0x7F7FFFFF⟩
/-- FP16. -/
def fp16 : Flt := ⟨11, 15, 0x7BFF⟩
/-- BF16. -/
def bf16 : Flt := ⟨8, 127, 0x7F7F⟩
/-- FP8E4. -/
def fp8e4 : Flt := ⟨4, 7, 0x7E⟩
/-- FP8E5. -/
def fp8e5 : Flt := ⟨3, 15, 0x7B⟩
/-- FP4 (R68). -/
def fp4 : Flt := ⟨2, 1, 7⟩
/-- E3M5, unsigned (R69). -/
def e3m5 : Flt := ⟨6, 3, 255⟩

/-- The floating format of a code (R64). -/
def fltOf (ty : Nat) : Option Flt :=
  match ty with
  | 0 => some fp32
  | 1 => some fp16
  | 2 => some bf16
  | 3 => some fp8e4
  | 4 => some fp8e5
  | _ => none

/-- The element size in half bytes (R64). -/
def fmtHalves (ty : Nat) : Nat :=
  match ty with
  | 0 | 7 => 8
  | 1 | 2 => 4
  | 8 => 1
  | _ => 2
/-- The element size in bytes of every format but F4B8. -/
def fmtBytes (ty : Nat) : Nat := fmtHalves ty / 2
/-- The format holds integers. -/
def fmtInt (ty : Nat) : Bool := ty == 5 || ty == 6 || ty == 7

/-- The exponent of the smallest quantum. -/
def Flt.qmin (f : Flt) : Int := 2 - (f.bias : Int) - f.p
/-- The bits of a code above its fraction and exponent hold the sign. -/
def Flt.width (f : Flt) : Nat :=
  match f.p with
  | 24 => 31
  | 11 => 15
  | 8 => 15
  | 4 => 7
  | 3 => 7
  | 2 => 3
  | _ => 8

/-- The magnitude that a finite code stands for. -/
def Flt.mag (f : Flt) (c : Nat) : Q :=
  let h := 2 ^ (f.p - 1)
  if c / h = 0 then .pow2 (c : Int) f.qmin else .pow2 ((h + c % h : Nat) : Int) (f.qmin + (c / h : Nat) - 1)

/-- The code above the largest finite one is an infinity, in the formats that have one. -/
def Flt.inf? (f : Flt) : Bool := f.p == 24 || f.p == 11 || f.p == 8 || f.p == 3

/-- A magnitude as exact value, on one denominator for all formats of R65. -/
def Q.fixed (q : Q) : Q := if q.den ≤ 2 ^ 149 then ⟨q.num * ((2 ^ 149 / q.den : Nat) : Int), 2 ^ 149⟩ else q

/-- The value of a code of a floating format (R65, R66). -/
def Flt.val (f : Flt) (code : Nat) : Val :=
  let c := code % 2 ^ f.width
  let s := code / 2 ^ f.width % 2 == 1
  if c = 0 then .zero s
  else if c ≤ f.maxc then .num (let q := (f.mag c).fixed; if s then q.neg else q)
  else if f.inf? && c == f.maxc + 1 then .inf s
  else .nan

/-- n bits as a two's complement number. -/
def toInt (n x : Nat) : Int := if x % 2 ^ n < 2 ^ (n - 1) then x % 2 ^ n else (x % 2 ^ n : Nat) - 2 ^ n

/-- The value of an element of a format other than F4B8. -/
def elemVal (ty code : Nat) : Val :=
  match fltOf ty with
  | some f => f.val code
  | none =>
    match ty with
    | 5 => .ofQ false (.ofInt (toInt 8 code))
    | 6 => .ofQ false (.ofInt (code % 256 : Nat))
    | _ => .ofQ false (.ofInt (toInt 32 code))

/-- A subnormal FP32, FP16 or BF16 code, or one below the smallest normal after rounding. -/
def isSub (ty code : Nat) : Bool :=
  match ty with
  | 0 => decide (0 < code % 2 ^ 31) && decide (code % 2 ^ 31 < 2 ^ 23)
  | 1 => decide (0 < code % 2 ^ 15) && decide (code % 2 ^ 15 < 2 ^ 10)
  | 2 => decide (0 < code % 2 ^ 15) && decide (code % 2 ^ 15 < 2 ^ 7)
  | _ => false

/-- FIN of a mode snapshot (R71). -/
def finOf (fp : BitVec 4) : Bool := fp.getLsbD 2
/-- FOUT. -/
def foutOf (fp : BitVec 4) : Bool := fp.getLsbD 3
/-- RM. -/
def rmOf (fp : BitVec 4) : Nat := fp.toNat % 4

/-- An input element, with FIN (R72). -/
def readVal (fp : BitVec 4) (ty code : Nat) : Val :=
  if finOf fp && isSub ty code then .zero (elemVal ty code).neg? else elemVal ty code

/-! ## Rounding -/

/-- Divide and round by a mode: 0 RNE, 1 RTZ, 2 RUP, 3 RDN (R71); `neg` is the sign of the value. -/
def roundDiv (rm : Nat) (neg : Bool) (n d : Nat) : Nat :=
  let m := n / d
  let r := n % d
  if r = 0 then m
  else match rm with
    | 0 => if 2 * r < d then m else if d < 2 * r then m + 1 else m + m % 2
    | 1 => m
    | 2 => if neg then m else m + 1
    | _ => if neg then m + 1 else m

/-- The exponent of the leading bit of n / d. -/
def ilog (n d : Nat) : Int :=
  let e : Int := (Nat.log2 n : Int) - Nat.log2 d
  if (if 0 ≤ e then decide (d * 2 ^ e.toNat ≤ n) else decide (d ≤ n * 2 ^ (-e).toNat)) then e else e - 1

/-- The magnitude code of a rounded nonzero value with an unbounded exponent range (R78). -/
def Flt.code (f : Flt) (rm : Nat) (q : Q) : Nat :=
  let n := q.num.natAbs
  let qe := Max.max (ilog n q.den - (f.p : Int) + 1) f.qmin
  let m := if 0 ≤ qe then roundDiv rm (decide (q.num < 0)) n (q.den * 2 ^ qe.toNat)
    else roundDiv rm (decide (q.num < 0)) (n * 2 ^ (-qe).toNat) q.den
  (qe - f.qmin).toNat * 2 ^ (f.p - 1) + m

/-- A magnitude code with its sign. -/
def Flt.signed (f : Flt) (neg : Bool) (c : Nat) : Nat := if neg then c + 2 ^ f.width else c
/-- The code of an infinity. -/
def Flt.infCode (f : Flt) (neg : Bool) : Nat := f.signed neg (f.maxc + 1)
/-- The canonical NaN (R66). -/
def Flt.nanCode (f : Flt) : Nat := f.maxc + 1 + 2 ^ (f.p - 2)

/-- Narrow to FP32, FP16 or BF16 (R78), then FOUT (R72). -/
def narrow (f : Flt) (ty rm : Nat) (fout : Bool) (v : Val) : Nat :=
  match v with
  | .nan => f.nanCode
  | .inf n => f.infCode n
  | .zero n => f.signed n 0
  | .num q =>
    let n := decide (q.num < 0)
    let c := f.code rm q
    if f.maxc < c then
      (if rm = 0 ∨ (rm = 2 ∧ n = false) ∨ (rm = 3 ∧ n = true) then f.infCode n else f.signed n f.maxc)
    else if fout && isSub ty c then f.signed n 0 else f.signed n c

/-- How many NaN and clamp events a conversion counts (R74). -/
structure Counts where
  nan : Nat := 0
  sat : Nat := 0
  deriving DecidableEq, Repr

/-- The sum of two counts. -/
def Counts.add (a b : Counts) : Counts := ⟨a.nan + b.nan, a.sat + b.sat⟩

/-- Convert to FP8 or FP4: nearest even, saturating (R79). -/
def saturate (f : Flt) (v : Val) : Nat × Counts :=
  match v with
  | .nan => (0, ⟨1, 0⟩)
  | .inf n => (f.signed n f.maxc, ⟨0, 1⟩)
  | .zero n => (f.signed n 0, {})
  | .num q =>
    let c := f.code 0 q
    let n := decide (q.num < 0)
    if f.maxc < c then (f.signed n f.maxc, ⟨0, 1⟩) else (f.signed n c, {})

/-- Round a rational to an integer. -/
def roundInt (rm : Nat) (q : Q) : Int :=
  let m := roundDiv rm (decide (q.num < 0)) q.num.natAbs q.den
  if q.num < 0 then -(m : Int) else m

/-- The bounds of an integer format. -/
def intBounds (ty : Nat) : Int × Int :=
  match ty with
  | 5 => (-128, 127)
  | 6 => (0, 255)
  | _ => (-2147483648, 2147483647)

/-- An integer clamped into a format (R80). -/
def clampInt (ty : Nat) (i : Int) : Nat × Counts :=
  let (lo, hi) := intBounds ty
  let w : Int := if ty = 7 then 4294967296 else 256
  if i < lo then ((lo % w).toNat, ⟨0, 1⟩) else if hi < i then ((hi % w).toNat, ⟨0, 1⟩) else ((i % w).toNat, {})

/-- Convert to an integer format (R80). -/
def toIntFmt (ty rm : Nat) (v : Val) : Nat × Counts :=
  match v with
  | .nan => (0, ⟨1, 0⟩)
  | .inf n => let (lo, hi) := intBounds ty; ((clampInt ty (if n then lo else hi)).1, ⟨0, 1⟩)
  | .zero _ => (0, {})
  | .num q => clampInt ty (roundInt rm q)

/-- Deliver an exact value as an element of a type under a mode snapshot (R243). -/
def deliver (fp : BitVec 4) (ty : Nat) (v : Val) : Nat × Counts :=
  match ty with
  | 0 => (narrow fp32 0 (rmOf fp) (foutOf fp) v, {})
  | 1 => (narrow fp16 1 (rmOf fp) (foutOf fp) v, {})
  | 2 => (narrow bf16 2 (rmOf fp) (foutOf fp) v, {})
  | 3 => saturate fp8e4 v
  | 4 => saturate fp8e5 v
  | _ => toIntFmt ty (rmOf fp) v

/-- RNE to FP32, subnormals kept. -/
def rne32 (v : Val) : Nat := narrow fp32 0 0 false v
/-- An FP32 code as a value. -/
def val32 (c : Nat) : Val := fp32.val c
/-- RNE to FP32 as a value. -/
def rneV (v : Val) : Val := val32 (rne32 v)

/-- A positive normal BF16 value (R77). -/
def scaleOk (c : Nat) : Bool := decide (0x80 ≤ c) && decide (c ≤ 0x7F7F)
/-- A normal BF16 value of either sign (R207). -/
def outScaleOk (c : Nat) : Bool := scaleOk (c % 0x8000)
/-- The exact value of a finite nonzero value; 0 for the others. -/
def Val.q (v : Val) : Q :=
  match v with
  | .num q => q
  | _ => ⟨0, 1⟩

/-! ## F4B8 -/

/-- The value of an E3M5 code (R69). -/
def scaleQ (c : Nat) : Q := e3m5.mag (c % 256)
/-- An F4B8 element widened to FP32 (R76): one rounding, RNE. -/
def widenF4 (q4 s bs : Nat) : Nat := rne32 (((fp4.val q4).mul (.ofQ false (scaleQ s))).mul (bf16.val bs))

/-- The code of the smallest E3M5 value at or above amax / 6, 0 for a zero block, 255 where none is (R81). -/
def blockScale (amax : Val) : Nat :=
  match amax with
  | .num q => Min.min (e3m5.code 2 ⟨q.num, q.den * 6⟩) 255
  | .inf _ => 255
  | .zero _ | .nan => 0

/-- The largest |x| / S of a block; NaN elements are left out (R81). -/
def blockMax (bs : Nat) (xs : List Nat) : Val :=
  xs.foldl (fun m x => match val32 x with
    | .nan => m
    | v => m.max (v.abs.div (bf16.val bs))) (.zero false)

/-- A block of 8 FP32 inputs converted with shaping off: its scale code, its element codes and what it counts (R81). -/
def convertF4 (bs : Nat) (xs : List Nat) : Nat × List Nat × Counts :=
  let s := blockScale (blockMax bs xs)
  let S := (bf16.val bs).mul (.ofQ false (scaleQ s))
  let one (x : Nat) : Nat × Counts :=
    match val32 x with
    | .nan => (0, ⟨1, 0⟩)
    | v => if s = 0 then (0, {}) else saturate fp4 (rneV (v.div S))
  let qs := xs.map one
  (s, qs.map (·.1), qs.foldl (fun c q => c.add q.2) {})

/-! ## The order of matrix sums -/

/-- The exact sum of a group of products (R86, R87): an exact zero sum is −0 only if every product is −0. -/
def groupSum (ps : List Val) : Val :=
  if ps.any (· == .nan) then .nan
  else
    let pos := ps.any (· == .inf false)
    let neg := ps.any (· == .inf true)
    if pos && neg then .nan
    else if pos then .inf false
    else if neg then .inf true
    else
      let q := ps.foldl (fun a v => match v with
        | .num q => if a.num = 0 then q else a.add q
        | _ => a) ⟨0, 1⟩
      .ofQ (ps.all (· == .zero true)) q

/-- Cut a list into groups of n. -/
def chunks (fuel n : Nat) (l : List (Val × Val)) : List (List (Val × Val)) :=
  match fuel with
  | 0 => []
  | k + 1 => if l.isEmpty then [] else l.take n :: chunks k n (l.drop n)

/-- One element's K-step under NBV 0 (R86): groups of 8, each with its scale; `sub` for MMAN. A zero that arises by scaling has the product's sign
(log 124). -/
def kstep0 (sub : Bool) (c : Nat) (ab : List (Val × Val)) (sc : Nat → Val) : Nat :=
  ((chunks ab.length 8 ab).zipIdx).foldl (fun c g =>
    let s := rneV ((groupSum (g.1.map fun p => p.1.mul p.2)).mul (sc g.2))
    rne32 ((val32 c).add false (if sub then s.negate else s))) c

/-- FZ of R89 on an FP32 code. -/
def fz (c : Nat) : Nat := if isSub 0 c then c / 2 ^ 31 * 2 ^ 31 else c

/-- One element's K-step under NBV 1 (R89): groups of 4, toward zero, subnormals flushed. -/
def kstep1 (sub : Bool) (c : Nat) (ab : List (Val × Val)) (q : Val) : Nat :=
  (chunks ab.length 4 ab).foldl (fun c g =>
    let s := (groupSum (g.map fun p => p.1.mul p.2)).mul q
    let t := val32 (fz (narrow fp32 0 1 false s))
    fz (rne32 ((val32 (fz c)).add false (if sub then t.negate else t)))) c

/-- One element's integer K-step (R88): groups of 8, wrapping or clamping; the clamps count. -/
def kstepI (sub sat : Bool) (c : Nat) (ab : List (Int × Int)) (fuel : Nat) : Nat × Nat :=
  match fuel with
  | 0 => (c, 0)
  | k + 1 =>
    if ab.isEmpty then (c, 0)
    else
      let s := ((ab.take 8).map fun p => p.1 * p.2).foldl (· + ·) 0
      let r := toInt 32 c + (if sub then -s else s)
      if sat then
        let d := clampInt 7 r
        let e := kstepI sub sat d.1 (ab.drop 8) k
        (e.1, e.2 + d.2.sat)
      else kstepI sub sat (r % 4294967296).toNat (ab.drop 8) k

/-! ## Vector reductions -/

/-- One level of the tree of R91: pairs are combined, an odd last element passes up. -/
def treeLevel (op : Nat → Nat → Nat) (l : List Nat) : List Nat :=
  match l with
  | a :: b :: r => op a b :: treeLevel op r
  | [a] => [a]
  | [] => []

/-- TREE of R91. -/
def tree (op : Nat → Nat → Nat) (fuel : Nat) (l : List Nat) : Nat :=
  match fuel with
  | 0 => l.headD 0
  | n + 1 =>
    match l with
    | [] => 0
    | [a] => a
    | _ :: _ :: _ => tree op n (treeLevel op l)

/-- The reduction of a nonempty list in vectors of 128, combined in ascending order (R91, R93). -/
def reduce (op : Nat → Nat → Nat) (fuel : Nat) (l : List Nat) : Nat :=
  match fuel with
  | 0 => 0
  | n + 1 =>
    let first := tree op 8 (l.take 128)
    rest op n first (l.drop 128)
where
  /-- The vectors after the first. -/
  rest (op : Nat → Nat → Nat) (fuel : Nat) (total : Nat) (l : List Nat) : Nat :=
    match fuel with
    | 0 => total
    | n + 1 => if l.isEmpty then total else rest op n (op total (tree op 8 (l.take 128))) (l.drop 128)

/-- An addition of R91 under a mode snapshot. -/
def addRM (fp : BitVec 4) (a b : Nat) : Nat := (deliver fp 0 ((val32 a).add (rmOf fp == 3) (val32 b))).1
/-- A comparison step of R93. -/
def maxC (a b : Nat) : Nat := rne32 ((val32 a).max (val32 b))
/-- A comparison step of R93. -/
def minC (a b : Nat) : Nat := rne32 ((val32 a).min (val32 b))

/-! ## Special functions (R255)

The three transcendental functions are computed in fixed point with 640 fraction bits. The rational so found stands for the exact
value: the two round alike unless a rounding boundary lies between them (log 29). -/

/-- The fraction bits. -/
def fxBits : Nat := 640

/-- The series z + z³/3 + z⁵/5 + …, in fixed point. -/
def atanhSeries (fuel k : Nat) (zp zz : Nat) : Nat :=
  match fuel with
  | 0 => 0
  | n + 1 => zp / k + atanhSeries n (k + 2) (zp * zz / 2 ^ fxBits) zz

/-- ln of m = a / b with 1 ≤ m ≤ 2, in fixed point. -/
def lnFx (a b : Nat) : Nat :=
  let z := (a - b) * 2 ^ fxBits / (a + b)
  2 * atanhSeries 210 1 z (z * z / 2 ^ fxBits)

/-- ln 2 in fixed point. -/
def ln2Fx : Nat := lnFx 2 1

/-- The exponential series of a fixed-point y below 1. -/
def expSeries (fuel k : Nat) (term y : Nat) : Nat :=
  match fuel with
  | 0 => 0
  | n + 1 => term + expSeries n (k + 1) (term * y / (2 ^ fxBits * k)) y

/-- e to the y, y in fixed point, as a rational. -/
def expQ (y : Nat) : Q :=
  let k := y / ln2Fx
  ⟨(expSeries 160 1 (2 ^ fxBits) (y % ln2Fx) * 2 ^ k : Nat), 2 ^ fxBits⟩

/-- 2 to the q (R255). An integer q is exact. -/
def exp2Q (q : Q) : Q :=
  let k := q.num / (q.den : Int)
  let r := (q.num - k * q.den).toNat
  if r = 0 then .pow2 1 (Max.max (-400) (Min.min k 400))
  else if 400 ≤ k then .pow2 1 400
  else if k < -400 then .pow2 1 (-400)
  else (⟨(expSeries 160 1 (2 ^ fxBits) (r * ln2Fx / q.den) : Nat), 2 ^ fxBits⟩ : Q).mul (.pow2 1 k)

/-- log₂ of a positive q. A power of two is exact. -/
def log2Q (q : Q) : Q :=
  let n := q.num.natAbs
  let e := ilog n q.den
  let a := if 0 ≤ e then n else n * 2 ^ (-e).toNat
  let b := if 0 ≤ e then q.den * 2 ^ e.toNat else q.den
  if a = b then .ofInt e else (Q.ofInt e).add ⟨(lnFx a b : Nat), ln2Fx⟩

/-- tanh of a positive q. -/
def tanhQ (q : Q) : Q :=
  let n := q.num.natAbs
  if 64 * q.den ≤ n then ⟨2 ^ 100 - 1, 2 ^ 100⟩
  else
    let e := expQ (2 * n * 2 ^ fxBits / q.den)
    ⟨e.num - e.den, (e.num + e.den).toNat⟩

/-- √q of a positive q to 320 fraction bits beyond its own scale; a last bit set marks an inexact root. -/
def sqrtQ (q : Q) : Q :=
  let n := q.num.natAbs * q.den * 4 ^ 320
  let r := Nat.sqrt n
  if r * r = n then ⟨(r : Nat), q.den * 2 ^ 320⟩ else ⟨(2 * r + 1 : Nat), q.den * 2 ^ 321⟩

/-- The special functions EXP2, LOG2, RCP, RSQRT, SQRT and TANH, numbered 0 to 5 (R255). -/
def special (fn : Nat) (v : Val) : Val :=
  match v with
  | .nan => .nan
  | .inf n =>
    match fn with
    | 0 => if n then .zero false else .inf false
    | 1 | 4 => if n then .nan else .inf false
    | 2 => .zero n
    | 3 => if n then .nan else .zero false
    | _ => .num (.ofInt (if n then -1 else 1))
  | .zero n =>
    match fn with
    | 0 => .num (.ofInt 1)
    | 1 => .inf true
    | 2 | 3 => .inf n
    | _ => .zero n
  | .num q =>
    let neg := decide (q.num < 0)
    match fn with
    | 0 => .num (exp2Q q)
    | 1 => if neg then .nan else .ofQ false (log2Q q)
    | 2 => .num ((Q.ofInt 1).div q)
    | 3 => if neg then .nan else .num ((Q.ofInt 1).div (sqrtQ q))
    | 4 => if neg then .nan else .num (sqrtQ q)
    | _ => .num (if neg then (tanhQ q).neg else tanhQ q)

end Sys2Proof.Machine
end

