-- ==== Sys2Proof/Machine/Operands.lean ====
section
/-!
DEFINITION. The operand forms of dealer instructions: sources and destinations (R39, R41), immediates (R45), the field word
(R112), memory operands and the modulo step (R46, R124, R126).
-/
namespace Sys2Proof.Machine

/-- A sign-extended field. -/
def sx {n : Nat} (v : BitVec n) : Word := v.signExtend 64
/-- A zero-extended field. -/
def zx {n : Nat} (v : BitVec n) : Word := v.zeroExtend 64
/-- Bits 31 to 0, sign-extended (R110). -/
def sx32 (v : Word) : Word := (v.truncate 32).signExtend 64

/-- Two sources and a result. -/
def op2 (d : Dst) (a c : Src) (f : Word → Word → Word) : M Eff := do
  let av ← readA a
  let cv ← readC c av
  modMe (·.setDst d (f av cv))
  return { val := some (f av cv) }

/-- One source and a result. -/
def op1 (d : Dst) (a : Src) (f : Word → Word) : M Eff := do
  let av ← readA a
  modMe (·.setDst d (f av))
  return { val := some (f av) }

/-- d read and written, and two sources. -/
def op3 (d : Fin 48) (a c : Src) (f : Word → Word → Word → Word) : M Eff := do
  let av ← readA a
  let cv ← readC c av
  let x ← myCtx
  let v := f (x.regs.get d) av cv
  modMe (·.setReg d v)
  return { val := some v }

/-- A result that no source decides. -/
def op0 (d : Dst) (v : Word) : M Eff := do
  modMe (·.setDst d v)
  return { val := some v }

/-- The position of the field word c (R112). -/
def fieldPos (c : Word) : Nat := c.toNat % 64
/-- The width of the field word c, at most what is left of the word (R112). -/
def fieldWidth (c : Word) : Nat := min (c.toNat / 256 % 128) (64 - fieldPos c)

/-- A step of an address register through a circular buffer (R126). -/
def modStep (m : ModReg) (a : Word) (step : Int) : Word :=
  let b := m.base.toNat
  let l := m.len.toNat
  if l ≠ 0 ∧ b ≤ a.toNat ∧ a.toNat < b + l then
    BitVec.ofNat 64 (b + ((a.toNat - b : Int) + step).emod l |>.toNat)
  else a + BitVec.ofInt 64 step

/-- The address of a memory operand (R124). -/
def memAddr (a : Word) (m : Option (Fin 7)) (off : BitVec 4) (size : Nat) : Word :=
  match m with
  | none => a + BitVec.ofInt 64 (off.toInt * size)
  | some _ => a

/-- The address register after the access (R124): unchanged without a modulo register. -/
def memStep (x : Ctx) (a : Src) (m : Option (Fin 7)) (off : BitVec 4) (size : Nat) : Ctx :=
  match m, a with
  | some k, .g i => x.setReg i (modStep (x.mods.get k) (x.regs.get i) (off.toInt * size))
  | _, _ => x

end Sys2Proof.Machine
end

