-- ==== Sys2Proof/Machine/Windows.lean ====
section
/-!
DEFINITION. The sender's half of the windows (R399, R401, R403): the tables, the checks of an access, a message and its answer, and
the dealer accesses that may lead through a window. An instruction that meets a window sends its message, waits, and runs again from
its beginning with the answer at hand.
-/
namespace Sys2Proof.Machine

/-- The value listed for a key, or a default. -/
def lookupD {β : Type} (l : List (Fin 256 × β)) (k : Fin 256) (d : β) : β :=
  match l.find? (·.1 == k) with
  | some e => e.2
  | none => d
/-- Outbound entry w (R399). -/
def State.outw (s : State) (w : Fin 256) : OutWin := lookupD s.outWin w {}
/-- Inbound entry i (R400). -/
def State.inw (s : State) (i : Fin 256) : InWin := lookupD s.inWin i {}
/-- Set inbound entry i. -/
def State.setInw (s : State) (i : Fin 256) (e : InWin) : State := { s with inWin := (i, e) :: s.inWin.filter (·.1 != i) }

/-- The window id as an index. -/
def winNo (w : Nat) : Fin 256 := ⟨w % 256, Nat.mod_lt _ (by decide)⟩

/-- The route table names a working port to a domain number; a loopback needs none (R401 step 4). -/
def State.routed (s : State) (dev : Nat) : Bool :=
  dev == s.domain || (match s.routes.find? (·.1 == dev) with
    | some r => !r.2.isEmpty
    | none => false)

/-- What an access does to the memory behind a window. -/
inductive Need | read | write | combine
  deriving DecidableEq, Repr

/-- The checks of R401 for an access of n bytes. -/
def windowCause (s : State) (t : TileNo) (job : Nat) (w : Fin 256) (o n : Nat) (need : Need) : Option Cause :=
  let e := s.outw w
  if !e.v || e.job != job || (e.tb && e.tile != t.val) then some .windowFault
  else if e.size < o + n then some .windowFault
  else if !(match need with
    | .read => e.r
    | .write => e.w
    | .combine => e.w && e.c) then some .windowFault
  else if s.routed e.dev then none else some .peerUnreachable

/-- The network class of a context's traffic (R422). -/
def classOf (x : Ctx) : Fin 4 := if x.cls = 0 then 0 else if x.cls = 1 then 1 else 2

/-- The payload bytes of a message (R396). -/
def MsgOp.payload (op : MsgOp) : Nat :=
  match op with
  | .read _ => 0
  | .write bs | .entry bs _ _ => bs.length
  | .combine _ _ loc xs => fmtBytes loc * xs.length
  | .atomic _ _ _ _ => 16
  | .half _ _ => 1
  | .credit _ _ => 0

/-- The port that leads to a device: the first that its route names (R395). -/
def State.portOf (s : State) (dev : Nat) : Option Nat := (s.routes.find? (·.1 == dev)).bind fun r => r.2.head?

/-- Send what a channel's permits allow of n flits: the link, and how many went. After each 4096 flits of the direction an audit flit follows,
with what each channel's permits and flits since its last return come to (R398). -/
def Link.send (k : Link) (cls : Fin 4) (n : Nat) : Link × Nat :=
  let c := k.chans.get cls
  let m := min n c.permits
  let k : Link := { k with chans := k.chans.set cls { c with permits := c.permits - m, sent := c.sent + m }, flits := k.flits + m }
  (if k.flits < 4096 then k else { k with flits := k.flits - 4096, audit := k.chans.toList.map fun c => c.permits + c.sent }, m)

/-- A port sends what its permits allow: the flits of answers and notices, then those of the messages that leave through it, in their order
on each channel (R398). -/
def pumpPort (p : Fin 18) (s : State) : State :=
  let k := s.ports.get p
  if k.retraining then s
  else
    let k := (List.finRange 4).foldl (fun (k : Link) ch => let r := k.send ch (k.out.get ch); { r.1 with out := r.1.out.set ch (r.1.out.get ch - r.2) }) k
    let one (a : Link × List Msg) (m : Msg) : Link × List Msg :=
      if m.flits = 0 ∨ s.portOf m.dev ≠ some p.val then (a.1, a.2 ++ [m])
      else let r := a.1.send m.cls m.flits; (r.1, a.2 ++ [{ m with flits := m.flits - r.2 }])
    let r := s.msgs.foldl one (k, [])
    { s with ports := s.ports.set p r.1, msgs := r.2 }

/-- Change the link of the port that leads to a device. -/
def State.modPortTo (s : State) (dev : Nat) (f : Link → Link) : State :=
  match s.portOf dev with
  | some p => if h : p < 18 then { s with ports := s.ports.set p (f (s.ports.get ⟨p, h⟩)) } else s
  | none => s

/-- Send n flits of an answer or a notice to another device (R398, R405). -/
def sendFlits (dev : Nat) (cls : Fin 4) (n : Nat) (s : State) : State :=
  if dev = s.domain then s
  else
    let s := s.modPortTo dev fun k => { k with out := k.out.set cls (k.out.get cls + n) }
    match s.portOf dev with
    | some p => if h : p < 18 then pumpPort ⟨p, h⟩ s else s
    | none => s

/-- The flits of a message from another device have been consumed: their permits go back (R398). -/
def returnFlits (dev : Nat) (cls : Fin 4) (n : Nat) (s : State) : State :=
  if dev = s.domain then s
  else s.modPortTo dev fun k => let c := k.chans.get cls; { k with chans := k.chans.set cls { c with returns := c.returns + n } }

/-! ## Where a message leads at its destination (R402) -/

/-- What a message is at its destination: the source device and job, the inbound entry and offset, the operation, the source tile of this
device where it is a loopback, and its releases. -/
structure Arrival where
  dev    : Nat
  job    : Nat
  inb    : Fin 256
  off    : Nat
  op     : MsgOp
  tile   : Nat := 0
  stamp  : Option Stamp := none
  fences : List (Scope × Option Stamp) := []
  deriving DecidableEq, Repr

/-- The bytes that a message names. -/
def MsgOp.size (op : MsgOp) : Nat :=
  match op with
  | .read n => n
  | .write bs | .entry bs _ _ => bs.length
  | .combine ty _ _ xs => fmtBytes ty * xs.length
  | .atomic _ n _ _ => n
  | .half _ _ => 1
  | .credit _ _ => 0

/-- What a message needs of its entry (R401). -/
def MsgOp.need (op : MsgOp) : Need :=
  match op with
  | .read _ => .read
  | .write _ | .half _ _ | .entry _ _ _ | .credit _ _ => .write
  | .combine _ _ _ _ | .atomic _ _ _ _ => .combine

/-- An aligned 8-byte store. -/
def MsgOp.bell (op : MsgOp) (off : Nat) : Bool :=
  match op with
  | .write bs => bs.length == 8 && off % 8 == 0
  | .read _ | .combine _ _ _ _ | .atomic _ _ _ _ | .half _ _ | .entry _ _ _ | .credit _ _ => false

/-- The arrival kind; 3 is treated as 0 (R400). -/
def InWin.kind (e : InWin) : Nat := if e.arrk = 1 ∨ e.arrk = 2 then e.arrk else 0

/-- Checks 1 to 3 of R402. -/
def entryOk (e : InWin) (a : Arrival) : Bool :=
  e.v && e.job == a.job && (e.anysrc || e.srcdev == a.dev) && decide (a.off + a.op.size ≤ e.size) &&
  (match a.op.need with
   | .read => e.r
   | .write => e.w
   | .combine => e.w && e.c) &&
  (e.kind != 2 || a.op.bell a.off)

/-- A context of a job that stands in a slot, by its number. -/
def State.boundCtx (s : State) (e : InWin) : Option (TileNo × SlotNo × Ctx) :=
  if h : e.btile < 384 then
    match s.slotOf ⟨e.btile, h⟩ e.job e.bctx with
    | some c => (s.ctx? ⟨e.btile, h⟩ c).map fun x => (⟨e.btile, h⟩, c, x)
    | none => none
  else none

/-- The first hold of R402, and that of R406 for what counts at a saved context. -/
def heldAtEntry (s : State) (e : InWin) (op : MsgOp) : Bool :=
  e.kind != 0 && (!e.bound || (op.need != .read && (s.boundCtx e).isNone))

/-- How check 4 of R402 ends: where each byte of the message lies with whether it is checked, a hold, or a refusal. -/
inductive Target
  | at (places : List (Nat × Bool))
  | held
  | refused
  deriving DecidableEq, Repr

/-- A byte of device-virtual memory for an arrival: translation and grant (R389, R344). -/
def devByte (s : State) (job va : Nat) (write : Bool) : Option (Nat × Bool) :=
  match (walk s false job va).leaf with
  | .error _ => none
  | .ok e =>
    let pa := leafPa e va
    if (write && !e.w) || (grantFault s job pa write).isSome then none else some (pa, checkedAt s pa e.chk)

/-- Check 4 of R402 at BASE + o. -/
def targetOf (s : State) (e : InWin) (a : Arrival) : Target :=
  let b := e.base + BitVec.ofNat 64 a.off
  let n := a.op.size
  if !spaceOk b then .refused
  else match spaceOf b with
    | 0x0 =>
      match (List.range n).mapM fun i => devByte s a.job (offOf b + i) (a.op.need != .read) with
      | some ps => .at ps
      | none => .refused
    | 0xB =>
      let u := offOf b / 4294967296
      let o := offOf b % 4294967296
      if h : u < 384 then
        match residentOf (s.tile ⟨u, h⟩) a.job with
        | none => .held
        | some r =>
          if padBytes r.partw < o + n ∨ hitsDeck (s.tile ⟨u, h⟩) o n = true then .refused
          else .at ((List.range n).map fun i => (spAt u (o + i), false))
      else .refused
    | _ => .refused

/-- A message as it meets its destination on this device. -/
def Msg.arrival (m : Msg) : Arrival :=
  { dev := m.dev, job := m.job, inb := m.inb, off := m.off, op := m.op, tile := m.tile, stamp := m.stamp, fences := m.fences }

/-- A message has not been performed. -/
def Msg.pending (m : Msg) : Bool := m.state == .going || m.state == .held

/-- The bytes of memory that a message of this device to itself reads or writes, as its entry stands; a doorbell has none (R406). -/
def Msg.places (s : State) (m : Msg) : List Nat :=
  if m.dev != s.domain || (s.inw m.inb).kind == 2 then []
  else match targetOf s (s.inw m.inb) m.arrival with
    | .at ps => ps.map (·.1)
    | .held | .refused => []

/-- Two messages of one agent: a dealer's, or those of one chain. -/
def Msg.sameAgent (m n : Msg) : Bool :=
  m.tile == n.tile && m.job == n.job && m.num == n.num && m.chain.map (·.1) == n.chain.map (·.1)

/-- The message is a release of an engine at DOM scope: a write of this device to itself that an entry counts (R408, log 119). -/
def Msg.releases (s : State) (m : Msg) : Bool :=
  m.chain.isSome && m.dev == s.domain && m.op.need == .write && (s.inw m.inb).kind != 0

/-- An earlier message of the same agent to the same place is not performed yet: accesses to one location keep their order; a release waits
also until every earlier write of its agent has been acknowledged (R408). -/
def msgBehind (s : State) (m : Msg) : Bool :=
  let ps := m.places s
  s.msgs.any fun n => decide (n.id < m.id) && n.sameAgent m &&
    (m.releases s && n.op.need != .read && n.state != .parked) || decide (n.id < m.id) && n.pending && n.sameAgent m && n.dev == m.dev &&
    ((n.inb == m.inb && decide (n.off < m.off + m.op.size) && decide (m.off < n.off + n.op.size)) ||
      (!ps.isEmpty && (n.places s).any ps.contains))

/-- A message that a chain's blocks have sent to this device is not performed yet at a place of [k, k + n): a later access of the chain to it
waits (R165, R198). -/
def msgsBehind (s : State) (x : Ctx) (ch : ChainNo) (k n : Nat) : Bool :=
  s.msgs.any fun m => m.pending && m.job == x.job && m.num == x.num && m.chain.any (·.1 == ch) &&
    (m.places s).any fun p => decide (k ≤ p) && decide (p < k + n)

/-! ## Sending -/

/-- The entries of translation tables that a message of this device to itself has the walker read where it arrives (R389). -/
def Msg.walked (s : State) (m : Msg) : List Nat :=
  let b := (s.inw m.inb).base + BitVec.ofNat 64 m.off
  if m.dev == s.domain && (s.inw m.inb).kind != 2 && spaceOf b == 0 then (walk s false m.job (offOf b)).reads else []

/-- Payload that a message brings to another device, or its answer from there, counts at its sender (R424). -/
def chargePayload (m : Msg) (n : Nat) (s : State) : State :=
  if m.dev = s.domain then s
  else match s.slotOf m.tile m.job m.num with
    | some c => s.charge m.tile c 7 (unitsOf n)
    | none => s.chargeOwner m.job m.num 7 (unitsOf n)

/-- What sending a message of n bytes costs: it is charged NET, and HBM as well where it arrives at HBM4 of this device, with the walker's reads there
(R418); one to another device counts as payload (R424). -/
def msgCost (m : Msg) (n : Nat) (s : State) : State :=
  let reads := (m.walked s).filter isHbm
  let s := s.request (if (m.places s).any isHbm then unitsOf n else 0) (unitsOf n)
  chargePayload m m.op.payload (reads.foldl (fun s _ => s.request 1 0) s)

/-- Issue a message of n bytes, at its cost; one to another device goes out in flits (R396). The state with the message, and its number. -/
def issueMsg (m : Msg) (n : Nat) (s : State) : State × Nat :=
  let far := m.dev != s.domain
  let m := { m with id := s.msgNo, flits := if far then 1 + unitsOf m.op.payload else 0 }
  let s := msgCost m n { s with msgNo := s.msgNo + 1, msgs := s.msgs ++ [m] }
  if far then
    match s.portOf m.dev with
    | some p => if h : p < 18 then (pumpPort ⟨p, h⟩ s, m.id) else (s, m.id)
    | none => (s, m.id)
  else (s, m.id)

/-- Send a message through a window, by its outbound entry as it was checked (R401). The state with the message, and its number. -/
def sendMsg (t : TileNo) (x : Ctx) (chain : Option (ChainNo × Nat × Nat)) (w : Fin 256) (e : OutWin) (o n : Nat) (op : MsgOp) (a : Word)
    (p : Option Stamp) (count : Nat) (s : State) : State × Nat :=
  issueMsg { id := 0, tile := t, job := x.job, num := x.num, chain, win := w, dev := e.dev, inb := e.inb, off := o, op, addr := a,
             stamp := p, count, cls := classOf x, fences := if chain.isNone then x.fences else [] } n s

/-- A window as a block's LINK checked it (R401). -/
def State.capWin (s : State) (cap : Cap) (w : Fin 256) : OutWin := lookupD cap.wins w (s.outw w)

/-- A write through a window whose inbound entry counts arrivals is a release of its sender at DOM scope: of a doorbell (R408), and of a unit,
whose grant acquires the writes before it (R358, log 119). The sender knows the entry of a loopback only. -/
def State.bellScope (s : State) (e : OutWin) : Option Scope :=
  if e.dev == s.domain && ((s.inw e.inb).arrk == 1 || (s.inw e.inb).arrk == 2) then some .dom else none

/-- Send a message with the release that goes with it, if it has one. -/
def sendRel (t : TileNo) (x : Ctx) (chain : Option (ChainNo × Nat × Nat)) (w : Fin 256) (e : OutWin) (o n : Nat) (op : MsgOp) (a : Word)
    (rel : Option Scope) (count : Nat) (s : State) : State × Nat :=
  match rel with
  | none => sendMsg t x chain w e o n op a none count s
  | some sc => sendMsg t x chain w e o n op a (releaseAt t sc s).2 count (releaseAt t sc s).1

/-! ## Accesses of a dealer -/

/-- Window access number j of a dealer instruction: without an answer it sends its message and waits; with one it delivers what
R403 states, and the releases published at the place, whose fences are kept (R347). `rel` is the scope of a release that goes with the message. -/
def windowAccess (t : TileNo) (c : SlotNo) (x : Ctx) (a : Word) (w o n : Nat) (op : MsgOp) (need : Need) (j : Nat)
    (rel : Option Scope := none) : M (List Byte × List Pub) := do
  match x.answers[j]? with
  | none => do
    match ← see fun s => windowCause s t x.job (winNo w) o n need with
    | some cause => trap cause a
    | none => exit (.send fun s => sendRel t x none (winNo w) (s.outw (winNo w)) o n op a rel 0 s)
  | some .refused => trap .windowFault a
  | some .lost =>
    if x.strict then trap .windowFault a
    else do
      modCtx t c fun y => { y with dropcnt := BitVec.ofNat 32 (min (y.dropcnt.toNat + n) 0xFFFFFFFF) }
      recordCause t x .windowFault a (BitVec.ofNat 64 n)
      return (List.replicate n 0, [])
  | some (.data bs ps bad) => do
    noteFences t c ps
    deliverBad t c x a bad (bs, ps)

/-- Load n bytes wherever the address leads (R106, R403). -/
def loadAny (t : TileNo) (c : SlotNo) (x : Ctx) (a : Word) (n j : Nat) : M (List Byte) := do
  match ← resolve t x a n false with
  | .window w o => do
    return (← windowAccess t c x a w o n (.read n) .read j).1
  | p => do
    raceStep t x a p false false
    placeRead t c x a p n

/-- Store bytes wherever the address leads. -/
def storeAny (t : TileNo) (c : SlotNo) (x : Ctx) (a : Word) (bs : List Byte) (j : Nat) : M Unit := do
  match ← resolve t x a bs.length true with
  | .window w o => do
    let rel ← see fun s => s.bellScope (s.outw (winNo w))
    let _ ← windowAccess t c x a w o bs.length (.write bs) .write j rel
    pure ()
  | p => do
    raceStep t x a p true false
    eccWrite x a p bs.length
    placeWrite t x p bs

/-- n doubleword loads in ascending order (R155, R289, R308). -/
def loadDws (t : TileNo) (c : SlotNo) (x : Ctx) (a : Word) (n : Nat) : M (List Word) :=
  (List.range n).mapM fun j => do
    let b := a + BitVec.ofNat 64 (8 * j)
    accessChecks b 8
    let bs ← loadAny t c x b 8 j
    return BitVec.ofNat 64 (leNat bs)

end Sys2Proof.Machine
end

