-- ==== Sys2Proof/Machine/Tensors.lean ====
section
/-!
DEFINITION. The tensor identifier table: entries and their geometry (R148 to R152), and TDEF, TMOD, TGET and TKILL (R154, R155).
-/
namespace Sys2Proof.Machine

/-- An entry, or the image TDEF reads: 32 doublewords (R150). -/
abbrev Tit := Vector Word 32

/-- Doubleword k of an entry. -/
def titDw (e : Tit) (k : Nat) : Nat := (e.toList[k]?.getD 0).toNat
/-- FORMAT. -/
def titFmt (e : Tit) : Nat := bits (titDw e 0) 0 4
/-- RANK. -/
def titRank (e : Tit) : Nat := bits (titDw e 0) 4 4
/-- VALID. -/
def titValid (e : Tit) : Bool := bits (titDw e 0) 8 1 == 1
/-- RELOC. -/
def titReloc (e : Tit) : Bool := bits (titDw e 0) 9 1 == 1
/-- CHECKED. -/
def titChecked (e : Tit) : Bool := bits (titDw e 0) 10 1 == 1
/-- READONLY. -/
def titReadonly (e : Tit) : Bool := bits (titDw e 0) 11 1 == 1
/-- ROWRES. -/
def titRowres (e : Tit) : Bool := bits (titDw e 0) 12 1 == 1
/-- RESTID. -/
def titRestid (e : Tit) : Fin 128 := ⟨bits (titDw e 0) 32 7, Nat.mod_lt _ (by decide)⟩
/-- REL. -/
def titRel (e : Tit) : Fin 16 := ⟨bits (titDw e 0) 40 4, Nat.mod_lt _ (by decide)⟩
/-- SIZEi. -/
def titSize (e : Tit) (i : Nat) : Nat := bits (titDw e (4 + i / 2)) (32 * (i % 2)) 32
/-- STRIDEi. -/
def titStride (e : Tit) (i : Nat) : Int := toInt 64 (titDw e (11 + i))
/-- The sizes of the dimensions in use. -/
def titSizes (e : Tit) : List Nat := (List.range (titRank e)).map (titSize e)
/-- The strides of the dimensions in use. -/
def titStrides (e : Tit) : List Int := (List.range (titRank e)).map (titStride e)

/-- An address field of an entry suits its RELOC bit (R151.4). -/
def titAddrOk (e : Tit) (k : Nat) : Bool :=
  if titReloc e then titDw e k / 1099511627776 == 0 else spaceOk (BitVec.ofNat 64 (titDw e k))

/-- The entry is well formed (R151). -/
def titOk (e : Tit) : Bool :=
  let f := titFmt e
  let r := titRank e
  decide (f ≤ 8) && decide (1 ≤ r) && decide (r ≤ 14) &&
  bits (titDw e 0) 13 19 == 0 && bits (titDw e 0) 39 1 == 0 && bits (titDw e 0) 44 20 == 0 &&
  ((List.range' 25 7).all fun k => titDw e k == 0) &&
  (titRowres e || (titRestid e).val == 0) && (titReloc e || (titRel e).val == 0) &&
  ((List.range 14).all fun i =>
    if i < r then decide (1 ≤ titSize e i) && decide (-140737488355328 ≤ titStride e i) && decide (titStride e i ≤ 140737488355327)
    else titSize e i == 0 && titStride e i == 0) &&
  titAddrOk e 1 &&
  titDw e 1 % (max (fmtBytes f) 1) == 0 &&
  (if f = 8 then
    titAddrOk e 2 && titAddrOk e 3 && titStride e 0 == 1 && titSize e 0 % 8 == 0 &&
    ((List.range' 1 13).all fun i => titStride e i % 8 == 0) && titDw e 3 % 2 == 0
  else titDw e 2 == 0 && titDw e 3 == 0) &&
  (!titRowres e || f == 2 || f == 3 || f == 4 || f == 8)

/-- The identifiers that an unretired block names (R154). -/
def Ctx.titLocked (x : Ctx) (n : Fin 128) : Bool := (allBlocks x).any fun b => b.cap.set.contains n

/-- An entry of the table. -/
def Ctx.titGet (x : Ctx) (n : Fin 128) : Tit := x.tit.get n
/-- Set an entry. -/
def Ctx.titSet (x : Ctx) (n : Fin 128) (e : Tit) : Ctx := { x with tit := x.tit.set n e }
/-- A doubleword 0 with VALID set or cleared. -/
def withValid (w : Word) (v : Bool) : Word := BitVec.ofNat 64 (setBits w.toNat 8 1 v.toNat)

/-- TDEF (R155): the 32 loads of the image, alignment, lock, geometry. -/
def execTdef (h : Hd) (n : Fin 128) (a : Src) (s : State) : Host.Outcome State Fault Refusal :=
  dealer h (do
    let v ← readA a
    let (t, c) ← me
    let x ← getCtx t c
    let img ← loadDws t c x v 32
    check (v.toNat % 64 == 0) .misalignedData v
    check (!x.titLocked n) .tidInUse v
    let e : Tit := Vector.ofFn fun k => if k = 0 then withValid (img[0]?.getD 0) true else img[k.val]?.getD 0
    check (titOk e) .tidGeometry v
    modMe (·.titSet n e)
    return {}) s (ends := true)

/-- TMOD (R155): one doubleword; bit 8 of doubleword 0 keeps its value. -/
def execTmod (h : Hd) (n : Fin 128) (a x : Src) (s : State) : Host.Outcome State Fault Refusal :=
  dealer h (do
    let v ← readA a
    let y ← readC x v
    let m ← myCtx
    let e := m.titGet n
    check (titValid e) .tidInvalid v
    if hk : v.toNat < 32 then do
      check (!m.titLocked n) .tidInUse v
      let w := if v = 0 then withValid y (titValid e) else y
      let e' : Tit := e.set v.toNat w hk
      check (titOk e') .tidGeometry v
      modMe (·.titSet n e')
      return {}
    else trap .reservedField v) s (ends := true)

/-- TGET (R155). -/
def execTget (h : Hd) (d : Dst) (n : Fin 128) (a : Src) (s : State) : Host.Outcome State Fault Refusal :=
  dealer h (do
    let v ← readA a
    check (decide (v.toNat < 32)) .reservedField v
    let x ← myCtx
    op0 d (BitVec.ofNat 64 (titDw (x.titGet n) v.toNat))) s (ends := true)

/-- TKILL (R155). -/
def execTkill (h : Hd) (n : Fin 128) (s : State) : Host.Outcome State Fault Refusal :=
  dealer h (do
    let x ← myCtx
    check (!x.titLocked n) .tidInUse 0
    modMe (·.titSet n (Vector.replicate 32 0))
    return {}) s (ends := true)

end Sys2Proof.Machine
end

