-- ==== Sys2Proof/Machine/Envelope.lean ====
section
/-!
DEFINITION. The walk of a copy block over its tensor (R186, R187), the line of a shaping store (R275), and the envelope of a block:
the exact set of locations that its iterations could touch (R132, R174), as intervals and unit masks.
-/
namespace Sys2Proof.Machine

/-! ## Sets of positions -/

/-- Half-open intervals. -/
abbrev Ivs := List (Int × Int)

/-- How far n positions, a step apart, reach below the first. -/
def reachLo (n : Nat) (step : Int) : Int := min 0 (((n - 1 : Nat) : Int) * step)
/-- How far they reach above it. -/
def reachHi (n : Nat) (step : Int) : Int := max 0 (((n - 1 : Nat) : Int) * step)

/-- What n positions, a step apart, make of a set of intervals: overlapping copies grow together. -/
def spread (ivs : Ivs) (n : Nat) (step : Int) : Ivs :=
  if n = 0 then []
  else ivs.flatMap fun iv =>
    if step.natAbs ≤ (iv.2 - iv.1).natAbs then
      [(iv.1 + reachLo n step, iv.2 + reachHi n step)]
    else (List.range n).map fun (k : Nat) => (iv.1 + (k : Int) * step, iv.2 + (k : Int) * step)

/-- The positions a nest reaches from a start interval. -/
def sweep (start : Int × Int) (levels : List (Nat × Int)) : Ivs := levels.foldl (fun ivs l => spread ivs l.1 l.2) [start]

/-- The intervals cover [lo, hi). -/
def covered (fuel : Nat) (ivs : Ivs) (lo hi : Int) : Bool :=
  match fuel with
  | 0 => decide (hi ≤ lo)
  | n + 1 =>
    if hi ≤ lo then true
    else match ivs.find? fun iv => decide (iv.1 ≤ lo) && decide (lo < iv.2) with
      | some iv => covered n ivs iv.2 hi
      | none => false

/-- One set of intervals lies in another. -/
def ivsIn (a b : Ivs) : Bool := a.all fun iv => covered (b.length + 1) b iv.1 iv.2

/-- Units as a mask; `bad` where one lies outside. -/
def unitMask (n : Nat) (ivs : Ivs) : BitVec n × Bool :=
  ivs.foldl (fun (m : BitVec n × Bool) (iv : Int × Int) =>
    if iv.2 ≤ iv.1 then m
    else if iv.1 < 0 ∨ (n : Int) < iv.2 then (m.1, true)
    else (m.1 ||| (BitVec.allOnes n >>> (n - (iv.2 - iv.1).toNat) <<< iv.1.toNat), m.2)) (0, false)

/-! ## The walk of a copy block -/

/-- Sizes and strides of the dimensions in use. -/
def dims (e : Tit) : List (Nat × Int) := (titSizes e).zip (titStrides e)

/-- The smallest and the largest element index inside an entry's extent (R186). -/
def extent (ds : List (Nat × Int)) : Int × Int :=
  ds.foldl (fun a d => (a.1 + reachLo d.1 d.2, a.2 + reachHi d.1 d.2)) (0, 0)

/-- The multiples of a nonzero step in an interval, as a range of factors. -/
def factors (step lo hi : Int) : Int × Int :=
  if 0 < step then (-((-lo) / step), hi / step) else (-(hi / (-step)), (-lo) / (-step))

/-- The coordinate vectors that reach an element index, the last dimension first (R187). Of those that differ only in a dimension with
stride 0, two are given. -/
def originsRev (ds : List (Nat × Int)) (target : Int) : List (List Nat) :=
  match ds with
  | [] => if target = 0 then [[]] else []
  | d :: r =>
    let (lo, hi) := extent r
    if d.2 = 0 then (List.range (min d.1 2)).flatMap fun o => (originsRev r target).map (o :: ·)
    else
      let (a, b) := factors d.2 (target - hi) (target - lo)
      let a := (max a 0).toNat
      let n := (min b (d.1 - 1 : Nat) + 1 - a).toNat
      (List.range' a n).flatMap fun (o : Nat) => (originsRev r (target - (o : Int) * d.2)).map (o :: ·)

/-- The origin vector of a block, where exactly one exists (R187). -/
def origin (e : Tit) (torg : Int) : Option (List Nat) :=
  match originsRev (dims e).reverse torg with
  | [o] => some o.reverse
  | _ => none

/-- The step of a level in element index. -/
def lvlStep (e : Tit) (l : CopyLvl) : Int := l.tstep * titStride e l.tdim

/-- The element index of an iteration (R186). -/
def elemAt (e : Tit) (b : CopyBody) (idx : List Nat) : Int := b.torg + dot idx (b.lvls.map (lvlStep e))

/-- Coordinate d of an iteration (R187). -/
def coordAt (o : List Nat) (b : CopyBody) (idx : List Nat) (d : Nat) : Int :=
  (o[d]?.getD 0 : Int) + dot idx (b.lvls.map fun l => if l.tdim = d then l.tstep else 0)

/-- The range of coordinate d over a block's iterations. -/
def coordRange (o : List Nat) (b : CopyBody) (d : Nat) : Int × Int :=
  b.lvls.foldl (fun a l => if l.tdim = d then
    (a.1 + reachLo l.bnd l.tstep, a.2 + reachHi l.bnd l.tstep) else a)
    ((o[d]?.getD 0 : Int), (o[d]?.getD 0 : Int))

/-- Dense steps of the dimensions: the product of the sizes below. -/
def denseSteps (sizes : List Nat) (m : Nat := 1) : List Nat :=
  match sizes with
  | [] => []
  | z :: r => m :: denseSteps r (m * z)

/-- The dense index of coordinates: row times SIZE0 plus coordinate 0 (R70). -/
def denseAt (sizes : List Nat) (cs : List Int) : Int := (List.zipWith (fun (c : Int) (m : Nat) => c * m) cs (denseSteps sizes)).foldl (· + ·) 0

/-- The weights of the coordinates in the line number of an axis (R275): 0 on the axis itself. -/
def lineSteps (dim : Nat) (sizes : List Nat) (i : Nat := 0) (m : Nat := 1) : List Nat :=
  match sizes with
  | [] => []
  | z :: r => if i = dim then 0 :: lineSteps dim r (i + 1) m else m :: lineSteps dim r (i + 1) (m * z)

/-- The line number of coordinates. -/
def lineAt (dim : Nat) (sizes : List Nat) (cs : List Int) : Int :=
  (List.zipWith (fun (c : Int) (m : Nat) => c * m) cs (lineSteps dim sizes)).foldl (· + ·) 0

/-- The smallest and largest line a block reaches. -/
def lineRange (e : Tit) (dim : Nat) (o : List Nat) (b : CopyBody) : Int × Int :=
  let w := lineSteps dim (titSizes e)
  let start := lineAt dim (titSizes e) (o.map fun c => (c : Int))
  b.lvls.foldl (fun a l =>
    let st := l.tstep * ((w[l.tdim]?.getD 0 : Nat) : Int)
    (a.1 + reachLo l.bnd st, a.2 + reachHi l.bnd st)) (start, start)

/-- The bounds of a copy block admit an iteration. -/
def CopyBody.runs (b : CopyBody) : Bool := b.lvls.all fun l => l.bnd != 0

/-- The local format of a copy block (R188); accumulator runs of a STORE read the tile's tag and have none here. -/
def localFmt (store : Bool) (b : CopyBody) (fmt : Nat) : Nat :=
  if b.lkind = 0 then (if fmt = 8 ∨ (store ∧ b.shape) then 0 else fmt)
  else if b.lkind = 3 then (if store ∧ b.shape then 0 else fmt)
  else fmt

/-! ## Envelopes -/

/-- An envelope: memory, hand slots, accumulator tiles, and whether a unit number lies outside every store. -/
structure Env where
  spans : List Span := []
  slots : BitVec 384 := 0
  tiles : BitVec 192 := 0
  bad   : Bool := false
  deriving DecidableEq, Repr

/-- The union. -/
def Env.join (a b : Env) : Env := ⟨a.spans ++ b.spans, a.slots ||| b.slots, a.tiles ||| b.tiles, a.bad || b.bad⟩

/-- Intervals relative to a base address, as spans. -/
def spansAt (base : Word) (ivs : Ivs) (write chk : Bool) : List Span :=
  ivs.map fun iv => ⟨spaceOf base, offOf base + iv.1, offOf base + iv.2, write, chk⟩
/-- Scratchpad intervals as spans. -/
def spSpans (ivs : Ivs) (write : Bool) : List Span := ivs.map fun iv => ⟨8, iv.1, iv.2, write, false⟩
/-- Hand slots as an envelope. -/
def slotEnv (ivs : Ivs) : Env := let m := unitMask 384 ivs; { slots := m.1, bad := m.2 }
/-- Accumulator tiles as an envelope. -/
def tileEnv (ivs : Ivs) : Env := let m := unitMask 192 ivs; { tiles := m.1, bad := m.2 }

/-- The unit intervals of a copy block's run (R190): every ring position counts (R138). -/
def runUnits (b : CopyBody) : Ivs :=
  sweep (b.lbase, b.lbase + 1) (b.lvls.zipIdx.map fun l =>
    if l.2 < 2 then (min l.1.bnd 1, 0)
    else if 1 < b.lring ∧ l.2 = b.llvl then (if l.1.bnd = 0 then 0 else b.lring, 1)
    else (l.1.bnd, l.1.lstr))

/-- The element intervals of a copy block. -/
def elemIvs (e : Tit) (b : CopyBody) : Ivs := sweep (b.torg, b.torg + 1) (b.lvls.map fun l => (l.bnd, lvlStep e l))

/-- The dense-index intervals of an F4B8 copy block (R70, R82). -/
def denseIvs (e : Tit) (o : List Nat) (b : CopyBody) : Ivs :=
  let w := denseSteps (titSizes e)
  let start := denseAt (titSizes e) (o.map fun c => (c : Int))
  sweep (start, start + 1) (b.lvls.map fun l => (l.bnd, l.tstep * ((w[l.tdim]?.getD 0 : Nat) : Int)))

/-- Intervals divided by n, outward. -/
def ivsDiv (ivs : Ivs) (n : Int) : Ivs := ivs.map fun iv => (iv.1 / n, (iv.2 - 1) / n + 1)
/-- Intervals multiplied by n. -/
def ivsMul (ivs : Ivs) (n : Int) : Ivs := ivs.map fun iv => (iv.1 * n, iv.2 * n)

/-- The band scales of a copy block's elements (R82). -/
def bandEnv (store : Bool) (e : Tit) (tc : TensCap) (b : CopyBody) : List Span :=
  spansAt tc.s1 (ivsMul (ivsDiv (denseIvs e ((origin e b.torg).getD []) b) (64 * titSize e 0)) 2) store (titChecked e)

/-- The tensor side of a copy block through one entry (R152, R82). -/
def tensorEnv (store : Bool) (e : Tit) (tc : TensCap) (b : CopyBody) : List Span :=
  let chk := titChecked e
  if titFmt e = 8 then
    spansAt tc.base (ivsDiv (elemIvs e b) 2) store chk ++
      spansAt tc.s0 (ivsDiv (denseIvs e ((origin e b.torg).getD []) b) 8) store chk ++ bandEnv store e tc b
  else spansAt tc.base (ivsMul (elemIvs e b) (fmtBytes (titFmt e))) store chk

/-- The local side of a copy block. -/
def localEnv (store : Bool) (b : CopyBody) (fmt : Nat) : Env :=
  match b.lkind with
  | 0 =>
    let s := fmtBytes (localFmt store b fmt)
    { spans := spSpans (sweep (b.lbase, b.lbase + s) (b.lvls.map fun l => (l.bnd, l.lstr))) (!store) }
  | 1 => slotEnv (runUnits b)
  | 2 => tileEnv (runUnits b)
  | _ => {}

/-- The capture of an identifier. -/
def Cap.tensOf (c : Cap) (n : Nat) : TensCap := (c.tens.find? (·.tid.val == n)).getD ⟨0, 0, 0, 0⟩
/-- An entry of the table by number. -/
def Ctx.titNo (x : Ctx) (n : Nat) : Tit := x.titGet ⟨n % 128, Nat.mod_lt _ (by decide)⟩

/-- The envelope of a copy block over the tensors it may name; of a shaping store with ROWRES, the residues too (R276). -/
def copyEnv (x : Ctx) (cap : Cap) (store : Bool) (b : CopyBody) (tids : List Nat) : Env :=
  if !b.runs then {}
  else
    let e := x.titNo b.tid
    let tens : Env := { spans := tids.flatMap fun n => tensorEnv store (x.titNo n) (cap.tensOf n) b }
    let res : Env :=
      if store && b.shape && titRowres e then
        let r := x.titGet (titRestid e)
        let top := (lineRange e cap.axis.dim ((origin e b.torg).getD []) b).2
        { spans := spansAt (cap.tensOf (titRestid e)).base (sweep (0, 4) [((top + 1).toNat, 4 * titStride r 0)]) true
            (titChecked r) }
      else {}
    (localEnv store b (titFmt e)).join (tens.join res)

/-- The slots of a MATRIX operand: every ring position (R202); `half` for the F4B8 operand of the mixed pair. -/
def matSlots (o : MatOp) (half : Bool) : Env :=
  slotEnv [((o.base : Int), o.base + (if half then (o.ring + 1) / 2 else o.ring))]

/-- The accumulator tiles of a MATRIX block (R205). -/
def matTiles (m : MatBody) : Ivs :=
  sweep (m.cbase, m.cbase + 1) ((m.bnd.zip m.cstr) ++ (if 1 < m.cring then [(m.cring, 1)] else []))

/-- The operand pair is the mixed one (R200). -/
def mixedPair (fa fb : Option Nat) : Bool := fa == some 8 && fb == some 3

/-- The envelope of a MATRIX block. -/
def matEnv (cap : Cap) (m : MatBody) : Env :=
  if iterCount m.bnd = 0 then {}
  else (matSlots m.a (mixedPair cap.fmtA cap.fmtB)).join ((matSlots m.b false).join (tileEnv (matTiles m)))

/-! ### VECTOR blocks -/

/-- The operator groups of R249. -/
inductive VGroup | binary | scalar | unary | three | compare | special | bitwise | block | segment | index | softmax
  deriving DecidableEq, Repr

/-- The group of an operator code; none where the code is not assigned. -/
def vgroup (op : Nat) : Option VGroup :=
  if 0x01 ≤ op ∧ op ≤ 0x07 then some .binary
  else if 0x08 ≤ op ∧ op ≤ 0x0C then some .scalar
  else if 0x10 ≤ op ∧ op ≤ 0x14 then some .unary
  else if 0x18 ≤ op ∧ op ≤ 0x1C then some .three
  else if 0x20 ≤ op ∧ op ≤ 0x23 then some .compare
  else if 0x28 ≤ op ∧ op ≤ 0x2D then some .special
  else if 0x30 ≤ op ∧ op ≤ 0x34 then some .bitwise
  else if 0x38 ≤ op ∧ op ≤ 0x3A then some .block
  else if 0x3C ≤ op ∧ op ≤ 0x3F then some .segment
  else if 0x40 ≤ op ∧ op ≤ 0x42 then some .index
  else if op = 0x48 then some .softmax
  else none

/-- The operator code is assigned. -/
def opAssigned (op : Nat) : Bool := (vgroup op).isSome

/-- What decides the elements a port reaches. -/
inductive PortUse
  /-- R239 over all levels. -/
  | walk
  /-- One element, or one a row: the outputs of reductions (R257, R258). -/
  | first
  | rows
  /-- A table: every element (R259). -/
  | table
  | unused
  deriving DecidableEq, Repr

/-- How the operator uses port k: 0 x, 1 y, 2 z, 3 w. -/
def portUse (b : VecBody) (k : Nat) : PortUse :=
  match k, vgroup b.op with
  | 0, _ => if b.op = 0x40 then .table else .walk
  | 1, some .binary | 1, some .three | 1, some .compare | 1, some .bitwise | 1, some .index => .walk
  | 2, some .three => .walk
  | 2, _ => if b.msrc = 1 then .walk else .unused
  | 3, some .block => .first
  | 3, some .segment => if b.op = 0x3F then .walk else .rows
  | 3, some .index => if b.op = 0x40 then .walk else .table
  | 3, _ => .walk
  | _, _ => .unused

/-- Port k of a body. -/
def VecBody.port (b : VecBody) (k : Nat) : VPort :=
  match k with
  | 0 => b.x
  | 1 => b.y
  | 2 => b.z
  | _ => b.w

/-- The region elements a port reaches. -/
def portIvs (b : VecBody) (k : Nat) : Ivs :=
  let p := b.port k
  match portUse b k with
  | .unused => []
  | .table => if iterCount b.bnd = 0 then [] else [(0, p.count)]
  | .first => [(0, 1)]
  | .rows => sweep (0, 1) ((b.bnd.drop 1).zip (p.str.drop 1))
  | .walk => sweep (0, 1) (b.bnd.zip p.str)

/-- The width of a hand-slot row (R133). -/
def rowWidth (ty : Nat) : Nat := if ty = 8 then 256 else if fmtBytes ty = 2 then 64 else 128

/-- A port's part of the envelope (R239). -/
def portEnv (b : VecBody) (k : Nat) : Env :=
  let p := b.port k
  let ivs := portIvs b k
  match p.kind with
  | 1 => { spans := spSpans ((ivsMul ivs (fmtBytes p.type)).map fun iv => (p.base + iv.1, p.base + iv.2)) (k == 3) }
  | 2 => tileEnv ((ivsDiv ivs 4096).map fun iv => (p.base + iv.1, p.base + iv.2))
  | 3 => slotEnv ((ivsDiv ivs (64 * rowWidth p.type)).map fun iv => (p.base + iv.1, p.base + iv.2))
  | _ => {}

/-- The rows of a VECTOR block (R241). -/
def vecRows (b : VecBody) : Nat := iterCount (b.bnd.drop 1)
/-- The block reads the row-length table. -/
def VecBody.readsRlt (b : VecBody) : Bool := b.ragged || b.msrc == 2

/-- The envelope of a VECTOR block. -/
def vecEnv (b : VecBody) : Env :=
  let rl : Env := { spans := if b.readsRlt then spSpans [((b.rlt : Int), b.rlt + 2 * vecRows b)] false else [] }
  ((portEnv b 0).join (portEnv b 1)).join (((portEnv b 2).join (portEnv b 3)).join rl)

/-- The envelope of a block; `tids` are the tensors a copy block may name (R267). -/
def blkEnv (x : Ctx) (cap : Cap) (b : Blk) (tids : List Nat) : Env :=
  match b.body with
  | .nop | .endB | .rendezvous | .resolve _ _ => {}
  | .load c => copyEnv x cap false c tids
  | .store c => copyEnv x cap true c tids
  | .matrix m => matEnv cap m
  | .vector v => vecEnv v
  | .patch p => { spans := spSpans [((p.src : Int), p.src + 4)] false }

/-- The scratchpad bytes of an envelope, for a tile that space 0xB may also name. -/
def Env.pad (e : Env) : List (Nat × Nat) :=
  e.spans.filterMap fun s => if s.space = 8 ∧ 0 ≤ s.lo then some (s.lo.toNat, s.hi.toNat) else none

/-- Two intervals of offsets meet. -/
def meets (a b : Nat × Nat) : Bool := decide (a.1 < b.2) && decide (b.1 < a.2)

/-- A queued block touches a bound region (R224). -/
def touches (sp : List (Nat × Nat)) (slots : BitVec 384) (tiles : BitVec 192) (r : Region) : Bool :=
  match r.kind with
  | 1 => sp.any (meets (r.base, r.base + r.len))
  | 2 => slots &&& (unitMask 384 [((r.base : Int), (r.base + r.len : Nat))]).1 != 0
  | _ => tiles &&& (unitMask 192 [((r.base : Int), (r.base + r.len : Nat))]).1 != 0

end Sys2Proof.Machine
end

