-- ==== Sys2Proof/Machine/Sems.lean ====
section
/-!
DEFINITION. Region semaphores: counting and phase mode (R217 to R221), external arrivals and held ones, the promise (R222), bindings
(R224, R226), idleness (R229), and SEMI, SEMB, SEMW, SEMP, SEMR and SEMK (R231 to R237).
-/
namespace Sys2Proof.Machine

/-- A semaphore of a context. -/
def Ctx.sem (x : Ctx) (n : SemNo) : Sem := x.sems.get n
/-- Change a semaphore. -/
def Ctx.modSem (x : Ctx) (n : SemNo) (f : Sem → Sem) : Ctx := { x with sems := x.sems.set n (f (x.sems.get n)) }

/-- The bound of a 32-bit field that holds rather than wraps. -/
def hold32 (n : Nat) : Nat := min n 4294967295

/-- The fold of R222 after a change to PB. -/
def Sem.fold (s : Sem) : Sem :=
  if s.phaseMode && s.expect != 0 then { s with n := hold32 (s.n + s.pb / s.expect), pb := s.pb % s.expect } else s

/-- A wait is satisfied (R168). -/
def Sem.meets (s : Sem) (thr : Nat) : Bool := decide (thr ≤ s.count + s.loss)

/-- Take K, from COUNT first and then from LOSS (R168). -/
def Sem.take (s : Sem) (k : Nat) : Sem :=
  { s with count := s.count - k, loss := s.loss - (k - s.count), taken := s.taken + k }

/-- One unit of b bytes (R218); a part fills the current phase at most. -/
def Sem.addUnit (fuel : Nat) (s : Sem) (b : Nat) (lost : Bool) : Sem :=
  match fuel with
  | 0 => s
  | k + 1 =>
    if b = 0 then s
    else
      let part := min b (s.expect - (s.cur + s.curl))
      let s := if lost then { s with curl := s.curl + part, lostb := hold32 (s.lostb + part) } else { s with cur := s.cur + part }
      let s := if s.cur + s.curl = s.expect then
          (let s := if s.curl = 0 then { s with count := s.count + 1 } else { s with loss := min (s.loss + 1) 4095 }
           { s with phase := !s.phase, cur := 0, curl := 0, done := s.done + 1 })
        else s
      Sem.addUnit k s (b - part) lost

/-- A unit applied; its parts number at most b. -/
def Sem.applyUnit (s : Sem) (b : Nat) (lost : Bool) : Sem := Sem.addUnit (b + 1) s b lost

/-- A unit, or a post, would raise COUNT above CEIL (R217, R219). -/
def Sem.exceeds (s : Sem) (amount : Nat) (lost : Bool) : Bool :=
  if s.phaseMode then decide (s.ceil < (s.applyUnit amount lost).count)
  else !lost && decide (s.ceil < s.count + amount)

/-- Apply an arrival: to COUNT, to the current phase, or to LOSS; an external one lowers EXT (R223). Its release goes to the phases it
is counted into. -/
def Sem.arrive (s : Sem) (u : HeldUnit) : Sem :=
  let s := if u.ack.isNone then { s with ext := s.ext - u.amount } else s
  let r := if s.phaseMode then s.applyUnit u.amount u.lost
    else if u.lost then { s with loss := min (s.loss + u.amount) 4095 }
    else { s with count := s.count + u.amount }
  let open' : Nat := if s.phaseMode && r.cur + r.curl == 0 then 0 else 1
  match u.stamp with
  | some p => { r with stamps := r.stamps ++ (List.range' s.done (r.done - s.done + open')).map fun k => (k, p) }
  | none => r

/-- An arrival, and whether it is recorded as SEM_CEILING: it is held behind held ones, and at the ceiling (R217, R219). -/
def Sem.receive (s : Sem) (u : HeldUnit) : Sem × Bool :=
  let full := s.exceeds u.amount u.lost
  if full || !s.held.isEmpty then ({ s with held := s.held ++ [u] }, full) else (s.arrive u, false)

/-- The releases that a grant of threshold T acquires: in phase mode those of the T oldest phases not yet taken (R221, R358). -/
def Sem.acquired (s : Sem) (thr : Nat) : List Stamp :=
  s.stamps.filterMap fun p =>
    if !s.phaseMode || (decide (s.taken ≤ p.1) && decide (p.1 < s.taken + thr)) then some p.2 else none

/-- The waiter that stands first in a semaphore's order (R169). -/
def Sem.first? (s : Sem) : Option Waiter := s.order.head?

/-! ## Idleness (R229) -/

/-- The semaphores a block names in tokens or in CSEM. -/
def Blk.names (b : Blk) (n : SemNo) : Bool :=
  let w (t : Option WaitTok) : Bool := match t with
    | some t => t.sem == n
    | none => false
  let p (t : Option PostTok) : Bool := match t with
    | some t => !t.fut && t.sem == n
    | none => false
  w b.hdr.w0 || w b.hdr.w1 || p b.hdr.p0 || p b.hdr.p1 ||
  (match b.body with
   | .load c | .store c => c.cnten && c.csem == n
   | .nop | .endB | .matrix _ | .vector _ | .patch _ | .rendezvous | .resolve _ _ => false)

/-- A queued block touches a region. -/
def Entry.touches (e : Entry) (r : Region) : Bool := Machine.touches e.sp e.slots e.tiles r

/-- The semaphore is idle. -/
def Ctx.semIdle (x : Ctx) (n : SemNo) : Bool :=
  let s := x.sem n
  !((allBlocks x).any fun e => e.linked.names n || (match s.bind with
    | some r => e.touches r
    | none => false)) &&
  !s.order.contains .dealer

/-! ## SEMI, SEMB, SEMK -/

/-- The init word and the expected bytes are well formed (R232 check 1). -/
def initOk (v w : Nat) : Bool :=
  v / 33554432 == 0 && bits v 12 12 != 0 && w / 4294967296 == 0 && (bits v 24 1 == 1) == (w != 0)

/-- A semaphore as SEMI leaves it (R232); the binding is kept. Its first COUNT takes take phases that no arrival completed (R221). -/
def semInit (s : Sem) (v w : Nat) : Sem :=
  { phaseMode := bits v 24 1 == 1, count := bits v 0 12, ceil := bits v 12 12, expect := w, n := bits v 0 12, bind := s.bind,
    done := bits v 0 12 }

/-- The region word names a region that R224 allows. -/
def regionOk (v : Nat) : Bool :=
  let k := bits v 0 3
  let base := bits v 16 24
  let len := bits v 40 24
  decide (k ≤ 4) && bits v 3 13 == 0 &&
  (match k with
   | 1 => base % 64 == 0 && len % 64 == 0 && len != 0
   | 2 | 3 => decide (base < 384) && decide (1 ≤ len) && decide (len ≤ 384)
   | _ => base == 0 && len == 0)

/-- The region of a region word, for kinds 1 to 3. -/
def regionOf (v : Nat) : Option Region :=
  let k := bits v 0 3
  if 1 ≤ k ∧ k ≤ 3 then some ⟨k, bits v 16 24, bits v 40 24⟩ else none

/-- The region word of a binding (R236). -/
def regionWord (b : Option Region) : Nat :=
  match b with
  | some r => r.kind + 65536 * r.base + 1099511627776 * r.len
  | none => 0

/-- A region lies in the context's stores (R233 check 2). -/
def regionIn (partw : BitVec 32) (r : Region) : Bool :=
  match r.kind with
  | 1 => decide (r.base + r.len ≤ padBytes partw)
  | 2 => decide (r.base + r.len ≤ 96 * (partw.toNat % 16))
  | _ => decide (r.base + r.len ≤ 48 * (partw.toNat / 16 % 16))

/-- A region overlaps a region bound to another semaphore (R226). -/
def Ctx.overlaps (x : Ctx) (n : SemNo) (r : Region) : Bool :=
  (List.finRange 64).any fun m => m != n && (match (x.sem m).bind with
    | some q => q.kind == r.kind && meets (q.base, q.base + q.len) (r.base, r.base + r.len)
    | none => false)

/-- The declaration of external posts or bytes (R222). -/
def Sem.declare (s : Sem) (v : Nat) : Sem :=
  let s := { s with ext := hold32 (s.ext + v) }
  if s.phaseMode then { s with pb := hold32 (s.pb + v) }.fold else { s with n := hold32 (s.n + v) }

/-- What SEMI, SEMB and SEMK, numbered 0 to 2, do once their semaphore is idle (R232, R233, R237). -/
def semAct (op : Fin 3) (v w : Word) (s : Sem) : Sem :=
  match op with
  | 0 => semInit s v.toNat w.toNat
  | 1 =>
    match bits v.toNat 0 3 with
    | 0 => s.declare w.toNat
    | 4 => { s with bind := none }.declare w.toNat
    | _ => { s with bind := regionOf v.toNat }.declare w.toNat
  | 2 => {}

/-- The checks of SEMI (R232). -/
def semiChecks (v w : Word) : M Unit := do
  check (initOk v.toNat w.toNat) .reservedField v
  check (decide (bits v.toNat 0 12 ≤ bits v.toNat 12 12)) .semCeiling v

/-- The checks of SEMB (R233). -/
def sembChecks (x : Ctx) (n : SemNo) (v w : Word) : M Unit := do
  check (regionOk v.toNat && decide (w.toNat < 4294967296)) .reservedField v
  match regionOf v.toNat with
  | none => pure ()
  | some r => do
    check (regionIn x.partw r) .outOfPool v
    check (!x.overlaps n r) .unsyncRegion v

/-- Act at once on an idle semaphore, or wait for it (R229). -/
def semIdleOr (op : Fin 3) (n : SemNo) (v w : Word) : M Eff := do
  let x ← myCtx
  if x.semIdle n then do
    modMe (·.modSem n (semAct op v w))
    return {}
  else waitFor (.semIdle op n v w)

/-- SEMI (R232). -/
def execSemi (h : Hd) (n : Fin 64) (a c : Src) (s : State) : Host.Outcome State Fault Refusal :=
  dealer h (do
    let v ← readA a
    let w ← readC c v
    semiChecks v w
    semIdleOr 0 n v w) s (ends := true)

/-- SEMB (R233): with KIND 0 it acts at once. -/
def execSemb (h : Hd) (n : Fin 64) (a c : Src) (s : State) : Host.Outcome State Fault Refusal :=
  dealer h (do
    let v ← readA a
    let w ← readC c v
    sembChecks (← myCtx) n v w
    if bits v.toNat 0 3 = 0 then do
      modMe (·.modSem n (semAct 1 v w))
      return {}
    else semIdleOr 1 n v w) s (ends := true)

/-- SEMK (R237). -/
def execSemk (h : Hd) (n : Fin 64) (s : State) : Host.Outcome State Fault Refusal :=
  dealer h (semIdleOr 2 n 0 0) s (ends := true)

/-- SEM_IDLE_ACTION: a waiting SEMI, SEMB or SEMK acts in one step (R229). -/
def execSemIdleAction (t : TileNo) (c : SlotNo) (s : State) : Host.Outcome State Fault Refusal :=
  agent (do
    let x ← getCtx t c
    let w ← present x.wait
    match w.kind with
    | .semIdle op n a v => do
      enabled (x.semIdle n)
      modCtx t c (·.modSem n (semAct op a v))
      finishWait t c w {}
    | _ => exit .idle) s

/-! ## SEMW, SEMP, SEMR -/

/-- SEMW (R234): the checks, the promise, and a place in the wait order; the grant is a step of its own. -/
def execSemw (h : Hd) (n : Fin 64) (a c : Src) (s : State) : Host.Outcome State Fault Refusal :=
  dealer h (do
    let v ← readA a
    let w ← readC c v
    let m := (← myCtx).sem n
    check (decide (v.toNat ≤ m.ceil) && decide (w.toNat ≤ v.toNat)) .semUnsatisfiable v
    check (decide (v.toNat ≤ m.n)) .forwardWait v
    modMe (·.modSem n fun m => { m with n := m.n - w.toNat, order := m.order ++ [.dealer] })
    waitFor (.semw n v.toNat w.toNat)) s (ends := true)

/-- SEMW_GRANT: the dealer's wait is first and satisfied; it takes K and acquires (R234, R227). -/
def execSemwGrant (t : TileNo) (c : SlotNo) (s : State) : Host.Outcome State Fault Refusal :=
  agent (do
    let x ← getCtx t c
    let w ← present x.wait
    match w.kind with
    | .semw n thr k => do
      let m := x.sem n
      enabled (m.first? == some .dealer && m.meets thr)
      dealerAcquire t (m.acquired thr)
      modCtx t c (·.modSem n fun m => { m.take k with order := m.order.drop 1 })
      finishWait t c w {}
    | _ => exit .idle) s

/-- SEMP (R235). Its release orders this dealer's own accesses, which are performed at once here; the grants that acquire it belong
to the same context (log 30). -/
def execSemp (h : Hd) (n : Fin 64) (a : Src) (s : State) : Host.Outcome State Fault Refusal :=
  dealer h (do
    let v ← readA a
    let m := (← myCtx).sem n
    check (!m.phaseMode) .semUnbound v
    check (decide (m.count + v.toNat ≤ m.ceil)) .semCeiling v
    modMe (·.modSem n fun m => { m with count := m.count + v.toNat, n := hold32 (m.n + v.toNat) })
    return {}) s (ends := true)

/-- The status word of SEMR (R236). -/
def Sem.status (s : Sem) : Nat :=
  s.count + 4096 * s.ceil + 16777216 * s.phaseMode.toNat + 33554432 * s.phase.toNat + 67108864 * s.bind.isSome.toNat +
  134217728 * (!s.order.isEmpty).toNat + 268435456 * (!s.held.isEmpty).toNat + 4294967296 * s.loss

/-- What SEMR reads by its selector (R236). -/
def Sem.select (s : Sem) (k : Nat) : Nat :=
  match k with
  | 0 => s.status
  | 1 => s.n
  | 2 => regionWord s.bind
  | 3 => s.cur + 4294967296 * s.curl
  | 4 => s.ext
  | 5 => s.lostb
  | _ => s.expect

/-- SEMR (R236). -/
def execSemr (h : Hd) (d : Dst) (n : Fin 64) (c : Src) (s : State) : Host.Outcome State Fault Refusal :=
  dealer h (do
    let k ← readC c (BitVec.ofNat 64 n)
    check (decide (k.toNat < 7)) .reservedField (BitVec.ofNat 64 n)
    op0 d (BitVec.ofNat 64 (((← myCtx).sem n).select k.toNat))) s (ends := true)

end Sys2Proof.Machine
end

