-- ==== Sys2Proof/Machine/Chains.lean ====
section
/-!
DEFINITION. The chains of a context: queued blocks and how far they are (R156 to R165), the grant of waits (R168, R169, R185), engine
faults (R180), posts and retirement (R166, R170), abandonment (R181), the engines' accesses to memory, and KICK, FORK, RDV, DRAIN,
CHSEQ and CHSTAT.
-/
namespace Sys2Proof.Machine

/-! ## Entries -/

/-- A chain of a context. -/
def Ctx.chain (x : Ctx) (ch : ChainNo) : Chain := x.chains.get ch
/-- Change a chain. -/
def Ctx.modChain (x : Ctx) (ch : ChainNo) (f : Chain → Chain) : Ctx := { x with chains := x.chains.set ch (f (x.chains.get ch)) }
/-- Change the entry with a sequence number. -/
def Ctx.modEntry (x : Ctx) (ch : ChainNo) (seq : Nat) (f : Entry → Entry) : Ctx :=
  x.modChain ch fun k => { k with queue := k.queue.map fun e => if e.seq == seq then f e else e }
/-- Change how far a block has run. -/
def Ctx.modRun (x : Ctx) (ch : ChainNo) (seq : Nat) (f : Progress → Progress) : Ctx :=
  x.modEntry ch seq fun e => { e with run := f e.run }
/-- The entry with a sequence number. -/
def Ctx.entry? (x : Ctx) (ch : ChainNo) (seq : Nat) : Option Entry := (x.chain ch).queue.find? (·.seq == seq)

/-- The block runs on an engine, iteration by iteration. -/
def Body.engine (b : Body) : Bool :=
  match b with
  | .load _ | .store _ | .matrix _ | .vector _ => true
  | .nop | .endB | .patch _ | .rendezvous | .resolve _ _ => false

/-- The iterations of a block: none when its captured predicate is false (R164, R167). -/
def Entry.total (e : Entry) : Nat := if e.cap.pred && e.cur.body.engine then iterCount e.cur.body.bounds else 0

/-- The fraction that a controller's capture selects is below 1, or it takes samples: only then does coverage do anything (R299). -/
def CovCap.acts (c : CovCap) : Bool := c.adapt || c.frac.getD 0 != 0

/-- The block writes after its walk: results of reductions, a last queue entry, reconstruction (R240, R257, R258, R305). -/
def Entry.writesLast (e : Entry) : Bool :=
  e.cap.pred &&
  (match e.cur.body with
   | .vector v => v.readsRlt && !e.run.ended && v.bnd.headD 0 == 0 || v.w.kind == 4 && (!e.run.ended || !e.run.qw.isEmpty) || !e.run.ended && ((match vgroup v.op with
      | some .block | some .segment => true
      | _ => false) || (match e.run.cov with
      | some c => c.acts
      | none => false))
   | .matrix _ => !e.run.ended && (match e.run.cov with
      | some c => c.acts
      | none => false)
   | .nop | .endB | .load _ | .store _ | .patch _ | .rendezvous | .resolve _ _ => false)

/-- The block has issued its last iteration and nothing of its walk is left (R163). A block without iterations has once it has started, but
an END, a MARK or a PATCH that is not nullified holds its chain until it has acted (R182, R183, R264). -/
def Entry.issued (e : Entry) : Bool :=
  e.run.started &&
    (if e.cur.body.engine then decide (e.total ≤ e.run.iter) && !e.writesLast else !e.cap.pred || e.cur.body == .nop)

/-- The block at the head of a chain whose waits are pending: the first not started, with every earlier one issued (R163). -/
def headOf (q : List Entry) : Option Entry :=
  match q with
  | [] => none
  | e :: r => if e.run.started then (if e.issued then headOf r else none) else some e

/-- The block that a chain's engine is running. -/
def runningOf (q : List Entry) : Option Entry := q.find? fun e => e.run.started && !e.issued

/-- The wait tokens of a block. -/
def Blk.waits (b : Blk) : List WaitTok := b.hdr.w0.toList ++ b.hdr.w1.toList
/-- The post tokens of a block. -/
def Blk.posts (b : Blk) : List PostTok := b.hdr.p0.toList ++ b.hdr.p1.toList

/-- Every wait of a block is first in its order and satisfied (R169). -/
def grantable (x : Ctx) (ch : ChainNo) (e : Entry) : Bool :=
  e.linked.waits.all fun w => (x.sem w.sem).first? == some (.block ch e.seq) && (x.sem w.sem).meets w.thr

/-- Take a block's waits (R168, R169). -/
def takeWaits (e : Entry) (x : Ctx) : Ctx :=
  e.linked.waits.foldl (fun x w => x.modSem w.sem fun m => { m.take w.take with order := m.order.drop 1 }) x

/-- The releases that a block's grant acquires (R358). -/
def waitStamps (x : Ctx) (e : Entry) : List Stamp := e.linked.waits.flatMap fun w => (x.sem w.sem).acquired w.thr

/-- The controller capture that a block uses: the one its CSEL names (R267). -/
def Entry.covSel (e : Entry) : Option CovCap :=
  if e.cur.hdr.csel = 0 then none else e.cap.covs.find? (·.cov.val + 1 == e.cur.hdr.csel)

/-- The fraction of a capture: the one captured, or the index set by the update that its ticket waits for, once it is made (R304). -/
def CovCap.fraction (k : Cov) (c : CovCap) : Option Nat :=
  match c.frac with
  | some f => some f
  | none =>
    let u := c.ticket / k.period - 2
    if k.upd = u + 1 then some k.hist.1 else if k.upd = u + 2 then some k.hist.2 else none

/-- The block waits for an update before it starts (R304): it was linked with the pending mark, runs, and has iterations. -/
def Entry.pending (e : Entry) : Bool :=
  decide (0 < e.total) && (match e.covSel with
    | some c => c.frac.isNone
    | none => false)

/-! ## Engines -/

/-- Leave an engine step with a fault of the running block (R180). -/
def efault {α : Type} (c : Cause) (addr : Word := 0) (pt : FaultPoint := .iteration) (recs : List ErrRec := []) : M α :=
  fun s => .error (.efault c pt addr ⟨0, recs, s.free, s.reqs⟩)

/-- Raise a cause of the running block unless a condition holds. -/
def echeck (ok : Bool) (c : Cause) (addr : Word := 0) : M Unit := if ok then pure () else efault c addr

/-- The loop indices of a block's next iteration. -/
def Entry.index (e : Entry) : List Nat := indexAt e.cur.body.bounds e.run.iter

/-- The chain becomes FAULTED at a block (R180); a PATCH_RANGE goes to the leaf controller (R270). -/
def Ctx.faultChain (ch : ChainNo) (seq : Nat) (cause : Cause) (pt : FaultPoint) (idx : List Nat) (addr : Word) (x : Ctx) : Ctx :=
  (x.modRun ch seq fun p => { p with answers := [], stalled := false, spoils := p.spoils || p.banked && pt != .start }).modChain ch fun k => { k with
    state := .faulted
    fault := some { cause, seq, point := pt, idx, addr, reported := false, toLeaf := cause == .patchRange } }

/-- The chain of a resident context becomes FAULTED. -/
def setFault (t : TileNo) (c : SlotNo) (ch : ChainNo) (seq : Nat) (cause : Cause) (pt : FaultPoint) (idx : List Nat) (addr : Word)
    (s : State) : State := s.modCtx t c (Ctx.faultChain ch seq cause pt idx addr)

/-- The indices of a fault at a point of a block. -/
def Entry.faultIdx (e : Entry) (pt : FaultPoint) : List Nat :=
  if e.cur.body.engine && pt == .iteration then indexAt e.cur.body.bounds (min e.run.iter (e.total - 1)) else []

/-- The operation of a message that a STORE has filled: a combining store's codes, or bytes (R194, R404). -/
def OutMsg.op (cap : Cap) (m : OutMsg) : MsgOp :=
  match m.comb with
  | some f => .combine f.1 cap.fp f.2 m.codes
  | none => .write (m.codes.map (BitVec.ofNat 8))

/-- Send a message of a block through its window, under the number of its first iteration (R404). -/
def sendBlock (t : TileNo) (x : Ctx) (ch : ChainNo) (e : Entry) (it : Nat) (a : Word) (n : Nat) (op : MsgOp) (count : Nat) (s : State) : State :=
  let w := winNo (offOf a / 1099511627776)
  let q := s.capWin e.cap w
  (sendRel t x (some (ch, e.seq, it)) w q (offOf a % 1099511627776) n op a (s.bellScope q) count s).1

/-- Send what a block has filled of a message (R404). -/
def flushOut (t : TileNo) (c : SlotNo) (ch : ChainNo) (e : Entry) (s : State) : State :=
  match s.ctx? t c with
  | none => s
  | some x =>
    match ((x.entry? ch e.seq).map (·.run.out)).join with
    | none => s
    | some m => (sendBlock t x ch e m.it m.addr m.size (m.op e.cap) m.count s).modCtx t c (·.modRun ch e.seq fun p => { p with out := none })

/-- The bytes of memory of this device that the message being filled leads to. -/
def outPlaces (s : State) (t : TileNo) (x : Ctx) (e : Entry) : List Nat :=
  match e.run.out with
  | none => []
  | some m =>
    let w := winNo (offOf m.addr / 1099511627776)
    let q := s.capWin e.cap w
    Msg.places s { id := 0, tile := t, job := x.job, num := x.num, chain := none, win := w, dev := q.dev, inb := q.inb,
                   off := offOf m.addr % 1099511627776, op := m.op e.cap, addr := m.addr, stamp := none }

/-- The message that is being filled takes the next element: it is of the same kind, follows at once, lies in the same aligned span of 512
bytes, and leaves the message at 512 bytes (R404). -/
def OutMsg.takes (m : OutMsg) (a : Word) (n : Nat) (comb : Option (Nat × Nat)) : Bool :=
  m.comb == comb && m.addr + BitVec.ofNat 64 m.size == a && m.addr.toNat / 512 == (a.toNat + n - 1) / 512 &&
    decide ((m.codes.length + 1) * (match comb with
      | some f => fmtBytes f.2
      | none => 1) ≤ 512)

/-- Put an element of n bytes of a STORE through a window, from iteration `it`: into the message that is being filled, or into a new one
(R404). `count` bytes of it count at acknowledgement (R196). -/
def outPut (t : TileNo) (c : SlotNo) (ch : ChainNo) (e : Entry) (it : Nat) (a : Word) (n : Nat) (comb : Option (Nat × Nat)) (codes : List Nat)
    (count : Nat) (s : State) : State :=
  let new : OutMsg := { it, addr := a, comb, codes, size := n, count }
  let set (s : State) (m : OutMsg) : State := s.modCtx t c (·.modRun ch e.seq fun p => { p with out := some m })
  match (((s.ctx? t c).bind fun x => x.entry? ch e.seq).map (·.run.out)).join with
  | none => set s new
  | some m =>
    if m.takes a n comb then set s { m with codes := m.codes ++ codes, size := m.size + n, count := m.count + count }
    else set (flushOut t c ch e s) new

/-- A step of a block on behalf of its context's tenant: it completes, stalls with nothing done, waits for a window, or faults; the
elements of earlier iterations are then on their way, and their message is paid with the step (R180, R404, R418). -/
def blockStep (t : TileNo) (c : SlotNo) (ch : ChainNo) (e : Entry) (job : Nat) (m : M Unit) : M Unit := fun s =>
  let who := some (ch, e.seq)
  let paid (s' : State) (f : State → State) : Except Exit (Unit × State) := paying t c who job (fun _ => .ok ((), s')) s >>= fun r => .ok ((), f r.2)
  match paying t c who job m s with
  | .error (.efault cause pt addr d) =>
    paid (flushOut t c ch e (setFault t c ch e.seq cause pt (e.faultIdx pt) addr (applySide t c d s))) id
  | .error (.send f) => paid (f s).1 fun s' => s'.modCtx t c (·.modRun ch e.seq fun p => { p with await := some (f s).2 })
  | r => r

/-- Change the run of a block. -/
def modRun (t : TileNo) (c : SlotNo) (ch : ChainNo) (seq : Nat) (f : Progress → Progress) : M Unit := modCtx t c (·.modRun ch seq f)

/-- The engines of the context are to stop: it is marked, or its CTXSAVE waits for them (R368, R384). -/
def Ctx.stops (x : Ctx) : Bool := x.halted || x.stopping

/-- A block that has to stop goes on to the end of its iteration, and of its counting unit (R196, R368). -/
def Entry.mid (e : Entry) : Bool := !e.run.answers.isEmpty || e.run.unit != 0 && e.cap.pred

/-- The engine may leave the block: it stalls, or it has no iteration or counting unit under way (R185, R368). -/
def Entry.atBoundary (e : Entry) : Bool := e.run.stalled || (!e.mid && e.run.await.isNone) || !e.cur.body.engine

/-- The block has begun its first iteration. -/
def Entry.begun (e : Entry) : Bool := decide (0 < e.run.iter) || e.run.await.isSome || !e.run.answers.isEmpty

/-- The engine takes the next iteration of a block of slot c (R185): the other context has no block on it, or one that has not begun and did
not wait longer for it. A block that has begun is not interrupted off an iteration boundary; of two that have, after one was stopped, the last one
goes on. -/
def engineTurn (y : Tile) (c : SlotNo) (ch : ChainNo) (e : Entry) : Bool :=
  (y.slots.get (1 - c)).all fun z =>
    (z.chain ch).state != .running || (match runningOf (z.chain ch).queue with
      | none => true
      | some g => g.total == 0 || (z.stops && g.atBoundary) ||
          (if g.begun then e.begun && y.last.get ch == some c else e.begun || y.last.get ch != some c))

/-- The block of a chain that its engine runs: the chain is RUNNING, the engine is its (R185), and its context is not stopped (R368, R426). -/
def running (t : TileNo) (c : SlotNo) (ch : ChainNo) : M (Ctx × Entry) := do
  let x ← getCtx t c
  enabled ((x.chain ch).state == .running)
  let e ← present (runningOf (x.chain ch).queue)
  enabled (!e.run.stalled && e.run.await.isNone && (!x.stops || e.mid))
  let y ← see (·.tile t)
  enabled (engineTurn y c ch e)
  if y.last.get ch == some c then pure () else modTile t fun y => { y with last := y.last.set ch (some c) }
  return (x, e)

/-! ### Memory as engines see it -/

/-- Where an engine's address leads (R175, R195). -/
inductive EPlace
  | at (key : Nat) (checked : Bool)
  | window (w off : Nat)
  deriving DecidableEq, Repr

/-- The pinned translation of a device-virtual address. -/
def pinnedPa (cap : Cap) (va : Nat) : Option (Nat × Bool) :=
  (cap.leaves.find? fun l => decide (l.base ≤ va) && decide (va < l.base + leafBytes l.size)).map fun l => (l.pa + (va - l.base), l.chk)

/-- The futures that a block's posts resolve, in order. -/
def futPosts (e : Entry) : List Word :=
  let one (p : Option PostTok) (f : Word) : List Word := match p with
    | some p => if p.fut then [f] else []
    | none => []
  one e.linked.hdr.p0 e.cap.fut0 ++ one e.linked.hdr.p1 e.cap.fut1

/-- The posts of some blocks of a job will touch [k, k + n) when they resolve their futures: the futures themselves, or doubleword 2 of a record that
waits on one of them (R323, R326). -/
def postsTouch (s : State) (job : Nat) (es : List Entry) (k n : Nat) : Bool :=
  let hits (p m : Nat) : Bool := decide (p < k + n) && decide (k < p + m)
  es.any fun e => (futPosts e).any fun f => (pinnedPa e.cap (offOf f)).any fun p =>
    hits p.1 64 || (List.range (bits (readNat s p.1 8) 2 3)).any fun j =>
      (hwXlate s job (readNat s (p.1 + 16 + 8 * j) 8) true).any fun w => hits (w + 16) 8

/-- An access of a chain's running block to [k, k + n) is not due yet: an earlier block of the chain has still to act there, by a message that it has
sent or by its posts (R165, R198, log 159). -/
def chainBehind (s : State) (x : Ctx) (ch : ChainNo) (k n : Nat) : Bool :=
  msgsBehind s x ch k n || postsTouch s x.job ((x.chain ch).queue.takeWhile (·.issued)) k n

/-- The place of an address of a block. LINK has checked that it has one. -/
def enginePlace (s : State) (t : TileNo) (cap : Cap) (a : Word) : EPlace :=
  let o := offOf a
  match spaceOf a with
  | 0x0 => match pinnedPa cap o with
    | some (pa, chk) => .at pa (checkedAt s pa chk)
    | none => .at o false
  | 0x9 => .at (clPoolAt (t / 8) o) (checkedAt s (clPoolAt (t / 8) o) false)
  | 0xA => .at (diePoolAt (t / 48) o) (checkedAt s (diePoolAt (t / 48) o) false)
  | 0xB => .at (spAt (o / 4294967296) (o % 4294967296)) false
  | 0xC => .window (o / 1099511627776) (o % 1099511627776)
  | _ => .at (spAt t o) false

/-- Charge an engine access (R418). -/
def meterKey (t : TileNo) (a : Word) (k n : Nat) : M Unit :=
  if isPhys k then meterPa t k n
  else if spaceOf a = 0xB ∧ dieOf (offOf a / 4294967296) ≠ (dieNo t).val then meterNet n
  else pure ()

/-- Count bytes that counted-drop gives up, and record them under the cause that strict would raise (R197, R381, log 135). -/
def countDrop (t : TileNo) (c : SlotNo) (x : Ctx) (cause : Cause) (a : Word) (bad : Nat) : M Unit := do
  modCtx t c fun y => { y with dropcnt := BitVec.ofNat 32 (min (y.dropcnt.toNat + bad) 0xFFFFFFFF) }
  recordCause t x cause a (BitVec.ofNat 64 bad)

/-- Count bytes that an engine could not read. -/
def countBad (t : TileNo) (c : SlotNo) (x : Ctx) (a : Word) (bad : Nat) : M Unit := countDrop t c x .eccStrict a bad

/-- n bytes of an engine read under the block's error mode: zeros with DROPCNT and a record, or ECC_STRICT (R197, R381). Bytes that the
iteration before has read for its own element are counted with that one (`again`). -/
def engineBytes (t : TileNo) (c : SlotNo) (x : Ctx) (cap : Cap) (k n : Nat) (a : Word) (again : Bool := false) : M (List Byte) := do
  let bad ← see fun s => badBytes s k n
  if bad = 0 then see fun s => cellsRead s.mem k n
  else if cap.strict then efault .eccStrict a
  else do
    if again then pure () else countBad t c x a bad
    see fun s => readBytes s k n

/-- The race check of an engine access: an engine fault with its record (R356). -/
def engineRace (t : TileNo) (x : Ctx) (k : Nat) (checked write atomic : Bool) (a : Word) (pt : FaultPoint := .iteration) : M Unit :=
  if checked then do
    match ← raceCheck t x k write atomic with
    | none => pure ()
    | some r => efault .race a pt [r]
  else pure ()

/-- What an engine read delivers; `lost` on a link under counted-drop (R197). -/
inductive Got
  | data (bytes : List Byte)
  | lost
  deriving DecidableEq, Repr

/-- The number that a read delivers; lost bytes as zeros. -/
def Got.nat (g : Got) : Nat :=
  match g with
  | .data bs => leNat bs
  | .lost => 0

/-- Read number j of an iteration: n bytes at an address (R175, R195). -/
def engineRead (t : TileNo) (c : SlotNo) (x : Ctx) (ch : ChainNo) (e : Entry) (a : Word) (n j : Nat) (again : Bool := false) :
    M Got := do
  match ← see fun s => enginePlace s t e.cap a with
  | .at k chk => do
    enabled (!(← see fun s => chainBehind s x ch k n))
    engineRace t x k chk false false a
    meterKey t a k n
    return .data (← engineBytes t c x e.cap k n a again)
  | .window w o =>
    match e.run.answers[j]? with
    | some (.data bs _ bad) =>
      if bad = 0 then return .data bs
      else if e.cap.strict then efault .eccStrict a
      else do
        if again then pure () else countBad t c x a bad
        return .data bs
    | some .refused => efault .windowFault a
    | some .lost => if e.cap.strict then efault .windowFault a else return .lost
    | none => exit (.send fun s => sendMsg t x (some (ch, e.seq, e.run.iter)) (winNo w) (s.capWin e.cap (winNo w)) o n (.read n) a none 0 s)

/-- Write bytes at an address; through a window they go into a message, and `count` of them count at acknowledgement (R195, R196, R404). -/
def engineWrite (t : TileNo) (c : SlotNo) (x : Ctx) (ch : ChainNo) (e : Entry) (a : Word) (bs : List Byte) (count : Nat) : M Unit := do
  match ← see fun s => enginePlace s t e.cap a with
  | .at k chk => do
    enabled (!(← see fun s => chainBehind s x ch k bs.length))
    engineRace t x k chk true false a
    meterKey t a k bs.length
    upd fun s => writeBytes s k bs
  | .window _ _ => upd (outPut t c ch e e.run.iter a bs.length none (bs.map BitVec.toNat) count)

/-- The address leads through a window. -/
def isWindow (a : Word) : Bool := spaceOf a == 0xC

/-- Count conversion events in NANCNT and SATCNT (R74). -/
def countEvents (t : TileNo) (c : SlotNo) (k : Counts) : M Unit :=
  modCtx t c fun y => { y with
    nancnt := BitVec.ofNat 32 (min (y.nancnt.toNat + k.nan) 0xFFFFFFFF)
    satcnt := BitVec.ofNat 32 (min (y.satcnt.toNat + k.sat) 0xFFFFFFFF) }

/-! ## Retirement -/

/-- A post would pass its ceiling; two posts to one semaphore count together (R170). -/
def postsOver (x : Ctx) (ps : List PostTok) : Bool :=
  ps.any fun p => !p.fut &&
    decide ((x.sem p.sem).ceil < (x.sem p.sem).count + (ps.filter fun q => !q.fut && q.sem == p.sem).foldl (fun a q => a + q.amt) 0)

/-- Resolve a future at a captured address, as an engine fault where R323 refuses; the doublewords that it reads and writes are its requests (R311,
R418). -/
def engineResolve (t : TileNo) (x : Ctx) (cap : Cap) (f v : Word) (pt : FaultPoint) : M Unit := do
  match pinnedPa cap (offOf f) with
  | none => efault .futureState f pt
  | some (pa, chk) => do
    engineRace t x pa (← see fun s => checkedAt s pa chk) true true f pt
    meterDws t pa 8
    match ← see fun s => resolveFault s pa with
    | some cause => efault cause f pt
    | none => do
      meterDws t (pa + 16) (8 * bits (← read8 pa) 2 3)
      metering t (resolveFuture t x.job x.num.toNat (fun r => efault .race f pt [r]) f pa v)

/-- Apply the posts of a block together, or none of them (R170). -/
def applyPosts (t : TileNo) (c : SlotNo) (x : Ctx) (e : Entry) : M Unit := do
  if postsOver x e.linked.posts then efault .semCeiling 0 .posts else pure ()
  let one (p : Option PostTok) (f : Word) : M Unit := match p with
    | none => pure ()
    | some p =>
      if p.fut then engineResolve t x e.cap f 0 .posts
      else modCtx t c (·.modSem p.sem fun m => { m with count := m.count + p.amt })
  one e.linked.hdr.p0 e.cap.fut0
  one e.linked.hdr.p1 e.cap.fut1

/-- A contribution waits for its turn (R306). -/
def Ctx.contribute (x : Ctx) (k : Fin 4) (ticket bsum bn : Nat) : Ctx :=
  { x with covs := x.covs.set k { x.covs.get k with early := (ticket, bsum, bn) :: (x.covs.get k).early } }

/-- The contributions of a block's tickets: its own sum on the controller it uses, nothing on the others (R303, R305). -/
def contributeAll (e : Entry) (bsum bn : Nat) (x : Ctx) : Ctx :=
  e.cap.covs.foldl (fun x k =>
    if e.run.cov.map (·.cov) == some k.cov then x.contribute k.cov k.ticket bsum bn else x.contribute k.cov k.ticket 0 0) x

/-- Retire a block: posts, then its entry and its pins (R166). -/
def retireBlock (t : TileNo) (c : SlotNo) (ch : ChainNo) (e : Entry) (bsum bn : Nat) : M Unit := do
  let x ← getCtx t c
  applyPosts t c x e
  modCtx t c fun y => contributeAll e bsum bn (y.modChain ch fun k => { k with
    queue := k.queue.filter (·.seq != e.seq)
    after := e.cap.after ++ k.after.filter fun g => (y.entry? g.1 g.2).isSome })
  upd (unpin x.job e.pins)

/-- A message of a block is still on its way (R166, R408). -/
def State.outstanding (s : State) (x : Ctx) (ch : ChainNo) (seq : Nat) : Bool :=
  s.msgs.any fun m => m.job == x.job && m.num == x.num && (match m.chain with
    | some k => k.1 == ch && k.2.1 == seq
    | none => false)
/-- A message of any block of a context is still on its way. -/
def State.anyOutstanding (s : State) (x : Ctx) : Bool := s.msgs.any fun m => m.job == x.job && m.num == x.num && m.chain.isSome

/-! ## Abandonment -/

/-- N and PB after abandonment (R222). Acknowledged units of an abandoned block that are held at the ceiling stay held, and are applied later
(log 136). -/
def Sem.abandon (s : Sem) : Sem :=
  if s.phaseMode then
    let b := s.cur + s.curl + s.ext
    if s.expect = 0 then { s with n := s.count, pb := 0, order := [] }
    else { s with n := hold32 (s.count + b / s.expect), pb := b % s.expect, order := [] }
  else { s with n := hold32 (s.count + s.ext), order := [] }

/-- The bank of a shaping block that faulted after it passed its check and is abandoned (R286, log 137). -/
def spoilBank (e : Entry) (x : Ctx) : Ctx :=
  if e.run.spoils then
    let k := e.cap.axis.bank
    if (x.banks.get k).valid then { x with banks := x.banks.set k { x.banks.get k with next := 0xFFFFFFFF } } else x
  else x

/-- ABANDON (R181) on a context's own state: blocks go without posting, orders empty, promises and chains are reset. -/
def Ctx.abandon (x : Ctx) : Ctx :=
  let x := (allBlocks x).foldl (fun y e => contributeAll { e with run := { e.run with cov := none } } 0 0 (spoilBank e y)) x
  { x with
    chains := x.chains.map fun k => { k with state := .stopped, fault := none, queue := [] }
    sems := x.sems.map Sem.abandon }

/-- ABANDON with the pins of the abandoned blocks. -/
def abandonAt (t : TileNo) (c : SlotNo) : M Unit := do
  let x ← getCtx t c
  upd fun s => ([0, 1, 2, 3] : List ChainNo).foldl (fun s ch => (x.chain ch).queue.foldl (fun s e => flushOut t c ch e s) s) s
  upd fun s => (allBlocks x).foldl (fun s e => unpin x.job e.pins s) s
  upd (State.dropParked x)
  modCtx t c Ctx.abandon

/-! ## KICK, FORK, DRAIN, RDV -/

/-- The step of R179: a stopped chain starts, a reported fault is retried. -/
def Chain.kick (k : Chain) : Chain :=
  match k.state with
  | .stopped => { k with state := .running }
  | .running => k
  | .faulted => match k.fault with
    | some f => if f.reported then { k with state := .running, fault := none } else k
    | none => { k with state := .running }

/-- KICK (R179). -/
def execKick (h : Hd) (ch : Fin 4) (s : State) : Host.Outcome State Fault Refusal :=
  dealer h (do
    modMe (·.modChain ch Chain.kick)
    return {}) s (ends := true)

/-- The chains of a mask. -/
def maskChains (m : BitVec 4) : List ChainNo := (List.finRange 4).filter fun k => m.getLsbD k

/-- FORK (R179): every chain of the mask in one step. -/
def execFork (h : Hd) (mask : BitVec 4) (s : State) : Host.Outcome State Fault Refusal :=
  dealer h (do
    modMe fun x => (maskChains mask).foldl (fun y k => y.modChain k Chain.kick) x
    return {}) s (ends := true)

/-- A rendezvous MARK that is not nullified (R167). -/
def Entry.isRdv (e : Entry) : Bool := e.cap.pred && e.linked.body == .rendezvous

/-- A stopped chain starts. -/
def Chain.start (k : Chain) : Chain := if k.state = .stopped then { k with state := .running } else k

/-- DRAIN is complete: the queues are empty, every write of the context's blocks is performed, every contribution applied. -/
def drained (s : State) (x : Ctx) : Bool :=
  (allBlocks x).isEmpty && !s.anyOutstanding x && (x.covs.toList.all fun k => k.early.isEmpty)

/-- A target with a sequence number has been linked to a chain. -/
def Ctx.isLinked (x : Ctx) (g : ChainNo × Nat) : Bool :=
  let d := ((x.chain g.1).seq + 4294967296 - g.2) % 4294967296
  decide (0 < d) && decide (d < 2147483648)

/-- Targets that are not linked yet can no longer be linked: their patches lose them (R271). -/
def Ctx.closePatches (x : Ctx) : Ctx :=
  { x with chains := x.chains.map fun k => { k with queue := k.queue.map fun e =>
      match e.cap.target with
      | some g => if x.isLinked g then e else { e with cap := { e.cap with target := none } }
      | none => e } }

/-- DRAIN up to its wait (R181): the mismatch, an abandonment, or the start of stopped chains that hold blocks. -/
def drainStart : M Unit := do
  let (t, c) ← me
  let x ← getCtx t c
  check (!(allBlocks x).any Entry.isRdv) .rdvMismatch 0
  if x.chains.toList.any fun k => k.state == .faulted && (match k.fault with
    | some f => f.reported
    | none => false) then abandonAt t c
  else modCtx t c fun y => { y.closePatches with
    chains := y.closePatches.chains.map fun k => if k.queue.isEmpty then k else k.start }

/-- DRAIN acquires the writes of the blocks it waited for (R227). -/
def drainAcquire (t : TileNo) : M Unit := dealerAcquire t []

/-- DRAIN (R181). -/
def execDrain (h : Hd) (s : State) : Host.Outcome State Fault Refusal :=
  dealer h (do
    drainStart
    let (t, c) ← me
    let x ← getCtx t c
    if ← see fun s => drained s x then do
      drainAcquire t
      return {}
    else waitFor .drain) s (ends := true)

/-- A record of a cancelled job reaches a suspension point: its chains are abandoned, and once the writes of their blocks are performed its context
ends with CAUSE 0x36 (R140, R181, R327, R411). -/
def cancelHere (t : TileNo) (c : SlotNo) : M Eff := do
  abandonAt t c
  let x ← getCtx t c
  if ← see fun s => drained s x then do
    drainAcquire t
    upd fun s => s.charge t c 8 1
    upd (retireCtx t c 0x36)
    return { ctl := .leave }
  else waitFor .endDrain

/-- DRAIN_COMPLETE: the waiting DRAIN completes as an acquire (R181, R227); with the one that END implies the context ends (R335). In
a cancelled job the blocks that are left are abandoned, and the context ends once their writes are performed (R327). -/
def execDrainComplete (t : TileNo) (c : SlotNo) (s : State) : Host.Outcome State Fault Refusal :=
  agent (do
    let x ← getCtx t c
    let w ← present x.wait
    match w.kind with
    | .drain => do
      enabled (← see fun s => drained s x)
      drainAcquire t
      finishWait t c w {}
    | .endDrain => do
      let gone ← see fun s => s.cancelled (clOf t) x.job
      onDealer t c
      paying t c none x.job do
        if gone && !(allBlocks x).isEmpty then abandonAt t c
        else do
          enabled (← see fun s => drained s x)
          drainAcquire t
          upd fun s => s.charge t c 8 1
          metering t (upd (retireCtx t c (if gone then 0x36 else 0)))
    | _ => exit .idle) s

/-- RDV (R183): each named chain must hold a rendezvous MARK; stopped ones start; then it waits. -/
def execRdv (h : Hd) (mask : BitVec 4) (s : State) : Host.Outcome State Fault Refusal :=
  dealer h (do
    let x ← myCtx
    check ((maskChains mask).all fun k => (x.chain k).queue.any Entry.isRdv) .rdvMismatch (BitVec.ofNat 64 mask.toNat)
    modMe fun y => (maskChains mask).foldl (fun y k => y.modChain k Chain.start) y
    waitFor (.rdv mask)) s (ends := true)

/-- The rendezvous MARK that holds a chain at its head (R182). -/
def holdingMark (x : Ctx) (ch : ChainNo) : Option Entry :=
  match (x.chain ch).queue with
  | e :: _ => if e.isRdv && e.run.ended && (x.chain ch).state == .running then some e else none
  | [] => none

/-- RDV_RELEASE: every chain of the mask holds a granted MARK; they post and retire together (R183). A MARK whose posts fault
stays (R170). -/
def execRdvRelease (t : TileNo) (c : SlotNo) (s : State) : Host.Outcome State Fault Refusal :=
  agent (do
    let x ← getCtx t c
    let w ← present x.wait
    match w.kind with
    | .rdv mask => do
      let ms ← (maskChains mask).mapM fun k => do
        let e ← present (holdingMark x k)
        return (k, e)
      ms.forM fun p => blockStep t c p.1 p.2 x.job (retireBlock t c p.1 p.2 0 0)
      let y ← getCtx t c
      if ms.all fun p => (y.entry? p.1 p.2.seq).isNone then finishWait t c w {} else pure ()
    | _ => exit .idle) s

/-! ## CHSEQ, CHSTAT -/

/-- CHSEQ (R184). -/
def execChseq (h : Hd) (d : Dst) (ch : Fin 4) (s : State) : Host.Outcome State Fault Refusal :=
  dealer h (do op0 d (BitVec.ofNat 64 ((← myCtx).chain ch).seq)) s (ends := true)

/-- The head block of a chain: the one that faulted (R180), else the one that runs or waits to, else the first one that has not retired (R184,
log 21). -/
def statHead (k : Chain) : Option Entry :=
  ((k.fault.bind fun f => k.queue.find? (·.seq == f.seq)).or (k.queue.find? fun e => !e.issued)).or k.queue.head?

/-- The status word (R184). -/
def chstatWord (k : Chain) : Nat :=
  let st := match k.state with
    | .stopped => 0
    | .running => 1
    | .faulted => 2
  let hd := statHead k
  let hwait := match hd with
    | some e => !e.run.started || e.run.stalled && (match e.cur.body with
        | .patch _ => true
        | _ => false)
    | none => false
  let hrdv := match hd with
    | some e => e.isRdv && e.run.ended
    | none => false
  let pend := match k.fault with
    | some f => !f.reported
    | none => false
  let seq := match hd with
    | some e => e.seq
    | none => k.seq
  st + 4 * hwait.toNat + 8 * hrdv.toNat + 16 * k.queue.length + 2048 * pend.toNat + 4294967296 * seq

/-- CHSTAT (R184). -/
def execChstat (h : Hd) (d : Dst) (ch : Fin 4) (s : State) : Host.Outcome State Fault Refusal :=
  dealer h (do op0 d (BitVec.ofNat 64 (chstatWord ((← myCtx).chain ch)))) s (ends := true)

/-! ## Held arrivals -/

/-- HELD_POST_APPLY: the oldest held arrival is applied as soon as it fits (R217, R196). -/
def execHeldPostApply (t : TileNo) (c : SlotNo) (n : SemNo) (s : State) : Host.Outcome State Fault Refusal :=
  agent (do
    let x ← getCtx t c
    let m := x.sem n
    match m.held with
    | [] => exit .idle
    | u :: r => do
      enabled (!m.exceeds u.amount u.lost)
      modCtx t c (·.modSem n fun m => { m with held := r }.arrive u)
      match u.ack with
      | some (ch, seq) => modCtx t c (·.modRun ch seq fun p => { p with owed := p.owed - 1 })
      | none => pure ()) s

end Sys2Proof.Machine
end

