-- ==== Sys2Proof/Machine/Queues.lean ====
section
/-!
DEFINITION. Linked queues (R409, R410): when a queue has formed, pushes and pops, and the arrival of entries and of credits.
-/
namespace Sys2Proof.Machine

/-- The endpoint number in a block's field. -/
def epNo (n : Nat) : Fin 8 := ⟨n % 8, Nat.mod_lt _ (by decide)⟩

/-- The endpoint is bound by a context in a role: the queue is that context's (R409). -/
def Endpoint.serves (p : Endpoint) (x : Ctx) (consumer : Bool) : Bool :=
  p.bind.any fun b => b.job == x.job && b.num == x.num && b.consumer == consumer

/-- A block of a context may push at an endpoint: the context has bound it, its queue has formed, and it holds a credit (R410). -/
def State.canPush (s : State) (t : Nat) (e : Fin 8) (x : Ctx) : Bool :=
  (s.ep t e).serves x false && s.formed t e && decide (0 < (s.ep t e).credits)
/-- A block of a context may pop at an endpoint: the context has bound it, and it holds an entry (R410). -/
def State.canPop (s : State) (t : Nat) (e : Fin 8) (x : Ctx) : Bool := (s.ep t e).serves x true && !(s.ep t e).entries.isEmpty

/-- An entry of 512 bytes, padded with zeros. -/
def padEntry (bs : List Byte) : List Byte := (bs ++ List.replicate (512 - bs.length) 0).take 512

/-- The NET units of an entry that a tile pushes: those of 512 bytes, where the consumer stands beyond its die (R418). -/
def entryUnits (t : TileNo) (u : Nat) : Nat := if dieOf u = (dieNo t).val then 0 else unitsOf 512

/-- Push an entry: it takes a credit, and travels; to another device as a message of the pushing block (R410). `count` are the
bytes that count into the block's CSEM once they have arrived. -/
def pushEntry (t : TileNo) (x : Ctx) (e : Fin 8) (bs : List Byte) (blk : ChainNo × Nat × Nat) (count : Nat) (s : State) : State :=
  match (s.ep t e).bind with
  | none => s
  | some b =>
    match b.dev with
    | none => (s.modEp t e fun p => { p with credits := p.credits - 1, flight := p.flight ++ [padEntry bs] }).request 0 (entryUnits t b.tile)
    | some d =>
      (issueMsg { id := 0, tile := t, job := x.job, num := x.num, chain := some blk, win := 0, dev := d, inb := 0, off := 0,
                  op := .entry (padEntry bs) b.tile b.ep, addr := 0, stamp := none, count, cls := 1 } 512
        (s.modEp t e fun p => { p with credits := p.credits - 1 })).1

/-- Pop an entry: its credit starts back, to another device as a message (R410). -/
def popEntry (t : TileNo) (e : Fin 8) (s : State) : State :=
  let s' := s.modEp t e fun p => { p with entries := p.entries.drop 1 }
  match (s.ep t e).bind with
  | none => s'
  | some b =>
    if !s.formed t e then s'.modAway t e b.consumer b.ep fun p => { p with back := p.back + 1 }
    else match b.dev with
      | none => s'.modEp b.tile b.ep fun p => { p with back := p.back + 1 }
      | some d => (issueMsg { id := 0, tile := t, job := 0, num := 0, chain := none, win := 0, dev := d, inb := 0, off := 0,
                              op := .credit b.tile b.ep, addr := 0, stamp := none, cls := 1 } 0 s').1

/-- What another device reports of its end of a queue with endpoint e: device `input.who` has bound endpoint `input.value` of tile `input.addr`
to it, or with `input.size` 1 has unbound it (R409, log 118). -/
def peerReport (t : TileNo) (e : Fin 8) (consumer : Bool) : M Unit := do
  let i ← see (·.input)
  enabled (← see fun s => i.who != s.domain)
  let p := (i.who, i.addr, epNo i.value, consumer)
  if i.size = 1 then upd (farUnbound t e p) else upd (farBound t e p)

/-- LINKED_QUEUE_ENTRY_ARRIVE at consumer endpoint e: the oldest entry in flight arrives, or one from another device, which is acknowledged
(R410); with `input.flag`, a report of the producer on another device. -/
def execLinkedQueueEntryArrive (t : TileNo) (e : Fin 8) (s : State) : Host.Outcome State Fault Refusal :=
  agent (do
    if ← see (·.input.flag) then peerReport t e false else
    let b ← present (← see fun s => (s.ep t e).bind)
    enabled b.consumer
    match b.dev with
    | none => do
      enabled (← see fun s => s.formed t e)
      let p ← see fun s => s.ep b.tile b.ep
      let bs ← present p.flight.head?
      upd fun s => s.modEp b.tile b.ep fun p => { p with flight := p.flight.drop 1 }
      upd fun s => s.modEp t e fun q => { q with entries := q.entries ++ [bs] }
    | some d => do
      let bs ← see (·.input.bytes)
      enabled ((← see fun s => s.formed t e) && decide ((← see fun s => (s.ep t e).entries.length) < 32))
      upd fun s => s.modEp t e fun q => { q with entries := q.entries ++ [padEntry bs] }
      upd (returnFlits d 1 9)
      upd (sendFlits d 1 1)) s

/-- LINKED_QUEUE_CREDIT_RETURN at producer endpoint e: a credit arrives (R410); with `input.flag`, a report of the consumer on another
device. -/
def execLinkedQueueCreditReturn (t : TileNo) (e : Fin 8) (s : State) : Host.Outcome State Fault Refusal :=
  agent (do
    if ← see (·.input.flag) then peerReport t e true else
    let p ← see fun s => s.ep t e
    let b ← present p.bind
    enabled (!b.consumer)
    match b.dev with
    | none => do
      enabled (decide (0 < p.back))
      upd fun s => s.modEp t e fun p => { p with back := p.back - 1, credits := p.credits + 1 }
    | some d => do
      enabled ((← see fun s => s.formed t e) && decide (p.credits < 32))
      upd fun s => s.modEp t e fun p => { p with credits := p.credits + 1 }
      upd (returnFlits d 1 1)
      upd (sendFlits d 1 1)) s

end Sys2Proof.Machine
end

