-- ==== Sys2Proof/Machine/Copy.lean ====
section
/-!
DEFINITION. The copy engines: one iteration of a LOAD and of a STORE block (R186 to R198), the counting of bytes (R196, R218, R219),
and shaping stores with their residue banks (R277 to R286).
-/
namespace Sys2Proof.Machine

/-! ## Places -/

/-- The scratchpad address of an offset (R104). -/
def padWord (off : Nat) : Word := BitVec.ofNat 64 (0x8000000000000000 + off)
/-- An address moved by a signed number of bytes. -/
def addOff (b : Word) (i : Int) : Word := b + BitVec.ofInt 64 i

/-- The unit of a run at an index tuple (R190). -/
def runUnit (b : CopyBody) (idx : List Nat) : Nat :=
  ((b.lvls.zip idx).zipIdx.foldl (fun (u : Int) l =>
    if l.2 < 2 then u
    else if 1 < b.lring ∧ l.2 = b.llvl then u + ((l.1.2 % b.lring : Nat) : Int)
    else u + (l.1.2 : Int) * l.1.1.lstr) (b.lbase : Int)).toNat

/-- The scratchpad offset of an index tuple (R189). -/
def localOff (b : CopyBody) (idx : List Nat) : Nat := ((b.lbase : Int) + dot idx (b.lvls.map (·.lstr))).toNat

/-- Element j and row i of a unit. -/
def colOf (idx : List Nat) : Nat := idx[0]?.getD 0
/-- Row i of a unit. -/
def rowOf (idx : List Nat) : Nat := idx[1]?.getD 0

/-- Unreadable bytes of a hand slot, a companion or an accumulator tile have no address: ELATCH4 is then a free value (R377, log 5). -/
def unitBytes (t : TileNo) (c : SlotNo) (x : Ctx) (cap : Cap) (k n : Nat) : M (List Byte) := do
  let bad ← see fun s => badBytes s k n
  if bad != 0 && cap.strict then do
    let v ← drawNat
    efault .eccStrict (BitVec.ofNat 64 v)
  else engineBytes t c x cap k n 0

/-- The half of a byte at an element index (R70). -/
def nibbleOf (b : Nat) (i : Int) : Nat := if i % 2 = 0 then b % 16 else b / 16 % 16
/-- A byte with one half replaced. -/
def withNibble (b : Nat) (i : Int) (v : Nat) : Nat := if i % 2 = 0 then b / 16 * 16 + v % 16 else b % 16 + 16 * (v % 16)

/-- Count bytes that a link lost on the way from an address, and record them (R197, R381, R405). -/
def dropBytes (t : TileNo) (c : SlotNo) (x : Ctx) (a : Word) (n : Nat) : M Unit := countDrop t c x .windowFault a n

/-! ## Counting bytes -/

/-- Count what a block has moved: lost bytes at once, others when a unit of 64 bytes is full, or all of them at the end (R196, R218).
A byte of an F4B8 walk of which one element was written and the other one lost counts as lost at the end (DESIGN CHOICE, log 152). The second
component says that the ceiling stopped it (R219). -/
def countStep (sem : SemNo) (all : Bool) (ch : ChainNo) (seq : Nat) (x : Ctx) : Ctx × Bool :=
  match x.entry? ch seq with
  | none => (x, false)
  | some e =>
    let odd := all && e.run.unit % 2 == 1 && e.run.lost % 2 == 1
    let u := if odd then e.run.unit - 1 else e.run.unit
    let l := if odd then e.run.lost + 1 else e.run.lost
    let m := x.sem sem
    let m := if 2 ≤ l then m.applyUnit (l / 2) true else m
    let n := min 64 (u / 2)
    let due := decide (128 ≤ u) || (all && decide (0 < n))
    let stop := due && m.exceeds n false
    let go := due && !stop
    let m := if go then m.applyUnit n false else m
    ((x.modSem sem fun _ => m).modRun ch seq fun p => { p with unit := if go then u - 2 * n else u, lost := l % 2 }, stop)

/-- A unit that the ceiling stopped is applied by a step of its own, before the next iteration (R219). -/
def flushUnit (t : TileNo) (c : SlotNo) (ch : ChainNo) (e : Entry) (b : CopyBody) : M Unit := do
  let r := countStep b.csem false ch e.seq (← getCtx t c)
  if r.2 then efault .semCeiling else modCtx t c fun _ => r.1

/-- A full unit of the block waits to be counted. -/
def Entry.unitWaits (e : Entry) (b : CopyBody) : Bool := b.cnten && decide (128 ≤ e.run.unit)

/-- Half bytes that an iteration moves on the tile pool's side (R424). -/
def localHalf (b : CopyBody) (fmt : Nat) : Nat :=
  if b.lkind = 2 then 8 else if fmt = 8 then (if b.lkind = 0 then 8 else 1) else 2 * fmtBytes fmt

/-- An iteration is complete: half bytes moved and lost, its answers are used up, the message it fills goes with the last one, and a full unit
is counted. At the ceiling the
chain stops at the next iteration, or at the posts if none follows (R219). -/
def endCopy (t : TileNo) (c : SlotNo) (ch : ChainNo) (e : Entry) (b : CopyBody) (moved lost : Nat) : M Unit := do
  let k := e.run.iter + 1
  let fmt := titFmt ((← getCtx t c).titNo b.tid)
  upd fun s => s.charge t c 5 (localHalf b fmt)
  modRun t c ch e.seq fun p => { p with iter := k, answers := [], unit := p.unit + moved, lost := p.lost + lost }
  if e.total ≤ k then upd (flushOut t c ch e) else pure ()
  if b.cnten then do
    let x ← getCtx t c
    let last := decide (e.total ≤ k)
    let r := countStep b.csem last ch e.seq x
    modCtx t c fun _ => r.1
    if r.2 then
      upd (setFault t c ch e.seq .semCeiling (if last then .posts else .iteration) (if last then [] else indexAt e.cur.body.bounds k) 0)
    else pure ()
  else modRun t c ch e.seq fun p => { p with unit := 0, lost := 0 }

/-! ## LOAD -/

/-- Row, block and band of an F4B8 element from its dense index (R70). -/
structure F4At where
  dense : Nat
  row   : Nat
  band  : Nat
  deriving DecidableEq, Repr

/-- The F4B8 position of an index tuple (R187). -/
def f4At (ent : Tit) (b : CopyBody) (idx : List Nat) : F4At :=
  let o := (origin ent b.torg).getD []
  let cs := (List.range (titRank ent)).map (coordAt o b idx)
  let k := (denseAt (titSizes ent) cs).toNat
  ⟨k, k / titSize ent 0, k / titSize ent 0 / 64⟩

/-- The scale of a band, read from SCALE1 (R77, R82); none where it is lost on a link. -/
def bandScale (t : TileNo) (c : SlotNo) (x : Ctx) (ch : ChainNo) (e : Entry) (tc : TensCap) (band j : Nat) (again : Bool := false) :
    M (Option Nat) := do
  let a := addOff tc.s1 (2 * band)
  match ← engineRead t c x ch e a 2 j again with
  | .lost => do
    dropBytes t c x a 2
    return none
  | .data bs =>
    if scaleOk (leNat bs) then return some (leNat bs) else efault .scaleRange

/-- Set the tag of a hand slot. -/
def setSlotTag (t : TileNo) (u : Nat) (g : SlotTag) : M Unit :=
  modTile t fun y => { y with slotTags := if h : u < 384 then y.slotTags.set u g else y.slotTags }
/-- The tag of a hand slot. -/
def slotTag (y : Tile) (u : Nat) : SlotTag := if h : u < 384 then y.slotTags.get ⟨u, h⟩ else {}
/-- Set the tag of an accumulator tile. -/
def setAccTag (t : TileNo) (u : Nat) (g : AccTag) : M Unit :=
  modTile t fun y => { y with accTags := if h : u < 192 then y.accTags.set u g else y.accTags }
/-- The tag of an accumulator tile. -/
def accTag (y : Tile) (u : Nat) : AccTag := if h : u < 192 then y.accTags.get ⟨u, h⟩ else {}

/-- Push an element into the entry being packed; a full one, and the last one, are pushed (R192). `n` of its bytes count once the entry has
arrived at another device (R196). -/
def queuePut (t : TileNo) (c : SlotNo) (x : Ctx) (e : Entry) (ep : Fin 8) (bs : List Byte) (last : Bool) (n : Nat) : M Unit := do
  let q := e.run.qx ++ bs
  let k := e.run.packed + n
  if 512 ≤ q.length ∨ last then do
    upd (pushEntry t x ep q (0, e.seq, e.run.iter) k)
    modRun t c 0 e.seq fun p => { p with qx := [], packed := 0 }
  else modRun t c 0 e.seq fun p => { p with qx := q, packed := k }

/-- Stall at a queue: nothing of the iteration is done (R192, R240); what the block has filled of a message goes out (R404). -/
def stall {α : Type} (t : TileNo) (c : SlotNo) (ch : ChainNo) (e : Entry) : M α := fun s =>
  .error (.wait .again ((flushOut t c ch e s).modCtx t c (·.modRun ch e.seq fun p => { p with stalled := true })))

/-- The queue of an endpoint leads to another device. -/
def State.farQueue (s : State) (t : TileNo) (e : Fin 8) : Bool :=
  match (s.ep t e).bind with
  | some b => b.dev.isSome
  | none => false

/-- A LOAD iteration from a tensor of any format but F4B8: the element is copied with its bits unchanged (R188). In an entry of a linked queue an
element lost on a link is packed as zero bytes (log 129). -/
def loadPlain (t : TileNo) (c : SlotNo) (x : Ctx) (e : Entry) (b : CopyBody) (ent : Tit) : M Unit := do
  let fmt := titFmt ent
  let sz := fmtBytes fmt
  let idx := e.index
  let last := decide (e.total ≤ e.run.iter + 1)
  let ep := epNo b.lbase
  let far ← see fun s => b.lkind == 3 && s.farQueue t ep
  if b.lkind = 3 ∧ (last ∨ 512 ≤ e.run.qx.length + sz) then
    if ← see fun s => s.canPush t ep x then pure () else stall t c 0 e
  else pure ()
  let a := addOff (e.cap.tensOf b.tid).base (elemAt ent b idx * sz)
  match ← engineRead t c x 0 e a sz 0 with
  | .lost => do
    dropBytes t c x a sz
    if b.lkind = 3 then queuePut t c x e ep (List.replicate sz 0) last 0 else pure ()
    endCopy t c 0 e b 0 (2 * sz)
  | .data bs => do
    match b.lkind with
    | 0 => upd fun s => writeBytes s (spAt t (localOff b idx)) bs
    | 1 => do
      let u := runUnit b idx
      if e.run.visited.contains u then pure ()
      else do
        setSlotTag t u { valid := true, format := BitVec.ofNat 4 fmt, tid := BitVec.ofNat 7 b.tid }
        if u < 192 then upd fun s => zeroBytes s (compAt t u 0) 2048 else pure ()
        modRun t c 0 e.seq fun p => { p with visited := u :: p.visited }
      upd fun s => writeBytes s (handAt t u (128 * rowOf idx + sz * colOf idx)) bs
    | 2 => do
      let u := runUnit b idx
      if e.run.visited.contains u then pure ()
      else do
        setAccTag t u { format := BitVec.ofNat 4 fmt, written := true }
        modRun t c 0 e.seq fun p => { p with visited := u :: p.visited }
      upd fun s => writeBytes s (accAt t u (256 * rowOf idx + 4 * colOf idx)) bs
    | _ => queuePut t c x e ep bs last (if far && b.cnten then sz else 0)
    endCopy t c 0 e b (if far then 0 else 2 * sz) 0

/-- The index tuple of the iteration before, if there is one. -/
def Entry.before (e : Entry) : Option (List Nat) := if e.run.iter = 0 then none else some (indexAt e.cur.body.bounds (e.run.iter - 1))

/-- The byte of an F4B8 element; none where it was lost (R70, R197). -/
def f4Byte (t : TileNo) (c : SlotNo) (x : Ctx) (e : Entry) (ent : Tit) (b : CopyBody) (el : Int) : M (Option Nat) := do
  let again := e.before.any fun i => elemAt ent b i / 2 == el / 2
  let a := addOff (e.cap.tensOf b.tid).base (el / 2)
  match ← engineRead t c x 0 e a 1 0 again with
  | .data bs => return some (leNat bs)
  | .lost => do
    dropBytes t c x a 1
    return none

/-- The scale byte of an F4B8 element's block; none where it was lost. -/
def f4Scale (t : TileNo) (c : SlotNo) (x : Ctx) (e : Entry) (b : CopyBody) (k : Nat) (again : Bool) : M (Option Nat) := do
  let a := addOff (e.cap.tensOf b.tid).s0 ((k / 8 : Nat) : Int)
  match ← engineRead t c x 0 e a 1 1 again with
  | .data bs => return some (leNat bs)
  | .lost => do
    dropBytes t c x a 1
    return none

/-- A LOAD iteration from an F4B8 tensor into scratchpad: the element is widened with the scales of its block and its band, which are read with
it (R76, R198). -/
def loadF4Pad (t : TileNo) (c : SlotNo) (x : Ctx) (e : Entry) (b : CopyBody) (ent : Tit) : M Unit := do
  let idx := e.index
  let el := elemAt ent b idx
  let p := f4At ent b idx
  let near (k : Nat) (f : F4At → Nat) : Bool := e.before.any fun i => f (f4At ent b i) / k == f p / k
  let q ← f4Byte t c x e ent b el
  let s ← f4Scale t c x e b p.dense (near 8 F4At.dense)
  let S ← bandScale t c x 0 e (e.cap.tensOf b.tid) p.band 2 (near 1 F4At.band)
  match q, s, S with
  | some q, some s, some S => do
    upd fun st => writeNat st (spAt t (localOff b idx)) 4 (widenF4 (nibbleOf q el) s S)
    endCopy t c 0 e b 8 0
  | _, _, _ => endCopy t c 0 e b 0 8

/-- The tag of a hand slot that an F4B8 LOAD begins (R191). Its 16-bit BAND holds the band modulo 65536 (log 120). -/
def f4Tag (b : CopyBody) (band S : Nat) : SlotTag :=
  { valid := true, format := 8, tid := BitVec.ofNat 7 b.tid, bandscale := BitVec.ofNat 16 S, band := BitVec.ofNat 16 band }

/-- A LOAD iteration from an F4B8 tensor into a hand slot: the element is copied, the scale of its block with the elements whose column is a
multiple of 8, and the tag names the band of the block's first row in the slot (R191). Where a link loses the scale, the element is written and
counted all the same, and the companion byte stays (R197, log 138). -/
def loadF4Slot (t : TileNo) (c : SlotNo) (x : Ctx) (e : Entry) (b : CopyBody) (ent : Tit) : M Unit := do
  let idx := e.index
  let el := elemAt ent b idx
  let p := f4At ent b idx
  let u := runUnit b idx
  let first := !e.run.visited.contains u
  let scaled := colOf idx % 8 == 0
  if (rowOf idx = 0 ∧ p.row % 64 ≠ 0) ∨ (e.run.bands.any fun k => k.1 == u && k.2 != p.band) then efault .scaleRange else pure ()
  let q ← f4Byte t c x e ent b el
  let s ← if scaled then f4Scale t c x e b p.dense false else pure none
  let S ← if first then bandScale t c x 0 e (e.cap.tensOf b.tid) p.band (if scaled then 2 else 1) else pure (some 0)
  match q, S with
  | some q, some S => do
    if first then do
      setSlotTag t u (f4Tag b p.band S)
      modRun t c 0 e.seq fun r => { r with visited := u :: r.visited, bands := (u, p.band) :: r.bands }
    else pure ()
    match s with
    | some s => upd fun st => writeNat st (compAt t u (32 * rowOf idx + colOf idx / 8)) 1 s
    | none => pure ()
    let k := handAt t u (128 * rowOf idx + colOf idx / 2)
    upd fun st => writeNat st k 1 (withNibble (cellGet st.mem k).toNat (colOf idx : Int) (nibbleOf q el))
    endCopy t c 0 e b 1 0
  | _, _ => endCopy t c 0 e b 0 1

/-- Send a refused or lost message of a block again (R180), with the requests and the energy that it had when it was issued (R418, R424). -/
def resend (id : Nat) (s : State) : State :=
  let again (m : Msg) : Msg := { m with state := .going, flits := if m.dev = s.domain then 0 else 1 + unitsOf m.op.payload }
  let s := match s.msgs.find? (·.id == id) with
    | some m => msgCost m m.op.size s
    | none => s
  let s := { s with msgs := s.msgs.map fun m => if m.id = id then again m else m }
  match (s.msgs.find? (·.id == id)).bind fun m => s.portOf m.dev with
  | some p => if h : p < 18 then pumpPort ⟨p, h⟩ s else s
  | none => s

/-- The first message of a chain's blocks that was refused or lost, and reported. -/
def State.parkedOf (s : State) (x : Ctx) (ch : ChainNo) : Option Msg :=
  s.msgs.find? fun m => m.state == .parked && m.job == x.job && m.num == x.num && m.chain.any (·.1 == ch)

/-- A step of a chain that runs: a message that was refused or lost goes out again first (R180), else `m`. -/
def orResend (t : TileNo) (c : SlotNo) (ch : ChainNo) (m : M Unit) : M Unit := do
  let x ← getCtx t c
  match ← see fun s => s.parkedOf x ch with
  | some k => do
    enabled ((x.chain ch).state == .running && !x.stops)
    paying t c (some (ch, (k.chain.map (·.2.1)).getD 0)) x.job (upd (resend k.id))
  | none => m

/-- LOAD_ITERATION (R186). -/
def execLoadIteration (t : TileNo) (c : SlotNo) (s : State) : Host.Outcome State Fault Refusal :=
  agent (orResend t c 0 do
    let (x, e) ← running t c 0
    enabled (decide (e.run.iter < e.total))
    match e.cur.body with
    | .load b => blockStep t c 0 e x.job do
      let ent := x.titNo b.tid
      if e.unitWaits b then flushUnit t c 0 e b
      else if titFmt ent ≠ 8 then loadPlain t c x e b ent
      else if b.lkind = 0 then loadF4Pad t c x e b ent
      else loadF4Slot t c x e b ent
    | _ => exit .idle) s

/-! ## STORE -/

/-- The local element of a STORE at an index tuple: its format and code (R188). A queue's element was popped before. -/
def storeLocal (t : TileNo) (c : SlotNo) (x : Ctx) (e : Entry) (b : CopyBody) (fmt : Nat) (idx : List Nat) (q : List Byte) :
    M (Nat × Nat) := do
  match b.lkind with
  | 0 => do
    let f := localFmt true b fmt
    let o := localOff b idx
    enabled (!(← see fun s => chainBehind s x 1 (spAt t o) (fmtBytes f)))
    return (f, leNat (← engineBytes t c x e.cap (spAt t o) (fmtBytes f) (padWord o)))
  | 2 => do
    let u := runUnit b idx
    let f := (← see fun s => accTag (s.tile t) u).format.toNat
    return (f, leNat (← unitBytes t c x e.cap (accAt t u (256 * rowOf idx + 4 * colOf idx)) 4))
  | _ => do
    let f := localFmt true b fmt
    return (f, leNat (q.take (fmtBytes f)))

/-- Refill the entry that a STORE reads from its queue, or stall (R192). -/
def storeQueue (t : TileNo) (c : SlotNo) (e : Entry) (b : CopyBody) : M (List Byte) := do
  if b.lkind ≠ 3 then return []
  else if e.run.qx.isEmpty then do
    let x ← getCtx t c
    if !(← see fun s => s.canPop t (epNo b.lbase) x) then stall t c 1 e
    else do
      let bs ← see fun s => (s.ep t (epNo b.lbase)).entries.headD []
      upd (popEntry t (epNo b.lbase))
      modRun t c 1 e.seq fun p => { p with qx := bs }
      return bs
  else return e.run.qx

/-- The element of the queue is read; after the last one the rest of the entry is discarded. -/
def storeQueueEnd (t : TileNo) (c : SlotNo) (e : Entry) (b : CopyBody) (n : Nat) (last : Bool) : M Unit :=
  if b.lkind ≠ 3 then pure ()
  else modRun t c 1 e.seq fun p => { p with qx := if last then [] else p.qx.drop n }

/-- The value of a local element for a shaping store or an F4B8 tensor: FP32, an INT32 one converted by a rounding mode (R277, R193). -/
def asFp32 (rm : Nat) (f code : Nat) : Nat := if f = 7 then narrow fp32 0 rm false (elemVal 7 code) else code

/-- CLAMP of R279. -/
def clampG (v : Val) (g : Q) : Val := (v.min (.num g)).max (.num g.neg)

/-- One step of the recurrence of R279 for an F4B8 element: from the carried residue, what is written and the next residue. -/
def shapeF4 (S s : Val) (e x : Nat) : QElem :=
  match val32 x with
  | .nan => ⟨0, e, 1, 0⟩
  | xv =>
    let v := rneV ((xv.div (S.mul s)).add false (val32 e))
    let (q, k) := saturate fp4 v
    ⟨q, rne32 (clampG (rneV (v.add false (fp4.val q).negate)) (.ofInt 1)), k.nan, k.sat⟩

/-- The elements of a scale block under R279, from the slot's residue and last scale code. -/
def shapeBlock (bs sc e p : Nat) (xs : List Nat) : List QElem :=
  if sc = 0 then xs.map fun x => match val32 x with
    | .nan => ⟨0, e, 1, 0⟩
    | _ => ⟨0, e, 0, 0⟩
  else
    let S := bf16.val bs
    let s : Val := .ofQ false (scaleQ sc)
    let e0 := if p = 0 then e else rne32 (((val32 e).mul (.ofQ false (scaleQ p))).div s)
    (xs.foldl (fun (a : List QElem × Nat) x => let q := shapeF4 S s a.2 x; (a.1 ++ [q], q.e)) ([], e0)).1

/-- The residue limit G and the format of a target other than F4B8 (R280). -/
def shapeG (fmt : Nat) : Q :=
  match fmt with
  | 3 => .ofInt 16
  | 4 => .ofInt 4096
  | _ => .pow2 1 119

/-- One element of R280: what is written, the next residue and the counts. -/
def shapeElem (fmt e x : Nat) : QElem :=
  match val32 x with
  | .nan => if fmt = 2 then ⟨bf16.nanCode, e, 0, 0⟩ else ⟨0, e, 1, 0⟩
  | xv =>
    let v := rneV (xv.add false (val32 e))
    let (q, k) := if fmt = 2 then (narrow bf16 2 0 false v, {}) else saturate (if fmt = 3 then fp8e4 else fp8e5) v
    let qv := elemVal fmt q
    match qv with
    | .inf _ => ⟨q, 0, k.nan, k.sat⟩
    | _ => ⟨q, rne32 (clampG (rneV (v.add false qv.negate)) (shapeG fmt)), k.nan, k.sat⟩

/-- The line number of an index tuple on the captured axis (R275). -/
def lineNo (ent : Tit) (e : Entry) (b : CopyBody) (idx : List Nat) : Nat :=
  let o := (origin ent b.torg).getD []
  (lineAt e.cap.axis.dim (titSizes ent) ((List.range (titRank ent)).map (coordAt o b idx))).toNat

/-- The check of R283: the bank as it stands after it, or none for AXIS_ORDER. -/
def bankCheck (k : ResBank) (dim tid fmt S band a : Nat) : Option ResBank :=
  let band := band % 4294967296
  if a = 0 then
    if k.valid then none else some { valid := true, dim, tid, format := fmt, bscale := S, band }
  else if k.valid && k.dim == dim && k.tid == tid && k.format == fmt && k.bscale == S && k.band == band && k.next == a then some k
  else none

/-- Change the bank of a shaping block. -/
def modBank (t : TileNo) (c : SlotNo) (n : Fin 4) (f : ResBank → ResBank) : M Unit :=
  modCtx t c fun y => { y with banks := y.banks.set n (f (y.banks.get n)) }

/-- The start of a shaping block, before it reads anything else: the band scale and the check of its bank, in a step of its own, which stands
whatever the first iteration meets (R278, R283, R286). A fault of the read of the scale comes before AXIS_ORDER (log 139). A band scale that is
lost on a link cannot be used: its bytes are counted and the block faults with SCALE_RANGE (R197; DESIGN CHOICE, log 154). -/
def shapeStart (t : TileNo) (c : SlotNo) (x : Ctx) (e : Entry) (b : CopyBody) (ent : Tit) : M Unit := do
  let fmt := titFmt ent
  let ax := e.cap.axis
  let tc := e.cap.tensOf b.tid
  let a := ((origin ent b.torg).getD [])[ax.dim]?.getD 0
  let band := lineNo ent e b (indexAt (e.cur.body.bounds) 0) / 64
  let S ← if fmt ≠ 8 then pure 0 else if ax.bsq then pure e.cap.qs.toNat
    else match ← bandScale t c x 1 e tc band 0 with
      | some S => pure S
      | none => fun s => .error (.efault .scaleRange .iteration 0 ⟨2, [causeRec s t x .windowFault (addOff tc.s1 (2 * band)) 2], s.free, s.reqs⟩)
  match bankCheck (x.banks.get ax.bank) ax.dim b.tid fmt S band a with
  | none => efault .axisOrder
  | some k => do
    modBank t c ax.bank fun _ => k
    modRun t c 1 e.seq fun p => { p with banked := true, answers := [], band := S }

/-- The touched lines of a shaping block. -/
def touchedLines (ent : Tit) (e : Entry) (b : CopyBody) : List Nat :=
  let n0 := max ((b.lvls[0]?.map (·.bnd)).getD 1) 1
  ((List.range (e.total / n0)).map fun k => lineNo ent e b (indexAt e.cur.body.bounds (k * n0))).eraseDups

/-- The residue that ROWRES writes for a line (R284). -/
def lineResidue (k : ResBank) (fmt l : Nat) : Nat :=
  let i := l % 64
  let ev := (k.e.toList[i]?.getD 0).toNat
  let sp := (k.sp.toList[i]?.getD 0).toNat
  if fmt = 8 then
    (if sp = 0 then 0 else rne32 (((val32 ev).mul (.ofQ false (scaleQ sp))).mul (bf16.val k.bscale)))
  else ev

/-- The last iteration of a shaping block: NEXT, and the end of the lines when the axis is complete (R284). A NEXT that passes SIZE without
meeting it ends no line (log 140). What the block met before it completed its walk spoils its bank no more, and a bank that it has reset is not its
own any more (R286, log 137). -/
def shapeEnd (t : TileNo) (c : SlotNo) (e : Entry) (b : CopyBody) (ent : Tit) : M Unit := do
  let ax := e.cap.axis
  let a := ((origin ent b.torg).getD [])[ax.dim]?.getD 0
  let next := a + ((b.lvls[0]?.map (·.bnd)).getD 0)
  let x ← getCtx t c
  let k := x.banks.get ax.bank
  if next = titSize ent ax.dim then do
    if titRowres ent then do
      let r := x.titGet (titRestid ent)
      (touchedLines ent e b).forM fun l =>
        engineWrite t c x 1 e (addOff (e.cap.tensOf (titRestid ent)).base (4 * (l : Int) * titStride r 0))
          (natLe 4 (lineResidue k (titFmt ent) l)) 0
    else pure ()
    modBank t c ax.bank fun _ => {}
    modRun t c 1 e.seq fun p => { p with spoils := false, banked := false }
  else do
    modBank t c ax.bank fun k => { k with next := next % 4294967296 }
    modRun t c 1 e.seq fun p => { p with spoils := false }

/-- Put the residue of a slot. -/
def setResidue (k : ResBank) (i ev : Nat) (sp : Option Nat) : ResBank :=
  let i : Fin 64 := ⟨i % 64, Nat.mod_lt _ (by decide)⟩
  { k with e := k.e.set i (BitVec.ofNat 32 ev), sp := match sp with
    | some p => k.sp.set i (BitVec.ofNat 8 p)
    | none => k.sp }

/-- The bytes of a STORE that count at acknowledgement, for an element of n bytes. -/
def ackCount (b : CopyBody) (n : Nat) : Nat := if b.cnten then n else 0

/-- The value of a local element that is delivered to a format: an INT32 element becomes FP32 under the block's mode before it is narrowed to
another floating format (R80, R193). -/
def storeVal (fp : BitVec 4) (f fmt code : Nat) : Val := if f = 7 ∧ fmt ≤ 4 then val32 (asFp32 (rmOf fp) f code) else readVal fp f code

/-- A STORE iteration to a tensor of any format but F4B8 (R193, R194, R280). An unreadable local element of a combining store adds zero to
the old value (log 121); the mode signs an exact zero sum (log 124). -/
def storePlain (t : TileNo) (c : SlotNo) (x : Ctx) (e : Entry) (b : CopyBody) (ent : Tit) (last : Bool) : M Unit := do
  let fmt := titFmt ent
  let sz := fmtBytes fmt
  let idx := e.index
  let q ← storeQueue t c e b
  let (f, code) ← storeLocal t c x e b fmt idx q
  let fp := e.cap.fp
  let a := addOff (e.cap.tensOf b.tid).base (elemAt ent b idx * sz)
  if b.shape then do
    let l := lineNo ent e b idx
    let k := (← getCtx t c).banks.get e.cap.axis.bank
    let r := shapeElem fmt (k.e.toList[l % 64]?.getD 0).toNat (asFp32 0 f code)
    countEvents t c ⟨r.nan, r.sat⟩
    engineWrite t c x 1 e a (natLe sz r.code) (ackCount b sz)
    modBank t c e.cap.axis.bank fun k => setResidue k l r.e none
    if last then shapeEnd t c e b ent else pure ()
  else if b.combine then
    match ← see fun s => enginePlace s t e.cap a with
    | .window _ _ => upd (outPut t c 1 e e.run.iter a sz (some (fmt, f)) [code] (ackCount b sz))
    | .at k chk => do
      enabled (!(← see fun s => chainBehind s x 1 k sz))
      engineRace t x k chk true true a
      meterKey t a k sz
      let old := leNat (← engineBytes t c x e.cap k sz a)
      let (v, n) := deliver fp fmt ((readVal fp fmt old).add (rmOf fp == 3) (readVal fp f code))
      countEvents t c n
      upd fun s => writeBytes s k (natLe sz v) true
  else do
    let (v, n) := if f = fmt then (code, {}) else deliver fp fmt (storeVal fp f fmt code)
    countEvents t c n
    engineWrite t c x 1 e a (natLe sz v) (ackCount b sz)
  storeQueueEnd t c e b (fmtBytes f) last
  endCopy t c 1 e b (if isWindow a then 0 else 2 * sz) 0

/-- The elements of a scale block that the block's level 0 visits from the current iteration on: all 8, or fewer where an outer level steps along
dimension 0 and the pass begins or ends inside the scale block (R187, log 12). -/
def blockSpan (b : CopyBody) (dense i0 : Nat) : Nat := min (8 - dense % 8) ((b.lvls[0]?.map (·.bnd)).getD 0 - i0)

/-- The n elements from the current iteration of an F4B8 store on, converted together, and their scale code (R81, R279). -/
def storeBlock (t : TileNo) (c : SlotNo) (x : Ctx) (e : Entry) (b : CopyBody) (ent : Tit) (S n : Nat) : M (Nat × List QElem) := do
  let xs ← (List.range n).mapM fun k => do
    let (f, code) ← storeLocal t c x e b 8 (indexAt e.cur.body.bounds (e.run.iter + k)) []
    return asFp32 (if b.shape then 0 else rmOf e.cap.fp) f code
  let y ← getCtx t c
  let sc := blockScale (blockMax S xs)
  if b.shape then do
    let i := lineNo ent e b e.index % 64
    let k := y.banks.get e.cap.axis.bank
    return (sc, shapeBlock S sc (k.e.toList[i]?.getD 0).toNat (k.sp.toList[i]?.getD 0).toNat xs)
  else do
    let one (v : Nat) : QElem := match val32 v with
      | .nan => ⟨0, 0, 1, 0⟩
      | w => if sc = 0 then ⟨0, 0, 0, 0⟩
        else let r := saturate fp4 (rneV (w.div ((bf16.val S).mul (.ofQ false (scaleQ sc))))); ⟨r.1, 0, r.2.nan, r.2.sat⟩
    return (sc, xs.map one)

/-- The scale of the band that an F4B8 store writes in: fixed with the first block of the band, where it is read from SCALE1 and written back
(R81, R193). None where it is lost on a link. -/
def storeBand (t : TileNo) (c : SlotNo) (x : Ctx) (e : Entry) (tc : TensCap) (band : Nat) : M (Option Nat) := do
  match e.run.bands.find? (·.1 == band) with
  | some k => return some k.2
  | none => match ← bandScale t c x 1 e tc band 0 with
    | none => return none
    | some S => do
      modRun t c 1 e.seq fun p => { p with bands := (band, S) :: p.bands }
      engineWrite t c x 1 e (addOff tc.s1 (2 * band)) (natLe 2 S) 0
      return some S

/-- The first element of a scale block converts the block and writes its scale (R193, R279); with the scale of its band lost, none of its
elements can be written (R197). -/
def storeScale (t : TileNo) (c : SlotNo) (x : Ctx) (e : Entry) (b : CopyBody) (ent : Tit) : M Unit := do
  let tc := e.cap.tensOf b.tid
  let p := f4At ent b e.index
  let n := blockSpan b p.dense (colOf e.index)
  if b.shape && e.run.iter == 0 then engineWrite t c x 1 e (addOff tc.s1 (2 * p.band)) (natLe 2 e.run.band) 0 else pure ()
  match ← (if b.shape then pure (some e.run.band) else storeBand t c x e tc p.band) with
  | none => modRun t c 1 e.seq fun r => { r with quant := List.replicate n none }
  | some S => do
    let (sc, qs) ← storeBlock t c x e b ent S n
    modRun t c 1 e.seq fun r => { r with scale := sc, quant := qs.map some }
    engineWrite t c x 1 e (addOff tc.s0 ((p.dense / 8 : Nat) : Int)) (natLe 1 sc) 0

/-- Write one F4B8 element (R70): its half of a byte. Through a window the two halves that one pass visits go as one byte, from the iteration
of the first; a half alone goes as such (R404). -/
def storeHalf (t : TileNo) (c : SlotNo) (x : Ctx) (e : Entry) (b : CopyBody) (el : Int) (code : Nat) : M Unit := do
  let a := addOff (e.cap.tensOf b.tid).base (el / 2)
  let i0 := colOf e.index
  match ← see fun s => enginePlace s t e.cap a with
  | .at k chk => do
    enabled (!(← see fun s => chainBehind s x 1 k 1))
    engineRace t x k chk true false a
    meterKey t a k 1
    upd fun s => writeNat s k 1 (withNibble (cellGet s.mem k).toNat el code)
  | .window _ _ =>
    if el % 2 = 0 ∧ i0 + 1 < (b.lvls[0]?.map (·.bnd)).getD 0 then modRun t c 1 e.seq fun p => { p with qy := [BitVec.ofNat 8 code] }
    else match el % 2 == 1, e.run.qy with
      | true, lo :: _ => do
        modRun t c 1 e.seq fun p => { p with qy := [] }
        upd (outPut t c 1 e (e.run.iter - 1) a 1 none [lo.toNat + 16 * code] (ackCount b 1))
      | hi, _ => do
        upd (flushOut t c 1 e)
        upd (sendBlock t x 1 e e.run.iter a 1 (.half hi code) (if hi then ackCount b 1 else 0))

/-- A STORE iteration to an F4B8 tensor (R193, R279, log 12). -/
def storeF4 (t : TileNo) (c : SlotNo) (x : Ctx) (e : Entry) (b : CopyBody) (ent : Tit) (last : Bool) : M Unit := do
  let idx := e.index
  let el := elemAt ent b idx
  if colOf idx = 0 ∨ (f4At ent b idx).dense % 8 = 0 then storeScale t c x e b ent else pure ()
  let r := ((← getCtx t c).entry? 1 e.seq).elim {} fun e => e.run
  modRun t c 1 e.seq fun p => { p with quant := p.quant.drop 1 }
  match r.quant with
  | [] => exit .idle
  | none :: _ => endCopy t c 1 e b 0 1
  | some q :: _ => do
    countEvents t c ⟨q.nan, q.sat⟩
    if b.shape then do
      let l := lineNo ent e b idx
      modBank t c e.cap.axis.bank fun k => setResidue k l q.e (if r.scale = 0 then none else some r.scale)
    else pure ()
    storeHalf t c x e b el q.code
    if b.shape && last then shapeEnd t c e b ent else pure ()
    endCopy t c 1 e b (if isWindow (e.cap.tensOf b.tid).base then 0 else 1) 0

/-- The next iteration reads scratchpad bytes that the message being filled leads to (R198). -/
def readsOut (s : State) (t : TileNo) (x : Ctx) (e : Entry) (b : CopyBody) (ent : Tit) : Bool :=
  b.lkind == 0 && (
    let ps := outPlaces s t x e
    let n := if titFmt ent = 8 then blockSpan b (f4At ent b e.index).dense (colOf e.index) else 1
    !ps.isEmpty && (List.range n).any fun k =>
      let o := spAt t (localOff b (indexAt e.cur.body.bounds (e.run.iter + k)))
      ps.any fun p => decide (o ≤ p) && decide (p < o + fmtBytes (localFmt true b (titFmt ent))))

/-- STORE_ITERATION (R186): a refused message of the chain first, then a unit that waits, then a message that leads to what the next element
reads, then the start of a shaping block, then the next element. -/
def execStoreIteration (t : TileNo) (c : SlotNo) (s : State) : Host.Outcome State Fault Refusal :=
  agent (orResend t c 1 do
    let (x, e) ← running t c 1
    enabled (decide (e.run.iter < e.total))
    match e.cur.body with
    | .store b => blockStep t c 1 e x.job do
      let ent := x.titNo b.tid
      let last := decide (e.total ≤ e.run.iter + 1)
      if e.unitWaits b then flushUnit t c 1 e b
      else if ← see fun s => readsOut s t x e b ent then upd (flushOut t c 1 e)
      else if b.shape && !e.run.banked then shapeStart t c x e b ent
      else if titFmt ent = 8 then storeF4 t c x e b ent last
      else storePlain t c x e b ent last
    | _ => exit .idle) s

/-! ## Stalled blocks -/

/-- The endpoints a block pops from and pushes to. -/
def queuePorts (b : Body) : List (Fin 8 × Bool) :=
  match b with
  | .load c => if c.lkind = 3 then [(epNo c.lbase, true)] else []
  | .store c => if c.lkind = 3 then [(epNo c.lbase, false)] else []
  | .vector v =>
    ([v.x, v.y, v.z].filter (·.kind == 4)).map (fun p => (epNo p.base, false)) ++
      (if v.w.kind = 4 then [(epNo v.w.base, true)] else [])
  | .nop | .endB | .matrix _ | .patch _ | .rendezvous | .resolve _ _ => []

/-- QUEUE_STALL_RESUME: an entry or a credit is there for a stalled block, which looks again (R192, R410). -/
def execQueueStallResume (t : TileNo) (c : SlotNo) (ch : ChainNo) (s : State) : Host.Outcome State Fault Refusal :=
  agent (do
    let x ← getCtx t c
    enabled ((x.chain ch).state == .running)
    let e ← present ((x.chain ch).queue.find? fun e => e.run.stalled && e.cur.body.engine)
    enabled (← see fun s => (queuePorts e.cur.body).any fun p => if p.2 then s.canPush t p.1 x else s.canPop t p.1 x)
    modRun t c ch e.seq fun p => { p with stalled := false }) s

end Sys2Proof.Machine
end

