-- ==== Sys2Proof/Machine/Pool.lean ====
section
/-!
DEFINITION. The tile pool: run words (R143, R144), holding and naming units (R138, R139), CLAIM, RELEASE and ACLR (R145), HSTAT
(R146) and PARTW (R147).
-/
namespace Sys2Proof.Machine

/-- Hand slots of a partition word: 24 for each bank (R127). -/
def handUnits (partw : BitVec 32) : Nat := 24 * (4 * (partw.toNat % 16))
/-- Accumulator tiles of a partition word: 12 for each bank (R127). -/
def accUnits (partw : BitVec 32) : Nat := 12 * (4 * (partw.toNat / 16 % 16))

/-- The fields of a run word (R143). -/
structure Run where
  first : Nat
  count : Nat
  acc   : Bool
  rest  : Nat
  deriving DecidableEq, Repr

/-- Read a run word (R143). -/
def runOf (v : Word) : Run :=
  { first := v.toNat % 512, count := v.toNat / 512 % 512, acc := v.getLsbD 18, rest := v.toNat / 524288 }

/-- The units of a run as a mask. -/
def runMask (n : Nat) (r : Run) : BitVec n := (BitVec.ofNat n (2 ^ r.count - 1)) <<< r.first

/-- The hand slots that the unretired blocks of a context name. -/
def namedSlots (x : Ctx) : BitVec 384 :=
  x.chains.toList.foldl (fun m ch => ch.queue.foldl (fun m e => m ||| e.slots) m) 0
/-- The accumulator tiles that the unretired blocks of a context name. -/
def namedTiles (x : Ctx) : BitVec 192 :=
  x.chains.toList.foldl (fun m ch => ch.queue.foldl (fun m e => m ||| e.tiles) m) 0

/-- An unretired block of the context names a unit of the run (R139). -/
def runNamed (x : Ctx) (r : Run) : Bool :=
  if r.acc then (namedTiles x &&& runMask 192 r) != 0 else (namedSlots x &&& runMask 384 r) != 0

/-- The context holds every unit of the run. -/
def runHeld (x : Ctx) (r : Run) : Bool :=
  if r.acc then (x.heldTiles &&& runMask 192 r) == runMask 192 r else (x.heldSlots &&& runMask 384 r) == runMask 384 r

/-- The context holds some unit of the run. -/
def runTouched (x : Ctx) (r : Run) : Bool :=
  if r.acc then (x.heldTiles &&& runMask 192 r) != 0 else (x.heldSlots &&& runMask 384 r) != 0

/-- Checks 1 and 2 of R144. `one` asks for COUNT 1 (HSTAT) and `tiles` for KIND 1 (ACLR). -/
def runChecks (x : Ctx) (v : Word) (one tiles : Bool) : M Run := do
  let r := runOf v
  check (r.rest == 0 && r.count != 0 && (!one || r.count == 1) && (!tiles || r.acc)) .reservedField v
  check (decide (r.first + r.count ≤ if r.acc then accUnits x.partw else handUnits x.partw)) .outOfPool v
  return r

/-- The resident contexts of a tile. -/
def residents (x : Tile) : List Ctx := x.slots.toList.filterMap id

/-- Clear the bytes and tags of a run, companions included (R145). -/
def clearRun (t : TileNo) (r : Run) (s : State) : State :=
  let tile := s.tile t
  let units := List.range' r.first r.count
  if r.acc then
    zeroBytes (s.setTile t { tile with
      accTags := units.foldl (fun v u => if h : u < 192 then v.set u {} else v) tile.accTags }) (accAt t r.first 0) (16384 * r.count)
  else
    zeroBytes (zeroBytes (s.setTile t { tile with
      slotTags := units.foldl (fun v u => if h : u < 384 then v.set u {} else v) tile.slotTags })
      (handAt t r.first 0) (8192 * r.count))
      (compAt t r.first 0) (2048 * (min (r.first + r.count) 192 - min r.first 192))

/-- CLAIM (R144, R145). -/
def execClaim (h : Hd) (a : Src) (s : State) : Host.Outcome State Fault Refusal :=
  dealer h (do
    let v ← readA a
    let (t, c) ← me
    let x ← getCtx t c
    let r ← runChecks x v false false
    let rs ← see fun s => residents (s.tile t)
    check (!rs.any (runTouched · r)) .slotExhausted v
    modMe fun y => if r.acc then { y with heldTiles := y.heldTiles ||| runMask 192 r }
      else { y with heldSlots := y.heldSlots ||| runMask 384 r }
    upd (clearRun t r)
    return {}) s (ends := true)

/-- Give a run back; bytes and tags are kept (R145). -/
def dropRun (r : Run) (y : Ctx) : Ctx :=
  if r.acc then { y with heldTiles := y.heldTiles &&& ~~~runMask 192 r } else { y with heldSlots := y.heldSlots &&& ~~~runMask 384 r }

/-- RELEASE waits while an unretired block names a unit of the run, and starts again after a context switch (R145). -/
def execRelease (h : Hd) (a : Src) (s : State) : Host.Outcome State Fault Refusal :=
  dealer h (do
    let v ← readA a
    let x ← myCtx
    let r ← runChecks x v false false
    check (runHeld x r) .slotNotHeld v
    if runNamed x r then waitFor (.release v)
    else do
      modMe (dropRun r)
      return {}) s (ends := true)

/-- RELEASE_COMPLETE: the waiting RELEASE frees its whole run in one step (R145). -/
def execReleaseComplete (t : TileNo) (c : SlotNo) (s : State) : Host.Outcome State Fault Refusal :=
  agent (do
    let x ← getCtx t c
    let w ← present x.wait
    match w.kind with
    | .release v => do
      let r := runOf v
      enabled (!runNamed x r)
      modCtx t c (dropRun r)
      finishWait t c w {}
    | _ => exit .idle) s

/-- ACLR (R144, R145). -/
def execAclr (h : Hd) (a : Src) (s : State) : Host.Outcome State Fault Refusal :=
  dealer h (do
    let v ← readA a
    let (t, c) ← me
    let x ← getCtx t c
    let r ← runChecks x v false true
    check (runHeld x r) .slotNotHeld v
    check (!runNamed x r) .accConflict v
    upd (clearRun t r)
    return {}) s (ends := true)

/-- The word of HSTAT (R146). -/
def hstatWord (tile : Tile) (x : Ctx) (c : SlotNo) (r : Run) : Word :=
  let held := runTouched x r
  let other := match tile.slots.get (1 - c) with
    | some y => runTouched y r
    | none => false
  let low := held.toNat + 2 * other.toNat
  if !held then BitVec.ofNat 64 low
  else
    let inflight := 281474976710656 * (runNamed x r).toNat
    if r.acc then
      let g := if h : r.first < 192 then tile.accTags.get ⟨r.first, h⟩ else {}
      BitVec.ofNat 64 (low + 4 * g.written.toNat + 8 * g.format.toNat + inflight)
    else
      let g := if h : r.first < 384 then tile.slotTags.get ⟨r.first, h⟩ else {}
      BitVec.ofNat 64 (low + 4 * g.valid.toNat + 8 * g.format.toNat + 128 * g.tid.toNat + 65536 * g.bandscale.toNat +
        4294967296 * g.band.toNat + inflight)

/-- HSTAT (R146). -/
def execHstat (h : Hd) (d : Dst) (a : Src) (s : State) : Host.Outcome State Fault Refusal :=
  dealer h (do
    let v ← readA a
    let (t, c) ← me
    let x ← getCtx t c
    let r ← runChecks x v true false
    op0 d (hstatWord (← see (·.tile t)) x c r)) s (ends := true)

/-- PARTW reads the partition word (R147). -/
def execPartw (h : Hd) (d : Dst) (s : State) : Host.Outcome State Fault Refusal :=
  dealer h (do op0 d (zx (← myCtx).partw)) s (ends := true)

end Sys2Proof.Machine
end

