-- ==== Sys2Proof/Machine/Binding.lean ====
section
/-!
DEFINITION. QBIND, QUNBIND and QDEPTH (R412 to R415), and TINV (R394).
-/
namespace Sys2Proof.Machine

/-! ## Binding and peer words (R412) -/

/-- The fields of a binding word and a peer word. -/
structure BindWord where
  kind   : Nat
  ep     : Fin 8
  inb    : Fin 256
  sem    : Fin 64
  tile   : Nat
  rep    : Fin 8
  remote : Bool
  dev    : Nat
  deriving DecidableEq, Repr

/-- Read a binding word and a peer word; nothing for a breach of R412. -/
def bindWord (v w : Nat) : Option BindWord :=
  let kind := bits v 0 2
  let arrival := kind == 2
  let ok :=
    decide (kind ≤ 2) && bits v 5 3 == 0 && bits v 22 42 == 0 &&
    (if arrival then bits v 2 3 == 0 else bits v 8 8 == 0 && bits v 16 6 == 0) &&
    bits w 20 44 == 0 && (bits w 12 1 == 1 || bits w 13 7 == 0) && (!arrival || w == 0) && decide (bits w 0 9 < 384)
  if ok then
    some { kind, ep := epNo (bits v 2 3), inb := winNo (bits v 8 8), sem := ⟨bits v 16 6, Nat.mod_lt _ (by decide)⟩
           tile := bits w 0 9, rep := epNo (bits w 9 3), remote := bits w 12 1 == 1, dev := bits w 13 7 }
  else none

/-- The binding word, or RESERVED_FIELD. -/
def readBind (v w : Word) : M BindWord := do
  match bindWord v.toNat w.toNat with
  | some b => return b
  | none => trap .reservedField v

/-- An endpoint is bound by a resident context of the tile (R413). -/
def boundHere (s : State) (t : TileNo) (e : Fin 8) : Bool :=
  (s.tile t).slots.toList.any fun o => o.any fun x => (s.ep t e).boundBy x.job x.num

/-- QBIND (R413). A peer on the device's own number is a loopback: the queue is a local one (R395). -/
def execQbind (h : Hd) (a c : Src) (s : State) : Host.Outcome State Fault Refusal :=
  dealer h (do
    let v ← readA a
    let w ← readC c v
    let b ← readBind v w
    let (t, k) ← me
    let x ← getCtx t k
    if b.kind = 2 then do
      let i ← see fun s => s.inw b.inb
      check (i.v && i.job == x.job && (i.arrk == 1 || i.arrk == 2)) .windowFault v
      check (!i.bound) .queueRebind v
      check ((x.sem b.sem).phaseMode == (i.arrk == 1)) .semUnbound v
      upd fun s => s.setInw b.inb { i with bound := true, btile := t, bsem := b.sem, bctx := x.num }
    else do
      check (!(← see fun s => boundHere s t b.ep)) .queueRebind v
      check (!b.remote || (← see fun s => s.routed b.dev)) .peerUnreachable v
      let own ← see (·.domain)
      upd (unbindEp t b.ep)
      upd (bindEp t b.ep { job := x.job, num := x.num, consumer := b.kind == 1, tile := b.tile, ep := b.rep,
                           dev := if b.remote && b.dev != own then some b.dev else none })
    return {}) s (ends := true)

/-- The context holds the binding that a binding word names (R414). -/
def holdsBinding (s : State) (t : TileNo) (x : Ctx) (b : BindWord) : Bool :=
  if b.kind = 2 then (s.inw b.inb).boundBy t x.job x.num && (s.inw b.inb).bsem == b.sem
  else (s.ep t b.ep).bind.any fun q => q.job == x.job && q.num == x.num && q.consumer == (b.kind == 1)

/-- An unretired block of the context names the endpoint, whatever its predicate (R414). -/
def namesEp (x : Ctx) (b : BindWord) : Bool :=
  b.kind != 2 && (allBlocks x).any fun e => (queuePorts e.linked.body).any fun p => p.1 == b.ep && p.2 == (b.kind == 0)

/-- Remove a binding (R411, R414). -/
def unbind (t : TileNo) (b : BindWord) (s : State) : State :=
  if b.kind = 2 then s.setInw b.inb (s.inw b.inb).unbind else unbindEp t b.ep s

/-- QUNBIND (R414). -/
def execQunbind (h : Hd) (a : Src) (s : State) : Host.Outcome State Fault Refusal :=
  dealer h (do
    let v ← readA a
    let b ← readBind v 0
    let (t, c) ← me
    let x ← getCtx t c
    if !(← see fun s => holdsBinding s t x b) then return {}
    else if namesEp x b then waitFor (.qunbind v)
    else do
      upd (unbind t b)
      return {}) s (ends := true)

/-- QUNBIND_IDLE: no unretired block names the endpoint any more (R414). -/
def execQunbindIdle (t : TileNo) (c : SlotNo) (s : State) : Host.Outcome State Fault Refusal :=
  agent (do
    let x ← getCtx t c
    let w ← present x.wait
    match w.kind with
    | .qunbind v => do
      let b ← present (bindWord v.toNat 0)
      enabled (!namesEp x b)
      upd (unbind t b)
      finishWait t c w {}
    | _ => exit .idle) s

/-- The depth word of an endpoint (R415). -/
def depthWord (s : State) (t : TileNo) (e : Fin 8) (x : Ctx) : Nat :=
  let p := s.ep t e
  match p.bind with
  | none => 0
  | some b =>
    if b.job = x.job ∧ b.num = x.num then
      let formed := s.formed t e
      let depth := if !formed then 0 else if b.consumer then p.entries.length else 32 - p.credits
      depth + 256 + 512 * b.consumer.toNat + 1024 * formed.toNat
    else 0

/-- QDEPTH (R415). -/
def execQdepth (h : Hd) (d : Dst) (a : Src) (s : State) : Host.Outcome State Fault Refusal :=
  dealer h (do
    let v ← readA a
    check (decide (v.toNat < 8)) .reservedField v
    let (t, c) ← me
    let x ← getCtx t c
    op0 d (BitVec.ofNat 64 (← see fun s => depthWord s t (epNo v.toNat) x))) s (ends := true)

/-! ## TINV -/

/-- Two address ranges meet; a length of 0 names the whole space (R394). -/
def rangesMeet (a n base size : Nat) : Bool := n == 0 || (decide (a < base + size) && decide (base < a + n))

/-- The pins of a job's blocks, resident and saved, on pages that overlap a range: context and LINK (R394). -/
def pinsOver (s : State) (job a n : Nat) : List (Nat × Nat) :=
  let xs := s.tiles.toList.flatMap (fun t => residents t) ++ s.saved.map (·.ctx)
  xs.flatMap fun x =>
    if x.job = job then
      (allBlocks x).filterMap fun e =>
        if e.pins.any fun p => rangesMeet a n p.2.1 (leafBytes p.2.2) then some (x.num.toNat, e.linkId) else none
    else []

/-- The invalidation step: the job's TLB entries over the range go, on every dealer (R394). -/
def tlbInvalidate (job a n : Nat) (s : State) : State :=
  let keep (e : TlbEntry) : Bool := !(e.job == job && rangesMeet a n e.base (leafBytes e.size))
  { s with tiles := s.tiles.map fun t => { t with tlb := t.tlb.filter keep } }

/-- TINV (R394). -/
def execTinv (h : Hd) (a c : Src) (s : State) : Host.Outcome State Fault Refusal :=
  dealer h (do
    let v ← readA a
    check (spaceOf v == 0) .addressSpace v
    check (v.toNat % 65536 == 0) .misalignedData v
    let n ← readC c v
    check (n.toNat % 65536 == 0 && (n != 0 || v == 0)) .reservedField v
    let (t, k) ← me
    let x ← getCtx t k
    let _ ← release t .dev
    upd (tlbInvalidate x.job v.toNat n.toNat)
    let ps ← see fun s => pinsOver s x.job v.toNat n.toNat
    if ps.isEmpty then do
      dealerAcquire t []
      return {}
    else waitFor (.tinv ps)) s (ends := true)

/-- A pin of a LINK still stands. -/
def pinStands (s : State) (job : Nat) (p : Nat × Nat) : Bool :=
  let has (x : Ctx) : Bool := x.job == job && x.num.toNat == p.1 && (allBlocks x).any fun e => e.linkId == p.2
  (s.tiles.toList.any fun t => (residents t).any has) || s.saved.any fun e => has e.ctx

/-- TINV_PINS_RELEASED: every pin taken before the invalidation step has been released (R394). -/
def execTinvPinsReleased (t : TileNo) (c : SlotNo) (s : State) : Host.Outcome State Fault Refusal :=
  agent (do
    let x ← getCtx t c
    let w ← present x.wait
    match w.kind with
    | .tinv ps => do
      enabled (← see fun s => ps.all fun p => !pinStands s x.job p)
      dealerAcquire t []
      finishWait t c w {}
    | _ => exit .idle) s

end Sys2Proof.Machine
end

