-- ==== Sys2Proof/Machine/Crypto.lean ====
section
/-!
DEFINITION. What the boot ROM computes over a firmware image (R447): SHA-256, and the verification of an Ed25519 signature with SHA-512. The spec names
the two; their definitions are those of FIPS 180-4 and RFC 8032 (PRESUMED, log 160).
-/
namespace Sys2Proof.Machine

/-! ## SHA-2 -/

/-- The largest number of n more bits above r whose k-th power is at most v. -/
def rootUp (k v : Nat) : Nat → Nat → Nat
  | 0, r => r
  | n + 1, r => rootUp k v n (if (r + 2 ^ n) ^ k ≤ v then r + 2 ^ n else r)

/-- The first 80 prime numbers. -/
def primes80 : List Nat :=
  [2, 3, 5, 7, 11, 13, 17, 19, 23, 29, 31, 37, 41, 43, 47, 53, 59, 61, 67, 71, 73, 79, 83, 89, 97, 101, 103, 107, 109, 113, 127, 131, 137, 139, 149,
   151, 157, 163, 167, 173] ++
  [179, 181, 191, 193, 197, 199, 211, 223, 227, 229, 233, 239, 241, 251, 257, 263, 269, 271, 277, 281, 283, 293, 307, 311, 313, 317, 331, 337, 347,
   349, 353, 359, 367, 373, 379, 383, 389, 397, 401, 409]

/-- The first 64 bits of the fractional part of the k-th root of a prime number. -/
def rootBits (k p : Nat) : Nat := rootUp k (p * 2 ^ (64 * k)) 69 0 % 2 ^ 64

/-- A function of the family: the bits of its words, its rounds, and the amounts of its four sums of rotations; the third of a small sum shifts. -/
structure Sha where
  w      : Nat
  rounds : Nat
  e0     : Nat × Nat × Nat
  e1     : Nat × Nat × Nat
  d0     : Nat × Nat × Nat
  d1     : Nat × Nat × Nat

/-- SHA-256. -/
def sha256Fn : Sha := ⟨32, 64, (2, 13, 22), (6, 11, 25), (7, 18, 3), (17, 19, 10)⟩
/-- SHA-512. -/
def sha512Fn : Sha := ⟨64, 80, (28, 34, 39), (14, 18, 41), (1, 8, 7), (19, 61, 6)⟩

/-- Rotate a word to the right. -/
def Sha.rotr (f : Sha) (x n : Nat) : Nat := (x >>> n ||| x <<< (f.w - n)) % 2 ^ f.w
/-- Three rotations, summed without carries. -/
def Sha.big (f : Sha) (n : Nat × Nat × Nat) (x : Nat) : Nat := f.rotr x n.1 ^^^ f.rotr x n.2.1 ^^^ f.rotr x n.2.2
/-- Two rotations and a shift, summed without carries. -/
def Sha.small (f : Sha) (n : Nat × Nat × Nat) (x : Nat) : Nat := f.rotr x n.1 ^^^ f.rotr x n.2.1 ^^^ x >>> n.2.2
/-- The round constants: cube roots of the primes. -/
def Sha.consts (f : Sha) : List Nat := (primes80.take f.rounds).map fun p => rootBits 3 p / 2 ^ (64 - f.w)
/-- The initial hash value: square roots of the first eight primes. -/
def Sha.init (f : Sha) : List Nat := (primes80.take 8).map fun p => rootBits 2 p / 2 ^ (64 - f.w)

/-- One round: the working variables a to h, and the schedule's next 16 words. -/
def Sha.round (f : Sha) (st : List Nat × List Nat) (k : Nat) : List Nat × List Nat :=
  match st.1 with
  | [a, b, c, d, e, g, h, i] =>
    let w (j : Nat) : Nat := st.2[j]?.getD 0
    let t1 := i + f.big f.e1 e + ((e &&& g) ^^^ ((2 ^ f.w - 1 - e) &&& h)) + k + w 0
    let t2 := f.big f.e0 a + ((a &&& b) ^^^ (a &&& c) ^^^ (b &&& c))
    let next := (f.small f.d1 (w 14) + w 9 + f.small f.d0 (w 1) + w 0) % 2 ^ f.w
    ([(t1 + t2) % 2 ^ f.w, a, b, c, (d + t1) % 2 ^ f.w, e, g, h], st.2.drop 1 ++ [next])
  | _ => st

/-- A number from bytes, the most significant first. -/
def beNat (bs : List Byte) : Nat := bs.foldl (fun a b => 256 * a + b.toNat) 0
/-- The n low bytes of a number, the most significant first. -/
def natBe (n v : Nat) : List Byte := (natLe n v).reverse

/-- The hash value after one block. -/
def Sha.block (f : Sha) (h : List Nat) (b : List Byte) : List Nat :=
  let n := f.w / 8
  let ws := (List.range 16).map fun i => beNat ((b.drop (n * i)).take n)
  ((f.consts.foldl f.round (h, ws)).1.zip h).map fun p => (p.1 + p.2) % 2 ^ f.w

/-- A message with its padding: a one bit, zeros, and its length in bits in two words. -/
def Sha.pad (f : Sha) (m : List Byte) : List Byte :=
  let size := 2 * f.w
  let zeros := (2 * size - 1 - f.w / 4 - m.length % size) % size
  m ++ 0x80 :: List.replicate zeros 0 ++ natBe (f.w / 4) (8 * m.length)

/-- The digest of a message. -/
def Sha.digest (f : Sha) (m : List Byte) : List Byte :=
  let bs := f.pad m
  let size := 2 * f.w
  ((List.range (bs.length / size)).foldl (fun h i => f.block h ((bs.drop (size * i)).take size)) f.init).flatMap (natBe (f.w / 8))

/-! ## Ed25519 -/

/-- The prime of the field. -/
def edP : Nat := 2 ^ 255 - 19
/-- The order of the base point. -/
def edL : Nat := 2 ^ 252 + 27742317777372353535851937790883648493

/-- b to the power e, modulo the prime, for an e of n bits. -/
def edPow (b : Nat) : Nat → Nat → Nat
  | 0, _ => 1
  | n + 1, e => let r := edPow (b * b % edP) n (e / 2); if e % 2 = 1 then b * r % edP else r
/-- The inverse of a number in the field. -/
def edInv (b : Nat) : Nat := edPow b 255 (edP - 2)
/-- The negative of a number in the field. -/
def edNeg (b : Nat) : Nat := (edP - b % edP) % edP
/-- The constant d of the curve: -121665 / 121666. -/
def edD : Nat := edNeg 121665 * edInv 121666 % edP

/-- A point of the curve, in projective coordinates. -/
structure EdPt where
  x : Nat
  y : Nat
  z : Nat

/-- The neutral point. -/
def EdPt.zero : EdPt := ⟨0, 1, 1⟩
/-- The sum of two points. -/
def EdPt.add (p q : EdPt) : EdPt :=
  let a := p.z * q.z % edP
  let b := a * a % edP
  let c := p.x * q.x % edP
  let d := p.y * q.y % edP
  let e := edD * (c * d % edP) % edP
  let f := b + edNeg e
  let g := b + e
  ⟨a * (f * ((p.x + p.y) * (q.x + q.y) + edNeg c + edNeg d) % edP) % edP, a * (g * (d + c) % edP) % edP, f * g % edP⟩
/-- k times a point, for a k of n bits. -/
def EdPt.times (p : EdPt) : Nat → Nat → EdPt
  | 0, _ => .zero
  | n + 1, k => let r := EdPt.times (p.add p) n (k / 2); if k % 2 = 1 then p.add r else r
/-- Two points are the same. -/
def EdPt.same (p q : EdPt) : Bool := p.x * q.z % edP == q.x * p.z % edP && p.y * q.z % edP == q.y * p.z % edP

/-- The point that a number of 256 bits encodes: y, and above it the lowest bit of x. -/
def edPoint (n : Nat) : Option EdPt :=
  let y := n % 2 ^ 255
  let sign := n / 2 ^ 255 % 2
  let u := (y * y + edP - 1) % edP
  let v := (edD * (y * y % edP) + 1) % edP
  let v3 := v * v % edP * v % edP
  let x0 := u * v3 % edP * edPow (u * (v3 * v3 % edP * v % edP) % edP) 255 ((edP - 5) / 8) % edP
  let r := v * (x0 * x0 % edP) % edP
  let x := if r = u then some x0 else if r = edNeg u then some (x0 * edPow 2 255 ((edP - 1) / 4) % edP) else none
  if edP ≤ y then none
  else x.bind fun x => if x = 0 ∧ sign = 1 then none else some ⟨if x % 2 = sign then x else edNeg x, y, 1⟩

/-- The base point: y is 4/5, and x is even. -/
def edBase : EdPt := (edPoint (4 * edInv 5 % edP)).getD .zero

/-- A signature of 64 bytes over a message verifies under a public key. RFC 8032 lets a verifier check the equation or its eightfold: `eight` (log 160). -/
def edVerify (eight : Bool) (key : Nat) (m sig : List Byte) : Bool :=
  let r := leNat (sig.take 32)
  let s := leNat (sig.drop 32)
  match edPoint key, edPoint r with
  | some a, some p =>
    let k := leNat (sha512Fn.digest (sig.take 32 ++ natLe 32 key ++ m)) % edL
    let lhs := edBase.times 253 s
    let rhs := p.add (a.times 253 k)
    decide (s < edL) && (if eight then (lhs.times 4 8).same (rhs.times 4 8) else lhs.same rhs)
  | _, _ => false

end Sys2Proof.Machine
end

