-- ==== Sys2Proof/Machine/Front.lean ====
section
/-!
DEFINITION. The front end: command queues and their spaces (R432 to R434), the header of a packet and the checks made when it is taken
(R435, R443), indirect buffers (R444), and completion words (R436).
-/
namespace Sys2Proof.Machine

/-! ## Records of the error ring -/

/-- A record of a physical event (R451). -/
def physRec (s : State) (kind src addr info : Nat) : ErrRec :=
  { cause := kind, phys := true, src, ctx := 0, job := 0, frame := s.frame, addr := BitVec.ofNat 64 addr, info := BitVec.ofNat 64 info }

/-- Record a physical event; its INFO is a free value where no rule says what it holds. -/
def recordPhys (kind src addr : Nat) : M Unit := do
  let v ← drawNat
  upd fun s => s.addErr (physRec s kind src addr v)

/-- SRC of a Fernen port. -/
def fernenSrc (p : Nat) : Nat := 0xF1 + p

/-- SRC of an agent of the register map: port 0 or 1, the banker (2, through the debug port too), or the leaf controller of cluster p - 3 (R451). -/
def agentSrc (p : Nat) : Nat := if p < 2 then fernenSrc p else if p = 2 then 0xF0 else p - 3

/-- Record an access of the register map, or of a host port, that is ignored and counted (R428, R429, R431, R434). -/
def portError (p addr : Nat) : M Unit := recordPhys 10 (agentSrc p) addr

/-! ## Queues -/

/-- A queue number in range. -/
def queueNo (q : Nat) : M (Fin 256) := if h : q < 256 then pure ⟨q, h⟩ else exit .idle
/-- A queue. -/
def State.queue (s : State) (q : Fin 256) : Queue := s.queues.get q
/-- Change a queue. -/
def State.modQueue (q : Fin 256) (f : Queue → Queue) (s : State) : State := { s with queues := s.queues.set q (f (s.queue q)) }
/-- SIZE. -/
def Queue.size (k : Queue) : Nat := 2 ^ k.logsz
/-- The queue's addresses name host memory (R434). -/
def Queue.host (k : Queue) : Bool := decide (k.space < 2)
/-- The address of entry i (R432). -/
def Queue.entry (k : Queue) (i : Nat) : Nat := k.base + 64 * (i % k.size)

/-- The root table of a queue's space 3: its job's, or PTROOT where the job is not live (R432). -/
def queueRoot (s : State) (k : Queue) : Nat :=
  match s.job? k.job with
  | some j => j.ptbase
  | none => k.ptroot

/-- Where an address of a queue's space lies, none where it leads nowhere (R432, R434). -/
def queueAt (s : State) (k : Queue) (a : Nat) (write : Bool) : Option Nat :=
  match k.space with
  | 0 => some (hostAt 0 (a % 2 ^ 64))
  | 1 => some (hostAt 1 (a % 2 ^ 64))
  | 2 => if s.physOk a then some a else none
  | _ =>
    if a / 2 ^ 60 ≠ 0 then none
    else match (walkFrom s false k.job (queueRoot s k) a).leaf with
      | .error _ => none
      | .ok e =>
        if (write && !e.w) || (grantFault s k.job (leafPa e a) write).isSome then none else some (leafPa e a)

/-- A place of the physical map that a packet may name (R20). -/
def physAt (s : State) (a : Nat) : Option Nat := if s.physOk a then some a else none

/-- n bytes from an address upward, where every one has a place; unreadable ones as zeros (R381). -/
def bytesVia (s : State) (at' : Nat → Option Nat) (a : Nat) : Nat → Option (List Byte)
  | 0 => some []
  | n + 1 => do
    let k ← at' a
    let r ← bytesVia s at' (a + 1) n
    return readBytes s k 1 ++ r

/-- How many of n bytes from an address upward cannot be read (R381). -/
def badVia (s : State) (at' : Nat → Option Nat) (a : Nat) : Nat → Nat
  | 0 => 0
  | n + 1 => ((at' a).map fun k => badBytes s k 1).getD 0 + badVia s at' (a + 1) n

/-- The banker records bytes that the front end, a host port or firmware could not read: they were zeros (R381, R453, log 111). -/
def recordBad (a bad : Nat) : M Unit :=
  if bad = 0 then pure ()
  else upd fun s => s.addErr { cause := Cause.eccStrict.code, phys := false, src := 0xF0, ctx := 0, job := 0, frame := s.frame
                               addr := BitVec.ofNat 64 a, info := BitVec.ofNat 64 bad }

/-- The number in n bytes from an address upward. -/
def natVia (s : State) (at' : Nat → Option Nat) (a n : Nat) : Option Nat := (bytesVia s at' a n).map leNat

/-- Write bytes from an address upward, where every one has a place. -/
def writeVia (at' : Nat → Option Nat) (a : Nat) (bs : List Byte) (s : State) : Option State :=
  match bs with
  | [] => some s
  | b :: r => do
    let k ← at' a
    writeVia at' (a + 1) r (writeBytes s k [b])

/-! ## Packets -/

/-- A packet as it was taken: its bytes as one number, and the HEAD value at which it was taken. -/
structure Packet where
  raw : Nat
  idx : Nat
  deriving DecidableEq, Repr

/-- n bits of a packet from bit lo of byte off. -/
def Packet.get (p : Packet) (off lo n : Nat) : Nat := bits p.raw (8 * off + lo) n
/-- TYPE. -/
def Packet.type (p : Packet) : Nat := p.get 0 0 8
/-- LEN. -/
def Packet.len (p : Packet) : Nat := p.get 0 8 4
/-- SIGEN. -/
def Packet.sigen (p : Packet) : Bool := p.get 0 12 1 == 1
/-- BAR. -/
def Packet.bar (p : Packet) : Bool := p.get 0 13 1 == 1
/-- SIGADDR. -/
def Packet.sig (p : Packet) : Nat := p.get 8 0 64

/-- The packet as one that has started. -/
def Packet.start (p : Packet) (status : Option Nat) : Pkt :=
  { type := p.type, idx := p.idx, sigen := p.sigen, sig := p.sig, status }

/-- The entries of a packet of each type (R437). -/
def lenOf (ty : Nat) : Nat := if ty = 1 then 2 else 1

/-- The header holds no reserved content: its reserved bits, and a SIGADDR that R435 does not allow (R435, R443). -/
def Packet.headerOk (p : Packet) : Bool :=
  p.get 0 14 50 == 0 && p.sig % 8 == 0 && (p.sigen || p.sig == 0)

/-- The body of a packet holds no reserved content: bits that no field covers, and the low bits of an address that its field keeps at
zero (R437, R439, R441, R442). A WRAP with SIGEN = 1 counts as reserved content: R437 asks for SIGEN = 0 (log 62). -/
def Packet.bodyOk (p : Packet) : Bool :=
  match p.type with
  | 0 => p.get 16 0 384 == 0 && !p.sigen
  | 1 => p.get 56 24 8 == 0 && p.get 60 7 25 == 0 && p.get 96 0 256 == 0 && p.get 60 4 2 != 3 && p.get 48 0 4 == 0 && p.get 64 0 6 == 0
  | 2 => p.get 16 6 2 == 0 && p.get 16 13 51 == 0 && p.get 56 0 64 == 0 && p.get 32 0 4 == 0 && p.get 40 0 6 == 0
  | 3 => p.get 40 1 191 == 0
  | 4 | 5 => p.get 16 0 3 == 0 && p.get 32 1 255 == 0
  | 6 => p.get 16 0 6 == 0 && p.get 24 16 304 == 0
  | 7 => p.get 16 7 57 == 0 && p.get 40 0 192 == 0
  | _ => p.get 16 0 384 == 0

/-- The checks of a packet that its first entry decides, in order: the HCAUSE of the first that fails (R443, R444). -/
def entryFault (k : Queue) (p : Packet) : Option Nat :=
  let left := k.stack.head?.map (·.left)
  if 9 ≤ p.type ∨ p.len ≠ lenOf p.type ∨ k.size < p.len ∨ left.any (· < p.len) then some 1
  else if left.isNone ∧ k.size < k.head % k.size + p.len then some 2
  else if (p.type = 6 ∧ 4 ≤ k.stack.length) ∨ (p.type = 0 ∧ left.isSome) then some 3
  else none

/-- The checks made when a packet is taken, in order: the HCAUSE of the first that fails (R443, R444). -/
def takeFault (k : Queue) (p : Packet) : Option Nat :=
  match entryFault k p with
  | some c => some c
  | none => if !p.headerOk || !p.bodyOk then some 5 else none

/-- The address of the next entry: in the innermost open buffer, or in the ring. -/
def Queue.next (k : Queue) : Nat :=
  match k.stack with
  | b :: _ => b.addr
  | [] => k.entry k.head

/-- The next packet as it stands in memory: one entry, or two for a LAUNCH that passes the checks of its first one; none where it cannot be
read (R433, R443). -/
def nextPacket (s : State) (k : Queue) : Option Packet := do
  let v ← natVia s (queueAt s k · false) k.next 64
  if v % 256 = 1 ∧ (entryFault k ⟨v, k.head⟩).isNone then
    let w ← natVia s (queueAt s k · false) (k.next + 64) 64
    return ⟨v + 2 ^ 512 * w, k.head⟩
  else return ⟨v, k.head⟩

/-- The queue past a packet: HEAD advances by LEN, for a WRAP to the next multiple of SIZE; in a buffer its own place does (R433, R437,
R444). -/
def Queue.advance (k : Queue) (p : Packet) : Queue :=
  match k.stack with
  | b :: r => { k with stack := { b with addr := b.addr + 64 * p.len, left := b.left - p.len } :: r }
  | [] => { k with head := (if p.type = 0 then (k.head / k.size + 1) * k.size else k.head + p.len) % 4294967296 }

/-- Buffers whose packets have all started are closed, the innermost first, and their INDIRECT is complete (R444). -/
def closeLevels (stack : List Indirect) (done : List Pkt) : List Indirect × List Pkt :=
  match stack with
  | [] => ([], done)
  | b :: r => if b.left = 0 then closeLevels r (done ++ [{ b.pkt with status := some 0 }]) else (b :: r, done)

/-- Close what can be closed. -/
def Queue.close (k : Queue) : Queue :=
  let c := closeLevels k.stack k.started
  { k with stack := c.1, started := c.2 }

/-- The queue halts (R443). -/
def Queue.halted (k : Queue) (cause : Nat) : Queue :=
  { k with halt := true, hcause := cause, malcnt := min (k.malcnt + 1) 0xFFFFFFFF }

/-- The queue halts and a leaf controller records PACKET_MALFORMED; no rule says which one. R443 says so of a malformed packet; other halts count in
MALCNT too, and what is counted is recorded (R432, R433, R451, log 65). -/
def haltMalformed (q : Fin 256) (k : Queue) (cause : Nat) : M Unit := do
  upd (·.modQueue q (·.halted cause))
  let c ← drawNat
  let v ← drawNat
  upd fun s => s.addErr { cause := Cause.packetMalformed.code, phys := false, src := c % 48, ctx := 0, job := k.job, frame := s.frame,
                          addr := BitVec.ofNat 64 k.next, info := BitVec.ofNat 64 v }

/-- The queue halts because its ring or a buffer could not be read: a port's failure is recorded as such, another one as the halt (R434, R451). -/
def haltUnread (q : Fin 256) (k : Queue) : M Unit :=
  if k.host then do
    upd (·.modQueue q (·.halted 6))
    portError k.space k.next
  else haltMalformed q k 6

/-- A queue whose next packet may be taken (R426, R433, R437, R443, R450). -/
def takes (s : State) (k : Queue) : Bool :=
  s.ready && k.en && !k.halt && k.logsz != 0 && !k.desch && k.wait.isNone && (!k.stack.isEmpty || k.tail != k.head)

/-- A grid that a packet of the queue launched has records that the leaf has still to push, so that its packet counts as not yet started for
a SIGNAL (R438). -/
def State.pushing (s : State) (k : Queue) : Bool :=
  s.clusters.toList.any fun c => c.pushes.any fun r =>
    match hwXlate s r.1 r.2.1.toNat true with
    | some pa => recState s pa == 2 && k.started.any fun p => p.grid == some (r.1, recParent s pa)
    | none => false

/-- Take the next packet of a queue if it is of a type: it halts the queue, or waits for the packets before it, or starts (R433, R438,
R443). `input.who` = 1 says that the port reports the read of the entry as failed. -/
def taking (n ty : Nat) (body : Fin 256 → Queue → Packet → M Unit) : M Unit := do
  let q ← queueNo n
  let k ← see (·.queue q)
  enabled (← see fun s => takes s k)
  if (← see fun s => s.input.who == 1) && k.host then haltUnread q k
  else match ← see fun s => nextPacket s k with
    | none => haltUnread q k
    | some p => do
      let s ← see id
      recordBad k.next (badVia s (queueAt s k · false) k.next (if p.type = 1 ∧ (entryFault k p).isNone then 128 else 64))
      match takeFault k p with
      | some cause => haltMalformed q k cause
      | none => do
        enabled (p.type == ty && (!(p.bar || ty == 8) || k.started.isEmpty) && (ty != 4 || !(← see fun s => s.pushing k)))
        upd (·.modQueue q (·.advance p))
        body q k p
        upd (·.modQueue q Queue.close)

/-- A packet has started. -/
def startPkt (q : Fin 256) (p : Pkt) : M Unit := upd (·.modQueue q fun k => { k with started := k.started ++ [p] })

/-- The port reports an access of the packet as failed (R434). -/
def accessFails (k : Queue) : M Bool := see fun s => s.input.flag && k.host

/-- A packet that starts and is over in one step: STATUS 0, or 1 where its accesses failed, which is recorded for a host port (R434). -/
def finishPkt (q : Fin 256) (k : Queue) (p : Packet) (ok : Bool) (addr : Nat) : M Unit := do
  if !ok && k.host then portError k.space addr else pure ()
  startPkt q (p.start (some (if ok then 0 else 1)))

/-! ## Completion (R436) -/

/-- The completion word. -/
def completionWord (p : Pkt) (status : Nat) : Nat := status + 256 * p.type + 65536 * p.idx + 9223372036854775808

/-- The lock that LOAD_MODEL takes as the banker (R442). -/
def modelLock : Fin 16 := 1

/-- PACKET_COMPLETION: packet idx of those that have started completes: its completion word is written, and a LOAD_MODEL releases its
lock. A completion write that a port reports as failed is recorded (R434). -/
def execPacketCompletion (q idx : Nat) (s : State) : Host.Outcome State Fault Refusal :=
  agent (do
    let q ← queueNo q
    let k ← see (·.queue q)
    let p ← present k.started[idx]?
    let st ← present p.status
    upd (·.modQueue q fun k => { k with started := k.started.eraseIdx idx })
    if p.type = 7 then upd fun s => { s with hsems := s.hsems.set modelLock { s.hsems.get modelLock with owner := 0 } } else pure ()
    if p.sigen then
      match ← see fun s => queueAt s k p.sig true with
      | none => pure ()
      | some a =>
        if ← accessFails k then portError k.space p.sig
        else upd fun s => writeNat s a 8 (completionWord p st)
    else pure ()) s

end Sys2Proof.Machine
end

