-- ==== Sys2Proof/Machine/LoadStore.lean ====
section
/-!
DEFINITION. Loads and stores (R106, R124, R126) and the atomics (R362 to R364), on memory of every space, peer windows among them.
-/
namespace Sys2Proof.Machine

/-! ## Loads and stores -/

/-- A load of n bytes, extended by f (R124). A stepped address register that is also the destination keeps the loaded value. -/
def loadOp (h : Hd) (d : Dst) (a : Src) (m : Option (Fin 7)) (off : BitVec 4) (n : Nat) (f : Nat → Word) (s : State) :
    Host.Outcome State Fault Refusal :=
  dealer h (do
    let v ← readA a
    let (t, c) ← me
    let x ← getCtx t c
    let addr := memAddr v m off n
    accessChecks addr n
    let r := f (leNat (← loadAny t c x addr n 0))
    modMe fun y => (memStep y a m off n).setDst d r
    return { val := some r }) s

/-- A store of n bytes; the data is read before the address register steps (R124). -/
def storeOp (h : Hd) (x : Src) (a : Src) (m : Option (Fin 7)) (off : BitVec 4) (n : Nat) (s : State) :
    Host.Outcome State Fault Refusal :=
  dealer h (do
    let v ← readA a
    let y ← readC x v
    let (t, c) ← me
    let z ← getCtx t c
    let addr := memAddr v m off n
    accessChecks addr n
    storeAny t c z addr (natLe n y.toNat) 0
    modMe fun y => memStep y a m off n
    return {}) s

/-- LBU (R124). -/
def execLbu (h : Hd) (d : Dst) (a : Src) (m : Option (Fin 7)) (off : BitVec 4) (s : State) : Host.Outcome State Fault Refusal :=
  loadOp h d a m off 1 (fun v => zx (BitVec.ofNat 8 v)) s
/-- LHU (R124). -/
def execLhu (h : Hd) (d : Dst) (a : Src) (m : Option (Fin 7)) (off : BitVec 4) (s : State) : Host.Outcome State Fault Refusal :=
  loadOp h d a m off 2 (fun v => zx (BitVec.ofNat 16 v)) s
/-- LWU (R124). -/
def execLwu (h : Hd) (d : Dst) (a : Src) (m : Option (Fin 7)) (off : BitVec 4) (s : State) : Host.Outcome State Fault Refusal :=
  loadOp h d a m off 4 (fun v => zx (BitVec.ofNat 32 v)) s
/-- LD (R124). -/
def execLd (h : Hd) (d : Dst) (a : Src) (m : Option (Fin 7)) (off : BitVec 4) (s : State) : Host.Outcome State Fault Refusal :=
  loadOp h d a m off 8 (BitVec.ofNat 64) s
/-- LB (R124). -/
def execLb (h : Hd) (d : Dst) (a : Src) (m : Option (Fin 7)) (off : BitVec 4) (s : State) : Host.Outcome State Fault Refusal :=
  loadOp h d a m off 1 (fun v => sx (BitVec.ofNat 8 v)) s
/-- LH (R124). -/
def execLh (h : Hd) (d : Dst) (a : Src) (m : Option (Fin 7)) (off : BitVec 4) (s : State) : Host.Outcome State Fault Refusal :=
  loadOp h d a m off 2 (fun v => sx (BitVec.ofNat 16 v)) s
/-- LW (R124). -/
def execLw (h : Hd) (d : Dst) (a : Src) (m : Option (Fin 7)) (off : BitVec 4) (s : State) : Host.Outcome State Fault Refusal :=
  loadOp h d a m off 4 (fun v => sx (BitVec.ofNat 32 v)) s
/-- SB (R124). -/
def execSb (h : Hd) (x : Src) (a : Src) (m : Option (Fin 7)) (off : BitVec 4) (s : State) : Host.Outcome State Fault Refusal :=
  storeOp h x a m off 1 s
/-- SH (R124). -/
def execSh (h : Hd) (x : Src) (a : Src) (m : Option (Fin 7)) (off : BitVec 4) (s : State) : Host.Outcome State Fault Refusal :=
  storeOp h x a m off 2 s
/-- SW (R124). -/
def execSw (h : Hd) (x : Src) (a : Src) (m : Option (Fin 7)) (off : BitVec 4) (s : State) : Host.Outcome State Fault Refusal :=
  storeOp h x a m off 4 s
/-- SD (R124). -/
def execSd (h : Hd) (x : Src) (a : Src) (m : Option (Fin 7)) (off : BitVec 4) (s : State) : Host.Outcome State Fault Refusal :=
  storeOp h x a m off 8 s

/-! ## Atomics -/

/-- The new value of an atomic on n bytes (R363, R364), none where a compare fails: operation code (R45), old value, operand, new
value of AMOCAS. -/
def amoNew (op n old x y : Nat) : Option Nat :=
  match op with
  | 0 => some ((old + x) % 2 ^ (8 * n))
  | 1 => some (old &&& x)
  | 2 => some (old ||| x)
  | 3 => some (old ^^^ x)
  | 4 => some (if signedOf old ≤ signedOf x then old else x)
  | 5 => some (if signedOf old ≤ signedOf x then x else old)
  | 6 => some x
  | _ => if old = x then some y else none
where
  /-- The signed value at the width of the atomic. -/
  signedOf (v : Nat) : Int := if 2 * v < 2 ^ (8 * n) then (v : Int) else (v : Int) - 2 ^ (8 * n)

/-- Publish a release at a place: an atomic write (R347). -/
def publishAtomic (t k n : Nat) (sc : Scope) (p : Option Stamp) (s : State) : State :=
  { s with pubs := ⟨k, n, false, sc, t, p⟩ :: s.pubs }

/-- Step 3 of R106 for an atomic, with write permission (R362). -/
def amoPlace (t : TileNo) (x : Ctx) (a : Word) (sc : Scope) (n : Nat) : M Place := do
  check (spaceOk a) .addressSpace a
  check (spaceOf a != 0xC || sc == .dom) .atomicSpace a
  check (a.toNat % n == 0) .misalignedData a
  resolve t x a n true

/-- An atomic access outside the windows: race check, the read, the release, the write, in one step (R362, R363). The old value,
and the releases it finds. -/
def amoLocal (t : TileNo) (c : SlotNo) (x : Ctx) (a : Word) (p : Place) (k op n : Nat) (sc : Scope) (ord : Order) (v w : Nat) :
    M (Nat × List Pub) := do
  let peek ← see fun s => readNat s k n
  let writes := (amoNew op n peek v w).isSome
  raceStep t x a p writes true
  let old := leNat (← eccRead t c x a k n)
  let ps ← see fun s => pubsOver s k n
  noteFences t c ps
  let r ← if ord.isRel then release t sc else pure none
  match amoNew op n old v w with
  | none => do
    match p with
    | .phys pa _ _ => meterPa t pa n
    | .pad _ _ | .window _ _ => pure ()
    return (old, ps)
  | some new => do
    placeWrite t x p (natLe n new) true
    if ord.isRel then upd (publishAtomic t k n sc r) else pure ()
    return (old, ps)

/-- The access of an atomic at its place (R363): the old value, and the releases it finds. -/
def amoAccess (t : TileNo) (c : SlotNo) (x : Ctx) (a : Word) (p : Place) (op n : Nat) (sc : Scope) (ord : Order) (v w : Nat) :
    M (Nat × List Pub) := do
  match p with
  | .phys pa _ _ => do
    modTile t fun y => { y with dcache := dropLine y.dcache (pa / 64 * 64) }
    amoLocal t c x a p pa op n sc ord v w
  | .pad u o => amoLocal t c x a p (spAt u o) op n sc ord v w
  | .window w' o => do
    let (bs, ps) ← windowAccess t c x a w' o n (.atomic op n (BitVec.ofNat 64 v) (BitVec.ofNat 64 w)) .combine 0
      (if ord.isRel then some sc else none)
    return (leNat bs, ps)

/-- What an atomic acquires from the releases it found, and its place among the AR operations (R347, R348, R363). -/
def amoAcquire (t : TileNo) (sc : Scope) (ord : Order) (ps : List Pub) : M Unit := do
  if ord.isAcq then dealerAcquire t (ps.filterMap fun q => if !q.fence && covering q.scope q.tile sc t then q.stamp else none)
  else pure ()
  if ord == .ar then do
    let q ← see fun s => ((s.tile t).ep + 4294967295) % 4294967296
    soEnter t sc (if sc = .tile then none else some (t.val, q))
  else pure ()

/-- An atomic (R363): its access, then its acquire. -/
def amoOp (h : Hd) (word : Bool) (sc : Scope) (ord : Order) (d : Fin 48) (a : Src) (op : Nat) (s : State) :
    Host.Outcome State Fault Refusal :=
  dealer h (do
    let addr ← readA a
    let (t, c) ← me
    let x ← getCtx t c
    let n := if word then 4 else 8
    let v := (x.regs.get d).toNat % 2 ^ (8 * n)
    let w := (x.regs.toList[d.val + 1]?.getD 0).toNat % 2 ^ (8 * n)
    let p ← amoPlace t x addr sc n
    let (old, ps) ← amoAccess t c x addr p op n sc ord v w
    amoAcquire t sc ord ps
    let r := if word then sx32 (BitVec.ofNat 64 old) else BitVec.ofNat 64 old
    modMe (·.setReg d r)
    return { val := some r }) s (ends := true)

/-- AMOADD (R363). -/
def execAmoadd (h : Hd) (word : Bool) (sc : Scope) (ord : Order) (d : Fin 48) (a : Src) (s : State) :
    Host.Outcome State Fault Refusal := amoOp h word sc ord d a 0 s
/-- AMOAND (R363). -/
def execAmoand (h : Hd) (word : Bool) (sc : Scope) (ord : Order) (d : Fin 48) (a : Src) (s : State) :
    Host.Outcome State Fault Refusal := amoOp h word sc ord d a 1 s
/-- AMOOR (R363). -/
def execAmoor (h : Hd) (word : Bool) (sc : Scope) (ord : Order) (d : Fin 48) (a : Src) (s : State) :
    Host.Outcome State Fault Refusal := amoOp h word sc ord d a 2 s
/-- AMOXOR (R363). -/
def execAmoxor (h : Hd) (word : Bool) (sc : Scope) (ord : Order) (d : Fin 48) (a : Src) (s : State) :
    Host.Outcome State Fault Refusal := amoOp h word sc ord d a 3 s
/-- AMOMIN (R363). -/
def execAmomin (h : Hd) (word : Bool) (sc : Scope) (ord : Order) (d : Fin 48) (a : Src) (s : State) :
    Host.Outcome State Fault Refusal := amoOp h word sc ord d a 4 s
/-- AMOMAX (R363). -/
def execAmomax (h : Hd) (word : Bool) (sc : Scope) (ord : Order) (d : Fin 48) (a : Src) (s : State) :
    Host.Outcome State Fault Refusal := amoOp h word sc ord d a 5 s
/-- AMOSWAP (R363). -/
def execAmoswap (h : Hd) (word : Bool) (sc : Scope) (ord : Order) (d : Fin 48) (a : Src) (s : State) :
    Host.Outcome State Fault Refusal := amoOp h word sc ord d a 6 s
/-- AMOCAS (R364). -/
def execAmocas (h : Hd) (word : Bool) (sc : Scope) (ord : Order) (d : Fin 48) (a : Src) (s : State) :
    Host.Outcome State Fault Refusal := amoOp h word sc ord d a 7 s

end Sys2Proof.Machine
end

