-- ==== Sys2Proof/Machine/Peers.lean ====
section
/-!
DEFINITION. The receiver's half of the windows: the checks and holds of a message, what it does, and what it counts (R402, R404, R406,
R408); the answer at the sender (R403, R404); and lost messages with their notices (R405, R407).
-/
namespace Sys2Proof.Machine

/-! ## A message at its destination -/

/-- How a message ends at its destination. -/
inductive Verdict
  | refused
  | held
  | done (bytes : List Byte) (nan sat : Nat) (pubs : List Pub) (bad : Nat)
  deriving DecidableEq, Repr

/-- The bytes at a list of places. -/
def placesRead (s : State) (ps : List (Nat × Bool)) : List Byte := ps.flatMap fun p => readBytes s p.1 1
/-- How many of a list of places cannot be read: they deliver zeros, and the answer says so (R197, R381, log 84). -/
def placesBad (s : State) (ps : List (Nat × Bool)) : Nat := (ps.filter fun p => badBytes s p.1 1 != 0).length
/-- Write bytes at a list of places. -/
def placesWrite (ps : List (Nat × Bool)) (bs : List Byte) (rmw : Bool) (s : State) : State :=
  (ps.zip bs).foldl (fun s p => writeBytes s p.1.1 [p.2] rmw) s
/-- The releases published at a list of places. -/
def placesPubs (s : State) (ps : List (Nat × Bool)) : List Pub := s.pubs.filter fun p => ps.any fun k => decide (p.key ≤ k.1) && decide (k.1 < p.key + p.size)
/-- Record the arrival in the tags of checked places (R408). -/
def placesTag (ps : List (Nat × Bool)) : M Unit :=
  (ps.filterMap fun p => if p.2 then some (p.1 / 256 * 256) else none).dedup.forM fun g => peerTag g

/-- Publish an arrival's release fences, and its own release where it is an atomic one, at its place (R347). -/
def placesPublish (a : Arrival) (ps : List (Nat × Bool)) (rel : Bool) (s : State) : State :=
  match ps with
  | [] => s
  | p :: _ =>
    let own : List Pub := if rel && a.stamp.isSome then [⟨p.1, ps.length, false, .dom, a.tile, a.stamp⟩] else []
    { s with pubs := own ++ (a.fences.map fun f => ⟨p.1, ps.length, true, f.1, a.tile, f.2⟩) ++ s.pubs }

/-- Add consecutive elements at their places under a mode snapshot: the events of the sums (R194, R404). The mode signs an exact zero sum (log
124). -/
def combineAt (ty : Nat) (fp : BitVec 4) (loc : Nat) (ps : List (Nat × Bool)) (xs : List Nat) (k : Counts) : M Counts := do
  match xs with
  | [] => return k
  | x :: r => do
    let p := ps.take (fmtBytes ty)
    let old ← see fun s => leNat (placesRead s p)
    let (v, n) := deliver fp ty ((readVal fp ty old).add (rmOf fp == 3) (readVal fp loc x))
    upd (placesWrite p (natLe (fmtBytes ty) v) true)
    combineAt ty fp loc (ps.drop (fmtBytes ty)) r ⟨k.nan + n.nan, k.sat + n.sat⟩

/-- Perform an operation at its places: what the answer carries, and whether bytes were written (R403, R404, R408). A doorbell entry
writes no memory (R406). -/
def perform (e : InWin) (a : Arrival) (ps : List (Nat × Bool)) : M (Verdict × Bool) := do
  if e.kind = 2 then return (.done [] 0 0 [] 0, true)
  else match a.op with
    | .read _ => do
      placesTag ps
      let s ← see id
      return (.done (placesRead s ps) 0 0 (placesPubs s ps) (placesBad s ps), false)
    | .write bs | .entry bs _ _ => do
      placesTag ps
      upd (placesWrite ps bs false)
      upd (placesPublish a ps false)
      return (.done [] 0 0 [] 0, true)
    | .half hi v => do
      placesTag ps
      let bad ← see fun s => placesBad s ps
      let old ← see fun s => leNat (placesRead s ps)
      upd (placesWrite ps (natLe 1 (if hi then old % 16 + 16 * (v % 16) else old / 16 * 16 + v % 16)) true)
      upd (placesPublish a ps false)
      return (.done [] 0 0 [] bad, true)
    | .credit _ _ => return (.done [] 0 0 [] 0, false)
    | .combine ty fp f xs => do
      placesTag ps
      let bad ← see fun s => placesBad s ps
      let k ← combineAt ty fp f ps xs {}
      upd (placesPublish a ps false)
      return (.done [] k.nan k.sat [] bad, true)
    | .atomic op n x c => do
      let s ← see id
      let old := leNat (placesRead s ps)
      let pubs := placesPubs s ps
      let bad := placesBad s ps
      match amoNew op n old x.toNat c.toNat with
      | none => do
        placesTag ps
        return (.done (natLe n old) 0 0 pubs bad, false)
      | some new => do
        placesTag ps
        upd (placesWrite ps (natLe n new) true)
        upd (placesPublish a ps true)
        return (.done (natLe n old) 0 0 pubs bad, true)

/-! ## Arrivals at a semaphore (R406, R407) -/

/-- The units of n bytes at a destination address: those that lie in one aligned span of 64 bytes, in ascending order. -/
def spanUnits (fuel a n : Nat) : List Nat :=
  match fuel with
  | 0 => []
  | k + 1 => if n = 0 then [] else let m := min n (64 - a % 64); m :: spanUnits k (a + m) (n - m)

/-- Apply one unit or post to the bound semaphore, if it is in the mode of the entry; what it meets is recorded. -/
def applyArrival (e : InWin) (inb : Fin 256) (amount : Nat) (lost : Bool) (stamp : Option Stamp) : M Unit := do
  let (t, c, x) ← present (← see fun s => s.boundCtx e)
  let m := x.sem e.bsem
  if m.phaseMode = (e.kind == 1) then do
    let r := m.receive { amount, lost, ack := none, stamp }
    modCtx t c (·.modSem e.bsem fun _ => r.1)
    if r.2 then recordCause t x .semCeiling (BitVec.ofNat 64 inb) (BitVec.ofNat 64 amount) else pure ()
  else recordCause t x .semUnbound (BitVec.ofNat 64 inb) (BitVec.ofNat 64 amount)

/-- What an accepted message counts (R406); a grant on its units acquires the writes before it (R358, R408). -/
def countArrival (e : InWin) (a : Arrival) : M Unit := do
  match e.kind with
  | 1 => (spanUnits (a.op.size + 1) (e.base.toNat + a.off) a.op.size).forM fun n => applyArrival e a.inb n false a.stamp
  | 2 => match a.op with
    | .write bs => applyArrival e a.inb (leNat bs % 4096) false a.stamp
    | .read _ | .combine _ _ _ _ | .atomic _ _ _ _ | .half _ _ | .entry _ _ _ | .credit _ _ => pure ()
  | _ => pure ()

/-- A message at its destination: checks and holds in the order of R402, then its effect and its count, in one step. -/
def receive (a : Arrival) : M Verdict := do
  let e ← see (·.inw a.inb)
  if !entryOk e a then return .refused
  else if ← see fun s => heldAtEntry s e a.op then return .held
  else match ← see fun s => targetOf s e a with
    | .refused => return .refused
    | .held => return .held
    | .at ps => do
      let (v, wrote) ← perform e a ps
      if wrote then countArrival e a else pure ()
      return v

/-- The state of a message after its verdict. -/
def Verdict.toMsg (v : Verdict) : MsgState :=
  match v with
  | .refused => .refused
  | .held => .held
  | .done bs n k ps bad => .done bs n k ps bad

/-- Set the state of a message. -/
def setMsg (id : Nat) (st : MsgState) (s : State) : State :=
  { s with msgs := s.msgs.map fun m => if m.id = id then { m with state := st } else m }

/-- A context wherever it stands. -/
def State.whereCtx (s : State) (t : TileNo) (job : Nat) (num : BitVec 16) : Option Ctx :=
  match s.slotOf t job num with
  | some c => s.ctx? t c
  | none => (s.saved.find? fun e => e.job == job && e.num == num).map (·.ctx)

/-- A message of a block to this device waits for the posts of the earlier blocks of its chain at the places that it names (R165). -/
def behindPosts (s : State) (m : Msg) : Bool :=
  match m.chain, s.whereCtx m.tile m.job m.num with
  | some (ch, seq, _), some x =>
    let es := (x.chain ch).queue.takeWhile (·.seq != seq)
    (m.places s).any fun p => postsTouch s m.job es p 1
  | _, _ => false

/-- The data cache of a dealer keeps no line of the places that its message has accessed past it: a later load of the dealer finds the value there or
a later one (R349). -/
def passCache (m : Msg) (ps : List Nat) (s : State) : State :=
  if m.chain.isSome then s
  else s.setTile m.tile { s.tile m.tile with dcache := (s.tile m.tile).dcache.filter fun l => !ps.any fun p => l.base == p / 64 * 64 }

/-- A message of this device to itself arrives, or is retried. -/
def arriveLocal (m : Msg) : M Unit := do
  enabled (← see fun s => m.dev == s.domain && !msgBehind s m && !behindPosts s m)
  let ps ← see m.places
  let v ← receive m.arrival
  if v == .held || v == .refused then pure () else upd (passCache m ps)
  upd (setMsg m.id v.toMsg)

/-- The operation of a message from another device: `nums` hold the entry, the sender's job, the kind (0 read, 1 write, 2 combine, 3 atomic, 4
half of a byte), then a combine's target format, mode snapshot and operand format, an atomic's operation and compare value, or which half;
number 7 is its channel, and the codes of a combine after the first follow it. -/
def inputOp (i : Input) : MsgOp :=
  let f (k : Nat) : Nat := i.nums[k]?.getD 0
  match f 2 with
  | 0 => .read i.size
  | 1 => .write i.bytes
  | 2 => .combine (f 3) (BitVec.ofNat 4 (f 4)) (f 5) (i.value :: i.nums.drop 8)
  | 4 => .half (f 3 == 1) i.value
  | _ => .atomic (f 3) i.size (BitVec.ofNat 64 i.value) (BitVec.ofNat 64 (f 4))

/-- A message is of a shape that a sender can send (R363, R396, R404). -/
def MsgOp.sane (op : MsgOp) : Bool :=
  match op with
  | .read n => decide (1 ≤ n) && decide (n ≤ 512)
  | .write bs => decide (1 ≤ bs.length) && decide (bs.length ≤ 512)
  | .combine ty _ f xs => decide (ty ≤ 7) && decide (f ≤ 7) && decide (1 ≤ xs.length) && decide (fmtBytes ty * xs.length ≤ 512) &&
      decide (fmtBytes f * xs.length ≤ 512)
  | .atomic op n _ _ => decide (op ≤ 7) && (n == 4 || n == 8)
  | .half _ _ => true
  | .entry _ _ _ | .credit _ _ => false

/-- The bytes that an answer delivers. -/
def Verdict.payload (v : Verdict) : Nat :=
  match v with
  | .refused | .held => 0
  | .done bs _ _ _ _ => bs.length

/-- An answer as it stands in `answer`. -/
def Verdict.bytes (v : Verdict) : List Byte :=
  match v with
  | .refused => [0]
  | .held => [1]
  | .done bs n k _ bad => 2 :: natLe 2 n ++ natLe 2 k ++ natLe 2 bad ++ bs

/-- WINDOW_MESSAGE_ARRIVAL: a message of this device to itself (`input.flag`, its number in `input.value`), or one from device
`input.who`, whose answer is left in `answer`: 0 refused, 1 held, 2 performed with its NaN and saturation events and its unreadable bytes, two bytes each,
and the bytes it delivers (R402, R404). The answer goes back in flits of its own (R398). -/
def execWindowMessageArrival (s : State) : Host.Outcome State Fault Refusal :=
  agent (do
    let i ← see (·.input)
    if i.flag then do
      let m ← present (← see fun s => s.msgs.find? fun m => m.id == i.value && m.state == .going)
      arriveLocal m
    else do
      let op := inputOp i
      enabled ((← see fun s => i.who != s.domain) && op.sane)
      let v ← receive { dev := i.who, job := i.nums[1]?.getD 0, inb := winNo (i.nums[0]?.getD 0), off := i.addr, op }
      let cls : Fin 4 := ⟨(i.nums[7]?.getD 0) % 4, Nat.mod_lt _ (by decide)⟩
      upd fun s => { s with answer := v.bytes }
      upd (returnFlits i.who cls (1 + unitsOf op.payload))
      upd (sendFlits i.who cls (1 + unitsOf v.payload))) s

/-- WINDOW_MESSAGE_RETRY: a held message makes every check again (R402). -/
def execWindowMessageRetry (i : Nat) (s : State) : Host.Outcome State Fault Refusal :=
  agent (do
    let m ← present (← see fun s => s.msgs[i]?)
    enabled (m.state == .held)
    arriveLocal m) s

/-! ## The answer at the sender -/

/-- Change a context wherever it stands: in a slot or saved. -/
def State.modWhere (s : State) (t : TileNo) (job : Nat) (num : BitVec 16) (f : Ctx → Ctx) : State :=
  match s.slotOf t job num with
  | some c => s.modCtx t c f
  | none => { s with saved := s.saved.map fun e => if e.job = job ∧ e.num = num then { e with ctx := f e.ctx } else e }

/-- A dealer's access has its answer: the instruction that waits starts again with it (R403). -/
def giveAnswer (id : Nat) (a : Answer) (x : Ctx) : Ctx :=
  match x.wait with
  | some w => if w.kind = .window id then { x with answers := x.answers ++ [a], wait := some { w with kind := .again } } else x
  | none => x

/-- An engine's read has its answer. -/
def giveRead (ch : ChainNo) (seq id : Nat) (a : Answer) (x : Ctx) : Ctx :=
  x.modRun ch seq fun p => if p.await = some id then { p with await := none, answers := p.answers ++ [a] } else p

/-- The semaphore that a block counts in, and its bytes (R196). -/
def Entry.csem (e : Entry) : Option SemNo :=
  match e.cur.body with
  | .load b | .store b => if b.cnten then some b.csem else none
  | .nop | .endB | .matrix _ | .vector _ | .patch _ | .rendezvous | .resolve _ _ => none

/-- One unit of acknowledged or lost bytes counts behind the arrivals that are held; at the ceiling it is held itself, and its block is owed one
unit more (R196, R219, R405). The second component says that the ceiling is recorded. -/
def ackUnit (ch : ChainNo) (seq : Nat) (k : SemNo) (lost : Bool) (n : Nat) (x : Ctx) : Ctx × Bool :=
  let m := x.sem k
  let r := m.receive { amount := n, lost, ack := some (ch, seq) }
  let y := x.modSem k fun _ => r.1
  (if r.1.held.length = m.held.length then y else y.modRun ch seq fun p => { p with owed := p.owed + 1 }, r.2)

/-- The acknowledged or lost bytes of a block's store count, in units of at most 64; the second component holds the units that the ceiling holds
back, each of which is recorded (R196, R218, R219). -/
def countAck (ch : ChainNo) (seq : Nat) (lost : Bool) (n : Nat) (x : Ctx) : Ctx × List Nat :=
  match (x.entry? ch seq).bind Entry.csem with
  | none => (x, [])
  | some k => (spanUnits (n + 1) 0 n).foldl
      (fun a u => let r := ackUnit ch seq k lost u a.1; (r.1, if r.2 then a.2 ++ [u] else a.2)) (x, [])

/-- Record the units that the ceiling of CSEM holds back, each as an event of its own (R196). -/
def recordHeld (m : Msg) (x : Ctx) (us : List Nat) : M Unit :=
  us.forM fun n => recordCause m.tile x .semCeiling m.addr (BitVec.ofNat 64 n)

/-- A message of a block was refused, or lost under strict, or met bytes at its destination that it could not read: its chain faults at the
iteration that sent it, unless it has faulted (R180, R404, R405). -/
def faultMsg (ch : ChainNo) (seq it : Nat) (cause : Cause) (a : Word) (x : Ctx) : Ctx :=
  if (x.chain ch).state = .faulted then x
  else match x.entry? ch seq with
    | none => x
    | some e => x.faultChain ch seq cause .iteration (indexAt e.cur.body.bounds it) a

/-- A message goes. -/
def dropMsg (id : Nat) (s : State) : State := { s with msgs := s.msgs.filter (·.id != id) }

/-- Count conversion events (R404). -/
def addEvents (n k : Nat) (x : Ctx) : Ctx :=
  { x with nancnt := BitVec.ofNat 32 (min (x.nancnt.toNat + n) 0xFFFFFFFF), satcnt := BitVec.ofNat 32 (min (x.satcnt.toNat + k) 0xFFFFFFFF) }

/-- Count dropped bytes. -/
def addDrops (n : Nat) (x : Ctx) : Ctx := { x with dropcnt := BitVec.ofNat 32 (min (x.dropcnt.toNat + n) 0xFFFFFFFF) }

/-- The answer of a message: from the message itself, or for another device from the event: refused (`input.flag`), or its bytes, its events
and its unreadable bytes. -/
def msgAnswer (s : State) (m : Msg) : Option MsgState :=
  match m.state with
  | .refused | .done _ _ _ _ _ => some m.state
  | .going => if m.dev != s.domain && m.flits == 0 then
      some (if s.input.flag then .refused else .done s.input.bytes (s.input.nums[0]?.getD 0) (s.input.nums[1]?.getD 0) [] (s.input.nums[2]?.getD 0))
    else none
  | .held | .lost | .parked => none

/-- An earlier message of the same block has no answer yet. -/
def ackBehind (s : State) (m : Msg) : Bool :=
  s.msgs.any fun n => decide (n.id < m.id) && n.state != .parked && n.sameAgent m && n.chain.map (·.2.1) == m.chain.map (·.2.1)

/-- The error mode that the block of a message captured. -/
def blockStrict (x : Ctx) (ch : ChainNo) (seq : Nat) : Bool := ((x.entry? ch seq).map (·.cap.strict)).getD false

/-- The bytes that an answer delivers. -/
def MsgState.payload (st : MsgState) : Nat :=
  match st with
  | .done bs _ _ _ _ => bs.length
  | .going | .held | .refused | .lost | .parked => 0

/-- WINDOW_ACK: the answer to message i of those on their way (R403, R404, R408): a dealer's instruction goes on, an engine's read has
its bytes, a store counts its bytes and its events or faults. -/
def execWindowAck (i : Nat) (s : State) : Host.Outcome State Fault Refusal :=
  agent (do
    let m ← present (← see fun s => s.msgs[i]?)
    let st ← present (← see fun s => msgAnswer s m)
    enabled (← see fun s => !ackBehind s m)
    upd (returnFlits m.dev m.cls (1 + unitsOf st.payload))
    upd (chargePayload m st.payload)
    match m.chain, st with
    | none, .done bs _ _ ps bad => do
      upd (dropMsg m.id)
      upd fun s => s.modWhere m.tile m.job m.num (giveAnswer m.id (.data bs ps bad))
    | none, _ => do
      upd (dropMsg m.id)
      upd fun s => s.modWhere m.tile m.job m.num (giveAnswer m.id .refused)
    | some (ch, seq, it), st =>
      match m.op, st with
      | .read _, .done bs _ _ ps bad => do
        upd (dropMsg m.id)
        upd fun s => s.modWhere m.tile m.job m.num (giveRead ch seq m.id (.data bs ps bad))
      | .read _, _ => do
        upd (dropMsg m.id)
        upd fun s => s.modWhere m.tile m.job m.num (giveRead ch seq m.id .refused)
      | _, .done _ n k _ bad => do
        upd (dropMsg m.id)
        let x ← present (← see fun s => s.whereCtx m.tile m.job m.num)
        let strict := blockStrict x ch seq
        let x := addEvents n k (if strict then x else addDrops bad x)
        let r := countAck ch seq false m.count x
        upd fun s => s.modWhere m.tile m.job m.num fun _ => if bad != 0 && strict then faultMsg ch seq it .eccStrict m.addr r.1 else r.1
        recordHeld m x r.2
        if bad != 0 && !strict then recordCause m.tile x .eccStrict m.addr (BitVec.ofNat 64 bad) else pure ()
      | _, _ => do
        upd (setMsg m.id .parked)
        upd fun s => s.modWhere m.tile m.job m.num (faultMsg ch seq it .windowFault m.addr)) s

/-! ## Lost messages -/

/-- The sum of bits 11:0 of each aligned doubleword of a lost payload at a window offset (R405). -/
def bellSum (off : Nat) (bs : List Byte) : Nat :=
  let bs := bs.drop ((8 - off % 8) % 8)
  ((List.range (bs.length / 8)).foldl (fun a k => a + leNat ((bs.drop (8 * k)).take 8) % 4096) 0) % 4294967296

/-- The payload bytes of a message. -/
def MsgOp.bytes (op : MsgOp) : List Byte :=
  match op with
  | .write bs | .entry bs _ _ => bs
  | .combine _ _ loc xs => xs.flatMap (natLe (fmtBytes loc))
  | .half _ v => natLe 1 v
  | .read _ | .atomic _ _ _ _ | .credit _ _ => []

/-- The sender's bookkeeping of lost bytes of a block under counted-drop: DROPCNT, and the loss count of CSEM (R405). -/
def countLost (ch : ChainNo) (seq size count : Nat) (x : Ctx) : Ctx × List Nat := countAck ch seq true count (addDrops size x)

/-- What a loss notice names: the inbound entry and the offset of the first lost byte, or for an entry of a linked queue 256 and its endpoint,
and the tile (R405, R410, log 86). -/
def Msg.lostAt (m : Msg) : Nat × Nat :=
  match m.op with
  | .entry _ t e => (256 + e.val, t)
  | .read _ | .write _ | .combine _ _ _ _ | .atomic _ _ _ _ | .half _ _ | .credit _ _ => (m.inb.val, m.off)

/-- A loss notice goes as firmware traffic (R405, R422). -/
def sendNotice (m : Msg) (s : State) : State :=
  sendFlits m.dev 3 1 { s with notices := s.notices ++ [(m.dev, m.lostAt.1, m.lostAt.2, m.op.size, bellSum m.off m.op.bytes)] }

/-- LOSS_DETECTED: the sender learns that a link lost message i (R403, R405). Under counted-drop a block's lost bytes are counted, those of a
read where it delivers its zeros, and a notice is sent to the destination. -/
def execLossDetected (i : Nat) (s : State) : Host.Outcome State Fault Refusal :=
  agent (do
    let m ← present (← see fun s => s.msgs[i]?)
    enabled (m.state == .lost && (← see fun s => !ackBehind s m))
    match m.chain with
    | none => do
      upd (dropMsg m.id)
      upd fun s => s.modWhere m.tile m.job m.num (giveAnswer m.id .lost)
    | some (ch, seq, it) =>
      match m.op with
      | .read _ => do
        let x ← present (← see fun s => s.whereCtx m.tile m.job m.num)
        upd (dropMsg m.id)
        upd fun s => s.modWhere m.tile m.job m.num (giveRead ch seq m.id .lost)
        if blockStrict x ch seq then pure () else upd (sendNotice m)
      | _ => do
        let x ← present (← see fun s => s.whereCtx m.tile m.job m.num)
        if blockStrict x ch seq then do
          upd (setMsg m.id .parked)
          upd fun s => s.modWhere m.tile m.job m.num (faultMsg ch seq it .windowFault m.addr)
        else do
          upd (dropMsg m.id)
          let r := countLost ch seq m.op.size m.count x
          upd fun s => s.modWhere m.tile m.job m.num fun _ => r.1
          recordCause m.tile x .windowFault m.addr (BitVec.ofNat 64 m.op.size)
          recordHeld m x r.2
          upd (sendNotice m)) s

/-- A notice for an entry that another device lost: the consumer gets 512 zero bytes in its place (R410). -/
def noticeEntry (e : Fin 8) (t : Nat) : M Unit := do
  enabled ((← see fun s => s.formed t e) && decide ((← see fun s => (s.ep t e).entries.length) < 32))
  upd fun s => s.modEp t e fun q => { q with entries := q.entries ++ [padEntry []] }

/-- LOSS_NOTICE: a notice of another device arrives: entry, offset, bytes and sum in `nums`; the lost units or amounts reach the bound
semaphore (R407), or the notice waits for it as R406 states; where the entry counts nothing, it is acknowledged at once. With `input.flag`, the
destination acknowledges notice `input.value` of this device, or (`input.size` 1) the notice itself was lost and is sent again (R405). -/
def execLossNotice (s : State) : Host.Outcome State Fault Refusal :=
  agent (do
    let i ← see (·.input)
    if i.flag then do
      let n ← present (← see fun s => s.notices[i.value]?)
      if i.size = 1 then upd (sendFlits n.1 3 1)
      else do
        upd (returnFlits n.1 3 1)
        upd fun s => { s with notices := s.notices.eraseIdx i.value }
    else do
      let f (k : Nat) : Nat := i.nums[k]?.getD 0
      let inb := winNo (f 0)
      let e ← see (·.inw inb)
      if 256 ≤ f 0 then noticeEntry (epNo (f 0)) (f 1)
      else if !e.v || e.kind = 0 then pure ()
      else do
        enabled e.bound
        if e.kind = 1 then (spanUnits (f 2 + 1) (e.base.toNat + f 1) (f 2)).forM fun n => applyArrival e inb n true none
        else applyArrival e inb (f 3) true none
      upd (returnFlits i.who 3 1)
      upd (sendFlits i.who 3 1)) s

end Sys2Proof.Machine
end

