-- ==== Sys2Proof/Machine/Links.lean ====
section
/-!
DEFINITION. The links: replay and retraining (R397), send permits with their audit and repair (R398), and the command links between the
banker and the leaf controllers (R446).
-/
namespace Sys2Proof.Machine

/-- The port of an event: 0 to 15 Roleno, 16 and 17 Fernen. -/
def portNo (p : Nat) : M (Fin 18) := if h : p < 18 then pure ⟨p, h⟩ else exit .idle
/-- SRC of a port (R451). -/
def portSrc (p : Fin 18) : Nat := if p.val < 16 then 0xD0 + p else fernenSrc (p - 16)
/-- The counters of a port (R430). -/
def portCounter (p : Fin 18) : Fin 34 := ⟨16 + p.val, by omega⟩

/-- Raise counter j of an error source; it holds at its greatest value (R451). -/
def bumpCounter (k : Fin 34) (j : Fin 5) (s : State) : State :=
  let c := s.counters.get k
  { s with counters := s.counters.set k (c.set j (min (c.get j + 1) 0xFFFFFFFF)) }

/-- An event of a port: its counter and its record in one step (R451). -/
def portEvent (p : Fin 18) (kind : Nat) (j : Fin 5) : M Unit := do
  upd (bumpCounter (portCounter p) j)
  recordPhys kind (portSrc p) 0

/-- Change a port's link. -/
def modPort (p : Fin 18) (f : Link → Link) : M Unit := upd fun s => { s with ports := s.ports.set p (f (s.ports.get p)) }

/-- A channel number. -/
def chanNo (n : Nat) : Fin 4 := ⟨n % 4, Nat.mod_lt _ (by decide)⟩

/-- FLIT_REPLAY at port `input.who`: a receiver found a CRC error. The same flit again (`input.flag`) or another one; the fourth failure
of one flit retrains the link, and the messages whose flits were held for replay (`nums`) are lost (R397). -/
def execFlitReplay (s : State) : Host.Outcome State Fault Refusal :=
  agent (do
    let i ← see (·.input)
    let p ← portNo i.who
    let k ← see (·.ports.get p)
    enabled (!k.retraining)
    let n := if i.flag then k.tries + 1 else 1
    if n < 4 then do
      modPort p fun k => { k with tries := n }
      portEvent p 2 2
    else do
      modPort p fun k => { k with tries := 0, retraining := true }
      portEvent p 3 3
      upd fun s =>
        let hit (m : Msg) : Bool := i.nums.contains m.id && m.state == .going && m.dev != s.domain && s.portOf m.dev == some p.val
        { s with msgs := s.msgs.map fun m => if hit m then { m with state := .lost, flits := 0 } else m }) s

/-- RETRAIN_COMPLETE: the link carries traffic again (R397). -/
def execRetrainComplete (s : State) : Host.Outcome State Fault Refusal :=
  agent (do
    let p ← portNo (← see (·.input.who))
    enabled (← see fun s => (s.ports.get p).retraining)
    modPort p fun k => { k with retraining := false }
    upd (pumpPort p)) s

/-- PERMIT_RETURN: a return for channel `input.addr` reaches the sender; a permit that is owed is withheld (R398). -/
def execPermitReturn (s : State) : Host.Outcome State Fault Refusal :=
  agent (do
    let i ← see (·.input)
    let p ← portNo i.who
    let ch := chanNo i.addr
    modPort p fun k =>
      let c := k.chans.get ch
      let c := if c.withheld = 0 then { c with permits := c.permits + 1, sent := 0 } else { c with withheld := c.withheld - 1, sent := 0 }
      { k with chans := k.chans.set ch c }
    upd (pumpPort p)) s

/-- What an audit finds missing of a channel's 64 permits: the count it carries, the occupied buffers, and the returns on their way
(R398). -/
def auditGap (c : Chan) (carried : Nat) : Int := 64 - (carried + c.occupied + c.returns : Nat)

/-- AUDIT_FLIT of the other end at port `input.who`: for each channel `nums` hold the count it carries, then the returns it acknowledges;
where a total differs from 64, a resynchronisation message carries the differences, left in `answer` (R398). -/
def execAuditFlit (s : State) : Host.Outcome State Fault Refusal :=
  agent (do
    let i ← see (·.input)
    let p ← portNo i.who
    modPort p fun k => { k with chans := Vector.ofFn fun ch =>
      let c := k.chans.get ch
      { c with returns := c.returns - i.nums[4 + ch.val]?.getD 0 } }
    let k ← see (·.ports.get p)
    let gaps := (List.finRange 4).map fun ch => auditGap (k.chans.get ch) (i.nums[ch.val]?.getD 0)
    if gaps.all (· == 0) then pure ()
    else upd fun s => { s with answer := gaps.flatMap fun g => natLe 2 (g % 65536).toNat }) s

/-- RESYNCHRONISATION at port `input.who` for channel `input.addr`: a shortfall of `input.value` permits is added at once, an excess
(`input.flag`) is withheld from the next ones; the repair is counted and recorded (R398). -/
def execResynchronisation (s : State) : Host.Outcome State Fault Refusal :=
  agent (do
    let i ← see (·.input)
    let p ← portNo i.who
    let ch := chanNo i.addr
    enabled (i.value != 0)
    modPort p fun k =>
      let c := k.chans.get ch
      let c := if i.flag then { c with withheld := c.withheld + i.value } else { c with permits := c.permits + i.value }
      { k with chans := k.chans.set ch c }
    portEvent p 4 4
    upd (pumpPort p)) s

/-- One end of a command link: a message is sent on a permit, or the oldest one is consumed and its permit returned, unless the return is
lost (R446). -/
def linkStep (consume lost : Bool) (m : List Byte) (l : Nat × List (List Byte) × Nat) : Option (Nat × List (List Byte) × Nat) :=
  if consume then match l.2.1 with
    | [] => none
    | _ :: r => some (if lost then l.1 else l.1 + 1, r, l.2.2)
  else if l.1 = 0 then none
  else some (l.1 - 1, l.2.1 ++ [m], l.2.2 + 1)

/-- The audit of a link after its 4096th message: the permits that neither the sender nor a message holds come back; and whether there were any
(R446). -/
def linkAudit (l : Nat × List (List Byte) × Nat) : (Nat × List (List Byte) × Nat) × Bool :=
  if l.2.2 = 4096 then ((8 - l.2.1.length, l.2.1, 0), l.1 + l.2.1.length != 8) else (l, false)

/-- COMMAND_LINK_MESSAGE on the link of cluster `input.who`, to its leaf (`input.addr` = 0) or to the banker: a message of 64 bytes is sent,
or with `input.flag` consumed and left in `answer`; with `input.value` other than 0 the return of its permit is lost, which an audit repairs. A repair
is counted and recorded by the leaf (R446, R451, log 148). -/
def execCommandLinkMessage (s : State) : Host.Outcome State Fault Refusal :=
  agent (do
    let i ← see (·.input)
    if h : i.who < 48 then do
      let k ← see (·.clusters.get ⟨i.who, h⟩)
      enabled (i.flag || i.bytes.length == 64)
      let l := if i.addr = 0 then k.cmdDown else k.cmdUp
      let r := linkAudit (← present (linkStep i.flag (i.value != 0) i.bytes l))
      let k := { k with cmdFixes := k.cmdFixes + r.2.toNat }
      upd fun s => { s with
        clusters := s.clusters.set i.who (if i.addr = 0 then { k with cmdDown := r.1 } else { k with cmdUp := r.1 })
        answer := if i.flag then l.2.1.headD [] else s.answer }
      if r.2 then recordPhys 4 i.who 0 else pure ()
    else exit .idle) s

end Sys2Proof.Machine
end

