-- ==== Sys2Proof/Machine/Csr.lean ====
section
/-!
DEFINITION. The CSR space: numbers, classes and writable fields (R98 to R103, R71, R74, R85, R128, R160, R318, R373), and the
four CSR instructions.
-/
namespace Sys2Proof.Machine

/-- What a dealer write to a CSR number meets (R99). -/
inductive CsrClass | unknown | readonly | priv | rw
  deriving DecidableEq, Repr

/-- The class of a CSR number (R99). -/
def csrClass (n : Nat) : CsrClass :=
  if n ≤ 0x002 ∨ n = 0x004 ∨ n = 0x01E then .readonly
  else if (0x010 ≤ n ∧ n ≤ 0x015) ∨ (0x018 ≤ n ∧ n ≤ 0x01D) ∨ (0x020 ≤ n ∧ n ≤ 0x023) ∨ (0x028 ≤ n ∧ n ≤ 0x031) then .rw
  else if (0x040 ≤ n ∧ n ≤ 0x04B) ∨ n = 0x050 then .priv
  else .unknown

/-- LOOPST: the active flags (R102). -/
def loopst (x : Ctx) : Nat := (x.loops.get 0).act.toNat + 2 * (x.loops.get 1).act.toNat

/-- The value of a CSR, zero-extended (R98, R99); 0 for a number without a register. -/
def csrRead (s : State) (t : TileNo) (c : SlotNo) (x : Ctx) (n : Nat) : Word :=
  let tile := s.tile t
  match n with
  | 0x000 => BitVec.ofNat 64 t
  | 0x001 => ctxidWord x c
  | 0x002 => s.frame
  | 0x004 => zx x.partw
  | 0x010 => zx x.fpctl
  | 0x011 => zx x.nbv
  | 0x012 => zx x.nancnt
  | 0x013 => zx x.satcnt
  | 0x014 => zx x.errmode
  | 0x015 => zx x.dropcnt
  | 0x018 => (x.loops.get 0).lc
  | 0x019 => (x.loops.get 0).ls
  | 0x01A => (x.loops.get 0).le
  | 0x01B => (x.loops.get 1).lc
  | 0x01C => (x.loops.get 1).ls
  | 0x01D => (x.loops.get 1).le
  | 0x01E => BitVec.ofNat 64 (loopst x)
  | 0x020 => x.epc
  | 0x021 => zx x.ecause
  | 0x022 => x.eval
  | 0x023 => x.tvec
  | 0x028 => x.elatch.get 0
  | 0x029 => x.elatch.get 1
  | 0x02A => x.elatch.get 2
  | 0x02B => x.elatch.get 3
  | 0x02C => x.elatch.get 4
  | 0x02D => x.elatch.get 5
  | 0x02E => x.elatch.get 6
  | 0x02F => x.elatch.get 7
  | 0x030 => zx x.chainbase
  | 0x031 => zx x.chainlim
  | 0x040 => zx (tile.dkb.get 0)
  | 0x041 => zx (tile.dkb.get 1)
  | 0x042 => zx (tile.dkb.get 2)
  | 0x043 => zx (tile.dkb.get 3)
  | 0x044 => zx (tile.dkl.get 0)
  | 0x045 => zx (tile.dkl.get 1)
  | 0x046 => zx (tile.dkl.get 2)
  | 0x047 => zx (tile.dkl.get 3)
  | 0x048 => zx (tile.dkt.get 0)
  | 0x049 => zx (tile.dkt.get 1)
  | 0x04A => zx (tile.dkt.get 2)
  | 0x04B => zx (tile.dkt.get 3)
  | 0x050 => zx x.dbgctl
  | _ => 0

/-- A 32-bit CSR after a write: the fields of access RW take the source, the others keep their values (R103). -/
def put32 (old : BitVec 32) (mask : BitVec 32) (v : Word) : BitVec 32 := (old &&& ~~~mask) ||| (v.truncate 32 &&& mask)

/-- A write to one level's register. -/
def setLoop (x : Ctx) (L : Fin 2) (f : LoopLevel → LoopLevel) : Ctx := { x with loops := x.loops.set L (f (x.loops.get L)) }

/-- A write to a per-context CSR by the dealer, within its writable fields (R103, R373). -/
def csrWrite (x : Ctx) (n : Nat) (v : Word) : Ctx :=
  match n with
  | 0x010 => { x with fpctl := put32 x.fpctl 0xF v }
  | 0x011 => { x with nbv := put32 x.nbv 0x1 v }
  | 0x012 => { x with nancnt := put32 x.nancnt 0xFFFFFFFF v }
  | 0x013 => { x with satcnt := put32 x.satcnt 0xFFFFFFFF v }
  | 0x014 => { x with errmode := put32 x.errmode 0x1 v }
  | 0x015 => { x with dropcnt := put32 x.dropcnt 0xFFFFFFFF v }
  | 0x018 => setLoop x 0 ({ · with lc := v })
  | 0x019 => setLoop x 0 ({ · with ls := wordAlign v })
  | 0x01A => setLoop x 0 ({ · with le := wordAlign v })
  | 0x01B => setLoop x 1 ({ · with lc := v })
  | 0x01C => setLoop x 1 ({ · with ls := wordAlign v })
  | 0x01D => setLoop x 1 ({ · with le := wordAlign v })
  | 0x020 => { x with epc := wordAlign v, dbgctl := x.dbgctl &&& 0xFFFF000F#32 }
  | 0x021 => { x with ecause := put32 x.ecause 0x3F v }
  | 0x022 => { x with eval := v }
  | 0x023 => { x with tvec := wordAlign v }
  | 0x028 => { x with elatch := x.elatch.set 0 v }
  | 0x029 => { x with elatch := x.elatch.set 1 v }
  | 0x02A => { x with elatch := x.elatch.set 2 v }
  | 0x02B => { x with elatch := x.elatch.set 3 v }
  | 0x02C => { x with elatch := x.elatch.set 4 v }
  | 0x02D => { x with elatch := x.elatch.set 5 v }
  | 0x02E => { x with elatch := x.elatch.set 6 v }
  | 0x02F => { x with elatch := x.elatch.set 7 v }
  | 0x030 => { x with chainbase := put32 x.chainbase 0xFFFFC0 v }
  | 0x031 => { x with chainlim := put32 x.chainlim 0xFFFFC0 v }
  | _ => x

/-- The write names the bounds of an active level (R100). -/
def boundsActive (x : Ctx) (n : Nat) : Bool :=
  ((n == 0x019 || n == 0x01A) && (x.loops.get 0).act) || ((n == 0x01C || n == 0x01D) && (x.loops.get 1).act)

/-- CSRR (R103). -/
def execCsrr (h : Hd) (d : Dst) (csr : BitVec 12) (s : State) : Host.Outcome State Fault Refusal :=
  dealer h (do
    check (csrClass csr.toNat != .unknown) .csrUnknown (zx csr)
    let (t, c) ← me
    let x ← getCtx t c
    op0 d (← see fun s => csrRead s t c x csr.toNat)) s

/-- A CSR write (R100, R103): `f` gives the value written from the old value and the source. -/
def csrModify (csr : BitVec 12) (r : Src) (f : Word → Word → Word) : M Eff := do
  let n := csr.toNat
  let (t, c) ← me
  let x ← getCtx t c
  check (csrClass n != .unknown) .csrUnknown (zx csr)
  check (csrClass n != .priv) .priv (zx csr)
  check (csrClass n != .readonly) .csrReadonly (zx csr)
  check (!boundsActive x n) .loopBoundsWrite (zx csr)
  let v ← readC r (zx csr)
  let old ← see fun s => csrRead s t c x n
  modMe fun y => csrWrite y n (f old v)
  return {}

/-- CSRW (R103). -/
def execCsrw (h : Hd) (csr : BitVec 12) (x : Src) (s : State) : Host.Outcome State Fault Refusal :=
  dealer h (csrModify csr x fun _ v => v) s (ends := true)
/-- CSRS (R103). -/
def execCsrs (h : Hd) (csr : BitVec 12) (x : Src) (s : State) : Host.Outcome State Fault Refusal :=
  dealer h (csrModify csr x fun o v => o ||| v) s (ends := true)
/-- CSRC (R103). -/
def execCsrc (h : Hd) (csr : BitVec 12) (x : Src) (s : State) : Host.Outcome State Fault Refusal :=
  dealer h (csrModify csr x fun o v => o &&& ~~~v) s (ends := true)

end Sys2Proof.Machine
end

