-- ==== Sys2Proof/Machine/Coverage.lean ====
section
/-!
DEFINITION. Coverage controllers: the fraction ladder, ranks and sources (R298 to R301), sample points and errors (R305),
contributions and updates (R304, R306), and COVSET, COVGET and COVSTAT (R308, R309).
-/
namespace Sys2Proof.Machine

/-! ## Points -/

/-- k of a ladder index (R298). -/
def ladder (i : Nat) : Nat := [8, 7, 6, 4, 2, 1][i]?.getD 8

/-- The rank of a point (R299). -/
def rank (pat g u v : Nat) : Nat :=
  let b (x y z : Nat) : Nat := 4 * (x % 2) + 2 * (y % 2) + z % 2
  match pat with
  | 1 => b (u + v) u (u / 2 + v / 2)
  | 2 => b u (u / 2) (u / 4)
  | 3 => b v (v / 2) (v / 4)
  | 4 => b u v (u / 2 + v / 2)
  | 5 => b v (u + v / 2) (u / 2)
  | 6 =>
    let l := (v + 8 * u - g * u) % 8
    b l (l / 2) (l / 4)
  | _ => 0

/-- A grid: which points it holds. -/
abbrev Grid := Nat → Nat → Bool

/-- The point is a source under a ladder index. -/
def isSource (c : CovCap) (idx : Nat) (on : Grid) (u v : Nat) : Bool := on u v && decide (rank c.pat c.g u v < ladder idx)

/-- The source at distance d in direction k: 0 left, 1 up, 2 right, 3 down (R301). -/
def sourceAt (c : CovCap) (idx : Nat) (on : Grid) (u v k d : Nat) : Option (Nat × Nat) :=
  let p : Option (Nat × Nat) := match k with
    | 0 => if d ≤ v then some (u, v - d) else none
    | 1 => if d ≤ u then some (u - d, v) else none
    | 2 => some (u, v + d)
    | _ => some (u + d, v)
  p.filter fun q => isSource c idx on q.1 q.2

/-- The nearest source: the smallest distance up to 7, in the direction order (R301). -/
def nearest (c : CovCap) (idx : Nat) (on : Grid) (u v : Nat) : Option (Nat × Nat) :=
  (List.range' 1 7).findSome? fun d => (List.range 4).findSome? fun k => sourceAt c idx on u v k d

/-- The first source of a direction, with its distance. -/
def alongDir (c : CovCap) (idx : Nat) (on : Grid) (u v k : Nat) : Option (Nat × (Nat × Nat)) :=
  (List.range' 1 7).findSome? fun d => (sourceAt c idx on u v k d).map fun p => (d, p)

/-- The point is skipped under a ladder index (R300). -/
def skippedAt (c : CovCap) (idx : Nat) (on : Grid) (u v : Nat) : Bool :=
  on u v && decide (ladder idx ≤ rank c.pat c.g u v) && (nearest c idx on u v).isSome

/-- The hash of a point (R305). -/
def pointHash (u v z : Nat) : Nat := ((u * 0x9E37) % 65536 ^^^ (v * 0x6A09) % 65536) ^^^ (z * 0x3C6F) % 65536

/-- The ladder index whose skipped points may be samples (R305). -/
def sampleIdx (c : CovCap) : Nat := if c.frac.getD 0 = 0 then 1 else c.frac.getD 0

/-- The point is a sample point (R305). -/
def isSample (c : CovCap) (on : Grid) (u v z : Nat) : Bool :=
  c.adapt && skippedAt c (sampleIdx c) on u v && pointHash u v z / (if c.srate then 4096 else 1024) == 0

/-- The point is skipped and not computed: reconstruction fills it. -/
def isSkipped (c : CovCap) (on : Grid) (u v z : Nat) : Bool := skippedAt c (c.frac.getD 0) on u v && !isSample c on u v z

/-- The value of a skipped point from the values of the sources (R301): FP32 codes, or bits of the nearest source for an integer
destination, whose kernel is 0. -/
def interpolate (c : CovCap) (idx : Nat) (on : Grid) (val : Nat × Nat → Nat) (u v : Nat) : Nat :=
  let near : Nat := (nearest c idx on u v).elim 0 val
  let ones := (List.range 4).filterMap fun k => sourceAt c idx on u v k 1
  let linear : Nat := match ones with
    | [] => near
    | p :: r => rne32 ((val32 (r.foldl (fun a q => rne32 ((val32 a).add false (val32 (val q)))) (val p))).div
        (.num (.ofInt ones.length)))
  let pair (k l : Nat) : Option Nat := match alongDir c idx on u v k, alongDir c idx on u v l with
    | some (a, p), some (b, q) => some (rne32 ((((val32 (val p)).mul (.num (.ofInt b))).add false
        ((val32 (val q)).mul (.num (.ofInt a)))).div (.num (.ofInt (a + b : Nat)))))
    | _, _ => none
  match c.kern with
  | 0 => near
  | 1 => linear
  | _ =>
    match pair 0 2, pair 1 3 with
    | some h, some w => rne32 (((val32 h).add false (val32 w)).div (.num (.ofInt 2)))
    | some h, none => h
    | none, some w => w
    | none, none => linear

/-- The points whose values the interpolation of a point reads. -/
def sources (c : CovCap) (idx : Nat) (on : Grid) (u v : Nat) : List (Nat × Nat) :=
  let near := (nearest c idx on u v).toList
  let ones := (List.range 4).filterMap fun k => sourceAt c idx on u v k 1
  let lin := if ones.isEmpty then near else ones
  let pair (k l : Nat) : List (Nat × Nat) := match alongDir c idx on u v k, alongDir c idx on u v l with
    | some (_, p), some (_, q) => [p, q]
    | _, _ => []
  match c.kern with
  | 0 => near
  | 1 => lin
  | _ => if (pair 0 2 ++ pair 1 3).isEmpty then lin else pair 0 2 ++ pair 1 3

/-- The error of a sample: the interpolated value against the exact one (R305). -/
def sampleErr (i x : Val) : Nat :=
  match i, x with
  | .nan, _ | _, .nan | .inf _, _ | _, .inf _ => rne32 (.num (.ofInt 1))
  | _, _ =>
    rne32 (Val.min (.num (.ofInt 1)) (rneV (((i.add false x.negate).abs).div (x.abs.max (.num (.pow2 1 (-126)))))))

/-- The sum of errors in their order (R305). -/
def sumErr (es : List Nat) : Nat := es.foldl (fun a e => rne32 ((val32 a).add false (val32 e))) 0

/-! ## Contributions -/

/-- Apply the contribution of the next ticket (R306). -/
def Cov.apply (k : Cov) (bsum bn : Nat) : Cov :=
  let k := { k with
    esum := BitVec.ofNat 32 (rne32 ((val32 k.esum.toNat).add false (val32 bsum)))
    ns := (k.ns + bn) % 4294967296
    appl := (k.appl + 1) % 4294967296 }
  if k.appl % k.period ≠ 0 then k
  else
    let k := if k.adapt && k.ns != 0 then
        (let m := rne32 ((val32 k.esum.toNat).div (.num (.ofInt k.ns)))
         let f := if (val32 k.thi.toNat).lt (val32 m) then k.frac - 1
           else if (val32 m).lt (val32 k.tlo.toNat) then min (k.frac + 1) 5 else k.frac
         { k with lastm := BitVec.ofNat 32 m, frac := f })
      else k
    { k with hist := (k.frac, k.hist.1), upd := (k.upd + 1) % 4294967296, esum := 0, ns := 0 }

/-- COVERAGE_CONTRIBUTION: the contribution of the ticket that is next is applied (R306). -/
def execCoverageContribution (t : TileNo) (c : SlotNo) (n : Fin 4) (s : State) : Host.Outcome State Fault Refusal :=
  agent (do
    let x ← getCtx t c
    let k := x.covs.get n
    let e ← present (k.early.find? (·.1 == k.appl))
    modCtx t c fun y => { y with covs := y.covs.set n { k.apply e.2.1 e.2.2 with early := k.early.filter (·.1 != e.1) } }) s

/-! ## COVSET -/

/-- A threshold is a finite number that is not negative. -/
def thresholdOk (v : Nat) : Bool := decide (v < 0x7F800000)

/-- The configuration record is accepted (R308 step 4). -/
def covOk (d0 d1 : Nat) : Bool :=
  decide (d0 % 4294967296 / 16384 = 0) && decide (bits d0 0 3 ≤ 5) && decide (bits d0 3 4 ≤ 6) && decide (bits d0 7 2 ≤ 2) &&
  decide (bits d1 32 16 ≠ 0) && bits d1 48 16 == 0 && thresholdOk (bits d0 32 32) && thresholdOk (bits d1 0 32) &&
  !(val32 (bits d1 0 32)).lt (val32 (bits d0 32 32))

/-- The controller that the record sets (R308 step 5). -/
def covFrom (d0 d1 : Nat) : Cov :=
  let f := bits d0 0 3
  { frac := f, pat := bits d0 3 4, kern := bits d0 7 2, srate := bits d0 9 1 == 1, adapt := bits d0 10 1 == 1, g := bits d0 11 3
    tlo := BitVec.ofNat 32 (bits d0 32 32), thi := BitVec.ofNat 32 (bits d1 0 32), period := bits d1 32 16, hist := (f, f), start := f }

/-- A controller with its fields in their ranges (R297), and with a fraction, a pattern, a kernel, a period and thresholds that COVSET accepts
(R308). -/
def Cov.sane (k : Cov) : Cov :=
  let ok := thresholdOk k.tlo.toNat && thresholdOk k.thi.toNat && !(val32 k.thi.toNat).lt (val32 k.tlo.toNat)
  { k with
    frac := k.frac % 6, pat := k.pat % 7, kern := k.kern % 3, g := k.g % 8, tlo := if ok then k.tlo else 0, thi := if ok then k.thi else 0
    period := max 1 (k.period % 65536), ns := k.ns % 4294967296, tkt := k.tkt % 4294967296, appl := k.appl % 4294967296
    hist := (k.hist.1 % 6, k.hist.2 % 6), upd := k.upd % 4294967296, start := k.start % 6
    early := k.early.map fun e => (e.1 % 4294967296, e.2.1 % 4294967296, e.2.2 % 4294967296) }

/-- No unretired block holds a ticket of the controller, and every contribution is applied. -/
def Ctx.covIdle (x : Ctx) (n : Fin 4) : Bool :=
  !((allBlocks x).any fun e => e.cap.covs.any (·.cov == n)) && (x.covs.get n).early.isEmpty

/-- Steps 3 to 5 of COVSET (R308). -/
def covsetAct (t : TileNo) (c : SlotNo) (n : Fin 4) (a : Word) : M Unit := do
  let x ← getCtx t c
  let ds ← loadDws t c x a 2
  let d0 := (ds[0]?.getD 0).toNat
  let d1 := (ds[1]?.getD 0).toNat
  check (covOk d0 d1) .coverageConfig a
  modCtx t c fun y => { y with covs := y.covs.set n (covFrom d0 d1) }

/-- COVSET (R308). -/
def execCovset (h : Hd) (n : Fin 4) (a : Src) (s : State) : Host.Outcome State Fault Refusal :=
  dealer h (do
    let v ← readA a
    check (v.toNat % 16 == 0) .misalignedData v
    let (t, c) ← me
    let x ← getCtx t c
    if x.covIdle n then do
      covsetAct t c n v
      return {}
    else waitFor (.covset n v)) s (ends := true)

/-- Run the effect of a waiting dealer instruction once its condition holds: it completes, faults at the instruction, or waits for a
window and then starts again. -/
def waitAct (t : TileNo) (c : SlotNo) (x : Ctx) (w : Wait) (m : M Eff) (s : State) : Host.Outcome State Fault Refusal :=
  runEff t c x w.h w.len true w.dst (do
    onDealer t c
    let e ← m
    match w.dst, e.val with
    | some d, some v => modCtx t c fun y => y.setDst d v
    | _, _ => pure ()
    return e) s

/-- COVSET_IDLE_ACTION: the controller is idle; COVSET reads its record and acts in one step (R308). -/
def execCovsetIdleAction (t : TileNo) (c : SlotNo) (s : State) : Host.Outcome State Fault Refusal :=
  match s.ctx? t c with
  | none => .next s
  | some x =>
    match x.wait with
    | none => .next s
    | some w =>
      match w.kind with
      | .covset n a =>
        if x.covIdle n then
          waitAct t c x w (do
            covsetAct t c n a
            return {}) s
        else .next s
      | _ => .next s

/-! ## COVGET, COVSTAT (R309) -/

/-- What COVGET reads. -/
def Cov.get (k : Cov) (sel : Nat) : Nat :=
  match sel with
  | 0 => k.frac + 8 * k.pat + 128 * k.kern + 512 * k.srate.toNat + 1024 * k.adapt.toNat + 2048 * k.g
  | 1 => k.tlo.toNat + 4294967296 * k.thi.toNat
  | _ => k.period

/-- What COVSTAT reads. -/
def Cov.stat (k : Cov) (sel : Nat) : Nat :=
  match sel with
  | 0 => k.esum.toNat + 4294967296 * k.ns
  | 1 => k.tkt + 4294967296 * k.appl
  | _ => k.lastm.toNat + 4294967296 * k.upd

/-- COVGET. -/
def execCovget (h : Hd) (d : Dst) (n : Fin 4) (c : Src) (s : State) : Host.Outcome State Fault Refusal :=
  dealer h (do
    let k ← readC c (BitVec.ofNat 64 n)
    check (decide (k.toNat ≤ 2)) .reservedField (BitVec.ofNat 64 n)
    op0 d (BitVec.ofNat 64 (((← myCtx).covs.get n).get k.toNat))) s (ends := true)

/-- COVSTAT. -/
def execCovstat (h : Hd) (d : Dst) (n : Fin 4) (c : Src) (s : State) : Host.Outcome State Fault Refusal :=
  dealer h (do
    let k ← readC c (BitVec.ofNat 64 n)
    check (decide (k.toNat ≤ 2)) .reservedField (BitVec.ofNat 64 n)
    op0 d (BitVec.ofNat 64 (((← myCtx).covs.get n).stat k.toNat))) s (ends := true)

end Sys2Proof.Machine
end

