-- ==== Sys2Proof/Machine/Matrix.lean ====
section
/-!
DEFINITION. The matrix engine: operand pairs and slots (R200 to R204), accumulator tiles (R205, R206), the K-steps (R208, R209), the
reconstruction of skipped cells (R305), and the power of the array with BURST (R213, R214).
-/
namespace Sys2Proof.Machine

/-! ## Formats -/

/-- K of an operand pair under an operator; none where the pair is not one of R200. -/
def pairK (op fa fb : Nat) : Option Nat :=
  if 4 ≤ op then (if fa = 5 ∧ fb = 5 then some 128 else none)
  else if (fa = 1 ∧ fb = 1) ∨ (fa = 2 ∧ fb = 2) then some 64
  else if (fa = 3 ∨ fa = 4) ∧ (fb = 3 ∨ fb = 4) then some 128
  else if fa = 8 ∧ fb = 8 then some 256
  else if fa = 8 ∧ fb = 3 then some 128
  else none

/-- The direction suits the format (R203). -/
def dirOk (dir fmt : Nat) : Bool := dir == 0 || fmt == 1 || fmt == 2

/-- The format has no NBV 1 order (R89). -/
def fmtNoNbv (f : Nat) : Bool := f == 8 || f == 4

/-- The slot and the half that an operand reads at an index tuple (R202). -/
def matSlot (o : MatOp) (idx : List Nat) (half : Bool) : Nat × Nat :=
  let q := idx[o.lvl]?.getD 0 % o.ring
  if half then (o.base + q / 2, q % 2) else (o.base + q, 0)

/-- The accumulator tile of an index tuple (R205). -/
def matTile (m : MatBody) (idx : List Nat) : Nat :=
  ((m.cbase : Int) + dot idx m.cstr).toNat + (if 1 < m.cring then idx[m.clvl]?.getD 0 % m.cring else 0)

/-! ## Operands -/

/-- What one iteration reads of an operand: for each output index the codes of its K-vector and its block scales; and the band scale. -/
structure Operand where
  fmt  : Nat
  vec  : Array (List Nat)
  scal : Array (Array Nat)
  band : Nat

/-- The offsets in a slot of the bytes of element (i, j) (R133). -/
def slotOffs (fmt i j : Nat) : List Nat :=
  match fmtHalves fmt with
  | 1 => [128 * i + j / 2]
  | 4 => [128 * i + 2 * j, 128 * i + 2 * j + 1]
  | _ => [128 * i + j]

/-- The code of element (i, j) in the bytes of a slot. -/
def slotCode (fmt : Nat) (bs : Array Byte) (i j : Nat) : Nat :=
  match slotOffs fmt i j with
  | [k] => if fmtHalves fmt = 1 then nibbleOf (bs[k]?.getD 0).toNat j else (bs[k]?.getD 0).toNat
  | ks => leNat (ks.map fun k => bs[k]?.getD 0)

/-- Row and column in the slot of element k of the K-vector r in a direction (R203); h is the half of the mixed pair. -/
def kvecAt (dir h r k : Nat) : Nat × Nat :=
  match dir with
  | 0 => (r, 128 * h + k)
  | 1 => (k, r)
  | 2 => (k, (k + r) % 64)
  | _ => (k, (r + 64 - k % 64) % 64)

/-- Element k of the K-vector r. -/
def kvecCode (fmt dir h : Nat) (bs : Array Byte) (r k : Nat) : Nat := let p := kvecAt dir h r k; slotCode fmt bs p.1 p.2

/-- n bytes of a unit of which an iteration reads those that `uses` names: only these are looked at for unreadable words (R197, R206, R305, log 131). -/
def unitPart (t : TileNo) (c : SlotNo) (x : Ctx) (cap : Cap) (k n : Nat) (uses : Nat → Bool) : M (List Byte) := do
  if (← see fun s => badBytes s k n) = 0 then see fun s => cellsRead s.mem k n
  else do
    let bad ← see fun s => ((List.range n).filter fun o => badBytes s (k + o) 1 != 0 && uses o).length
    if bad = 0 then pure ()
    else if cap.strict then do
      let v ← drawNat
      efault .eccStrict (BitVec.ofNat 64 v)
    else countBad t c x 0 bad
    see fun s => readBytes s k n

/-- Read an operand (R204, R208): the K-vectors whose index has a computed cell. -/
def readOperand (t : TileNo) (c : SlotNo) (x : Ctx) (cap : Cap) (fmt dir slot h K : Nat) (need : Nat → Bool) : M Operand := do
  let uses (o : Nat) : Bool := (List.range 64).any fun r => need r && (List.range K).any fun k =>
    let p := kvecAt dir h r k; (slotOffs fmt p.1 p.2).contains o
  let bs := (← unitPart t c x cap (handAt t slot 0) 8192 uses).toArray
  let vec := (Array.range 64).map fun r => (List.range K).map (kvecCode fmt dir h bs r)
  let scal ← if fmt = 8 then do
      let n := K / 8
      let rows ← (List.range 64).mapM fun r => unitPart t c x cap (compAt t slot (32 * r + 16 * h)) n fun _ => need r
      pure ((rows.map fun r => (r.map BitVec.toNat).toArray).toArray)
    else pure #[]
  let g ← see fun s => slotTag (s.tile t) slot
  return { fmt, vec, scal, band := g.bandscale.toNat }

/-- The scale of group g of K-vector r (R208). -/
def Operand.scale (o : Operand) (r g : Nat) : Val :=
  if o.fmt = 8 then (Val.ofQ false (scaleQ ((o.scal[r]?.getD #[])[g]?.getD 0))).mul (bf16.val o.band) else .num (.ofInt 1)

/-- The K-vectors as values; NBV 1 reads BF16 subnormals as zeros (R89). -/
def Operand.vals (o : Operand) (nbv : Bool) : Array (List Val) :=
  o.vec.map fun v => v.map fun k => match o.fmt with
    | 8 => fp4.val k
    | f => if nbv && f == 2 && isSub 2 k then .zero (elemVal 2 k).neg? else elemVal f k

/-! ## The iteration -/

/-- The checks of an operand's slot tag (R204); a format that LINK did not fix is not compared. -/
def tagCheck (g : SlotTag) (tid : Nat) (want : Option Nat) : M Unit := do
  echeck (g.valid && g.tid.toNat == tid) .tidInvalid
  match want with
  | some f => echeck (g.format.toNat == f) .cbUnsupportedTypes
  | none => pure ()

/-- The start check of R302 for a block that a PATCH may have changed: an operator outside the elementwise groups, a queue output, or
an integer destination with a kernel other than nearest. -/
def covAllowed (b : Body) (kern : Nat) : Bool :=
  match b with
  | .matrix m => decide (m.op < 4) || kern == 0
  | .vector v => decide (1 ≤ v.op) && decide (v.op ≤ 0x34) && v.w.kind != 4 && (!fmtInt v.w.type || kern == 0)
  | .nop | .endB | .load _ | .store _ | .patch _ | .rendezvous | .resolve _ _ => true

/-- A PATCHOK block checks its controller at its start (R302). -/
def covStart (e : Entry) : M Unit :=
  if e.cur.hdr.patchok && e.run.iter == 0 then
    match e.run.cov with
    | some k => if covAllowed e.cur.body k.kern then pure () else efault .coverageConfig 0 .start
    | none => pure ()
  else pure ()

/-- Skipped cells of a tile: none unless the controller acts. -/
def cellSkipped (cov : Option CovCap) (tile r q : Nat) : Bool :=
  match cov with
  | some k => k.acts && isSkipped k (fun u v => decide (u < 8) && decide (v < 8)) (r / 8) (q / 8) tile
  | none => false

/-- The 16,384 bytes of a tile as 4-byte codes. -/
def tileWords (bs : List Byte) : Array Nat :=
  let a := bs.toArray
  (Array.range 4096).map fun i => leNat [a[4 * i]?.getD 0, a[4 * i + 1]?.getD 0, a[4 * i + 2]?.getD 0, a[4 * i + 3]?.getD 0]

/-- The bytes of 4-byte codes. -/
def wordBytes (ws : Array Nat) : List Byte := ws.toList.flatMap (natLe 4)

/-- The new value of element (r, q), and the clamps it counts (R208, R209). -/
def kstepElem (m : MatBody) (nbv : Bool) (Q : Val) (A B : Operand) (va vb : Array (List Val)) (c r q : Nat) : Nat × Nat :=
  let ab := (va[r]?.getD []).zip (vb[q]?.getD [])
  let sub := m.op % 4 == 2
  if 4 ≤ m.op then
    let ij := ((A.vec[r]?.getD []).zip (B.vec[q]?.getD [])).map fun p => (toInt 8 p.1, toInt 8 p.2)
    kstepI sub m.sat c ij ij.length
  else if nbv then (kstep1 sub c ab Q, 0)
  else (kstep0 sub c ab fun g => ((A.scale r g).mul (B.scale q g)).mul Q, 0)

/-- Which activity counter a K-step counts in (R424, log 27). -/
def kstepKind (fa fb : Nat) : Fin 9 := if fa = 8 ∧ fb = 8 then 0 else if fa = 1 ∨ fa = 2 then 2 else 1

/-- The work of the first n cycles of a ramp, in quarters of a full-cycle equivalent (R213). -/
def rampWork (n : Nat) : Nat := min n 16 + 2 * (min n 32 - 16) + 3 * (min n 48 - 32)

/-- From COLD the array begins its ramp, for a context's block, which fills it, or for its BURST (R213). -/
def MxPower.rampUp (m : MxPower) (who : Nat × BitVec 16) (block : Bool) (now : Nat) : MxPower :=
  if m.state = .cold then { m with state := .ramp, since := now, owner := some who, filled := block } else m

/-- Charge n quarters of a full-cycle equivalent of filler to the context that caused the ramp, wherever it stands (R213, R424). -/
def chargeFiller (t : TileNo) (n : Nat) (s : State) : State :=
  match (s.tile t).mx.owner with
  | some o => s.chargeOwner o.1 o.2 3 n
  | none => s

/-- The cycle in which the array is in FULL. -/
def MxPower.fullAt (m : MxPower) : Nat := if m.state = .ramp then m.since + 48 else m.since

/-- The filler of FULL up to an instant: four quarters for each cycle in which a hold is in force and no iteration runs (R213). -/
def MxPower.heldIdle (m : MxPower) (upto : Nat) : Nat :=
  if m.state ≠ .cold ∧ m.hold ≠ 0 then 4 * (min upto m.hold - max (max m.idle m.fullAt) m.from') else 0

/-- The cycles of a K-step that starts in cycle n of a ramp: 64 full-cycle equivalents (R213). The cycle within which the work ends is occupied as a
whole, which R213 does not say (DEDUCED, log 27). -/
def rampStep (n : Nat) : Nat := if n < 48 then (48 - n) + (256 - (96 - rampWork n) + 3) / 4 else 64

/-- A hold that has passed ends: its filler is charged, and the idle count starts no earlier (R213, R214). -/
def settleHold (t : TileNo) (s : State) : State :=
  let m := (s.tile t).mx
  if m.hold ≠ 0 ∧ m.hold ≤ s.now then
    let s := chargeFiller t (m.heldIdle m.hold) s
    s.setTile t { s.tile t with mx := { (s.tile t).mx with idle := max m.idle m.hold, hold := 0, from' := 0 } }
  else s

/-- A ramp that has lasted 48 cycles is over, its filler charged where no block filled it (R213). -/
def settleRamp (t : TileNo) (upto : Nat) (s : State) : State :=
  let m := (s.tile t).mx
  if m.state = .ramp ∧ m.since + 48 ≤ upto then
    let s := if m.filled then s else chargeFiller t (rampWork 48) s
    s.setTile t { s.tile t with mx := { m with state := .full, since := m.since + 48 } }
  else s

/-- A K-step starts, once the one before it is over, and occupies the array for its cycles (R213). From COLD it begins the ramp for its context; in
a ramp, or in a held FULL, the filler before it is charged. -/
def stepPower (t : TileNo) (who : Nat × BitVec 16) (s : State) : State :=
  let start := max s.now (s.tile t).mx.idle
  let s := settleRamp t start (settleHold t s)
  let m := (s.tile t).mx
  let s := match m.state with
    | .cold => s
    | .ramp => if m.filled then s else chargeFiller t (rampWork (start - m.since)) s
    | .full => chargeFiller t (m.heldIdle start) s
  let up := m.rampUp who true start
  s.setTile t { s.tile t with mx := match up.state with
    | .ramp => { up with filled := true, idle := start + rampStep (start - up.since) }
    | .cold | .full => { up with idle := start + 64 } }

/-- Write the computed cells of a tile: all of it, or the pieces of rows that belong to them; the bytes of the others are not touched (R305). -/
def writeTile (t : TileNo) (T : Nat) (ws : Array Nat) (skip : Nat → Nat → Bool) (s : State) : State :=
  if (List.range 64).any fun i => skip (i / 8) (i % 8) then
    (List.range 512).foldl (fun s i =>
      let r := i / 8
      let q := i % 8
      if skip (r / 8) q then s
      else writeBytes s (accAt t T (256 * r + 32 * q)) (((List.range 8).map fun j => ws[64 * r + 8 * q + j]?.getD 0).flatMap (natLe 4))) s
  else writeBytes s (accAt t T 0) (wordBytes ws)

/-- One K-step of a MATRIX block (R208, R209): tags, pairing, accumulator, then every computed element. A format that LINK did not know meets the
NBV check of R89 here, before the accumulator's (log 130). -/
def matIter (t : TileNo) (c : SlotNo) (x : Ctx) (e : Entry) (m : MatBody) : M Unit := do
  covStart e
  let idx := e.index
  let known := e.cap.fmtA.isSome && e.cap.fmtB.isSome
  let half := known && mixedPair e.cap.fmtA e.cap.fmtB
  let (sa, ha) := matSlot m.a idx half
  let (sb, _) := matSlot m.b idx false
  let ga ← see fun s => slotTag (s.tile t) sa
  let gb ← see fun s => slotTag (s.tile t) sb
  tagCheck ga m.a.tid e.cap.fmtA
  tagCheck gb m.b.tid e.cap.fmtB
  let fa := e.cap.fmtA.getD ga.format.toNat
  let fb := e.cap.fmtB.getD gb.format.toNat
  match pairK m.op fa fb with
  | none => efault .cbUnsupportedTypes
  | some K => do
    echeck (dirOk m.a.dir fa && dirOk m.b.dir fb) .cbUnsupportedTypes
    echeck (!(e.cap.nbv && (fmtNoNbv fa || fmtNoNbv fb))) .nbvUnsupported
    let T := matTile m idx
    let g ← see fun s => accTag (s.tile t) T
    let want : Nat := if 4 ≤ m.op then 7 else 0
    let fresh := m.op % 4 == 1 && !e.run.visited.contains T
    echeck (fresh || !g.written || g.format.toNat == want) .accConflict
    let skip (r q : Nat) : Bool := cellSkipped e.run.cov T r q
    let A ← readOperand t c x e.cap fa m.a.dir sa ha K fun r => (List.range 8).any fun q => !skip r (8 * q)
    let B ← readOperand t c x e.cap fb m.b.dir sb 0 K fun q => (List.range 8).any fun r => !skip (8 * r) q
    let old ← if fresh then see fun s => cellsRead s.mem (accAt t T 0) 16384
      else unitPart t c x e.cap (accAt t T 0) 16384 fun o => !skip (o / 256) (o / 4 % 64)
    let cs := tileWords old
    let va := A.vals e.cap.nbv
    let vb := B.vals e.cap.nbv
    let Q : Val := if m.qsen then bf16.val e.cap.qs.toNat else .num (.ofInt 1)
    let out := (Array.range 4096).map fun i =>
      let r := i / 64
      let q := i % 64
      let c := cs[i]?.getD 0
      if skip r q then (c, 0, 0)
      else let k := kstepElem m e.cap.nbv Q A B va vb (if fresh then 0 else c) r q; (k.1, k.2, 1)
    countEvents t c ⟨0, out.foldl (fun n k => n + k.2.1) 0⟩
    upd (writeTile t T (out.map (·.1)) fun r q => skip (8 * r) (8 * q))
    setAccTag t T { format := BitVec.ofNat 4 want, written := true }
    upd fun s => s.charge t c (kstepKind fa fb) (out.foldl (fun n k => n + k.2.2) 0 / 64)
    modCtx t c fun y => y.modEntry 2 e.seq fun e => { e with
      cap := { e.cap with fmtA := some fa, fmtB := some fb }
      run := { e.run with iter := e.run.iter + 1, visited := if e.run.visited.contains T then e.run.visited else e.run.visited ++ [T] } }
    upd (stepPower t (x.job, x.num))

/-- A K-step of the running MATRIX block whose operator is floating or integer. -/
def matStep (t : TileNo) (c : SlotNo) (int : Bool) : M Unit := do
  let (x, e) ← running t c 2
  enabled (decide (e.run.iter < e.total))
  match e.cur.body with
  | .matrix m => do
    enabled (decide (4 ≤ m.op) == int)
    blockStep t c 2 e x.job (matIter t c x e m)
  | _ => exit .idle

/-- MATRIX_FLOAT_K_STEP (R208). -/
def execMatrixFloatKStep (t : TileNo) (c : SlotNo) (s : State) : Host.Outcome State Fault Refusal := agent (matStep t c false) s

/-- MATRIX_INT_K_STEP (R209). -/
def execMatrixIntKStep (t : TileNo) (c : SlotNo) (s : State) : Host.Outcome State Fault Refusal := agent (matStep t c true) s

/-! ## Reconstruction -/

/-- The cells of a tile in row order. -/
def cells8 : List (Nat × Nat) := (List.range 64).map fun i => (i / 8, i % 8)

/-- Element i of a cell, row by row. -/
def cellElem (p : Nat × Nat) (i : Nat) : Nat := 64 * (8 * p.1 + i / 8) + 8 * p.2 + i % 8

/-- Fill the skipped cells of one visited tile, and the errors of its sample cells (R301, R305). -/
def fillTile (t : TileNo) (c : SlotNo) (x : Ctx) (e : Entry) (k : CovCap) (int : Bool) (T : Nat) : M (List Nat) := do
  let on : Grid := fun u v => decide (u < 8) && decide (v < 8)
  let idx := k.frac.getD 0
  let skipped := cells8.filter fun p => isSkipped k on p.1 p.2 T
  let sampled := cells8.filter fun p => isSample k on p.1 p.2 T
  let read (_ : Unit) : List (Nat × Nat) :=
    skipped.flatMap (fun p => sources k idx on p.1 p.2) ++ sampled ++ sampled.flatMap fun p => sources k (sampleIdx k) on p.1 p.2
  let ws := tileWords (← unitPart t c x e.cap (accAt t T 0) 16384 fun o => (read ()).contains (o / 2048, o / 32 % 8))
  let at' (i : Nat) : Nat := ws[i]?.getD 0
  let inter (idx : Nat) (p : Nat × Nat) (i : Nat) : Nat := interpolate k idx on (fun q => at' (cellElem q i)) p.1 p.2
  let ws' := skipped.foldl (fun a p => (List.range 64).foldl (fun a i => a.setIfInBounds (cellElem p i) (inter idx p i)) a) ws
  if skipped.isEmpty then pure () else upd (writeTile t T ws' fun r q => !skipped.contains (r, q))
  setAccTag t T { format := if int then 7 else 0, written := true }
  let ty := if int then 7 else 0
  return sampled.flatMap fun p => (List.range 64).map fun i =>
    sampleErr (elemVal ty (inter (sampleIdx k) p i)) (elemVal ty (at' (cellElem p i)))

/-- The end of a MATRIX block with a controller: reconstruction, tiles in order of first visit; the error sum and the sample count. -/
def matFinish (t : TileNo) (c : SlotNo) (x : Ctx) (e : Entry) (m : MatBody) : M (Nat × Nat) := do
  match e.run.cov with
  | none => return (0, 0)
  | some k =>
    if k.acts then do
      let es ← e.run.visited.mapM (fillTile t c x e k (decide (4 ≤ m.op)))
      return (sumErr es.flatten, es.flatten.length)
    else return (0, 0)

/-! ## Power -/

/-- BURST (R214). -/
def execBurst (h : Hd) (n : BitVec 9) (s : State) : Host.Outcome State Fault Refusal :=
  dealer h (do
    let (t, c) ← me
    let x ← getCtx t c
    let now ← see (·.now)
    upd (settleHold t)
    modTile t fun y => { y with mx := { y.mx.rampUp (x.job, x.num) false now with
      hold := max y.mx.hold (now + 2 * n.toNat), from' := if y.mx.hold = 0 then now else y.mx.from' } }
    return {}) s

/-- RAMP_COMPLETE: after 48 cycles of RAMP the array is in FULL; the 24 full-cycle equivalents that no block filled are charged (R213, R424). -/
def execRampComplete (t : TileNo) (s : State) : Host.Outcome State Fault Refusal :=
  agent (do
    let y ← see (·.tile t)
    let now ← see (·.now)
    enabled (y.mx.state == .ramp && decide (y.mx.since + 48 ≤ now))
    upd (settleRamp t now)) s

/-- An iteration of a context's MATRIX chain is ready or under way. -/
def Ctx.matBusy (x : Ctx) : Bool :=
  !x.stops && (x.chain 2).state == .running && (runningOf (x.chain 2).queue).any fun e => decide (e.run.iter < e.total)

/-- MATRIX_COLD: 64 idle cycles in FULL with no hold in force (R213, R214). -/
def execMatrixCold (t : TileNo) (s : State) : Host.Outcome State Fault Refusal :=
  agent (do
    upd (settleHold t)
    let y ← see (·.tile t)
    let m := y.mx
    let now ← see (·.now)
    enabled (m.state == .full && decide (m.hold ≤ now) && decide (max (max m.idle m.hold) m.since + 64 ≤ now))
    enabled (y.slots.toList.all fun o => o.all fun x => !x.matBusy)
    modTile t fun y => { y with mx := { y.mx with state := .cold, since := 0 } }) s

/-- BURST_HOLD_EXPIRY: the hold has passed; the filler that it kept running is charged, and the idle count starts no earlier (R213,
R214). -/
def execBurstHoldExpiry (t : TileNo) (s : State) : Host.Outcome State Fault Refusal :=
  agent (do
    let m := (← see (·.tile t)).mx
    enabled (m.hold != 0 && decide (m.hold ≤ (← see (·.now))))
    upd (settleHold t)) s

end Sys2Proof.Machine
end

