-- ==== Sys2Proof/Machine/Link.lean ====
section
/-!
DEFINITION. LINK (R176 to R178): the six steps of checks with the engines' own rules (R186 to R192, R200 to R210, R238 to R248, R268,
R272, R276, R302), what a block captures (R173, R267), its pins (R175, R391), and the commitment.
-/
namespace Sys2Proof.Machine

/-- A LINK in hand: its tile and slot, the context, its chain, the block address, and the bytes dropped so far. -/
structure Linking where
  t     : TileNo
  c     : SlotNo
  x     : Ctx
  ch    : ChainNo
  ga    : Word
  drops : Nat := 0

/-- A fault of kind L (R374, R377); `n` more bytes were dropped, and are recorded (R381). -/
def Linking.fail {α : Type} (k : Linking) (c : Cause) (n : Nat := 0) : M α :=
  fun s => .error (.ltrap c k.ga
    ⟨k.drops + n, if k.drops + n = 0 then [] else [causeRec s k.t k.x .eccStrict k.ga (BitVec.ofNat 64 (k.drops + n))], s.free, s.reqs⟩)
/-- Raise a cause unless a condition holds. -/
def Linking.check (k : Linking) (ok : Bool) (c : Cause) : M Unit := if ok then pure () else k.fail c
/-- Raise a cause that a check found. -/
def Linking.raise (k : Linking) (o : Option Cause) : M Unit :=
  match o with
  | none => pure ()
  | some c => k.fail c

/-! ## Step 1: the image -/

/-- CHAINBASE or CHAINLIM as an offset (R160). -/
def chainOff (v : BitVec 32) : Nat := v.toNat % 16777216 / 64 * 64

/-- The offset of the block (R176 step 1). -/
def Linking.addr (k : Linking) : M Nat := do
  let sp := spaceOf k.ga
  k.check ((sp == 0 || sp == 8) && decide (offOf k.ga < 16777216)) .addressSpace
  let o := offOf k.ga
  k.check (o % 64 == 0) .misalignedData
  return o

/-- n bytes at an offset lie in chain memory and in the scratchpad, and clear of the decks (R176, R318). -/
def Linking.inChain (k : Linking) (s : State) (o n : Nat) : Bool :=
  decide (chainOff k.x.chainbase ≤ o) && decide (o + n ≤ chainOff k.x.chainlim) && decide (o + n ≤ padBytes k.x.partw) &&
    !hitsDeck (s.tile k.t) o n

/-- The image as a number, and how many of its bytes cannot be read (R176 step 1): a read of the dealer (R347). -/
def Linking.image (k : Linking) (o : Nat) : M (Nat × Nat) := do
  k.check (← see fun s => k.inChain s o 64) .outOfPool
  let long ← see fun s => bits (readNat s (spAt k.t o) 4) 4 1 == 1
  let n := if long then 128 else 64
  k.check (← see fun s => k.inChain s o n) .outOfPool
  noteRead k.t k.c (spAt k.t o) n
  let bad ← see fun s => badBytes s (spAt k.t o) n
  k.check (bad == 0 || !k.x.strict) .eccStrict
  return (← see fun s => readNat s (spAt k.t o) n, bad)

/-! ## Step 3: form and types -/

/-- The ports an operator uses: y where it takes two inputs, z where it takes three or where z is the mask. -/
def VecBody.uses (b : VecBody) (j : Nat) : Bool :=
  match j with
  | 0 | 3 => true
  | 1 => match vgroup b.op with
    | some .binary | some .three | some .compare | some .bitwise | some .index => true
    | _ => false
  | _ => b.msrc == 1 || (match vgroup b.op with
    | some .three => true
    | _ => false)

/-- The operator takes IMM (R244, R249). -/
def usesImm (op : Nat) : Bool := (decide (0x08 ≤ op) && decide (op ≤ 0x0C)) || op == 0x48

/-- The bits above the width of w's type are 0. -/
def immFits (ty imm : Nat) : Bool := decide (8 ≤ ty) || decide (imm < 2 ^ (8 * fmtBytes ty))

/-- The elements a port moves at most (R240). -/
def portMoves (b : VecBody) (j : Nat) : Nat :=
  match portUse b j with
  | .walk => iterCount b.bnd
  | .rows => vecRows b
  | .first => 1
  | .table | .unused => 0

/-- The region elements of a port lie in its region (R239). -/
def portInside (b : VecBody) (j : Nat) : Bool :=
  let p := b.port j
  let span (l : List (Nat × Int)) : Bool :=
    l.any (·.1 == 0) ||
      (let r := l.foldl (fun (a : Int × Int) d => (a.1 + reachLo d.1 d.2, a.2 + reachHi d.1 d.2)) (0, 0)
       decide (0 ≤ r.1) && decide (r.2 < p.count))
  match portUse b j with
  | .walk => span (b.bnd.zip p.str)
  | .rows => span ((b.bnd.drop 1).zip (p.str.drop 1))
  | .first | .table | .unused => true

/-- The strides that the operator forbids are 0: of outputs of reductions and of tables (R257 to R259), and of queues (R240). -/
def portStrides (b : VecBody) (j : Nat) : Bool :=
  let p := b.port j
  match portUse b j with
  | .first | .table => p.str.all (· == 0)
  | .rows => p.str.headD 0 == 0 && (p.kind != 4 || p.str.all (· == 0))
  | .walk | .unused => p.kind != 4 || p.str.all (· == 0)

/-- The CB_MALFORMED rules of a VECTOR block beyond its encoding (R248); a queue port that names no endpoint is one of them (log 142). -/
def vecFormed (b : VecBody) : Bool :=
  ((List.range 4).all fun j =>
    if b.uses j then
      let p := b.port j
      p.kind != 0 && p.count != 0 && portStrides b j && (p.kind != 4 || decide (p.base < 8)) &&
        (if p.kind = 4 then decide (portMoves b j ≤ p.count) else portInside b j)
    else (b.port j).kind == 0) &&
  !(b.msrc == 1 && vgroup b.op == some .three) && !(b.msrc == 2 && b.ragged) &&
  (if usesImm b.op then immFits b.w.type b.imm.toNat else b.imm == 0) &&
  !(b.op == 0x48 && decide (8192 < b.bnd.headD 0))

/-- The TYPE that a kind of port accepts (R238). -/
def portTyped (p : VPort) : Bool :=
  match p.kind with
  | 2 => p.type == 0 || p.type == 7
  | 3 => decide (1 ≤ p.type) && decide (p.type ≤ 5)
  | _ => decide (p.type ≤ 7)

/-- The CB_UNSUPPORTED_TYPES rules of a VECTOR block (R238, R242, R255, R256, R259, R260). -/
def vecTyped (b : VecBody) : Bool :=
  ((List.range 4).all fun j => !b.uses j || portTyped (b.port j)) && b.w.kind != 3 &&
  (b.msrc != 1 || fmtInt b.z.type) && !(b.mmode == 1 && b.w.kind == 4) &&
  (match vgroup b.op with
   | some .special => decide (b.w.type ≤ 4)
   | some .bitwise => fmtInt b.x.type && fmtInt b.y.type && fmtInt b.w.type
   | some .index => fmtInt b.y.type && (if b.op = 0x40 then b.x.kind != 4 else b.w.kind == 1 || b.w.kind == 2)
   | some .softmax => b.x.kind != 4 && decide (b.w.type ≤ 4)
   | _ => true)

/-- A copy block's queue endpoint exists (R192); LINK has refused others with the form of the block. -/
def copyFormed (b : CopyBody) : Bool := b.lkind != 3 || decide (b.lbase < 8)

/-- The pairing of a copy block's kind, local kind and tensor format (R188); `fmt` is none where the entry is invalid. -/
def copyTyped (store : Bool) (b : CopyBody) (fmt : Option Nat) : Bool :=
  !(b.combine && b.shape) && !(store && b.lkind == 1) &&
  (match fmt with
   | none => true
   | some f =>
     if store then !(b.lkind == 3 && f == 8) && !(b.combine && f == 8)
     else match b.lkind with
      | 1 => decide (1 ≤ f) && decide (f ≤ 5) || f == 8
      | 2 => f == 0 || f == 7
      | 3 => f != 8
      | _ => true)

/-- The format of an entry, if it is valid (R201). -/
def Ctx.entryFmt (x : Ctx) (n : Nat) : Option Nat := if titValid (x.titNo n) then some (titFmt (x.titNo n)) else none

/-- R62 steps 1 to 3 and NBV (R176 step 3). -/
def formCause (x : Ctx) (ch : ChainNo) (v : Nat) : Except Cause Blk := do
  let b ← parseBlk opAssigned ch v
  match b.body with
  | .vector w => do
    formed (vecFormed w)
    if vecTyped w then .ok b else .error .cbUnsupportedTypes
  | .matrix m => do
    let fa := x.entryFmt m.a.tid
    let fb := x.entryFmt m.b.tid
    let typed : Bool := match fa, fb with
      | some f, some g => (pairK m.op f g).isSome && dirOk m.a.dir f && dirOk m.b.dir g
      | _, _ => true
    if !typed then .error .cbUnsupportedTypes
    else if x.nbv.getLsbD 0 && (fa.any fmtNoNbv || fb.any fmtNoNbv) then .error .nbvUnsupported
    else .ok b
  | .load c => do
    if copyTyped false c (x.entryFmt c.tid) then .ok b else .error .cbUnsupportedTypes
  | .store c => do
    if copyTyped true c (x.entryFmt c.tid) then .ok b else .error .cbUnsupportedTypes
  | .nop | .endB | .patch _ | .rendezvous | .resolve _ _ => .ok b

/-! ## Captures -/

/-- The effective bases of an identifier (R152); a sum beyond 64 bits wraps (log 141). -/
def Ctx.tensCap (x : Ctx) (n : Nat) : TensCap :=
  let e := x.titNo n
  let r : Word := if titReloc e then x.reloc.get (titRel e) else 0
  let at' (k : Nat) : Word := r + BitVec.ofNat 64 (titDw e k)
  ⟨⟨n % 128, Nat.mod_lt _ (by decide)⟩, at' 1, if titFmt e = 8 then at' 2 else 0, if titFmt e = 8 then at' 3 else 0⟩

/-- Two entries agree in FORMAT, RANK, sizes and strides (R267). -/
def titAlike (a b : Tit) : Bool :=
  titFmt a == titFmt b && titRank a == titRank b && titSizes a == titSizes b && titStrides a == titStrides b

/-- The tensors a block may name: its TID, or for a PATCHOK block the tensor set (R267). -/
def Ctx.tensorSet (x : Ctx) (b : Blk) : List Nat :=
  match b.body with
  | .load c | .store c =>
    if b.hdr.patchok then
      (List.range 8).filterMap fun k =>
        let n := c.tid / 8 * 8 + k
        if n = c.tid ∨ (titValid (x.titNo n) ∧ titAlike (x.titNo c.tid) (x.titNo n)) then some n else none
    else [c.tid]
  | .nop | .endB | .matrix _ | .vector _ | .patch _ | .rendezvous | .resolve _ _ => []

/-- The residue tensor of a shaping store (R276). -/
def Ctx.residueOf (x : Ctx) (b : Blk) : Option Nat :=
  match b.body with
  | .store c => if c.shape && titRowres (x.titNo c.tid) then some (titRestid (x.titNo c.tid)).val else none
  | .nop | .endB | .load _ | .matrix _ | .vector _ | .patch _ | .rendezvous | .resolve _ _ => none

/-- A controller's capture with the next ticket (R303, R304). -/
def Ctx.covCap (x : Ctx) (n : Fin 4) : CovCap :=
  let k := x.covs.get n
  let c : CovCap := { cov := n, ticket := k.tkt, pat := k.pat, kern := k.kern, srate := k.srate, adapt := k.adapt, g := k.g, frac := none }
  { c with frac := if k.tkt / k.period < 2 then some k.start else c.fraction k }

/-- The controllers a block captures (R173, R267). -/
def Blk.covers (b : Blk) : List (Fin 4) :=
  match b.body with
  | .matrix _ | .vector _ =>
    if b.hdr.patchok then List.finRange 4
    else (List.finRange 4).filter fun n => n.val + 1 == b.hdr.csel
  | .nop | .endB | .load _ | .store _ | .patch _ | .rendezvous | .resolve _ _ => []

/-- What LINK captures of dealer state (R173), but for pages and patches. -/
def Ctx.capture (x : Ctx) (b : Blk) (f0 f1 : Word) : Cap :=
  let tids := x.tensorSet b ++ (x.residueOf b).toList
  { fp := x.fpctl.truncate 4, nbv := x.nbv.getLsbD 0, pred := x.pred b.hdr.psel, strict := x.strict
    qs := (match b.body with
      | .matrix m => x.qs.get m.qsel
      | _ => x.qs.get x.axis.qsel)
    axis := x.axis
    covs := b.covers.map x.covCap
    fut0 := f0, fut1 := f1
    tens := tids.map x.tensCap
    fmtA := (match b.body with
      | .matrix m => x.entryFmt m.a.tid
      | _ => none)
    fmtB := (match b.body with
      | .matrix m => x.entryFmt m.b.tid
      | _ => none)
    set := tids.map fun n => ⟨n % 128, Nat.mod_lt _ (by decide)⟩ }

/-! ## Step 4: resources -/

/-- A normal BF16 number of either sign (R207). -/
def bf16Normal (v : Nat) : Bool := v / 128 % 256 != 0 && v / 128 % 256 != 255

/-- The checks of R153 on one identifier, but for pages. -/
def tensorCause (x : Ctx) (store : Bool) (n : Nat) : Option Cause :=
  let e := x.titNo n
  let tc := x.tensCap n
  if !titValid e then some .tidInvalid
  else if titReloc e && !(spaceOk tc.base && (titFmt e != 8 || (spaceOk tc.s0 && spaceOk tc.s1))) then some .tidGeometry
  else if store && titReadonly e then some .pagePermission
  else if store && (titStrides e).any (· == 0) then some .tidGeometry
  else none

/-- The walk of a copy block suits its tensor and its local units (R186, R187, R190). -/
def geometryOk (x : Ctx) (b : CopyBody) : Bool :=
  let e := x.titNo b.tid
  let l0 := b.lvls.headD ⟨0, 0, 0, 0⟩
  (b.lvls.all fun l => decide (l.tdim < titRank e)) &&
  (!b.runs ||
    (let r := b.lvls.foldl (fun (a : Int × Int) l => (a.1 + reachLo l.bnd (lvlStep e l), a.2 + reachHi l.bnd (lvlStep e l))) (b.torg, b.torg)
     let x := extent (dims e)
     decide (x.1 ≤ r.1) && decide (r.2 ≤ x.2))) &&
  (titFmt e != 8 ||
    (match origin e b.torg with
     | none => false
     | some o =>
       l0.tdim == 0 && l0.tstep == 1 && l0.bnd % 8 == 0 && o.headD 0 % 8 == 0 &&
       (!b.runs || (List.range (titRank e)).all fun d =>
         let r := coordRange o b d
         decide (0 ≤ r.1) && decide (r.2 < titSize e d)))) &&
  (if b.lkind = 1 ∨ b.lkind = 2 then
    decide (l0.bnd ≤ if b.lkind = 2 then 64 else rowWidth (titFmt e)) &&
      decide ((b.lvls[1]?.map (·.bnd)).getD 0 ≤ 64)
   else true)

/-- The tensor checks of a block (R153, R186, R187, R190); of a tensor set, every check of one entry before those of the next (log 127). -/
def tensorsCause (x : Ctx) (b : Blk) : Option Cause :=
  let go (store : Bool) (c : CopyBody) : Option Cause :=
    ((x.tensorSet b).findSome? (tensorCause x store)).or (if geometryOk x c then none else some .tidGeometry)
  match b.body with
  | .load c => go false c
  | .store c => go true c
  | .nop | .endB | .matrix _ | .vector _ | .patch _ | .rendezvous | .resolve _ _ => none

/-- Scratchpad addresses are multiples of their element sizes (R189, R239, R272). -/
def alignedOk (x : Ctx) (b : Blk) : Bool :=
  let copy (store : Bool) (c : CopyBody) : Bool :=
    c.lkind != 0 ||
      (let n := fmtBytes (localFmt store c (titFmt (x.titNo c.tid)))
       c.lbase % n == 0 && c.lvls.all fun l => l.lstr % (n : Int) == 0)
  match b.body with
  | .load c => copy false c
  | .store c => copy true c
  | .vector v => ((List.range 4).all fun j =>
      let p := v.port j
      p.kind != 1 || p.base % fmtBytes p.type == 0) && (!v.readsRlt || v.rlt % 2 == 0)
  | .patch p => p.src % 4 == 0
  | .nop | .endB | .matrix _ | .rendezvous | .resolve _ _ => true

/-- The checks of a shaping store in their order (R276). -/
def shapeCause (x : Ctx) (cap : Cap) (b : Blk) : Option Cause :=
  match b.body with
  | .store c =>
    if !c.shape then none
    else
      let e := x.titNo c.tid
      let f := titFmt e
      let ax := x.axis
      let o := origin e c.torg
      let lines := lineRange e ax.dim (o.getD []) c
      let l0 := c.lvls.headD ⟨0, 0, 0, 0⟩
      if !ax.en then some .axisOrder
      else if !(f == 2 || f == 3 || f == 4 || f == 8) then some .cbUnsupportedTypes
      else if b.hdr.patchok || decide (titRank e ≤ ax.dim) || (f == 8 && ax.dim != 0) || l0.tdim != ax.dim || l0.tstep != 1 ||
          (c.lvls.drop 1).any (·.tdim == ax.dim) || o.isNone || (c.runs && lines.1 / 64 != lines.2 / 64) then some .axisOrder
      else if f == 8 && ax.bsq && !scaleOk cap.qs.toNat then some .scaleRange
      else match x.residueOf b with
        | none => none
        | some n =>
          let r := x.titNo n
          (tensorCause x true n).or (
            if titFmt r != 0 || titRank r != 1 then some .cbUnsupportedTypes
            else if c.runs && decide ((titSize r 0 : Int) ≤ lines.2) then some .tidGeometry else none)
  | .nop | .endB | .load _ | .matrix _ | .vector _ | .patch _ | .rendezvous | .resolve _ _ => none

/-- The envelope of a block (R174, R267): the residues of a shaping store only where its checks pass. -/
def linkEnv (x : Ctx) (cap : Cap) (b : Blk) : Env :=
  match b.body with
  | .store c =>
    if (shapeCause x cap b).isSome then copyEnv x cap true { c with shape := false } (x.tensorSet b)
    else blkEnv x cap b (x.tensorSet b)
  | .nop | .endB | .load _ | .matrix _ | .vector _ | .patch _ | .rendezvous | .resolve _ _ => blkEnv x cap b (x.tensorSet b)

/-- A span holds something. -/
def Span.some? (p : Span) : Bool := decide (p.lo < p.hi)

/-- Places of a range at which its chunk may change (R344). -/
def chunkStarts (lo hi : Nat) : List Nat :=
  lo :: ((List.range ((hi - 1) / 1048576 - lo / 1048576)).map fun k => (lo / 1048576 + 1 + k) * 1048576)

/-- The cause that the grant maps give a range of physical addresses. -/
def rangeFault (s : State) (job lo hi : Nat) (write : Bool) : Option Cause :=
  if hi ≤ lo then none else (chunkStarts lo hi).findSome? fun a => grantFault s job a write

/-- Where a span of a pool space lies in the physical map. -/
def poolRange (t : TileNo) (p : Span) : Option (Nat × Nat) :=
  if p.lo < 0 then none
  else match p.space with
    | 0x9 => if p.hi ≤ 33554432 then some (clPoolAt (t / 8) p.lo.toNat, clPoolAt (t / 8) p.hi.toNat) else none
    | 0xA => if p.hi ≤ 134217728 then some (diePoolAt (t / 48) p.lo.toNat, diePoolAt (t / 48) p.hi.toNat) else none
    | _ => none

/-- A span lies in the scratchpad or the pool that its space names (R132, R105, R318, R344). -/
def spanInside (s : State) (t : TileNo) (x : Ctx) (p : Span) : Bool :=
  match p.space with
  | 0x8 => decide (0 ≤ p.lo) && decide (p.hi ≤ padBytes x.partw) && !hitsDeck (s.tile t) p.lo.toNat (p.hi - p.lo).toNat
  | 0x9 | 0xA => match poolRange t p with
    | none => false
    | some r => rangeFault s x.job r.1 r.2 false == none
  | 0xB =>
    let u := p.lo.toNat / 4294967296
    let off := p.lo.toNat % 4294967296
    if h : u < 384 then
      (match residentOf (s.tile ⟨u, h⟩) x.job with
       | none => false
       | some r => decide (0 ≤ p.lo) && decide (off + (p.hi - p.lo).toNat ≤ padBytes r.partw) &&
           !hitsDeck (s.tile ⟨u, h⟩) off (p.hi - p.lo).toNat)
    else false
  | _ => true

/-- The endpoint is bound by the context in a role (R409). -/
def queueBound (s : State) (t : TileNo) (x : Ctx) (n : Nat) (push : Bool) : Bool :=
  decide (n < 8) && (match (s.ep t (epNo n)).bind with
    | some b => b.job == x.job && b.num == x.num && b.consumer == !push
    | none => false)

/-- The endpoint numbers a block names, with whether it pushes. -/
def queueNames (b : Body) : List (Nat × Bool) :=
  match b with
  | .load c => if c.lkind = 3 then [(c.lbase, true)] else []
  | .store c => if c.lkind = 3 then [(c.lbase, false)] else []
  | .vector v =>
    ([v.x, v.y, v.z].filter (·.kind == 4)).map (fun p => (p.base, false)) ++ (if v.w.kind = 4 then [(v.w.base, true)] else [])
  | .nop | .endB | .matrix _ | .patch _ | .rendezvous | .resolve _ _ => []

/-- F4B8 data would need a companion that does not exist (R135, R202). -/
def companionless (x : Ctx) (cap : Cap) (b : Blk) (env : Env) : Bool :=
  let high (m : BitVec 384) : Bool := m >>> 192 != 0
  match b.body with
  | .load c => c.lkind == 1 && titFmt (x.titNo c.tid) == 8 && high env.slots
  | .matrix m => iterCount m.bnd != 0 && ((cap.fmtA == some 8 && high (matSlots m.a (mixedPair cap.fmtA cap.fmtB)).slots) ||
      (cap.fmtB == some 8 && high (matSlots m.b false).slots))
  | .nop | .endB | .store _ | .vector _ | .patch _ | .rendezvous | .resolve _ _ => false

/-- The checks of R302 at a LINK without PATCHOK. -/
def coverCause (x : Ctx) (b : Blk) : Option Cause :=
  if b.hdr.csel = 0 ∨ b.hdr.patchok then none
  else if covAllowed b.body (x.covs.get ⟨(b.hdr.csel - 1) % 4, Nat.mod_lt _ (by decide)⟩).kern then none else some .coverageConfig

/-- The future pointer of a FUT post, read from the table (R161), with the bytes that cannot be read: under strict a fault after the tensor
checks and before those of the envelope and of the other pointer (R176 step 4, log 143). -/
def Linking.pointer (k : Linking) (p : Option PostTok) : M (Word × Nat) := do
  match p with
  | some p =>
    if p.fut then do
      let o := chainOff k.x.chainbase + 8 * p.sem.val
      k.check (← see fun s => k.inChain s o 8) .outOfPool
      noteRead k.t k.c (spAt k.t o) 8
      let bad ← see fun s => badBytes s (spAt k.t o) 8
      k.check (bad == 0 || !k.x.strict) .eccStrict
      return (BitVec.ofNat 64 (← see fun s => readNat s (spAt k.t o) 8), bad)
    else return (0, 0)
  | none => return (0, 0)

/-- The future addresses a block captures, in the order of their checks. -/
def futuresOf (b : Blk) (f0 f1 : Word) : List Word :=
  let one (p : Option PostTok) (f : Word) : List Word := if p.any (·.fut) then [f] else []
  one b.hdr.p0 f0 ++ one b.hdr.p1 f1 ++ (match b.body with
    | .resolve a _ => [a]
    | _ => [])

/-- The cause of a future's address (R323). -/
def futureCause (f : Word) : Option Cause :=
  if spaceOf f ≠ 0 then some .addressSpace else if f.toNat % 64 ≠ 0 then some .misalignedData else none

/-! ## Step 5: translation -/

/-- A part of an envelope that lies in one page: the leaf, the addresses, and what the block needs of them. -/
structure Page where
  leaf  : TlbEntry
  lo    : Nat
  hi    : Nat
  write : Bool
  chk   : Bool

/-- What the translation of an envelope gives: the parts that translate, and the first failure with the bytes it drops. -/
abbrev Pages := List Page × Option (Cause × Nat)

/-- Translate the pages of [lo, hi). A page that fails does not hide a chunk that a later one reaches (R176 step 4). -/
def pagesOf (fuel : Nat) (t : TileNo) (x : Ctx) (lo hi : Nat) (write chk : Bool) : M Pages := do
  match fuel with
  | 0 => return ([], none)
  | n + 1 =>
    if hi ≤ lo then return ([], none)
    else match ← xlate t x.strict x.job lo with
      | .error e => do
        let (ps, _) ← pagesOf n t x (lo / 65536 * 65536 + 65536) hi write chk
        return (ps, some e)
      | .ok l => do
        let (ps, e) ← pagesOf n t x (l.base + leafBytes l.size) hi write chk
        return (⟨l, lo, min hi (l.base + leafBytes l.size), write, chk⟩ :: ps, e)

/-- The pages of every span in space 0x0, and of the futures. -/
def envPages (t : TileNo) (x : Ctx) (spans : List Span) : M Pages := do
  match spans with
  | [] => return ([], none)
  | p :: r =>
    if p.space = 0 ∧ p.lo < p.hi then do
      let (ps, e) ← pagesOf ((p.hi - p.lo).toNat / 65536 + 2) t x p.lo.toNat p.hi.toNat p.write p.chk
      let e := if p.lo < 0 then some (.pageNotPresent, 0) else e
      let (qs, f) ← envPages t x r
      return (ps ++ qs, e.or f)
    else envPages t x r

/-- The distinct pages. -/
def mergePages (ps : List Page) : List Page :=
  ps.foldl (fun acc p => if acc.any fun q => q.leaf.base == p.leaf.base && q.leaf.size == p.leaf.size then acc else acc ++ [p]) []

/-- The physical range of a part. -/
def Page.range (p : Page) : Nat × Nat := (leafPa p.leaf p.lo, leafPa p.leaf p.hi)

/-- A chunk that a part reaches is not granted (R344). -/
def Page.denied (s : State) (job : Nat) (p : Page) (write : Bool) : Bool :=
  (rangeFault s job p.range.1 p.range.2 write).isSome

/-- Every byte of the part is checked memory; in a pool every chunk it reaches, in HBM4 by CHK of the leaf alone (R352, R388; DESIGN CHOICE, log 113). -/
def Page.checked (s : State) (p : Page) : Bool :=
  if (poolPlace p.range.1).isSome then (chunkStarts p.range.1 p.range.2).all fun a => checkedAt s a p.leaf.chk else p.leaf.chk

/-- The part lacks a permission that the block needs (R153, R389, R391). -/
def Page.refused (s : State) (job : Nat) (p : Page) : Bool :=
  (p.write && (!p.leaf.w || p.denied s job true)) || (p.chk && !p.checked s)

/-- The checks of a span that leads through a window (R401). -/
def spanWindow (s : State) (t : TileNo) (x : Ctx) (combine : Bool) (p : Span) : Option Cause :=
  if p.space ≠ 0xC ∨ p.hi ≤ p.lo then none
  else if p.lo < 0 ∨ p.lo / 1099511627776 ≠ (p.hi - 1) / 1099511627776 then some .windowFault
  else windowCause s t x.job (winNo (p.lo.toNat / 1099511627776)) (p.lo.toNat % 1099511627776) (p.hi - p.lo).toNat
    (if p.write then (if combine then .combine else .write) else .read)

/-- The outbound windows that an envelope leads through (R401). -/
def winsOf (s : State) (spans : List Span) : List (Fin 256 × OutWin) :=
  ((spans.filter fun p => p.space == 0xC && decide (0 ≤ p.lo) && decide (p.lo < p.hi)).map fun p =>
    winNo (p.lo.toNat / 1099511627776)).dedup.map fun w => (w, s.outw w)

/-- The block adds at its destination. -/
def Body.combines (b : Body) : Bool :=
  match b with
  | .store c => c.combine
  | .nop | .endB | .load _ | .matrix _ | .vector _ | .patch _ | .rendezvous | .resolve _ _ => false

/-- The pages to pin: the distinct ones, counted against the die's table (R391). None where the table has no room. -/
def pinAll (d : Nat) (job : Nat) (ps : List Page) (pins : List Pin) : Option (List Pin) :=
  ps.foldl (fun acc p => acc.bind fun pins =>
    let hit (e : Pin) : Bool := e.job == job && e.base == p.leaf.base && e.size == p.leaf.size
    match pins.find? hit with
    | some e => if e.count < 65535 then some (pins.map fun e => if hit e then { e with count := e.count + 1 } else e) else none
    | none => if pins.length < d then some (pins ++ [⟨job, p.leaf.base, p.leaf.size, 1⟩]) else none) (some pins)

/-! ## Step 6: tokens -/

/-- The mode checks of R220 and R196. -/
def modeCause (x : Ctx) (b : Blk) : Option Cause :=
  if b.posts.any fun p => !p.fut && (x.sem p.sem).phaseMode then some .semUnbound
  else match b.body with
    | .load c | .store c => if c.cnten && !(x.sem c.csem).phaseMode then some .semUnbound else none
    | .nop | .endB | .matrix _ | .vector _ | .patch _ | .rendezvous | .resolve _ _ => none

/-- A token of the block names the semaphore (R225). -/
def Blk.tokenOn (b : Blk) (n : SemNo) : Bool := b.waits.any (·.sem == n) || b.posts.any fun p => !p.fut && p.sem == n

/-- The block touches a bound region without a token on its semaphore (R225). -/
def unsynced (x : Ctx) (b : Blk) (sp : List (Nat × Nat)) (env : Env) : Bool :=
  (List.finRange 64).any fun n => (match (x.sem n).bind with
    | some r => touches sp env.slots env.tiles r
    | none => false) && !b.tokenOn n

/-- The pending patches of a context: chain and sequence number of the PATCH, and its target (R263). -/
def Ctx.pendings (x : Ctx) : List ((ChainNo × Nat) × (ChainNo × Nat)) :=
  (List.finRange 4).flatMap fun ch => (x.chain ch).queue.filterMap fun e => e.cap.target.map fun g => ((ch, e.seq), g)

/-- E(P, s): the promised count without the posts of P and of the blocks linked after it on its chain (R268). -/
def promisedWithout (x : Ctx) (p : ChainNo × Nat) (s : SemNo) : Nat :=
  let later := (x.chain p.1).queue.dropWhile (·.seq != p.2)
  let d := later.foldl (fun a e => e.linked.posts.foldl (fun a q => if !q.fut && q.sem == s then a + q.amt else a) a) 0
  (x.sem s).n - d

/-- The pending patches of other chains that a wait token of the block is ordered after (R268). -/
def patchesBefore (x : Ctx) (ch : ChainNo) (b : Blk) : List (ChainNo × Nat) :=
  (x.pendings.filter fun p => p.1.1 != ch && b.waits.any fun w => decide (promisedWithout x p.1 w.sem < w.thr)).map (·.1)

/-- A pending patch aimed at the block is not ordered before it (R268). -/
def patchUnordered (x : Ctx) (ch : ChainNo) (b : Blk) (seq : Nat) (own : List (ChainNo × Nat)) : Bool :=
  b.hdr.patchok && x.pendings.any fun p => p.2 == (ch, seq) && p.1.1 != ch && !own.contains p.1 &&
    !((x.chain ch).after.contains p.1 || (x.chain ch).queue.any fun e => e.cap.after.contains p.1)

/-- The wait-precedence checks (R171). -/
def waitCause (x : Ctx) (b : Blk) : Option Cause :=
  b.waits.findSome? fun w =>
    if (x.sem w.sem).ceil < w.thr then some .semUnsatisfiable
    else if (x.sem w.sem).n < w.thr then some .forwardWait else none

/-- N after the LINK (R171), and the waits in their orders (R169). -/
def promise (ch : ChainNo) (seq : Nat) (b : Blk) (x : Ctx) : Ctx :=
  let x := b.waits.foldl (fun x w => x.modSem w.sem fun m => { m with n := m.n - w.take, order := m.order ++ [.block ch seq] }) x
  b.posts.foldl (fun x p => if p.fut then x else x.modSem p.sem fun m => { m with n := hold32 (m.n + p.amt) }) x

/-- The bytes that a copy block's bounds count (R196). -/
def countedBytes (x : Ctx) (store : Bool) (c : CopyBody) : Nat :=
  let f := titFmt (x.titNo c.tid)
  iterCount (c.lvls.map (·.bnd)) * fmtHalves (if store then f else localFmt false c f) / 2

/-- The promised bytes of a counting block without PATCHOK (R222). -/
def promiseBytes (b : Blk) (x : Ctx) : Ctx :=
  let go (store : Bool) (c : CopyBody) : Ctx :=
    if c.cnten && !b.hdr.patchok then x.modSem c.csem fun m => { m with pb := hold32 (m.pb + countedBytes x store c) }.fold else x
  match b.body with
  | .load c => go false c
  | .store c => go true c
  | .nop | .endB | .matrix _ | .vector _ | .patch _ | .rendezvous | .resolve _ _ => x

/-- Tickets move on (R303). -/
def takeTickets (b : Blk) (x : Ctx) : Ctx :=
  b.covers.foldl (fun x (n : Fin 4) => { x with covs := x.covs.set n { x.covs.get n with tkt := ((x.covs.get n).tkt + 1) % 4294967296 } }) x

/-! ## LINK -/

/-- The scratchpad bytes of an envelope on its own tile; space 0xB may name it too. -/
def ownPad (t : TileNo) (env : Env) : List (Nat × Nat) :=
  env.spans.filterMap fun p =>
    if p.hi ≤ p.lo ∨ p.lo < 0 then none
    else if p.space = 8 then some (p.lo.toNat, p.hi.toNat)
    else if p.space = 0xB ∧ p.lo.toNat / 4294967296 = t.val then some (p.lo.toNat % 4294967296, (p.lo.toNat % 4294967296) + (p.hi - p.lo).toNat)
    else none

/-- The band scales that an F4B8 STORE reads before it writes them: through a window they need R as well (R193, R401). -/
def scaleReads (x : Ctx) (cap : Cap) (b : Blk) : List Span :=
  match b.body with
  | .store c =>
    if titFmt (x.titNo c.tid) = 8 ∧ c.runs ∧ ¬(c.shape ∧ x.axis.bsq) then
      (x.tensorSet b).flatMap fun n => bandEnv false (x.titNo n) (cap.tensOf n) c
    else []
  | .nop | .endB | .load _ | .matrix _ | .vector _ | .patch _ | .rendezvous | .resolve _ _ => []

/-- The first checks of step 4 of R176: the output scale, the tensors, the alignment of scratchpad addresses, of a copy block too (log 128). -/
def Linking.named (k : Linking) (b : Blk) : M Unit := do
  k.check (match b.body with
    | .matrix m => !m.qsen || bf16Normal (k.x.qs.get m.qsel).toNat
    | .nop | .endB | .load _ | .store _ | .vector _ | .patch _ | .rendezvous | .resolve _ _ => true) .scaleRange
  k.raise (tensorsCause k.x b)
  k.check (alignedOk k.x b) .misalignedData

/-- The further checks of step 4 of R176: the envelope, futures, units, queues, shaping and coverage. -/
def Linking.resources (k : Linking) (b : Blk) (cap : Cap) (env : Env) (futs : List Word) (pages : Pages) : M Unit := do
  let x := k.x
  k.check (← see fun s => env.spans.all fun p => !p.some? || spanInside s k.t x p) .outOfPool
  k.check (← see fun s => pages.1.all fun p => !p.denied s x.job false) .outOfPool
  k.raise (futs.findSome? futureCause)
  k.check (!env.bad && env.slots &&& ~~~x.heldSlots == 0 && env.tiles &&& ~~~x.heldTiles == 0) .slotNotHeld
  k.check (!companionless x cap b env) .slotExhausted
  k.check (← see fun s => (queueNames b.body).all fun q => queueBound s k.t x q.1 q.2) .queueUnbound
  k.raise (shapeCause x cap b)
  k.raise (coverCause x b)

/-- Step 5 of R176: the pinned pages, and the die's pin table with them. -/
def Linking.translation (k : Linking) (b : Blk) (cap : Cap) (env : Env) (pages : Pages) : M (List Page × List Pin) := do
  match pages.2 with
  | some (c, n) => k.fail c n
  | none => do
    let ps := pages.1
    k.check (← see fun s => ps.all fun p => !p.refused s k.x.job) .pagePermission
    let ps := mergePages ps
    k.check (← see fun s => env.spans.all fun p => !p.some? || (match poolRange k.t p with
      | some r => !p.write || (rangeFault s k.x.job r.1 r.2 true).isNone
      | none => true)) .pagePermission
    let win ← see fun s => (env.spans ++ scaleReads k.x cap b).filterMap (spanWindow s k.t k.x b.body.combines)
    k.check (!win.contains .windowFault) .windowFault
    k.raise win.head?
    k.check (decide (ps.length ≤ 8192)) .pinOverflow
    match ← see fun s => pinAll 8192 k.x.job ps (s.dies.get (dieNo k.t)).pins with
    | none => waitFor .again
    | some pins => return (ps, pins)

/-- Step 6 of R176; the patches that a wait of the block is ordered after. -/
def Linking.tokens (k : Linking) (b : Blk) (env : Env) : M (List (ChainNo × Nat)) := do
  let x := k.x
  k.raise (modeCause x b)
  k.check (!unsynced x b (ownPad k.t env) env) .unsyncRegion
  let own := patchesBefore x k.ch b
  k.check (!patchUnordered x k.ch b (x.chain k.ch).seq own) .unsyncRegion
  k.raise (waitCause x b)
  return own

/-- The commitment (R177). -/
def Linking.commit (k : Linking) (b : Blk) (cap : Cap) (env : Env) (ps : List Page) (pins : List Pin) : M Unit := do
  let die := dieNo k.t
  let seq := (k.x.chain k.ch).seq
  let next (ch : ChainNo) : Nat := if ch = k.ch then (seq + 1) % 4294967296 else (k.x.chain ch).seq
  let wins ← see fun s => winsOf s env.spans
  let cap := { cap with
    wins
    leaves := ps.map fun p => ⟨p.leaf.base, p.leaf.size, p.leaf.pa, p.leaf.chk⟩
    target := match b.body with
      | .patch q => some (q.tchain, (next q.tchain + q.trel - 1) % 4294967296)
      | .nop | .endB | .load _ | .store _ | .matrix _ | .vector _ | .rendezvous | .resolve _ _ => none }
  let no ← see (·.links)
  let e : Entry := {
    seq, slots := env.slots, tiles := env.tiles, linkId := no
    pins := ps.map fun p => (die, p.leaf.base, p.leaf.size)
    linked := b, cur := b, cap, sp := ownPad k.t env, spans := env.spans }
  upd fun s => { s with links := s.links + 1, dies := s.dies.set die { s.dies.get die with pins } }
  modCtx k.t k.c fun x => takeTickets b (promiseBytes b (promise k.ch seq b
    (x.modChain k.ch fun q => { q with seq := next k.ch, queue := q.queue ++ [e] })))

/-- Spans of the futures, which the block writes (R323, R391). -/
def futureSpans (futs : List Word) : List Span := futs.map fun f => ⟨spaceOf f, offOf f, offOf f + 64, true, false⟩

/-- LINK: the checks of R176 in their order, then the commitment. -/
def linkAt (k0 : Linking) : M Unit := do
  let o ← k0.addr
  let (v, bad) ← k0.image o
  let k := { k0 with drops := bad }
  k.check (decide ((k.x.chain k.ch).queue.length < 64)) .chainFull
  k.check (bad == 0) .cbMalformed
  match formCause k.x k.ch v with
  | .error c => k.fail c
  | .ok b => do
    k.named b
    let (f0, d0) ← k.pointer b.hdr.p0
    let (f1, d1) ← k.pointer b.hdr.p1
    let k := { k with drops := d0 + d1 }
    let cap := k.x.capture b f0 f1
    let env := linkEnv k.x cap b
    let futs := futuresOf b f0 f1
    let pages ← envPages k.t k.x (env.spans ++ futureSpans (futs.filter fun f => (futureCause f).isNone))
    k.resources b cap env futs pages
    let (ps, pins) ← k.translation b cap env pages
    let own ← k.tokens b env
    k.commit b { cap with after := own } env ps pins
    if d0 + d1 = 0 then pure ()
    else do
      modCtx k.t k.c fun x => { x with dropcnt := BitVec.ofNat 32 (min (x.dropcnt.toNat + d0 + d1) 0xFFFFFFFF) }
      recordCause k.t k.x .eccStrict k.ga (BitVec.ofNat 64 (d0 + d1))

/-- LINK (R178). -/
def execLink (h : Hd) (ch : Fin 4) (a : Src) (s : State) : Host.Outcome State Fault Refusal :=
  dealer h (do
    let v ← readA a
    let (t, c) ← me
    let x ← getCtx t c
    linkAt { t, c, x, ch, ga := v }
    return {}) s (ends := true)

end Sys2Proof.Machine
end

