-- ==== Sys2Proof/Machine/Area.lean ====
section
/-!
DEFINITION. The bytes of a save area as any agent reads them (R371, R372): its header, its check word, and whether it is valid.
-/
namespace Sys2Proof.Machine

/-- Rotate a doubleword left. -/
def rotl64 (v n : Nat) : Nat := (v * 2 ^ n) % 2 ^ 64 + v / 2 ^ (64 - n)

/-- The check word of an area's bytes: doubleword 4 is left out (R372). -/
def checkWord (k : Nat) (bs : List Byte) : Nat :=
  match bs with
  | b0 :: b1 :: b2 :: b3 :: b4 :: b5 :: b6 :: b7 :: r =>
    let v := if k = 4 then 0 else rotl64 (leNat [b0, b1, b2, b3, b4, b5, b6, b7]) (k % 64)
    (v + checkWord (k + 1) r) % 2 ^ 64
  | _ => 0

/-- Read n bytes from an aligned address, page by page: the bytes, and how many could not be read. -/
def readArea (s : State) (job a n : Nat) : List Byte × Nat :=
  let one (k : Nat) : List Byte × Nat :=
    let m := min 65536 (n - 65536 * k)
    match hwXlate s job (a + 65536 * k) false with
    | some pa => (readBytes s pa m, badBytes s pa m)
    | none => (List.replicate m 0, 0)
  let ps := (List.range ((n + 65535) / 65536)).map one
  (ps.flatMap (·.1), ps.foldl (fun b p => b + p.2) 0)

/-- Doubleword k of an area's bytes. -/
def areaDw (bs : List Byte) (k : Nat) : Nat := leNat ((bs.drop (8 * k)).take 8)

/-- The reserved bits of a header are 0. -/
def headerOk (bs : List Byte) : Bool :=
  bits (areaDw bs 0) 50 14 == 0 && bits (areaDw bs 1) 41 23 == 0 && bits (areaDw bs 2) 49 15 == 0 &&
  areaDw bs 5 == 0 && areaDw bs 6 == 0 && areaDw bs 7 == 0

/-- The bytes are a valid save area: FORMAT, reserved bits and CHECK (R372, R385). -/
def areaValid (bs : List Byte) : Bool := areaDw bs 0 % 4294967296 == 0x74001 && headerOk bs && checkWord 0 bs == areaDw bs 4

end Sys2Proof.Machine
end

