-- ==== Sys2Proof/Machine/Tasks.lean ====
section
/-!
DEFINITION. SPAWN, AWAIT, RESOLVE, YIELD (R331 to R335), the groups (R337), events (R338), the leaf's late pushes (R319) and its
handling of delivered causes (R378).
-/
namespace Sys2Proof.Machine

/-- The address of the instruction after this one, with the end test of a loop (R120). -/
def nextPc (x : Ctx) : Word := (endTest x x.pc 1).2.1

/-- The physical address of the running record. -/
def runningRec (s : State) (x : Ctx) : Option Nat := hwXlate s x.job x.record.toNat true

/-- Doubleword 2 of a spawned record (R331). -/
def spawnFlags (v : Nat) (timed : Bool) (st : Nat) : Nat :=
  setBits (setBits (setBits (setBits (withState v st) 35 1 timed.toNat) 39 1 0) 40 6 0) 48 16 0

/-- The hardware reads PARENT of the running record for an instruction: an atomic of its dealer (R311, R347). -/
def ownParent (t : TileNo) (c : SlotNo) (x : Ctx) : M Unit := do
  ownTag t x x.record false
  match ← see fun s => runningRec s x with
  | some r => eccTouch t c x x.record (r + 32) 8
  | none => pure ()

/-- SPAWN (R331, R327). -/
def execSpawn (h : Hd) (a : Src) (s : State) : Host.Outcome State Fault Refusal :=
  dealer h (owning do
    let v ← readA a
    let (t, c) ← me
    let x ← getCtx t c
    let pa ← operandPlace t x v 64 true
    eccTouch t c x v (pa + 16) 8
    let p ← release t .dev
    check ((← see fun s => recState s pa) == 0) .futureState v
    let dw2 ← see fun s => recDw s pa 2
    if ← see fun s => s.cancelled (clOf t) x.job then
      upd (setRecDw pa 2 (withRetired dw2 0x36))
      return {}
    else do
      let timed ← see fun s => s.timed x.job
      ownParent t c x
      let parent ← see fun s => ((runningRec s x).map (recParent s)).getD 0
      upd (setRecDw pa 3 (x.job % 4294967296 + 4294967296 * 0xFFFFFFFF))
      upd (setRecDw pa 4 parent)
      upd (gridUp t x.job parent)
      carry pa p
      if bits dw2 0 32 = 0 then do
        upd (setRecDw pa 2 (spawnFlags dw2 timed 2))
        match ← see fun s => ownerPush t x.job timed (recPrio s pa) v s with
        | none => trap .deckOverflow v
        | some s' => upd fun _ => s'
      else upd (setRecDw pa 2 (spawnFlags dw2 timed 1))
      return {}) s (ends := true)

/-- The running context suspends: CODE, STATE, RESUME, CTXNUM and GROUP of its record, and it leaves the dealer but stays in its
slot (R314, R333, R335). -/
def suspendRec (t : TileNo) (c : SlotNo) (x : Ctx) (pa st : Nat) : M Unit := do
  upd (setRecDw pa 0 (nextPc x).toNat)
  upd fun s => setRecDw pa 2 (withResume (recDw s pa 2) st x.num.toNat) s
  upd (writeGroupField x pa)
  modCtx t c fun y => { y with run := .held }

/-- Registration of a record on a future (R324). -/
def register (t : TileNo) (x : Ctx) (fva xva : Word) (fpa xpa : Nat) : M Unit := do
  let w ← see fun s => readNat s fpa 8
  check (futureValid w) .futureState fva
  if bits w 0 2 = 0 then do
    check (bits w 2 3 != 6) .joinOverflow fva
    upd fun s => writeNat s (fpa + 16 + 8 * bits w 2 3) 8 xva.toNat
    upd fun s => writeNat s fpa 8 (setBits w 2 3 (bits w 2 3 + 1))
  else do
    dealerAcquire t (← see fun s => carriedAt s fpa)
    let p ← release t .dev
    carry xpa p
    match ← see fun s => (decrement t x.job xpa xva s).2 with
    | .overflow => trap .joinOverflow fva
    | .done => upd fun s => (decrement t x.job xpa xva s).1

/-- AWAIT (R333); a cancelled job's record is retired here instead (R327). -/
def execAwait (h : Hd) (a c : Src) (s : State) : Host.Outcome State Fault Refusal :=
  dealer h (owning do
    let (t, k) ← me
    let x ← getCtx t k
    if ← see fun s => s.cancelled (clOf t) x.job then cancelHere t k
    else do
      let fva ← readA a
      let w ← readC c fva
      let xva : Word := w &&& ~~~63#64
      let susp := w.getLsbD 0
      check (bits w.toNat 1 5 == 0 && (!susp || xva == x.record)) .reservedField fva
      let fpa ← operandPlace t x fva 64 true
      eccTouch t k x fva fpa 8
      let xpa ← operandPlace t x xva 64 true
      eccTouch t k x fva (xpa + 16) 8
      let st ← see fun s => recState s xpa
      check (st == 1 || (st == 3 && xva == x.record)) .futureState fva
      register t x fva xva fpa xpa
      let p ← release t .dev
      carry xpa p
      if susp && (← see fun s => recJoin s xpa) != 0 then do
        suspendRec t k x xpa 4
        return { ctl := .leave }
      else return {}) s (ends := true)

/-- RESOLVE (R334). -/
def execResolve (h : Hd) (a c : Src) (s : State) : Host.Outcome State Fault Refusal :=
  dealer h (owning do
    let fva ← readA a
    let v ← readC c fva
    let (t, k) ← me
    let x ← getCtx t k
    let fpa ← operandPlace t x fva 64 true
    eccTouch t k x fva fpa 8
    match ← see fun s => resolveFault s fpa with
    | some e => trap e fva
    | none => do
      eccTouch t k x fva (fpa + 16) (8 * bits (← read8 fpa) 2 3)
      resolveFuture t x.job x.num.toNat (fun r => trapDrop .race fva 0 [r]) fva fpa v
      return {}) s (ends := true)

/-- YIELD (R335); a cancelled job's record is retired here instead (R327). -/
def execYield (h : Hd) (s : State) : Host.Outcome State Fault Refusal :=
  dealer h (owning do
    let (t, k) ← me
    let x ← getCtx t k
    if ← see fun s => s.cancelled (clOf t) x.job then cancelHere t k
    else
      match ← see fun s => runningRec s x with
      | none => trap .pageNotPresent x.record
      | some pa => do
        ownTag t x x.record true
        modTile t fun y => { y with dcache := dropLine y.dcache (pa / 64 * 64) }
        eccTouch t k x x.record (pa + 16) 16
        suspendRec t k x pa 2
        let p ← release t .dev
        carry pa p
        match ← see fun s => thiefPush t x.job (s.timed x.job) (recPrio s pa) x.record s with
        | none => trap .deckOverflow 0
        | some s' => upd fun _ => s'
        return { ctl := .leave }) s (ends := true)

/-! ## Groups (R337) -/

/-- JOIN. -/
def execJoin (h : Hd) (a : Src) (s : State) : Host.Outcome State Fault Refusal :=
  dealer h (do
    let v ← readA a
    let x ← myCtx
    check (decide (v.toNat < 4096)) .groupLimit v
    let g ← see (·.group v.toNat)
    check (x.grp.isNone && g.memb != 65535 && (g.memb == 0 || g.job == x.job)) .groupLimit v
    upd (·.setGroup { g with job := x.job, memb := g.memb + 1 })
    modMe fun y => { y with grp := some v.toNat }
    return {}) s (ends := true)

/-- LEAVE. -/
def execLeave (h : Hd) (a : Src) (s : State) : Host.Outcome State Fault Refusal :=
  dealer h (do
    let v ← readA a
    let x ← myCtx
    check (decide (v.toNat < 4096)) .groupLimit v
    check (x.grp == some v.toNat) .groupLimit v
    upd (leaveGroup v.toNat)
    modMe fun y => { y with grp := none }
    return {}) s (ends := true)

/-- GBAR: the arrival is a release, and the release of the barrier an acquire of every arrival. A context that waits in it looks
at GEN again at each turn of its dealer (R337), and at the flag of its job, whose cancellation takes its arrival back (R327, log 48). -/
def execGbar (h : Hd) (a : Src) (s : State) : Host.Outcome State Fault Refusal :=
  dealer h (owning do
    let (t, k) ← me
    let x ← getCtx t k
    match x.wait.map Wait.kind with
    | some (.gbar n gen) => do
      let g ← see (·.group n)
      if g.gen ≠ gen then do
        dealerAcquire t g.past
        return {}
      else if ← see fun s => s.cancelled (clOf t) x.job then do
        upd (·.setGroup { g with arr := g.arr - 1 })
        cancelHere t k
      else waitFor (.gbar n gen)
    | _ =>
      if ← see fun s => s.cancelled (clOf t) x.job then cancelHere t k
      else do
        let v ← readA a
        check (decide (v.toNat < 4096)) .groupLimit v
        check (x.grp == some v.toNat) .groupLimit v
        let p ← release t .dev
        let g ← see (·.group v.toNat)
        let g := { g with arr := g.arr + 1, stamps := p.toList ++ g.stamps }
        if g.arr = g.memb then do
          upd (·.setGroup (releaseBarrier g))
          dealerAcquire t g.stamps
          return {}
        else do
          upd (·.setGroup g)
          waitFor (.gbar v.toNat g.gen)) s (ends := true)

/-! ## Events (R330, R338) -/

/-- WFE: with the flag set it clears it and continues, an acquire of every SEV that set it; else the context sleeps. -/
def execWfe (h : Hd) (s : State) : Host.Outcome State Fault Refusal :=
  dealer h (do
    let (t, c) ← me
    let x ← getCtx t c
    if x.event then do
      dealerAcquire t x.evStamps
      modCtx t c fun y => { y with event := false, evStamps := [] }
      return {}
    else waitFor .wfe) s (ends := true)

/-- WFE_WAKE: the flag of a sleeping context is set; the WFE clears it and continues (R330). -/
def execWfeWake (t : TileNo) (c : SlotNo) (s : State) : Host.Outcome State Fault Refusal :=
  agent (do
    let x ← getCtx t c
    let w ← present x.wait
    enabled (w.kind == .wfe && x.event && x.run == .run)
    dealerAcquire t x.evStamps
    modCtx t c fun y => { y with event := false, evStamps := [] }
    finishWait t c w {}) s

/-- Set the event flag of a context of a job. -/
def setEvent (job : Nat) (p : Option Stamp) (x : Ctx) : Ctx :=
  if x.job = job then { x with event := true, evStamps := p.toList ++ x.evStamps } else x

/-- SEV: a release, then the event flag of every context of the job that stands on the target tile, resident or saved there
(R338). -/
def execSev (h : Hd) (a : Src) (s : State) : Host.Outcome State Fault Refusal :=
  dealer h (do
    let v ← readA a
    let (t, c) ← me
    let x ← getCtx t c
    if hu : v.toNat < 384 then do
      let u : TileNo := ⟨v.toNat, hu⟩
      let p ← release t .dev
      upd fun s =>
        let s := (s.modCtx u 0 (setEvent x.job p)).modCtx u 1 (setEvent x.job p)
        { s with saved := s.saved.map fun e => if e.tile = u then { e with ctx := setEvent x.job p e.ctx } else e }
      return {}
    else trap .reservedField v) s (ends := true)

/-! ## The leaf controller -/

/-- A context held by the leaf, with its record of the trap (R378). -/
def leafHeld (t : TileNo) (c : SlotNo) : M (Ctx × TrapRec) := do
  let x ← getCtx t c
  enabled (x.run == .leaf)
  let r ← present x.leafTrap
  return (x, r)

/-- Resume a context at the address the leaf received (R378); where the instruction before it has still to be followed by STEP, STEP comes first
(R383). -/
def leafResume (t : TileNo) (c : SlotNo) : M Unit := do
  modCtx t c fun y => match y.leafTrap with
    | some r => { y with run := .run, pc := r.epc, leafTrap := none }
    | none => y
  upd (resumeStep t c)

/-- The service number of a firmware call (R448). -/
def serviceNo (x : Ctx) : Nat := (x.regs.get 4).toNat % 256

/-- The result of a firmware service, and the context goes on (R448). -/
def fwResult (t : TileNo) (c : SlotNo) (v : Word) : M Unit := do
  modCtx t c fun y => y.setReg 4 v
  leafResume t c

/-- The leaf reads PARENT of the record that a fault retires, and the packets of its grid end by the fault (R311, R436). -/
def faultGrid (t : TileNo) (x : Ctx) (s : State) : State :=
  match runningRec s x with
  | some pa => gridFault x.job (recParent s pa) (hwReach t x.job x.record.toNat false s)
  | none => s

/-- LEAF_TRAP_HANDLING: the event is recorded; BREAK and STEP with FWDBG hold the context for debug; a firmware call with a service
number that names no service gets all ones, the others have steps of their own; every other cause retires the record, its packet ends
by a fault, and the job's fault policy may cancel the job (R378, R380, R436, R439, R448). -/
def execLeafTrapHandling (t : TileNo) (c : SlotNo) (s : State) : Host.Outcome State Fault Refusal :=
  agent (do
    let (x, r) ← leafHeld t c
    enabled (r.cause != .firmwareCall || decide (3 < serviceNo x))
    recordCause t x r.cause r.eval r.epc
    if r.cause == .firmwareCall then fwResult t c (BitVec.allOnes 64)
    else if (r.cause == .brk || r.cause == .step) && x.dbgctl.getLsbD 1 then
      modCtx t c fun y => { y with run := .debug }
    else do
      upd (faultGrid t x)
      upd (retireCtx t c r.cause.code)
      if ← see fun s => (s.job? x.job).any (·.fcancel) then upd (cancelJob x.job) else pure ()) s

end Sys2Proof.Machine
end

