-- ==== Sys2Proof/Machine/Interrupt.lean ====
section
/-!
DEFINITION. Causes that interrupt a waiting instruction (R374 to R376), the watchdog and the machine check (R379, R380), and the
firmware services (R448).
-/
namespace Sys2Proof.Machine

/-! ## Interrupting a wait -/

/-- What an interruption takes back of a waiting instruction: the arrival of a GBAR (R337), the place and the promise of a SEMW (R234),
a window access that has not been performed. -/
def withdraw (t : TileNo) (c : SlotNo) (w : Wait) (s : State) : State :=
  match w.kind with
  | .gbar g gen =>
    let k := s.group g
    if k.gen = gen then s.setGroup { k with arr := k.arr - 1, stamps := k.stamps.eraseP (·.1 == t.val) } else s
  | .semw n _ k => s.modCtx t c (·.modSem n fun m => { m with n := hold32 (m.n + k), order := m.order.filter (· != .dealer) })
  | .window id => { s with msgs := s.msgs.filter (·.id != id) }
  | .again | .port _ _ | .rdv _ | .drain | .endDrain | .semIdle _ _ _ _ | .release _ | .bank _ _ _ | .covset _ _ | .enq _ _
  | .cancel _ | .wfe | .qunbind _ | .tinv _ => s

/-- The wait can still be interrupted: a barrier is not released, and a window access is not performed (R337, R403). -/
def interruptible (s : State) (w : Wait) : Bool :=
  match w.kind with
  | .gbar g gen => (s.group g).gen == gen
  | .window id => s.msgs.any fun m => m.id == id && (m.state == .going || m.state == .held)
  | .again | .port _ _ | .rdv _ | .drain | .endDrain | .semw _ _ _ | .semIdle _ _ _ _ | .release _ | .bank _ _ _ | .covset _ _
  | .enq _ _ | .cancel _ | .wfe | .qunbind _ | .tinv _ => true

/-- A pending cause of kind E or A interrupts the waiting instruction of a context (R375). -/
def interrupt (t : TileNo) (c : SlotNo) : M Unit := do
  let x ← getCtx t c
  let w ← present x.wait
  enabled (x.run == .run && !x.active && (!x.asyncs.isEmpty || (pendingFault x).isSome))
  enabled (← see fun s => interruptible s w)
  upd (withdraw t c w)
  upd (takePending t c)

/-- TRAP_ENTRY at a waiting instruction; at the end of a group the instruction's own step takes what is pending (R374 to R376). -/
def execTrapEntry (t : TileNo) (c : SlotNo) (s : State) : Host.Outcome State Fault Refusal := agent (interrupt t c) s

/-- WATCHDOG: the wait has outlasted the job's period in dealer cycles; WFE and a suspension do not count, and neither does an instruction
whose count begins again when its context gets the dealer back (R379). -/
def execWatchdog (t : TileNo) (c : SlotNo) (s : State) : Host.Outcome State Fault Refusal :=
  agent (do
    let x ← getCtx t c
    let w ← present x.wait
    let now ← see (·.now)
    let period ← see fun s => ((s.job? x.job).map (·.watchdog)).getD 67108864
    enabled (x.run == .run && w.kind != .wfe && decide (w.since + 2 * period < now) && !x.asyncs.contains .watchdog &&
      (!x.recounts || (← see fun s => (s.tile t).cur == c)))
    modCtx t c fun y => { y with asyncs := y.asyncs ++ [.watchdog] }
    if !x.active && (← see fun s => interruptible s w) then interrupt t c else pure ()) s

/-- MACHINE_CHECK: an uncorrectable error in a context's registers, queues or trap state; it is taken as a cause of kind A (R380). -/
def execMachineCheck (t : TileNo) (c : SlotNo) (s : State) : Host.Outcome State Fault Refusal :=
  agent (do
    let x ← getCtx t c
    enabled (!x.asyncs.contains .machineCheck)
    modCtx t c fun y => { y with asyncs := y.asyncs ++ [.machineCheck] }
    if !x.active && x.run == .run && (← see fun s => x.wait.any (interruptible s)) then interrupt t c else pure ()) s

/-! ## Firmware services (R448) -/

/-- A context whose TRAP 62 asks for a service. The leaf records the call (R378). -/
def fwCall (t : TileNo) (c : SlotNo) (n : Nat) : M Ctx := do
  let (x, r) ← leafHeld t c
  enabled (r.cause == .firmwareCall && serviceNo x == n)
  recordCause t x r.cause r.eval r.epc
  return x

/-- FW_DOMAIN_NUMBER. -/
def execFwDomainNumber (t : TileNo) (c : SlotNo) (s : State) : Host.Outcome State Fault Refusal :=
  agent (do
    let _ ← fwCall t c 0
    fwResult t c (BitVec.ofNat 64 (← see (·.domain)))) s

/-- FW_SET_WATCHDOG. -/
def execFwSetWatchdog (t : TileNo) (c : SlotNo) (s : State) : Host.Outcome State Fault Refusal :=
  agent (do
    let x ← fwCall t c 1
    let p := (x.regs.get 5).toNat
    if 20 ≤ p ∧ p ≤ 40 then do
      upd fun s => s.modJob x.job fun j => { j with watchdog := 2 ^ p }
      fwResult t c 0
    else fwResult t c (BitVec.allOnes 64)) s

/-- The tile and the number in a valid save area of a job at an address, and how many of its bytes cannot be read, which count as zeros (R372, R381,
R385). -/
def State.savedAt (s : State) (job : Nat) (a : Word) : Option (Nat × BitVec 16) × Nat :=
  if spaceOf a ≠ 0 ∨ a.toNat % 65536 ≠ 0 then (none, 0)
  else
    let (head, bad) := readArea s job a.toNat 64
    let (bs, all) := readArea s job a.toNat (areaDw head 3)
    (if areaValid bs && bits (areaDw bs 1) 0 32 == job then some (bits (areaDw bs 1) 32 9, BitVec.ofNat 16 (bits (areaDw bs 0) 32 16)) else none,
     max bad all)

/-- FW_UNBIND_SAVED: on the tile that saved the context, and what it took along of its queues (R385, R411). The leaf records what it cannot read of the
area (R453). -/
def execFwUnbindSaved (t : TileNo) (c : SlotNo) (s : State) : Host.Outcome State Fault Refusal :=
  agent (do
    let x ← fwCall t c 2
    let (found, bad) ← see fun s => s.savedAt x.job (x.regs.get 5)
    if bad = 0 then pure () else upd fun s => s.addErr { causeRec s t x .eccStrict (x.regs.get 5) (BitVec.ofNat 64 bad) with ctx := 0 }
    match found with
    | some (u, num) => do
      match ← see fun s => s.saved.find? fun g => g.job == x.job && g.num == num && g.tile.val == u with
      | some g => upd (unbindSaved g)
      | none => if h : u < 384 then upd (unbindAll ⟨u, h⟩ x.job num) else pure ()
      fwResult t c 0
    | none => fwResult t c (BitVec.allOnes 64)) s

/-- Append a word to a job's log, which stands in the mailbox region, and stays there when the job ends (R447, R448, log 18). -/
def appendLog (job : Nat) (v : Word) (s : State) : State :=
  let old := ((s.logs.find? (·.1 == job)).map (·.2)).getD []
  let s := { s with logs := (job, old ++ [v]) :: s.logs.filter (·.1 != job) }
  writeNat s (mailAt (8 * (Config.logPlace job old.length % 8388608))) 8 v.toNat

/-- FW_LOG. -/
def execFwLog (t : TileNo) (c : SlotNo) (s : State) : Host.Outcome State Fault Refusal :=
  agent (do
    let x ← fwCall t c 3
    upd (appendLog x.job (x.regs.get 5))
    fwResult t c 0) s

end Sys2Proof.Machine
end

