-- ==== Sys2Proof/Machine/Patch.lean ====
section
/-!
DEFINITION. The PATCH block: its fields and what they admit (R264 to R267), its action, its hold for a target that is not linked yet
(R271), and the leaf's policies for a value that is not admitted (R270).
-/
namespace Sys2Proof.Machine

/-! ## Fields -/

/-- Replace element i of a list. -/
def setNth {α : Type} (l : List α) (i : Nat) (f : α → α) : List α := l.zipIdx.map fun p => if p.2 = i then f p.1 else p.1

/-- Write a field of a copy body (R60, R266). -/
def CopyBody.patch (c : CopyBody) (f v : Nat) : CopyBody :=
  match f with
  | 0x10 => { c with tid := v }
  | 0x11 => { c with torg := signed 32 v }
  | 0x12 => { c with lbase := v }
  | _ => { c with lvls := setNth c.lvls f fun l => { l with bnd := v } }

/-- Write a field of a VECTOR body. -/
def VecBody.patch (b : VecBody) (f v : Nat) : VecBody :=
  match f with
  | 0x13 => { b with imm := BitVec.ofNat 32 v }
  | 0x14 => { b with x := { b.x with base := v } }
  | 0x15 => { b with y := { b.y with base := v } }
  | 0x16 => { b with z := { b.z with base := v } }
  | 0x17 => { b with w := { b.w with base := v } }
  | _ => { b with bnd := setNth b.bnd f fun _ => v }

/-- Write a field of a block (R264). -/
def Blk.patch (b : Blk) (f v : Nat) : Blk :=
  if f = 0x18 then { b with hdr := { b.hdr with csel := v } }
  else match b.body with
    | .load c => { b with body := .load (c.patch f v) }
    | .store c => { b with body := .store (c.patch f v) }
    | .matrix m => { b with body := .matrix { m with bnd := setNth m.bnd f fun _ => v } }
    | .vector w => { b with body := .vector (w.patch f v) }
    | .nop | .endB | .patch _ | .rendezvous | .resolve _ _ => b

/-- The conditions of R265 on a target. -/
def Blk.patchable (b : Blk) (f : Nat) : Bool :=
  b.hdr.patchok &&
  (match b.body with
   | .load c | .store c => decide (f < c.ndim) || (decide (0x10 ≤ f) && decide (f ≤ 0x12))
   | .matrix _ => decide (f ≤ 5) || f == 0x18
   | .vector w => decide (f ≤ 5) || f == 0x18 || (f == 0x13 && usesImm w.op) ||
       (decide (0x14 ≤ f) && decide (f ≤ 0x17) && (w.port (f - 0x14)).kind != 0)
   | .nop | .endB | .patch _ | .rendezvous | .resolve _ _ => false)

/-- The bound of a level. -/
def Blk.bound (b : Blk) (k : Nat) : Nat := b.body.bounds[k]?.getD 0

/-- The block moves F4B8 data. -/
def Ctx.movesF4 (x : Ctx) (b : Blk) : Bool :=
  match b.body with
  | .load c | .store c => titFmt (x.titNo c.tid) == 8
  | .nop | .endB | .matrix _ | .vector _ | .patch _ | .rendezvous | .resolve _ _ => false

/-- The identifier that a block names at present. -/
def Blk.tid? (b : Blk) : List Nat :=
  match b.body with
  | .load c | .store c => [c.tid]
  | .nop | .endB | .matrix _ | .vector _ | .patch _ | .rendezvous | .resolve _ _ => []

/-- One envelope lies in another: every location of it (R266). -/
def Env.within (a b : Env) : Bool :=
  !a.bad && a.slots &&& ~~~b.slots == 0 && a.tiles &&& ~~~b.tiles == 0 &&
  a.spans.all fun p => !p.some? || ivsIn [(p.lo, p.hi)] ((b.spans.filter (·.space == p.space)).map fun q => (q.lo, q.hi))

/-- The reach of a target with a field changed lies within the envelope that its LINK captured (R266, R267). -/
def reachOk (x : Ctx) (e : Entry) (b : Blk) : Bool :=
  (blkEnv x e.cap b b.tid?).within { spans := e.spans, slots := e.slots, tiles := e.tiles }

/-- A copy body under the bounds of a linked one: R187 looks at every iteration within the linked bounds. -/
def CopyBody.bounded (c : CopyBody) (linked : Body) : CopyBody :=
  match linked with
  | .load l | .store l => { c with lvls := List.zipWith (fun k b => { k with bnd := b.bnd }) c.lvls l.lvls }
  | .nop | .endB | .matrix _ | .vector _ | .patch _ | .rendezvous | .resolve _ _ => c

/-- The origin of a target leaves its walk inside the tensor: an F4B8 walk within the linked bounds, any other within the present ones (R186,
R187, R266). -/
def originOk (x : Ctx) (e : Entry) (c : CopyBody) : Bool := geometryOk x (if titFmt (x.titNo c.tid) = 8 then c.bounded e.linked.body else c)

/-- A bound leaves the walk inside the captured envelope and inside its tensor, where an origin or a base was patched while it was smaller; a
bound of 0 always does (R164, R266). -/
def boundOk (x : Ctx) (e : Entry) (f v : Nat) : Bool :=
  let b := e.cur.patch f v
  v == 0 || reachOk x e b && (match b.body with
    | .load c | .store c => originOk x e c
    | .nop | .endB | .matrix _ | .vector _ | .patch _ | .rendezvous | .resolve _ _ => true)

/-- A value is admitted for a field of a target (R266). A tensor of the set is one where the reach through it, from the origin as patched, lies within
the envelope. -/
def admitted (x : Ctx) (e : Entry) (f v : Nat) : Bool :=
  let b := e.cur.patch f v
  let f4 := x.movesF4 e.cur
  if f ≤ 0x0D then decide (v ≤ e.linked.bound f) && (f != 0 || !f4 || v % 8 == 0) && boundOk x e f v
  else match f, b.body with
    | 0x10, _ => decide (v < 128) && (e.cap.set.any fun n => n.val == v) && reachOk x e b
    | 0x11, .load c | 0x11, .store c => reachOk x e b && originOk x e c
    | 0x12, .load _ | 0x12, .store _ => decide (v < 16777216) && reachOk x e b && alignedOk x b && queueNames b.body == queueNames e.linked.body
    | 0x13, .vector w => immFits w.w.type v
    | 0x18, _ => decide (v ≤ 4) && (v == 0 || (match e.cap.covs.find? fun k => k.cov.val + 1 == v with
        | some k => covAllowed b.body k.kern
        | none => false))
    | _, .vector _ => decide (v < 16777216) && reachOk x e b && alignedOk x b && queueNames b.body == queueNames e.linked.body
    | _, _ => false

/-- The clamp of a bound (R266). Where the clamped bound breaks the walk, 0 takes its place: a clamp always writes a value that is admitted
(log 144). -/
def clampBound (x : Ctx) (e : Entry) (f v : Nat) : Nat :=
  let m := min v (e.linked.bound f)
  let m := if f = 0 ∧ x.movesF4 e.cur then m / 8 * 8 else m
  if boundOk x e f m then m else 0

/-! ## The action -/

/-- The least and the greatest value that a field of a target admits (R266, R270); of an origin or a base, those that fit the field (log 123). -/
def admittedRange (e : Entry) (f : Nat) : Nat × Nat :=
  let set := e.cap.set.map (·.val)
  if f ≤ 0x0D then (0, e.linked.bound f)
  else match f with
    | 0x10 => (set.foldl min 127, set.foldl max 0)
    | 0x11 => (0, 0xFFFFFFFF)
    | 0x13 => (0, match e.linked.body with
        | .vector w => if 8 ≤ w.w.type then 0xFFFFFFFF else min 0xFFFFFFFF (2 ^ (8 * fmtBytes w.w.type) - 1)
        | .nop | .endB | .load _ | .store _ | .matrix _ | .patch _ | .rendezvous | .resolve _ _ => 0xFFFFFFFF)
    | 0x18 => (0, 4)
    | _ => (0, 0xFFFFFF)

/-- The error record of a value that is not admitted: EVAL of the patch in ADDR, the value and the field in INFO (R270, R451). -/
def rangeRec (s : State) (t : TileNo) (x : Ctx) (ch : ChainNo) (seq f v : Nat) : ErrRec :=
  causeRec s t x .patchRange (BitVec.ofNat 64 (seq % 4294967296 + 4294967296 * ch)) (BitVec.ofNat 64 (v + 4294967296 * f))

/-- The read of the source word, the checks of R264, and the write into the target's queued copy. A value that is not admitted leaves
the target unchanged (R270). -/
def patchAct (t : TileNo) (c : SlotNo) (x : Ctx) (ch : ChainNo) (e : Entry) (p : PatchBody) : M Unit := do
  match e.cap.target with
  | none => efault .patchTarget
  | some g => do
    if !x.isLinked g then stall t c ch e else pure ()
    match x.entry? g.1 g.2 with
    | none => efault .patchTarget
    | some y => do
      echeck (!y.run.started && y.cur.patchable p.tfield) .patchTarget
      let v := leNat (← engineBytes t c x e.cap (spAt t p.src) 4 (padWord p.src))
      if admitted x y p.tfield v then modCtx t c (·.modEntry g.1 g.2 fun y => { y with cur := y.cur.patch p.tfield v })
      else if p.clamp then
        modCtx t c (·.modEntry g.1 g.2 fun y => { y with cur := y.cur.patch p.tfield (clampBound x y p.tfield v) })
      else do
        let r ← see fun s => rangeRec s t x ch e.seq p.tfield v
        efault .patchRange 0 .iteration [r]

/-- An action that ends in the retirement of its block: what it did stands even if the posts fault (R170, R182, R264). -/
def actRetire (t : TileNo) (c : SlotNo) (x : Ctx) (ch : ChainNo) (e : Entry) (act : M Unit) : M Unit := do
  if e.run.ended then pure ()
  else blockStep t c ch e x.job (do
    act
    modRun t c ch e.seq fun r => { r with ended := true, stalled := false })
  let y ← getCtx t c
  match y.entry? ch e.seq with
  | some e' => if e'.run.ended then blockStep t c ch e' x.job (retireBlock t c ch e' 0 0) else pure ()
  | none => pure ()

/-- What the leaf controller gets of a PATCH that faults with PATCH_RANGE, and the value for its policy (R270). -/
def keepRefused (t : TileNo) (c : SlotNo) (ch : ChainNo) (e : Entry) (p : PatchBody) : M Unit := do
  let x ← getCtx t c
  match (x.chain ch).fault with
  | some f =>
    if f.cause = .patchRange then do
      let v ← see fun s => readNat s (spAt t p.src) 4
      modRun t c ch e.seq fun r => { r with refused := v }
      match e.cap.target.bind fun g => (x.entry? g.1 g.2).map fun y => (g, admittedRange y p.tfield) with
      | none => pure ()
      | some (g, least, most) => upd fun s => { s with
          clusters := s.clusters.set (clOf t) { s.clusters.get (clOf t) with
            ranges := ⟨x.job, x.num, (ch, e.seq), g, p.tfield, v, least, most⟩ :: (s.clusters.get (clOf t)).ranges } }
    else pure ()
  | none => pure ()

/-- The head block of a RUNNING chain that has started and does not run on an engine; a NOP also where a block behind it has faulted (R166,
R182). -/
def actingBlock (t : TileNo) (c : SlotNo) (ch : ChainNo) : M (Ctx × Entry) := do
  let x ← getCtx t c
  let e ← present (x.chain ch).queue.head?
  enabled ((x.chain ch).state == .running ||
    (x.chain ch).state == .faulted && e.cur.body == .nop && (x.chain ch).fault.any (·.seq != e.seq))
  enabled (e.run.started && e.cap.pred)
  return (x, e)

/-- PATCH_ACTION (R264). -/
def execPatchAction (t : TileNo) (c : SlotNo) (ch : ChainNo) (s : State) : Host.Outcome State Fault Refusal :=
  agent (do
    let (x, e) ← actingBlock t c ch
    match e.cur.body with
    | .patch p => do
      enabled (!e.run.stalled)
      actRetire t c x ch e (patchAct t c x ch e p)
      keepRefused t c ch e p
    | _ => exit .idle) s

/-- PATCH_HOLD_RESUME: the target is linked, or can no longer be; the PATCH goes on (R271). -/
def execPatchHoldResume (t : TileNo) (c : SlotNo) (ch : ChainNo) (s : State) : Host.Outcome State Fault Refusal :=
  agent (do
    let (x, e) ← actingBlock t c ch
    match e.cur.body with
    | .patch p => do
      enabled (e.run.stalled && (match e.cap.target with
        | some g => x.isLinked g
        | none => true))
      actRetire t c x ch e (patchAct t c x ch e p)
      keepRefused t c ch e p
    | _ => exit .idle) s

/-! ## The leaf's policies (R270) -/

/-- A context with the dealer state that a block captured at its LINK: its qs register and axis, its error mode, and the relocation registers of the
entries it names, which are locked (R154, R173). -/
def Ctx.asLinked (x : Ctx) (b : Blk) (cap : Cap) : Ctx :=
  let q : Fin 8 := match b.body with
    | .matrix m => m.qsel
    | .nop | .endB | .load _ | .store _ | .vector _ | .patch _ | .rendezvous | .resolve _ _ => cap.axis.qsel
  let x := { x with axis := cap.axis, errmode := if cap.strict then 1 else 0, qs := x.qs.set q cap.qs }
  cap.tens.foldl (fun x tc =>
    let e := x.titGet tc.tid
    if titReloc e then { x with reloc := x.reloc.set (titRel e) (tc.base - BitVec.ofNat 64 (titDw e 1)) } else x) x

/-- The new envelope of a target whose field takes a value, under R176 steps 4 and 5 and R267: the target, and the die's pin table. It is that of the
linked fields with the value, and a value that does not fit its field or its form fails (DESIGN CHOICE, log 100). -/
def relink (t : TileNo) (c : SlotNo) (x : Ctx) (ch : ChainNo) (y : Entry) (f v : Nat) : M (Entry × List Pin) := do
  let b := y.linked.patch f v
  let x := x.asLinked b y.cap
  let k : Linking := { t, c, x, ch, ga := 0 }
  k.check (match b.body with
    | .vector w => vecFormed w
    | .load c | .store c => copyFormed c
    | .nop | .endB | .matrix _ | .patch _ | .rendezvous | .resolve _ _ => true) .cbMalformed
  k.check (decide (v < 4294967296) && (0x0D < f || decide (v < 65536)) && (f != 0x18 || decide (v ≤ 4)) && (f != 0x10 || decide (v < 128)) &&
    (!(f == 0x12 || (decide (0x14 ≤ f) && decide (f ≤ 0x17))) || decide (v < 16777216))) .patchRange
  k.named b
  let tids := x.tensorSet b
  let cap := { y.cap with
    tens := tids.map x.tensCap
    set := tids.map fun n => ⟨n % 128, Nat.mod_lt _ (by decide)⟩ }
  let env := linkEnv x cap b
  let futs := futuresOf b cap.fut0 cap.fut1
  let pages ← envPages t x (env.spans ++ futureSpans futs)
  k.resources b cap env futs pages
  upd (unpin x.job y.pins)
  let (ps, pins) ← k.translation b cap env pages
  let no ← see (·.links)
  let wins ← see fun s => winsOf s env.spans
  upd fun s => { s with links := s.links + 1 }
  return ({ y with
    linkId := no, spans := env.spans, slots := env.slots, tiles := env.tiles, sp := ownPad t env
    pins := ps.map fun p => (dieNo t, p.leaf.base, p.leaf.size)
    linked := b, cur := y.cur.patch f v
    cap := { cap with wins, leaves := ps.map fun p => ⟨p.leaf.base, p.leaf.size, p.leaf.pa, p.leaf.chk⟩ } }, pins)

/-- The PATCH is done and its chain runs again; BLOCK_RETIRE applies its posts. -/
def settle (ch : ChainNo) (seq : Nat) (x : Ctx) : Ctx :=
  (x.modRun ch seq fun r => { r with ended := true, stalled := false }).modChain ch fun k => { k with state := .running, fault := none }

/-- The fault is reported to the dealer (R270 ABORT). -/
def reportRange (ch : ChainNo) (x : Ctx) : Ctx := x.modChain ch fun k => { k with fault := k.fault.map fun f => { f with toLeaf := false } }

/-- PATCH_RANGE_POLICY: CLAMP, RELINK or ABORT (R270). RELINK waits while the pin table has no room. -/
def execPatchRangePolicy (t : TileNo) (c : SlotNo) (ch : ChainNo) (s : State) : Host.Outcome State Fault Refusal :=
  agent (do
    let x ← getCtx t c
    let k := x.chain ch
    let f ← present k.fault
    enabled (k.state == .faulted && f.toLeaf && !f.reported)
    let e ← present (x.entry? ch f.seq)
    match e.cur.body, e.cap.target with
    | .patch p, some g => do
      let y ← present (x.entry? g.1 g.2)
      let pol ← see fun s => (s.job? x.job).elim 0 (·.ppol)
      let v := e.run.refused
      match pol with
      | 0 => do
        if p.tfield ≤ 0x0D then
          modCtx t c (·.modEntry g.1 g.2 fun y => { y with cur := y.cur.patch p.tfield (clampBound x y p.tfield v) })
        else pure ()
        modCtx t c (settle ch e.seq)
      | 1 => do
        let s ← see id
        match relink t c x g.1 y p.tfield v s with
        | .ok ((y', pins), s') => do
          upd fun _ => { s' with dies := s'.dies.set (dieNo t) { s'.dies.get (dieNo t) with pins } }
          modCtx t c (·.modEntry g.1 g.2 fun _ => y')
          modCtx t c (settle ch e.seq)
        | .error (.wait _ _) => exit .idle
        | .error (.ltrap _ _ d) => do
          upd (applySide t c d)
          modCtx t c (reportRange ch)
        | .error _ => modCtx t c (reportRange ch)
      | _ => modCtx t c (reportRange ch)
    | _, _ => exit .idle) s

end Sys2Proof.Machine
end

