-- ==== Sys2Proof/Machine/Vector.lean ====
section
/-!
DEFINITION. The vector engine: ports (R238 to R240), rows, lengths and masks (R241, R242), the operators (R250 to R260), their tag
checks (R247, R259), the grid of a block under coverage (R299, R305), and what a block writes at the end of its walk.
-/
namespace Sys2Proof.Machine

/-! ## Ports -/

/-- The tile and the byte offset of region element o of a kind 2 port (R239). -/
def tilePlace (p : VPort) (o : Nat) : Nat × Nat :=
  let q := o % 4096
  (p.base + o / 4096, if p.dir = 0 then 256 * (q / 64) + 4 * (q % 64) else 256 * (q % 64) + 4 * (q / 64))

/-- The slot, row and element of region element o of a kind 3 port (R239, R134). -/
def slotPlace (p : VPort) (o : Nat) : Nat × Nat × Nat :=
  let W := rowWidth p.type
  let q := o % (64 * W)
  let len := if p.dir = 0 then W else 64
  let d := q / len
  let i := q % len
  (p.base + o / (64 * W), match p.dir with
    | 0 => (d, i)
    | 1 => (i, d)
    | 2 => (i, (i + d) % W)
    | _ => (i, (d + W - i % W) % W))

/-- What the tag of the unit that holds region element o breaks (R247). -/
def portCause (y : Tile) (p : VPort) (o : Nat) : Option Cause :=
  match p.kind with
  | 2 => let g := accTag y (tilePlace p o).1; if !g.written || g.format.toNat == p.type then none else some .accConflict
  | 3 =>
    let g := slotTag y (slotPlace p o).1
    if !g.valid then some .tidInvalid else if g.format.toNat == p.type then none else some .cbUnsupportedTypes
  | _ => none

/-- Check the tag of the unit that holds region element o (R247). -/
def portTag (t : TileNo) (p : VPort) (o : Nat) : M Unit := do
  match ← see fun s => portCause (s.tile t) p o with
  | some k => efault k
  | none => pure ()

/-- Read region element o of a port outside the queues. A tile that no operator has written reads as zero (R247). -/
def portRead (t : TileNo) (c : SlotNo) (x : Ctx) (cap : Cap) (p : VPort) (o : Nat) : M Nat := do
  let s := fmtBytes p.type
  match p.kind with
  | 1 => do
    let off := p.base + o * s
    return leNat (← engineBytes t c x cap (spAt t off) s (padWord off))
  | 2 => do
    let (u, b) := tilePlace p o
    if (← see fun s => accTag (s.tile t) u).written then return leNat (← unitBytes t c x cap (accAt t u b) 4) else return 0
  | _ => do
    let (u, i, j) := slotPlace p o
    return leNat (← unitBytes t c x cap (handAt t u (128 * i + s * j)) s)

/-- Write region element o of the w port, or the next element of its queue. -/
def portWrite (t : TileNo) (c : SlotNo) (seq : Nat) (p : VPort) (o v : Nat) : M Unit := do
  let s := fmtBytes p.type
  match p.kind with
  | 1 => upd fun st => writeNat st (spAt t (p.base + o * s)) s v
  | 2 => do
    let (u, b) := tilePlace p o
    setAccTag t u { format := BitVec.ofNat 4 p.type, written := true }
    upd fun st => writeNat st (accAt t u b) 4 v
  | _ => modRun t c 3 seq fun r => { r with qw := r.qw ++ natLe s v }

/-- The region element of a port at an index tuple (R239). -/
def portElem (p : VPort) (idx : List Nat) : Nat := (dot idx p.str).toNat

/-! ## Values -/

/-- The operator's inputs: ports x, y and z as the group uses them. -/
def opInputs (b : VecBody) : List Nat :=
  match vgroup b.op with
  | some .binary | some .compare | some .bitwise | some .index => [0, 1]
  | some .three => [0, 1, 2]
  | some .scalar | some .unary | some .special | some .block | some .segment | some .softmax => [0]
  | none => []

/-- The value of the immediate (R244). -/
def immVal (fp : BitVec 4) (b : VecBody) : Val := readVal fp b.w.type b.imm.toNat

/-- Zero or one. -/
def truthVal (p : Bool) : Val := if p then .num (.ofInt 1) else .zero false

/-- RINT (R252). -/
def rintVal (rm : Nat) (v : Val) : Val :=
  match v with
  | .num q => .ofQ (decide (q.num < 0)) (.ofInt (roundInt rm q))
  | w => w

/-- SIGN (R252). -/
def signVal (v : Val) : Val :=
  match v with
  | .nan => .nan
  | .zero n => .zero n
  | w => .num (.ofInt (if w.neg? then -1 else 1))

/-- The exact result of an elementwise operator on values (R250 to R255). The mode signs an exact zero sum also where the result goes to FP8 (log
124); an integer input of 0 comes as +0, so that its negative is −0 (R252, log 145). -/
def opVal (rm : Nat) (op : Nat) (imm x y z : Val) : Val :=
  let d := rm == 3
  match op with
  | 0x01 => x.add d y
  | 0x02 => x.add d y.negate
  | 0x03 => x.mul y
  | 0x04 => x.div y
  | 0x05 => x.min y
  | 0x06 => x.max y
  | 0x07 => (x.add d y.negate).abs
  | 0x08 => x.add d imm
  | 0x09 => imm.add d x.negate
  | 0x0A => x.mul imm
  | 0x0B => x.min imm
  | 0x0C => x.max imm
  | 0x10 => x
  | 0x11 => x.negate
  | 0x12 => x.abs
  | 0x13 => rintVal rm x
  | 0x14 => signVal x
  | 0x18 => (x.mul y).add d z
  | 0x19 => (x.mul y).add d z.negate
  | 0x1A => z.add d (x.mul y).negate
  | 0x1B => (x.max y).min z
  | 0x1C => (match z with
    | .nan | .zero _ => y
    | _ => x)
  | 0x20 => truthVal (x.eq y)
  | 0x21 => truthVal (!x.eq y)
  | 0x22 => truthVal (x.lt y)
  | 0x23 => truthVal (x.lt y || x.eq y)
  | n => special (n - 0x28) x

/-- A 32-bit pattern of an integer input (R256). -/
def pat32 (ty code : Nat) : BitVec 32 :=
  match ty with
  | 5 => (BitVec.ofNat 8 code).signExtend 32
  | 6 => (BitVec.ofNat 8 code).zeroExtend 32
  | _ => BitVec.ofNat 32 code

/-- The bitwise operators (R256). -/
def bitOp (op tx : Nat) (x y : BitVec 32) : BitVec 32 :=
  match op with
  | 0x30 => x &&& y
  | 0x31 => x ||| y
  | 0x32 => x ^^^ y
  | 0x33 => x <<< (y.toNat % 32)
  | _ => if tx = 6 then x >>> (y.toNat % 32) else x.sshiftRight (y.toNat % 32)

/-- The element that an elementwise operator delivers from the codes of its inputs (R243). -/
def opDeliver (fp : BitVec 4) (b : VecBody) (x y z : Nat) : Nat × Counts :=
  if vgroup b.op = some .bitwise then
    ((bitOp b.op b.x.type (pat32 b.x.type x) (pat32 b.y.type y)).toNat % 2 ^ (8 * fmtBytes b.w.type), {})
  else
    deliver fp b.w.type (opVal (rmOf fp) b.op (immVal fp b) (readVal fp b.x.type x) (readVal fp b.y.type y) (readVal fp b.z.type z))

/-! ## Reductions -/

/-- A floating element as FP32, an integer one as INT32 (R91, R93). -/
def redCode (fp : BitVec 4) (ty code : Nat) : Nat :=
  if fmtInt ty then (pat32 ty code).toNat else rne32 (readVal fp ty code)

/-- The reduction of a segment: operator 0 sum, 1 maximum, 2 minimum (R257); none of its elements gives the identity. -/
def redVal (fp : BitVec 4) (op ty : Nat) (l : List Nat) : Val :=
  match l with
  | [] => match op with
    | 0 => .zero false
    | 1 => .inf true
    | _ => .inf false
  | _ =>
    if fmtInt ty then
      let is := l.map (toInt 32)
      .ofQ false (.ofInt (match op with
        | 0 => toInt 32 ((is.foldl (· + ·) 0) % 4294967296).toNat
        | 1 => is.foldl max (is.headD 0)
        | _ => is.foldl min (is.headD 0)))
    else val32 (reduce (match op with
      | 0 => addRM fp
      | 1 => maxC
      | _ => minC) (l.length + 1) l)

/-- The elements of a segment in walk order. -/
def segElems (seg : List (Option Nat)) : List Nat := (seg.filterMap id).reverse

/-- The softmax step of a segment (R260): for each element, in walk order, what is delivered; none for a masked one. `seg` is what the first read of x
found, the newest first, and `again` what the second one did, in walk order. -/
def softmax (fp : BitVec 4) (b : VecBody) (seg : List (Option Nat)) (again : List Nat) : List (Option (Nat × Counts)) :=
  let val (k : Nat) : Val := if fmtInt b.x.type then elemVal 7 k else val32 k
  match (segElems seg).map val with
  | [] => seg.reverse.map fun _ => none
  | v :: r =>
    let M := r.foldl Val.max v
    let ps := (again.map val).map fun x =>
      let d := val32 (deliver fp 0 ((immVal fp b).mul (x.add (rmOf fp == 3) M.negate))).1
      (deliver fp 0 (special 0 d)).1
    let S := val32 (reduce (addRM fp) (ps.length + 1) ps)
    place seg.reverse (ps.map fun p => deliver fp b.w.type ((val32 p).div S))
where
  /-- Put the results back between the masked elements. -/
  place (seg : List (Option Nat)) (rs : List (Nat × Counts)) : List (Option (Nat × Counts)) :=
    match seg, rs with
    | some _ :: q, r :: rs => some r :: place q rs
    | some _ :: q, [] => none :: place q []
    | none :: q, rs => none :: place q rs
    | [], _ => []

/-! ## Queues -/

/-- Push what fills entries of the w queue, as far as there is credit. -/
def drainW (fuel : Nat) (t : TileNo) (c : SlotNo) (x : Ctx) (e : Entry) (p : VPort) : M Unit := do
  match fuel with
  | 0 => pure ()
  | n + 1 =>
    let y ← getCtx t c
    let q := (y.entry? 3 e.seq).elim [] fun e => e.run.qw
    if p.kind = 4 ∧ 512 ≤ q.length then
      if ← see fun s => s.canPush t (epNo p.base) x then do
        upd (pushEntry t x (epNo p.base) (q.take 512) (3, e.seq, e.run.iter) 0)
        modRun t c 3 e.seq fun r => { r with qw := q.drop 512 }
        drainW n t c x e p
      else pure ()
    else pure ()

/-- A full entry of w that found no credit stalls the block. -/
def wReady (t : TileNo) (c : SlotNo) (x : Ctx) (e : Entry) (p : VPort) : M Unit := do
  drainW (e.run.qw.length / 512 + 1) t c x e p
  let y ← getCtx t c
  if 512 ≤ ((y.entry? 3 e.seq).elim [] fun e => e.run.qw).length then stall t c 3 e else pure ()

/-- The buffer of an input queue port. -/
def Progress.queue (r : Progress) (k : Nat) : List Byte :=
  match k with
  | 0 => r.qx
  | 1 => r.qy
  | _ => r.qz

/-- Set the buffer of an input queue port. -/
def Progress.setQueue (r : Progress) (k : Nat) (q : List Byte) : Progress :=
  match k with
  | 0 => { r with qx := q }
  | 1 => { r with qy := q }
  | _ => { r with qz := q }

/-- The next element of a queue port, which pops an entry when it needs one (R240). -/
def queueElem (t : TileNo) (c : SlotNo) (e : Entry) (k : Nat) (p : VPort) : M Nat := do
  let y ← getCtx t c
  let q := (y.entry? 3 e.seq).elim [] fun e => e.run.queue k
  let q ← if q.isEmpty then do
      if !(← see fun s => s.canPop t (epNo p.base) y) then stall t c 3 e
      else do
        let bs ← see fun s => (s.ep t (epNo p.base)).entries.headD []
        upd (popEntry t (epNo p.base))
        modRun t c 3 e.seq fun r => r.setQueue k bs
        pure bs
    else pure q
  return leNat (q.take (fmtBytes p.type))

/-- The element of every queue port is used up. -/
def advanceQueues (b : VecBody) (ks : List Nat) (r : Progress) : Progress :=
  ks.foldl (fun r k => if (b.port k).kind = 4 then r.setQueue k ((r.queue k).drop (fmtBytes (b.port k).type)) else r) r

/-! ## Rows and masks -/

/-- The length of row u from the table; one above BND0 counts in SATCNT (R241). -/
def readLen (t : TileNo) (c : SlotNo) (x : Ctx) (cap : Cap) (b : VecBody) (u : Nat) : M Nat := do
  let off := b.rlt + 2 * u
  let l := leNat (← engineBytes t c x cap (spAt t off) 2 (padWord off))
  let b0 := b.bnd.headD 0
  if b0 < l then do
    countEvents t c ⟨0, 1⟩
    return b0
  else return l

/-- The tags of ports at a tuple, in order. -/
def tagsAt (t : TileNo) (b : VecBody) (idx : List Nat) (ks : List Nat) : M Unit :=
  ks.forM fun k => portTag t (b.port k) (portElem (b.port k) idx)

/-- The mask element of port z (R242). Where its tag fails, those of x and y come before it (R247, log 122). -/
def readMask (t : TileNo) (c : SlotNo) (x : Ctx) (e : Entry) (b : VecBody) (idx : List Nat) : M Bool := do
  if b.z.kind = 4 then do
    let v ← queueElem t c e 2 b.z
    modRun t c 3 e.seq fun r => r.setQueue 2 ((r.queue 2).drop (fmtBytes b.z.type))
    return v != 0
  else do
    if (← see fun s => portCause (s.tile t) b.z (portElem b.z idx)).isSome then
      tagsAt t b idx ((if b.op = 0x40 then [1] else opInputs b) ++ [2])
    else pure ()
    return (← portRead t c x e.cap b.z (portElem b.z idx)) != 0

/-- The tuple is iterated: within the length of its row, on a ragged walk (R241). -/
def iterated (b : VecBody) (len v : Nat) : Bool := !b.ragged || decide (v < len)

/-- Form the grid before the first iteration: every row length first, then every mask element, in walk order (R299). A mask element is
read in a step of its own. -/
def gridStep (t : TileNo) (c : SlotNo) (x : Ctx) (e : Entry) (b : VecBody) : M Unit := do
  let b0 := b.bnd.headD 0
  if b.readsRlt && e.run.lens.isEmpty then do
    let ls ← (List.range (vecRows b)).mapM (readLen t c x e.cap b)
    modRun t c 3 e.seq fun r => { r with lens := ls }
  else
    let k := e.run.mask.length
    if k < e.total then do
      let v := k % b0
      let len := e.run.lens[k / b0]?.getD b0
      let m ← if !iterated b len v then pure false
        else if b.msrc = 1 then readMask t c x e b (indexAt b.bnd k)
        else pure (b.msrc != 2 || decide (v < len))
      modRun t c 3 e.seq fun r => { r with mask := r.mask ++ [m] }
    else modRun t c 3 e.seq fun r => { r with gridded := true }

/-- The grid as a predicate: row u and element v. -/
def vecGrid (b0 : Nat) (mask : Array Bool) : Grid := fun u v => decide (v < b0) && mask[u * b0 + v]?.getD false

/-! ## The iteration -/

/-- Lane cycles of one iteration in 1/512 of a cycle: the largest element size, four times for DIV and the special functions, three
times for the softmax step (R246, R424). -/
def laneCost (b : VecBody) : Nat :=
  let s := ([b.x, b.y, b.z, b.w].map fun p => if p.kind = 0 then 0 else fmtBytes p.type).foldl max 1
  if b.op = 0x04 ∨ (0x28 ≤ b.op ∧ b.op ≤ 0x2D) then 4 * s else if b.op = 0x48 then 3 * s else s

/-- Read an input port at a tuple, after its tag was checked. -/
def inputAt (t : TileNo) (c : SlotNo) (x : Ctx) (e : Entry) (b : VecBody) (idx : List Nat) (k : Nat) : M Nat := do
  let p := b.port k
  if p.kind = 4 then queueElem t c e k p else portRead t c x e.cap p (portElem p idx)

/-- The region element of a row's output (R258). -/
def rowElem (b : VecBody) (idx : List Nat) : Nat := (dot (0 :: idx.drop 1) b.w.str).toNat

/-- The result of a row of a segmented reduction, after the check of its w tile (R247, R258). -/
def rowResult (t : TileNo) (c : SlotNo) (e : Entry) (b : VecBody) (seg : List (Option Nat)) (idx : List Nat) : M Unit := do
  portTag t b.w (rowElem b idx)
  let (v, k) := deliver e.cap.fp b.w.type (redVal e.cap.fp (b.op - 0x3C) b.x.type (segElems seg))
  countEvents t c k
  portWrite t c e.seq b.w (rowElem b idx) v

/-- Write the zero of a masked element under zero mode (R242). -/
def maskedWrite (t : TileNo) (c : SlotNo) (e : Entry) (b : VecBody) (idx : List Nat) : M Unit :=
  if b.mmode = 2 then portWrite t c e.seq b.w (portElem b.w idx) 0 else pure ()

/-- The softmax step of a row, once its last element is read: the second read of x, which a queue does not have (DESIGN CHOICE, log 158), and then the
writes (R260). -/
def softmaxRow (t : TileNo) (c : SlotNo) (x : Ctx) (e : Entry) (b : VecBody) (seg : List (Option Nat)) (idx : List Nat) : M Unit := do
  let act := seg.reverse.zipIdx.filterMap fun r => r.1.map fun k => (k, r.2)
  let again ← act.mapM fun r =>
    if b.x.kind = 4 then pure r.1 else return redCode e.cap.fp b.x.type (← inputAt t c x e b (r.2 :: idx.drop 1) 0)
  ((softmax e.cap.fp b seg again).zipIdx).forM fun r => do
    let ix := r.2 :: idx.drop 1
    match r.1 with
    | some (v, k) => do
      countEvents t c k
      portWrite t c e.seq b.w (portElem b.w ix) v
    | none => maskedWrite t c e b ix

/-- An active element of GATHER, SCATTER or SCATADD (R259); the sign of an exact zero sum as in opVal (log 124). -/
def indexIter (t : TileNo) (c : SlotNo) (x : Ctx) (e : Entry) (b : VecBody) (idx : List Nat) : M Unit := do
  let fp := e.cap.fp
  let gather := b.op == 0x40
  tagsAt t b idx (if gather then [1] else [0, 1])
  let table := if gather then b.x else b.w
  let v : Int := match readVal fp b.y.type (← inputAt t c x e b idx 1) with
    | .num q => q.num
    | _ => 0
  if v < 0 ∨ (table.count : Int) ≤ v then efault .tidGeometry else pure ()
  let n := v.toNat
  portTag t table n
  if gather then do
    portTag t b.w (portElem b.w idx)
    let (r, k) := deliver fp b.w.type (readVal fp b.x.type (← portRead t c x e.cap b.x n))
    countEvents t c k
    portWrite t c e.seq b.w (portElem b.w idx) r
  else do
    let xv := readVal fp b.x.type (← inputAt t c x e b idx 0)
    let sum ← if b.op = 0x42 then do
        let old ← portRead t c x e.cap b.w n
        pure ((readVal fp b.w.type old).add (rmOf fp == 3) xv)
      else pure xv
    let (r, k) := deliver fp b.w.type sum
    countEvents t c k
    portWrite t c e.seq b.w n r

/-- An input that is read and not used: it raises nothing, and bytes that counted-drop gives up are counted (R253). -/
def unusedInput (t : TileNo) (c : SlotNo) (x : Ctx) (e : Entry) (b : VecBody) (idx : List Nat) (k : Nat) : M Unit := do
  if (b.port k).kind = 4 ∨ e.cap.strict = true then pure ()
  else do
    let _ ← inputAt t c x e b idx k
    pure ()

/-- SEL (R253): z decides, the input it selects is checked and used, the other one is only read. Where z's tag fails, those of x and y come before
it (R247, log 122). -/
def selIter (t : TileNo) (c : SlotNo) (x : Ctx) (e : Entry) (b : VecBody) (idx : List Nat) : M (Nat × Nat × Nat) := do
  if b.z.kind != 4 && (← see fun s => portCause (s.tile t) b.z (portElem b.z idx)).isSome then tagsAt t b idx [0, 1, 2] else pure ()
  let z ← inputAt t c x e b idx 2
  let pick := match readVal e.cap.fp b.z.type z with
    | .nan | .zero _ => 1
    | _ => 0
  tagsAt t b idx [pick, 3]
  let v ← inputAt t c x e b idx pick
  unusedInput t c x e b idx (1 - pick)
  return if pick = 0 then (v, 0, z) else (0, v, z)

/-- What an active element does; the second component is what the segment collects of it. -/
def activeIter (t : TileNo) (c : SlotNo) (x : Ctx) (e : Entry) (b : VecBody) (idx : List Nat) (lastOfRow lastOfBlock : Bool) :
    M (Option Nat) := do
  let fp := e.cap.fp
  match vgroup b.op with
  | some .index => do
    indexIter t c x e b idx
    return none
  | some .block => do
    tagsAt t b idx [0]
    if lastOfBlock then portTag t b.w 0 else pure ()
    return some (redCode fp b.x.type (← inputAt t c x e b idx 0))
  | some .softmax => do
    tagsAt t b idx [0, 3]
    return some (redCode fp b.x.type (← inputAt t c x e b idx 0))
  | some .segment =>
    if b.op = 0x3F then do
      tagsAt t b idx [0, 3]
      let v := redCode fp b.x.type (← inputAt t c x e b idx 0)
      let run : Nat := match segElems e.run.seg with
        | [] => v
        | s :: _ => if fmtInt b.x.type then (s + v) % 4294967296 else addRM fp s v
      let (r, k) := deliver fp b.w.type (if fmtInt b.x.type then elemVal 7 run else val32 run)
      countEvents t c k
      portWrite t c e.seq b.w (portElem b.w idx) r
      return some run
    else do
      tagsAt t b idx [0]
      if lastOfRow then portTag t b.w (rowElem b idx) else pure ()
      return some (redCode fp b.x.type (← inputAt t c x e b idx 0))
  | _ => do
    let (xv, yv, zv) ← if b.op = 0x1C then selIter t c x e b idx
      else do
        let uses (k : Nat) : Bool := (opInputs b).contains k
        tagsAt t b idx (opInputs b ++ [3])
        let xv ← if uses 0 then inputAt t c x e b idx 0 else pure 0
        let yv ← if uses 1 then inputAt t c x e b idx 1 else pure 0
        let zv ← if uses 2 then inputAt t c x e b idx 2 else pure 0
        pure (xv, yv, zv)
    let (r, k) := opDeliver fp b xv yv zv
    countEvents t c k
    portWrite t c e.seq b.w (portElem b.w idx) r
    return some r

/-- One tuple of the walk, or the end of a row that has none left (R241, R243, R258). Ports that name one queue endpoint pop it in the order x, y, z
(DESIGN CHOICE, log 153). -/
def vecTuple (t : TileNo) (c : SlotNo) (x : Ctx) (e : Entry) (b : VecBody) : M Unit := do
  let b0 := b.bnd.headD 0
  let k := e.run.iter
  let u := k / b0
  let v := k % b0
  let idx := indexAt b.bnd k
  let len ← if !b.readsRlt then pure b0
    else if e.run.gridded then pure (e.run.lens[u]?.getD b0)
    else match e.run.lens with
      | l :: _ => pure l
      | [] => do
        let l ← readLen t c x e.cap b u
        modRun t c 3 e.seq fun r => { r with lens := [l] }
        pure l
  let keepLens (r : Progress) : List Nat := if r.gridded then r.lens else []
  if !iterated b len v then do
    if vgroup b.op = some .segment ∧ b.op ≠ 0x3F then rowResult t c e b [] idx else pure ()
    modRun t c 3 e.seq fun r => { r with
      iter := (u + 1) * b0, lens := keepLens r
      seg := if r.gridded then List.replicate b0 none ++ r.seg else if vgroup b.op = some .block then r.seg else [] }
  else do
    let lastOfRow := v + 1 == (if b.ragged then len else b0)
    let next := if lastOfRow then (u + 1) * b0 else k + 1
    let inputs := (opInputs b).filter fun j => (b.port j).kind == 4
    inputs.forM fun j => do
      let _ ← queueElem t c e j (b.port j)
      pure ()
    let active ← if e.run.gridded then pure (e.run.mask[k]?.getD false)
      else if b.msrc = 1 then readMask t c x e b idx
      else pure (b.msrc != 2 || decide (v < len))
    let skip := e.run.gridded && (match e.run.cov with
      | some cv => isSkipped cv (vecGrid b0 e.run.mask.toArray) u v 0
      | none => false)
    let got ← if active && !skip then activeIter t c x e b idx lastOfRow (e.total ≤ next) else pure none
    if !active && b.op != 0x41 && b.op != 0x42 && b.op != 0x48 && !(vgroup b.op == some .block) &&
        !(vgroup b.op == some .segment && b.op != 0x3F) then maskedWrite t c e b idx
    else pure ()
    let seg : List (Option Nat) := if e.run.gridded || b.op == 0x48 then got :: e.run.seg
      else if b.op = 0x3F then (match got with
        | some r => [some r]
        | none => e.run.seg)
      else match vgroup b.op with
        | some .block | some .segment => if got.isSome then got :: e.run.seg else e.run.seg
        | _ => []
    if lastOfRow then
      (if b.op = 0x48 then softmaxRow t c x e b seg idx
       else if vgroup b.op = some .segment ∧ b.op ≠ 0x3F then rowResult t c e b seg idx
       else pure ())
    else pure ()
    if active && !skip then upd fun s => s.charge t c 4 (laneCost b) else pure ()
    modRun t c 3 e.seq fun r =>
      let r := advanceQueues b (opInputs b) r
      { r with
        iter := next
        lens := if lastOfRow then keepLens r else r.lens
        seg := if r.gridded then List.replicate (next - (k + 1)) none ++ seg
          else if lastOfRow && vgroup b.op != some .block then [] else seg }
  let p := b.w
  drainW 65 t c x e p

/-- VECTOR_ITERATION (R243): the grid first where coverage needs one, then one tuple. -/
def execVectorIteration (t : TileNo) (c : SlotNo) (s : State) : Host.Outcome State Fault Refusal :=
  agent (orResend t c 3 do
    let (x, e) ← running t c 3
    enabled (decide (e.run.iter < e.total))
    match e.cur.body with
    | .vector b => blockStep t c 3 e x.job do
      covStart e
      wReady t c x e b.w
      let grid := !e.run.gridded && (match e.run.cov with
        | some k => k.acts
        | none => false)
      if grid then gridStep t c x e b else vecTuple t c x e b
    | _ => exit .idle) s

/-! ## The end of a block -/

/-- The rows of a block that has none of their elements (BND0 = 0): the length of each is read (R241), and a segmented reduction gives each its
identity (R258). -/
def emptyRows (t : TileNo) (c : SlotNo) (x : Ctx) (e : Entry) (b : VecBody) : M Unit :=
  if b.bnd.headD 0 = 0 then
    (List.range (vecRows b)).forM fun u => do
      if b.readsRlt then do
        let _ ← readLen t c x e.cap b u
        pure ()
      else pure ()
      if vgroup b.op = some .segment ∧ b.op ≠ 0x3F then rowResult t c e b [] (0 :: indexAt (b.bnd.drop 1) u) else pure ()
  else pure ()

/-- The delivered value of a point as the kernels see it: FP32, widened under the block's FIN (R75), or the bits of an integer destination
(R301). FIN flushes also a subnormal point that is FP32 itself (log 146). -/
def pointVal (fp : BitVec 4) (ty code : Nat) : Nat := if fmtInt ty then code else rne32 (readVal fp ty code)

/-- Reconstruction of skipped points, in walk order, and the errors of the sample points (R305). -/
def vecFill (t : TileNo) (c : SlotNo) (e : Entry) (b : VecBody) (k : CovCap) : M (List Nat) := do
  let b0 := b.bnd.headD 0
  let vals := (e.run.seg.reverse).toArray
  let on := vecGrid b0 e.run.mask.toArray
  let ty := b.w.type
  let at' (p : Nat × Nat) : Nat := pointVal e.cap.fp ty ((vals[p.1 * b0 + p.2]?.getD none).getD 0)
  let errs ← (List.range e.total).mapM fun i => do
    let u := i / b0
    let v := i % b0
    if isSkipped k on u v 0 then do
      let w := interpolate k (k.frac.getD 0) on at' u v
      let (r, n) : Nat × Counts := if fmtInt ty then (w, {}) else deliver e.cap.fp ty (val32 w)
      countEvents t c n
      portWrite t c e.seq b.w (portElem b.w (indexAt b.bnd i)) r
      return []
    else if isSample k on u v 0 then
      let w := interpolate k (sampleIdx k) on at' u v
      let xv := elemVal ty ((vals[i]?.getD none).getD 0)
      return [sampleErr (if fmtInt ty then elemVal ty w else val32 w) xv]
    else return []
  return errs.flatten

/-- What a VECTOR block writes at the end of its walk, with its error sum and sample count (R257, R258, R305). -/
def vecFinish (t : TileNo) (c : SlotNo) (x : Ctx) (e : Entry) (b : VecBody) : M (Nat × Nat) := do
  wReady t c x e b.w
  match vgroup b.op with
  | some .block => do
    let (v, k) := deliver e.cap.fp b.w.type (redVal e.cap.fp (b.op - 0x38) b.x.type (segElems e.run.seg))
    portTag t b.w 0
    countEvents t c k
    portWrite t c e.seq b.w 0 v
  | _ => pure ()
  emptyRows t c x e b
  let es ← match e.run.cov with
    | some k => if k.acts && decide (0 < e.total) then vecFill t c e b k else pure []
    | none => pure []
  return (sumErr es, es.length)

/-- One of the entries of w that are left at the end of the walk goes out; the last is padded (R240). -/
def vecLastEntry (t : TileNo) (c : SlotNo) (x : Ctx) (e : Entry) (b : VecBody) : M Unit := do
  if ← see fun s => s.canPush t (epNo b.w.base) x then do
    upd (pushEntry t x (epNo b.w.base) (e.run.qw.take 512) (3, e.seq, e.run.iter) 0)
    modRun t c 3 e.seq fun r => { r with qw := r.qw.drop 512 }
  else stall t c 3 e

end Sys2Proof.Machine
end

