-- ==== Sys2Proof/Machine/Retire.lean ====
section
/-!
DEFINITION. The start of a block: the grant of its waits (R168, R169), the engine's choice between two contexts (R185), the wait for
a fraction (R304). Its end: what is written after the walk, the last counted units, the retirement (R166, R167, R196), and the NOP, END
and MARK blocks (R182).
-/
namespace Sys2Proof.Machine

/-! ## Starting -/

/-- The block of a chain that may start: the chain is RUNNING, the waits of its head are first and satisfied, and its fraction is
known. -/
def readyOf (x : Ctx) (ch : ChainNo) : Option Entry :=
  if (x.chain ch).state = .running then
    (headOf (x.chain ch).queue).filter fun e => grantable x ch e && (!e.pending || (match e.covSel with
      | some k => (k.fraction (x.covs.get k.cov)).isSome
      | none => true))
  else none

/-- The half bytes that a nullified counting block adds to CSEM (R167). -/
def Entry.nullCount (x : Ctx) (e : Entry) : Nat :=
  match e.cur.body with
  | .load c => if c.cnten && !e.cap.pred then 2 * countedBytes x false c else 0
  | .store c => if c.cnten && !e.cap.pred then 2 * countedBytes x true c else 0
  | .nop | .endB | .matrix _ | .vector _ | .patch _ | .rendezvous | .resolve _ _ => 0

/-- The waits of a block are granted (R169). They are evaluated while the engine runs another block (R211); which block the engine takes up next
is decided at its first iteration (R185). -/
def grantBlock (t : TileNo) (c : SlotNo) (x : Ctx) (ch : ChainNo) (e : Entry) : M Unit := do
  mergeStamps t (waitStamps x e)
  let cov := e.covSel.map fun k => { k with frac := k.fraction (x.covs.get k.cov) }
  modCtx t c fun y => (takeWaits e y).modRun ch e.seq fun r => { r with started := true, cov := cov, unit := e.nullCount x }

/-- The grant of the head block of a chain; `pending` says whether it was linked with the pending mark. -/
def grantHead (t : TileNo) (c : SlotNo) (ch : ChainNo) (pending : Bool) : M Unit := do
  let x ← getCtx t c
  enabled (!x.stops)
  let e ← present (readyOf x ch)
  enabled (e.pending == pending)
  grantBlock t c x ch e

/-- BLOCK_WAIT_GRANT (R169). -/
def execBlockWaitGrant (t : TileNo) (c : SlotNo) (ch : ChainNo) (s : State) : Host.Outcome State Fault Refusal :=
  agent (grantHead t c ch false) s

/-- COVERAGE_FRACTION_WAIT: update π − 2 is made; the block takes its fraction and starts (R304). -/
def execCoverageFractionWait (t : TileNo) (c : SlotNo) (ch : ChainNo) (s : State) : Host.Outcome State Fault Refusal :=
  agent (grantHead t c ch true) s

/-! ## Retiring -/

/-- The engine block of a chain that has issued its walk and has still to write what comes after it. -/
def finishing (q : List Entry) : Option Entry :=
  q.find? fun e => e.run.started && e.cur.body.engine && decide (e.total ≤ e.run.iter) && e.writesLast && !e.run.stalled

/-- What a block writes after its walk, once; then the entries left in its output queue, one at a time (R240, R257, R305). -/
def finishBlock (t : TileNo) (c : SlotNo) (x : Ctx) (ch : ChainNo) (e : Entry) : M Unit :=
  blockStep t c ch e x.job do
    match e.cur.body with
    | .vector b =>
      if e.run.ended then vecLastEntry t c x e b
      else do
        let r ← vecFinish t c x e b
        modRun t c ch e.seq fun p => { p with ended := true, bsum := r.1, bn := r.2 }
    | .matrix m => do
      let r ← matFinish t c x e m
      modRun t c ch e.seq fun p => { p with ended := true, bsum := r.1, bn := r.2 }
    | _ => exit .idle

/-- One of the units that a block has still to count; at the ceiling the block faults at its posts (R219). -/
def lastUnit (t : TileNo) (c : SlotNo) (x : Ctx) (ch : ChainNo) (e : Entry) : M Unit :=
  blockStep t c ch e x.job do
    match e.cur.body with
    | .load b | .store b => do
      let r := countStep b.csem true ch e.seq x
      if r.2 then efault .semCeiling 0 .posts else modCtx t c fun _ => r.1
    | _ => exit .idle

/-- The head block of a chain has nothing left but its posts: an engine block after its walk, a nullified block, or a block whose
action is done. -/
def Entry.walked (e : Entry) : Bool :=
  e.run.started && !e.isRdv &&
    (if e.cur.body.engine then decide (e.total ≤ e.run.iter) && !e.writesLast else !e.cap.pred || e.run.ended)

/-- BLOCK_RETIRE: what is written after the walk, then the last units, then the retirement, each a step of its own (R166, R196). -/
def execBlockRetire (t : TileNo) (c : SlotNo) (ch : ChainNo) (s : State) : Host.Outcome State Fault Refusal :=
  agent (do
    let x ← getCtx t c
    let k := x.chain ch
    enabled (k.state == .running || (k.state == .faulted && (match k.fault, k.queue with
      | some f, e :: _ => f.seq != e.seq && e.walked
      | _, _ => false)))
    let q := match k.fault with
      | some f => k.queue.takeWhile (·.seq != f.seq)
      | none => k.queue
    match finishing q with
    | some e => finishBlock t c x ch e
    | none => do
      let e ← present k.queue.head?
      enabled e.walked
      if 2 ≤ e.run.unit then lastUnit t c x ch e
      else do
        enabled (e.run.owed == 0 && !(← see fun s => s.outstanding x ch e.seq))
        blockStep t c ch e x.job (retireBlock t c ch e e.run.bsum e.run.bn)) s

/-! ## NOP, END and MARK (R182) -/

/-- NOP_BLOCK. -/
def execNopBlock (t : TileNo) (c : SlotNo) (ch : ChainNo) (s : State) : Host.Outcome State Fault Refusal :=
  agent (do
    let (x, e) ← actingBlock t c ch
    match e.cur.body with
    | .nop => actRetire t c x ch e (pure ())
    | _ => exit .idle) s

/-- END_BLOCK. -/
def execEndBlock (t : TileNo) (c : SlotNo) (ch : ChainNo) (s : State) : Host.Outcome State Fault Refusal :=
  agent (do
    let (x, e) ← actingBlock t c ch
    match e.cur.body with
    | .endB => actRetire t c x ch e (modCtx t c (·.modChain ch fun k => { k with state := .stopped }))
    | _ => exit .idle) s

/-- MARK_RESOLVE: an engine fault of resolution is the MARK's (R180, R323). -/
def execMarkResolve (t : TileNo) (c : SlotNo) (ch : ChainNo) (s : State) : Host.Outcome State Fault Refusal :=
  agent (do
    let (x, e) ← actingBlock t c ch
    match e.cur.body with
    | .resolve f v => actRetire t c x ch e (engineResolve t x e.cap f v .iteration)
    | _ => exit .idle) s

/-- MARK_RENDEZVOUS: the MARK holds its chain. -/
def execMarkRendezvous (t : TileNo) (c : SlotNo) (ch : ChainNo) (s : State) : Host.Outcome State Fault Refusal :=
  agent (do
    let (_, e) ← actingBlock t c ch
    enabled (e.cur.body == .rendezvous && !e.run.ended)
    modRun t c ch e.seq fun r => { r with ended := true }) s

end Sys2Proof.Machine
end

