-- ==== Sys2Proof/Machine/Shaping.lean ====
section
/-!
DEFINITION. The shaping instructions: the axis declaration and the scale registers (R292), and the residue banks with their records
(R288, R289, R291, R293 to R296). The shaping stores themselves are in Copy.lean.
-/
namespace Sys2Proof.Machine

/-! ## Declaration and scales (R292) -/

/-- The axis word is accepted. -/
def axisOk (w : Nat) : Bool := w / 512 == 0 && decide (w % 16 ≤ 13) && (bits w 8 1 == 1 || w % 256 == 0)

/-- The declaration of an axis word. -/
def axisOf (n : Fin 4) (w : Nat) : AxisDecl :=
  { en := bits w 8 1 == 1, dim := w % 16, bsq := bits w 4 1 == 1, qsel := ⟨bits w 5 3, Nat.mod_lt _ (by decide)⟩, bank := n }

/-- AXIS (R292). -/
def execAxis (h : Hd) (n : Fin 4) (a : Src) (s : State) : Host.Outcome State Fault Refusal :=
  dealer h (do
    let v ← readA a
    check (axisOk v.toNat) .reservedField v
    modMe fun x => { x with axis := axisOf n v.toNat }
    return {}) s (ends := true)

/-- QSW (R292). -/
def execQsw (h : Hd) (n : Fin 8) (a : Src) (s : State) : Host.Outcome State Fault Refusal :=
  dealer h (do
    let v ← readA a
    check (v.toNat / 65536 == 0) .reservedField v
    modMe fun x => { x with qs := x.qs.set n (v.truncate 16) }
    return {}) s (ends := true)

/-- QSR (R292). -/
def execQsr (h : Hd) (d : Dst) (n : Fin 8) (s : State) : Host.Outcome State Fault Refusal :=
  dealer h (do op0 d (((← myCtx).qs.get n).zeroExtend 64)) s (ends := true)

/-! ## Records (R288) -/

/-- The doublewords of a bank's record. -/
def bankRecord (k : ResBank) : List Nat :=
  let e (i : Nat) : Nat := (k.e.toList[i]?.getD 0).toNat
  let sp (i : Nat) : Nat := (k.sp.toList[i]?.getD 0).toNat
  [k.valid.toNat + 2 * k.dim + 32 * k.tid + 4096 * k.format + 65536 * k.bscale + 4294967296 * (k.band % 4294967296), k.next % 4294967296] ++
  List.replicate 6 0 ++ (List.range 32).map (fun i => e (2 * i) + 4294967296 * e (2 * i + 1)) ++
  (List.range 8).map fun i => (List.range 8).foldr (fun j acc => sp (8 * i + j) + 256 * acc) 0

/-- The record is well formed. -/
def bankRecOk (ds : List Nat) : Bool :=
  let d (k : Nat) : Nat := ds[k]?.getD 0
  let f := bits (d 0) 12 4
  d 1 / 4294967296 == 0 && ((List.range' 2 6).all fun k => d k == 0) &&
  (if bits (d 0) 0 1 = 0 then (List.range 48).all fun k => d k == 0
   else (f == 2 || f == 3 || f == 4 || f == 8) && decide (bits (d 0) 1 4 ≤ 13) && (f != 8 || bits (d 0) 1 4 == 0) &&
     (f == 8 || (bits (d 0) 16 16 == 0 && (List.range' 40 8).all fun k => d k == 0)))

/-- The bank that a record holds. -/
def bankOf (ds : List Nat) : ResBank :=
  let d (k : Nat) : Nat := ds[k]?.getD 0
  { valid := bits (d 0) 0 1 == 1, dim := bits (d 0) 1 4, tid := bits (d 0) 5 7, format := bits (d 0) 12 4, bscale := bits (d 0) 16 16
    band := bits (d 0) 32 32, next := bits (d 1) 0 32
    e := Vector.ofFn fun k => BitVec.ofNat 32 (bits (d (8 + k / 2)) (32 * (k % 2)) 32)
    sp := Vector.ofFn fun k => BitVec.ofNat 8 (bits (d (40 + k / 8)) (8 * (k % 8)) 8) }

/-! ## Idleness (R291) -/

/-- The block captured the bank. -/
def Entry.banks (e : Entry) (n : Fin 4) : Bool :=
  match e.cur.body with
  | .store c => c.shape && e.cap.axis.bank == n
  | .nop | .endB | .load _ | .matrix _ | .vector _ | .patch _ | .rendezvous | .resolve _ _ => false

/-- The block stands at the head of a chain that is FAULTED with its fault reported. -/
def Chain.stuckAt (k : Chain) (e : Entry) : Bool :=
  k.state == .faulted && (match k.fault with
    | some f => f.reported && f.seq == e.seq
    | none => false)

/-- The bank is idle. -/
def Ctx.bankIdle (x : Ctx) (n : Fin 4) : Bool :=
  x.chains.toList.all fun k => k.queue.all fun e => !e.banks n || k.stuckAt e

/-! ## RESI, RESX, RESR, RESCLR -/

/-- Steps 1 to 4 of R106 for the store of a doubleword. -/
def storeChecks (t : TileNo) (x : Ctx) (a : Word) : M Place := do
  accessChecks a 8
  let p ← resolve t x a 8 true
  match p with
  | .window w o => do
    match ← see fun s => windowCause s t x.job (winNo w) o 8 .write with
    | some c => trap c a
    | none => pure ()
  | _ => raceStep t x a p true false
  return p

/-- Store doublewords in ascending order once every check has passed (R294). -/
def storeDws (t : TileNo) (c : SlotNo) (x : Ctx) (a : Word) (ds : List Nat) : M Unit := do
  let at' (j : Nat) : Word := a + BitVec.ofNat 64 (8 * j)
  let ps ← (List.range ds.length).mapM fun j => storeChecks t x (at' j)
  (ps.zip ds).zipIdx.forM fun p =>
    match p.1.1 with
    | .window w o => do
      let rel ← see fun s => s.bellScope (s.outw (winNo w))
      let _ ← windowAccess t c x (at' p.2) w o 8 (.write (natLe 8 p.1.2)) .write p.2 rel
      pure ()
    | q => do
      eccWrite x (at' p.2) q 8
      placeWrite t x q (natLe 8 p.1.2)

/-- What RESR reads (R292). -/
def ResBank.select (k : ResBank) (sel : Nat) : Nat :=
  match sel with
  | 0 => (bankRecord k).headD 0
  | 1 => k.next % 4294967296
  | _ =>
    let i := sel - 64
    (k.e.toList[i]?.getD 0).toNat + 4294967296 * (k.sp.toList[i]?.getD 0).toNat

/-- Replace an idle bank. A block that stands FAULTED on it no longer spoils it by its abandonment (R286, log 137). -/
def Ctx.setBank (x : Ctx) (n : Fin 4) (k : ResBank) : Ctx :=
  { x with
    banks := x.banks.set n k
    chains := x.chains.map fun ch => { ch with
      queue := ch.queue.map fun e => if e.banks n then { e with run := { e.run with spoils := false } } else e } }

/-- What RESI, RESX, RESR and RESCLR, numbered 0 to 3, do once their bank is idle; `a` is the address or the selector. -/
def bankAct (t : TileNo) (c : SlotNo) (op : Fin 4) (n : Fin 4) (a : Word) : M Eff := do
  let x ← getCtx t c
  let set (k : ResBank) : M Unit := modCtx t c (·.setBank n k)
  match op with
  | 0 => do
    let ds := (← loadDws t c x a 48).map (·.toNat)
    check (bankRecOk ds) .reservedField a
    set (bankOf ds)
    return {}
  | 1 => do
    storeDws t c x a (bankRecord (x.banks.get n))
    return {}
  | 2 => return { val := some (BitVec.ofNat 64 ((x.banks.get n).select a.toNat)) }
  | 3 => do
    set {}
    return {}

/-- Act on an idle bank, or wait for it (R291). -/
def bankOr (op : Fin 4) (n : Fin 4) (a : Word) : M Eff := do
  let (t, c) ← me
  if (← getCtx t c).bankIdle n then bankAct t c op n a else waitFor (.bank op n a)

/-- RESI (R293). -/
def execResi (h : Hd) (n : Fin 4) (a : Src) (s : State) : Host.Outcome State Fault Refusal :=
  dealer h (do
    let v ← readA a
    check (v.toNat % 64 == 0) .misalignedData v
    bankOr 0 n v) s (ends := true)

/-- RESX (R294). -/
def execResx (h : Hd) (n : Fin 4) (a : Src) (s : State) : Host.Outcome State Fault Refusal :=
  dealer h (do
    let v ← readA a
    check (v.toNat % 64 == 0) .misalignedData v
    bankOr 1 n v) s (ends := true)

/-- The selectors of RESR (R295). -/
def resrSel (k : Nat) : Bool := decide (k < 2) || (decide (64 ≤ k) && decide (k < 128))

/-- RESR (R295). -/
def execResr (h : Hd) (d : Dst) (n : Fin 4) (c : Src) (s : State) : Host.Outcome State Fault Refusal :=
  dealer h (do
    let k ← readC c (BitVec.ofNat 64 n)
    check (resrSel k.toNat) .reservedField (BitVec.ofNat 64 n)
    let e ← bankOr 2 n k
    op0 d (e.val.getD 0)) s (ends := true) (dst := some d)

/-- RESCLR (R296). -/
def execResclr (h : Hd) (n : Fin 4) (s : State) : Host.Outcome State Fault Refusal :=
  dealer h (bankOr 3 n 0) s (ends := true)

/-- BANK_IDLE_ACTION: the bank is idle; the waiting instruction acts in one step (R291). -/
def execBankIdleAction (t : TileNo) (c : SlotNo) (s : State) : Host.Outcome State Fault Refusal :=
  match s.ctx? t c with
  | none => .next s
  | some x =>
    match x.wait with
    | none => .next s
    | some w =>
      match w.kind with
      | .bank op n a => if x.bankIdle n then waitAct t c x w (bankAct t c op n a) s else .next s
      | _ => .next s

end Sys2Proof.Machine
end

