-- ==== Sys2Proof/Machine/Streaming.lean ====
section
/-!
DEFINITION. Streaming contexts: what moves with a context (R142, R369, R371), the save area (R371, R372), CTXSAVE, CTXRESTORE (R384,
R385) and PREEMPTION (R368).
-/
namespace Sys2Proof.Machine

/-! ## What goes with a context -/

/-- The key of the first byte of a tile's stores. -/
def tileBase (t : Nat) : Nat := spAt t 0

/-- The held hand slots, in ascending number. -/
def slotsOf (x : Ctx) : List (Fin 384) := (List.finRange 384).filter fun k => x.heldSlots.getLsbD k
/-- The held accumulator tiles, in ascending number. -/
def accsOf (x : Ctx) : List (Fin 192) := (List.finRange 192).filter fun k => x.heldTiles.getLsbD k

/-- The places in a tile, with their lengths, of what is streamed with a context, in the order of R371: held slots, their companions,
held accumulator tiles, and the scratchpad where it is included. -/
def unitRanges (x : Ctx) (spinc : Bool) : List (Nat × Nat) :=
  ((slotsOf x).map fun k => (handAt 0 k 0 - tileBase 0, 8192)) ++
  (((slotsOf x).filter fun k => decide (k.val < 192)).map fun k => (compAt 0 k 0 - tileBase 0, 2048)) ++
  ((accsOf x).map fun k => (accAt 0 k 0 - tileBase 0, 16384)) ++
  (if spinc then [(0, padBytes x.partw)] else [])

/-- The listed cells of ranges of a tile, by their places in the tile. -/
def takeCells (t : TileNo) (rs : List (Nat × Nat)) (s : State) : List Host.Cell :=
  (s.mem.filter fun k => rs.any fun r => decide (tileBase t + r.1 ≤ k.1) && decide (k.1 < tileBase t + r.1 + r.2)).map fun k =>
    (k.1 - tileBase t, k.2)

/-- The uncorrectable code words of ranges of a tile, by their places in the tile (R381). -/
def takeBad (t : TileNo) (rs : List (Nat × Nat)) (s : State) : List Nat :=
  s.poison.filterMap fun p =>
    if rs.any fun r => decide (tileBase t + r.1 ≤ p) && decide (p < tileBase t + r.1 + r.2) then some (p - tileBase t) else none

/-- Put cells into ranges of a tile; what they do not list is zero. -/
def putCells (t : TileNo) (rs : List (Nat × Nat)) (cs : List Host.Cell) (s : State) : State :=
  let s := rs.foldl (fun s r => zeroBytes s (tileBase t + r.1) r.2) s
  { s with mem := cs.foldl (fun m k => cellSet m (tileBase t + k.1) k.2) s.mem }

/-- Another context of the job stays resident on the tile. -/
def jobStays (s : State) (t : TileNo) (c : SlotNo) (job : Nat) : Bool := (s.ctx? t (1 - c)).any fun y => y.job == job

/-- What a wait becomes when its context is streamed out: an instruction that restarts begins again when it resumes (R368); SEMW keeps
its place (R234), and so do a GBAR's arrival, a sleeping WFE and a window access under way. A suspension is no wait (R379): `since` becomes what the
wait has lasted, which for a GBAR begins again. -/
def restWait (now : Nat) (w : Option Wait) : Option Wait :=
  (w.map fun w => { w with since := if w.kind.isGbar then 0 else now - w.since }).filter fun w => match w.kind with
    | .semw _ _ _ | .gbar _ _ | .wfe | .window _ => true
    | .again | .port _ _ | .rdv _ | .drain | .endDrain | .semIdle _ _ _ _ | .release _ | .bank _ _ _ | .covset _ _ | .enq _ _
    | .cancel _ | .qunbind _ | .tinv _ => false

/-- The endpoints of a tile that a context has bound to the tile itself: they go with it, unless another binding holds it to the tile (R411,
log 118). -/
def ownEps (s : State) (t : TileNo) (job : Nat) (num : BitVec 16) : List (Fin 8 × Endpoint) :=
  if s.holdsBindings t job num then []
  else (List.finRange 8).filterMap fun e => if (s.ep t e).boundBy job num then some (e, s.ep t e) else none

/-- A context as it is streamed out of a slot, with what goes with it of the tile. -/
def savedOf (t : TileNo) (c : SlotNo) (x : Ctx) (kind : SaveKind) (area : Word) (s : State) : Saved :=
  let spinc := !jobStays s t c x.job
  { job := x.job, num := x.num, kind, area, tile := t, spinc
    ctx := { x with marked := false, stopping := false, wait := restWait s.now x.wait }
    slotTags := (slotsOf x).map fun k => (k, (s.tile t).slotTags.get k)
    accTags := (accsOf x).map fun k => (k, (s.tile t).accTags.get k)
    cells := takeCells t (unitRanges x spinc) s
    bad := takeBad t (unitRanges x spinc) s
    eps := ownEps s t x.job x.num }

/-- The endpoints that go with a context leave its tile (R411). What other devices have reported to an endpoint stays there: a save is no unbinding
(R409). -/
def takeEps (t : TileNo) (es : List (Fin 8 × Endpoint)) (s : State) : State :=
  es.foldl (fun s e => s.modEp t e.1 fun p => { p with bind := none, entries := [], flight := [], back := 0 }) s

/-- The endpoints of a context come to a tile, whose number the bindings take; an endpoint that a context there has bound stays with that one
(R411, log 118). -/
def putEps (t : TileNo) (es : List (Fin 8 × Endpoint)) (s : State) : State :=
  es.foldl (fun s e => s.modEp t e.1 fun p =>
    if p.bind.isSome then p else { e.2 with bind := e.2.bind.map fun b => { b with tile := t.val }, far := p.far }) s

/-- A tile takes a job up: where it held another's, or none's, every byte of its stores is zero but for the launch's images (R130). On a tile
that holds the job already nothing is written (log 126). A context saved without its scratchpad finds the same where no context of its job stands on
the tile (DESIGN CHOICE, log 150). -/
def adoptPad (t : TileNo) (job : Nat) (s : State) : State :=
  if (s.tile t).padJob = some job then s
  else
    let s := zeroBytes s (tileBase t) 67108864
    let s := s.setTile t { s.tile t with
      padJob := some job, slotTags := Vector.replicate 384 {}, accTags := Vector.replicate 192 {} }
    match s.job? job with
    | none => s
    | some j => j.spData.foldl (fun s d => writeBytes s (spAt t d.1) d.2) s

/-- The tile may take the job up: it holds it already, or holds no context but the one in slot c and no record of another (R141,
R366). -/
def padFits (s : State) (t : TileNo) (c : SlotNo) (job : Nat) : Bool :=
  (s.tile t).padJob == some job ||
  ((s.ctx? t (1 - c)).isNone && (List.finRange 4).all fun n => deckCap (s.tile t) n == 0 || deckLen (s.tile t) n == 0)

/-- The fault of a restore into slot c beside the other resident context (R142). -/
def fitFault (s : State) (t : TileNo) (c : SlotNo) (e : Saved) : Option Cause :=
  match s.ctx? t (1 - c) with
  | none => none
  | some y =>
    if y.job ≠ e.job ∨ y.partw ≠ e.ctx.partw ∨ e.spinc = true then some .partitionMismatch
    else if (y.heldSlots &&& e.ctx.heldSlots) ≠ 0 ∨ (y.heldTiles &&& e.ctx.heldTiles) ≠ 0 then some .slotExhausted
    else none

/-- The queue of a job is descheduled (R426). -/
def State.jobOff (s : State) (job : Nat) : Bool := (s.job? job).any fun j => (s.queues.get j.queue).desch

/-- The cells that bytes hold, from a place in a tile. -/
def cellsOf (off : Nat) (bs : List Byte) : List Host.Cell :=
  (bs.zipIdx.filter fun b => b.1 != 0).map fun b => (off + b.2, b.1)

/-- The contents of ranges from the bytes after an area's first 128 KiB. -/
def unitCells (rs : List (Nat × Nat)) (bs : List Byte) : List Host.Cell :=
  match rs with
  | [] => []
  | r :: rest => cellsOf r.1 (bs.take r.2) ++ unitCells rest (bs.drop r.2)

/-- Where the residue banks lie in an area (R371, log 14). -/
def bankAt : Nat := 0xA000 + 64 * (Config.bankOffset % 40)

/-- The tensor table of an area (R150, R371). -/
def areaTit (bs : List Byte) : Vector (Vector Word 32) 128 :=
  Vector.ofFn fun i => Vector.ofFn fun k => BitVec.ofNat 64 (leNat ((bs.drop (0x1000 + 256 * i.val + 8 * k.val)).take 8))

/-- The residue banks of an area (R288, R371). -/
def areaBanks (bs : List Byte) : Vector ResBank 4 :=
  Vector.ofFn fun i => bankOf ((List.range 48).map fun k => leNat ((bs.drop (bankAt + 384 * i.val + 8 * k)).take 8))

/-- TOTAL of a context's area. -/
def areaTotal (x : Ctx) (spinc : Bool) : Nat := 0x20000 + (unitRanges x spinc).foldl (fun n r => n + r.2) 0

/-- A context as the bytes of its area give it: what they hold in forms of the spec comes from them (R371). -/
def Saved.fromBytes (e : Saved) (bs : List Byte) : Saved :=
  { e with
    ctx := { e.ctx with tit := areaTit bs, banks := areaBanks bs }
    cells := unitCells (unitRanges e.ctx e.spinc) (bs.drop 0x20000) }

/-- A context that stands in a leaf's area is read from there, and the area is none any more: FORMAT := 0 (R370, R372). -/
def readPool (e : Saved) (s : State) : Saved × State :=
  match e.pool with
  | none => (e, s)
  | some a =>
    let n := areaTotal e.ctx e.spinc
    (e.fromBytes (readBytes s a n), writeNat (noteBad e.tile e.job a n s) a 4 0)

/-- STREAM_IN: a saved context enters a slot with its units, their tags, its scratchpad where it was included, and its own queues. Its next
instruction follows all that it did on the tile it left (R346): its release there is acquired, and a data cache that it does not come back to
holds nothing older (R349, R350). -/
def streamIn (t : TileNo) (c : SlotNo) (e : Saved) (s : State) : State :=
  let (e, s) := readPool e s
  let s := adoptPad t e.job s
  let s := putCells t (unitRanges e.ctx e.spinc) e.cells s
  let s := { s with poison := e.bad.map (tileBase t + ·) ++ s.poison }
  let s := putEps t e.eps (mergeAt t e.stamp.toList s)
  let x := s.tile t
  let s := s.setTile t { x with
    dcache := if e.tile = t then x.dcache else []
    slotTags := e.slotTags.foldl (fun v g => v.set g.1 g.2) x.slotTags
    accTags := e.accTags.foldl (fun v g => v.set g.1 g.2) x.accTags }
  { s with saved := s.saved.filter fun k => !(k.job == e.job && k.num == e.num) }.setSlot t c
    (some { e.ctx with
      gained := s.now, lost := s.now, desched := s.jobOff e.job
      wait := e.ctx.wait.map fun (w : Wait) => { w with since := s.now - w.since } })

/-! ## The save area (R371, R372) -/

/-- The seven doublewords of the header other than CHECK, in order, with 0 in its place. -/
def areaHeader (e : Saved) (qb : Bool) : List Nat :=
  [0x74001 + 4294967296 * e.num.toNat + 281474976710656 * e.spinc.toNat + 562949953421312 * qb.toNat,
   e.job % 4294967296 + 4294967296 * e.tile.val,
   e.ctx.partw.toNat + 4294967296 * (slotsOf e.ctx).length + 2199023255552 * (accsOf e.ctx).length,
   areaTotal e.ctx e.spinc, 0, 0, 0, 0]

/-- n bytes of the device's own form of a saved context, which the spec does not give (log 14). -/
def ownForm (e : Saved) (off n : Nat) : List Byte := (List.range n).map fun i => Config.formByte e (off + i)

/-- The bytes of a context's area, the check word in place; unreadable bytes as zeros (R381). -/
def areaBytes (e : Saved) (qb : Bool) (s : State) : List Byte :=
  let head := (areaHeader e qb).flatMap (natLe 8)
  let tit := e.ctx.tit.toList.flatMap fun r => r.toList.flatMap fun w => natLe 8 w.toNat
  let banks := e.ctx.banks.toList.flatMap fun k => (bankRecord k).flatMap (natLe 8)
  let units := (unitRanges e.ctx e.spinc).flatMap fun r => readBytes s (tileBase e.tile + r.1) r.2
  let all := head ++ ownForm e 0x40 0xFC0 ++ tit ++ ownForm e 0x9000 (bankAt - 0x9000) ++ banks ++
    ownForm e (bankAt + 1536) (0x20000 - bankAt - 1536) ++ units
  all.take 32 ++ natLe 8 (checkWord 0 all) ++ all.drop 40

/-- The pages of 64 KiB that n bytes from an aligned address touch. -/
def areaPages (a : Word) (n : Nat) : List Word := (List.range ((n + 65535) / 65536)).map fun k => a + BitVec.ofNat 64 (65536 * k)

/-- The address checks of R384 over n bytes. -/
def areaChecks (t : TileNo) (x : Ctx) (a : Word) (n : Nat) : M Unit := do
  check (spaceOf a == 0) .addressSpace a
  check (a.toNat % 65536 == 0) .misalignedData a
  (areaPages a n).forM fun p => do
    match ← xlate t x.strict x.job (offOf p) with
    | .error (c, k) => walkTrap t x c p p k
    | .ok _ => pure ()
  (areaPages a n).forM fun p => do
    let _ ← devPlace t x p true
    pure ()

/-- The requests of an access to n bytes of a job's memory, of 512 bytes each (R418, log 25). -/
def areaReqs (s : State) (t : TileNo) (job a n : Nat) (write : Bool) : List (Nat × Nat) :=
  (List.range ((n + 511) / 512)).filterMap fun k =>
    (hwXlate s job (a + 512 * k) write).bind fun pa =>
      let u := unitsAt t pa (min 512 (n - 512 * k))
      if u = (0, 0) then none else some u

/-- Meter an access to n bytes of a job's memory (R418). -/
def meterArea (t : TileNo) (job a n : Nat) (write : Bool) : M Unit := upd fun s => { s with reqs := s.reqs ++ areaReqs s t job a n write }

/-- Write bytes from an aligned address, page by page. -/
def writeArea (job : Nat) (a : Nat) (bs : List Byte) (fuel : Nat) (s : State) : State :=
  match fuel with
  | 0 => s
  | k + 1 =>
    if bs.isEmpty then s
    else
      let s := match hwXlate s job a true with
        | some pa => writeBytes s pa (bs.take 65536)
        | none => s
      writeArea job (a + 65536) (bs.drop 65536) k s

/-- The leaf's areas of a job that hold a context, with their sizes. -/
def State.poolAreas (s : State) (job : Nat) : List (Nat × Nat) :=
  s.saved.filterMap fun k => if k.job = job then k.pool.map fun a => (a, areaTotal k.ctx k.spinc) else none

/-- Where the leaf writes a context's area in its job's context pool: where the step says, if it fits there, else in the first place that no other
area takes; none in a pool that has no room (R370, R439, log 108). -/
def poolArea (s : State) (e : Saved) : Option Nat := do
  let j ← s.job? e.job
  let n := areaTotal e.ctx e.spinc
  let up (a : Nat) : Nat := (a + 65535) / 65536 * 65536
  let old := s.poolAreas e.job
  let fits (a : Nat) : Bool := decide (a % 65536 = 0) && decide (j.pool.1 ≤ a) && decide (a + n ≤ j.pool.1 + j.pool.2) &&
    old.all fun k => decide (a + n ≤ k.1) || decide (k.1 + k.2 ≤ a)
  (s.input.addr :: up j.pool.1 :: old.map fun k => up (k.1 + k.2)).find? fits

/-- QB: bindings to other tiles, arrival bindings, or a window that only this tile may use (R372, R411). -/
def State.qb (s : State) (t : TileNo) (x : Ctx) : Bool :=
  s.holdsBindings t x.job x.num || s.outWin.any fun w => w.2.v && w.2.tb && w.2.tile == t.val && w.2.job == x.job

/-- STREAM_OUT: the context leaves its slot, with a release that its next instruction follows, and the leaf writes its area in the job's context
pool (R346, R368, R370, R371, log 108). -/
def streamOut (t : TileNo) (c : SlotNo) (kind : SaveKind) (s : State) : State :=
  match s.ctx? t c with
  | none => s
  | some x =>
    let (s, p) := releaseAt t .dev s
    let e := { savedOf t c x kind 0 s with stamp := p }
    let s := takeEps t e.eps s
    match poolArea s e with
    | none => { s with saved := e :: s.saved }.emptySlot t c
    | some a =>
      let s := writeBytes s a (areaBytes e (s.qb t x) s)
      { s with saved := { e with pool := some a, form := some s.forms.length } :: s.saved, forms := s.forms ++ [e] }.emptySlot t c

/-! ## Stopping the engines (R368 step 2) -/

/-- The head block has nothing to do that it must complete first: a retiring block its writes and posts, a PATCH, an END or a MARK its action
(R368). One that is owed a unit which a ceiling holds waits for it anywhere. -/
def headQuiet (s : State) (x : Ctx) (ch : ChainNo) (e : Entry) : Bool :=
  if e.walked || e.run.started && e.cap.pred && e.cur.body == .nop then e.run.owed != 0 && decide (e.run.unit < 2) && !s.outstanding x ch e.seq
  else !e.run.started || e.cur.body.engine || (e.isRdv && e.run.ended) || e.run.stalled

/-- The engines have stopped for a chain. -/
def chainQuiet (s : State) (x : Ctx) (ch : ChainNo) : Bool :=
  let k := x.chain ch
  let head := k.queue.head?.all fun e => headQuiet s x ch e
  match k.state with
  | .stopped => true
  | .running => (finishing k.queue).isNone && ((runningOf k.queue).all Entry.atBoundary) && head
  | .faulted => (k.fault.any fun f => k.queue.head?.any fun e => e.seq == f.seq) || !k.queue.head?.any (fun e => e.walked || e.issued) || head

/-- The engines have stopped for a context. -/
def enginesQuiet (s : State) (x : Ctx) : Bool := ([0, 1, 2, 3] : List ChainNo).all (chainQuiet s x)

/-! ## CTXSAVE and CTXRESTORE -/

/-- The bytes of a context's units and scratchpad that cannot be read (R381). -/
def badUnits (s : State) (e : Saved) : Nat := (unitRanges e.ctx e.spinc).foldl (fun n r => n + badBytes s (tileBase e.tile + r.1) r.2) 0

/-- The record that a save or a restore is to write, with its doublewords from 2 on in n bytes: an atomic access that may race, and the requests of
its reads and writes (R311, R418). None where it cannot be reached. -/
def touchRecord (t : TileNo) (c : SlotNo) (x : Ctx) (va : Word) (n : Nat) : M (Option Nat) := do
  match ← see fun s => hwXlate s x.job va.toNat true with
  | none => return none
  | some pa => do
    ownTag t x va true
    eccTouch t c x va (pa + 16) n
    meterDws t (pa + 16) n
    return some pa

/-- CTXSAVE (R384): the engines stop, for which it waits; then the area is written, the record is SUSPENDED with its JOIN unchanged, and the
slot is free. -/
def execCtxsave (h : Hd) (a : Src) (s : State) : Host.Outcome State Fault Refusal :=
  dealer h (owningArea do
    let v ← readA a
    let (t, c) ← me
    let x ← getCtx t c
    let n := areaTotal x (← see fun s => !jobStays s t c x.job)
    areaChecks t x v n
    if !(← see fun s => enginesQuiet s x) then do
      modCtx t c fun y => { y with stopping := true }
      waitFor .again
    else do
      upd fun s => s.charge t c 8 1
      let rec' ← touchRecord t c x x.record 16
      let x ← getCtx t c
      let (y, pc, _) := endTest x x.pc 1
      let y := { y with pc := pc, latches := [], answers := [], wait := none, stepDue := x.stepDue || x.stepping && !x.active }
      let p ← release t .dev
      let e ← see (savedOf t c y .program v)
      let bad ← see fun s => badUnits s e
      if bad != 0 then do
        check (!x.strict) .eccStrict v
        recordCause t x .eccStrict v (BitVec.ofNat 64 bad)
      let drops : BitVec 32 := BitVec.ofNat 32 (min (x.dropcnt.toNat + bad) 0xFFFFFFFF)
      let e := { e with stamp := p, bad := [], ctx := { e.ctx with dropcnt := drops } }
      let qb ← see fun s => s.qb t x
      let bs ← see (areaBytes e qb)
      meterArea t x.job v.toNat n true
      upd (writeArea x.job v.toNat bs (bs.length / 65536 + 1))
      upd (takeEps t e.eps)
      upd fun s => { s with saved := { e with form := some s.forms.length } :: s.saved, forms := s.forms ++ [e] }
      match rec' with
      | some pa => upd fun s => writeGroupField x pa (setRecDw pa 2 (withResume (recDw s pa 2) 4 x.num.toNat) s)
      | none => pure ()
      upd fun s => s.emptySlot t c
      return { ctl := .leave }) s (ends := true)

/-- A context of the job with a number is resident on some tile. -/
def State.residentNum (s : State) (job num : Nat) : Bool :=
  s.tiles.toList.any fun t => t.slots.toList.any fun o => o.any fun x => x.job == job && x.num.toNat == num

/-- The saved context whose own form, job and number the bytes of an area hold, with its place in the list: this module wrote them, here or in what
they are a copy of. The newest that fits. -/
def imageOf (fs : List Saved) (bs : List Byte) : Option (Saved × Nat) :=
  let same (e : Saved) (off n : Nat) : Bool := (bs.drop off).take n == ownForm e off n
  fs.zipIdx.reverse.find? fun e => e.1.job % 4294967296 == bits (areaDw bs 1) 0 32 && e.1.num.toNat == bits (areaDw bs 0) 32 16 && same e.1 0x40 0xFC0 && same e.1 0x9000 (bankAt - 0x9000) && same e.1 (bankAt + 1536) (0x20000 - bankAt - 1536)

/-- n of the m numbers from `lo` on, which ones the form of another device leaves open: those that its context names, then the lowest. -/
def pickUnits (named : Nat → Bool) (lo m n : Nat) : List Nat :=
  let l := List.range' lo m
  (l.filter named ++ l.filter fun i => !named i).take n

/-- The held hand slots of another device's area: NSLOT of the partition's, of which as many lie below 192 as TOTAL has companions (R371, R372). -/
def pickSlots (named : Nat → Bool) (bs : List Byte) : List Nat :=
  let partw : BitVec 32 := BitVec.ofNat 32 (bits (areaDw bs 2) 0 32)
  let n := bits (areaDw bs 2) 32 9
  let m := min 384 (handUnits partw)
  let pad := if bits (areaDw bs 0) 48 1 = 1 then padBytes partw else 0
  let k := (areaDw bs 3 - 0x20000 - 8192 * n - 16384 * bits (areaDw bs 2) 41 8 - pad) / 2048
  let low := max (min k n) (n - (m - 192))
  pickUnits named 0 (min 192 m) low ++ pickUnits named 192 (m - 192) (n - low)

/-- A semaphore with its fields in their ranges (R215). -/
def Sem.sane (m : Sem) : Sem :=
  { m with
    count := m.count % 4096, ceil := m.ceil % 4096, loss := m.loss % 4096, expect := m.expect % 4294967296, cur := m.cur % 4294967296
    n := m.n % 4294967296, pb := m.pb % 4294967296, ext := m.ext % 4294967296, curl := m.curl % 4294967296, lostb := m.lostb % 4294967296 }

/-- LOOPST in another device's area: its place among the doublewords from 0x40 to 0xFFF is that form's (R102, R371, log 14). -/
def areaLoopst (bs : List Byte) : Nat := areaDw bs (8 + Config.loopstPlace % 504)

/-- A context that another device saved: the header, the tensor table, the residue banks, the units and the scratchpad are the area's; everything else,
its blocks and chains, controllers, axis and group among it, is what the other device's form says, which the spec does not give: it is free, within the
ranges of its fields (R371, log 14). Held units lie within the partition (R138). -/
def foreignCtx (bs : List Byte) : Saved :=
  let e := (Config.formContext bs).getD { job := 0, num := 0, kind := .program, area := 0, tile := 0, ctx := Ctx.blank }
  let x := e.ctx
  let partw : BitVec 32 := BitVec.ofNat 32 (bits (areaDw bs 2) 0 32)
  let slots := pickSlots x.heldSlots.getLsbD bs
  let tiles := pickUnits x.heldTiles.getLsbD 0 (min 192 (accUnits partw)) (bits (areaDw bs 2) 41 8)
  let mask (n : Nat) (l : List Nat) : BitVec n := l.foldl (fun m i => m ||| (1#n <<< i)) 0
  { e with
    slotTags := (List.finRange 384).filterMap fun i =>
      if slots.contains i.val then some (i, ((e.slotTags.find? (·.1 == i)).map (·.2)).getD {}) else none
    accTags := (List.finRange 192).filterMap fun i =>
      if tiles.contains i.val then some (i, ((e.accTags.find? (·.1 == i)).map (·.2)).getD {}) else none
    stamp := none, bad := [], eps := []
    ctx := { x with
      record := x.record &&& ~~~63#64, pc := wordAlign x.pc, preds := x.preds ||| 1, fpctl := x.fpctl &&& 15, nbv := x.nbv &&& 1
      errmode := x.errmode &&& 1, epc := wordAlign x.epc, ecause := x.ecause &&& 63, tvec := wordAlign x.tvec
      chainbase := x.chainbase &&& 0xFFFFC0, chainlim := x.chainlim &&& 0xFFFFC0, dbgctl := x.dbgctl &&& 0xFFF7
      loops := Vector.ofFn fun L =>
        let l := x.loops.get L
        { l with ls := wordAlign l.ls, le := wordAlign l.le, act := (areaLoopst bs).testBit L }
      heldSlots := mask 384 slots, heldTiles := mask 192 tiles, sems := x.sems.map Sem.sane, covs := x.covs.map Cov.sane
      chains := x.chains.map fun h => { h with queue := h.queue.take 64 }
      latches := [], answers := [], wait := none, stepDue := false, marked := false, stopping := false } }

/-- The context that an area holds: one that this module saved, with what has reached it since, or another device's; the tensors, the banks, the units
and the scratchpad as the area's bytes stand (R371, R385, log 14). -/
def areaCtx (s : State) (bs : List Byte) : Saved :=
  let e := match imageOf s.forms bs with
    | some (e, i) => (s.saved.find? fun (k : Saved) => k.form == some i).getD e
    | none => foreignCtx bs
  let job := bits (areaDw bs 1) 0 32
  let num : BitVec 16 := BitVec.ofNat 16 (bits (areaDw bs 0) 32 16)
  let e := { e with
    job, num, spinc := bits (areaDw bs 0) 48 1 == 1, kind := .program, pool := none, form := none
    ctx := { e.ctx with job, num, partw := BitVec.ofNat 32 (bits (areaDw bs 2) 0 32), run := .run } }
  e.fromBytes bs

/-- CTXRESTORE (R385): the checks in their order, then the context enters the free slot, FORMAT goes to 0 and the record runs. -/
def execCtxrestore (h : Hd) (a : Src) (s : State) : Host.Outcome State Fault Refusal :=
  dealer h (owningArea do
    let v ← readA a
    let (t, c) ← me
    let x ← getCtx t c
    areaChecks t x v 64
    let total ← see fun s => areaDw (readArea s x.job v.toNat 64).1 3
    areaChecks t x v total
    meterArea t x.job v.toNat total false
    let (bs, bad) ← see fun s => readArea s x.job v.toNat total
    if bad != 0 then do
      check (!x.strict) .eccStrict v
      modCtx t c fun y => { y with dropcnt := BitVec.ofNat 32 (min (y.dropcnt.toNat + bad) 0xFFFFFFFF) }
      recordCause t x .eccStrict v (BitVec.ofNat 64 bad)
    let e ← see fun s => areaCtx s bs
    let l := e.ctx.loops
    check (areaValid bs &&
      (← see fun s => s.ctx? t (1 - c)).isNone && !(← see fun s => s.residentNum e.job e.num.toNat) &&
      (!(l.get 1).act || (l.get 0).act)) .contextLimit v
    check (e.job == x.job) .priv v
    check (bits (areaDw bs 0) 49 1 == 0 || bits (areaDw bs 1) 32 9 == t.val) .queueRebind v
    match ← see fun s => fitFault s t (1 - c) e with
    | some k => trap k v
    | none => do
      let rec' ← touchRecord t c x e.ctx.record 8
      upd (streamIn t (1 - c) e)
      upd fun s => s.modJob e.job fun j => { j with live := e.num :: j.live.filter (· != e.num) }
      meterArea t x.job v.toNat 4 true
      upd (writeArea x.job v.toNat (natLe 4 0) 1)
      match rec' with
      | some pa => upd fun s => setRecDw pa 2 (withState (recDw s pa 2) 3) s
      | none => pure ()
      upd (resumeStep t (1 - c))
      return {}) s (ends := true)

/-! ## Pre-emption (R368) -/

/-- The dealer stops executing the context: at a group end, or at once in an instruction that restarts or only waits (R368, log 48). -/
def Ctx.stopsHere (x : Ctx) : Bool :=
  (x.latches.isEmpty && x.wait.isNone) || x.restarts || x.wait.any fun w => match w.kind with
    | .semw _ _ _ | .gbar _ _ | .wfe => true
    | .again | .port _ _ | .rdv _ | .drain | .endDrain | .semIdle _ _ _ _ | .release _ | .bank _ _ _ | .covset _ _ | .enq _ _
    | .cancel _ | .qunbind _ | .tinv _ | .window _ => false

/-- The context's record is SUSPENDED; that of one that has yielded is QUEUED (R314, R335). -/
def State.suspended (s : State) (x : Ctx) : Bool := x.run == .held && (runningRec s x).any fun pa => recState s pa == 4

/-- How gladly the leaf streams a context out, the smallest first: a suspended one with empty chains, any suspended one, then by class; one in the
leaf's or the debugger's hands is left (R368). -/
def outRank (s : State) (x : Ctx) : Nat :=
  match x.run with
  | .held => if s.suspended x then (if (allBlocks x).isEmpty then 0 else 1) else 2 + x.cls.val
  | .run => 2 + x.cls.val
  | .leaf | .debug => 6

/-- The leaf may choose the context in slot c to stream out: it prefers none to it (R368). -/
def mayChoose (s : State) (t : TileNo) (c : SlotNo) (x : Ctx) : Bool := (s.ctx? t (1 - c)).all fun y => decide (outRank s x ≤ outRank s y)

/-- PREEMPTION: the leaf marks a context; once its dealer has stopped executing it and its engines have stopped, it is streamed out. A context
whose record is suspended has no mark to wait for. -/
def execPreemption (t : TileNo) (c : SlotNo) (s : State) : Host.Outcome State Fault Refusal :=
  agent (do
    let x ← getCtx t c
    if x.marked then do
      enabled ((x.run == .held || (x.run == .run && x.stopsHere)) && (← see fun s => enginesQuiet s x))
      upd (streamOut t c (if x.run = .held then .suspended else .preempted))
    else do
      enabled ((x.run == .run || x.run == .held) && (← see fun s => mayChoose s t c x))
      if x.run = .held && (← see fun s => enginesQuiet s x) then upd (streamOut t c .suspended)
      else modCtx t c fun y => { y with marked := true }) s

end Sys2Proof.Machine
end

