-- ==== Sys2Proof/Machine/Launch.lean ====
section
/-!
DEFINITION. LAUNCH and INVOKE: the launch descriptor (R440), the job and its tenant, grants and tiles (R344, R345, R417, R439), the grid
and its records (R317, R310); and the resident models (R441, R442).
-/
namespace Sys2Proof.Machine

/-! ## Fields -/

/-- The body of a LAUNCH (R439). -/
structure LaunchBody where
  code    : Word
  desc    : Nat
  frame   : Word
  fstep   : Word
  grid    : Nat
  count   : Nat
  prio    : Fin 4
  timed   : Bool
  checked : Bool
  ppol    : Nat
  fcancel : Bool
  recbase : Nat
  arg1    : Word
  rel0    : Word
  rstep   : Word
  deriving DecidableEq, Repr

/-- Read the body of a LAUNCH. -/
def launchBody (p : Packet) : LaunchBody :=
  let w (off : Nat) : Word := BitVec.ofNat 64 (p.get off 0 64)
  { code := w 16, desc := p.get 24 0 64, frame := w 32, fstep := w 40, grid := p.get 48 0 64, count := p.get 56 0 24
    prio := ⟨p.get 60 0 2, Nat.mod_lt _ (by decide)⟩, timed := p.get 60 2 1 == 1, checked := p.get 60 3 1 == 1, ppol := p.get 60 4 2
    fcancel := p.get 60 6 1 == 1, recbase := p.get 64 0 64, arg1 := w 72, rel0 := w 80, rstep := w 88 }

/-- A data item: its space, 0 scratchpad, 1 cluster pool, 2 die pool, 3 device-virtual, its address, and its bytes (R440). -/
structure DataItem where
  space : Nat
  addr  : Nat
  bytes : List Byte
  deriving DecidableEq, Repr

/-- A launch descriptor (R440). -/
structure Desc where
  partw   : BitVec 32
  cb      : BitVec 32
  cl      : BitVec 32
  first   : Nat
  ntile   : Nat
  clmask  : Nat
  diemask : Nat
  tens    : List (Fin 128 × Tit)
  sems    : List (Fin 64 × Sem)
  data    : List DataItem
  deriving DecidableEq, Repr

/-- The partition word of HQ and AQ: the front end computes SBANKS (R128, R129). -/
def partWord (hq aq : Nat) : BitVec 32 := BitVec.ofNat 32 (hq + 16 * aq + 256 * (64 - 4 * hq - 4 * aq))

/-- A tensor item: its number and a well-formed image (R440, R149). -/
def tensItem (rd : Nat → Nat → Option Nat) (a : Nat) : Option (Fin 128 × Tit) := do
  let h ← rd a 8
  let e ← (List.range 32).mapM fun k => rd (a + 8 + 8 * k) 8
  let e : Tit := Vector.ofFn fun k => BitVec.ofNat 64 (e[k.val]?.getD 0)
  if hn : h < 128 then (if titOk e then some (⟨h, hn⟩, e) else none) else none

/-- A semaphore item: its number, EXPECT and an init word within the limits of R216 (R440). -/
def semItem (rd : Nat → Nat → Option Nat) (a : Nat) : Option (Fin 64 × Sem) := do
  let h ← rd a 4
  let w ← rd (a + 4) 4
  let v ← rd (a + 8) 8
  if hn : h < 64 then
    if initOk v w && decide (bits v 0 12 ≤ bits v 12 12) then some (⟨h, hn⟩, semInit {} v w) else none
  else none

/-- Data items one after another, and the bytes that each takes (R440). -/
def dataItems (bs : Nat → Nat → Option (List Byte)) (a : Nat) : Nat → Option (List DataItem)
  | 0 => some []
  | n + 1 => do
    let h ← bs a 24
    let v := leNat h
    let len := bits v 128 64
    let d ← bs (a + 24) len
    let r ← dataItems bs (a + 24 + (len + 7) / 8 * 8) n
    if bits v 0 64 < 4 then some (⟨bits v 0 64, bits v 64 64, d⟩ :: r) else none

/-- Read a launch descriptor; none where it cannot be read or breaks R440 or a rule that R439 names: R129, R149, R216, the tiles. -/
def readDesc (bs : Nat → Nat → Option (List Byte)) (a : Nat) : Option Desc := do
  let rd (a n : Nat) : Option Nat := (bs a n).map leNat
  let v ← rd a 64
  let f (off lo n : Nat) : Nat := bits v (8 * off + lo) n
  let hq := f 0 0 4
  let aq := f 0 4 4
  let nt := f 4 0 16
  let ns := f 4 16 16
  let first := f 20 0 9
  let ntile := f 20 16 9
  let okWord (x : Nat) : Bool := bits x 0 6 == 0 && bits x 24 8 == 0
  if f 0 14 18 = 0 ∧ f 8 16 16 = 0 ∧ f 20 9 7 = 0 ∧ f 20 25 7 = 0 ∧ f 28 0 32 = 0 ∧ f 48 0 128 = 0 ∧
      1 ≤ hq ∧ hq ≤ 4 ∧ 1 ≤ aq ∧ aq ≤ 4 ∧ 1 ≤ ntile ∧ first + ntile ≤ 384 ∧ okWord (f 12 0 32) ∧ okWord (f 16 0 32) then
    let tens ← (List.range nt).mapM fun i => tensItem rd (a + 64 + 264 * i)
    let sems ← (List.range ns).mapM fun i => semItem rd (a + 64 + 264 * nt + 16 * i)
    let data ← dataItems bs (a + 64 + 264 * nt + 16 * ns) (f 8 0 16)
    return { partw := partWord hq aq, cb := BitVec.ofNat 32 (f 12 0 32), cl := BitVec.ofNat 32 (f 16 0 32), first, ntile,
             clmask := f 24 0 32, diemask := f 32 0 128, tens, sems, data }
  else none

/-- The bytes that firmware reads of data items, up to one that it cannot reach or take (R440). -/
def dataSize (bs : Nat → Nat → Option (List Byte)) (a : Nat) : Nat → Nat
  | 0 => 0
  | n + 1 => match (bs a 24).map leNat with
    | none => 24
    | some v =>
      let len := bits v 128 64
      if (bs (a + 24) len).isSome ∧ bits v 0 64 < 4 then 24 + (len + 7) / 8 * 8 + dataSize bs (a + 24 + (len + 7) / 8 * 8) n else 24

/-- The bytes that firmware reads of a descriptor: its header, and the items that the header counts (R440). -/
def descSize (bs : Nat → Nat → Option (List Byte)) (a : Nat) : Nat :=
  match (bs a 64).map leNat with
  | none => 64
  | some v =>
    let n := 264 * bits v 32 16 + 16 * bits v 48 16
    64 + n + dataSize bs (a + 64 + n) (bits v 64 16)

/-- The tiles of a descriptor. -/
def Desc.tiles (d : Desc) : List TileNo := (List.finRange 384).filter fun t => decide (d.first ≤ t.val) && decide (t.val < d.first + d.ntile)
/-- The clusters of its tiles. -/
def Desc.clusters (d : Desc) : List (Fin 48) := (d.tiles.map clOf).dedup
/-- The dies of its tiles. -/
def Desc.dies (d : Desc) : List (Fin 8) := (d.tiles.map dieNo).dedup

/-! ## The job -/

/-- The tenant number of a new job: the banker's choice where it is free, else the lowest free one (R417). -/
def newTenant (s : State) : Option (Fin 64) :=
  let free (k : Fin 64) : Bool := !s.jobs.any fun j => j.tenant == k
  match (List.finRange 64).find? fun k => k.val == s.input.value && free k with
  | some k => some k
  | none => (List.finRange 64).find? free

/-- G(t) of every tenant with a weight is at least 8 units, on every die whose pool is set (R420). -/
def grantsOk (shares : Vector Share 64) (dies : Vector Die 8) : Bool :=
  dies.toList.all fun d =>
    let ts := d.buckets.map (·.tenant)
    let ok (w : Share → Nat) (pool : Nat) : Bool :=
      let total := ts.foldl (fun a t => a + w (shares.get t)) 0
      pool == 0 || ts.all fun t => w (shares.get t) == 0 || decide (8 ≤ grantOf pool (w (shares.get t)) total)
    ok Share.hbmw d.poolHbm && ok Share.netw d.poolNet

/-- The buckets of a new tenant on every die start with one grant (R420). -/
def addTenant (k : Fin 64) (s : State) : State :=
  { s with dies := s.dies.map fun d =>
      let all := k :: d.buckets.map (·.tenant)
      let total (w : Share → Nat) : Nat := all.foldl (fun a t => a + w (s.shares.get t)) 0
      let sh := s.shares.get k
      let b : Bucket := { tenant := k, hbm := grantOf d.poolHbm sh.hbmw (total Share.hbmw), net := grantOf d.poolNet sh.netw (total Share.netw) }
      { d with buckets := d.buckets ++ [b] } }

/-- The watchdog period of WDOG in dealer cycles (R432). -/
def wdogCycles (w : Nat) : Nat := if 20 ≤ w ∧ w ≤ 40 then 2 ^ w else 2 ^ 26

/-- [a, a + n) is HBM4 that the banker may allot: clear of every model copy, of the context pools of the jobs, of the carve-outs and of the stacks
that are fenced (R20, R439, R442, R450). -/
def allottable (s : State) (a n : Nat) : Bool :=
  decide (a + n ≤ hbmEnd) && (s.models.toList.all fun m => m.state == .free || decide (a + n ≤ m.pbase) || decide (m.pbase + m.bytes ≤ a)) &&
  (s.jobs.all fun j => decide (a + n ≤ j.pool.1) || decide (j.pool.1 + j.pool.2 ≤ a)) &&
  (s.carve.all fun c => decide (a + n ≤ c.1) || decide (c.1 + carveBytes ≤ a)) &&
  s.fenced.all fun k => decide (a + n ≤ 51539607552 * k) || decide (51539607552 * (k + 1) ≤ a)

/-- The numbers of the entries of a table of n that are not all zeros. -/
def entriesAt (s : State) (table n : Nat) : List Nat :=
  ((s.mem.filter fun c => decide (table ≤ c.1) && decide (c.1 < table + 8 * n)).map fun c => (c.1 - table) / 8).dedup

/-- The table that an entry may point to. -/
def tableAt (s : State) (k : Nat) : Nat :=
  match readPte s false k with
  | .ok e => pteAddr e
  | .error _ => 0

/-- An address in every page that the tables from a root may map (R386). -/
def mappedVas (s : State) (root : Nat) : List Nat :=
  (entriesAt s root 262144).flatMap fun i =>
    let t1 := tableAt s (root + 8 * i)
    1073741824 * i :: (entriesAt s t1 512).flatMap fun j =>
      let va := 1073741824 * i + 2097152 * j
      va :: (entriesAt s (tableAt s (t1 + 8 * j)) 32).map fun m => va + 65536 * m

/-- The tables from a root map a page that reaches into [a, a + n). -/
def mapsInto (s : State) (root a n : Nat) : Bool :=
  (mappedVas s root).any fun va => match (walkFrom s false 0 root va).leaf with
    | .ok e => decide (a < e.pa + leafBytes e.size) && decide (e.pa < a + n)
    | .error _ => false

/-- [a, a + n) can be the context pool of a job with a root table: HBM4 that may be allotted, outside its address space (R370, R439). -/
def poolFree (s : State) (root a n : Nat) : Bool := decide (0 < n) && allottable s a n && !mapsInto s root a n

/-- The context pool that the banker allots a new job in HBM4: the place and the size that the step names, where they can be one; else the highest
GiB that can and in which nothing stands (R370, R439, log 108). -/
def contextPool (s : State) (root : Nat) : Option (Nat × Nat) :=
  if poolFree s root s.input.addr s.input.size then some (s.input.addr, s.input.size)
  else ((List.range 768).map fun k => 1073741824 * (767 - k)).findSome? fun a =>
    if poolFree s root a 1073741824 && s.mem.all (fun c => decide (c.1 < a) || decide (a + 1073741824 ≤ c.1)) then some (a, 1073741824) else none

/-- The job of a queue: the live one, or a new one with a tenant, PTBASE, the queue's watchdog and a context pool (R439); none where no tenant number
is free, or no HBM4 for the pool. A PTROOT of any value is taken as PTBASE (DESIGN CHOICE, log 156). -/
def launchJob (q : Fin 256) (k : Queue) (b : LaunchBody) (s : State) : Option State :=
  match s.job? k.job with
  | some _ => some s
  | none => do
    let t ← newTenant s
    let pool ← contextPool s k.ptroot
    let j : Job := { id := k.job, ptbase := k.ptroot, tenant := t, queue := q, watchdog := wdogCycles k.wdog, ppol := b.ppol,
                     fcancel := b.fcancel, pool }
    let s := addTenant t (settleDies { s with jobs := s.jobs ++ [j] })
    if grantsOk s.shares s.dies then some s else none

/-- Two addresses lie in one pool. -/
def samePool (a b : Nat) : Bool :=
  match poolPlace a, poolPlace b with
  | some (.cluster c _), some (.cluster d _) => c == d
  | some (.die c _), some (.die d _) => c == d
  | _, _ => false

/-- A linked block names the pool of an address: by a page, or by a range of the tile's own pools; a context in no slot has no tile yet. -/
def Entry.inPool (t : Option TileNo) (pa : Nat) (e : Entry) : Bool :=
  (e.cap.leaves.any fun f => samePool pa f.pa) || e.spans.any fun p => match t with
    | some t => (poolRange t p).any fun r => samePool pa r.1
    | none => p.space == 0x9 || p.space == 0xA

/-- A block of the job that names the pool of an address is linked, so the pool's map for the job cannot change (R344). -/
def poolLinked (s : State) (job pa : Nat) : Bool :=
  let has (t : Option TileNo) (x : Ctx) : Bool := x.job == job && x.chains.toList.any fun h => h.queue.any (·.inPool t pa)
  ((List.finRange 384).any fun t => (s.tile t).slots.toList.any fun o => o.any (has (some t))) || s.saved.any fun e => has none e.ctx

/-- Set the entry of a chunk in the grant maps. -/
def State.setGrant (s : State) (pa : Nat) (g : Option Grant) : Option State :=
  match poolPlace pa with
  | some (.cluster c i) =>
    let k := s.clusters.get c
    some { s with clusters := s.clusters.set c { k with grants := k.grants.set i g } }
  | some (.die d i) =>
    let k := s.dies.get d
    some { s with dies := s.dies.set d { k with grants := k.grants.set i g } }
  | none => none

/-- The tags of n bytes at an address at their reset value (R345, R353, R388). -/
def resetTags (a n : Nat) (s : State) : State :=
  { s with tags := s.tags.filter fun g => decide (g.1 * 256 < a) || decide (a + n ≤ g.1 * 256) }

/-- WRITE and CHECKED of an entry whose GRANT is 0 (R344). -/
def State.setUngranted (job pa : Nat) (write checked : Bool) (s : State) : State :=
  let rest := s.ungranted.filter fun e => !(e.1 == job && e.2.1 == pa)
  { s with ungranted := if write || checked then (job, pa, write, checked) :: rest else rest }

/-- Set a chunk's GRANT, WRITE and CHECKED for a job: not while a linked block of the job names the pool, and no GRANT to a chunk that another job
holds; before a chunk is granted its bytes are zeroed and its tags reset (R344, R345). -/
def putGrant (job pa : Nat) (grant write checked : Bool) (s : State) : Option State :=
  if poolLinked s job pa || (poolPlace pa).isNone then none
  else
    let own := (s.grantAt pa).any (·.job == job)
    if grant then
      let s := s.setUngranted job pa false false
      if own then s.setGrant pa (some ⟨job, write, checked⟩)
      else if (s.grantAt pa).isSome then none
      else (resetTags pa 1048576 (zeroBytes s pa 1048576)).setGrant pa (some ⟨job, write, checked⟩)
    else
      let s := s.setUngranted job pa write checked
      if own then s.setGrant pa none else some s

/-- Grant a chunk to a job for a launch; one that the job holds stands, and one that cannot be granted refuses the launch (R345). -/
def grantChunk (job pa : Nat) (s : State) : Option State :=
  match s.grantAt pa with
  | some g => if g.job = job then some s else none
  | none => putGrant job pa true true false s

/-- The chunks that a descriptor asks for, by their first bytes (R440). -/
def Desc.chunks (d : Desc) : List Nat :=
  let pick (m n : Nat) : List Nat := (List.range n).filter fun i => m.testBit i
  (d.clusters.flatMap fun c => (pick d.clmask 32).map fun i => clPoolAt c (1048576 * i)) ++
    d.dies.flatMap fun e => (pick d.diemask 128).map fun i => diePoolAt e (1048576 * i)

/-- Do a step for every item of a list, unless one has no place. -/
def allSteps {α : Type} (f : α → State → Option State) (l : List α) (s : State) : Option State :=
  match l with
  | [] => some s
  | a :: r => (f a s).bind (allSteps f r)

/-- A launch is not refused for the weights of its tenant: a weight of 0 refuses it only if its code would touch that resource (R417, R439).
The firmware judges that; `input.nums` lists the resources, 1 HBM and 2 the network, that it finds untouched (log 68). -/
def weightsOk (s : State) (job : Nat) : Bool :=
  (s.job? job).any fun j =>
    ((s.shares.get j.tenant).hbmw != 0 || s.input.nums.contains 1) && ((s.shares.get j.tenant).netw != 0 || s.input.nums.contains 2)

/-- Write a data image of a space other than the scratchpad (R439): into each cluster pool or die pool of the job, or at a
device-virtual address of its own. -/
def writeImage (job : Nat) (d : Desc) (i : DataItem) (s : State) : Option State :=
  match i.space with
  | 1 => if i.addr + i.bytes.length ≤ 33554432 then some (d.clusters.foldl (fun s c => writeBytes s (clPoolAt c i.addr) i.bytes) s) else none
  | 2 => if i.addr + i.bytes.length ≤ 134217728 then some (d.dies.foldl (fun s e => writeBytes s (diePoolAt e i.addr) i.bytes) s) else none
  | 3 => writeVia (hwXlate s job · true) i.addr i.bytes s
  | _ => if i.addr + i.bytes.length ≤ padBytes d.partw then some s else none

/-! ## The grid -/

/-- Doubleword k of record i of a launch; TIMED is the job's mode (R310, R439). -/
def launchDw (job : Nat) (timed : Bool) (b : LaunchBody) (i k : Nat) : Nat :=
  match k with
  | 0 => b.code.toNat
  | 1 => (b.frame + BitVec.ofNat 64 i * b.fstep).toNat
  | 2 => 4294967296 * b.prio + 2 ^ 34 * b.checked.toNat + 2 ^ 35 * timed.toNat + 2 ^ 36 * 2
  | 3 => job % 4294967296 + 4294967296 * 0xFFFFFFFF
  | 4 => b.grid
  | 5 => (b.rel0 + BitVec.ofNat 64 i * b.rstep).toNat
  | 6 => i
  | _ => b.arg1.toNat

/-- The address of record i. -/
def LaunchBody.record (b : LaunchBody) (i : Nat) : Nat := (b.recbase + 64 * i) % 2 ^ 64

/-- Write record i. -/
def writeRecord (job : Nat) (b : LaunchBody) (i : Nat) (s : State) : Option State := do
  let pa ← hwXlate s job (b.record i) true
  return (List.range 8).foldl (fun s k => setRecDw pa k (launchDw job (s.timed job) b i k) s) s

/-- Push record i to its tile: into its deck where the tile holds the job, else into the overflow queue; a record that finds no room is
kept by the leaf (R319, R439). -/
def pushRecord (job : Nat) (b : LaunchBody) (d : Desc) (i : Nat) (s : State) : State :=
  let va := BitVec.ofNat 64 (b.record i)
  if h : d.first + i % d.ntile < 384 then
    let t : TileNo := ⟨_, h⟩
    if (s.tile t).padJob = some job then
      match hwXlate s job va.toNat true with
      | some pa => leafPush t job pa va s
      | none => s
    else match overflowPush t job (s.timed job) b.prio va s with
      | some s' => s'
      | none =>
        let cl := s.clusters.get (clOf t)
        { s with clusters := s.clusters.set (clOf t) { cl with pushes := cl.pushes ++ [(job, va, t)] } }.addErr
          { cause := Cause.deckOverflow.code, phys := false, src := t / 8, ctx := 0, job, frame := s.frame, addr := va, info := 0 }
  else s

/-- The job takes up a tile that stands free (R130, R439). -/
def takeTile (job : Nat) (t : TileNo) (s : State) : State :=
  if padFits s t 0 job && (s.ctx? t 0).isNone || (s.tile t).padJob == some job then adoptPad t job s else s

/-- What the launch gives the job: its tiles where it places the job, its timetable, and what the contexts and the stores of the grid start with. -/
def noteLaunch (b : LaunchBody) (d : Desc) (reloc : Vector Word 16) (places : Bool) (j : Job) : Job :=
  let lo := if j.ntile = 0 then d.first else min j.first d.first
  { j with
    timed := j.timed || b.timed
    first := if places then lo else j.first
    ntile := if places then max (j.first + j.ntile) (d.first + d.ntile) - lo else j.ntile
    tmpls := (b.grid, { partw := d.partw, clb := d.cb, cll := d.cl, tens := d.tens, semInit := d.sems, reloc }) :: j.tmpls
    spData := j.spData ++ (d.data.filter (·.space == 0)).map fun i => (i.addr, i.bytes) }

/-- Create the job where it is new, and the grid. A launch from a host queue, or of a job that is not live, grants the chunks and places the
job on the tiles; one from a device queue of a live job does neither. Then the images, the grid word with its parent, the records, and their pushes in
ascending order; none where the launch is refused, and then nothing is created (R439). -/
def launchGrid (q : Fin 256) (k : Queue) (b : LaunchBody) (d : Desc) (reloc : Vector Word 16) (parent : Nat) (s : State) : Option State := do
  if b.count = 0 then none
  else
    let creates := k.host || (s.job? k.job).isNone
    let s ← launchJob q k b s
    if !weightsOk s k.job then none
    else
      let s ← if creates then allSteps (grantChunk k.job) d.chunks s else some s
      let s := s.modJob k.job (noteLaunch b d reloc creates)
      let g ← hwXlate s k.job b.grid true
      let s ← allSteps (writeImage k.job d) d.data s
      let s := writeNat (writeNat s g 8 b.count) (g + 8) 8 parent
      let s ← allSteps (writeRecord k.job b) (List.range b.count) s
      let s := if creates then d.tiles.foldl (fun s t => takeTile k.job t s) s else s
      return (List.range b.count).foldl (fun s i => pushRecord k.job b d i s) s

/-- The parent grid of a packet: what ENQ noted for its entry, 0 for a packet of the host or of an indirect buffer (R317). -/
def parentOf (k : Queue) (p : Packet) : Nat := if k.stack.isEmpty then ((k.parents.find? (·.1 == p.idx)).map (·.2)).getD 0 else 0

/-- A refused packet whose entry ENQ placed lowers its parent's OUT again. -/
def dropChild (k : Queue) (p : Packet) (s : State) : State := if parentOf k p = 0 then s else gridLeave 0 k.job (parentOf k p) s

/-- The note of a taken packet goes. -/
def forgetParent (q : Fin 256) (p : Packet) : M Unit :=
  upd (·.modQueue q fun k => { k with parents := if k.stack.isEmpty then k.parents.filter (·.1 != p.idx) else k.parents })

/-- Launch a grid, or complete the packet with STATUS 1. -/
def launchOr (q : Fin 256) (k : Queue) (p : Packet) (b : LaunchBody) (d : Option Desc) (reloc : Vector Word 16) (slot : Option (Fin 64)) :
    M Unit := do
  forgetParent q p
  match ← see fun s => d.bind fun d => launchGrid q k b d reloc (parentOf k p) s with
  | none => do
    upd (dropChild k p)
    startPkt q (p.start (some 1))
  | some s' => do
    upd fun _ => s'
    match slot with
    | some i => upd fun s => { s with models := s.models.set i { s.models.get i with live := (s.models.get i).live + 1 } }
    | none => pure ()
    startPkt q { p.start none with grid := some (k.job, b.grid), slot }

/-- LAUNCH (R439). -/
def execLaunch (q : Nat) (s : State) : Host.Outcome State Fault Refusal :=
  agent (taking q 1 fun q k p => do
    let b := launchBody p
    let fails ← accessFails k
    if fails then portError k.space b.desc else pure ()
    let d ← see fun s => if fails then none else readDesc (bytesVia s (queueAt s k · false)) b.desc
    let s ← see id
    if fails then pure () else recordBad b.desc (badVia s (queueAt s k · false) b.desc (descSize (bytesVia s (queueAt s k · false)) b.desc))
    launchOr q k p b d (Vector.replicate 16 0) none) s

/-! ## Resident models -/

/-- A model slot of a packet's SLOT field. -/
def slotNo (p : Packet) : Fin 64 := ⟨p.get 16 0 6, Nat.mod_lt _ (by decide)⟩

/-- INVOKE (R441): the residency check, BUFTAB, and the header's LAUNCH, relocated. -/
def execInvoke (q : Nat) (s : State) : Host.Outcome State Fault Refusal :=
  agent (taking q 2 fun q k p => do
    let i := slotNo p
    let m ← see (·.models.get i)
    let n := p.get 16 8 5
    let fails ← accessFails k
    if fails then portError k.space (p.get 24 0 64) else pure ()
    let refuse : M Unit := do
      forgetParent q p
      upd (dropChild k p)
      startPkt q (p.start (some 1))
    if m.state ≠ .resident ∨ m.job ≠ k.job ∨ 16 < n ∨ fails = true then refuse
    else
      match (← see fun s => (List.range n).mapM fun j => natVia s (queueAt s k · false) (p.get 24 0 64 + 8 * j) 8),
          (← see fun s => natVia s (physAt s) m.pbase 128) with
      | some bufs, some img => do
        let s ← see id
        recordBad (p.get 24 0 64) (badVia s (queueAt s k · false) (p.get 24 0 64) (8 * n))
        recordBad m.pbase (badVia s (physAt s) m.pbase 128)
        let reloc : Vector Word 16 := Vector.ofFn fun j => BitVec.ofNat 64 (bufs[j.val]?.getD 0)
        let b := launchBody ⟨img, 0⟩
        let b := { b with
          code := b.code + BitVec.ofNat 64 m.pbase, desc := m.pbase + b.desc, frame := reloc.get 0 + b.frame
          grid := p.get 32 0 64, recbase := p.get 40 0 64, arg1 := BitVec.ofNat 64 (p.get 48 0 64) }
        let d ← see fun s => readDesc (bytesVia s (physAt s)) b.desc
        recordBad b.desc (badVia s (physAt s) b.desc (descSize (bytesVia s (physAt s)) b.desc))
        launchOr q k p b d reloc (some i)
      | _, _ => refuse) s

/-- The header of a model image passes: a LAUNCH packet image as R441 asks, and a descriptor that R440 accepts (R442). -/
def modelOk (s : State) (base : Nat) : Bool :=
  match natVia s (physAt s) base 128 with
  | none => false
  | some v =>
    let p : Packet := ⟨v, 0⟩
    p.type == 1 && p.len == 2 && !p.sigen && p.sig == 0 && p.headerOk && p.bodyOk && p.get 48 0 64 == 0 && p.get 64 0 64 == 0 &&
    (launchBody p).count != 0 && (readDesc (bytesVia s (physAt s)) (base + (launchBody p).desc)).isSome

/-- Set a model slot. -/
def setModel (i : Fin 64) (m : Model) : M Unit := upd fun s => { s with models := s.models.set i m }

/-- The work of a LOAD_MODEL packet. -/
def loadOf (p : Packet) : Load := { slot := slotNo p, unload := p.get 16 6 1 == 1, image := p.get 24 0 64, bytes := p.get 32 0 64 }

/-- The first packet of a queue that is loading or unloading a model and has its next action to take: its place and its work (R442). -/
def loadDue (k : Queue) : Option (Nat × Load) :=
  (List.range k.started.length).findSome? fun i => do
    let p ← k.started[i]?
    let l ← p.load
    if p.status.isNone && !(l.unload && l.locked) then some (i, l) else none

/-- Change a started packet. -/
def modPkt (q : Fin 256) (i : Nat) (f : Pkt → Pkt) : M Unit :=
  upd (·.modQueue q fun k => { k with started := k.started.modify i f })

/-- LOAD_MODEL has lock 1 as the banker: the packet is refused, or an unload makes its slot EVICTING, or a load makes it LOADING, with the place
that the banker allots (`input.addr`). -/
def loadLocked (q : Fin 256) (k : Queue) (i : Nat) (l : Load) : M Unit := do
  let lock ← see (·.hsems.get modelLock)
  enabled (lock.owner == 0)
  upd fun s => { s with hsems := s.hsems.set modelLock { lock with owner := 3 } }
  let m ← see (·.models.get l.slot)
  if m.state ≠ (if l.unload then SlotState.resident else .free) ∨ m.job ≠ k.job ∨ (l.unload = false ∧ hbmEnd < l.bytes) then
    modPkt q i fun p => { p with status := some 1 }
  else if l.unload then do
    setModel l.slot { m with state := .evicting }
    modPkt q i fun p => { p with slot := some l.slot, load := some { l with locked := true } }
  else do
    let base ← see (·.input.addr)
    enabled (← see fun s => allottable s base l.bytes)
    setModel l.slot { m with state := .loading, pbase := base, bytes := l.bytes, live := 0 }
    modPkt q i fun p => { p with load := some { l with locked := true } }

/-- The image is copied and its header checked: the slot ends RESIDENT, or FREE with STATUS 1 (R442). -/
def loadCopy (q : Fin 256) (k : Queue) (i : Nat) (l : Load) : M Unit := do
  let m ← see (·.models.get l.slot)
  let fails ← accessFails k
  if fails then portError k.space l.image else pure ()
  let r ← see fun s => if fails then none else
    (bytesVia s (queueAt s k · false) l.image l.bytes).map fun bs => writeBytes s m.pbase bs
  let refused : M Unit := do
    setModel l.slot { job := m.job }
    modPkt q i fun p => { p with status := some 1 }
  match r with
  | none => refused
  | some s' => do
    let bad ← see fun s => badVia s (queueAt s k · false) l.image l.bytes
    upd fun _ => s'
    recordBad l.image bad
    if ← see fun s => decide (128 ≤ l.bytes) && modelOk s m.pbase then do
      setModel l.slot { m with state := .resident }
      modPkt q i fun p => { p with status := some 0 }
    else refused

/-- LOAD_MODEL (R442): a packet is taken and started; a later turn takes lock 1 once it is free and makes the slot LOADING or EVICTING; a third
copies the image and checks it. A turn goes on with the packet that is under way, unless `input.who` = 2 asks for the next packet. -/
def execLoadModel (q : Nat) (s : State) : Host.Outcome State Fault Refusal :=
  agent (do
    let n ← queueNo q
    let k ← see (·.queue n)
    let due := if (← see (·.input.who)) = 2 then none else loadDue k
    match due with
    | some (i, l) => if l.locked then loadCopy n k i l else loadLocked n k i l
    | none => taking q 7 fun q _ p => startPkt q { p.start none with load := some (loadOf p) }) s

/-- MODEL_UNLOAD_COMPLETE: LIVE of an evicting slot is 0; the slot is FREE and its packet complete (R442). -/
def execModelUnloadComplete (slot : Fin 64) (s : State) : Host.Outcome State Fault Refusal :=
  agent (do
    let m ← see (·.models.get slot)
    enabled (m.state == .evicting && m.live == 0)
    setModel slot { job := m.job }
    let close (p : Pkt) : Pkt := if p.type = 7 ∧ p.slot = some slot ∧ p.status = none then { p with status := some 0 } else p
    upd fun s => { s with queues := s.queues.map fun k => { k with started := k.started.map close } }) s

end Sys2Proof.Machine
end

