-- ==== Sys2Proof/Machine/Registers.lean ====
section
/-!
DEFINITION. The register map (R427 to R433, R441, R399, R400, R417, R425): the images of its registers, reads, and writes with their
locks; the aperture of the host; and the debug port (R454).
-/
namespace Sys2Proof.Machine

/-! ## Images -/

/-- A queue's descriptor (R432). -/
def queueImage (k : Queue) : Nat :=
  k.base + 2 ^ 64 * k.logsz + 2 ^ 68 * k.space + 2 ^ 70 * k.en.toNat + 2 ^ 71 * k.halt.toNat + 2 ^ 72 * k.hcause + 2 ^ 96 * k.job +
    2 ^ 128 * k.ptroot + 2 ^ 192 * k.head + 2 ^ 224 * k.tail + 2 ^ 256 * k.malcnt + 2 ^ 288 * k.wdog

/-- A queue's budget register (R425); USED is rounded down and holds at its greatest value. -/
def budgetImage (k : Queue) : Nat :=
  k.budget + 2 ^ 32 * k.per + 2 ^ 35 * k.desch.toNat + 2 ^ 64 * min (k.used / 512000000) 0xFFFFFFFF

/-- The code of a slot state (R441). -/
def SlotState.code (x : SlotState) : Nat :=
  match x with
  | .free => 0
  | .loading => 1
  | .resident => 2
  | .evicting => 3

/-- A model slot (R441). -/
def modelImage (m : Model) : Nat := m.state.code + 2 ^ 32 * m.job + 2 ^ 64 * m.pbase + 2 ^ 128 * m.bytes + 2 ^ 192 * m.live

/-- A share register (R417). -/
def shareImage (k : Share) : Nat := k.hbmw + 2 ^ 16 * k.netw + 2 ^ 32 * k.job

/-- An outbound window (R399). -/
def outImage (e : OutWin) : Nat :=
  e.v.toNat + 2 * e.r.toNat + 4 * e.w.toNat + 8 * e.c.toNat + 16 * e.tb.toNat + 32 * e.dev + 4096 * e.inb + 2 ^ 20 * e.tile + 2 ^ 32 * e.job +
    2 ^ 64 * e.size

/-- An inbound window (R400). -/
def inImage (e : InWin) : Nat :=
  e.v.toNat + 2 * e.r.toNat + 4 * e.w.toNat + 8 * e.c.toNat + 16 * e.arrk + 64 * e.bound.toNat + 256 * e.srcdev + 2 ^ 15 * e.anysrc.toNat +
    2 ^ 32 * e.job + 2 ^ 64 * e.base.toNat + 2 ^ 128 * e.size + 2 ^ 192 * e.btile + 2 ^ 201 * e.bsem + 2 ^ 208 * e.bctx.toNat

/-- The code of a power mode (R430). -/
def PowerMode.code (m : PowerMode) : Nat :=
  match m with
  | .full => 0
  | .balanced => 1
  | .economy => 2

/-- The power mode of a code. -/
def modeOf (n : Nat) : Option PowerMode :=
  match n with
  | 0 => some .full
  | 1 => some .balanced
  | 2 => some .economy
  | _ => none

/-- STATUS (R430, R455). -/
def statusWord (s : State) : Nat := s.ready.toNat + 2 * s.bootFail.toNat + 4 * s.tripped.toNat + 8 * (!s.fenced.isEmpty).toNat

/-- PWRMODE (R430). -/
def pwrWord (s : State) : Nat := s.req.code + 16 * s.mode.code + 256 * s.limit.code + 4096 * s.pend.toNat

/-- The four doublewords of an error record (R451). -/
def errDw (r : ErrRec) (k : Nat) : Nat :=
  match k with
  | 0 => r.cause + 64 * r.phys.toNat + 256 * r.src + 65536 * r.ctx + 4294967296 * (r.job % 4294967296)
  | 1 => r.frame.toNat
  | 2 => r.addr.toNat
  | _ => r.info.toNat

/-- The record at place i of the ring: records follow one another from place 0, and the newest ones stand there (R451). -/
def ringAt (s : State) (i : Nat) : Option ErrRec :=
  let n := s.errRing.length
  s.errRing[(i + 4294967296 + n - s.errCount % 4294967296) % 4096]?

/-- An agent of the register map: port 0, port 1, the banker (2), or the leaf controller of cluster `who - 3`, which reaches its cluster's part alone:
the regions of its tiles, and the grant map, the job table and the tags of its pool (R429, R445). -/
def reaches (who off : Nat) : Bool :=
  let c := who - 3
  decide (who ≤ 2) || decide (who < 51) && (
    (decide (0x2000000 + 0x20000 * (8 * c) ≤ off) && decide (off < 0x2000000 + 0x20000 * (8 * c + 8))) ||
    (decide (0x1000000 + 0x100000 * (c / 6) ≤ off) && decide (off < 0x1000000 + 0x100000 * (c / 6 + 1)) &&
      (match Config.dieLayout ((off - 0x1000000) % 0x100000 / 8) with
       | (2, k) => k / 32 % 6 == c % 6
       | (5, k) => k % 6 == c % 6
       | (6, k) => decide (524288 ≤ k) && (k - 524288) / 131072 % 6 == c % 6
       | _ => false)))

/-- The lock that guards a region for writes of a port (R429, R430). -/
def holdsLock (s : State) (who : Nat) (l : Fin 16) : Bool := who == 2 || (s.hsems.get l).owner.val == who + 1

/-! ## Reads -/

/-- The aligned part of an image that an access names. -/
def part (image off size : Nat) : Nat := bits image (8 * off) (8 * size)

/-- The domain number, a route or an event weight (R395, R424, R430, log 80). -/
def bankerDw (s : State) (kind : Nat) : Nat :=
  if kind = 0 then s.domain
  else if kind ≤ 128 then Config.routeWord (((s.routes.find? (·.1 == kind - 1)).map (·.2)).getD [])
  else (s.weights.toList[kind - 129]?).getD 0

/-- The doubleword of the module region at an offset (R430). -/
def moduleDw (s : State) (who off : Nat) : Nat :=
  if off = 0 then 0x7400 + 65536 * (Config.revision % 256)
  else if off = 8 then statusWord s
  else if off = 0x100 then pwrWord s
  else if 0x200 ≤ off ∧ off < 0x1000 then bankerDw s (Config.moduleLayout ((off - 0x200) / 8))
  else if off = 0x1000 then s.errCount % 4294967296 + 4294967296 * (s.lostRec % 4294967296)
  else if off = 0x1008 then (if who = 1 then s.errSel.get 1 else s.errSel.get 0).val
  else if 0x2000 ≤ off ∧ off < 0xA000 then
    let sel := (if who = 1 then s.errSel.get 1 else s.errSel.get 0).val
    let k := (off - 0x2000) / 8
    match ringAt s (1024 * sel + k / 4) with
    | some r => errDw r (k % 4)
    | none => 0
  else if 0xA000 ≤ off ∧ off < 0xA550 then
    let k := (off - 0xA000) / 8
    (s.counters.toList[k / 5]?.bind fun c => c.toList[k % 5]?).getD 0
  else 0

/-- The entry of the chunk at pa in the grant map of the tenant with number k (R344). -/
def grantImage (s : State) (k pa : Nat) : Nat :=
  match s.jobs.find? fun j => j.tenant.val == k with
  | none => 0
  | some j =>
    let e := s.entryOf j.id pa
    e.1.toNat + 2 * e.2.1.toNat + 4 * e.2.2.toNat

/-- The doubleword of a die's region that holds a kind of register (R429, R420, R344, R391, R327, R353, log 80). -/
def dieDw (s : State) (d : Fin 8) (kind k : Nat) : Nat :=
  let x := s.dies.get d
  let cl (n : Nat) : Option Cluster := s.clusters.toList[6 * d.val + n % 6]?
  match kind with
  | 0 => if k = 0 then x.poolHbm else if k = 1 then x.poolNet else 0
  | 1 => grantImage s (k / 128 % 64) (diePoolAt d (1048576 * (k % 128)))
  | 2 => grantImage s (k / 192 % 64) (clPoolAt (6 * d + k / 32 % 6) (1048576 * (k % 32)))
  | 3 => ((x.pins[k]?).map fun p => Config.pinWord 0 p.job p.base p.size p.count).getD 0
  | 4 => ((x.pins[k]?).map fun p => Config.pinWord 1 p.job p.base p.size p.count).getD 0
  | 5 => ((s.jobs[k / 6]?).map fun j => Config.jobWord j.id ((cl k).any fun c => c.cancels.contains j.id)).getD 0
  | 6 =>
    let base := if k < 524288 then diePoolAt d (256 * k) else clPoolAt (6 * d + (k - 524288) / 131072 % 6) (256 * ((k - 524288) % 131072))
    (tagGet s.tags (base / 256)).toNat
  | 7 => if 256 * k < hbmEnd then (tagGet s.tags k).toNat else 0
  | _ => 0

/-- The registers of a context slot: of its context, or what stands there while it holds none; slot 2 streams only (R24, R99, log 13,
log 112). -/
def slotRegs (s : State) (t : TileNo) (k : Fin 3) : Ctx :=
  if h : k.val < 2 then (s.ctx? t ⟨k, h⟩).getD ((s.tile t).idle.get k) else (s.tile t).idle.get k

/-- CSR n of a context slot, read through the register map (R7, R99, R101). -/
def slotCsr (s : State) (t : TileNo) (k : Fin 3) (n : Nat) : Nat :=
  let x := slotRegs s t k
  if n = 1 then x.num.toNat * 65536 + k else (csrRead s t 0 x n).toNat

/-- The doubleword of a tile's region from +96 KiB on that holds a kind of register (R429, R441, R354, log 80). -/
def tileDw (s : State) (t : TileNo) (kind k : Nat) : Nat :=
  let x := s.tile t
  match kind with
  | 0 => ((x.dkb.toList[k]?).map (·.toNat)).getD 0
  | 1 => ((x.dkl.toList[k]?).map (·.toNat)).getD 0
  | 2 => ((x.dkt.toList[k]?).map (·.toNat)).getD 0
  | 3 => if h : k / 16 < 3 then (((slotRegs s t ⟨k / 16, h⟩).reloc.toList[k % 16]?).map (·.toNat)).getD 0 else 0
  | 4 => if k = 0 then x.ep % 4294967296 else 0
  | 5 => if k < 384 then ((frGet x.fr k).map (· % 4294967296)).getD Config.noneWord else 0
  | _ => 0

/-- An aligned read of 4 or 8 bytes of the register map, locks apart (R429). -/
def regRead (who off size : Nat) : M Nat := do
  let s ← see id
  if !reaches who off then return 0
  else if off < 0x10000 then return part (moduleDw s who (off / 8 * 8)) (off % 8) size
  else if off < 0x10080 then
    return part ((s.hsems.toList[(off - 0x10000) / 8]?.map fun l => l.owner.val).getD 0) (off % 8) size
  else if 0x100000 ≤ off ∧ off < 0x104000 then
    return part ((s.queues.toList[(off - 0x100000) / 64]?.map queueImage).getD 0) (off % 64) size
  else if 0x140000 ≤ off ∧ off < 0x141000 then
    return part ((s.queues.toList[(off - 0x140000) / 16]?.map budgetImage).getD 0) (off % 16) size
  else if 0x200000 ≤ off ∧ off < 0x201000 then
    return part ((s.models.toList[(off - 0x200000) / 64]?.map modelImage).getD 0) (off % 64) size
  else if 0x300000 ≤ off ∧ off < 0x300200 then
    return part ((s.shares.toList[(off - 0x300000) / 8]?.map shareImage).getD 0) (off % 8) size
  else if 0x400000 ≤ off ∧ off < 0x401000 then return part (outImage (s.outw (winNo ((off - 0x400000) / 16)))) (off % 16) size
  else if 0x401000 ≤ off ∧ off < 0x403000 then return part (inImage (s.inw (winNo ((off - 0x401000) / 32)))) (off % 32) size
  else if h : 0x1000000 ≤ off ∧ (off - 0x1000000) / 0x100000 < 8 then
    let r := Config.dieLayout ((off - 0x1000000) % 0x100000 / 8)
    return part (dieDw s ⟨_, h.2⟩ r.1 r.2) (off % 8) size
  else if h : 0x2000000 ≤ off ∧ (off - 0x2000000) / 0x20000 < 384 then
    let t : TileNo := ⟨_, h.2⟩
    let o := (off - 0x2000000) % 0x20000
    if hk : o / 0x8000 < 3 then return part (slotCsr s t ⟨_, hk⟩ (o % 0x8000 / 8)) (off % 8) size
    else
      let r := Config.tileLayout ((o - 0x18000) / 8)
      return part (tileDw s t r.1 r.2) (off % 8) size
  else if 0x5000000 ≤ off ∧ off < 0x9000000 then return leNat (cellsRead s.mem (mailAt (off - 0x5000000)) size)
  else return 0

/-! ## Writes -/

/-- An image with an aligned part replaced. -/
def splice (image off size v : Nat) : Nat := setBits image (8 * off) (8 * size) v

/-- An access of size bytes at off covers byte k. -/
def covers (off size k : Nat) : Bool := decide (off ≤ k) && decide (k < off + size)

/-- A TAIL that is accepted (R433). -/
def tailOk (new : Nat) (k : Queue) : Bool :=
  let d (a b : Nat) : Nat := (a + 4294967296 - b) % 4294967296
  decide (d new k.head ≤ k.size) && decide (d new k.tail ≤ k.size)

/-- A write to the fields of a queue's descriptor other than TAIL, by a holder of its lock. HEAD takes effect in a halted queue, whose open
buffers are then left (R429, R432, R443). -/
def writeFields (off size v : Nat) (k : Queue) : Queue :=
  let new := splice (queueImage k) off size v
  { k with
      base := bits new 0 64, logsz := bits new 64 4, space := bits new 68 2, en := bits new 70 1 == 1, job := bits new 96 32
      ptroot := bits new 128 64, wdog := bits new 288 6
      halt := k.halt && !(covers off size 8 && bits new 71 1 == 1)
      head := if k.halt then bits new 192 32 else k.head
      stack := if k.halt && covers off size 24 then [] else k.stack }

/-- A write to a queue's descriptor. Without its lock only TAIL takes effect; a TAIL that is not accepted is discarded and halts the queue (R429,
R432, R433, log 65). -/
def writeQueue (q : Fin 256) (locked : Bool) (off size v : Nat) : M Unit := do
  let k ← see (·.queue q)
  let tail := bits (splice (queueImage k) off size v) 224 32
  let k := if locked then writeFields off size v k else k
  if !covers off size 28 then upd (·.modQueue q fun _ => k)
  else if tailOk tail k then upd (·.modQueue q fun _ => { k with tail })
  else do
    upd (·.modQueue q fun _ => k)
    haltMalformed q k 4

/-- A share register takes new weights unless they give a tenant a G(t) below 8 units (R417, R420). The refills that are due come first, with
the old ones (R421). -/
def setShare (i : Fin 64) (k : Share) (s : State) : State :=
  let s := settleDies s
  let shares := s.shares.set i k
  if grantsOk shares s.dies then { s with shares } else s

/-- PER as it is kept: 6 and 7 act and read as 2 (R425). -/
def perOf (n : Nat) : Nat := if n < 6 then n else 2

/-- A write to a queue's budget register: a period that is over ends first, with the budget it had; a queue that has used the new one up is
descheduled (R425, R426). -/
def setBudget (q : Fin 256) (off size v : Nat) (s : State) : State :=
  let set (k : Queue) : Queue :=
    let new := splice (budgetImage k) off size v
    { k with budget := bits new 0 32, per := perOf (bits new 32 3) }
  ((s.settleQueue q).modQueue q set).deschedule q

/-- Outbound window i set. -/
def State.setOutw (s : State) (i : Fin 256) (e : OutWin) : State := { s with outWin := (i, e) :: s.outWin.filter (·.1 != i) }

/-- An outbound window from its image; SIZE keeps a multiple of 64 (R399). -/
def outOf (v : Nat) : OutWin :=
  { v := bits v 0 1 == 1, r := bits v 1 1 == 1, w := bits v 2 1 == 1, c := bits v 3 1 == 1, tb := bits v 4 1 == 1, dev := bits v 5 7
    inb := winNo (bits v 12 8), tile := bits v 20 9, job := bits v 32 32, size := bits v 64 40 / 64 * 64 }

/-- An inbound window with the writable fields of an image (R400). -/
def inOf (e : InWin) (v : Nat) : InWin :=
  { e with
    v := bits v 0 1 == 1, r := bits v 1 1 == 1, w := bits v 2 1 == 1, c := bits v 3 1 == 1, arrk := bits v 4 2, srcdev := bits v 8 7
    anysrc := bits v 15 1 == 1, job := bits v 32 32, base := BitVec.ofNat 64 (bits v 64 64), size := bits v 128 40 / 64 * 64 }

/-- A write that its lock does not allow is ignored and counted in the port's record (R429). -/
def locked (who : Nat) (l : Fin 16) (off : Nat) (m : M Unit) : M Unit := do
  if ← see fun s => holdsLock s who l then m else portError who off

/-- Set a deck CSR of a tile (R318). -/
def setDeck (t : TileNo) (n : Fin 4) (which v : Nat) : M Unit :=
  modTile t fun x => match which with
    | 0 => { x with dkb := x.dkb.set n (BitVec.ofNat 32 (v % 16777216 / 8 * 8)) }
    | 1 => { x with dkl := x.dkl.set n (BitVec.ofNat 32 (v % 16777216 / 8 * 8)) }
    | _ => { x with dkt := x.dkt.set n (BitVec.ofNat 32 v) }

/-- Change the registers of a context slot, whether or not a context stands in it. -/
def modSlot (t : TileNo) (k : Fin 3) (f : Ctx → Ctx) : M Unit := do
  let idle : M Unit := modTile t fun x => { x with idle := x.idle.set k (f (x.idle.get k)) }
  if h : k.val < 2 then
    if (← see (·.ctx? t ⟨k, h⟩)).isSome then modCtx t ⟨k, h⟩ f else idle
  else idle

/-- A CSR written by firmware or the debug port, within the fields of access RW (R99, R373). -/
def csrWriteFw (x : Ctx) (n : Nat) (v : Word) : Ctx :=
  match n with
  | 0x020 => { x with epc := wordAlign v }
  | 0x050 => { x with dbgctl := put32 x.dbgctl 3 v }
  | _ => csrWrite x n v

/-- CSR n of a context slot written by the banker: the deck CSRs belong to the tile (R7, R99). -/
def writeSlotCsr (t : TileNo) (k : Fin 3) (n v : Nat) : M Unit :=
  if h : 0x040 ≤ n ∧ n < 0x04C then setDeck t ⟨(n - 0x040) % 4, Nat.mod_lt _ (by decide)⟩ ((n - 0x040) / 4) v
  else modSlot t k fun x => csrWriteFw x n (BitVec.ofNat 64 v)

/-- Set GRANT, WRITE and CHECKED of a chunk in the map of the tenant with number k; an entry that may not change stays (R344). -/
def setEntry (k pa v : Nat) (s : State) : State :=
  match s.jobs.find? fun j => j.tenant.val == k with
  | none => s
  | some j => (putGrant j.id pa (v.testBit 0) (v.testBit 1) (v.testBit 2) s).getD s

/-- POOL of a die, used from the next refill on (R420). -/
def setPool (d : Fin 8) (f : Die → Die) (s : State) : State :=
  let s := settleDies s
  { s with dies := s.dies.set d (f (s.dies.get d)) }

/-- A write of the banker, or of a leaf in its part, to a doubleword of a die's region: POOL, an entry of a grant map, or a job's cancel flag in a
cluster's job table, which it sets. The pin table is the LINKs', and tags are read only (R327, R344, R353, R391, R420, log 80). -/
def setDieDw (d : Fin 8) (kind k v : Nat) (s : State) : State :=
  match kind with
  | 0 => if k = 0 then setPool d (fun x => { x with poolHbm := v }) s else if k = 1 then setPool d (fun x => { x with poolNet := v }) s else s
  | 1 => setEntry (k / 128 % 64) (diePoolAt d (1048576 * (k % 128))) v s
  | 2 => setEntry (k / 192 % 64) (clPoolAt (6 * d + k / 32 % 6) (1048576 * (k % 32))) v s
  | 5 =>
    match s.jobs[k / 6]? with
    | some j => if Config.jobFlag v then setCancel j.id ⟨6 * d.val + k % 6, by omega⟩ s else s
    | none => s
  | _ => s

/-- A write of the banker, or of a leaf in its part, to a doubleword of a tile's region from +96 KiB on (R318, R354, R429, R441, log 80). -/
def setTileDw (t : TileNo) (kind k v : Nat) : M Unit := do
  if h : kind < 3 ∧ k < 4 then setDeck t ⟨k, h.2⟩ kind v
  else if h : kind = 3 ∧ k / 16 < 3 then modSlot t ⟨k / 16, h.2⟩ fun x => { x with reloc := x.reloc.set (k % 16) (BitVec.ofNat 64 v) }
  else if kind = 4 ∧ k = 0 then modTile t fun x => { x with ep := v % 4294967296 }
  else if kind = 5 ∧ k < 384 then
    modTile t fun x =>
      let rest := x.fr.filter (·.1 != k)
      { x with fr := if v = Config.noneWord then rest else frRaise rest k (v % 4294967296) }
  else pure ()

/-- Set the domain number, a route or an event weight (R395, R424, R430, log 80). -/
def setBankerReg (kind v : Nat) (s : State) : State :=
  if kind = 0 then { s with domain := v % 128 }
  else if kind ≤ 128 then { s with routes := (kind - 1, (Config.routePorts v).filter (· < 16)) :: s.routes.filter (·.1 != kind - 1) }
  else if h : kind - 129 < 9 then { s with weights := s.weights.set (kind - 129) (v % 1048576) }
  else s

/-- A write to the module region: the upper halves of RESET and PWRMODE hold no field that a write sets, and ask for the lock like the lower ones;
the registers of the banker are its own to write (R429, R430). -/
def writeModule (who off size v : Nat) : M Unit := do
  if off = 0x10 then locked who 2 off (if v % 2 = 0 then upd fun s => { s with asked := true } else pure ())
  else if off = 0x14 ∨ off = 0x104 then locked who 2 off (pure ())
  else if off = 0x100 then
    locked who 2 off (match modeOf (v % 4) with
      | some m => upd fun s => { s with req := m, pend := true }
      | none => pure ())
  else if off = 0x1008 then
    if h : who < 2 then upd fun s => { s with errSel := s.errSel.set who ⟨v % 4, Nat.mod_lt _ (by decide)⟩ } else pure ()
  else if 0x200 ≤ off ∧ off < 0x1000 ∧ who = 2 then
    let kind := Config.moduleLayout ((off - 0x200) / 8)
    upd fun s => setBankerReg kind (splice (bankerDw s kind) (off % 8) size v) s
  else pure ()

/-- A write of `size` bytes by an agent at an offset of the register map (R428, R429, R445). -/
def regWrite (who off size v : Nat) : M Unit := do
  let s ← see id
  if !reaches who off then pure ()
  else if (size ≠ 4 ∧ size ≠ 8) ∨ off % size ≠ 0 then portError who off
  else if off < 0x10000 then writeModule who off size v
  else if h : off < 0x10080 then
    let l : Fin 16 := ⟨(off - 0x10000) / 8, by omega⟩
    if off % 8 = 0 ∧ v = 0 ∧ (s.hsems.get l).owner.val = who + 1 then
      upd fun s => { s with hsems := s.hsems.set l { s.hsems.get l with owner := 0 } }
    else portError who off
  else if h : 0x100000 ≤ off ∧ off < 0x104000 then do
    let q : Fin 256 := ⟨(off - 0x100000) / 64, by omega⟩
    let ok := holdsLock s who 0
    if !ok && !(size == 4 && off % 64 == 28) then portError who off else pure ()
    writeQueue q ok (off % 64) size v
  else if h : 0x140000 ≤ off ∧ off < 0x141000 then
    let q : Fin 256 := ⟨(off - 0x140000) / 16, by omega⟩
    locked who 0 off (upd (setBudget q (off % 16) size v))
  else if h : 0x200000 ≤ off ∧ off < 0x201000 then
    let i : Fin 64 := ⟨(off - 0x200000) / 64, by omega⟩
    locked who 1 off (upd fun s => { s with
      models := s.models.set i { s.models.get i with job := bits (splice (modelImage (s.models.get i)) (off % 64) size v) 32 32 } })
  else if h : 0x300000 ≤ off ∧ off < 0x300200 then
    let i : Fin 64 := ⟨(off - 0x300000) / 8, by omega⟩
    let new := splice (shareImage (s.shares.get i)) (off % 8) size v
    let k : Share := { hbmw := bits new 0 16, netw := bits new 16 16, job := bits new 32 7 }
    locked who 3 off (upd (setShare i k))
  else if 0x400000 ≤ off ∧ off < 0x401000 then
    let i := winNo ((off - 0x400000) / 16)
    locked who 3 off (upd (·.setOutw i (outOf (splice (outImage (s.outw i)) (off % 16) size v))))
  else if 0x401000 ≤ off ∧ off < 0x403000 then
    let i := winNo ((off - 0x401000) / 32)
    locked who 3 off (upd (·.setInw i (inOf (s.inw i) (splice (inImage (s.inw i)) (off % 32) size v))))
  else if h : 0x1000000 ≤ off ∧ (off - 0x1000000) / 0x100000 < 8 then
    let r := Config.dieLayout ((off - 0x1000000) % 0x100000 / 8)
    if who < 2 then pure () else upd fun s => setDieDw ⟨_, h.2⟩ r.1 r.2 (splice (dieDw s ⟨_, h.2⟩ r.1 r.2) (off % 8) size v) s
  else if h : 0x2000000 ≤ off ∧ (off - 0x2000000) / 0x20000 < 384 then
    let t : TileNo := ⟨_, h.2⟩
    let o := (off - 0x2000000) % 0x20000
    let n := o % 0x8000 / 8
    if who < 2 then pure ()
    else if hk : o / 0x8000 < 3 then writeSlotCsr t ⟨_, hk⟩ n (splice (slotCsr s t ⟨_, hk⟩ n) (off % 8) size v)
    else
      let r := Config.tileLayout ((o - 0x18000) / 8)
      setTileDw t r.1 r.2 (splice (tileDw s t r.1 r.2) (off % 8) size v)
  else if 0x5000000 ≤ off ∧ off < 0x9000000 then
    locked who 4 off (upd fun s => writeNat s (mailAt (off - 0x5000000)) size v)
  else pure ()

/-! ## The rows -/

/-- The step that a write of the register map belongs to. -/
inductive WriteRow | tail | halt | hsem | pwr | reset | plain
  deriving DecidableEq, Repr

/-- Which step a write is (R430, R431, R433, R443). -/
def writeRow (off size v : Nat) : WriteRow :=
  if off = 0x10 then .reset
  else if off = 0x100 then .pwr
  else if 0x10000 ≤ off ∧ off < 0x10080 then .hsem
  else if 0x100000 ≤ off ∧ off < 0x104000 then
    if covers (off % 64) size 28 then .tail
    else if covers (off % 64) size 8 && bits v 7 1 == 1 then .halt
    else .plain
  else .plain

/-- A write by agent `input.who` of `input.size` bytes at offset `input.addr`, if it is the step named. -/
def writeStep (row : WriteRow) : M Unit := do
  let i ← see (·.input)
  enabled (decide (i.who < 51) && decide (i.value < 2 ^ (8 * i.size)) && writeRow i.addr i.size i.value == row)
  regWrite i.who i.addr i.size i.value

/-- TAIL_WRITE (R433). -/
def execTailWrite (s : State) : Host.Outcome State Fault Refusal := agent (writeStep .tail) s
/-- HALT_CLEAR (R443). -/
def execHaltClear (s : State) : Host.Outcome State Fault Refusal := agent (writeStep .halt) s
/-- HSEM_RELEASE (R431). -/
def execHsemRelease (s : State) : Host.Outcome State Fault Refusal := agent (writeStep .hsem) s
/-- PWRMODE_WRITE (R430). -/
def execPwrmodeWrite (s : State) : Host.Outcome State Fault Refusal := agent (writeStep .pwr) s
/-- RESET_REQUEST (R430). -/
def execResetRequest (s : State) : Host.Outcome State Fault Refusal := agent (writeStep .reset) s

/-- The banker makes the page of a job's address checked: the page's GiB of HBM4 gets its carve-out at `base`, unless it has one, the tags of the
page are reset, and only then CHK is set in its leaf (R20, R353, R387, R388, log 113). -/
def setChecked (job va base : Nat) : M Unit := do
  let s ← see id
  let w := walk s false job va
  match w.leaf, w.reads with
  | .ok e, k :: _ => do
    enabled (isHbm e.pa)
    let g := e.pa / 1073741824
    if s.hasCarve g then pure ()
    else do
      enabled (allottable s base carveBytes && (decide (e.pa + leafBytes e.size ≤ base) || decide (base + carveBytes ≤ e.pa)))
      upd fun s => { s with carve := (base, g) :: s.carve }
    upd (resetTags e.pa (leafBytes e.size))
    upd fun s => writeNat s k 8 (setBits (readNat s k 8) 6 1 1)
  | _, _ => exit .idle

/-- A write by the banker, or by a leaf controller, to a register whose place in the map no rule gives, named by its content (R395, R417, R420,
R424, R318, R344, R388, R447): 0 domain number; 1 the route of a device and its ports; 2 an event weight; 3 the pool registers of a die, used from the
next refill on; 4 a deck CSR of a tile; 5 CHK of the page of a job's address, with the place of a carve-out; 6 the entry of a chunk in a job's
grant map; 7 a fused key, which it revokes (log 18); 8 a job whose cancel flag the firmware broadcasts to all job tables (R327). -/
def bankerWrite (l : List Nat) : M Unit := do
  match l with
  | 0 :: d :: _ => upd (setBankerReg 0 d)
  | 1 :: d :: ps => upd fun s => { s with routes := (d % 128, ps.filter (· < 16)) :: s.routes.filter (·.1 != d % 128) }
  | 2 :: k :: w :: _ => do
    enabled (decide (k < 9))
    upd (setBankerReg (129 + k) w)
  | 3 :: d :: hb :: n :: _ =>
    if h : d < 8 then upd (setPool ⟨d, h⟩ fun x => { x with poolHbm := hb, poolNet := n }) else exit .idle
  | 4 :: t :: n :: which :: v :: _ =>
    if h : t < 384 ∧ n < 4 then setDeck ⟨t, h.1⟩ ⟨n, h.2⟩ which v else exit .idle
  | 5 :: job :: va :: base :: _ => setChecked job va base
  | 6 :: job :: pa :: v :: _ => do
    let s' ← present (← see (putGrant job (pa / 1048576 * 1048576) (v.testBit 0) (v.testBit 1) (v.testBit 2)))
    upd fun _ => s'
  | 8 :: job :: _ => do
    enabled (← see fun s => (s.job? job).isSome)
    upd (cancelJob job)
  | 7 :: k :: _ => if h : k < 4 then upd fun s => { s with fuses := s.fuses.set k { s.fuses.get ⟨k, h⟩ with revoked := true } } else exit .idle
  | _ => exit .idle

/-- REGISTER_WRITE: every write that is no step of its own (R429). The banker (`input.who` = 2) names with `nums` a register whose place no
rule gives. -/
def execRegisterWrite (s : State) : Host.Outcome State Fault Refusal :=
  agent (do
    let i ← see (·.input)
    if i.who = 2 ∧ i.nums ≠ [] then bankerWrite i.nums else writeStep .plain) s

/-- A lock read by an agent whose OWNER code is k: what it reads (R431). -/
def hsemRead (l : HsemLock) (k : Fin 4) : HsemLock × Nat := if l.owner = 0 then ({ l with owner := k }, 0) else (l, l.owner.val)

/-- HSEM_TAKE: a read of lock `input.addr` by port 0, port 1 or the banker (`input.who`); with `input.flag` both ports read it in one cycle,
in the order of the toggle, which flips (R431). What each read is left in `answer`. -/
def execHsemTake (s : State) : Host.Outcome State Fault Refusal :=
  agent (do
    let i ← see (·.input)
    if h : i.addr < 16 then do
      let l ← see fun s => s.hsems.get ⟨i.addr, h⟩
      if i.flag then do
        let first : Fin 4 := if l.toggle = 0 then 1 else 2
        let (l1, r1) := hsemRead l first
        let (l2, r2) := hsemRead l1 (3 - first)
        upd fun s => { s with
          hsems := s.hsems.set i.addr { l2 with toggle := 1 - l.toggle }
          answer := if first = 1 then natLe 8 r1 ++ natLe 8 r2 else natLe 8 r2 ++ natLe 8 r1 }
      else do
        enabled (decide (i.who ≤ 2))
        let (l1, r1) := hsemRead l ⟨(i.who + 1) % 4, Nat.mod_lt _ (by decide)⟩
        upd fun s => { s with hsems := s.hsems.set i.addr l1, answer := natLe 8 r1 }
    else exit .idle) s

/-! ## The aperture (R427, R428) -/

/-- Where an aperture offset leads: HBM4 or a pool. -/
def apertureMem (a : Nat) : Bool := onMap a

/-- The host reads n bytes of HBM4 or a pool; those that cannot be read are zeros, and the event is recorded (R381, R453, log 111). -/
def hostRead (a n : Nat) : M Unit := do
  let s ← see id
  let one (k : Nat) : Byte := if codeWord (a + k) ∈ s.poison then 0 else s.byteAt (a + k)
  upd fun s => { s with answer := (List.range n).map one }
  recordBad a (badBytes s a n)

/-- HOST_MEMORY_ACCESS (an allowed read of a lock register is HSEM_TAKE): port `input.who` reads `input.size` bytes at aperture offset `input.addr`, or writes `input.bytes` there with
`input.flag`. Memory accesses stay within a line of 64 bytes and bypass race tags and checks; a register is read here, and written by the
steps above; everything else reads zero and ignores writes (R427, R428). The banker (`input.who` = 2) reaches the register map and HBM4 in the same way, and
the leaf controller of cluster `input.who - 3` its part of the register map (R445). -/
def execHostMemoryAccess (s : State) : Host.Outcome State Fault Refusal :=
  agent (do
    let i ← see (·.input)
    enabled (decide (i.who < 51))
    let a := i.addr
    let n := if i.flag then i.bytes.length else i.size
    if 0xFC00000000 ≤ a ∧ a < 0xFC10000000 then do
      let ok : Bool := decide ((n = 4 ∨ n = 8) ∧ a % n = 0)
      enabled (!i.flag && !(ok && decide (0xFC00010000 ≤ a) && decide (a < 0xFC00010080)))
      if ok then do
        let v ← regRead i.who (a - 0xFC00000000) n
        upd fun s => { s with answer := natLe n v }
      else do
        portError i.who a
        upd fun s => { s with answer := List.replicate n 0 }
    else do
      enabled (decide (1 ≤ n) && decide (a % 64 + n ≤ 64))
      if if i.who < 2 then apertureMem a else i.who == 2 && isHbm a then
        if i.flag then upd fun s => writeCarve s a i.bytes
        else hostRead a n
      else if i.flag then pure ()
      else upd fun s => { s with answer := List.replicate n 0 }) s

/-! ## Debug (R454) -/

/-- A context that the leaf holds for debug. -/
def heldForDebug (t : TileNo) (c : SlotNo) : M Ctx := do
  let x ← getCtx t c
  enabled (x.run == .debug)
  return x

/-- The latches that a held context keeps are those of its trap record, b0 the newest (R376, R378). -/
def heldLatch (x : Ctx) (k : Nat) : Word := ((x.leafTrap.bind fun r => r.latches[k]?).join).getD 0

/-- What a held context shows: a general register, the predicates, a CSR, a modulo register, the next address, a latch, a scale register, or a
relocation register. -/
def debugRead (s : State) (t : TileNo) (c : SlotNo) (x : Ctx) (what k : Nat) : Word :=
  match what with
  | 0 => x.regs.toList[k]?.getD 0
  | 1 => zx (x.preds ||| 1)
  | 2 => csrRead s t c x k
  | 3 => (x.mods.toList[k]?.map (·.base)).getD 0
  | 4 => (x.mods.toList[k]?.map (·.len)).getD 0
  | 7 => heldLatch x k
  | 8 => zx (x.qs.toList[k]?.getD 0)
  | 9 => x.reloc.toList[k]?.getD 0
  | _ => (x.leafTrap.map (·.epc)).getD x.pc

/-- Write a register of a held context. -/
def debugWrite (what k : Nat) (v : Word) (x : Ctx) : Ctx :=
  match what with
  | 0 => if h : k < 48 then x.setReg ⟨k, h⟩ v else x
  | 1 => { x with preds := v.truncate 8 ||| 1 }
  | 2 => csrWriteFw x k v
  | 3 => if h : k < 7 then { x with mods := x.mods.set k { x.mods.get ⟨k, h⟩ with base := v } } else x
  | 4 => if h : k < 7 then { x with mods := x.mods.set k { x.mods.get ⟨k, h⟩ with len := v } } else x
  | 7 => { x with leafTrap := x.leafTrap.map fun r => { r with latches := r.latches.set k (some v) } }
  | 8 => if h : k < 8 then { x with qs := x.qs.set k (v.truncate 16) } else x
  | 9 => if h : k < 16 then { x with reloc := x.reloc.set k v } else x
  | _ => { x with leafTrap := x.leafTrap.map fun r => { r with epc := wordAlign v } }

/-- The bytes of private SRAM of a firmware processor: 4 MiB for the banker, 256 KiB for a leaf (R445). -/
def sramBytes (p : Fin 49) : Nat := if p = 0 then 4194304 else 262144

/-- A register of a firmware processor as it is kept: 32 bits in a leaf (R445). -/
def procWord (p : Fin 49) (v : Word) : Word := if p = 0 then v else v &&& 0xFFFFFFFF

/-- The code of a firmware mode, as its instruction set numbers the modes. -/
def FwMode.code (m : FwMode) : Nat :=
  match m with
  | .user => 0
  | .supervisor => 1
  | .machine => 3

/-- What a firmware processor shows: x register, f register, CSR, pc, mode, or `size` bytes of its SRAM (R445, R454, log 83). -/
def procRead (p : Fin 49) (y : Proc) (what k size : Nat) : List Byte :=
  match what with
  | 0 => natLe 8 (y.x.toList[k]?.getD 0).toNat
  | 1 => natLe 8 (y.f.toList[k]?.getD 0).toNat
  | 2 => natLe 8 (((y.csrs.find? fun (c : Nat × Word) => c.1 == k).map fun (c : Nat × Word) => c.2).getD 0).toNat
  | 3 => natLe 8 y.pc.toNat
  | 4 => natLe 8 y.mode.code
  | _ => if k + size ≤ sramBytes p then cellsRead y.sram k size else List.replicate size 0

/-- Write a register or SRAM of a firmware processor: x0 stays 0, a leaf has neither f registers nor a supervisor mode (R445, log 83). -/
def procWrite (p : Fin 49) (what k size v : Nat) (y : Proc) : Proc :=
  let w := procWord p (BitVec.ofNat 64 v)
  match what with
  | 0 => if h : 0 < k ∧ k < 32 then { y with x := y.x.set k w } else y
  | 1 => if h : k < 32 ∧ p = 0 then { y with f := y.f.set k w } else y
  | 2 => { y with csrs := (if w = 0 then [] else [(k % 4096, w)]) ++ y.csrs.filter (·.1 != k % 4096) }
  | 3 => { y with pc := w }
  | 4 => if v % 4 = 3 then { y with mode := .machine } else if v % 4 = 0 then { y with mode := .user }
    else if v % 4 = 1 ∧ p = 0 then { y with mode := .supervisor } else y
  | _ => if k + size ≤ sramBytes p then { y with sram := cellsWrite y.sram k (natLe size v) } else y

/-- DEBUG_ACCESS (R454, log 83): `input.who` = 0 reaches the register map, with the banker's rights; 1 the firmware processor `nums` 0, register kind
and number `nums` 1 and 2; 2 the held context of tile and slot `nums` 0 and 1, register kind and number `nums` 2 and 3, or with kind 6 lets the
context go on. With `input.flag` it writes, else what it reads is left in `answer`. -/
def execDebugAccess (s : State) : Host.Outcome State Fault Refusal :=
  agent (do
    let i ← see (·.input)
    let f (k : Nat) : Nat := i.nums[k]?.getD 0
    if i.who = 0 then do
      enabled ((i.size == 4 || i.size == 8) && i.addr % i.size == 0)
      if i.flag then regWrite 2 i.addr i.size (i.value % 2 ^ (8 * i.size))
      else do
        let v ← regRead 2 i.addr i.size
        upd fun s => { s with answer := natLe i.size v }
    else if i.who = 1 then
      if h : f 0 < 49 then
        let p : Fin 49 := ⟨f 0, h⟩
        if i.flag then upd fun s => { s with procs := s.procs.set p (procWrite p (f 1) (f 2) i.size i.value (s.procs.get p)) }
        else upd fun s => { s with answer := procRead p (s.procs.get p) (f 1) (f 2) i.size }
      else exit .idle
    else if i.who = 2 then
      if h : f 0 < 384 ∧ f 1 < 2 then do
        let t : TileNo := ⟨f 0, h.1⟩
        let c : SlotNo := ⟨f 1, h.2⟩
        let x ← heldForDebug t c
        if f 2 = 6 then leafResume t c
        else if i.flag then modCtx t c (debugWrite (f 2) (f 3) (BitVec.ofNat 64 i.value))
        else upd fun s => { s with answer := natLe 8 (debugRead s t c x (f 2) (f 3)).toNat }
      else exit .idle
    else exit .idle) s

end Sys2Proof.Machine
end

