-- ==== Sys2Proof/Machine/Ticks.lean ====
section
/-!
DEFINITION. The frame tick and what holds it back (R101, R329), changes of power mode (R23, R430), and the thermal steps and trips
(R452).
-/
namespace Sys2Proof.Machine

/-! ## Frames -/

/-- A pushed record of a timetabled job holds the frame: its RELEASE has come and it is neither SUSPENDED nor RETIRED (R329). -/
def holdsFrame (s : State) (job va : Nat) : Bool :=
  match hwXlate s job va false with
  | none => false
  | some pa => decide (recDw s pa 5 ≤ s.frame.toNat) && recState s pa != 4 && recState s pa != 5

/-- The timetabled jobs that hold back the next tick (R329). -/
def holders (s : State) : List Nat := (s.jobs.filter fun j => j.timed && j.pushed.any (holdsFrame s j.id)).map (·.id)

/-- The tick reads the flags word and RELEASE of every pushed record of a timetabled job; words that it cannot read are recorded (R311, R453). -/
def noteHolders (s : State) : State :=
  (s.jobs.filter (·.timed)).foldl (fun s j => j.pushed.foldl (fun s va =>
    match hwXlate s j.id va false with
    | none => s
    | some pa =>
      let t : TileNo := ⟨j.first % 384, Nat.mod_lt _ (by decide)⟩
      noteBad t j.id (pa + 40) 8 (noteBad t j.id (pa + 16) 8 s)) s) s

/-- Arithmetic cycles of a frame: 1024 dealer cycles (R5, R101). -/
def frameCycles : Nat := 2048

/-- The slower and the faster neighbour of a mode. -/
def PowerMode.slower (m : PowerMode) : PowerMode :=
  match m with
  | .full => .balanced
  | .balanced | .economy => .economy
/-- One mode faster. -/
def PowerMode.faster (m : PowerMode) : PowerMode :=
  match m with
  | .economy => .balanced
  | .balanced | .full => .full
/-- The place of a mode, the slowest first. -/
def PowerMode.rank (m : PowerMode) : Nat :=
  match m with
  | .economy => 0
  | .balanced => 1
  | .full => 2
/-- The slower of two modes. -/
def slowerOf (a b : PowerMode) : PowerMode := if a.rank ≤ b.rank then a else b

/-- Record a thermal event of the die with the hottest reading. -/
def recordThermal (kind : Nat) : M Unit := do
  let s ← see id
  let hot := (List.finRange 8).foldl (fun (b : Fin 8) d => if (s.dies.get b).temp < (s.dies.get d).temp then d else b) 0
  recordPhys kind (0xF8 + hot.val) 0

/-- The sensors report: the hottest junction of each die, then the module's power in 10 W and the coolant flow in 0.1 L/min; without a new
reading they report the last one (R452, R455, log 109). -/
def takeTemps (l : List Nat) (s : State) : State :=
  { s with
    dies := Vector.ofFn fun d => { s.dies.get d with temp := l[d.val]?.getD (s.dies.get d).temp }
    power := l[8]?.getD s.power, flow := l[9]?.getD s.flow }

/-- A junction is above a temperature. -/
def State.above (s : State) (n : Nat) : Bool := s.dies.toList.any fun d => decide (n < d.temp)

/-- The readings of a tick: above 100 degrees a step down is due at the next tick; how long every junction has been below 90 (R452). -/
def noteTemps (s : State) : State :=
  { s with hot := s.above 100, coolAt := if s.above 89 then none else some (s.coolAt.getD s.time) }

/-- Time units of 20 µs. -/
def twentyUs : Nat := 3960000

/-- The banker sets a mode: the clocks stop for a time, at most 20 µs; the units of the shares follow the mode; a change is recorded, and its kind is a
free value, since R451 names none (R23, R420, R430). -/
def applyMode (m : PowerMode) (stop : Nat) : M Unit := do
  let old ← see (·.mode)
  upd settleDies
  upd fun s => { s with mode := m, pend := false, time := s.time + (if m = old then 0 else min stop twentyUs) }
  upd fun s => { s with dies := s.dies.map fun (d : Die) => { d with
    poolHbm := Config.poolUnits m.rank false, poolNet := Config.poolUnits m.rank true } }
  if m = old then pure ()
  else do
    let k ← drawNat
    recordPhys (k % 11) 0xF0 0

/-- THERMAL_STEP_DOWN: the limit falls one mode below the mode in force, and the mode falls with it at this tick (R430, R452). -/
def stepDown : M Unit := do
  upd fun s => { s with limit := s.mode.slower, coolAt := none }
  recordThermal 6
  let s ← see id
  if slowerOf s.req s.limit = s.mode then pure () else applyMode (slowerOf s.req s.limit) s.input.value

/-- A trip is due: a junction is above 110 degrees, or the coolant flows at less than 2.0 L/min (R452). -/
def State.tripDue (s : State) : Bool := s.above 110 || decide (s.flow < 20)

/-- The clocks stop at once, and the trip is recorded (R452). -/
def tripNow : M Unit := do
  upd fun s => { s with tripped := true }
  if ← see fun s => s.above 110 then recordThermal 7 else recordPhys 7 0xF0 0

/-- SLIP: the leaf records the tick that a job held back, with the dealer cycles it was held (R329). -/
def recordSlip (job : Nat) (s : State) : State :=
  let src := ((s.job? job).map (·.first / 8)).getD 0
  s.addErr { cause := Cause.slip.code, phys := false, src, ctx := 0, job, frame := s.frame, addr := 0
             info := BitVec.ofNat 64 ((s.now - s.frameAt - frameCycles) / 2) }

/-- Time units of 0.25 ms. -/
def quarterMs : Nat := 49500000

/-- The period of PER, in time units; 6 and 7 act as 2 (R425). -/
def perUnits (per : Nat) : Nat := quarterMs * 2 ^ (if per < 6 then per else 2)

/-- The periods that a frame tick ends: PER has elapsed since they began (R425). Those that an earlier tick ended are over. -/
def noteBudgets (s : State) : State :=
  let s := (List.finRange 256).foldl (fun s q => s.settleQueue q) s
  { s with queues := s.queues.map fun k =>
      if k.due.isNone && decide (k.began + perUnits k.per ≤ s.time) then { k with due := some (s.now, s.time) } else k }

/-- FRAME advances: at the cycle it was due, or now where it was held back (R101, R329). -/
def advanceFrame (s : State) : State :=
  { s with frame := s.frame + 1, frameT := s.time, slips := [], frameAt := if s.slips.isEmpty then s.frameAt + frameCycles else s.now }

/-- A request for the mode that is in force, or one that LIMIT holds back, waits no longer once a tick has come (R430). -/
def settlePend (s : State) : State := if slowerOf s.req s.limit = s.mode then { s with pend := false } else s

/-- What a tick does when FRAME advances: a step down that is due happens, and the sensors report with `nums`, which may trip the clocks (R101, R329,
R430, R452). -/
def frameTick : M Unit := do
  upd fun s => s.slips.foldl (fun s j => recordSlip j s) s
  upd advanceFrame
  upd noteBudgets
  if ← see (·.hot) then stepDown else pure ()
  upd settlePend
  upd (takeTemps (← see (·.input.nums)))
  upd noteTemps
  if ← see (·.tripDue) then tripNow else pure ()

/-- FRAME_TICK: FRAME advances after 1024 dealer cycles, unless a timetabled record holds it back, which is recorded when it advances (R101, R329). -/
def execFrameTick (s : State) : Host.Outcome State Fault Refusal :=
  agent (do
    enabled (← see fun s => decide (s.frameAt + frameCycles ≤ s.now))
    let hs ← see holders
    upd noteHolders
    if hs ≠ [] then upd fun s => { s with slips := (s.slips ++ hs).dedup } else frameTick) s

/-! ## Power modes -/

/-- POWER_MODE_CHANGE: at the tick that has just come the banker applies the slower of REQ and LIMIT; the clocks stop for `input.value`
time units, at most 20 µs (R23, R430). -/
def execPowerModeChange (s : State) : Host.Outcome State Fault Refusal :=
  agent (do
    let s ← see id
    let m := slowerOf s.req s.limit
    enabled (s.ready && s.frameT == s.time && m != s.mode && decide (s.input.value ≤ twentyUs))
    applyMode m s.input.value) s

/-! ## Heat (R452) -/

/-- Time units of one second. -/
def oneSecond : Nat := 198000000000

/-- THERMAL_STEP_UP: every junction has been below 90 degrees for a second after a step down; the limit rises one mode, and a change
waits where the request is faster than the mode in force (R430, R452). -/
def execThermalStepUp (s : State) : Host.Outcome State Fault Refusal :=
  agent (do
    let s ← see id
    let t ← present s.coolAt
    enabled (s.limit != .full && decide (t + oneSecond ≤ s.time))
    upd fun s => { s with limit := s.limit.faster, pend := s.pend || slowerOf s.req s.limit.faster != s.mode, coolAt := some s.time }
    recordThermal 6) s

/-- THERMAL_TRIP: between two ticks a reading in `nums` is above 110 degrees, or the coolant flow in `value`, in 0.1 L/min, is below 2.0 L/min: the
clocks stop at once (R452). -/
def execThermalTrip (s : State) : Host.Outcome State Fault Refusal :=
  agent (do
    let i ← see (·.input)
    upd (takeTemps i.nums)
    upd fun s => { s with flow := i.value }
    enabled (← see (·.tripDue))
    tripNow) s

end Sys2Proof.Machine
end

