-- ==== Sys2Proof/Machine/Bringup.lean ====
section
/-!
DEFINITION. Resets (R449), the bring-up (R450), firmware images (R447), and the errors that HBM4 finds by itself (R453).
-/
namespace Sys2Proof.Machine

/-! ## Resets -/

/-- The cells of HBM4. -/
def hbmCells (m : List Host.Cell) : List Host.Cell := m.filter fun c => isHbm c.1

/-- The memory of the host behind its ports, which no reset of the module touches. -/
def hostCells (m : List Host.Cell) : List Host.Cell := m.filter fun c => decide (2 ^ 64 ≤ c.1)

/-- What HBM4 holds after a cold reset, in canonical form (R449, log 3). -/
def coldCells (n : Nat) (host : List Host.Cell) : List Host.Cell :=
  (Config.coldHbm n).foldl (fun m c => cellSet m (c.1 % hbmEnd) c.2) host

/-- Cold reset: every register, pool, tag, table and queue at its reset value, HBM4 undefined (R449). The fuses are burnt for good, and the
model's own fields go on. -/
def coldReset (s : State) : State :=
  { State.reset with agenda := s.agenda, free := s.free + 1, fuses := s.fuses, mem := coldCells s.free (hostCells s.mem) }

/-- Warm reset: as cold, except that HBM4, with what its save areas and its carve-outs hold, the error records and counters are kept (R449, log
113). -/
def warmReset (s : State) : State :=
  { State.reset with
    agenda := s.agenda, free := s.free, fuses := s.fuses, mem := s.mem.filter fun c => isHbm c.1 || decide (2 ^ 64 ≤ c.1)
    carve := s.carve, tags := s.tags.filter fun g => isHbm (256 * g.1)
    poison := s.poison.filter isHbm, forms := s.forms, errRing := s.errRing, lostRec := s.lostRec, errCount := s.errCount, counters := s.counters }

/-- COLD_RESET (R449). -/
def execColdReset (s : State) : Host.Outcome State Fault Refusal := agent (upd coldReset) s
/-- WARM_RESET, by the banker or after a request for it (R449, R430). -/
def execWarmReset (s : State) : Host.Outcome State Fault Refusal := agent (upd warmReset) s

/-- What a register of the management interface reads (R455); RESET and the numbers it does not list read zero. -/
def mgmtReg (s : State) (n : Nat) : Nat :=
  if n = 0 then 0x7400
  else if n = 1 then statusWord s
  else if h : 0x10 ≤ n ∧ n < 0x18 then (s.dies.get ⟨n - 0x10, by omega⟩).temp
  else if n = 0x20 then s.power
  else if n = 0x21 then s.flow
  else 0

/-- MANAGEMENT_RESET: an access through the management interface, which needs no clock of the module. A write of its RESET register, in which bit 0 of
`input.value` chooses cold or warm; or with `input.flag` a read of register `input.addr`, left in `answer` (R455, R449). -/
def execManagementReset (s : State) : Host.Outcome State Fault Refusal :=
  agent (do
    let i ← see (·.input)
    if i.flag then upd fun s => { s with answer := natLe 8 (mgmtReg s i.addr) }
    else upd (if i.value % 2 = 1 then coldReset else warmReset)) s

/-- A port gives up a lock. -/
def freeLock (p : Nat) (l : HsemLock) : HsemLock := if l.owner.val = p + 1 then { l with owner := 0 } else l

/-- PORT_RESET of Fernen port `input.who`: its flits are dropped and its locks released, each of which the banker records (R449, R431). -/
def execPortReset (s : State) : Host.Outcome State Fault Refusal :=
  agent (do
    let p ← see (·.input.who)
    if h : p < 2 then do
      let held ← see fun s => (List.finRange 16).filter fun l => (s.hsems.get l).owner.val == p + 1
      upd fun s => { s with ports := s.ports.set (16 + p) {}, hsems := s.hsems.map (freeLock p) }
      held.forM fun l => recordPhys 9 (fernenSrc p) l.val
    else exit .idle) s

/-! ## Firmware images (R447) -/

/-- The body of an image: as many bytes behind the header and the signature as the header says (R447, log 18). -/
def imageBody (img : List Byte) : List Byte := (img.drop 320).take (Config.imageLength img)

/-- The body has the digest of the header (R447). -/
def digestOk (img : List Byte) : Bool := sha256Fn.digest (imageBody img) == (img.drop (Config.imageDigestAt % 225)).take 32

/-- The signature of 64 bytes behind the header of 256 verifies over the header under a key (R447). -/
def sigValid (key : Nat) (img : List Byte) : Bool := edVerify Config.edEightfold key (img.take 256) ((img.drop 256).take 64)

/-- The ROM accepts an image: its signature verifies under a fused key that is not revoked, and its body has its digest (R447, log 18). -/
def imageOk (s : State) (img : List Byte) : Bool :=
  decide (320 ≤ img.length) && digestOk img && s.fuses.toList.any fun f => !f.revoked && sigValid f.key img

/-- A processor with an accepted image: the body stands at the load address of its SRAM, and the processor starts at the entry address in machine mode
(R445, R447, log 18). -/
def startProc (p : Fin 49) (img : List Byte) : Proc :=
  let body := imageBody img
  { started := true, pc := BitVec.ofNat 64 (Config.imageEntry img)
    sram := cellsWrite [] (Config.imageLoad img % sramBytes p) (body.take (sramBytes p - Config.imageLoad img % sramBytes p)) }

/-- Start a processor with an image for it, or record that the image failed (R447). -/
def loadProc (p : Fin 49) (img : List Byte) : M Unit := do
  if (← see fun s => imageOk s img) && (Config.imageTarget img % 2 == 0) == (p == 0)
  then upd fun s => { s with procs := s.procs.set p (startProc p img) }
  else recordPhys 8 0xF0 0

/-- FIRMWARE_IMAGE_LOAD: the holder of lock 4 loads the image of `input.size` bytes that stands in the loader region at offset `input.addr`; its header
names the banker, or a leaf, which is that of cluster `input.value`. One that fails its check is not started and is recorded (R447). -/
def execFirmwareImageLoad (s : State) : Host.Outcome State Fault Refusal :=
  agent (do
    let i ← see (·.input)
    enabled (decide (i.who ≤ 2) && decide (i.addr + i.size ≤ 67108864))
    enabled (← see fun s => (s.hsems.get 4).owner.val == i.who + 1)
    let img ← see fun s => cellsRead s.mem (mailAt i.addr) i.size
    if Config.imageTarget img % 2 = 0 then loadProc 0 img
    else if h : i.value < 48 then loadProc ⟨1 + i.value, by omega⟩ img
    else exit .idle) s

/-! ## Bring-up (R450) -/

/-- BANKER_BOOT, step 2: the boot ROM checks the banker image of the boot flash in `bytes`; one that fails halts the boot and is reported
(R447, R450). -/
def execBankerBoot (s : State) : Host.Outcome State Fault Refusal :=
  agent (do
    enabled (← see fun s => s.boot == 0 && !s.bootFail)
    let img ← see (·.input.bytes)
    if (← see fun s => imageOk s img) && Config.imageTarget img % 2 == 0 then upd fun s => { s with boot := 2, procs := s.procs.set 0 (startProc 0 img) }
    else do
      upd fun s => { s with bootFail := true }
      recordPhys 8 0xF0 0) s

/-- HBM_TRAINING, step 3: the stacks in `nums` fail and are fenced, each recorded (R450). -/
def execHbmTraining (s : State) : Host.Outcome State Fault Refusal :=
  agent (do
    enabled (← see fun s => s.boot == 2)
    let bad ← see fun s => (s.input.nums.filter (· < 16)).dedup
    bad.forM fun k => recordPhys 5 (0xE0 + k) 0
    upd fun s => { s with boot := 3, fenced := bad }) s

/-- Step 4: pools zeroed, with words that could not be read; tags and epochs at their reset values (R450, log 39). -/
def clearPools (s : State) : State :=
  { s with
    mem := s.mem.filter fun c => isHbm c.1 || decide (mailAt 0 ≤ c.1), poison := s.poison.filter isHbm, tags := []
    tiles := s.tiles.map fun t => { t with ep := 0, fr := [], ring := [] } }

/-- The route table of the event: for each entry the domain number and its ports, as device · 16 + port (R395). -/
def routesOf (l : List Nat) : List (Nat × List Nat) :=
  ((l.map (· / 16 % 128)).dedup).map fun d => (d, (l.filter fun n => n / 16 % 128 == d).map (· % 16))

/-- LEAF_BOOT, steps 4 and 5: pools cleared, the leaf image in `bytes` loaded and checked, the domain number `value` and the routes
`nums` set, the links trained. A leaf image that fails is not started and is recorded (R447, R450). -/
def execLeafBoot (s : State) : Host.Outcome State Fault Refusal :=
  agent (do
    enabled (← see fun s => s.boot == 3)
    let i ← see (·.input)
    upd clearPools
    (List.finRange 48).forM fun c => loadProc c.succ i.bytes
    upd fun s => { s with boot := 5, domain := i.value % 128, routes := routesOf i.nums, ports := Vector.replicate 18 {} }) s

/-- BRINGUP_READY, step 6: at a frame tick REQ := 0, the fastest mode that LIMIT allows is set as by a change, and READY (R23, R450, R430). The tick has just come, or comes with this
step: nothing holds it back, since no queue has been served yet. Where the readings of the tick trip the clocks, the bring-up ends there (R452). -/
def execBringupReady (s : State) : Host.Outcome State Fault Refusal :=
  agent (do
    enabled (← see fun s => s.boot == 5)
    let due ← see fun s => decide (s.frameAt + frameCycles ≤ s.now)
    enabled (due || (← see fun s => s.frame != 0 && s.frameT == s.time))
    if due then frameTick else pure ()
    if ← see (·.tripped) then pure ()
    else do
      upd fun s => { s with boot := 6, ready := true, req := .full }
      applyMode (slowerOf .full (← see (·.limit))) (← see (·.input.value))) s

/-! ## Scrubbing (R453) -/

/-- The stack of an address as an error source. -/
def stackNo (pa : Nat) : Fin 34 := ⟨stackOf pa, by unfold stackOf; omega⟩

/-- The doubleword at an address of the data cache of a tile, or with `code` of its instruction cache, cannot be read (R381). A data cache holds such
a word in a line that it holds. -/
def markCache (code : Bool) (pa : Nat) (x : Tile) : Tile :=
  if code then { x with ibad := pa / 8 * 8 :: x.ibad.filter (· != pa / 8 * 8) }
  else { x with dcache := x.dcache.map fun l =>
    if l.base == pa / 64 * 64 && !l.bad.contains (pa % 64 / 8) then { l with bad := pa % 64 / 8 :: l.bad } else l }

/-- ERROR_CHECK_AND_SCRUB finds an error in the code word at `input.addr`: with `input.flag` it cannot be corrected, and the word is
unreadable; a corrected one changes no data (R453, R381). In HBM4 the stack counts and records it (R451); in a pool or in a store of a tile, whose
banks carry ECC, an uncorrectable word is recorded when an access meets it (R130, R381). With `input.size` 1 or 2 the word is the copy of `input.addr`
in the data cache or the instruction cache of tile `input.who`. -/
def execErrorCheckAndScrub (s : State) : Host.Outcome State Fault Refusal :=
  agent (do
    let i ← see (·.input)
    if i.size = 1 ∨ i.size = 2 then
      if h : i.who < 384 then upd fun s => if i.flag then s.setTile ⟨i.who, h⟩ (markCache (i.size == 2) i.addr (s.tile ⟨i.who, h⟩)) else s
      else exit .idle
    else do
    enabled (decide (i.addr < mailAt 0))
    let k := stackNo i.addr
    let w := codeWord i.addr
    if i.flag then upd fun s => { s with poison := if s.poison.contains w then s.poison else w :: s.poison } else pure ()
    if isHbm i.addr then do
      upd (bumpCounter k (if i.flag then 1 else 0))
      recordPhys (if i.flag then 1 else 0) (0xE0 + k.val) (if i.flag then w else i.addr)
    else pure ()) s

end Sys2Proof.Machine
end

