-- ==== Sys2Proof/Machine/Flags.lean ====
section
/-!
DEFINITION. The flags of a dealer: the predicates. The conditions of the compares (R47, R114) and the predicate-write modes
(R114, R115).
-/
namespace Sys2Proof.Machine

/-- The conditions of R114. -/
inductive Cond | eq | ne | lt | ge | ltu | geu | ts | tc
  deriving DecidableEq, Repr

/-- A condition of two operands (R114). -/
def condHolds (k : Cond) (a b : Word) : Bool :=
  match k with
  | .eq => a == b
  | .ne => a != b
  | .lt => a.slt b
  | .ge => !a.slt b
  | .ltu => a.ult b
  | .geu => !a.ult b
  | .ts => (a &&& b) != 0
  | .tc => (a &&& b) == 0

/-- Write pd1, then pd2 (R115). -/
def setPreds (x : Ctx) (p q : Fin 8) (v w : Bool) : Ctx := (x.setPred p v).setPred q w

/-- The predicates after a compare whose guard reads true and whose condition is c (R114). Both results are formed from the
predicates as they stood (R115). -/
def cmpWrite (ct : CmpMode) (p q : Fin 8) (c : Bool) (x : Ctx) : Ctx :=
  let a := x.pred p
  let b := x.pred q
  match ct with
  | .plain | .z => setPreds x p q c (!c)
  | .all => setPreds x p q (a && c) (b && !c)
  | .any => setPreds x p q (a || c) (b || !c)
  | .xor => setPreds x p q (a ^^ c) (b ^^ !c)
  | .hit => if c then x.setPred p true else x.setPred q true
  | .mix => setPreds x p q (a && c) (b || c)

/-- The predicates after a compare whose guard reads false: only .Z writes, and it writes false to both (R114). -/
def cmpFalse (ct : CmpMode) (p q : Fin 8) (x : Ctx) : Ctx :=
  match ct with
  | .z => setPreds x p q false false
  | .plain | .all | .any | .xor | .hit | .mix => x

end Sys2Proof.Machine
end

