-- ==== Sys2Proof/Machine/Control.lean ====
section
/-!
DEFINITION. The compares of majors 0x0C to 0x0F (R114, R115), predicate logic (R116), branches and jumps (R117, R118), LOOP
(R119), and NOP.
-/
namespace Sys2Proof.Machine

/-- A compare. Its guard is judged inside the effect, since .Z writes under a false guard too (R114); the operands are read only
under a true one (R40). -/
def compare (g : Fin 8) (ct : CmpMode) (p q : Fin 8) (k : Cond) (operands : M (Word × Word)) (s : State) :
    Host.Outcome State Fault Refusal :=
  dealer ⟨0, false⟩ (do
    let x ← myCtx
    if x.pred g then do
      let (a, b) ← operands
      modMe (cmpWrite ct p q (condHolds k a b))
    else modMe (cmpFalse ct p q)
    return {}) s

/-- The two register operands. -/
def cmpRegs (a c : Src) : M (Word × Word) := do
  let av ← readA a
  let cv ← readC c av
  return (av, cv)

/-- A register operand and an immediate. -/
def cmpImm (a : Src) (v : Word) : M (Word × Word) := do
  let av ← readA a
  return (av, v)

/-- CMPEQ (R114). -/
def execCmpeq (g : Fin 8) (ct : CmpMode) (pd1 pd2 : Fin 8) (a c : Src) (s : State) : Host.Outcome State Fault Refusal :=
  compare g ct pd1 pd2 .eq (cmpRegs a c) s

/-- CMPNE (R114). -/
def execCmpne (g : Fin 8) (ct : CmpMode) (pd1 pd2 : Fin 8) (a c : Src) (s : State) : Host.Outcome State Fault Refusal :=
  compare g ct pd1 pd2 .ne (cmpRegs a c) s

/-- CMPLT (R114). -/
def execCmplt (g : Fin 8) (ct : CmpMode) (pd1 pd2 : Fin 8) (a c : Src) (s : State) : Host.Outcome State Fault Refusal :=
  compare g ct pd1 pd2 .lt (cmpRegs a c) s

/-- CMPGE (R114). -/
def execCmpge (g : Fin 8) (ct : CmpMode) (pd1 pd2 : Fin 8) (a c : Src) (s : State) : Host.Outcome State Fault Refusal :=
  compare g ct pd1 pd2 .ge (cmpRegs a c) s

/-- CMPLTU (R114). -/
def execCmpltu (g : Fin 8) (ct : CmpMode) (pd1 pd2 : Fin 8) (a c : Src) (s : State) : Host.Outcome State Fault Refusal :=
  compare g ct pd1 pd2 .ltu (cmpRegs a c) s

/-- CMPGEU (R114). -/
def execCmpgeu (g : Fin 8) (ct : CmpMode) (pd1 pd2 : Fin 8) (a c : Src) (s : State) : Host.Outcome State Fault Refusal :=
  compare g ct pd1 pd2 .geu (cmpRegs a c) s

/-- CMPTS (R114). -/
def execCmpts (g : Fin 8) (ct : CmpMode) (pd1 pd2 : Fin 8) (a c : Src) (s : State) : Host.Outcome State Fault Refusal :=
  compare g ct pd1 pd2 .ts (cmpRegs a c) s

/-- CMPTC (R114). -/
def execCmptc (g : Fin 8) (ct : CmpMode) (pd1 pd2 : Fin 8) (a c : Src) (s : State) : Host.Outcome State Fault Refusal :=
  compare g ct pd1 pd2 .tc (cmpRegs a c) s

/-- CMPEQI: the immediate is sign-extended (R47, R114). -/
def execCmpeqi (g : Fin 8) (ct : CmpMode) (pd1 pd2 : Fin 8) (a : Src) (imm : BitVec 6) (s : State) :
    Host.Outcome State Fault Refusal :=
  compare g ct pd1 pd2 .eq (cmpImm a (sx imm)) s

/-- CMPNEI: the immediate is sign-extended (R47, R114). -/
def execCmpnei (g : Fin 8) (ct : CmpMode) (pd1 pd2 : Fin 8) (a : Src) (imm : BitVec 6) (s : State) :
    Host.Outcome State Fault Refusal :=
  compare g ct pd1 pd2 .ne (cmpImm a (sx imm)) s

/-- CMPLTI: the immediate is sign-extended (R47, R114). -/
def execCmplti (g : Fin 8) (ct : CmpMode) (pd1 pd2 : Fin 8) (a : Src) (imm : BitVec 6) (s : State) :
    Host.Outcome State Fault Refusal :=
  compare g ct pd1 pd2 .lt (cmpImm a (sx imm)) s

/-- CMPGEI: the immediate is sign-extended (R47, R114). -/
def execCmpgei (g : Fin 8) (ct : CmpMode) (pd1 pd2 : Fin 8) (a : Src) (imm : BitVec 6) (s : State) :
    Host.Outcome State Fault Refusal :=
  compare g ct pd1 pd2 .ge (cmpImm a (sx imm)) s

/-- CMPLTUI: the immediate is zero-extended (R47, R114). -/
def execCmpltui (g : Fin 8) (ct : CmpMode) (pd1 pd2 : Fin 8) (a : Src) (imm : BitVec 6) (s : State) :
    Host.Outcome State Fault Refusal :=
  compare g ct pd1 pd2 .ltu (cmpImm a (zx imm)) s

/-- CMPGEUI: the immediate is zero-extended (R47, R114). -/
def execCmpgeui (g : Fin 8) (ct : CmpMode) (pd1 pd2 : Fin 8) (a : Src) (imm : BitVec 6) (s : State) :
    Host.Outcome State Fault Refusal :=
  compare g ct pd1 pd2 .geu (cmpImm a (zx imm)) s

/-- CMPTSI: the immediate is zero-extended (R47, R114). -/
def execCmptsi (g : Fin 8) (ct : CmpMode) (pd1 pd2 : Fin 8) (a : Src) (imm : BitVec 6) (s : State) :
    Host.Outcome State Fault Refusal :=
  compare g ct pd1 pd2 .ts (cmpImm a (zx imm)) s

/-- CMPTCI: the immediate is zero-extended (R47, R114). -/
def execCmptci (g : Fin 8) (ct : CmpMode) (pd1 pd2 : Fin 8) (a : Src) (imm : BitVec 6) (s : State) :
    Host.Outcome State Fault Refusal :=
  compare g ct pd1 pd2 .tc (cmpImm a (zx imm)) s

/-- PAND (R116). -/
def execPand (h : Hd) (pd pa pc : Fin 8) (s : State) : Host.Outcome State Fault Refusal :=
  dealer h (do
    modMe fun x => x.setPred pd (x.pred pa && x.pred pc)
    return {}) s

/-- POR (R116). -/
def execPor (h : Hd) (pd pa pc : Fin 8) (s : State) : Host.Outcome State Fault Refusal :=
  dealer h (do
    modMe fun x => x.setPred pd (x.pred pa || x.pred pc)
    return {}) s

/-- PXOR (R116). -/
def execPxor (h : Hd) (pd pa pc : Fin 8) (s : State) : Host.Outcome State Fault Refusal :=
  dealer h (do
    modMe fun x => x.setPred pd (x.pred pa ^^ x.pred pc)
    return {}) s

/-- PANDN (R116). -/
def execPandn (h : Hd) (pd pa pc : Fin 8) (s : State) : Host.Outcome State Fault Refusal :=
  dealer h (do
    modMe fun x => x.setPred pd (x.pred pa && !x.pred pc)
    return {}) s

/-- PNOT (R116). -/
def execPnot (h : Hd) (pd pa : Fin 8) (s : State) : Host.Outcome State Fault Refusal :=
  dealer h (do
    modMe fun x => x.setPred pd (!x.pred pa)
    return {}) s

/-- PGET: bit 0 is p0, which reads true (R116). -/
def execPget (h : Hd) (d : Dst) (s : State) : Host.Outcome State Fault Refusal :=
  dealer h (do op0 d (zx ((← myCtx).preds ||| 1))) s

/-- PPUT: predicate i takes bit i of a where bit i of c is set (R116). -/
def execPput (h : Hd) (a c : Src) (s : State) : Host.Outcome State Fault Refusal :=
  dealer h (do
    let av ← readA a
    let cv ← readC c av
    modMe fun x => (List.finRange 8).foldl
      (fun (y : Ctx) (i : Fin 8) => if cv.getLsbD i.val then y.setPred i (av.getLsbD i.val) else y) x
    return {}) s

/-- The target of a format B branch (R48). -/
def branchTarget (x : Ctx) (disp : BitVec 23) : Word := x.pc + (sx disp <<< 2)

/-- BR (R117). -/
def execBr (g : Fin 8) (disp : BitVec 23) (s : State) : Host.Outcome State Fault Refusal :=
  dealer ⟨g, false⟩ (do
    let x ← myCtx
    return { ctl := .jump (branchTarget x disp) }) s (ends := true)

/-- BRL: g47 takes the address after the branch (R117). -/
def execBrl (g : Fin 8) (disp : BitVec 23) (s : State) : Host.Outcome State Fault Refusal :=
  dealer ⟨g, false⟩ (do
    let x ← myCtx
    modMe (·.setReg 47 (x.pc + 4))
    return { ctl := .jump (branchTarget x disp) }) s (ends := true)

/-- A jump target must be a multiple of 4 (R118). -/
def jumpCheck (tgt : Word) : M Unit := check (tgt.toNat % 4 == 0) .misalignedFetch tgt

/-- JR (R117, R118). -/
def execJr (h : Hd) (a : Src) (s : State) : Host.Outcome State Fault Refusal :=
  dealer h (do
    let tgt ← readA a
    jumpCheck tgt
    return { ctl := .jump tgt }) s (ends := true)

/-- JRL: the target is read before the link is written (R117, R118). -/
def execJrl (h : Hd) (d : Fin 48) (a : Src) (s : State) : Host.Outcome State Fault Refusal :=
  dealer h (do
    let tgt ← readA a
    jumpCheck tgt
    let x ← myCtx
    modMe (·.setReg d (x.pc + 4))
    return { val := some (x.pc + 4), ctl := .jump tgt }) s (ends := true)

/-- RET (R117, R118). -/
def execRet (h : Hd) (s : State) : Host.Outcome State Fault Refusal :=
  dealer h (do
    let x ← myCtx
    jumpCheck (x.regs.get 47)
    return { ctl := .jump (x.regs.get 47) }) s (ends := true)

/-- Start a level, or skip the body where the count is 0 (R119). -/
def loopStart (x : Ctx) (L : Fin 2) (count last : Word) : Ctx × Ctl :=
  if count = 0 then (x, .jump (last + 4))
  else ({ x with loops := x.loops.set L ⟨count, x.pc + 4, last, true⟩ }, .fall)

/-- LOOP (R119): the nesting checks come before the count is examined. -/
def execLoop (h : Hd) (a : Src) (last : BitVec 9) (s : State) : Host.Outcome State Fault Refusal :=
  dealer h (do
    let count ← readA a
    let x ← myCtx
    let l0 := x.loops.get 0
    let l1 := x.loops.get 1
    let last := x.pc + (zx last <<< 2)
    check (!l1.act) .loopNest count
    check (!l0.act || (decide (l0.ls.toNat ≤ x.pc.toNat) && decide (last.toNat < l0.le.toNat))) .loopNest count
    let (y, ctl) := loopStart x (if l0.act then 1 else 0) count last
    modMe fun _ => y
    return { ctl }) s (ends := true)

/-- NOP (R51). -/
def execNop (h : Hd) (s : State) : Host.Outcome State Fault Refusal :=
  dealer h (pure {}) s

end Sys2Proof.Machine
end

