-- ==== Sys2Proof/Machine/Ending.lean ====
section
/-!
DEFINITION. END (R335), CANCEL (R336), and how a cancelled job is completed (R327).
-/
namespace Sys2Proof.Machine

/-- END: the DRAIN it implies with its faults, then the context ends with CAUSE 0 (R335); in a cancelled job it ends here with CAUSE
0x36 (R327). While blocks are left it waits, and DRAIN_COMPLETE ends the context. -/
def execEndRec (h : Hd) (s : State) : Host.Outcome State Fault Refusal :=
  dealer h (owning do
    let (t, c) ← me
    let x ← getCtx t c
    if ← see fun s => s.cancelled (clOf t) x.job then cancelHere t c
    else do
      drainStart
      let x ← getCtx t c
      if ← see fun s => drained s x then do
        drainAcquire t
        upd fun s => s.charge t c 8 1
        upd (retireCtx t c 0)
        return { ctl := .leave }
      else waitFor .endDrain) s (ends := true)

/-- CANCEL: the flag of its own cluster at once, the others in the steps of CANCEL_FLAGS_SET; it completes once all of them stand (R336). -/
def execCancel (h : Hd) (a : Src) (s : State) : Host.Outcome State Fault Refusal :=
  dealer h (do
    let v ← readA a
    let (t, c) ← me
    let x ← getCtx t c
    check (v.toNat == x.job) .priv v
    upd (setCancel x.job (clOf t))
    if ← see fun s => s.cancelledAll x.job then return {}
    else waitFor (.cancel x.job)) s (ends := true)

/-- CANCEL_FLAGS_SET: the flag reaches the clusters that the step's data names, or all that are left; once all 48 tables hold it the
waiting CANCEL completes (R336). -/
def execCancelFlagsSet (t : TileNo) (c : SlotNo) (s : State) : Host.Outcome State Fault Refusal :=
  agent (do
    let x ← getCtx t c
    let w ← present x.wait
    match w.kind with
    | .cancel job => do
      let ks ← see (·.input.nums)
      upd fun s => (List.finRange 48).foldl (fun s k => if ks.isEmpty || ks.contains k.val then setCancel job k s else s) s
      if ← see fun s => s.cancelledAll job && (s.tile t).cur == c then finishWait t c w {} else pure ()
    | _ => exit .idle) s

/-- No record of the job is QUEUED or RUNNING: its decks and its places in the overflow queues are empty, and its contexts are
suspended (R327). -/
def State.jobQuiet (s : State) (job : Nat) : Bool :=
  (s.tiles.toList.all fun t =>
    (t.padJob != some job || ((List.finRange 4).all fun n => deckLen t n == 0)) &&
    t.slots.toList.all fun o => o.all fun x => x.job != job || x.run == .held) &&
  (s.clusters.toList.all fun k =>
    (k.overflow.toList.all fun q => q.all fun e => e.1 != job) && k.pushes.all fun e => e.1 != job) &&
  s.saved.all fun e => e.job != job || e.kind != .preempted

/-- Free the contexts of a job that are suspended, resident or saved (R327). -/
def freeContexts (job : Nat) (s : State) : State :=
  let s := (List.finRange 384).foldl (fun s t => ([0, 1] : List SlotNo).foldl (fun s c =>
    match s.ctx? t c with
    | some x => if x.job = job then (releaseCtx t x s).emptySlot t c else s
    | none => s) s) s
  let s := s.saved.foldl (fun s e => if e.job = job then releaseCtx e.tile e.ctx (unbindSaved e s) else s) s
  { s with saved := s.saved.filter (·.job != job) }

/-- JOB_CANCEL_COMPLETE: the banker completes every grid of a cancelled job with the cancelled status (R327, R436). -/
def execJobCancelComplete (job : Nat) (s : State) : Host.Outcome State Fault Refusal :=
  agent (do
    enabled (← see fun s => (s.job? job).isSome && s.cancelledAll job && s.jobQuiet job)
    upd (freeContexts job)
    let gs ← see fun s => s.queues.toList.flatMap fun q => q.started.filterMap fun p =>
      if p.status.isNone then p.grid.filter (·.1 == job) else none
    upd fun s => endJob job (gs.foldl (fun s g => gridDone job g.2 (some 2) s) s)) s

end Sys2Proof.Machine
end

