-- ==== Sys2Proof/Machine/Enqueue.lean ====
section
/-!
DEFINITION. ENQ: a program places a packet in a device-side queue (R332, R433, R327), and the parent of the grid that it launches
(R317).
-/
namespace Sys2Proof.Machine

/-- Where the packet of an ENQ lies (R332): its address checks, with OUT_OF_POOL in place of the page checks in the scratchpad. -/
def enqPlace (t : TileNo) (x : Ctx) (a : Word) : M Nat := do
  if spaceOf a = 8 then do
    check (a.toNat % 64 == 0) .misalignedData a
    let o := offOf a
    check (decide (o + 64 ≤ padBytes x.partw)) .outOfPool a
    check (!hitsDeck (← see (·.tile t)) o 64) .outOfPool a
    return spAt t o
  else operandPlace t x a 64 false

/-- The queue is open to a job (R332, R433). -/
def openTo (k : Queue) (job : Nat) : Bool := k.job == job && (k.space == 2 || k.space == 3) && k.logsz != 0

/-- The queue holds SIZE entries that have not been taken. -/
def queueFull (k : Queue) : Bool := decide (k.size ≤ (k.tail + 4294967296 - k.head) % 4294967296)

/-- The packet starts a grid: it is a LAUNCH or an INVOKE (R317). -/
def startsGrid (bs : List Byte) : Bool := (bs.headD 0).toNat == 1 || (bs.headD 0).toNat == 2

/-- ENQ reads its packet, as its dealer's read (R332, R347, R418), and for a LAUNCH or INVOKE PARENT of the running record, as an atomic of the
hardware (R311, R317). -/
def enqFetch (t : TileNo) (c : SlotNo) (x : Ctx) (a : Word) (k : Nat) : M (List Byte) := do
  noteRead t c k 64
  if isPhys k then meterPa t k 64 else pure ()
  let bs ← eccRead t c x a k 64
  if startsGrid bs then ownParent t c x else pure ()
  return bs

/-- The request of ENQ's write to the entry of a queue: one of 64 bytes, which leaves the die through a host port or as it lies (R418). -/
def enqEntry (t : TileNo) (k : Queue) (s : State) : State :=
  if k.space < 2 then s.request 0 (unitsOf 64)
  else match queueAt s k (k.entry k.tail) true with
    | some pa => s.request (unitsAt t pa 64).1 (unitsAt t pa 64).2
    | none => s

/-- The request of a grid word whose OUT rises (R317, R418). -/
def gridReq (t : TileNo) (job va : Nat) (s : State) : State :=
  match hwXlate s job va true with
  | some pa => s.request (unitsAt t pa 8).1 (unitsAt t pa 8).2
  | none => s

/-- Copy a packet to the tail of a queue and advance TAIL (R433); the entry of a LAUNCH or INVOKE is noted with the grid of the running
record, whose OUT rises (R317). A tail that leads nowhere takes no bytes: the front end then cannot read it either. -/
def enqueue (t : TileNo) (x : Ctx) (q : Fin 256) (bs : List Byte) (s : State) : State :=
  let k := s.queue q
  let s := enqEntry t k s
  let s := match writeVia (queueAt s k · true) (k.entry k.tail) bs s with
    | some s' => s'
    | none => s
  let parent := if startsGrid bs then ((runningRec s x).map (recParent s)).getD 0 else 0
  let s := if parent = 0 then s else gridUp t x.job parent (gridReq t x.job parent s)
  s.modQueue q fun k => { k with
    tail := (k.tail + 1) % 4294967296
    parents := if parent = 0 then k.parents else (k.tail, parent) :: k.parents.filter (·.1 != k.tail) }

/-- ENQ (R332): the checks, the release, and the packet, or the wait for room; a cancelled job's ENQ is dropped (R327). -/
def execEnq (h : Hd) (a c : Src) (s : State) : Host.Outcome State Fault Refusal :=
  dealer h (owningArea do
    let v ← readA a
    let w ← readC c v
    let (t, i) ← me
    let x ← getCtx t i
    if hq : w.toNat < 256 then do
      let q : Fin 256 := ⟨w.toNat, hq⟩
      let pa ← enqPlace t x v
      check (openTo (← see (·.queue q)) x.job) .priv v
      let _ ← release t .dev
      if ← see fun s => s.cancelled (clOf t) x.job then return {}
      else if queueFull (← see (·.queue q)) then waitFor (.enq (BitVec.ofNat 64 pa) w)
      else do
        let bs ← enqFetch t i x v pa
        upd (enqueue t x q bs)
        return {}
    else trap .reservedField v) s (ends := true)

/-- ENQ_QUEUE_ROOM: the queue that a waiting ENQ names has room; the packet is copied as it then stands, and the ENQ is dropped where
the job has been cancelled (R332, R327). Where the copy would fault, the ENQ starts again and takes the fault (R381). -/
def execEnqQueueRoom (t : TileNo) (c : SlotNo) (s : State) : Host.Outcome State Fault Refusal :=
  agent (do
    let x ← getCtx t c
    let w ← present x.wait
    match w.kind with
    | .enq pa q =>
      if ← see fun s => s.cancelled (clOf t) x.job then finishWait t c w {}
      else do
        let q ← queueNo q.toNat
        enabled (!queueFull (← see (·.queue q)))
        onDealer t c
        let s ← see id
        match enqFetch t c x x.pc pa.toNat s with
        | .error _ => modCtx t c fun y => { y with wait := some { w with kind := .again } }
        | .ok (bs, s') => do
          paying t c none x.job (upd fun _ => ownLines t x s (enqueue t x q bs s'))
          finishWait t c w {}
    | _ => exit .idle) s

end Sys2Proof.Machine
end

