-- ==== Sys2Proof/Machine/Integer.lean ====
section
/-!
DEFINITION. The integer instructions of majors 0x01 to 0x0B and 0x3E (R49, R110 to R113), and the modulo registers (R126).
-/
namespace Sys2Proof.Machine

/-! ## What the operations compute -/

/-- The larger or smaller of two words, signed. -/
def sminW (a c : Word) : Word := if a.sle c then a else c
/-- The larger of two words, signed. -/
def smaxW (a c : Word) : Word := if a.sle c then c else a
/-- The smaller of two words, unsigned. -/
def uminW (a c : Word) : Word := if a.ule c then a else c
/-- The larger of two words, unsigned. -/
def umaxW (a c : Word) : Word := if a.ule c then c else a

/-- Bits 127 to 64 of a product of two integers. -/
def highHalf (p : Int) : Word := BitVec.ofInt 64 (p / 18446744073709551616)

/-- DIV (R111). -/
def divS (a c : Word) : Word := if c = 0 then 0xFFFFFFFFFFFFFFFF else BitVec.ofInt 64 (a.toInt.tdiv c.toInt)
/-- REM (R111). -/
def remS (a c : Word) : Word := if c = 0 then a else BitVec.ofInt 64 (a.toInt.tmod c.toInt)
/-- DIVU (R111). -/
def divU (a c : Word) : Word := if c = 0 then 0xFFFFFFFFFFFFFFFF else BitVec.ofNat 64 (a.toNat / c.toNat)
/-- REMU (R111). -/
def remU (a c : Word) : Word := if c = 0 then a else BitVec.ofNat 64 (a.toNat % c.toNat)

/-- The number of leading zero bits among the n low bits. -/
def clzN (a n : Nat) : Nat :=
  match n with
  | 0 => 0
  | k + 1 => if a.testBit k then 0 else 1 + clzN a k
/-- The number of trailing zero bits, at most n. -/
def ctzN (a n : Nat) : Nat :=
  match n with
  | 0 => 0
  | k + 1 => if a % 2 = 1 then 0 else 1 + ctzN (a / 2) k
/-- The number of one bits among the n low bits. -/
def popN (a n : Nat) : Nat :=
  match n with
  | 0 => 0
  | k + 1 => a % 2 + popN (a / 2) k
/-- The n low bytes in reverse order. -/
def revN (a n : Nat) : Nat :=
  match n with
  | 0 => 0
  | k + 1 => a % 256 * 256 ^ k + revN (a / 256) k

/-- BFXU (R112). -/
def bfxu (a c : Word) : Word := BitVec.ofNat 64 (a.toNat / 2 ^ fieldPos c % 2 ^ fieldWidth c)
/-- BFXS: bit pos + w - 1 is the sign (R112). -/
def bfxs (a c : Word) : Word :=
  let w := fieldWidth c
  let v := a.toNat / 2 ^ fieldPos c % 2 ^ w
  if w ≠ 0 ∧ v.testBit (w - 1) then BitVec.ofInt 64 (v - 2 ^ w : Int) else BitVec.ofNat 64 v
/-- BFI: the field of d is replaced, its other bits are kept (R112). -/
def bfi (d a c : Word) : Word :=
  let mask := BitVec.ofNat 64 ((2 ^ fieldWidth c - 1) * 2 ^ fieldPos c)
  (d &&& ~~~mask) ||| ((a <<< fieldPos c) &&& mask)

/-- The shift amount of a 64-bit shift: bits 5 to 0. -/
def sh6 (c : Word) : Nat := c.toNat % 64
/-- The shift amount of a 32-bit shift: bits 4 to 0. -/
def sh5 (c : Word) : Nat := c.toNat % 32
/-- Bits 31 to 0. -/
def low32 (a : Word) : BitVec 32 := a.truncate 32

/-! ## The instructions -/

/-- ADD (R110). -/
def execAdd (h : Hd) (d : Dst) (a c : Src) (s : State) : Host.Outcome State Fault Refusal :=
  dealer h (op2 d a c fun a c => a + c) s

/-- SUB (R110). -/
def execSub (h : Hd) (d : Dst) (a c : Src) (s : State) : Host.Outcome State Fault Refusal :=
  dealer h (op2 d a c fun a c => a - c) s

/-- ADDW (R110). -/
def execAddw (h : Hd) (d : Dst) (a c : Src) (s : State) : Host.Outcome State Fault Refusal :=
  dealer h (op2 d a c fun a c => sx32 (a + c)) s

/-- SUBW (R110). -/
def execSubw (h : Hd) (d : Dst) (a c : Src) (s : State) : Host.Outcome State Fault Refusal :=
  dealer h (op2 d a c fun a c => sx32 (a - c)) s

/-- AND (R110). -/
def execAnd (h : Hd) (d : Dst) (a c : Src) (s : State) : Host.Outcome State Fault Refusal :=
  dealer h (op2 d a c fun a c => a &&& c) s

/-- OR (R110). -/
def execOr (h : Hd) (d : Dst) (a c : Src) (s : State) : Host.Outcome State Fault Refusal :=
  dealer h (op2 d a c fun a c => a ||| c) s

/-- XOR (R110). -/
def execXor (h : Hd) (d : Dst) (a c : Src) (s : State) : Host.Outcome State Fault Refusal :=
  dealer h (op2 d a c fun a c => a ^^^ c) s

/-- ANDN (R110). -/
def execAndn (h : Hd) (d : Dst) (a c : Src) (s : State) : Host.Outcome State Fault Refusal :=
  dealer h (op2 d a c fun a c => a &&& ~~~c) s

/-- ORN (R110). -/
def execOrn (h : Hd) (d : Dst) (a c : Src) (s : State) : Host.Outcome State Fault Refusal :=
  dealer h (op2 d a c fun a c => a ||| ~~~c) s

/-- XNOR (R110). -/
def execXnor (h : Hd) (d : Dst) (a c : Src) (s : State) : Host.Outcome State Fault Refusal :=
  dealer h (op2 d a c fun a c => ~~~(a ^^^ c)) s

/-- SLL (R110). -/
def execSll (h : Hd) (d : Dst) (a c : Src) (s : State) : Host.Outcome State Fault Refusal :=
  dealer h (op2 d a c fun a c => a <<< sh6 c) s

/-- SRL (R110). -/
def execSrl (h : Hd) (d : Dst) (a c : Src) (s : State) : Host.Outcome State Fault Refusal :=
  dealer h (op2 d a c fun a c => a >>> sh6 c) s

/-- SRA (R110). -/
def execSra (h : Hd) (d : Dst) (a c : Src) (s : State) : Host.Outcome State Fault Refusal :=
  dealer h (op2 d a c fun a c => a.sshiftRight (sh6 c)) s

/-- ROL (R110). -/
def execRol (h : Hd) (d : Dst) (a c : Src) (s : State) : Host.Outcome State Fault Refusal :=
  dealer h (op2 d a c fun a c => a.rotateLeft (sh6 c)) s

/-- ROR (R110). -/
def execRor (h : Hd) (d : Dst) (a c : Src) (s : State) : Host.Outcome State Fault Refusal :=
  dealer h (op2 d a c fun a c => a.rotateRight (sh6 c)) s

/-- SLLW (R110). -/
def execSllw (h : Hd) (d : Dst) (a c : Src) (s : State) : Host.Outcome State Fault Refusal :=
  dealer h (op2 d a c fun a c => sx (low32 a <<< sh5 c)) s

/-- SRLW (R110). -/
def execSrlw (h : Hd) (d : Dst) (a c : Src) (s : State) : Host.Outcome State Fault Refusal :=
  dealer h (op2 d a c fun a c => sx (low32 a >>> sh5 c)) s

/-- SRAW (R110). -/
def execSraw (h : Hd) (d : Dst) (a c : Src) (s : State) : Host.Outcome State Fault Refusal :=
  dealer h (op2 d a c fun a c => sx ((low32 a).sshiftRight (sh5 c))) s

/-- MUL (R110). -/
def execMul (h : Hd) (d : Dst) (a c : Src) (s : State) : Host.Outcome State Fault Refusal :=
  dealer h (op2 d a c fun a c => a * c) s

/-- MULH (R110). -/
def execMulh (h : Hd) (d : Dst) (a c : Src) (s : State) : Host.Outcome State Fault Refusal :=
  dealer h (op2 d a c fun a c => highHalf (a.toInt * c.toInt)) s

/-- MULHU (R110). -/
def execMulhu (h : Hd) (d : Dst) (a c : Src) (s : State) : Host.Outcome State Fault Refusal :=
  dealer h (op2 d a c fun a c => highHalf (a.toNat * c.toNat)) s

/-- MULHSU (R110). -/
def execMulhsu (h : Hd) (d : Dst) (a c : Src) (s : State) : Host.Outcome State Fault Refusal :=
  dealer h (op2 d a c fun a c => highHalf (a.toInt * c.toNat)) s

/-- DIV (R111). -/
def execDiv (h : Hd) (d : Dst) (a c : Src) (s : State) : Host.Outcome State Fault Refusal :=
  dealer h (op2 d a c fun a c => divS a c) s

/-- DIVU (R111). -/
def execDivu (h : Hd) (d : Dst) (a c : Src) (s : State) : Host.Outcome State Fault Refusal :=
  dealer h (op2 d a c fun a c => divU a c) s

/-- REM (R111). -/
def execRem (h : Hd) (d : Dst) (a c : Src) (s : State) : Host.Outcome State Fault Refusal :=
  dealer h (op2 d a c fun a c => remS a c) s

/-- REMU (R111). -/
def execRemu (h : Hd) (d : Dst) (a c : Src) (s : State) : Host.Outcome State Fault Refusal :=
  dealer h (op2 d a c fun a c => remU a c) s

/-- MIN (R110). -/
def execMin (h : Hd) (d : Dst) (a c : Src) (s : State) : Host.Outcome State Fault Refusal :=
  dealer h (op2 d a c fun a c => sminW a c) s

/-- MAX (R110). -/
def execMax (h : Hd) (d : Dst) (a c : Src) (s : State) : Host.Outcome State Fault Refusal :=
  dealer h (op2 d a c fun a c => smaxW a c) s

/-- MINU (R110). -/
def execMinu (h : Hd) (d : Dst) (a c : Src) (s : State) : Host.Outcome State Fault Refusal :=
  dealer h (op2 d a c fun a c => uminW a c) s

/-- MAXU (R110). -/
def execMaxu (h : Hd) (d : Dst) (a c : Src) (s : State) : Host.Outcome State Fault Refusal :=
  dealer h (op2 d a c fun a c => umaxW a c) s

/-- BFXU (R112). -/
def execBfxu (h : Hd) (d : Dst) (a c : Src) (s : State) : Host.Outcome State Fault Refusal :=
  dealer h (op2 d a c fun a c => bfxu a c) s

/-- BFXS (R112). -/
def execBfxs (h : Hd) (d : Dst) (a c : Src) (s : State) : Host.Outcome State Fault Refusal :=
  dealer h (op2 d a c fun a c => bfxs a c) s

/-- SH1ADD (R110). -/
def execSh1add (h : Hd) (d : Dst) (a c : Src) (s : State) : Host.Outcome State Fault Refusal :=
  dealer h (op2 d a c fun a c => (a <<< 1) + c) s

/-- SH2ADD (R110). -/
def execSh2add (h : Hd) (d : Dst) (a c : Src) (s : State) : Host.Outcome State Fault Refusal :=
  dealer h (op2 d a c fun a c => (a <<< 2) + c) s

/-- SH3ADD (R110). -/
def execSh3add (h : Hd) (d : Dst) (a c : Src) (s : State) : Host.Outcome State Fault Refusal :=
  dealer h (op2 d a c fun a c => (a <<< 3) + c) s

/-- SH4ADD (R110). -/
def execSh4add (h : Hd) (d : Dst) (a c : Src) (s : State) : Host.Outcome State Fault Refusal :=
  dealer h (op2 d a c fun a c => (a <<< 4) + c) s

/-- SH6ADD (R110). -/
def execSh6add (h : Hd) (d : Dst) (a c : Src) (s : State) : Host.Outcome State Fault Refusal :=
  dealer h (op2 d a c fun a c => (a <<< 6) + c) s

/-- SH8ADD (R110). -/
def execSh8add (h : Hd) (d : Dst) (a c : Src) (s : State) : Host.Outcome State Fault Refusal :=
  dealer h (op2 d a c fun a c => (a <<< 8) + c) s

/-- SH13ADD (R110). -/
def execSh13add (h : Hd) (d : Dst) (a c : Src) (s : State) : Host.Outcome State Fault Refusal :=
  dealer h (op2 d a c fun a c => (a <<< 13) + c) s

/-- ABS (R110). -/
def execAbs (h : Hd) (d : Dst) (a : Src) (s : State) : Host.Outcome State Fault Refusal :=
  dealer h (op1 d a fun a => if a.slt 0 then -a else a) s

/-- CLZ (R110). -/
def execClz (h : Hd) (d : Dst) (a : Src) (s : State) : Host.Outcome State Fault Refusal :=
  dealer h (op1 d a fun a => BitVec.ofNat 64 (clzN a.toNat 64)) s

/-- CTZ (R110). -/
def execCtz (h : Hd) (d : Dst) (a : Src) (s : State) : Host.Outcome State Fault Refusal :=
  dealer h (op1 d a fun a => BitVec.ofNat 64 (ctzN a.toNat 64)) s

/-- POPC (R110). -/
def execPopc (h : Hd) (d : Dst) (a : Src) (s : State) : Host.Outcome State Fault Refusal :=
  dealer h (op1 d a fun a => BitVec.ofNat 64 (popN a.toNat 64)) s

/-- REV8 (R110). -/
def execRev8 (h : Hd) (d : Dst) (a : Src) (s : State) : Host.Outcome State Fault Refusal :=
  dealer h (op1 d a fun a => BitVec.ofNat 64 (revN a.toNat 8)) s

/-- MOVNZ (R110): d is read. -/
def execMovnz (h : Hd) (d : Fin 48) (a c : Src) (s : State) : Host.Outcome State Fault Refusal :=
  dealer h (op3 d a c fun d a c => if c = 0 then d else a) s

/-- MOVZ (R110): d is read. -/
def execMovz (h : Hd) (d : Fin 48) (a c : Src) (s : State) : Host.Outcome State Fault Refusal :=
  dealer h (op3 d a c fun d a c => if c = 0 then a else d) s

/-- BFI (R112): d is read. -/
def execBfi (h : Hd) (d : Fin 48) (a c : Src) (s : State) : Host.Outcome State Fault Refusal :=
  dealer h (op3 d a c fun d a c => bfi d a c) s

/-- ADDI (R113). -/
def execAddi (h : Hd) (d : Dst) (a : Src) (imm : BitVec 9) (s : State) : Host.Outcome State Fault Refusal :=
  dealer h (op1 d a fun a => a + sx imm) s

/-- ANDI (R113). -/
def execAndi (h : Hd) (d : Dst) (a : Src) (imm : BitVec 9) (s : State) : Host.Outcome State Fault Refusal :=
  dealer h (op1 d a fun a => a &&& sx imm) s

/-- ORI (R113). -/
def execOri (h : Hd) (d : Dst) (a : Src) (imm : BitVec 9) (s : State) : Host.Outcome State Fault Refusal :=
  dealer h (op1 d a fun a => a ||| sx imm) s

/-- SLLI (R113). -/
def execSlli (h : Hd) (d : Dst) (a : Src) (imm : BitVec 6) (s : State) : Host.Outcome State Fault Refusal :=
  dealer h (op1 d a fun a => a <<< imm.toNat) s

/-- SRLI (R113). -/
def execSrli (h : Hd) (d : Dst) (a : Src) (imm : BitVec 6) (s : State) : Host.Outcome State Fault Refusal :=
  dealer h (op1 d a fun a => a >>> imm.toNat) s

/-- SRAI (R113). -/
def execSrai (h : Hd) (d : Dst) (a : Src) (imm : BitVec 6) (s : State) : Host.Outcome State Fault Refusal :=
  dealer h (op1 d a fun a => a.sshiftRight imm.toNat) s

/-- RORI (R113). -/
def execRori (h : Hd) (d : Dst) (a : Src) (imm : BitVec 6) (s : State) : Host.Outcome State Fault Refusal :=
  dealer h (op1 d a fun a => a.rotateRight imm.toNat) s

/-- XORI (R113). -/
def execXori (h : Hd) (d : Dst) (a : Src) (imm : BitVec 6) (s : State) : Host.Outcome State Fault Refusal :=
  dealer h (op1 d a fun a => a ^^^ zx imm) s

/-- LI (R49). -/
def execLi (h : Hd) (d : Dst) (imm : BitVec 32) (s : State) : Host.Outcome State Fault Refusal :=
  dealer h (op0 d (sx imm)) s (len := 2)

/-- LIU (R49). -/
def execLiu (h : Hd) (d : Dst) (imm : BitVec 32) (s : State) : Host.Outcome State Fault Refusal :=
  dealer h (op0 d (zx imm)) s (len := 2)

/-- LIH (R49): d is read. -/
def execLih (h : Hd) (d : Fin 48) (imm : BitVec 32) (s : State) : Host.Outcome State Fault Refusal :=
  dealer h (do
    let x ← myCtx
    let v := (zx imm <<< 32) ||| zx (low32 (x.regs.get d))
    modMe (·.setReg d v)
    return { val := some v }) s (len := 2)

/-- ADDL (R49): d is read. -/
def execAddl (h : Hd) (d : Fin 48) (imm : BitVec 32) (s : State) : Host.Outcome State Fault Refusal :=
  dealer h (do
    let x ← myCtx
    let v := x.regs.get d + sx imm
    modMe (·.setReg d v)
    return { val := some v }) s (len := 2)

/-- MSET (R126). -/
def execMset (h : Hd) (k : Fin 7) (a c : Src) (s : State) : Host.Outcome State Fault Refusal :=
  dealer h (do
    let av ← readA a
    let cv ← readC c av
    modMe fun x => { x with mods := x.mods.set k ⟨av, cv⟩ }
    return {}) s

/-- MGETB (R126). -/
def execMgetb (h : Hd) (d : Dst) (k : Fin 7) (s : State) : Host.Outcome State Fault Refusal :=
  dealer h (do op0 d ((← myCtx).mods.get k).base) s

/-- MGETL (R126). -/
def execMgetl (h : Hd) (d : Dst) (k : Fin 7) (s : State) : Host.Outcome State Fault Refusal :=
  dealer h (do op0 d ((← myCtx).mods.get k).len) s

end Sys2Proof.Machine
end

