-- ==== Sys2Proof/Machine/Ordering.lean ====
section
/-!
DEFINITION. FENCE (R360), FENCE.I (R361) and TPROBE (R393).
-/
namespace Sys2Proof.Machine

/-- FENCE. The step order already performs earlier accesses before later ones (log 9); what is left is the release that later
writes publish, the acquire of what earlier reads found, the data cache, and the order of the AR operations (R347, R348, R360). -/
def execFence (h : Hd) (sc : Scope) (ord : Order) (s : State) : Host.Outcome State Fault Refusal :=
  dealer h (do
    let (t, c) ← me
    let x ← getCtx t c
    let p ← if ord.isRel then release t sc else pure none
    if ord.isRel then
      modMe fun y => { y with fences := (sc, p) :: y.fences.filter (·.1 != sc) }
    if ord.isAcq then
      dealerAcquire t (x.seen.filterMap fun q => if covering q.scope q.tile sc t then q.stamp else none)
    if ord == .ar then soEnter t sc p
    return {}) s (ends := true)

/-- FENCE.I invalidates the tile's instruction cache: later fetches read memory as it stands (R361). -/
def execFenceI (h : Hd) (s : State) : Host.Outcome State Fault Refusal :=
  dealer h (do
    let (t, _) ← me
    upd fun s => s.setTile t { s.tile t with ifence := s.wstamp, icache := [], ibad := [] }
    return {}) s (ends := true)

/-- The result of TPROBE for a leaf (R393). -/
def probeWord (s : State) (job : Nat) (e : TlbEntry) (va : Nat) : Word :=
  let pa := leafPa e va
  BitVec.ofNat 64 (1 + 4 * e.size + 16 * e.w.toNat + 32 * e.x.toNat + 64 * (checkedFor s job pa e.chk).toNat + pa / 65536 * 65536)

/-- TPROBE translates as a dealer load would and raises nothing (R393): an uncorrectable entry gives 0x16 in either error
mode. -/
def execTprobe (h : Hd) (d : Dst) (a : Src) (s : State) : Host.Outcome State Fault Refusal :=
  dealer h (do
    let av ← readA a
    let (t, c) ← me
    let x ← getCtx t c
    if spaceOf av != 0 then op0 d (256 * 0x1F)
    else match ← xlate t true x.job (offOf av) with
      | .error (e, _) => op0 d (BitVec.ofNat 64 (256 * e.code))
      | .ok e => op0 d (← see fun s => probeWord s x.job e (offOf av))) s (ends := true)

end Sys2Proof.Machine
end

