-- ==== Sys2Proof/Machine/Packets.lean ====
section
/-!
DEFINITION. The packets that touch memory and the queue itself: WRAP, COPY, SIGNAL, WAIT, INDIRECT and BARRIER (R437, R438, R444).
-/
namespace Sys2Proof.Machine

/-- WRAP: HEAD has advanced to the next multiple of SIZE; it is complete when it is taken (R437). -/
def execWrap (q : Nat) (s : State) : Host.Outcome State Fault Refusal :=
  agent (taking q 0 fun _ _ _ => pure ()) s

/-- COPY: every byte of the source is delivered to the destination; with PHYS both are physical (R437). -/
def execCopy (q : Nat) (s : State) : Host.Outcome State Fault Refusal :=
  agent (taking q 3 fun q k p => do
    let src := p.get 16 0 64
    let dst := p.get 24 0 64
    let n := p.get 32 0 64
    let phys := p.get 40 0 1 == 1
    let fails ← accessFails k
    let r ← see fun s =>
      let at' (w : Bool) (a : Nat) : Option Nat := if phys then physAt s a else queueAt s k a w
      if n = 0 ∨ 2 ^ 40 < n ∨ (fails && !phys) = true then none
      else (bytesVia s (at' false) src n).bind fun bs => writeVia (at' true) dst bs s
    match r with
    | none => if fails && !phys then finishPkt q k p false src else startPkt q (p.start (some 1))
    | some s' => do
      let bad ← see fun s => badVia s (fun a => if phys then physAt s a else queueAt s k a false) src n
      upd fun _ => s'
      recordBad src bad
      finishPkt q k p true src) s

/-- SIGNAL: a store of VALUE, or an indivisible addition (R437, R434). -/
def execSignal (q : Nat) (s : State) : Host.Outcome State Fault Refusal :=
  agent (taking q 4 fun q k p => do
    let a := p.get 16 0 64
    let v := p.get 24 0 64
    match (← see fun s => queueAt s k a true), (← accessFails k) with
    | some pa, false => do
      if p.get 32 0 1 = 1 then do
        recordBad a (← see fun s => badBytes s pa 8)
        upd fun s => writeBytes s pa (natLe 8 (readNat s pa 8 + v)) true
      else upd fun s => writeNat s pa 8 v
      finishPkt q k p true a
    | _, _ => finishPkt q k p false a) s

/-- WAIT: it starts when it is taken, and its queue takes nothing further until its condition is seen (R437, R438). -/
def execWait (q : Nat) (s : State) : Host.Outcome State Fault Refusal :=
  agent (taking q 5 fun q _ p =>
    upd (·.modQueue q fun k => { k with
      wait := some { pkt := p.start none, addr := p.get 16 0 64, value := BitVec.ofNat 64 (p.get 24 0 64), ge := p.get 32 0 1 == 1 } })) s

/-- WAIT_POLL: one 8-byte read of a WAIT; it is complete when the condition holds, and with STATUS 1 when the read fails (R434, R437). -/
def execWaitPoll (q : Nat) (s : State) : Host.Outcome State Fault Refusal :=
  agent (do
    let q ← queueNo q
    let k ← see (·.queue q)
    let w ← present k.wait
    let done (ok : Bool) : M Unit := do
      if !ok && k.host then portError k.space w.addr else pure ()
      upd (·.modQueue q fun k => { k with wait := none })
      startPkt q { w.pkt with status := some (if ok then 0 else 1) }
    match (← see fun s => queueAt s k w.addr false), (← accessFails k) with
    | some pa, false => do
      recordBad w.addr (← see fun s => badBytes s pa 8)
      let v ← see fun s => readNat s pa 8
      if (if w.ge then decide (w.value.toNat ≤ v) else v == w.value.toNat) then done true else pure ()
    | _, _ => done false) s

/-- INDIRECT: its buffer's entries are taken next, as though they stood in the ring (R444). A COUNT of 0 is refused. -/
def execIndirect (q : Nat) (s : State) : Host.Outcome State Fault Refusal :=
  agent (taking q 6 fun q k p =>
    if p.get 24 0 16 = 0 then finishPkt q k p false (p.get 16 0 64)
    else upd (·.modQueue q fun k => { k with stack := ⟨p.start none, p.get 16 0 64, p.get 24 0 16⟩ :: k.stack })) s

/-- BARRIER: every earlier packet has completed (R437). -/
def execBarrier (q : Nat) (s : State) : Host.Outcome State Fault Refusal :=
  agent (taking q 8 fun q _ p => startPkt q (p.start (some 0))) s

end Sys2Proof.Machine
end

