-- ==== Sys2Proof/Machine/Switch.lean ====
section
/-!
DEFINITION. Which of the two resident contexts a dealer executes (R321, R367): whether a context is runnable, the switch, and the time slice.
-/
namespace Sys2Proof.Machine

/-- The next request of a slot's dealer may leave: no older request of its tenant waits, and both buckets can pay (R418, R419). -/
def mayLeave (s : State) (t : TileNo) (c : SlotNo) : Bool :=
  match s.ctx? t c with
  | none => false
  | some x =>
    match x.wait.map Wait.kind with
    | some (.port h n) =>
      let s := settleDie (dieNo t) s
      let r : PortReq := ((s.portQueue t).find? (PortReq.of c none)).getD { slot := c, who := none, job := x.job, num := x.num, reqs := [(h, n)] }
      let q := (r.reqs[r.left]?).getD (0, 0)
      !s.queuedBehind t c none x.job && (match s.job? x.job with
        | none => true
        | some j => match (s.dies.get (dieNo t)).buckets.find? (·.tenant == j.tenant) with
          | none => true
          | some b => decide (q.1 ≤ b.hbm) && decide (q.2 ≤ b.net))
    | _ => false

/-- A wait of the context in slot c can complete (R321). -/
def canFinish (s : State) (t : TileNo) (c : SlotNo) (x : Ctx) (k : WaitKind) : Bool :=
  match k with
  | .again => true
  | .port _ _ => mayLeave s t c
  | .rdv mask => (maskChains mask).all fun ch => (holdingMark x ch).isSome
  | .drain => drained s x
  | .endDrain => s.cancelled (clOf t) x.job || drained s x
  | .semw n th _ => (x.sem n).first? == some .dealer && (x.sem n).meets th
  | .semIdle _ n _ _ => x.semIdle n
  | .release v => !runNamed x (runOf v)
  | .bank _ n _ => x.bankIdle n
  | .covset n _ => x.covIdle n
  | .enq _ q => s.cancelled (clOf t) x.job || (if h : q.toNat < 256 then !queueFull (s.queue ⟨q.toNat, h⟩) else false)
  | .cancel job => s.cancelledAll job
  | .wfe => x.event
  | .qunbind v => match bindWord v.toNat 0 with
    | some b => !namesEp x b
    | none => false
  | .tinv ps => ps.all fun p => !pinStands s x.job p
  | .gbar g gen => (s.group g).gen != gen || s.cancelled (clOf t) x.job
  | .window _ => false

/-- The context in a slot is runnable: its record runs, no mark holds it, and it waits in nothing, or in something that can complete
(R321, R368). -/
def canRun (s : State) (t : TileNo) (c : SlotNo) : Bool :=
  (s.ctx? t c).any fun x => x.run == .run && !(x.halted && x.latches.isEmpty && x.answers.isEmpty) &&
    x.wait.all fun w => canFinish s t c x w.kind

/-- A context gets the dealer: an instruction that restarts begins again, and its count of R379 with it; so does the count of a GBAR. -/
def resume (now : Nat) (x : Ctx) : Ctx :=
  { x with
    gained := now
    wait := if x.restarts then none else if x.recounts then x.wait.map fun w => { w with since := now } else x.wait }

/-- The dealer goes over to slot c. A CTXSAVE of the other context that waits for its engines will start again, and they go on. -/
def switchTo (t : TileNo) (c : SlotNo) (s : State) : State :=
  let s := s.modCtx t (1 - c) fun x => { x with lost := s.now, stopping := false }
  let s := s.setTile t { s.tile t with cur := c }
  s.modCtx t c (resume s.now)

/-- A context has just entered slot c of a tile, or become runnable there: where that slot has the dealer and the other context is runnable, which
has waited longer, that one runs (R321). -/
def enterSlot (t : TileNo) (c : SlotNo) (s : State) : State :=
  if (s.tile t).cur = c ∧ canRun s t (1 - c) = true then switchTo t (1 - c) s else s

/-- The current context leaves the dealer to the other one: at a group end it waits, sleeps, is stopped or has ended, and where its own wait
can complete too, the other has waited longer (R321). -/
def yields (s : State) (t : TileNo) (c : SlotNo) (other : Ctx) : Bool :=
  (s.ctx? t c).all fun x => x.atEnd && (!canRun s t c || x.wait.any fun w => decide (other.lost ≤ w.since))

/-- CONTEXT_SWITCH: at a group end the running context waits, sleeps or has ended, and the other is runnable (R321, R367). -/
def execContextSwitch (t : TileNo) (s : State) : Host.Outcome State Fault Refusal :=
  agent (do
    let c ← see fun s => (s.tile t).cur
    let y ← getCtx t (1 - c)
    enabled (← see fun s => canRun s t (1 - c))
    enabled (← see fun s => yields s t c y)
    upd (switchTo t (1 - c))) s

/-- TIME_SLICE_EXPIRY: at a group end, 4096 dealer cycles after the running context gained the dealer, the other is runnable and of an
equal or higher class (R321). -/
def execTimeSliceExpiry (t : TileNo) (s : State) : Host.Outcome State Fault Refusal :=
  agent (do
    let c ← see fun s => (s.tile t).cur
    let x ← getCtx t c
    let y ← getCtx t (1 - c)
    let now ← see (·.now)
    enabled (x.latches.isEmpty && x.wait.isNone && decide (x.gained + 8192 ≤ now) && decide (x.cls ≤ y.cls))
    enabled (← see fun s => canRun s t (1 - c))
    upd (switchTo t (1 - c))) s

end Sys2Proof.Machine
end

