-- ==== Sys2Proof/Machine/Pop.lean ====
section
/-!
DEFINITION. RECORD_POP: which record a free resident slot takes (R319, R320, R329, R426), its validation (R316), a new context (R313),
and the continuation of a suspended one (R314).
-/
namespace Sys2Proof.Machine

/-- Where a queued record stands: place i of a deck from its thief end, or of an overflow queue from its oldest record. -/
inductive PopSrc
  | deck (u : TileNo) (n : Fin 4) (i : Nat)
  | over (n : Fin 4) (i : Nat)
  deriving DecidableEq, Repr

/-- A queued record with its place, its job and its class. -/
structure Queued where
  src : PopSrc
  job : Nat
  va  : Word
  cls : Fin 4
  deriving DecidableEq, Repr

/-- The record at place i of a deck. -/
def deckAt (s : State) (u : TileNo) (n : Fin 4) (i : Nat) : Word :=
  BitVec.ofNat 64 (readNat s (deckEntry u (s.tile u) n (deckTop (s.tile u) n + i)) 8)

/-- The records of a deck in the order in which a pop looks at them: the owner from the newest, a thief from the oldest; a timetabled
job's deck offers its oldest only, and to its owner only (R319, R329). -/
def deckRecs (s : State) (u : TileNo) (n : Fin 4) (owner : Bool) : List Queued :=
  let x := s.tile u
  match x.padJob with
  | none => []
  | some job =>
    if deckCap x n = 0 ∨ deckLen x n = 0 then []
    else
      let at' (i : Nat) : Queued := ⟨.deck u n i, job, deckAt s u n i, n⟩
      let all := List.range (deckLen x n)
      if s.timed job then (if owner then [at' 0] else [])
      else (if owner then all.reverse else all).map at'

/-- The other tiles of a cluster in ascending number from one on (R320). -/
def neighbours (t : TileNo) : List TileNo :=
  (List.range' 1 7).map fun k => ⟨t.val / 8 * 8 + (t.val % 8 + k) % 8, by omega⟩

/-- The queued records that a tile may take, in the order of R320. -/
def popOrder (s : State) (t : TileNo) : List Queued :=
  ([3, 2, 1, 0] : List (Fin 4)).flatMap fun n =>
    deckRecs s t n true ++ (neighbours t).flatMap (fun u => deckRecs s u n false) ++
    (((s.clusters.get (clOf t)).overflow.get n).zipIdx.map fun e => ⟨.over n e.2, e.1.1, e.1.2, n⟩)

/-- Take a record out of its deck or queue: the owner takes it at its end, where BOT falls, and a thief, or the owner of a timetabled job's deck,
at the other, where TOP rises (R319, R329). Where a record nearer that end cannot run yet, the entries between close up (log 117). -/
def dequeue (t : TileNo) (p : PopSrc) (s : State) : State :=
  match p with
  | .deck u n i =>
    let x := s.tile u
    let top := deckTop x n
    let len := deckLen x n
    let entry (k : Nat) : Nat := deckEntry u x n (top + k)
    let move (s : State) (a b : Nat) : State := writeNat s (entry b) 8 (readNat s (entry a) 8)
    if t = u && !(x.padJob.any s.timed) then
      setDkt u n top (deckBot x n + 65535) ((List.range (len - 1 - i)).foldl (fun s k => move s (i + k + 1) (i + k)) s)
    else setDkt u n (top + 1) (deckBot x n) ((List.range i).foldl (fun s k => move s (i - 1 - k) (i - k)) s)
  | .over n i =>
    let k := s.clusters.get (clOf t)
    { s with clusters := s.clusters.set (clOf t) { k with overflow := k.overflow.set n ((k.overflow.get n).eraseIdx i) } }

/-- The oldest record of a cluster that may go to another one: of the deck of its tile i, or with i 8 of its overflow queue, of a class (R320). -/
def movable (s : State) (cl : Fin 48) (i : Nat) (n : Fin 4) : Option (TileNo × Queued) :=
  if h : i < 8 then
    let u : TileNo := ⟨cl.val * 8 + i, by omega⟩
    (deckRecs s u n false).head?.map fun q => (u, q)
  else ((s.clusters.get cl).overflow.get n).head?.map fun e => (⟨cl.val * 8, by omega⟩, ⟨.over n 0, e.1, e.2, n⟩)

/-- The leaf controllers move a record to the overflow queue of another cluster, which must have room (R320, log 22). A timetabled job's records
stay where they are (R329). -/
def moveRecord (cl : Fin 48) (i : Nat) : M Unit := do
  let k ← see (·.input)
  let n : Fin 4 := ⟨k.value % 4, Nat.mod_lt _ (by decide)⟩
  if h : k.addr < 48 then do
    let (u, q) ← present (← see fun s => movable s cl i n)
    let v : TileNo := ⟨k.addr * 8, by omega⟩
    enabled (k.addr != cl.val && !(← see fun s => s.timed q.job))
    upd (dequeue (match q.src with
      | .deck _ _ _ => v
      | .over _ _ => u) q.src)
    let s' ← present (← see (overflowPush v q.job false n q.va))
    upd fun _ => s'
  else exit .idle

/-- OVERFLOW_PUSH_RETRY: once there is room, the leaf pushes a record that found none; it stayed PARKED or SUSPENDED with JOIN 0
(R319). With the step's flag set, a queued record goes to another cluster (R320). -/
def execOverflowPushRetry (cl : Fin 48) (i : Nat) (s : State) : Host.Outcome State Fault Refusal :=
  agent (do
    if ← see (·.input.flag) then moveRecord cl i
    else do
      let k ← see (·.clusters.get cl)
      let (job, va, t) ← present k.pushes[i]?
      let pa ← present (← see fun s => hwXlate s job va.toNat true)
      upd (noteBad t job (pa + 16) 8)
      let s' ← present (← see fun s =>
        ownerPush t job (s.timed job) (recPrio s pa) va (setRecDw pa 2 (withState (recDw s pa 2) 2) (hwTouch t job va.toNat s)))
      upd fun _ => s'
      upd fun s => { s with clusters := s.clusters.set cl { s.clusters.get cl with pushes := k.pushes.eraseIdx i } }) s

/-- What a new context of a record starts with: what the launch of its grid gave (R313). -/
def tmplOf (j : Job) (grid : Nat) : Tmpl :=
  match j.tmpls.find? (·.1 == grid) with
  | some e => e.2
  | none => (j.tmpls.head?.map (·.2)).getD {}

/-- What a new context of a job's grid starts with (R313); of a job that does not exist, the reset values. -/
def tmplFor (s : State) (job grid : Nat) : Tmpl := ((s.job? job).map fun j => tmplOf j grid).getD {}

/-- The saved context that a record resumes (R314). -/
def State.savedFor (s : State) (job num : Nat) : Option Saved :=
  s.saved.find? fun e => e.job == job && e.num.toNat == num && e.kind == .suspended

/-- Slot c may take up a context of a job with a partition beside the other resident one (R141, R366). -/
def slotFits (s : State) (t : TileNo) (c : SlotNo) (job : Nat) (partw : BitVec 32) : Bool :=
  padFits s t c job && (s.ctx? t (1 - c)).all fun y => y.job == job && y.partw == partw

/-- A saved context may enter slot c: the checks of R142, and its bindings and windows, which hold it to the tile that saved it (R372, R411). -/
def savedFits (s : State) (t : TileNo) (c : SlotNo) (e : Saved) : Bool :=
  slotFits s t c e.job e.ctx.partw && (fitFault s t c e).isNone && (e.tile == t || !s.qb e.tile e.ctx)

/-- The slot holds no context, or one whose record is suspended or queued (R314). -/
def slotFree (s : State) (t : TileNo) (c : SlotNo) : Bool := (s.ctx? t c).all fun x => x.run == .held

/-- The held context of slot c is the one a record resumes. -/
def resumesHere (s : State) (t : TileNo) (c : SlotNo) (job num : Nat) : Bool :=
  (s.ctx? t c).any fun x => x.job == job && x.num.toNat == num && x.run == .held

/-- The job may run records on the tile, and its queue is not descheduled (R426, R440). -/
def State.mayRun (s : State) (t : TileNo) (j : Job) : Bool :=
  decide (j.first ≤ t.val) && decide (t.val < j.first + j.ntile) && !(s.queues.get j.queue).desch

/-- The job of a popped record: validated, it is the tile's (R316); otherwise the JOB field stands as it is. -/
def recJob (s : State) (pa : Nat) (q : Queued) : Nat := if recChecked s pa then q.job else bits (recDw s pa 3) 0 32
/-- The class of a popped record: validated, it is the deck's (R316); otherwise the PRIO field stands as it is. -/
def recClass (s : State) (pa : Nat) (q : Queued) : Fin 4 := if recChecked s pa then q.cls else recPrio s pa

/-- The restore of a queued record's context would fail here with QUEUE_REBIND: the context is saved, and its bindings or windows hold it to another
tile (R314, R385, log 149). -/
def failsRestore (s : State) (t : TileNo) (q : Queued) : Bool :=
  match s.job? q.job, hwXlate s q.job q.va.toNat true with
  | some j, some pa =>
    s.mayRun t j && !s.cancelled (clOf t) q.job && recResume s pa && !s.residentNum q.job (recCtxnum s pa) &&
      (s.savedFor q.job (recCtxnum s pa)).any fun e => e.tile != t && s.qb e.tile e.ctx
  | _, _ => false

/-- The records before the one that a pop takes, or all where it takes none, whose restore fails on the tile: each leaves everything as it was, and
the leaf records it (R314, R385, log 149). -/
def failedRestores (s : State) (t : TileNo) (best : Option Queued) : List Queued :=
  ((popOrder s t).takeWhile fun q => some q != best).filter (failsRestore s t)

/-- The leaf records a restore that failed. -/
def noteRebind (t : TileNo) (q : Queued) (s : State) : State :=
  let num := ((hwXlate s q.job q.va.toNat true).map (recCtxnum s)).getD 0
  s.addErr { cause := Cause.queueRebind.code, phys := false, src := t / 8, ctx := num, job := q.job, frame := s.frame, addr := q.va, info := 0 }

/-- Slot c of a tile can take a queued record now. -/
def poppable (s : State) (t : TileNo) (c : SlotNo) (q : Queued) : Bool :=
  match s.job? q.job, hwXlate s q.job q.va.toNat true with
  | some j, some pa =>
    s.mayRun t j && (!j.timed || decide (recDw s pa 5 ≤ s.frame.toNat)) &&
    (s.cancelled (clOf t) q.job ||
      (if recResume s pa then
        (if resumesHere s t c q.job (recCtxnum s pa) then true
         else !s.residentNum q.job (recCtxnum s pa) && (s.savedFor q.job (recCtxnum s pa)).any (savedFits s t c))
      else slotFits s t c (recJob s pa q) (tmplFor s (recJob s pa q) (recParent s pa)).partw))
  | _, _ => false

/-- Validation of a CHECKED record (R316). -/
def recValid (s : State) (pa : Nat) (q : Queued) : Bool :=
  let v := recDw s pa 2
  !recChecked s pa ||
  (bits (recDw s pa 3) 0 32 == q.job && recPrio s pa == q.cls && recJoin s pa == 0 && bits v 46 2 == 0 && recDw s pa 0 % 4 == 0)

/-- A semaphore table with the launch's declarations (R216). -/
def launchSems (l : List (Fin 64 × Sem)) : Vector Sem 64 := l.foldl (fun v e => v.set e.1 e.2) (Vector.replicate 64 {})
/-- A tensor table with the launch's declarations, which are valid (R149). Of two for one number the last stands (DESIGN CHOICE, log 151). -/
def launchTit (l : List (Fin 128 × Vector Word 32)) : Vector (Vector Word 32) 128 :=
  l.foldl (fun v e => v.set e.1 (e.2.set 0 (e.2.get 0 ||| 256))) (Vector.replicate 128 (Vector.replicate 32 0))

/-- A new context (R313). -/
def newCtx (s : State) (num : BitVec 16) (q : Queued) (pa : Nat) (p : Tmpl) : Ctx :=
  let w (k : Nat) : Word := BitVec.ofNat 64 (recDw s pa k)
  { num, job := recJob s pa q, record := q.va, cls := recClass s pa q, pc := w 0, gained := s.now, lost := s.now
    regs := (((Vector.replicate 48 0).set 0 (w 1)).set 1 q.va).set 2 (w 6) |>.set 3 (w 7)
    partw := p.partw, chainbase := p.clb, chainlim := p.cll, tit := launchTit p.tens, sems := launchSems p.semInit, reloc := p.reloc }

/-- The context that a record would resume goes with the record (R327, R316). -/
def dropResumed (job num : Nat) (s : State) : State :=
  let s := (List.finRange 384).foldl (fun s t => ([0, 1] : List SlotNo).foldl (fun s c =>
    if resumesHere s t c job num then (match s.ctx? t c with
      | some x => (releaseCtx t x s).emptySlot t c
      | none => s) else s) s) s
  match s.savedFor job num with
  | some e =>
    let s := releaseCtx e.tile e.ctx (unbindSaved e s)
    { s with saved := s.saved.filter fun k => !(k.job == job && k.num.toNat == num) }
  | none => s

/-- Retire a popped record without running it. -/
def retirePopped (t : TileNo) (q : Queued) (pa cause : Nat) (s : State) : State :=
  let resume := recResume s pa
  let num := recCtxnum s pa
  let s := dequeue t q.src s
  let s := retireRec t q.job q.va.toNat pa cause (if resume then writeGroup none pa s else s)
  if resume then dropResumed q.job num s else s

/-- The record runs: STATE, and the acquire with which its run starts (R315). -/
def startRun (t : TileNo) (pa : Nat) : M Unit := do
  upd fun s => setRecDw pa 2 (withState (recDw s pa 2) 3) s
  dealerAcquire t (← see fun s => carriedAt s pa)

/-- A held context that gives its slot to another record is streamed out first, if the leaf prefers none to it and its engines have stopped (R314,
R368). -/
def vacate (t : TileNo) (c : SlotNo) : M Unit := do
  match ← see (·.ctx? t c) with
  | none => pure ()
  | some x => do
    enabled (← see fun s => mayChoose s t c x && enginesQuiet s x)
    upd (streamOut t c .suspended)

/-- The accesses of a pop to its record are atomics: tagged, and whether they race with a program's write (R311). -/
def popTouch (t : TileNo) (q : Queued) : M Bool := do
  let raced ← see fun s => (hwTag t q.job q.va.toNat true s).isNone
  upd (hwTouch t q.job q.va.toNat)
  return raced

/-- A pop that races raises RACE in the context that it starts, before its first instruction (R311, log 116). -/
def popRace (t : TileNo) (c : SlotNo) (q : Queued) (raced : Bool) : M Unit :=
  if raced then upd fun s => match s.ctx? t c with
    | some x => enterTrap t c .d .race x.pc q.va [] s
    | none => s
  else pure ()

/-- The popped record goes into slot c: retired where its job is cancelled or its validation fails, else continued or started. -/
def popInto (t : TileNo) (c : SlotNo) (num : BitVec 16) (q : Queued) (pa : Nat) : M Unit := do
  if ← see fun s => s.cancelled (clOf t) q.job then upd (retirePopped t q pa 0x36)
  else if !(← see fun s => recValid s pa q) then do
    upd (retirePopped t q pa 0x34)
    upd fun s => s.addErr { cause := Cause.packetMalformed.code, phys := false, src := t / 8, ctx := 0, job := q.job,
                            frame := s.frame, addr := q.va, info := 0 }
  else if ← see fun s => recResume s pa then do
    let n ← see fun s => recCtxnum s pa
    let raced ← popTouch t q
    upd (dequeue t q.src)
    if ← see fun s => resumesHere s t c q.job n then pure ()
    else do
      let e ← present (← see fun s => s.savedFor q.job n)
      vacate t c
      upd (streamIn t c e)
    startRun t pa
    let code ← see fun s => recDw s pa 0
    upd fun s => s.modCtx t c fun y => { y with run := .run, marked := false, pc := BitVec.ofNat 64 code, wait := none, gained := s.now, lost := s.now }
    upd (resumeStep t c)
    popRace t c q raced
    upd (enterSlot t c)
  else do
    let job ← see fun s => recJob s pa q
    let live ← see fun s => ((s.job? job).map (·.live)).getD []
    if live.length < 65536 then do
      enabled (!live.contains num)
      vacate t c
      let raced ← popTouch t q
      upd (dequeue t q.src)
      upd (adoptPad t job)
      upd fun s => s.modJob job fun j => { j with live := num :: j.live }
      let x ← see fun s => newCtx s num q pa (tmplFor s job (recParent s pa))
      upd fun s => s.setSlot t c (some x)
      startRun t pa
      popRace t c q raced
      upd (enterSlot t c)
    else upd fun s => s.addErr { cause := Cause.contextLimit.code, phys := false, src := t / 8, ctx := 0, job := q.job,
                                 frame := s.frame, addr := q.va, info := 0 }

/-- RECORD_POP: slot c takes the best record that it can (R320); the leaf gives a new context the number `num` (R313). With the
step's flag set, the leaf instead brings back the pre-empted context of that number, unless a record of a higher class waits (R368, log
31). -/
def execRecordPop (t : TileNo) (c : SlotNo) (num : BitVec 16) (s : State) : Host.Outcome State Fault Refusal :=
  agent (do
    enabled (← see fun s => slotFree s t c)
    let best ← see fun s => (popOrder s t).find? (poppable s t c)
    if ← see (·.input.flag) then do
      let e ← present (← see fun s => s.saved.find? fun e => e.num == num && e.kind == .preempted && savedFits s t c e &&
        ((s.job? e.job).any (s.mayRun t)) && best.all fun q => decide (q.cls ≤ e.ctx.cls))
      vacate t c
      upd (streamIn t c e)
      upd (resumeStep t c)
      upd (enterSlot t c)
    else do
      let failed ← see fun s => failedRestores s t best
      upd fun s => failed.foldl (fun s q => noteRebind t q s) s
      enabled (best.isSome || !failed.isEmpty)
      match best with
      | none => pure ()
      | some q => do
        let pa ← present (← see fun s => hwXlate s q.job q.va.toNat true)
        upd (noteBad t q.job pa 64)
        popInto t c num q pa) s

end Sys2Proof.Machine
end

