-- ==== Sys2Proof/Machine/Shares.lean ====
section
/-!
DEFINITION. Shares of bandwidth and energy: the refill of a die's buckets (R420, R421), a request that waits at its port (R419), the
subnetworks (R423), and the end of a budget period (R425, R426).
-/
namespace Sys2Proof.Machine

/-! ## Refill (R420) -/

/-- TOKEN_REFILL: a period of 1024 cycles of the die has ended (R420). -/
def execTokenRefill (die : Fin 8) (s : State) : Host.Outcome State Fault Refusal :=
  agent (do
    enabled (← see fun s => decide ((s.dies.get die).period + 1024 ≤ s.now))
    upd fun s => { s with dies := s.dies.set die (refillDie s die) }) s

/-! ## Waiting requests (R419) -/

/-- BANDWIDTH_REQUEST: a request that waits at a tile's port leaves: its instruction starts again and pays (R419, R368). An engine's request
leaves with the next step of its block. -/
def execBandwidthRequest (t : TileNo) (s : State) : Host.Outcome State Fault Refusal :=
  agent (do
    let c ← present (← see fun s => ([0, 1] : List SlotNo).find? (mayLeave s t))
    modCtx t c fun x => { x with wait := x.wait.map fun w => { w with kind := .again } }) s

/-- The buffers of subnetwork k of a router report an occupancy: 0 below one-eighth, 2 above three-quarters, 1 between. -/
def Tile.report (x : Tile) (k : Fin 4) (l now : Nat) : Tile :=
  if (x.occ.get k).1 = min l 2 then x else { x with occ := x.occ.set k (min l 2, now) }

/-- SUBNETWORK_POWER: a router powers subnetwork k + 1 up, k being `input.value`, once its buffers on subnetwork k have stayed above three-quarters
full for 256 cycles, or powers it down once its own have been below one-eighth for 4096; subnetwork 0 is always on. With `input.nums` the
buffers of subnetwork k report a new occupancy instead (R423, log 125). -/
def execSubnetworkPower (t : TileNo) (up : Bool) (s : State) : Host.Outcome State Fault Refusal :=
  agent (do
    let s ← see id
    let x := s.tile t
    match s.input.nums with
    | l :: _ => modTile t fun x => x.report ⟨s.input.value % 4, Nat.mod_lt _ (by decide)⟩ l s.now
    | [] =>
      if h : s.input.value < 3 then do
        let k : Fin 4 := ⟨s.input.value, by omega⟩
        let n : Fin 4 := ⟨s.input.value + 1, by omega⟩
        if up then do
          enabled (x.subs.get k && !x.subs.get n && (x.occ.get k).1 == 2 && decide ((x.occ.get k).2 + 256 ≤ s.now))
          modTile t fun x => { x with subs := x.subs.set n true, occ := x.occ.set n (0, s.now) }
        else do
          enabled (x.subs.get n && (x.occ.get n).1 == 0 && decide ((x.occ.get n).2 + 4096 ≤ s.now))
          modTile t fun x => { x with subs := x.subs.set n false }
      else exit .idle) s

/-! ## Budgets (R425, R426) -/

/-- BUDGET_PERIOD_END: the period ended at a frame tick of an earlier cycle; charges of that cycle have counted in it (R425, R426). -/
def execBudgetPeriodEnd (q : Nat) (s : State) : Host.Outcome State Fault Refusal :=
  agent (do
    let q ← queueNo q
    let k ← see (·.queue q)
    let (cyc, at') ← present k.due
    enabled (← see fun s => decide (cyc < s.now))
    upd (State.closePeriod q at')) s

end Sys2Proof.Machine
end

