-- ==== Sys2Proof/Machine/Traps.lean ====
section
/-!
DEFINITION. TRAP, BREAK and ERET (R383).
-/
namespace Sys2Proof.Machine

/-- TRAP n: FIRMWARE_CALL for n = 62, else TRAP_INSN with EVAL n, after the instruction completes (R374, R383). EVAL of FIRMWARE_CALL is n
(DESIGN CHOICE, log 155). -/
def execTrap (h : Hd) (n : BitVec 6) (s : State) : Host.Outcome State Fault Refusal :=
  dealer h (pure { ctl := if n = 62 then .dplus .firmwareCall 62 else .dplus .trapInsn (zx n) }) s (ends := true)

/-- BREAK, EVAL 0 (R383). -/
def execBrk (h : Hd) (s : State) : Host.Outcome State Fault Refusal :=
  dealer h (pure { ctl := .dplus .brk 0 }) s (ends := true)

/-- ERET: PRIV without an active handler; else the group, ACTIVE and the address are restored (R383). -/
def execEret (h : Hd) (s : State) : Host.Outcome State Fault Refusal :=
  dealer h (do
    let x ← myCtx
    check x.active .priv 0
    let (y, e) := eretEff x
    modMe fun _ => y
    return e) s (ends := true)

end Sys2Proof.Machine
end

