-- ==== Sys2Proof/Machine/Dispatch.lean ====
section
/-!
DEFINITION. The dispatch: one arm for every constructor of Instr.
-/
namespace Sys2Proof.Machine

/-- The meaning of an instruction or of a step of another agent. -/
def exec (i : Instr) (s : State) : Host.Outcome State Fault Refusal :=
  match i with
  | .add h d a c => Sys2Proof.Machine.execAdd h d a c s
  | .sub h d a c => Sys2Proof.Machine.execSub h d a c s
  | .addw h d a c => Sys2Proof.Machine.execAddw h d a c s
  | .subw h d a c => Sys2Proof.Machine.execSubw h d a c s
  | .and h d a c => Sys2Proof.Machine.execAnd h d a c s
  | .or h d a c => Sys2Proof.Machine.execOr h d a c s
  | .xor h d a c => Sys2Proof.Machine.execXor h d a c s
  | .andn h d a c => Sys2Proof.Machine.execAndn h d a c s
  | .orn h d a c => Sys2Proof.Machine.execOrn h d a c s
  | .xnor h d a c => Sys2Proof.Machine.execXnor h d a c s
  | .sll h d a c => Sys2Proof.Machine.execSll h d a c s
  | .srl h d a c => Sys2Proof.Machine.execSrl h d a c s
  | .sra h d a c => Sys2Proof.Machine.execSra h d a c s
  | .rol h d a c => Sys2Proof.Machine.execRol h d a c s
  | .ror h d a c => Sys2Proof.Machine.execRor h d a c s
  | .sllw h d a c => Sys2Proof.Machine.execSllw h d a c s
  | .srlw h d a c => Sys2Proof.Machine.execSrlw h d a c s
  | .sraw h d a c => Sys2Proof.Machine.execSraw h d a c s
  | .mul h d a c => Sys2Proof.Machine.execMul h d a c s
  | .mulh h d a c => Sys2Proof.Machine.execMulh h d a c s
  | .mulhu h d a c => Sys2Proof.Machine.execMulhu h d a c s
  | .mulhsu h d a c => Sys2Proof.Machine.execMulhsu h d a c s
  | .div h d a c => Sys2Proof.Machine.execDiv h d a c s
  | .divu h d a c => Sys2Proof.Machine.execDivu h d a c s
  | .rem h d a c => Sys2Proof.Machine.execRem h d a c s
  | .remu h d a c => Sys2Proof.Machine.execRemu h d a c s
  | .min h d a c => Sys2Proof.Machine.execMin h d a c s
  | .max h d a c => Sys2Proof.Machine.execMax h d a c s
  | .minu h d a c => Sys2Proof.Machine.execMinu h d a c s
  | .maxu h d a c => Sys2Proof.Machine.execMaxu h d a c s
  | .abs h d a => Sys2Proof.Machine.execAbs h d a s
  | .movnz h d a c => Sys2Proof.Machine.execMovnz h d a c s
  | .movz h d a c => Sys2Proof.Machine.execMovz h d a c s
  | .clz h d a => Sys2Proof.Machine.execClz h d a s
  | .ctz h d a => Sys2Proof.Machine.execCtz h d a s
  | .popc h d a => Sys2Proof.Machine.execPopc h d a s
  | .bfxu h d a c => Sys2Proof.Machine.execBfxu h d a c s
  | .bfxs h d a c => Sys2Proof.Machine.execBfxs h d a c s
  | .bfi h d a c => Sys2Proof.Machine.execBfi h d a c s
  | .rev8 h d a => Sys2Proof.Machine.execRev8 h d a s
  | .sh1add h d a c => Sys2Proof.Machine.execSh1add h d a c s
  | .sh2add h d a c => Sys2Proof.Machine.execSh2add h d a c s
  | .sh3add h d a c => Sys2Proof.Machine.execSh3add h d a c s
  | .sh4add h d a c => Sys2Proof.Machine.execSh4add h d a c s
  | .sh6add h d a c => Sys2Proof.Machine.execSh6add h d a c s
  | .sh8add h d a c => Sys2Proof.Machine.execSh8add h d a c s
  | .sh13add h d a c => Sys2Proof.Machine.execSh13add h d a c s
  | .addi h d a imm => Sys2Proof.Machine.execAddi h d a imm s
  | .andi h d a imm => Sys2Proof.Machine.execAndi h d a imm s
  | .ori h d a imm => Sys2Proof.Machine.execOri h d a imm s
  | .slli h d a imm => Sys2Proof.Machine.execSlli h d a imm s
  | .srli h d a imm => Sys2Proof.Machine.execSrli h d a imm s
  | .srai h d a imm => Sys2Proof.Machine.execSrai h d a imm s
  | .rori h d a imm => Sys2Proof.Machine.execRori h d a imm s
  | .xori h d a imm => Sys2Proof.Machine.execXori h d a imm s
  | .cmpeq g ct pd1 pd2 a c => Sys2Proof.Machine.execCmpeq g ct pd1 pd2 a c s
  | .cmpne g ct pd1 pd2 a c => Sys2Proof.Machine.execCmpne g ct pd1 pd2 a c s
  | .cmplt g ct pd1 pd2 a c => Sys2Proof.Machine.execCmplt g ct pd1 pd2 a c s
  | .cmpge g ct pd1 pd2 a c => Sys2Proof.Machine.execCmpge g ct pd1 pd2 a c s
  | .cmpltu g ct pd1 pd2 a c => Sys2Proof.Machine.execCmpltu g ct pd1 pd2 a c s
  | .cmpgeu g ct pd1 pd2 a c => Sys2Proof.Machine.execCmpgeu g ct pd1 pd2 a c s
  | .cmpts g ct pd1 pd2 a c => Sys2Proof.Machine.execCmpts g ct pd1 pd2 a c s
  | .cmptc g ct pd1 pd2 a c => Sys2Proof.Machine.execCmptc g ct pd1 pd2 a c s
  | .cmpeqi g ct pd1 pd2 a imm => Sys2Proof.Machine.execCmpeqi g ct pd1 pd2 a imm s
  | .cmpnei g ct pd1 pd2 a imm => Sys2Proof.Machine.execCmpnei g ct pd1 pd2 a imm s
  | .cmplti g ct pd1 pd2 a imm => Sys2Proof.Machine.execCmplti g ct pd1 pd2 a imm s
  | .cmpgei g ct pd1 pd2 a imm => Sys2Proof.Machine.execCmpgei g ct pd1 pd2 a imm s
  | .cmpltui g ct pd1 pd2 a imm => Sys2Proof.Machine.execCmpltui g ct pd1 pd2 a imm s
  | .cmpgeui g ct pd1 pd2 a imm => Sys2Proof.Machine.execCmpgeui g ct pd1 pd2 a imm s
  | .cmptsi g ct pd1 pd2 a imm => Sys2Proof.Machine.execCmptsi g ct pd1 pd2 a imm s
  | .cmptci g ct pd1 pd2 a imm => Sys2Proof.Machine.execCmptci g ct pd1 pd2 a imm s
  | .pand h pd pa pc => Sys2Proof.Machine.execPand h pd pa pc s
  | .por h pd pa pc => Sys2Proof.Machine.execPor h pd pa pc s
  | .pxor h pd pa pc => Sys2Proof.Machine.execPxor h pd pa pc s
  | .pandn h pd pa pc => Sys2Proof.Machine.execPandn h pd pa pc s
  | .pnot h pd pa => Sys2Proof.Machine.execPnot h pd pa s
  | .pget h d => Sys2Proof.Machine.execPget h d s
  | .pput h a c => Sys2Proof.Machine.execPput h a c s
  | .br g disp => Sys2Proof.Machine.execBr g disp s
  | .brl g disp => Sys2Proof.Machine.execBrl g disp s
  | .jr h a => Sys2Proof.Machine.execJr h a s
  | .jrl h d a => Sys2Proof.Machine.execJrl h d a s
  | .ret h => Sys2Proof.Machine.execRet h s
  | .loop h a last => Sys2Proof.Machine.execLoop h a last s
  | .lbu h d a m off => Sys2Proof.Machine.execLbu h d a m off s
  | .lhu h d a m off => Sys2Proof.Machine.execLhu h d a m off s
  | .lwu h d a m off => Sys2Proof.Machine.execLwu h d a m off s
  | .ld h d a m off => Sys2Proof.Machine.execLd h d a m off s
  | .lb h d a m off => Sys2Proof.Machine.execLb h d a m off s
  | .lh h d a m off => Sys2Proof.Machine.execLh h d a m off s
  | .lw h d a m off => Sys2Proof.Machine.execLw h d a m off s
  | .sb h x a m off => Sys2Proof.Machine.execSb h x a m off s
  | .sh h x a m off => Sys2Proof.Machine.execSh h x a m off s
  | .sw h x a m off => Sys2Proof.Machine.execSw h x a m off s
  | .sd h x a m off => Sys2Proof.Machine.execSd h x a m off s
  | .mset h k a c => Sys2Proof.Machine.execMset h k a c s
  | .mgetb h d k => Sys2Proof.Machine.execMgetb h d k s
  | .mgetl h d k => Sys2Proof.Machine.execMgetl h d k s
  | .csrr h d csr => Sys2Proof.Machine.execCsrr h d csr s
  | .csrw h csr x => Sys2Proof.Machine.execCsrw h csr x s
  | .csrs h csr x => Sys2Proof.Machine.execCsrs h csr x s
  | .csrc h csr x => Sys2Proof.Machine.execCsrc h csr x s
  | .amoadd h word sc ord d a => Sys2Proof.Machine.execAmoadd h word sc ord d a s
  | .amoand h word sc ord d a => Sys2Proof.Machine.execAmoand h word sc ord d a s
  | .amoor h word sc ord d a => Sys2Proof.Machine.execAmoor h word sc ord d a s
  | .amoxor h word sc ord d a => Sys2Proof.Machine.execAmoxor h word sc ord d a s
  | .amomin h word sc ord d a => Sys2Proof.Machine.execAmomin h word sc ord d a s
  | .amomax h word sc ord d a => Sys2Proof.Machine.execAmomax h word sc ord d a s
  | .amoswap h word sc ord d a => Sys2Proof.Machine.execAmoswap h word sc ord d a s
  | .amocas h word sc ord d a => Sys2Proof.Machine.execAmocas h word sc ord d a s
  | .fence h sc ord => Sys2Proof.Machine.execFence h sc ord s
  | .fenceI h => Sys2Proof.Machine.execFenceI h s
  | .nop h => Sys2Proof.Machine.execNop h s
  | .trap h n => Sys2Proof.Machine.execTrap h n s
  | .eret h => Sys2Proof.Machine.execEret h s
  | .brk h => Sys2Proof.Machine.execBrk h s
  | .link h ch a => Sys2Proof.Machine.execLink h ch a s
  | .kick h ch => Sys2Proof.Machine.execKick h ch s
  | .fork h mask => Sys2Proof.Machine.execFork h mask s
  | .rdv h mask => Sys2Proof.Machine.execRdv h mask s
  | .rdvRelease t c => Sys2Proof.Machine.execRdvRelease t c s
  | .drain h => Sys2Proof.Machine.execDrain h s
  | .drainComplete t c => Sys2Proof.Machine.execDrainComplete t c s
  | .chseq h d ch => Sys2Proof.Machine.execChseq h d ch s
  | .chstat h d ch => Sys2Proof.Machine.execChstat h d ch s
  | .semi h n a c => Sys2Proof.Machine.execSemi h n a c s
  | .semb h n a c => Sys2Proof.Machine.execSemb h n a c s
  | .semw h n a c => Sys2Proof.Machine.execSemw h n a c s
  | .semwGrant t c => Sys2Proof.Machine.execSemwGrant t c s
  | .semp h n a => Sys2Proof.Machine.execSemp h n a s
  | .semr h d n c => Sys2Proof.Machine.execSemr h d n c s
  | .semk h n => Sys2Proof.Machine.execSemk h n s
  | .semIdleAction t c => Sys2Proof.Machine.execSemIdleAction t c s
  | .tdef h n a => Sys2Proof.Machine.execTdef h n a s
  | .tmod h n a x => Sys2Proof.Machine.execTmod h n a x s
  | .tget h d n a => Sys2Proof.Machine.execTget h d n a s
  | .tkill h n => Sys2Proof.Machine.execTkill h n s
  | .claim h a => Sys2Proof.Machine.execClaim h a s
  | .release h a => Sys2Proof.Machine.execRelease h a s
  | .releaseComplete t c => Sys2Proof.Machine.execReleaseComplete t c s
  | .aclr h a => Sys2Proof.Machine.execAclr h a s
  | .hstat h d a => Sys2Proof.Machine.execHstat h d a s
  | .partw h d => Sys2Proof.Machine.execPartw h d s
  | .axis h n a => Sys2Proof.Machine.execAxis h n a s
  | .resi h n a => Sys2Proof.Machine.execResi h n a s
  | .resx h n a => Sys2Proof.Machine.execResx h n a s
  | .resr h d n c => Sys2Proof.Machine.execResr h d n c s
  | .resclr h n => Sys2Proof.Machine.execResclr h n s
  | .bankIdleAction t c => Sys2Proof.Machine.execBankIdleAction t c s
  | .qsw h n a => Sys2Proof.Machine.execQsw h n a s
  | .qsr h d n => Sys2Proof.Machine.execQsr h d n s
  | .covset h n a => Sys2Proof.Machine.execCovset h n a s
  | .covsetIdleAction t c => Sys2Proof.Machine.execCovsetIdleAction t c s
  | .covget h d n c => Sys2Proof.Machine.execCovget h d n c s
  | .covstat h d n c => Sys2Proof.Machine.execCovstat h d n c s
  | .spawn h a => Sys2Proof.Machine.execSpawn h a s
  | .enq h a c => Sys2Proof.Machine.execEnq h a c s
  | .enqQueueRoom t c => Sys2Proof.Machine.execEnqQueueRoom t c s
  | .await h a c => Sys2Proof.Machine.execAwait h a c s
  | .resolve h a c => Sys2Proof.Machine.execResolve h a c s
  | .yield h => Sys2Proof.Machine.execYield h s
  | .endRec h => Sys2Proof.Machine.execEndRec h s
  | .cancel h a => Sys2Proof.Machine.execCancel h a s
  | .cancelFlagsSet t c => Sys2Proof.Machine.execCancelFlagsSet t c s
  | .jobCancelComplete job => Sys2Proof.Machine.execJobCancelComplete job s
  | .join h a => Sys2Proof.Machine.execJoin h a s
  | .leave h a => Sys2Proof.Machine.execLeave h a s
  | .gbar h a => Sys2Proof.Machine.execGbar h a s
  | .wfe h => Sys2Proof.Machine.execWfe h s
  | .wfeWake t c => Sys2Proof.Machine.execWfeWake t c s
  | .sev h a => Sys2Proof.Machine.execSev h a s
  | .ctxsave h a => Sys2Proof.Machine.execCtxsave h a s
  | .ctxrestore h a => Sys2Proof.Machine.execCtxrestore h a s
  | .qbind h a c => Sys2Proof.Machine.execQbind h a c s
  | .qunbind h a => Sys2Proof.Machine.execQunbind h a s
  | .qunbindIdle t c => Sys2Proof.Machine.execQunbindIdle t c s
  | .qdepth h d a => Sys2Proof.Machine.execQdepth h d a s
  | .tprobe h d a => Sys2Proof.Machine.execTprobe h d a s
  | .tinv h a c => Sys2Proof.Machine.execTinv h a c s
  | .tinvPinsReleased t c => Sys2Proof.Machine.execTinvPinsReleased t c s
  | .burst h n => Sys2Proof.Machine.execBurst h n s
  | .li h d imm => Sys2Proof.Machine.execLi h d imm s
  | .liu h d imm => Sys2Proof.Machine.execLiu h d imm s
  | .lih h d imm => Sys2Proof.Machine.execLih h d imm s
  | .addl h d imm => Sys2Proof.Machine.execAddl h d imm s
  | .trapEntry t c => Sys2Proof.Machine.execTrapEntry t c s
  | .leafTrapHandling t c => Sys2Proof.Machine.execLeafTrapHandling t c s
  | .fwDomainNumber t c => Sys2Proof.Machine.execFwDomainNumber t c s
  | .fwSetWatchdog t c => Sys2Proof.Machine.execFwSetWatchdog t c s
  | .fwUnbindSaved t c => Sys2Proof.Machine.execFwUnbindSaved t c s
  | .fwLog t c => Sys2Proof.Machine.execFwLog t c s
  | .watchdog t c => Sys2Proof.Machine.execWatchdog t c s
  | .machineCheck t c => Sys2Proof.Machine.execMachineCheck t c s
  | .contextSwitch t => Sys2Proof.Machine.execContextSwitch t s
  | .timeSliceExpiry t => Sys2Proof.Machine.execTimeSliceExpiry t s
  | .recordPop t c num => Sys2Proof.Machine.execRecordPop t c num s
  | .overflowPushRetry cl k => Sys2Proof.Machine.execOverflowPushRetry cl k s
  | .preemption t c => Sys2Proof.Machine.execPreemption t c s
  | .blockWaitGrant t c ch => Sys2Proof.Machine.execBlockWaitGrant t c ch s
  | .coverageFractionWait t c ch => Sys2Proof.Machine.execCoverageFractionWait t c ch s
  | .loadIteration t c => Sys2Proof.Machine.execLoadIteration t c s
  | .storeIteration t c => Sys2Proof.Machine.execStoreIteration t c s
  | .linkedQueueEntryArrive t e => Sys2Proof.Machine.execLinkedQueueEntryArrive t e s
  | .linkedQueueCreditReturn t e => Sys2Proof.Machine.execLinkedQueueCreditReturn t e s
  | .queueStallResume t c ch => Sys2Proof.Machine.execQueueStallResume t c ch s
  | .matrixFloatKStep t c => Sys2Proof.Machine.execMatrixFloatKStep t c s
  | .matrixIntKStep t c => Sys2Proof.Machine.execMatrixIntKStep t c s
  | .vectorIteration t c => Sys2Proof.Machine.execVectorIteration t c s
  | .blockRetire t c ch => Sys2Proof.Machine.execBlockRetire t c ch s
  | .coverageContribution t c n => Sys2Proof.Machine.execCoverageContribution t c n s
  | .nopBlock t c ch => Sys2Proof.Machine.execNopBlock t c ch s
  | .endBlock t c ch => Sys2Proof.Machine.execEndBlock t c ch s
  | .markResolve t c ch => Sys2Proof.Machine.execMarkResolve t c ch s
  | .markRendezvous t c ch => Sys2Proof.Machine.execMarkRendezvous t c ch s
  | .patchAction t c ch => Sys2Proof.Machine.execPatchAction t c ch s
  | .patchHoldResume t c ch => Sys2Proof.Machine.execPatchHoldResume t c ch s
  | .patchRangePolicy t c ch => Sys2Proof.Machine.execPatchRangePolicy t c ch s
  | .heldPostApply t c n => Sys2Proof.Machine.execHeldPostApply t c n s
  | .rampComplete t => Sys2Proof.Machine.execRampComplete t s
  | .matrixCold t => Sys2Proof.Machine.execMatrixCold t s
  | .burstHoldExpiry t => Sys2Proof.Machine.execBurstHoldExpiry t s
  | .windowMessageRetry k => Sys2Proof.Machine.execWindowMessageRetry k s
  | .windowAck k => Sys2Proof.Machine.execWindowAck k s
  | .lossDetected k => Sys2Proof.Machine.execLossDetected k s
  | .tokenRefill die => Sys2Proof.Machine.execTokenRefill die s
  | .bandwidthRequest t => Sys2Proof.Machine.execBandwidthRequest t s
  | .subnetworkPower t up => Sys2Proof.Machine.execSubnetworkPower t up s
  | .budgetPeriodEnd q => Sys2Proof.Machine.execBudgetPeriodEnd q s
  | .wrap q => Sys2Proof.Machine.execWrap q s
  | .launch q => Sys2Proof.Machine.execLaunch q s
  | .invoke q => Sys2Proof.Machine.execInvoke q s
  | .copy q => Sys2Proof.Machine.execCopy q s
  | .signal q => Sys2Proof.Machine.execSignal q s
  | .wait q => Sys2Proof.Machine.execWait q s
  | .waitPoll q => Sys2Proof.Machine.execWaitPoll q s
  | .indirect q => Sys2Proof.Machine.execIndirect q s
  | .loadModel q => Sys2Proof.Machine.execLoadModel q s
  | .modelUnloadComplete slot => Sys2Proof.Machine.execModelUnloadComplete slot s
  | .barrier q => Sys2Proof.Machine.execBarrier q s
  | .packetCompletion q idx => Sys2Proof.Machine.execPacketCompletion q idx s
  | .frameTick => Sys2Proof.Machine.execFrameTick s
  | .windowMessageArrival => Sys2Proof.Machine.execWindowMessageArrival s
  | .lossNotice => Sys2Proof.Machine.execLossNotice s
  | .flitReplay => Sys2Proof.Machine.execFlitReplay s
  | .permitReturn => Sys2Proof.Machine.execPermitReturn s
  | .auditFlit => Sys2Proof.Machine.execAuditFlit s
  | .resynchronisation => Sys2Proof.Machine.execResynchronisation s
  | .commandLinkMessage => Sys2Proof.Machine.execCommandLinkMessage s
  | .tailWrite => Sys2Proof.Machine.execTailWrite s
  | .haltClear => Sys2Proof.Machine.execHaltClear s
  | .hsemTake => Sys2Proof.Machine.execHsemTake s
  | .hsemRelease => Sys2Proof.Machine.execHsemRelease s
  | .pwrmodeWrite => Sys2Proof.Machine.execPwrmodeWrite s
  | .powerModeChange => Sys2Proof.Machine.execPowerModeChange s
  | .resetRequest => Sys2Proof.Machine.execResetRequest s
  | .registerWrite => Sys2Proof.Machine.execRegisterWrite s
  | .firmwareImageLoad => Sys2Proof.Machine.execFirmwareImageLoad s
  | .coldReset => Sys2Proof.Machine.execColdReset s
  | .warmReset => Sys2Proof.Machine.execWarmReset s
  | .portReset => Sys2Proof.Machine.execPortReset s
  | .bankerBoot => Sys2Proof.Machine.execBankerBoot s
  | .hbmTraining => Sys2Proof.Machine.execHbmTraining s
  | .leafBoot => Sys2Proof.Machine.execLeafBoot s
  | .bringupReady => Sys2Proof.Machine.execBringupReady s
  | .thermalStepUp => Sys2Proof.Machine.execThermalStepUp s
  | .thermalTrip => Sys2Proof.Machine.execThermalTrip s
  | .managementReset => Sys2Proof.Machine.execManagementReset s
  | .debugAccess => Sys2Proof.Machine.execDebugAccess s
  | .hostMemoryAccess => Sys2Proof.Machine.execHostMemoryAccess s
  | .retrainComplete => Sys2Proof.Machine.execRetrainComplete s
  | .errorCheckAndScrub => Sys2Proof.Machine.execErrorCheckAndScrub s

end Sys2Proof.Machine
end

