-- ==== Sys2Proof/Decode.lean ====
section
/-!
DEFINITION. Decoding a dealer word to an instruction or the cause it raises, in the order of R52, and the encoder beside it.
Words are natural numbers below 2^32 and a field is read by division, so that the kernel and `omega` can both follow it.
-/
namespace Sys2Proof

/-- Bits `lo + n - 1` down to `lo` of a word. -/
def fld (w lo n : Nat) : Nat := w / 2 ^ lo % 2 ^ n

/-- A check of decoding: the cause when it fails. -/
def need (ok : Bool) (c : Cause) : Except Cause Unit := if ok then .ok () else .error c

/-- A field that names one of n things, from a code that may lie outside (R39, R44). -/
def litOf (n k : Nat) : Except Cause (Fin n) := if h : k < n then .ok ⟨k, h⟩ else .error .badReg

/-- A source register code (R39). -/
def srcOf (k : Nat) : Except Cause Src :=
  if h : k < 48 then .ok (.g ⟨k, h⟩)
  else if h : k - 48 < 8 then .ok (.b ⟨k - 48, h⟩)
  else match k with
    | 56 => .ok .zero
    | 57 => .ok .tileid
    | 58 => .ok .ctxid
    | 59 => .ok .lc0
    | 60 => .ok .lc1
    | _ => .error .badReg

/-- A destination: suppressed when n is set (R41), else a general register (R39). -/
def dstOf (n d : Nat) : Except Cause Dst :=
  if n = 1 then .ok none else (litOf 48 d).map some

/-- Guard and stop bit of a word with a stop bit (R38). -/
def hdOf (w : Nat) : Hd := ⟨⟨fld w 23 3, Nat.mod_lt _ (by decide)⟩, fld w 21 1 == 1⟩

/-- Guard of a word without a stop bit. -/
def guardOf (w : Nat) : Fin 8 := ⟨fld w 23 3, Nat.mod_lt _ (by decide)⟩

/-- n is legal where the form has a suppressible destination (R41). -/
def nOk (w : Nat) : Bool := fld w 22 1 == 0 || fld w 15 6 == 0
/-- n is 0. -/
def n0 (w : Nat) : Bool := fld w 22 1 == 0
/-- The d field is 0. -/
def d0 (w : Nat) : Bool := fld w 15 6 == 0
/-- The a field is 0. -/
def a0 (w : Nat) : Bool := fld w 9 6 == 0
/-- The c field is 0. -/
def c0 (w : Nat) : Bool := fld w 3 6 == 0

/-- d, a, c. -/
def asR3 (w : Nat) (k : Hd → Dst → Src → Src → Instr) : Except Cause Instr := do
  need (nOk w) .reservedField
  return k (hdOf w) (← dstOf (fld w 22 1) (fld w 15 6)) (← srcOf (fld w 9 6)) (← srcOf (fld w 3 6))
/-- d, a. -/
def asR2 (w : Nat) (k : Hd → Dst → Src → Instr) : Except Cause Instr := do
  need (nOk w && c0 w) .reservedField
  return k (hdOf w) (← dstOf (fld w 22 1) (fld w 15 6)) (← srcOf (fld w 9 6))
/-- d read and written, a, c. -/
def asRd3 (w : Nat) (k : Hd → Fin 48 → Src → Src → Instr) : Except Cause Instr := do
  need (n0 w) .reservedField
  return k (hdOf w) (← litOf 48 (fld w 15 6)) (← srcOf (fld w 9 6)) (← srcOf (fld w 3 6))
/-- d, a, imm9. -/
def asI9 (w : Nat) (k : Hd → Dst → Src → BitVec 9 → Instr) : Except Cause Instr := do
  need (nOk w) .reservedField
  return k (hdOf w) (← dstOf (fld w 22 1) (fld w 15 6)) (← srcOf (fld w 9 6)) (BitVec.ofNat 9 (fld w 0 9))
/-- d, a, imm6. -/
def asI6 (w : Nat) (k : Hd → Dst → Src → BitVec 6 → Instr) : Except Cause Instr := do
  need (nOk w) .reservedField
  return k (hdOf w) (← dstOf (fld w 22 1) (fld w 15 6)) (← srcOf (fld w 9 6)) (BitVec.ofNat 6 (fld w 0 6))
/-- A predicate-write mode; code 7 is refused last (R52). -/
def ctOf (k : Nat) : Except Cause CmpMode :=
  match k with
  | 0 => .ok .plain
  | 1 => .ok .z
  | 2 => .ok .all
  | 3 => .ok .any
  | 4 => .ok .xor
  | 5 => .ok .hit
  | 6 => .ok .mix
  | _ => .error .predCode
/-- pd1 and pd2 of a compare. -/
def pdOf (w lo : Nat) : Fin 8 := ⟨fld w lo 3, Nat.mod_lt _ (by decide)⟩
/-- A compare with a register. -/
def asCmp (w : Nat) (k : Fin 8 → CmpMode → Fin 8 → Fin 8 → Src → Src → Instr) : Except Cause Instr := do
  let a ← srcOf (fld w 8 6)
  let c ← srcOf (fld w 2 6)
  return k (guardOf w) (← ctOf (fld w 20 3)) (pdOf w 17) (pdOf w 14) a c
/-- A compare with an immediate. -/
def asCmpI (w : Nat) (k : Fin 8 → CmpMode → Fin 8 → Fin 8 → Src → BitVec 6 → Instr) : Except Cause Instr := do
  let a ← srcOf (fld w 8 6)
  return k (guardOf w) (← ctOf (fld w 20 3)) (pdOf w 17) (pdOf w 14) a (BitVec.ofNat 6 (fld w 0 6))
/-- Three predicate numbers. -/
def asP3 (w : Nat) (k : Hd → Fin 8 → Fin 8 → Fin 8 → Instr) : Except Cause Instr := do
  need (n0 w) .reservedField
  return k (hdOf w) (← litOf 8 (fld w 15 6)) (← litOf 8 (fld w 9 6)) (← litOf 8 (fld w 3 6))
/-- Two predicate numbers. -/
def asP2 (w : Nat) (k : Hd → Fin 8 → Fin 8 → Instr) : Except Cause Instr := do
  need (n0 w && c0 w) .reservedField
  return k (hdOf w) (← litOf 8 (fld w 15 6)) (← litOf 8 (fld w 9 6))
/-- A destination alone. -/
def asD (w : Nat) (k : Hd → Dst → Instr) : Except Cause Instr := do
  need (nOk w && a0 w && c0 w) .reservedField
  return k (hdOf w) (← dstOf (fld w 22 1) (fld w 15 6))
/-- Two sources. -/
def asAC (w : Nat) (k : Hd → Src → Src → Instr) : Except Cause Instr := do
  need (n0 w && d0 w) .reservedField
  return k (hdOf w) (← srcOf (fld w 9 6)) (← srcOf (fld w 3 6))
/-- One source. -/
def asA (w : Nat) (k : Hd → Src → Instr) : Except Cause Instr := do
  need (n0 w && d0 w && c0 w) .reservedField
  return k (hdOf w) (← srcOf (fld w 9 6))
/-- No operand. -/
def asNone (w : Nat) (k : Hd → Instr) : Except Cause Instr := do
  need (n0 w && d0 w && a0 w && c0 w) .reservedField
  return k (hdOf w)
/-- A branch displacement. -/
def asB (w : Nat) (k : Fin 8 → BitVec 23 → Instr) : Except Cause Instr :=
  .ok (k (guardOf w) (BitVec.ofNat 23 (fld w 0 23)))
/-- JRL: its n must be 0 (R117). -/
def asJrl (w : Nat) (k : Hd → Fin 48 → Src → Instr) : Except Cause Instr := do
  need (n0 w && c0 w) .reservedField
  return k (hdOf w) (← litOf 48 (fld w 15 6)) (← srcOf (fld w 9 6))
/-- LOOP: an end of 0 is outside its codes (R45). -/
def asLoop (w : Nat) (k : Hd → Src → BitVec 9 → Instr) : Except Cause Instr := do
  need (n0 w && d0 w && fld w 0 9 != 0) .reservedField
  return k (hdOf w) (← srcOf (fld w 9 6)) (BitVec.ofNat 9 (fld w 0 9))
/-- The modulo register of a memory form, m1 to m7 as 0 to 6 (R46). -/
def modOf (m : Nat) : Option (Fin 7) := if h : m - 1 < 7 then (if m = 0 then none else some ⟨m - 1, h⟩) else none
/-- The base of a memory form: with a modulo register it must be a general register (R46). -/
def baseOf (m a : Nat) : Except Cause Src := do
  need (m == 0 || decide (a < 48)) .badReg
  srcOf a
/-- A load. -/
def asLoad (w : Nat) (k : Hd → Dst → Src → Option (Fin 7) → BitVec 4 → Instr) : Except Cause Instr := do
  need (nOk w) .reservedField
  return k (hdOf w) (← dstOf (fld w 22 1) (fld w 15 6)) (← baseOf (fld w 6 3) (fld w 9 6)) (modOf (fld w 6 3))
    (BitVec.ofNat 4 (fld w 0 4))
/-- A store: d is its data source. -/
def asStore (w : Nat) (k : Hd → Src → Src → Option (Fin 7) → BitVec 4 → Instr) : Except Cause Instr := do
  need (n0 w) .reservedField
  return k (hdOf w) (← srcOf (fld w 15 6)) (← baseOf (fld w 6 3) (fld w 9 6)) (modOf (fld w 6 3))
    (BitVec.ofNat 4 (fld w 0 4))
/-- The number K = 1 to 7 of a modulo register, as 0 to 6. -/
def kOf (k : Nat) : Except Cause (Fin 7) := if k = 0 then .error .badReg else litOf 7 (k - 1)
/-- MSET. -/
def asMset (w : Nat) (k : Hd → Fin 7 → Src → Src → Instr) : Except Cause Instr := do
  need (n0 w) .reservedField
  return k (hdOf w) (← kOf (fld w 15 6)) (← srcOf (fld w 9 6)) (← srcOf (fld w 3 6))
/-- MGETB, MGETL. -/
def asMget (w : Nat) (k : Hd → Dst → Fin 7 → Instr) : Except Cause Instr := do
  need (nOk w && c0 w) .reservedField
  return k (hdOf w) (← dstOf (fld w 22 1) (fld w 15 6)) (← kOf (fld w 9 6))
/-- CSRR: the CSR number is a:c. -/
def asCsrr (w : Nat) (k : Hd → Dst → BitVec 12 → Instr) : Except Cause Instr := do
  need (nOk w) .reservedField
  return k (hdOf w) (← dstOf (fld w 22 1) (fld w 15 6)) (BitVec.ofNat 12 (fld w 3 12))
/-- CSRW, CSRS, CSRC: d is a source. -/
def asCsrx (w : Nat) (k : Hd → BitVec 12 → Src → Instr) : Except Cause Instr := do
  need (n0 w) .reservedField
  return k (hdOf w) (BitVec.ofNat 12 (fld w 3 12)) (← srcOf (fld w 15 6))
/-- A scope code (R45). -/
def scopeOf (k : Nat) : Except Cause Scope :=
  match k with
  | 0 => .ok .tile
  | 1 => .ok .clu
  | 2 => .ok .die
  | 3 => .ok .dev
  | 4 => .ok .dom
  | _ => .error .reservedField
/-- An order code (R45). -/
def ordOf (k : Nat) : Order :=
  match k with
  | 0 => .rlx
  | 1 => .acq
  | 2 => .rel
  | _ => .ar
/-- An atomic. -/
def asAmo (w : Nat) (k : Hd → Bool → Scope → Order → Fin 48 → Src → Instr) : Except Cause Instr := do
  need (n0 w) .reservedField
  let sc ← scopeOf (fld w 3 3)
  return k (hdOf w) (fld w 0 1 == 1) sc (ordOf (fld w 1 2)) (← litOf 48 (fld w 15 6)) (← srcOf (fld w 9 6))
/-- AMOCAS: d even and at most 46 (R364). -/
def asCas (w : Nat) (k : Hd → Bool → Scope → Order → Fin 48 → Src → Instr) : Except Cause Instr := do
  need (n0 w) .reservedField
  let sc ← scopeOf (fld w 3 3)
  need (fld w 15 6 % 2 == 0) .badReg
  return k (hdOf w) (fld w 0 1 == 1) sc (ordOf (fld w 1 2)) (← litOf 48 (fld w 15 6)) (← srcOf (fld w 9 6))
/-- FENCE: its order is not RLX (R50). -/
def asFence (w : Nat) (k : Hd → Scope → Order → Instr) : Except Cause Instr := do
  need (n0 w && d0 w && a0 w && fld w 0 1 == 0 && fld w 1 2 != 0) .reservedField
  return k (hdOf w) (← scopeOf (fld w 3 3)) (ordOf (fld w 1 2))
/-- FENCE.I. -/
def asNoneI (w : Nat) (k : Hd → Instr) : Except Cause Instr := do
  need (n0 w && d0 w && a0 w && fld w 0 6 == 0) .reservedField
  return k (hdOf w)
/-- TRAP n. -/
def asTrap (w : Nat) (k : Hd → BitVec 6 → Instr) : Except Cause Instr := do
  need (n0 w && d0 w && a0 w) .reservedField
  return k (hdOf w) (BitVec.ofNat 6 (fld w 3 6))
/-- A literal number in d and a source. -/
def asDA (m w : Nat) (k : Hd → Fin m → Src → Instr) : Except Cause Instr := do
  need (n0 w && c0 w) .reservedField
  return k (hdOf w) (← litOf m (fld w 15 6)) (← srcOf (fld w 9 6))
/-- A literal number in d. -/
def asDLit (m w : Nat) (k : Hd → Fin m → Instr) : Except Cause Instr := do
  need (n0 w && a0 w && c0 w) .reservedField
  return k (hdOf w) (← litOf m (fld w 15 6))
/-- A chain mask 1 to 15 in d. -/
def asMask (w : Nat) (k : Hd → BitVec 4 → Instr) : Except Cause Instr := do
  need (n0 w && a0 w && c0 w) .reservedField
  need (fld w 15 6 != 0 && decide (fld w 15 6 < 16)) .badReg
  return k (hdOf w) (BitVec.ofNat 4 (fld w 15 6))
/-- A destination and a literal number in a. -/
def asDstLit (m w : Nat) (k : Hd → Dst → Fin m → Instr) : Except Cause Instr := do
  need (nOk w && c0 w) .reservedField
  return k (hdOf w) (← dstOf (fld w 22 1) (fld w 15 6)) (← litOf m (fld w 9 6))
/-- A destination, a literal number in a and a source in c. -/
def asDstNC (m w : Nat) (k : Hd → Dst → Fin m → Src → Instr) : Except Cause Instr := do
  need (nOk w) .reservedField
  return k (hdOf w) (← dstOf (fld w 22 1) (fld w 15 6)) (← litOf m (fld w 9 6)) (← srcOf (fld w 3 6))
/-- A literal number in d and two sources. -/
def asSem3 (w : Nat) (k : Hd → Fin 64 → Src → Src → Instr) : Except Cause Instr := do
  need (n0 w) .reservedField
  return k (hdOf w) (← litOf 64 (fld w 15 6)) (← srcOf (fld w 9 6)) (← srcOf (fld w 3 6))
/-- The tensor number of major 0x23 (R45). -/
def tidOf (w : Nat) : Fin 128 := ⟨fld w 0 7, Nat.mod_lt _ (by decide)⟩
/-- TDEF. -/
def asTdef (w : Nat) (k : Hd → Fin 128 → Src → Instr) : Except Cause Instr := do
  need (n0 w && d0 w) .reservedField
  return k (hdOf w) (tidOf w) (← srcOf (fld w 9 6))
/-- TMOD: d is a source. -/
def asTmod (w : Nat) (k : Hd → Fin 128 → Src → Src → Instr) : Except Cause Instr := do
  need (n0 w) .reservedField
  return k (hdOf w) (tidOf w) (← srcOf (fld w 9 6)) (← srcOf (fld w 15 6))
/-- TGET. -/
def asTget (w : Nat) (k : Hd → Dst → Fin 128 → Src → Instr) : Except Cause Instr := do
  need (nOk w) .reservedField
  return k (hdOf w) (← dstOf (fld w 22 1) (fld w 15 6)) (tidOf w) (← srcOf (fld w 9 6))
/-- TKILL. -/
def asTkill (w : Nat) (k : Hd → Fin 128 → Instr) : Except Cause Instr := do
  need (n0 w && d0 w && a0 w) .reservedField
  return k (hdOf w) (tidOf w)
/-- BURST. -/
def asBurst (w : Nat) (k : Hd → BitVec 9 → Instr) : Except Cause Instr := do
  need (n0 w && d0 w && a0 w) .reservedField
  return k (hdOf w) (BitVec.ofNat 9 (fld w 0 9))
/-- A long form (R49): alignment first, then the fields. -/
def asLong (w w2 : Nat) (aligned : Bool) : Except Cause Instr :=
  match fld w 12 3 with
  | 0 => do
    need aligned .longSplit
    need (nOk w && fld w 0 12 == 0) .reservedField
    return .li (hdOf w) (← dstOf (fld w 22 1) (fld w 15 6)) (BitVec.ofNat 32 w2)
  | 1 => do
    need aligned .longSplit
    need (nOk w && fld w 0 12 == 0) .reservedField
    return .liu (hdOf w) (← dstOf (fld w 22 1) (fld w 15 6)) (BitVec.ofNat 32 w2)
  | 2 => do
    need aligned .longSplit
    need (n0 w && fld w 0 12 == 0) .reservedField
    return .lih (hdOf w) (← litOf 48 (fld w 15 6)) (BitVec.ofNat 32 w2)
  | 3 => do
    need aligned .longSplit
    need (n0 w && fld w 0 12 == 0) .reservedField
    return .addl (hdOf w) (← litOf 48 (fld w 15 6)) (BitVec.ofNat 32 w2)
  | _ => .error .illegalOp

/-- The word is the first of a long form. -/
def isLong (w : Nat) : Bool := fld w 26 6 == 0x3e

/-- Checks 1 to 5 of R52 on a word, its alignment to 8 bytes and, for a long form, its second word. -/
def decode (w w2 : Nat) (aligned : Bool) : Except Cause Instr :=
  match fld w 26 6 with
  | 0x01 => match fld w 0 3 with
    | 0 => asR3 w .add
    | 1 => asR3 w .sub
    | 2 => asR3 w .addw
    | 3 => asR3 w .subw
    | _ => .error .illegalOp
  | 0x02 => match fld w 0 3 with
    | 0 => asR3 w .and
    | 1 => asR3 w .or
    | 2 => asR3 w .xor
    | 3 => asR3 w .andn
    | 4 => asR3 w .orn
    | 5 => asR3 w .xnor
    | _ => .error .illegalOp
  | 0x03 => match fld w 0 3 with
    | 0 => asR3 w .sll
    | 1 => asR3 w .srl
    | 2 => asR3 w .sra
    | 3 => asR3 w .rol
    | 4 => asR3 w .ror
    | 5 => asR3 w .sllw
    | 6 => asR3 w .srlw
    | 7 => asR3 w .sraw
    | _ => .error .illegalOp
  | 0x04 => match fld w 0 3 with
    | 0 => asR3 w .mul
    | 1 => asR3 w .mulh
    | 2 => asR3 w .mulhu
    | 3 => asR3 w .mulhsu
    | 4 => asR3 w .div
    | 5 => asR3 w .divu
    | 6 => asR3 w .rem
    | 7 => asR3 w .remu
    | _ => .error .illegalOp
  | 0x05 => match fld w 0 3 with
    | 0 => asR3 w .min
    | 1 => asR3 w .max
    | 2 => asR3 w .minu
    | 3 => asR3 w .maxu
    | 4 => asR2 w .abs
    | 5 => asRd3 w .movnz
    | 6 => asRd3 w .movz
    | _ => .error .illegalOp
  | 0x06 => match fld w 0 3 with
    | 0 => asR2 w .clz
    | 1 => asR2 w .ctz
    | 2 => asR2 w .popc
    | 3 => asR3 w .bfxu
    | 4 => asR3 w .bfxs
    | 5 => asRd3 w .bfi
    | 6 => asR2 w .rev8
    | _ => .error .illegalOp
  | 0x07 => match fld w 0 3 with
    | 0 => asR3 w .sh1add
    | 1 => asR3 w .sh2add
    | 2 => asR3 w .sh3add
    | 3 => asR3 w .sh4add
    | 4 => asR3 w .sh6add
    | 5 => asR3 w .sh8add
    | 6 => asR3 w .sh13add
    | _ => .error .illegalOp
  | 0x08 => asI9 w .addi
  | 0x09 => asI9 w .andi
  | 0x0a => asI9 w .ori
  | 0x0b => match fld w 6 3 with
    | 0 => asI6 w .slli
    | 1 => asI6 w .srli
    | 2 => asI6 w .srai
    | 3 => asI6 w .rori
    | 4 => asI6 w .xori
    | _ => .error .illegalOp
  | 0x0c => match fld w 0 2 with
    | 0 => asCmp w .cmpeq
    | 1 => asCmp w .cmpne
    | 2 => asCmp w .cmplt
    | 3 => asCmp w .cmpge
    | _ => .error .illegalOp
  | 0x0d => match fld w 0 2 with
    | 0 => asCmp w .cmpltu
    | 1 => asCmp w .cmpgeu
    | 2 => asCmp w .cmpts
    | 3 => asCmp w .cmptc
    | _ => .error .illegalOp
  | 0x0e => match fld w 6 2 with
    | 0 => asCmpI w .cmpeqi
    | 1 => asCmpI w .cmpnei
    | 2 => asCmpI w .cmplti
    | 3 => asCmpI w .cmpgei
    | _ => .error .illegalOp
  | 0x0f => match fld w 6 2 with
    | 0 => asCmpI w .cmpltui
    | 1 => asCmpI w .cmpgeui
    | 2 => asCmpI w .cmptsi
    | 3 => asCmpI w .cmptci
    | _ => .error .illegalOp
  | 0x10 => match fld w 0 3 with
    | 0 => asP3 w .pand
    | 1 => asP3 w .por
    | 2 => asP3 w .pxor
    | 3 => asP3 w .pandn
    | 4 => asP2 w .pnot
    | 5 => asD w .pget
    | 6 => asAC w .pput
    | _ => .error .illegalOp
  | 0x11 => asB w .br
  | 0x12 => asB w .brl
  | 0x13 => match fld w 0 3 with
    | 0 => asA w .jr
    | 1 => asJrl w .jrl
    | 2 => asNone w .ret
    | _ => .error .illegalOp
  | 0x14 => asLoop w .loop
  | 0x15 => match fld w 4 2 with
    | 0 => asLoad w .lbu
    | 1 => asLoad w .lhu
    | 2 => asLoad w .lwu
    | 3 => asLoad w .ld
    | _ => .error .illegalOp
  | 0x16 => match fld w 4 2 with
    | 0 => asLoad w .lb
    | 1 => asLoad w .lh
    | 2 => asLoad w .lw
    | _ => .error .illegalOp
  | 0x17 => match fld w 4 2 with
    | 0 => asStore w .sb
    | 1 => asStore w .sh
    | 2 => asStore w .sw
    | 3 => asStore w .sd
    | _ => .error .illegalOp
  | 0x18 => match fld w 0 3 with
    | 0 => asMset w .mset
    | 1 => asMget w .mgetb
    | 2 => asMget w .mgetl
    | _ => .error .illegalOp
  | 0x19 => match fld w 0 3 with
    | 0 => asCsrr w .csrr
    | 1 => asCsrx w .csrw
    | 2 => asCsrx w .csrs
    | 3 => asCsrx w .csrc
    | _ => .error .illegalOp
  | 0x1a => match fld w 6 3 with
    | 0 => asAmo w .amoadd
    | 1 => asAmo w .amoand
    | 2 => asAmo w .amoor
    | 3 => asAmo w .amoxor
    | 4 => asAmo w .amomin
    | 5 => asAmo w .amomax
    | 6 => asAmo w .amoswap
    | 7 => asCas w .amocas
    | _ => .error .illegalOp
  | 0x1b => match fld w 6 3 with
    | 0 => asFence w .fence
    | 1 => asNoneI w .fenceI
    | _ => .error .illegalOp
  | 0x1c => match fld w 0 3 with
    | 0 => asNone w .nop
    | 1 => asTrap w .trap
    | 2 => asNone w .eret
    | 3 => asNone w .brk
    | _ => .error .illegalOp
  | 0x20 => match fld w 0 3 with
    | 0 => asDA 4 w .link
    | 1 => asDLit 4 w .kick
    | 2 => asMask w .fork
    | 3 => asMask w .rdv
    | 4 => asNone w .drain
    | _ => .error .illegalOp
  | 0x21 => match fld w 0 3 with
    | 0 => asDstLit 4 w .chseq
    | 1 => asDstLit 4 w .chstat
    | _ => .error .illegalOp
  | 0x22 => match fld w 0 3 with
    | 0 => asSem3 w .semi
    | 1 => asSem3 w .semb
    | 2 => asSem3 w .semw
    | 3 => asDA 64 w .semp
    | 4 => asDstNC 64 w .semr
    | 5 => asDLit 64 w .semk
    | _ => .error .illegalOp
  | 0x23 => match fld w 7 2 with
    | 0 => asTdef w .tdef
    | 1 => asTmod w .tmod
    | 2 => asTget w .tget
    | 3 => asTkill w .tkill
    | _ => .error .illegalOp
  | 0x24 => match fld w 0 3 with
    | 0 => asA w .claim
    | 1 => asA w .release
    | 2 => asA w .aclr
    | 3 => asR2 w .hstat
    | 4 => asD w .partw
    | _ => .error .illegalOp
  | 0x25 => match fld w 0 3 with
    | 0 => asDA 4 w .axis
    | 1 => asDA 4 w .resi
    | 2 => asDA 4 w .resx
    | 3 => asDstNC 4 w .resr
    | 4 => asDLit 4 w .resclr
    | 5 => asDA 8 w .qsw
    | 6 => asDstLit 8 w .qsr
    | _ => .error .illegalOp
  | 0x26 => match fld w 0 3 with
    | 0 => asDA 4 w .covset
    | 1 => asDstNC 4 w .covget
    | 2 => asDstNC 4 w .covstat
    | _ => .error .illegalOp
  | 0x27 => match fld w 0 3 with
    | 0 => asA w .spawn
    | 1 => asAC w .enq
    | 2 => asAC w .await
    | 3 => asAC w .resolve
    | 4 => asNone w .yield
    | 5 => asNone w .endRec
    | 6 => asA w .cancel
    | _ => .error .illegalOp
  | 0x28 => match fld w 0 3 with
    | 0 => asA w .join
    | 1 => asA w .leave
    | 2 => asA w .gbar
    | 3 => asNone w .wfe
    | 4 => asA w .sev
    | _ => .error .illegalOp
  | 0x29 => match fld w 0 3 with
    | 0 => asA w .ctxsave
    | 1 => asA w .ctxrestore
    | _ => .error .illegalOp
  | 0x2a => match fld w 0 3 with
    | 0 => asAC w .qbind
    | 1 => asA w .qunbind
    | 2 => asR2 w .qdepth
    | _ => .error .illegalOp
  | 0x2b => match fld w 0 3 with
    | 0 => asR2 w .tprobe
    | 1 => asAC w .tinv
    | _ => .error .illegalOp
  | 0x2c => asBurst w .burst
  | 0x3e => asLong w w2 aligned
  | _ => .error .illegalOp

/-- The little-endian word of four bytes (R1, R37). -/
def leWord : List Byte → Nat
  | [] => 0
  | b :: bs => b.toNat + 256 * leWord bs

/-- Decode the bytes at an address: at least 4, and 8 for a long form. -/
def decodeBytes (bs : List Byte) (aligned : Bool) : Except Cause Instr :=
  decode (leWord (bs.take 4)) (leWord ((bs.drop 4).take 4)) aligned

/-- The bytes of a number, least significant first. -/
def leBytes : Nat → Nat → List Byte
  | 0, _ => []
  | n + 1, v => BitVec.ofNat 8 v :: leBytes n (v / 256)

/-- The instruction the decoder reads from a table word (its bits numbered as spec/opcode_table.json numbers them). -/
def decodeTableWord (nbits w : Nat) : Option Instr :=
  match decodeBytes (leBytes 8 (w % 2 ^ nbits)) true with
  | .ok i => some i
  | .error _ => none

/-! ## The encoder -/

/-- The n bit of a destination. -/
def dstN (d : Dst) : Nat := if d.isNone then 1 else 0
/-- The d field of a destination. -/
def dstCode (d : Dst) : Nat := match d with
  | none => 0
  | some g => g
/-- The m field. -/
def modCode (m : Option (Fin 7)) : Nat := match m with
  | none => 0
  | some k => k + 1
/-- Guard, n, stop and d. -/
def encHead (maj : Nat) (h : Hd) (n d : Nat) : Nat :=
  maj * 67108864 + h.guard * 8388608 + n * 4194304 + h.stop.toNat * 2097152 + d * 32768
/-- Format R. -/
def encR (maj fn : Nat) (h : Hd) (n d a c : Nat) : Nat := encHead maj h n d + a * 512 + c * 8 + fn
/-- Formats I and M. -/
def encI (maj : Nat) (h : Hd) (n d a i : Nat) : Nat := encHead maj h n d + a * 512 + i
/-- Formats C and CI. -/
def encC (maj : Nat) (g : Fin 8) (ct : CmpMode) (p q : Fin 8) (a : Src) (low : Nat) : Nat :=
  maj * 67108864 + g * 8388608 + ct.code * 1048576 + p * 131072 + q * 16384 + a.code * 256 + low
/-- The first word of format L. -/
def encL (h : Hd) (n d kind : Nat) : Nat := encHead 0x3e h n d + kind * 4096

/-- The words of an instruction; a step of another agent has none. -/
def encode (i : Instr) : List Nat :=
  match i with
  | .add h d a c => [encR 0x1 0 h (dstN d) (dstCode d) a.code c.code]
  | .sub h d a c => [encR 0x1 1 h (dstN d) (dstCode d) a.code c.code]
  | .addw h d a c => [encR 0x1 2 h (dstN d) (dstCode d) a.code c.code]
  | .subw h d a c => [encR 0x1 3 h (dstN d) (dstCode d) a.code c.code]
  | .and h d a c => [encR 0x2 0 h (dstN d) (dstCode d) a.code c.code]
  | .or h d a c => [encR 0x2 1 h (dstN d) (dstCode d) a.code c.code]
  | .xor h d a c => [encR 0x2 2 h (dstN d) (dstCode d) a.code c.code]
  | .andn h d a c => [encR 0x2 3 h (dstN d) (dstCode d) a.code c.code]
  | .orn h d a c => [encR 0x2 4 h (dstN d) (dstCode d) a.code c.code]
  | .xnor h d a c => [encR 0x2 5 h (dstN d) (dstCode d) a.code c.code]
  | .sll h d a c => [encR 0x3 0 h (dstN d) (dstCode d) a.code c.code]
  | .srl h d a c => [encR 0x3 1 h (dstN d) (dstCode d) a.code c.code]
  | .sra h d a c => [encR 0x3 2 h (dstN d) (dstCode d) a.code c.code]
  | .rol h d a c => [encR 0x3 3 h (dstN d) (dstCode d) a.code c.code]
  | .ror h d a c => [encR 0x3 4 h (dstN d) (dstCode d) a.code c.code]
  | .sllw h d a c => [encR 0x3 5 h (dstN d) (dstCode d) a.code c.code]
  | .srlw h d a c => [encR 0x3 6 h (dstN d) (dstCode d) a.code c.code]
  | .sraw h d a c => [encR 0x3 7 h (dstN d) (dstCode d) a.code c.code]
  | .mul h d a c => [encR 0x4 0 h (dstN d) (dstCode d) a.code c.code]
  | .mulh h d a c => [encR 0x4 1 h (dstN d) (dstCode d) a.code c.code]
  | .mulhu h d a c => [encR 0x4 2 h (dstN d) (dstCode d) a.code c.code]
  | .mulhsu h d a c => [encR 0x4 3 h (dstN d) (dstCode d) a.code c.code]
  | .div h d a c => [encR 0x4 4 h (dstN d) (dstCode d) a.code c.code]
  | .divu h d a c => [encR 0x4 5 h (dstN d) (dstCode d) a.code c.code]
  | .rem h d a c => [encR 0x4 6 h (dstN d) (dstCode d) a.code c.code]
  | .remu h d a c => [encR 0x4 7 h (dstN d) (dstCode d) a.code c.code]
  | .min h d a c => [encR 0x5 0 h (dstN d) (dstCode d) a.code c.code]
  | .max h d a c => [encR 0x5 1 h (dstN d) (dstCode d) a.code c.code]
  | .minu h d a c => [encR 0x5 2 h (dstN d) (dstCode d) a.code c.code]
  | .maxu h d a c => [encR 0x5 3 h (dstN d) (dstCode d) a.code c.code]
  | .abs h d a => [encR 0x5 4 h (dstN d) (dstCode d) a.code 0]
  | .movnz h d a c => [encR 0x5 5 h 0 d a.code c.code]
  | .movz h d a c => [encR 0x5 6 h 0 d a.code c.code]
  | .clz h d a => [encR 0x6 0 h (dstN d) (dstCode d) a.code 0]
  | .ctz h d a => [encR 0x6 1 h (dstN d) (dstCode d) a.code 0]
  | .popc h d a => [encR 0x6 2 h (dstN d) (dstCode d) a.code 0]
  | .bfxu h d a c => [encR 0x6 3 h (dstN d) (dstCode d) a.code c.code]
  | .bfxs h d a c => [encR 0x6 4 h (dstN d) (dstCode d) a.code c.code]
  | .bfi h d a c => [encR 0x6 5 h 0 d a.code c.code]
  | .rev8 h d a => [encR 0x6 6 h (dstN d) (dstCode d) a.code 0]
  | .sh1add h d a c => [encR 0x7 0 h (dstN d) (dstCode d) a.code c.code]
  | .sh2add h d a c => [encR 0x7 1 h (dstN d) (dstCode d) a.code c.code]
  | .sh3add h d a c => [encR 0x7 2 h (dstN d) (dstCode d) a.code c.code]
  | .sh4add h d a c => [encR 0x7 3 h (dstN d) (dstCode d) a.code c.code]
  | .sh6add h d a c => [encR 0x7 4 h (dstN d) (dstCode d) a.code c.code]
  | .sh8add h d a c => [encR 0x7 5 h (dstN d) (dstCode d) a.code c.code]
  | .sh13add h d a c => [encR 0x7 6 h (dstN d) (dstCode d) a.code c.code]
  | .addi h d a i => [encI 0x8 h (dstN d) (dstCode d) a.code i.toNat]
  | .andi h d a i => [encI 0x9 h (dstN d) (dstCode d) a.code i.toNat]
  | .ori h d a i => [encI 0xa h (dstN d) (dstCode d) a.code i.toNat]
  | .slli h d a i => [encI 0xb h (dstN d) (dstCode d) a.code (i.toNat)]
  | .srli h d a i => [encI 0xb h (dstN d) (dstCode d) a.code (1 * 64 + i.toNat)]
  | .srai h d a i => [encI 0xb h (dstN d) (dstCode d) a.code (2 * 64 + i.toNat)]
  | .rori h d a i => [encI 0xb h (dstN d) (dstCode d) a.code (3 * 64 + i.toNat)]
  | .xori h d a i => [encI 0xb h (dstN d) (dstCode d) a.code (4 * 64 + i.toNat)]
  | .cmpeq g ct p q a c => [encC 0xc g ct p q a (c.code * 4 + 0)]
  | .cmpne g ct p q a c => [encC 0xc g ct p q a (c.code * 4 + 1)]
  | .cmplt g ct p q a c => [encC 0xc g ct p q a (c.code * 4 + 2)]
  | .cmpge g ct p q a c => [encC 0xc g ct p q a (c.code * 4 + 3)]
  | .cmpltu g ct p q a c => [encC 0xd g ct p q a (c.code * 4 + 0)]
  | .cmpgeu g ct p q a c => [encC 0xd g ct p q a (c.code * 4 + 1)]
  | .cmpts g ct p q a c => [encC 0xd g ct p q a (c.code * 4 + 2)]
  | .cmptc g ct p q a c => [encC 0xd g ct p q a (c.code * 4 + 3)]
  | .cmpeqi g ct p q a i => [encC 0xe g ct p q a (i.toNat)]
  | .cmpnei g ct p q a i => [encC 0xe g ct p q a (1 * 64 + i.toNat)]
  | .cmplti g ct p q a i => [encC 0xe g ct p q a (2 * 64 + i.toNat)]
  | .cmpgei g ct p q a i => [encC 0xe g ct p q a (3 * 64 + i.toNat)]
  | .cmpltui g ct p q a i => [encC 0xf g ct p q a (i.toNat)]
  | .cmpgeui g ct p q a i => [encC 0xf g ct p q a (1 * 64 + i.toNat)]
  | .cmptsi g ct p q a i => [encC 0xf g ct p q a (2 * 64 + i.toNat)]
  | .cmptci g ct p q a i => [encC 0xf g ct p q a (3 * 64 + i.toNat)]
  | .pand h p q r => [encR 0x10 0 h 0 p q r]
  | .por h p q r => [encR 0x10 1 h 0 p q r]
  | .pxor h p q r => [encR 0x10 2 h 0 p q r]
  | .pandn h p q r => [encR 0x10 3 h 0 p q r]
  | .pnot h p q => [encR 0x10 4 h 0 p q 0]
  | .pget h d => [encR 0x10 5 h (dstN d) (dstCode d) 0 0]
  | .pput h a c => [encR 0x10 6 h 0 0 a.code c.code]
  | .br g i => [0x11 * 67108864 + g * 8388608 + i.toNat]
  | .brl g i => [0x12 * 67108864 + g * 8388608 + i.toNat]
  | .jr h a => [encR 0x13 0 h 0 0 a.code 0]
  | .jrl h d a => [encR 0x13 1 h 0 d a.code 0]
  | .ret h => [encR 0x13 2 h 0 0 0 0]
  | .loop h a i => [encI 0x14 h 0 0 a.code i.toNat]
  | .lbu h d a m o => [encI 0x15 h (dstN d) (dstCode d) a.code (modCode m * 64 + o.toNat)]
  | .lhu h d a m o => [encI 0x15 h (dstN d) (dstCode d) a.code (modCode m * 64 + 1 * 16 + o.toNat)]
  | .lwu h d a m o => [encI 0x15 h (dstN d) (dstCode d) a.code (modCode m * 64 + 2 * 16 + o.toNat)]
  | .ld h d a m o => [encI 0x15 h (dstN d) (dstCode d) a.code (modCode m * 64 + 3 * 16 + o.toNat)]
  | .lb h d a m o => [encI 0x16 h (dstN d) (dstCode d) a.code (modCode m * 64 + o.toNat)]
  | .lh h d a m o => [encI 0x16 h (dstN d) (dstCode d) a.code (modCode m * 64 + 1 * 16 + o.toNat)]
  | .lw h d a m o => [encI 0x16 h (dstN d) (dstCode d) a.code (modCode m * 64 + 2 * 16 + o.toNat)]
  | .sb h x a m o => [encI 0x17 h 0 x.code a.code (modCode m * 64 + o.toNat)]
  | .sh h x a m o => [encI 0x17 h 0 x.code a.code (modCode m * 64 + 1 * 16 + o.toNat)]
  | .sw h x a m o => [encI 0x17 h 0 x.code a.code (modCode m * 64 + 2 * 16 + o.toNat)]
  | .sd h x a m o => [encI 0x17 h 0 x.code a.code (modCode m * 64 + 3 * 16 + o.toNat)]
  | .mset h k a c => [encR 0x18 0 h 0 (k + 1) a.code c.code]
  | .mgetb h d k => [encR 0x18 1 h (dstN d) (dstCode d) (k + 1) 0]
  | .mgetl h d k => [encR 0x18 2 h (dstN d) (dstCode d) (k + 1) 0]
  | .csrr h d r => [encR 0x19 0 h (dstN d) (dstCode d) (r.toNat / 64) (r.toNat % 64)]
  | .csrw h r x => [encR 0x19 1 h 0 x.code (r.toNat / 64) (r.toNat % 64)]
  | .csrs h r x => [encR 0x19 2 h 0 x.code (r.toNat / 64) (r.toNat % 64)]
  | .csrc h r x => [encR 0x19 3 h 0 x.code (r.toNat / 64) (r.toNat % 64)]
  | .amoadd h w sc o d a => [encI 0x1a h 0 d a.code (sc.code * 8 + o.code * 2 + w.toNat)]
  | .amoand h w sc o d a => [encI 0x1a h 0 d a.code (1 * 64 + sc.code * 8 + o.code * 2 + w.toNat)]
  | .amoor h w sc o d a => [encI 0x1a h 0 d a.code (2 * 64 + sc.code * 8 + o.code * 2 + w.toNat)]
  | .amoxor h w sc o d a => [encI 0x1a h 0 d a.code (3 * 64 + sc.code * 8 + o.code * 2 + w.toNat)]
  | .amomin h w sc o d a => [encI 0x1a h 0 d a.code (4 * 64 + sc.code * 8 + o.code * 2 + w.toNat)]
  | .amomax h w sc o d a => [encI 0x1a h 0 d a.code (5 * 64 + sc.code * 8 + o.code * 2 + w.toNat)]
  | .amoswap h w sc o d a => [encI 0x1a h 0 d a.code (6 * 64 + sc.code * 8 + o.code * 2 + w.toNat)]
  | .amocas h w sc o d a => [encI 0x1a h 0 d a.code (7 * 64 + sc.code * 8 + o.code * 2 + w.toNat)]
  | .fence h sc o => [encI 0x1b h 0 0 0 (sc.code * 8 + o.code * 2)]
  | .fenceI h => [encI 0x1b h 0 0 0 (1 * 64)]
  | .nop h => [encR 0x1c 0 h 0 0 0 0]
  | .trap h n => [encR 0x1c 1 h 0 0 0 n.toNat]
  | .eret h => [encR 0x1c 2 h 0 0 0 0]
  | .brk h => [encR 0x1c 3 h 0 0 0 0]
  | .link h n a => [encR 0x20 0 h 0 n a.code 0]
  | .kick h n => [encR 0x20 1 h 0 n 0 0]
  | .fork h m => [encR 0x20 2 h 0 m.toNat 0 0]
  | .rdv h m => [encR 0x20 3 h 0 m.toNat 0 0]
  | .rdvRelease _ _ => []
  | .drain h => [encR 0x20 4 h 0 0 0 0]
  | .drainComplete _ _ => []
  | .chseq h d n => [encR 0x21 0 h (dstN d) (dstCode d) n 0]
  | .chstat h d n => [encR 0x21 1 h (dstN d) (dstCode d) n 0]
  | .semi h n a c => [encR 0x22 0 h 0 n a.code c.code]
  | .semb h n a c => [encR 0x22 1 h 0 n a.code c.code]
  | .semw h n a c => [encR 0x22 2 h 0 n a.code c.code]
  | .semwGrant _ _ => []
  | .semp h n a => [encR 0x22 3 h 0 n a.code 0]
  | .semr h d n c => [encR 0x22 4 h (dstN d) (dstCode d) n c.code]
  | .semk h n => [encR 0x22 5 h 0 n 0 0]
  | .semIdleAction _ _ => []
  | .tdef h n a => [encI 0x23 h 0 0 a.code n]
  | .tmod h n a x => [encI 0x23 h 0 x.code a.code (1 * 128 + n)]
  | .tget h d n a => [encI 0x23 h (dstN d) (dstCode d) a.code (2 * 128 + n)]
  | .tkill h n => [encI 0x23 h 0 0 0 (3 * 128 + n)]
  | .claim h a => [encR 0x24 0 h 0 0 a.code 0]
  | .release h a => [encR 0x24 1 h 0 0 a.code 0]
  | .releaseComplete _ _ => []
  | .aclr h a => [encR 0x24 2 h 0 0 a.code 0]
  | .hstat h d a => [encR 0x24 3 h (dstN d) (dstCode d) a.code 0]
  | .partw h d => [encR 0x24 4 h (dstN d) (dstCode d) 0 0]
  | .axis h n a => [encR 0x25 0 h 0 n a.code 0]
  | .resi h n a => [encR 0x25 1 h 0 n a.code 0]
  | .resx h n a => [encR 0x25 2 h 0 n a.code 0]
  | .resr h d n c => [encR 0x25 3 h (dstN d) (dstCode d) n c.code]
  | .resclr h n => [encR 0x25 4 h 0 n 0 0]
  | .bankIdleAction _ _ => []
  | .qsw h n a => [encR 0x25 5 h 0 n a.code 0]
  | .qsr h d n => [encR 0x25 6 h (dstN d) (dstCode d) n 0]
  | .covset h n a => [encR 0x26 0 h 0 n a.code 0]
  | .covsetIdleAction _ _ => []
  | .covget h d n c => [encR 0x26 1 h (dstN d) (dstCode d) n c.code]
  | .covstat h d n c => [encR 0x26 2 h (dstN d) (dstCode d) n c.code]
  | .spawn h a => [encR 0x27 0 h 0 0 a.code 0]
  | .enq h a c => [encR 0x27 1 h 0 0 a.code c.code]
  | .enqQueueRoom _ _ => []
  | .await h a c => [encR 0x27 2 h 0 0 a.code c.code]
  | .resolve h a c => [encR 0x27 3 h 0 0 a.code c.code]
  | .yield h => [encR 0x27 4 h 0 0 0 0]
  | .endRec h => [encR 0x27 5 h 0 0 0 0]
  | .cancel h a => [encR 0x27 6 h 0 0 a.code 0]
  | .cancelFlagsSet _ _ => []
  | .jobCancelComplete _ => []
  | .join h a => [encR 0x28 0 h 0 0 a.code 0]
  | .leave h a => [encR 0x28 1 h 0 0 a.code 0]
  | .gbar h a => [encR 0x28 2 h 0 0 a.code 0]
  | .wfe h => [encR 0x28 3 h 0 0 0 0]
  | .wfeWake _ _ => []
  | .sev h a => [encR 0x28 4 h 0 0 a.code 0]
  | .ctxsave h a => [encR 0x29 0 h 0 0 a.code 0]
  | .ctxrestore h a => [encR 0x29 1 h 0 0 a.code 0]
  | .qbind h a c => [encR 0x2a 0 h 0 0 a.code c.code]
  | .qunbind h a => [encR 0x2a 1 h 0 0 a.code 0]
  | .qunbindIdle _ _ => []
  | .qdepth h d a => [encR 0x2a 2 h (dstN d) (dstCode d) a.code 0]
  | .tprobe h d a => [encR 0x2b 0 h (dstN d) (dstCode d) a.code 0]
  | .tinv h a c => [encR 0x2b 1 h 0 0 a.code c.code]
  | .tinvPinsReleased _ _ => []
  | .burst h n => [encI 0x2c h 0 0 0 n.toNat]
  | .li h d i => [encL h (dstN d) (dstCode d) 0, i.toNat]
  | .liu h d i => [encL h (dstN d) (dstCode d) 1, i.toNat]
  | .lih h d i => [encL h 0 d 2, i.toNat]
  | .addl h d i => [encL h 0 d 3, i.toNat]
  | .trapEntry _ _ => []
  | .leafTrapHandling _ _ => []
  | .fwDomainNumber _ _ => []
  | .fwSetWatchdog _ _ => []
  | .fwUnbindSaved _ _ => []
  | .fwLog _ _ => []
  | .watchdog _ _ => []
  | .machineCheck _ _ => []
  | .contextSwitch _ => []
  | .timeSliceExpiry _ => []
  | .recordPop _ _ _ => []
  | .overflowPushRetry _ _ => []
  | .preemption _ _ => []
  | .blockWaitGrant _ _ _ => []
  | .coverageFractionWait _ _ _ => []
  | .loadIteration _ _ => []
  | .storeIteration _ _ => []
  | .linkedQueueEntryArrive _ _ => []
  | .linkedQueueCreditReturn _ _ => []
  | .queueStallResume _ _ _ => []
  | .matrixFloatKStep _ _ => []
  | .matrixIntKStep _ _ => []
  | .vectorIteration _ _ => []
  | .blockRetire _ _ _ => []
  | .coverageContribution _ _ _ => []
  | .nopBlock _ _ _ => []
  | .endBlock _ _ _ => []
  | .markResolve _ _ _ => []
  | .markRendezvous _ _ _ => []
  | .patchAction _ _ _ => []
  | .patchHoldResume _ _ _ => []
  | .patchRangePolicy _ _ _ => []
  | .heldPostApply _ _ _ => []
  | .rampComplete _ => []
  | .matrixCold _ => []
  | .burstHoldExpiry _ => []
  | .windowMessageRetry _ => []
  | .windowAck _ => []
  | .lossDetected _ => []
  | .tokenRefill _ => []
  | .bandwidthRequest _ => []
  | .subnetworkPower _ _ => []
  | .budgetPeriodEnd _ => []
  | .wrap _ => []
  | .launch _ => []
  | .invoke _ => []
  | .copy _ => []
  | .signal _ => []
  | .wait _ => []
  | .waitPoll _ => []
  | .indirect _ => []
  | .loadModel _ => []
  | .modelUnloadComplete _ => []
  | .barrier _ => []
  | .packetCompletion _ _ => []
  | .frameTick => []
  | .windowMessageArrival => []
  | .lossNotice => []
  | .flitReplay => []
  | .permitReturn => []
  | .auditFlit => []
  | .resynchronisation => []
  | .commandLinkMessage => []
  | .tailWrite => []
  | .haltClear => []
  | .hsemTake => []
  | .hsemRelease => []
  | .pwrmodeWrite => []
  | .powerModeChange => []
  | .resetRequest => []
  | .registerWrite => []
  | .firmwareImageLoad => []
  | .coldReset => []
  | .warmReset => []
  | .portReset => []
  | .bankerBoot => []
  | .hbmTraining => []
  | .leafBoot => []
  | .bringupReady => []
  | .thermalStepUp => []
  | .thermalTrip => []
  | .managementReset => []
  | .debugAccess => []
  | .hostMemoryAccess => []
  | .retrainComplete => []
  | .errorCheckAndScrub => []

end Sys2Proof
end

