-- ==== Sys2Proof/Machine/Fetch.lean ====
section
/-!
DEFINITION. Fetching and decoding the next instruction of a tile's dealer (R37, R43, R52, R107, R109), the passing of time, and
how an instruction is placed where the next step fetches it.
-/
namespace Sys2Proof.Machine

/-- IFETCH_FAULT with the code of what failed (R107, R377). -/
def fetchFault {α : Type} (c : Cause) : M α := trapDrop .ifetchFault (BitVec.ofNat 64 c.code) 0

/-- The physical address of the instruction at pc (R107). -/
def fetchPlace (t : TileNo) (x : Ctx) (pc : Word) : M Nat := do
  let o := offOf pc
  let granted (pa : Nat) : M Nat := do
    match ← see fun s => grantFault s x.job pa false with
    | some c => fetchFault c
    | none => return pa
  match spaceOf pc with
  | 0x0 =>
    match ← xlate t x.strict x.job o with
    | .error (c, n) => walkTrap t x .ifetchFault (BitVec.ofNat 64 c.code) pc n
    | .ok e => if e.x then granted (leafPa e o) else fetchFault .pagePermission
  | 0x9 => if spaceOk pc then granted (clPoolAt (t / 8) o) else fetchFault .addressSpace
  | 0xA => if spaceOk pc then granted (diePoolAt (t / 48) o) else fetchFault .addressSpace
  | _ => fetchFault .addressSpace

/-- A fetch that misses the instruction cache reads a line, and is charged where the line lies in HBM4 or on another die; what the cache holds
is not kept, so that a fetch which would be charged is free to hit or miss (R418, log 25). -/
def meterFetch (t : TileNo) (pa : Nat) : M Unit := do
  if isHbm pa || dieOfPa pa != (dieNo t).val then
    if ← drawBit then meterPa t pa 64 else pure ()
  else pure ()

/-- The write stamp from which on a word may be the one that the instruction cache holds: a word that has been delivered is no older again, and
another one can be there only while the cache has room (R18, R109, log 7). -/
def icacheFrom (s : State) (t : TileNo) (pa : Nat) : Nat :=
  let x := s.tile t
  match x.icache.find? (·.1 == pa) with
  | some e => e.2
  | none => if x.icache.length < 16384 then x.ifence else s.wstamp

/-- One instruction word, as memory holds it, or a value it held since the tile's last FENCE.I (R109, log 7); and the bytes of it that cannot
be read, which counted-drop delivers as zeros (R381). A cached word that cannot be read may still be there or have gone (log 7). -/
def fetchWord (t : TileNo) (x : Ctx) (pa : Nat) : M (Nat × Nat) := do
  let marked ← see fun s => (s.tile t).ibad.contains (pa / 8 * 8)
  let lost ← if marked then drawBit else pure false
  if marked && !lost then modTile t fun x => { x with ibad := x.ibad.filter (· != pa / 8 * 8) } else pure ()
  let bad ← see fun s => if lost then 4 else badBytes s pa 4
  if lost && !x.strict then return (0, 4)
  else if bad != 0 && x.strict then fetchFault .eccStrict
  else do
    let now ← see fun s => readNat s pa 4
    let old ← see fun s => s.hist.filter fun h => h.1 == pa && decide (icacheFrom s t pa ≤ h.2.2)
    if old.isEmpty then return (now, bad)
    else do
      let k ← drawNat
      let pick := old[k % (old.length + 1)]?
      let at' ← see (·.wstamp)
      modTile t fun x => { x with icache := ((pa, (pick.map (·.2.2)).getD at') :: x.icache.filter (·.1 != pa)).take 16384 }
      return ((pick.map (·.2.1.toNat)).getD now, bad)

/-- Count the bytes of a fetch that were delivered as zeros, and record them (R381). -/
def countFetch (t : TileNo) (c : SlotNo) (x : Ctx) (bad : Nat) : M Unit :=
  if bad = 0 then pure ()
  else do
    modCtx t c fun y => { y with dropcnt := BitVec.ofNat 32 (min (y.dropcnt.toNat + bad) 0xFFFFFFFF) }
    recordCause t x .eccStrict x.pc (BitVec.ofNat 64 bad)

/-- Fetch and decode at the context's pc: its alignment, which a record's CODE alone can break and which then fails the fetch (R37, R107,
R316, log 33), then checks 1 to 6 of R52. -/
def fetchInstr (t : TileNo) (c : SlotNo) (x : Ctx) : M Instr := do
  if x.pc.toNat % 4 != 0 then fetchFault .misalignedFetch
  let pa ← fetchPlace t x x.pc
  meterFetch t pa
  let (w, b1) ← fetchWord t x pa
  let aligned := x.pc.toNat % 8 == 0
  let (w2, b2) ← if isLong w && aligned then fetchWord t x (pa + 4) else pure (0, 0)
  let bad (e : Cause) : M Instr := do
    let r ← see fun s => causeRec s t x .eccStrict x.pc (BitVec.ofNat 64 (b1 + b2))
    trapDrop e (BitVec.ofNat 64 w) (b1 + b2) (if b1 + b2 = 0 then [] else [r])
  match decode w w2 aligned with
  | .error e => bad e
  | .ok i =>
    if x.latches.length < 16 then do
      countFetch t c x (b1 + b2)
      return i
    else bad .illegalOp

/-- A fetch is paid; one of an instruction that is under way was paid when the instruction began (log 25). -/
def fetchPaid (t : TileNo) (c : SlotNo) (x : Ctx) (s s' : State) : Option State :=
  if x.wait.any fun w => w.len != 0 then some { s' with reqs := [] } else settleStep s t c none x.job s'

/-- What the dealer of a tile does next: an instruction with the state after its fetch, or the state after a fault of the fetch
or the decoder. Without a context that may execute nothing happens. -/
def fetchDecode (t : TileNo) (s0 : State) : State ⊕ (Instr × State) :=
  let s := { s0 with cur := t }
  let c := (s.tile t).cur
  match s.ctx? t c with
  | none => .inl s
  | some x =>
    if x.runnable then
      match fetchInstr t c x s with
      | .ok (i, s') =>
        match fetchPaid t c x s s' with
        | some s'' => .inr (i, s'')
        | none => .inl (paidOr t c x ⟨0, false⟩ 0 false none s s' id)
      | .error (.trap cause eval d) => .inl (paidOr t c x ⟨0, false⟩ 0 false none s (applySide t c d s) (enterTrap t c .d cause x.pc eval []))
      | .error _ => .inl s
    else .inl s

/-- Time units of one arithmetic cycle, in 1/198 ns: 3.6 GHz, 3.0 GHz and 2.2 GHz (R16). -/
def cycleUnits (m : PowerMode) : Nat :=
  match m with
  | .full => 55
  | .balanced => 66
  | .economy => 90

/-- Arithmetic cycles pass, and with them periods of the dies (R420). -/
def passTime (n : Nat) (s : State) : State :=
  if s.tripped then s
  else (List.finRange 8).foldl (fun s' d => passDie d s s') { s with now := s.now + n, time := s.time + n * cycleUnits s.mode }

/-- The events that a module whose clocks have stopped still takes (R452). -/
def isReset (i : Instr) : Bool :=
  match i with
  | .coldReset | .warmReset | .managementReset => true
  | _ => false

/-! ## Placing an instruction -/

/-- The address of the placed instruction: the start of cluster pool 0, in space 0x9. -/
def placedPc : Word := 0x9000000000000000

/-- A context of job 0 in slot 0 of tile 0, at the placed instruction. -/
def placedCtx : Ctx := { num := 0, job := 0, record := 0, cls := 0, pc := placedPc }

/-- The instruction whose bits are w, stored where the next step fetches: chunk 0 of cluster pool 0 granted to job 0, a fresh
context at its first byte, and the dealer of tile 0 next in the agenda (log 2). -/
def placeWord (s : State) (nbits w : Nat) : State :=
  let s := { s with mem := cellsWrite s.mem (clPoolAt 0 0) (natLe 8 (w % 2 ^ nbits)) }
  let cl := s.clusters.get 0
  let s := { s with
    clusters := s.clusters.set 0 { cl with grants := cl.grants.set 0 (some ⟨0, true, false⟩) }
    agenda := .dealer 0 :: s.agenda, tripped := false
    hist := s.hist.filter fun h => decide (h.1 ≥ clPoolAt 0 8) || decide (h.1 < clPoolAt 0 0)
    poison := poisonDrop s.poison (clPoolAt 0 0) 8 }
  s.setTile 0 { s.tile 0 with slots := (s.tile 0).slots.set 0 (some placedCtx), cur := 0 }

end Sys2Proof.Machine
end

