-- ==== Sys2Proof/Machine/Step.lean ====
section
/-!
DEFINITION. One step: the turn at the head of the agenda, or the dealer of the current tile when the agenda is empty (log 1).
-/
namespace Sys2Proof.Machine

/-- The dealer of a tile executes its next instruction. -/
def dealerTurn (t : TileNo) (s : State) : Host.Outcome State Fault Refusal :=
  if s.tripped then .fault .clocksStopped
  else match fetchDecode t s with
    | .inl s' => .next s'
    | .inr (i, s') => exec i s'

/-- One step of the machine. -/
def step (s : State) : Host.Outcome State Fault Refusal :=
  match s.agenda with
  | [] => dealerTurn s.cur s
  | .dealer t :: r => dealerTurn t { s with agenda := r }
  | .event i inp :: r =>
    if s.tripped && !isReset i then .fault .clocksStopped else exec i { s with agenda := r, input := inp }
  | .pass n :: r => .next (passTime n { s with agenda := r })
  | .host p a bs :: r => .next (writeBytes { s with agenda := r } (hostAt p a) bs)

/-- The state with an instruction stored where step fetches its next one (log 2). -/
def State.withFetchWord (s : State) (nbits w : Nat) : State := placeWord s nbits w

end Sys2Proof.Machine
end

