-- ==== Sys2Proof/Safety.lean ====
section
/-!
DEFINITION. The terms in which claims speak of the machine: a dealer that is ready to execute, what its operands hold, how one
instruction completes, and what a step of one kind leaves as it was.
-/
namespace Sys2Proof.Machine

/-- The slot whose context has the dealer of the current tile (R321). -/
def State.mySlot (s : State) : SlotNo := (s.tile s.cur).cur

/-- Change the context whose dealer acts. -/
def State.upMe (s : State) (f : Ctx → Ctx) : State := s.modCtx s.cur s.mySlot f

/-- The dealer of the current tile stands at its next instruction: x is its context, x may execute, and no unit of bandwidth is
owed for an earlier part of the step. -/
structure Ready (s : State) (x : Ctx) : Prop where
  here : s.ctx? s.cur s.mySlot = some x
  runs : x.runnable = true
  hbm  : s.meterHbm = 0
  net  : s.meterNet = 0

/-- The source r holds the value v (R39): it is no latch entry without a value. -/
def Reads (s : State) (x : Ctx) (r : Src) (v : Word) : Prop := srcVal s.cur s.mySlot x r = some v

/-- The instruction of context x completes in s': `len` words, `ends` where the group ends with it, and its effect (R42, R120,
R122, R180, R383). -/
def finish (s : State) (x : Ctx) (len : Nat) (ends : Bool) (e : Eff) (s' : State) : State :=
  complete s.cur s.mySlot len ends (x.stepping && !x.active) e s'

/-- The tenant of x can pay the units that the state s1 owes, and s2 is the state that has paid (R418, R419). -/
def Pays (s : State) (x : Ctx) (s1 s2 : State) : Prop :=
  settleStep s s.cur s.mySlot none x.job s1 = some s2

/-- The effect m, run in s, gives the value v and the state s'. -/
def Runs {α : Type} (m : M α) (s : State) (v : α) (s' : State) : Prop := m s = .ok (v, s')

/-- Nothing raises a trap at the end of a group of x: no asynchronous cause, no engine fault, no STEP event (R180, R375). -/
def Ctx.quiet (x : Ctx) : Bool := x.asyncs.isEmpty && (pendingFault x).isNone && !x.stepping

/-- Every part of a context but its general registers, predicates, loops, pc, latches, its wait with the answers it collected,
the mark of a descheduled queue (R426) and the activity counters. -/
def Ctx.core (x : Ctx) : Ctx :=
  { x with
    regs := Vector.replicate 48 0, preds := 0, loops := Vector.replicate 2 {}, pc := 0, latches := [], wait := none,
    answers := [], desched := false, activity := Vector.replicate 9 0 }

/-- Reading memory at every address gives the same byte in both states. -/
def SameMemory (s t : State) : Prop := ∀ k, cellGet t.mem k = cellGet s.mem k

/-- Reading memory outside [k, k + n) gives the same byte in both states. -/
def SameOutside (k n : Nat) (s t : State) : Prop := ∀ j, j < k ∨ k + n ≤ j → cellGet t.mem j = cellGet s.mem j

/-- The loop levels of a context keep their bounds: only counts and flags may differ (R120, R122). -/
def SameBounds (x y : Ctx) : Prop := ∀ L : Fin 2, (y.loops.get L).ls = (x.loops.get L).ls ∧ (y.loops.get L).le = (x.loops.get L).le

/-- A step whose outcome is a next state that meets p. -/
def Answers (o : Host.Outcome State Fault Refusal) (p : State → Prop) : Prop := ∃ t, o = .next t ∧ p t

/-- The state with no unit of bandwidth owed: how every step of another agent leaves it. -/
def State.settled (s : State) : State := { s with reqs := [] }

/-- A step of another agent completes the instruction that the context in slot c of tile t waits in. -/
def wake (t : TileNo) (c : SlotNo) (w : Wait) (e : Eff) (s : State) : State :=
  match finishWait t c w e s with
  | .ok (_, s') => s'.settled
  | .error _ => s

/-- The dealer takes the precise cause of an instruction that has had no effect (R10, R374). -/
def preciseTrap (s : State) (x : Ctx) (c : Cause) (ev : Word) : State :=
  enterTrap s.cur s.mySlot .d c x.pc ev [] (applySide s.cur s.mySlot ⟨0, [], s.free, s.reqs⟩ s)

/-- The context of the current dealer waits in its instruction, which ends its group. -/
def waits (s : State) (h : Hd) (len : Nat) (dst : Option Dst) (k : WaitKind) (s' : State) : State :=
  setWait s.cur s.mySlot h len true dst k s'

/-- The memory of a state has its canonical form (log 3). -/
def State.MemOk (s : State) : Prop := Memory.wf s.mem = true

/-- No unit of bandwidth is owed for an earlier part of a step: how every step begins (R418). -/
def State.Unmetered (s : State) : Prop := s.meterHbm = 0 ∧ s.meterNet = 0

/-- Every byte can be read: no code word is uncorrectable (R381). -/
def State.Readable (s : State) : Prop := ∀ k n, badBytes s k n = 0

/-- Every tenant of the die of tile t holds enough units for one element or one request, no refill is due, and no request waits at the port
(R419, R421). -/
def State.Solvent (s : State) (t : TileNo) : Prop :=
  (∀ b ∈ (s.dies.get (dieNo t)).buckets, 512 ≤ b.hbm ∧ 512 ≤ b.net) ∧ s.now < (s.dies.get (dieNo t)).period + 1024 ∧ (s.tile t).port = []

/-- The requests of the dealer's step can be paid for a job: every tenant of the tile's die holds what of them is not paid yet, no refill is
due, and no older request of a tenant waits (R418, R419). -/
def State.Covers (s : State) (job : Nat) (l : List (Nat × Nat)) : Prop :=
  (∀ b ∈ (s.dies.get (dieNo s.cur)).buckets, (unitSums l).1 - (s.paidFor s.cur s.mySlot none).1 ≤ b.hbm ∧
    (unitSums l).2 - (s.paidFor s.cur s.mySlot none).2 ≤ b.net) ∧
  s.now < (s.dies.get (dieNo s.cur)).period + 1024 ∧ s.queuedBehind s.cur s.mySlot none job = false

/-- The engine of chain ch runs block e of context x in slot c of tile t, and e has iterations left (R162, R163, R185). -/
structure RunsBlock (s : State) (t : TileNo) (c : SlotNo) (ch : ChainNo) (x : Ctx) (e : Entry) : Prop where
  here  : s.ctx? t c = some x
  on    : (x.chain ch).state = .running
  free  : x.stops = false
  runs  : runningOf (x.chain ch).queue = some e
  named : x.entry? ch e.seq = some e
  flows : e.run.stalled = false ∧ e.run.await = none
  turn  : engineTurn (s.tile t) c ch e = true
  left  : e.run.iter < e.total
  units : s.Unmetered

/-- In s' block seq of chain ch has completed k iterations. -/
def Advanced (s' : State) (t : TileNo) (c : SlotNo) (ch : ChainNo) (seq k : Nat) : Prop :=
  ∃ y, s'.ctx? t c = some y ∧ (y.entry? ch seq).map (·.run.iter) = some k

/-- The head block e of chain ch of context x acts or ends: the chain runs, e has started, and its posts are plain ones within their
ceilings (R166, R170, R182). -/
structure Acts (s : State) (t : TileNo) (c : SlotNo) (ch : ChainNo) (x : Ctx) (e : Entry) : Prop where
  here  : s.ctx? t c = some x
  on    : (x.chain ch).state = .running
  head  : (x.chain ch).queue.head? = some e
  going : e.run.started = true
  plain : ∀ p ∈ e.linked.posts, p.fut = false
  low   : postsOver x e.linked.posts = false
  units : s.Unmetered

/-- From x to y, block e of chain ch has retired: its entry is gone, and each semaphore's count is raised by its posts (R166, R170). -/
def Posted (x : Ctx) (ch : ChainNo) (e : Entry) (y : Ctx) : Prop :=
  (y.chain ch).queue = (x.chain ch).queue.filter (·.seq != e.seq) ∧
  ∀ n, (y.sem n).count = (x.sem n).count + ((e.linked.posts.filter (·.sem == n)).map (·.amt)).sum

/-- Queue q may take its next packet, which is p and passes the checks; a packet with BAR finds every earlier one complete; the port
reports no failure, and every byte can be read (R433, R434, R438, R443). -/
structure Offers (s : State) (q : Fin 256) (p : Packet) : Prop where
  ready : takes s (s.queue q) = true
  port  : s.input.who ≠ 1 ∧ s.input.flag = false
  next  : nextPacket s (s.queue q) = some p
  whole : takeFault (s.queue q) p = none
  turn  : p.bar = false ∨ (s.queue q).started = []
  reads : s.Readable

/-- A packet has been taken and has started: HEAD is past it, and buffers without packets left are closed (R433, R438, R444). -/
def started (q : Fin 256) (k : Pkt) (s : State) : State :=
  (s.modQueue q fun z => { z with started := z.started ++ [k] }).modQueue q Queue.close

end Sys2Proof.Machine
end

