-- ==== Sys2Proof/WellFormed.lean ====
section
/-!
DEFINITION. Which instructions an encoding exists for: what the types of Syntax.lean leave to say. LOOP's end is 1 to 511
(R45), FENCE has an order (R50), FORK and RDV name a chain (R50), AMOCAS has an even d (R364), and a memory form with a
modulo register has a general register as its base (R46).
-/
namespace Sys2Proof

/-- The source is a general register. -/
def Src.isG : Src → Bool
  | .g _ => true
  | .b _ | .zero | .tileid | .ctxid | .lc0 | .lc1 => false

/-- The instruction can be encoded. -/
def Instr.wf (i : Instr) : Bool :=
  match i with
  | .add _ _ _ _ => true
  | .sub _ _ _ _ => true
  | .addw _ _ _ _ => true
  | .subw _ _ _ _ => true
  | .and _ _ _ _ => true
  | .or _ _ _ _ => true
  | .xor _ _ _ _ => true
  | .andn _ _ _ _ => true
  | .orn _ _ _ _ => true
  | .xnor _ _ _ _ => true
  | .sll _ _ _ _ => true
  | .srl _ _ _ _ => true
  | .sra _ _ _ _ => true
  | .rol _ _ _ _ => true
  | .ror _ _ _ _ => true
  | .sllw _ _ _ _ => true
  | .srlw _ _ _ _ => true
  | .sraw _ _ _ _ => true
  | .mul _ _ _ _ => true
  | .mulh _ _ _ _ => true
  | .mulhu _ _ _ _ => true
  | .mulhsu _ _ _ _ => true
  | .div _ _ _ _ => true
  | .divu _ _ _ _ => true
  | .rem _ _ _ _ => true
  | .remu _ _ _ _ => true
  | .min _ _ _ _ => true
  | .max _ _ _ _ => true
  | .minu _ _ _ _ => true
  | .maxu _ _ _ _ => true
  | .abs _ _ _ => true
  | .movnz _ _ _ _ => true
  | .movz _ _ _ _ => true
  | .clz _ _ _ => true
  | .ctz _ _ _ => true
  | .popc _ _ _ => true
  | .bfxu _ _ _ _ => true
  | .bfxs _ _ _ _ => true
  | .bfi _ _ _ _ => true
  | .rev8 _ _ _ => true
  | .sh1add _ _ _ _ => true
  | .sh2add _ _ _ _ => true
  | .sh3add _ _ _ _ => true
  | .sh4add _ _ _ _ => true
  | .sh6add _ _ _ _ => true
  | .sh8add _ _ _ _ => true
  | .sh13add _ _ _ _ => true
  | .addi _ _ _ _ => true
  | .andi _ _ _ _ => true
  | .ori _ _ _ _ => true
  | .slli _ _ _ _ => true
  | .srli _ _ _ _ => true
  | .srai _ _ _ _ => true
  | .rori _ _ _ _ => true
  | .xori _ _ _ _ => true
  | .cmpeq _ _ _ _ _ _ => true
  | .cmpne _ _ _ _ _ _ => true
  | .cmplt _ _ _ _ _ _ => true
  | .cmpge _ _ _ _ _ _ => true
  | .cmpltu _ _ _ _ _ _ => true
  | .cmpgeu _ _ _ _ _ _ => true
  | .cmpts _ _ _ _ _ _ => true
  | .cmptc _ _ _ _ _ _ => true
  | .cmpeqi _ _ _ _ _ _ => true
  | .cmpnei _ _ _ _ _ _ => true
  | .cmplti _ _ _ _ _ _ => true
  | .cmpgei _ _ _ _ _ _ => true
  | .cmpltui _ _ _ _ _ _ => true
  | .cmpgeui _ _ _ _ _ _ => true
  | .cmptsi _ _ _ _ _ _ => true
  | .cmptci _ _ _ _ _ _ => true
  | .pand _ _ _ _ => true
  | .por _ _ _ _ => true
  | .pxor _ _ _ _ => true
  | .pandn _ _ _ _ => true
  | .pnot _ _ _ => true
  | .pget _ _ => true
  | .pput _ _ _ => true
  | .br _ _ => true
  | .brl _ _ => true
  | .jr _ _ => true
  | .jrl _ _ _ => true
  | .ret _ => true
  | .loop _ _ last => last != 0
  | .lbu _ _ a m _ => m.isNone || a.isG
  | .lhu _ _ a m _ => m.isNone || a.isG
  | .lwu _ _ a m _ => m.isNone || a.isG
  | .ld _ _ a m _ => m.isNone || a.isG
  | .lb _ _ a m _ => m.isNone || a.isG
  | .lh _ _ a m _ => m.isNone || a.isG
  | .lw _ _ a m _ => m.isNone || a.isG
  | .sb _ _ a m _ => m.isNone || a.isG
  | .sh _ _ a m _ => m.isNone || a.isG
  | .sw _ _ a m _ => m.isNone || a.isG
  | .sd _ _ a m _ => m.isNone || a.isG
  | .mset _ _ _ _ => true
  | .mgetb _ _ _ => true
  | .mgetl _ _ _ => true
  | .csrr _ _ _ => true
  | .csrw _ _ _ => true
  | .csrs _ _ _ => true
  | .csrc _ _ _ => true
  | .amoadd _ _ _ _ _ _ => true
  | .amoand _ _ _ _ _ _ => true
  | .amoor _ _ _ _ _ _ => true
  | .amoxor _ _ _ _ _ _ => true
  | .amomin _ _ _ _ _ _ => true
  | .amomax _ _ _ _ _ _ => true
  | .amoswap _ _ _ _ _ _ => true
  | .amocas _ _ _ _ d _ => d.val % 2 == 0
  | .fence _ _ ord => ord != .rlx
  | .fenceI _ => true
  | .nop _ => true
  | .trap _ _ => true
  | .eret _ => true
  | .brk _ => true
  | .link _ _ _ => true
  | .kick _ _ => true
  | .fork _ mask => mask != 0
  | .rdv _ mask => mask != 0
  | .rdvRelease _ _ => true
  | .drain _ => true
  | .drainComplete _ _ => true
  | .chseq _ _ _ => true
  | .chstat _ _ _ => true
  | .semi _ _ _ _ => true
  | .semb _ _ _ _ => true
  | .semw _ _ _ _ => true
  | .semwGrant _ _ => true
  | .semp _ _ _ => true
  | .semr _ _ _ _ => true
  | .semk _ _ => true
  | .semIdleAction _ _ => true
  | .tdef _ _ _ => true
  | .tmod _ _ _ _ => true
  | .tget _ _ _ _ => true
  | .tkill _ _ => true
  | .claim _ _ => true
  | .release _ _ => true
  | .releaseComplete _ _ => true
  | .aclr _ _ => true
  | .hstat _ _ _ => true
  | .partw _ _ => true
  | .axis _ _ _ => true
  | .resi _ _ _ => true
  | .resx _ _ _ => true
  | .resr _ _ _ _ => true
  | .resclr _ _ => true
  | .bankIdleAction _ _ => true
  | .qsw _ _ _ => true
  | .qsr _ _ _ => true
  | .covset _ _ _ => true
  | .covsetIdleAction _ _ => true
  | .covget _ _ _ _ => true
  | .covstat _ _ _ _ => true
  | .spawn _ _ => true
  | .enq _ _ _ => true
  | .enqQueueRoom _ _ => true
  | .await _ _ _ => true
  | .resolve _ _ _ => true
  | .yield _ => true
  | .endRec _ => true
  | .cancel _ _ => true
  | .cancelFlagsSet _ _ => true
  | .jobCancelComplete _ => true
  | .join _ _ => true
  | .leave _ _ => true
  | .gbar _ _ => true
  | .wfe _ => true
  | .wfeWake _ _ => true
  | .sev _ _ => true
  | .ctxsave _ _ => true
  | .ctxrestore _ _ => true
  | .qbind _ _ _ => true
  | .qunbind _ _ => true
  | .qunbindIdle _ _ => true
  | .qdepth _ _ _ => true
  | .tprobe _ _ _ => true
  | .tinv _ _ _ => true
  | .tinvPinsReleased _ _ => true
  | .burst _ _ => true
  | .li _ _ _ => true
  | .liu _ _ _ => true
  | .lih _ _ _ => true
  | .addl _ _ _ => true
  | .trapEntry _ _ => true
  | .leafTrapHandling _ _ => true
  | .fwDomainNumber _ _ => true
  | .fwSetWatchdog _ _ => true
  | .fwUnbindSaved _ _ => true
  | .fwLog _ _ => true
  | .watchdog _ _ => true
  | .machineCheck _ _ => true
  | .contextSwitch _ => true
  | .timeSliceExpiry _ => true
  | .recordPop _ _ _ => true
  | .overflowPushRetry _ _ => true
  | .preemption _ _ => true
  | .blockWaitGrant _ _ _ => true
  | .coverageFractionWait _ _ _ => true
  | .loadIteration _ _ => true
  | .storeIteration _ _ => true
  | .linkedQueueEntryArrive _ _ => true
  | .linkedQueueCreditReturn _ _ => true
  | .queueStallResume _ _ _ => true
  | .matrixFloatKStep _ _ => true
  | .matrixIntKStep _ _ => true
  | .vectorIteration _ _ => true
  | .blockRetire _ _ _ => true
  | .coverageContribution _ _ _ => true
  | .nopBlock _ _ _ => true
  | .endBlock _ _ _ => true
  | .markResolve _ _ _ => true
  | .markRendezvous _ _ _ => true
  | .patchAction _ _ _ => true
  | .patchHoldResume _ _ _ => true
  | .patchRangePolicy _ _ _ => true
  | .heldPostApply _ _ _ => true
  | .rampComplete _ => true
  | .matrixCold _ => true
  | .burstHoldExpiry _ => true
  | .windowMessageRetry _ => true
  | .windowAck _ => true
  | .lossDetected _ => true
  | .tokenRefill _ => true
  | .bandwidthRequest _ => true
  | .subnetworkPower _ _ => true
  | .budgetPeriodEnd _ => true
  | .wrap _ => true
  | .launch _ => true
  | .invoke _ => true
  | .copy _ => true
  | .signal _ => true
  | .wait _ => true
  | .waitPoll _ => true
  | .indirect _ => true
  | .loadModel _ => true
  | .modelUnloadComplete _ => true
  | .barrier _ => true
  | .packetCompletion _ _ => true
  | .frameTick => true
  | .windowMessageArrival => true
  | .lossNotice => true
  | .flitReplay => true
  | .permitReturn => true
  | .auditFlit => true
  | .resynchronisation => true
  | .commandLinkMessage => true
  | .tailWrite => true
  | .haltClear => true
  | .hsemTake => true
  | .hsemRelease => true
  | .pwrmodeWrite => true
  | .powerModeChange => true
  | .resetRequest => true
  | .registerWrite => true
  | .firmwareImageLoad => true
  | .coldReset => true
  | .warmReset => true
  | .portReset => true
  | .bankerBoot => true
  | .hbmTraining => true
  | .leafBoot => true
  | .bringupReady => true
  | .thermalStepUp => true
  | .thermalTrip => true
  | .managementReset => true
  | .debugAccess => true
  | .hostMemoryAccess => true
  | .retrainComplete => true
  | .errorCheckAndScrub => true

/-- Well-formed instructions. -/
abbrev Instr.WF (i : Instr) : Prop := i.wf = true

end Sys2Proof
end

