-- ==== Sys2Proof/Certificates/Slice0/Obligations.lean ====
section
/-!
DEFINITION. The statements for the provers. A statement about an instruction is made of every state in which its dealer is ready
(Safety.lean), and most say what the next state is.
-/
open Sys2Proof Sys2Proof.Machine


/-- For every well-formed instruction of a dealer, whatever its operands, the decoder reads the words of the encoder as that
instruction; a second word is offered where the form has one, and the address is a multiple of 8. (R37, R38, R49, R50, R52.) -/
def Obligations.DecodeEncode : Prop :=
  ∀ i : Instr, i.WF → ∀ w ws, encode i = w :: ws → decode w (ws.headD 0) true = .ok i

/-- The words that the spec prints beside its example lines, and two long forms, decode to those instructions. (R38, R39, R45,
R49, R50, R51.) -/
def Obligations.DecodedWords : Prop :=
  decode 0x04020A30 0 false = .ok (.add ⟨0, false⟩ (some 4) (.g 5) (.g 6)) ∧
  decode 0x2C018684 0 false = .ok (.srai ⟨0, false⟩ (some 3) (.g 3) 4) ∧
  decode 0x380705BF 0 false = .ok (.cmplti 0 .plain 3 4 (.g 5) (-1)) ∧
  decode 0x40008418 0 false = .ok (.pand ⟨0, false⟩ 1 2 3) ∧
  decode 0x4C051601 0 false = .ok (.jrl ⟨0, false⟩ 10 (.g 11)) ∧
  decode 0x5C028C2E 0 false = .ok (.sw ⟨0, false⟩ (.g 5) (.g 6) none (-2)) ∧
  decode 0x60019048 0 false = .ok (.mset ⟨0, false⟩ 2 (.g 8) (.g 9)) ∧
  decode 0x64010000 0 false = .ok (.csrr ⟨0, false⟩ (some 2) 0) ∧
  decode 0x6C000040 0 false = .ok (.fenceI ⟨0, false⟩) ∧
  decode 0x70200000 0 false = .ok (.nop ⟨0, true⟩) ∧
  decode 0x80010A00 0 false = .ok (.link ⟨0, false⟩ 2 (.g 5)) ∧
  decode 0x80028003 0 false = .ok (.rdv ⟨0, false⟩ 5) ∧
  decode 0x84038401 0 false = .ok (.chstat ⟨0, false⟩ (some 7) 2) ∧
  decode 0x8C038C82 0 false = .ok (.tmod ⟨0, false⟩ 2 (.g 6) (.g 7)) ∧
  decode 0x90039003 0 false = .ok (.hstat ⟨0, false⟩ (some 7) (.g 8)) ∧
  decode 0x94010E05 0 false = .ok (.qsw ⟨0, false⟩ 2 (.g 7)) ∧
  decode 0x98000800 0 false = .ok (.covset ⟨0, false⟩ 0 (.g 4)) ∧
  decode 0xB000001E 0 false = .ok (.burst ⟨0, false⟩ 30) ∧
  decode 0xF8028000 0xFFFFFFFF true = .ok (.li ⟨0, false⟩ (some 5) 0xFFFFFFFF) ∧
  decode 0xF8028000 0xFFFFFFFF false = .error .longSplit ∧
  decode 0 0 true = .error .illegalOp

/-- Whatever the word, what the decoder reads is a well-formed instruction that has an encoding; so a dealer never executes a step
of another agent, nor an operand outside its range. (R39, R44, R45, R50, R52.) -/
def Obligations.DecoderKeepsToTheTable : Prop :=
  ∀ (w w2 : Nat) (al : Bool) (i : Instr), decode w w2 al = .ok i → i.WF ∧ encode i ≠ []

/-- Where the tile's dealer is next, the clocks run, its context may execute, and the fetch gives words that decode to i with room
in the group, and the tenant can pay for the fetch, the step is exec of i in the state after it. The fetch is also said for
the plain case: a one-word instruction in its cluster pool at readable bytes that were never overwritten is read from memory
as it stands, and nothing changes. (R37, R43, R52, R107, R109, R419.) -/
def Obligations.StepRunsDecoded : Prop :=
  (∀ (s s1 s2 : State) (t : TileNo) (r : List Turn) (x : Ctx) (i : Instr),
    s.agenda = .dealer t :: r → s.tripped = false →
    s.ctx? t (s.tile t).cur = some x → x.runnable = true →
    fetchInstr t (s.tile t).cur x { s with agenda := r, cur := t } = .ok (i, s1) →
    fetchPaid t (s.tile t).cur x { s with agenda := r, cur := t } s1 = some s2 → step s = exec i s2) ∧
  (∀ (s : State) (t : TileNo) (c : SlotNo) (x : Ctx) (i : Instr) (w : Nat) (o : Nat),
    x.pc = BitVec.ofNat 64 (0x9000000000000000 + o) → o < 33554432 → o % 4 = 0 →
    grantFault s x.job (clPoolAt (t / 8) o) false = none →
    badBytes s (clPoolAt (t / 8) o) 4 = 0 →
    (∀ h ∈ s.hist, h.1 ≠ clPoolAt (t / 8) o) →
    readNat s (clPoolAt (t / 8) o) 4 = w → isLong w = false →
    decode w 0 (o % 8 == 0) = .ok i → x.latches.length < 16 →
    fetchInstr t c x s = .ok (i, s))

/-- For a dealer that is ready, a true guard and readable sources, each operation of the table of R110 completes: it writes the
tabled value to d (nothing where d is suppressed), and that value is its latch entry. No operand value raises a fault. (R110.) -/
def Obligations.IntegerResults : Prop :=
  ∀ (s : State) (x : Ctx) (h : Hd) (d : Dst) (e : Fin 48) (a c : Src) (u v : Word),
    Ready s x → x.pred h.guard = true → Reads s x a u → Reads s x c v →
    (∀ p ∈ [
      (Instr.add h d a c, u + v), (.sub h d a c, u - v),
      (.addw h d a c, ((u + v).setWidth 32).signExtend 64), (.subw h d a c, ((u - v).setWidth 32).signExtend 64),
      (.and h d a c, u &&& v), (.or h d a c, u ||| v), (.xor h d a c, u ^^^ v),
      (.andn h d a c, u &&& ~~~v), (.orn h d a c, u ||| ~~~v), (.xnor h d a c, ~~~(u ^^^ v)),
      (.sll h d a c, u <<< (v.toNat % 64)), (.srl h d a c, u >>> (v.toNat % 64)),
      (.sra h d a c, u.sshiftRight (v.toNat % 64)),
      (.rol h d a c, u.rotateLeft (v.toNat % 64)), (.ror h d a c, u.rotateRight (v.toNat % 64)),
      (.sllw h d a c, (u.setWidth 32 <<< (v.toNat % 32)).signExtend 64),
      (.srlw h d a c, (u.setWidth 32 >>> (v.toNat % 32)).signExtend 64),
      (.sraw h d a c, ((u.setWidth 32).sshiftRight (v.toNat % 32)).signExtend 64),
      (.mul h d a c, BitVec.ofNat 64 (u.toNat * v.toNat)),
      (.mulh h d a c, BitVec.ofInt 64 (u.toInt * v.toInt / 2 ^ 64)),
      (.mulhu h d a c, BitVec.ofNat 64 (u.toNat * v.toNat / 2 ^ 64)),
      (.mulhsu h d a c, BitVec.ofInt 64 (u.toInt * v.toNat / 2 ^ 64)),
      (.min h d a c, BitVec.ofInt 64 (min u.toInt v.toInt)), (.max h d a c, BitVec.ofInt 64 (max u.toInt v.toInt)),
      (.minu h d a c, BitVec.ofNat 64 (min u.toNat v.toNat)), (.maxu h d a c, BitVec.ofNat 64 (max u.toNat v.toNat)),
      (.abs h d a, BitVec.ofInt 64 |u.toInt|),
      (.clz h d a, BitVec.ofNat 64 (clzN u.toNat 64)), (.ctz h d a, BitVec.ofNat 64 (ctzN u.toNat 64)),
      (.popc h d a, BitVec.ofNat 64 (popN u.toNat 64)), (.rev8 h d a, BitVec.ofNat 64 (revN u.toNat 8)),
      (.sh1add h d a c, u * 2 + v), (.sh2add h d a c, u * 4 + v), (.sh3add h d a c, u * 8 + v),
      (.sh4add h d a c, u * 16 + v), (.sh6add h d a c, u * 64 + v), (.sh8add h d a c, u * 256 + v),
      (.sh13add h d a c, u * 8192 + v)],
      exec p.1 s = .next (finish s x 1 h.stop { val := some p.2 } (s.upMe (·.setDst d p.2)))) ∧
    (∀ p ∈ [
      (Instr.movnz h e a c, if v = 0 then x.regs.get e else u), (.movz h e a c, if v = 0 then u else x.regs.get e)],
      exec p.1 s = .next (finish s x 1 h.stop { val := some p.2 } (s.upMe (·.setReg e p.2)))) ∧
    (∀ n, n < 64 → (u.getLsbD n = true ∧ ∀ m, n < m → u.getLsbD m = false) → clzN u.toNat 64 = 63 - n) ∧
    (∀ n, n < 64 → (u.getLsbD n = true ∧ ∀ m, m < n → u.getLsbD m = false) → ctzN u.toNat 64 = n) ∧
    (u = 0 → clzN u.toNat 64 = 64 ∧ ctzN u.toNat 64 = 64) ∧
    popN u.toNat 64 = ((List.range 64).filter u.getLsbD).length ∧
    (∀ k j, k < 8 → j < 8 → (BitVec.ofNat 64 (revN u.toNat 8)).getLsbD (8 * k + j) = u.getLsbD (8 * (7 - k) + j))

/-- DIV, REM, DIVU and REMU complete for every divisor and give the values of the table of R111: all ones and a for a zero
divisor, the overflow row, and otherwise the quotient rounded toward zero with its remainder. (R111.) -/
def Obligations.DivisionResults : Prop :=
  ∀ (s : State) (x : Ctx) (h : Hd) (d : Dst) (a c : Src) (u v : Word),
    Ready s x → x.pred h.guard = true → Reads s x a u → Reads s x c v →
    ∃ q r q' r' : Word,
      (∀ p ∈ [(Instr.div h d a c, q), (.rem h d a c, r), (.divu h d a c, q'), (.remu h d a c, r')],
        exec p.1 s = .next (finish s x 1 h.stop { val := some p.2 } (s.upMe (·.setDst d p.2)))) ∧
      (v = 0 → q = 0xFFFFFFFFFFFFFFFF ∧ r = u ∧ q' = 0xFFFFFFFFFFFFFFFF ∧ r' = u) ∧
      (u = 0x8000000000000000 → v = -1 → q = 0x8000000000000000 ∧ r = 0) ∧
      (v ≠ 0 → q'.toNat = u.toNat / v.toNat ∧ r'.toNat = u.toNat - v.toNat * (u.toNat / v.toNat)) ∧
      (v ≠ 0 → ¬(u = 0x8000000000000000 ∧ v = -1) →
        q.toInt = u.toInt.tdiv v.toInt ∧ r.toInt = u.toInt - v.toInt * u.toInt.tdiv v.toInt)

/-- With pos = c[5:0] and w = min(c[14:8], 64 - pos), BFXU and BFXS complete with the field zero-extended or sign-extended (0
where w is 0), and BFI completes with d changed in exactly the bits of the field. (R112.) -/
def Obligations.BitFieldResults : Prop :=
  ∀ (s : State) (x : Ctx) (h : Hd) (d : Dst) (e : Fin 48) (a c : Src) (u v : Word) (pos w : Nat),
    Ready s x → x.pred h.guard = true → Reads s x a u → Reads s x c v →
    pos = v.toNat % 64 → w = min (v.toNat / 256 % 128) (64 - pos) →
    ∃ z g i : Word,
      exec (.bfxu h d a c) s = .next (finish s x 1 h.stop { val := some z } (s.upMe (·.setDst d z))) ∧
      exec (.bfxs h d a c) s = .next (finish s x 1 h.stop { val := some g } (s.upMe (·.setDst d g))) ∧
      exec (.bfi h e a c) s = .next (finish s x 1 h.stop { val := some i } (s.upMe (·.setReg e i))) ∧
      (∀ k, k < 64 → z.getLsbD k = (decide (k < w) && u.getLsbD (pos + k))) ∧
      (∀ k, k < 64 → g.getLsbD k = (decide (w ≠ 0) && u.getLsbD (pos + min k (w - 1)))) ∧
      (∀ k, k < 64 → i.getLsbD k = if pos ≤ k ∧ k < pos + w then u.getLsbD (k - pos) else (x.regs.get e).getLsbD k)

/-- Each immediate operation completes and writes the value of the table of R113 to d; LI, LIU, LIH and ADDL complete, take two
words, and write what R49 defines. (R49, R113.) -/
def Obligations.ImmediateResults : Prop :=
  ∀ (s : State) (x : Ctx) (h : Hd) (d : Dst) (e : Fin 48) (a : Src) (u : Word) (i : BitVec 9) (j : BitVec 6) (k : BitVec 32),
    Ready s x → x.pred h.guard = true → Reads s x a u →
    (∀ p ∈ [
      (Instr.addi h d a i, u + i.signExtend 64), (.andi h d a i, u &&& i.signExtend 64), (.ori h d a i, u ||| i.signExtend 64),
      (.slli h d a j, u <<< j.toNat), (.srli h d a j, u >>> j.toNat), (.srai h d a j, u.sshiftRight j.toNat),
      (.rori h d a j, u.rotateRight j.toNat), (.xori h d a j, u ^^^ j.setWidth 64)],
      exec p.1 s = .next (finish s x 1 h.stop { val := some p.2 } (s.upMe (·.setDst d p.2)))) ∧
    (∀ p ∈ [(Instr.li h d k, k.signExtend 64), (.liu h d k, k.setWidth 64)],
      exec p.1 s = .next (finish s x 2 h.stop { val := some p.2 } (s.upMe (·.setDst d p.2)))) ∧
    (∀ p ∈ [(Instr.lih h e k, k ++ (x.regs.get e).setWidth 32), (.addl h e k, x.regs.get e + k.signExtend 64)],
      exec p.1 s = .next (finish s x 2 h.stop { val := some p.2 } (s.upMe (·.setReg e p.2))))

/-- A compare with readable sources completes. With c its condition (R114) and g its guard, the predicates after it are those of
the table of R114, formed from the values before it (R115), with writes to p0 discarded and pd2 written last; it makes a latch
entry without a value and changes nothing else of the context but what completing changes. (R115.) -/
def Obligations.CompareWrites : Prop :=
  ∀ (s : State) (x : Ctx) (g p q : Fin 8) (ct : CmpMode) (a b : Src) (u v : Word) (i : BitVec 6),
    Ready s x → Reads s x a u → Reads s x b v →
    ∀ e ∈ [
      (Instr.cmpeq g ct p q a b, decide (u = v)), (.cmpne g ct p q a b, decide (u ≠ v)),
      (.cmplt g ct p q a b, decide (u.toInt < v.toInt)), (.cmpge g ct p q a b, decide (v.toInt ≤ u.toInt)),
      (.cmpltu g ct p q a b, decide (u.toNat < v.toNat)), (.cmpgeu g ct p q a b, decide (v.toNat ≤ u.toNat)),
      (.cmpts g ct p q a b, decide (u &&& v ≠ 0)), (.cmptc g ct p q a b, decide (u &&& v = 0)),
      (.cmpeqi g ct p q a i, decide (u = i.signExtend 64)), (.cmpnei g ct p q a i, decide (u ≠ i.signExtend 64)),
      (.cmplti g ct p q a i, decide (u.toInt < i.toInt)), (.cmpgei g ct p q a i, decide (i.toInt ≤ u.toInt)),
      (.cmpltui g ct p q a i, decide (u.toNat < i.toNat)), (.cmpgeui g ct p q a i, decide (i.toNat ≤ u.toNat)),
      (.cmptsi g ct p q a i, decide (u &&& i.setWidth 64 ≠ 0)), (.cmptci g ct p q a i, decide (u &&& i.setWidth 64 = 0))],
      ∃ y : Ctx,
        exec e.1 s = .next (finish s x 1 false {} (s.upMe fun _ => y)) ∧
        (∀ r : Fin 8, y.pred r =
          let c := e.2
          let on := x.pred g
          let w : Option Bool :=
            if r = 0 then none
            else match ct with
              | .plain => if on then (if r = q then some (!c) else if r = p then some c else none) else none
              | .z => if r = q then some (on && !c) else if r = p then some (on && c) else none
              | .all => if on then (if r = q then some (x.pred q && !c) else if r = p then some (x.pred p && c) else none) else none
              | .any => if on then (if r = q then some (x.pred q || !c) else if r = p then some (x.pred p || c) else none) else none
              | .xor => if on then (if r = q then some (x.pred q ^^ !c) else if r = p then some (x.pred p ^^ c) else none) else none
              | .hit => if on && c && r == p then some true else if on && !c && r == q then some true else none
              | .mix => if on then (if r = q then some (x.pred q || c) else if r = p then some (x.pred p && c) else none) else none
          w.getD (x.pred r)) ∧
        y = { x with preds := y.preds }

/-- PAND, POR, PXOR, PANDN and PNOT write pd (a write to p0 is discarded), PPUT writes the predicates 1 to 7 that its mask names,
and PGET writes the predicates with bit 0 set to d; each completes, and only PGET makes a latch entry with a value. (R116.) -/
def Obligations.PredicateLogic : Prop :=
  ∀ (s : State) (x : Ctx) (h : Hd) (pd pa pc : Fin 8) (d : Dst) (a c : Src) (u v : Word),
    Ready s x → x.pred h.guard = true → Reads s x a u → Reads s x c v →
    (∀ p ∈ [
      (Instr.pand h pd pa pc, x.pred pa && x.pred pc), (.por h pd pa pc, x.pred pa || x.pred pc),
      (.pxor h pd pa pc, x.pred pa ^^ x.pred pc), (.pandn h pd pa pc, x.pred pa && !x.pred pc), (.pnot h pd pa, !x.pred pa)],
      ∃ y : Ctx, exec p.1 s = .next (finish s x 1 h.stop {} (s.upMe fun _ => y)) ∧ y = { x with preds := y.preds } ∧
        ∀ r : Fin 8, y.pred r = if r = pd ∧ r ≠ 0 then p.2 else x.pred r) ∧
    (∃ y : Ctx, exec (.pput h a c) s = .next (finish s x 1 h.stop {} (s.upMe fun _ => y)) ∧ y = { x with preds := y.preds } ∧
        ∀ r : Fin 8, y.pred r = if r ≠ 0 ∧ v.getLsbD r = true then u.getLsbD r else x.pred r) ∧
    (∃ w : Word, exec (.pget h d) s = .next (finish s x 1 h.stop { val := some w } (s.upMe (·.setDst d w))) ∧
        (∀ k, k < 64 → w.getLsbD k = if k8 : k < 8 then x.pred ⟨k, k8⟩ else false))

/-- A guarded instruction of a dealer whose guard reads false completes with a latch entry without a value and no other effect of
its own, whatever its operands are, and ends its group exactly where it would under a true guard; said of instructions of
every major with a guard. (R40, R42, R120.) -/
def Obligations.FalseGuard : Prop :=
  ∀ (s : State) (x : Ctx) (h : Hd) (d : Dst) (e : Fin 48) (a c : Src) (m : Option (Fin 7)) (o : BitVec 4) (n : BitVec 12)
    (k : Fin 4) (sem : Fin 64) (t : Fin 128) (w : Bool) (sc : Scope) (ord : Order) (i : BitVec 6),
    Ready s x → x.pred h.guard = false →
    (∀ j ∈ [Instr.add h d a c, .and h d a c, .sll h d a c, .div h d a c, .bfi h e a c, .sh3add h d a c, .addi h d a 1, .slli h d a 1,
        .pand h 1 2 3, .pput h a c, .ld h d a m o, .lb h d a m o, .sd h c a m o, .mset h 0 a c, .csrr h d n, .nop h,
        .burst h 1],
      exec j s = .next (finish s x 1 h.stop {} s)) ∧
    (∀ j ∈ [Instr.jr h a, .jrl h e a, .ret h, .loop h a 1, .csrw h n c, .amoadd h w sc ord e a, .amocas h w sc ord e a,
        .fence h sc ord, .fenceI h, .trap h i, .eret h, .brk h, .link h k a, .kick h k, .fork h 1, .rdv h 1, .drain h,
        .chseq h d k, .semi h sem a c, .semw h sem a c, .tdef h t a, .tmod h t a c, .claim h a, .release h a, .hstat h d a,
        .axis h k a, .resi h k a, .qsw h 1 a, .covset h k a, .spawn h a, .enq h a c, .await h a c, .resolve h a c, .yield h,
        .endRec h, .cancel h a, .join h a, .leave h a, .gbar h a, .wfe h, .sev h a, .ctxsave h a, .ctxrestore h a, .qbind h a c,
        .qunbind h a, .qdepth h d a, .tprobe h d a, .tinv h a c],
      exec j s = .next (finish s x 1 true {} s)) ∧
    (∀ j ∈ [Instr.li h d 0, .liu h d 0, .lih h e 0, .addl h e 1], exec j s = .next (finish s x 2 h.stop {} s)) ∧
    (∀ g : Fin 8, x.pred g = false → ∀ j ∈ [Instr.br g 5, .brl g 5], exec j s = .next (finish s x 1 true {} s))

/-- Where nothing pends that a group end would take, completing an instruction with no transfer makes one latch entry (none is
left at the end of a group), steps the pc past the words or to where the end test of an active level that ends here leads, and
changes of the context else only its wait, its answers, its activity and the mark of R426; of the machine only its contexts
and queues. (R42, R119, R120, R121, R424, R426.) -/
def Obligations.Completing : Prop :=
  ∀ (s s1 : State) (x y : Ctx) (len : Nat) (ends : Bool) (v : Option Word),
    s1.ctx? s.cur s.mySlot = some y → y.quiet = true → x.stepping = false →
    ∃ z : Ctx,
      (finish s x len ends { val := v } s1).ctx? s.cur s.mySlot = some z ∧
      z.core = y.core ∧ z.regs = y.regs ∧ z.preds = y.preds ∧ z.wait = none ∧ SameBounds y z ∧
      ((∀ L : Fin 2, ¬((y.loops.get L).act = true ∧ (y.loops.get L).le = y.pc)) →
        z.pc = y.pc + BitVec.ofNat 64 (4 * len) ∧ z.loops = y.loops ∧ z.latches = if ends then [] else v :: y.latches) ∧
      (∀ L : Fin 2, (y.loops.get L).act = true → (y.loops.get L).le = y.pc →
        (L = 0 → ¬((y.loops.get 1).act = true ∧ (y.loops.get 1).le = y.pc)) →
        z.latches = [] ∧ z.loops.get (1 - L) = y.loops.get (1 - L) ∧
        (if (y.loops.get L).lc.toNat ≤ 1 then
          (z.loops.get L).lc = 0 ∧ (z.loops.get L).act = false ∧ z.pc = (y.loops.get L).le + 4
        else (z.loops.get L).lc = (y.loops.get L).lc - 1 ∧ (z.loops.get L).act = true ∧ z.pc = (y.loops.get L).ls)) ∧
      finish s x len ends { val := v } s1 =
        { s1 with tiles := (finish s x len ends { val := v } s1).tiles, queues := (finish s x len ends { val := v } s1).queues }

/-- Where nothing pends, completing with a transfer to a target sets the pc to it and closes the group; an active level whose body
does not hold the target goes to count 0 and inactive, and level 1 goes with level 0; other levels, bounds, registers and the
rest of the context stay. (R122.) -/
def Obligations.Transferring : Prop :=
  ∀ (s s1 : State) (x y : Ctx) (len : Nat) (v : Option Word) (tgt : Word),
    s1.ctx? s.cur s.mySlot = some y → y.quiet = true → x.stepping = false →
    ∃ z : Ctx,
      (finish s x len true { val := v, ctl := .jump tgt } s1).ctx? s.cur s.mySlot = some z ∧
      z.core = y.core ∧ z.regs = y.regs ∧ z.preds = y.preds ∧ z.pc = tgt ∧ z.latches = [] ∧ SameBounds y z ∧
      (let out (l : LoopLevel) : Prop := l.act = true ∧ ¬(l.ls.toNat ≤ tgt.toNat ∧ tgt.toNat ≤ l.le.toNat)
       (out (y.loops.get 0) → ∀ L : Fin 2, (y.loops.get L).act = true → (z.loops.get L).lc = 0 ∧ (z.loops.get L).act = false) ∧
       (out (y.loops.get 1) → (z.loops.get 1).lc = 0 ∧ (z.loops.get 1).act = false) ∧
       (¬ out (y.loops.get 0) → z.loops.get 0 = y.loops.get 0) ∧
       (¬ out (y.loops.get 0) → ¬ out (y.loops.get 1) → z.loops.get 1 = y.loops.get 1))

/-- With a true guard BR, BRL, JR, JRL and RET complete with a transfer to the target of R117; BRL writes g47 and JRL its d with
the address after the branch, and JRL reads its target first. The jumps need a target that is a multiple of 4. With a false
guard each does nothing but end its group. (R117.) -/
def Obligations.Branches : Prop :=
  ∀ (s : State) (x : Ctx) (h : Hd) (e : Fin 48) (a : Src) (u : Word) (disp : BitVec 23),
    Ready s x → Reads s x a u →
    (x.pred h.guard = true →
      exec (.br h.guard disp) s = .next (finish s x 1 true { ctl := .jump (x.pc + 4 * disp.signExtend 64) } s) ∧
      exec (.brl h.guard disp) s =
        .next (finish s x 1 true { ctl := .jump (x.pc + 4 * disp.signExtend 64) } (s.upMe (·.setReg 47 (x.pc + 4)))) ∧
      (u.toNat % 4 = 0 →
        exec (.jr h a) s = .next (finish s x 1 true { ctl := .jump u } s) ∧
        exec (.jrl h e a) s =
          .next (finish s x 1 true { val := some (x.pc + 4), ctl := .jump u } (s.upMe (·.setReg e (x.pc + 4))))) ∧
      ((x.regs.get 47).toNat % 4 = 0 → exec (.ret h) s = .next (finish s x 1 true { ctl := .jump (x.regs.get 47) } s))) ∧
    (x.pred h.guard = false →
      ∀ i ∈ [Instr.br h.guard disp, .brl h.guard disp, .jr h a, .jrl h e a, .ret h], exec i s = .next (finish s x 1 true {} s))

/-- JR, JRL and RET whose target is not a multiple of 4 take MISALIGNED_FETCH precisely: the trap is entered with the jump's own
address and the target as EVAL, in the state as it was, so neither the link is written nor control transferred. (R10, R118,
R374, R377.) -/
def Obligations.MisalignedJumps : Prop :=
  ∀ (s : State) (x : Ctx) (h : Hd) (e : Fin 48) (a : Src) (u : Word),
    Ready s x → x.pred h.guard = true → Reads s x a u → u.toNat % 4 ≠ 0 →
    (∀ i ∈ [Instr.jr h a, .jrl h e a],
      exec i s = .next (preciseTrap s x .misalignedFetch u)) ∧
    (x.regs.get 47 = u →
      exec (.ret h) s = .next (preciseTrap s x .misalignedFetch u))

/-- LOOP with a readable count: with level 1 active, or level 0 active and the body not inside its body, it takes LOOP_NEST
precisely whatever the count; otherwise a count of 0 transfers past the body and starts nothing, and another count sets LC,
LS, LE and ACT of the level and goes on. (R119.) -/
def Obligations.LoopStarts : Prop :=
  ∀ (s : State) (x : Ctx) (h : Hd) (a : Src) (u : Word) (imm : BitVec 9) (last : Word),
    Ready s x → x.pred h.guard = true → Reads s x a u → last = x.pc + 4 * imm.setWidth 64 →
    (let nest : Prop := (x.loops.get 1).act = true ∨
        (x.loops.get 0).act = true ∧ ¬((x.loops.get 0).ls.toNat ≤ x.pc.toNat ∧ last.toNat < (x.loops.get 0).le.toNat)
     let L : Fin 2 := if (x.loops.get 0).act then 1 else 0
     (nest → exec (.loop h a imm) s =
        .next (preciseTrap s x .loopNest u)) ∧
     (¬ nest → u = 0 → exec (.loop h a imm) s = .next (finish s x 1 true { ctl := .jump (last + 4) } (s.upMe fun _ => x))) ∧
     (¬ nest → u ≠ 0 → exec (.loop h a imm) s =
        .next (finish s x 1 true {} (s.upMe fun y => { y with loops := y.loops.set L ⟨u, x.pc + 4, last, true⟩ }))))

/-- With a true guard TRAP 62 raises FIRMWARE_CALL, every other TRAP n raises TRAP_INSN with EVAL n, and BREAK raises BREAK with
EVAL 0, each after it completes; ERET in an active handler clears ACTIVE and goes to EPC with the saved group, and without an
active handler it takes PRIV precisely, with EVAL 0 (R377 gives an a operand, which ERET has not: log 88); NOP only completes. (R51, R374, R377,
R383.) -/
def Obligations.TrapsAndReturns : Prop :=
  ∀ (s : State) (x : Ctx) (h : Hd) (n : BitVec 6),
    Ready s x → x.pred h.guard = true →
    exec (.trap h n) s =
      .next (finish s x 1 true { ctl := .dplus (if n = 62 then .firmwareCall else .trapInsn) (n.setWidth 64) } s) ∧
    exec (.brk h) s = .next (finish s x 1 true { ctl := .dplus .brk 0 } s) ∧
    exec (.nop h) s = .next (finish s x 1 h.stop {} s) ∧
    (x.active = true → exec (.eret h) s =
      .next (finish s x 1 true { ctl := .eret x.epc (savedGroup x) } (s.upMe fun _ => { x with dbgctl := x.dbgctl &&& ~~~4#32 }))) ∧
    (x.active = false → exec (.eret h) s =
      .next (preciseTrap s x .priv 0))

/-- Entering a trap of a resident context: where TVEC is 0, the cause is FIRMWARE_CALL or MACHINE_CHECK, it is BREAK or STEP with
FWDBG, or it is of kind D, D+ or L while a handler is active, the leaf receives the trap state and no trap CSR changes;
otherwise EPC, ECAUSE, EVAL, TGCNT, TLVALID, ELATCH and ACTIVE are written and the pc is TVEC. Registers, predicates and loops
keep their values. (R374, R375, R376, R378.) -/
def Obligations.TrapEntry : Prop :=
  ∀ (s : State) (t : TileNo) (c : SlotNo) (x : Ctx) (k : TrapKind) (cause : Cause) (epc ev : Word) (el : List Word),
    s.ctx? t c = some x → x.latches.length < 16 →
    ∃ z : Ctx, (enterTrap t c k cause epc ev el s).ctx? t c = some z ∧
      z.regs = x.regs ∧ z.preds = x.preds ∧ z.loops = x.loops ∧ z.latches = [] ∧
      (let keeps : Prop := k = .d ∨ k = .dplus ∨ k = .l
       let leaf : Prop := x.tvec = 0 ∨ cause = .firmwareCall ∨ cause = .machineCheck ∨
          ((cause = .brk ∨ cause = .step) ∧ x.dbgctl.getLsbD 1 = true) ∨ (keeps ∧ x.dbgctl.getLsbD 2 = true)
       (leaf → z.run = .leaf ∧ z.pc = epc ∧ z.epc = x.epc ∧ z.ecause = x.ecause ∧ z.eval = x.eval ∧ z.elatch = x.elatch ∧
          z.dbgctl = x.dbgctl ∧ ∃ r : TrapRec, z.leafTrap = some r ∧ r.kind = k ∧ r.cause = cause ∧ r.epc = epc ∧ r.eval = ev ∧
          (keeps → r.latches = x.latches)) ∧
       (¬ leaf → z.run = x.run ∧ z.pc = x.tvec ∧ z.epc = epc &&& ~~~3#64 ∧ z.ecause = BitVec.ofNat 32 cause.code ∧ z.eval = ev ∧
          z.dbgctl.getLsbD 2 = true ∧ z.dbgctl.getLsbD 0 = x.dbgctl.getLsbD 0 ∧ z.dbgctl.getLsbD 1 = x.dbgctl.getLsbD 1 ∧
          (keeps → z.dbgctl.toNat / 16 % 16 = x.latches.length ∧
            ∀ j : Fin 8, z.dbgctl.getLsbD (8 + j) = (x.latches[j.val]?).join.isSome ∧
              z.elatch.get j = ((x.latches[j.val]?).join).getD 0) ∧
          (¬ keeps → z.dbgctl.toNat / 16 % 16 = 0 ∧ (∀ j : Fin 8, z.dbgctl.getLsbD (8 + j) = false) ∧
            ∀ j : Fin 8, z.elatch.get j = (el[j.val]?).getD 0)))

/-- Where a context with at most eight latch entries enters its handler precisely at a word-aligned pc and then leaves it by ERET,
the address and the latch entries that ERET gives back are those of the trap, and no handler is active. (R376, R383.) -/
def Obligations.EretRestoresTheGroup : Prop :=
  ∀ (s : State) (t : TileNo) (c : SlotNo) (x z : Ctx) (cause : Cause) (ev : Word),
    s.ctx? t c = some x → x.latches.length ≤ 8 → x.pc.toNat % 4 = 0 → toLeaf x .d cause = false →
    (enterTrap t c .d cause x.pc ev [] s).ctx? t c = some z →
    (eretEff z).2 = { ctl := .eret x.pc x.latches } ∧ (eretEff z).1.active = false ∧ (eretEff z).1.regs = x.regs

/-- A two-source integer instruction whose second source is a latch entry that the group does not hold, or that holds no value,
takes LATCH_STALE precisely with the value of its a operand as EVAL. (R42, R374, R377.) -/
def Obligations.StaleLatches : Prop :=
  ∀ (s : State) (x : Ctx) (h : Hd) (d : Dst) (e : Fin 48) (a : Src) (u : Word) (k : Fin 8),
    Ready s x → x.pred h.guard = true → Reads s x a u → (x.latches[k.val]?).join = none →
    ∀ i ∈ [Instr.add h d a (.b k), .sub h d a (.b k), .and h d a (.b k), .sll h d a (.b k), .mul h d a (.b k), .div h d a (.b k),
        .min h d a (.b k), .bfxu h d a (.b k), .sh3add h d a (.b k), .movnz h e a (.b k), .bfi h e a (.b k), .pput h a (.b k),
        .mset h 0 a (.b k)],
      exec i s = .next (preciseTrap s x .latchStale u)

/-- MSET writes base and length of its modulo register and nothing else; MGETB and MGETL complete with base and length. MODSTEP of
an address inside a buffer of non-zero length gives an address of the buffer that differs from a + step by a multiple of the
length; outside the buffer, or with length 0, it gives a + step modulo 2^64. (R126.) -/
def Obligations.ModuloRegisters : Prop :=
  (∀ (s : State) (x : Ctx) (h : Hd) (d : Dst) (k : Fin 7) (a c : Src) (u v : Word),
    Ready s x → x.pred h.guard = true → Reads s x a u → Reads s x c v →
    exec (.mset h k a c) s = .next (finish s x 1 h.stop {} (s.upMe fun y => { y with mods := y.mods.set k ⟨u, v⟩ })) ∧
    exec (.mgetb h d k) s =
      .next (finish s x 1 h.stop { val := some (x.mods.get k).base } (s.upMe (·.setDst d (x.mods.get k).base))) ∧
    exec (.mgetl h d k) s =
      .next (finish s x 1 h.stop { val := some (x.mods.get k).len } (s.upMe (·.setDst d (x.mods.get k).len)))) ∧
  (∀ (m : ModReg) (a : Word) (step : Int),
    (m.len ≠ 0 → m.base.toNat ≤ a.toNat → a.toNat < m.base.toNat + m.len.toNat →
      ∃ p : Nat, modStep m a step = BitVec.ofNat 64 p ∧ m.base.toNat ≤ p ∧ p < m.base.toNat + m.len.toNat ∧
        ∃ q : Int, (p : Int) = a.toNat + step + q * m.len.toNat) ∧
    (m.len = 0 ∨ a.toNat < m.base.toNat ∨ m.base.toNat + m.len.toNat ≤ a.toNat → modStep m a step = a + BitVec.ofInt 64 step))

/-- CSRR of a listed number completes with the register's value zero-extended, and an unlisted number takes CSR_UNKNOWN with the
number as EVAL; the values of the identity, partition, loop, trap, chain-memory and deck registers are those of the fields
they name. (R98, R99, R100, R101, R102, R103.) -/
def Obligations.CsrReads : Prop :=
  (∀ (s : State) (x : Ctx) (h : Hd) (d : Dst) (r : BitVec 12),
    Ready s x → x.pred h.guard = true →
    (csrClass r.toNat ≠ .unknown → exec (.csrr h d r) s =
      .next (finish s x 1 h.stop { val := some (csrRead s s.cur s.mySlot x r.toNat) }
        (s.upMe (·.setDst d (csrRead s s.cur s.mySlot x r.toNat))))) ∧
    (csrClass r.toNat = .unknown → exec (.csrr h d r) s =
      .next (preciseTrap s x .csrUnknown (r.setWidth 64)))) ∧
  (∀ (s : State) (t : TileNo) (c : SlotNo) (x : Ctx) (j : Fin 8) (n : Fin 4),
    (csrRead s t c x 0x000).toNat = t ∧ (csrRead s t c x 0x001).toNat = x.num.toNat * 65536 + c ∧
    csrRead s t c x 0x002 = s.frame ∧ csrRead s t c x 0x004 = x.partw.setWidth 64 ∧
    csrRead s t c x 0x012 = x.nancnt.setWidth 64 ∧ csrRead s t c x 0x015 = x.dropcnt.setWidth 64 ∧
    csrRead s t c x 0x018 = (x.loops.get 0).lc ∧ csrRead s t c x 0x01C = (x.loops.get 1).ls ∧
    csrRead s t c x 0x01A = (x.loops.get 0).le ∧
    (csrRead s t c x 0x01E).getLsbD 0 = (x.loops.get 0).act ∧ (csrRead s t c x 0x01E).getLsbD 1 = (x.loops.get 1).act ∧
    csrRead s t c x 0x020 = x.epc ∧ csrRead s t c x 0x023 = x.tvec ∧ csrRead s t c x (0x028 + j) = x.elatch.get j ∧
    csrRead s t c x 0x030 = x.chainbase.setWidth 64 ∧ csrRead s t c x (0x040 + n) = ((s.tile t).dkb.get n).setWidth 64 ∧
    csrRead s t c x (0x048 + n) = ((s.tile t).dkt.get n).setWidth 64 ∧ csrRead s t c x 0x050 = x.dbgctl.setWidth 64)

/-- A CSR write of a register that the dealer may write completes and the register's writable fields take the source, the source
or-ed in, or its bits cleared; the other bits keep their values, but that a write of EPC leaves TGCNT and TLVALID of DBGCTL 0. An unlisted number takes CSR_UNKNOWN, a privileged one PRIV,
a read-only one CSR_READONLY, and the bounds of an active level LOOP_BOUNDS_WRITE, in that order. (R99, R100, R102, R103,
R373.) -/
def Obligations.CsrWrites : Prop :=
  (∀ (s : State) (x : Ctx) (h : Hd) (r : BitVec 12) (a : Src) (v : Word),
    Ready s x → x.pred h.guard = true → Reads s x a v →
    let old := csrRead s s.cur s.mySlot x r.toNat
    (csrClass r.toNat = .rw → boundsActive x r.toNat = false →
      ∀ p ∈ [(Instr.csrw h r a, v), (.csrs h r a, old ||| v), (.csrc h r a, old &&& ~~~v)],
        exec p.1 s = .next (finish s x 1 true {} (s.upMe fun y => csrWrite y r.toNat p.2))) ∧
    (∀ i ∈ [Instr.csrw h r a, .csrs h r a, .csrc h r a], ∀ p ∈ [
        (decide (csrClass r.toNat = .unknown), Cause.csrUnknown), (decide (csrClass r.toNat = .priv), .priv),
        (decide (csrClass r.toNat = .readonly), .csrReadonly),
        (decide (csrClass r.toNat = .rw) && boundsActive x r.toNat, .loopBoundsWrite)],
      p.1 = true → exec i s =
        .next (preciseTrap s x p.2 (r.setWidth 64)))) ∧
  (∀ (s : State) (t : TileNo) (c : SlotNo) (x : Ctx) (n : Nat) (v : Word), csrClass n = .rw →
    let y := csrWrite x n v
    y.regs = x.regs ∧ y.preds = x.preds ∧ y.pc = x.pc ∧
    (∀ m, csrClass m ≠ .unknown → m ≠ n → ¬(n = 0x020 ∧ m = 0x050) → csrRead s t c y m = csrRead s t c x m) ∧
    (n = 0x020 → csrRead s t c y 0x050 = csrRead s t c x 0x050 &&& ~~~0xFFF0#64) ∧
    (n ∈ [0x018, 0x01B, 0x022, 0x028, 0x029, 0x02A, 0x02B, 0x02C, 0x02D, 0x02E, 0x02F] → csrRead s t c y n = v) ∧
    (n ∈ [0x019, 0x01A, 0x01C, 0x01D, 0x020, 0x023] → csrRead s t c y n = v &&& ~~~3#64) ∧
    (∀ p ∈ [(0x010, 0xF#32), (0x011, 1#32), (0x012, 0xFFFFFFFF#32), (0x013, 0xFFFFFFFF#32), (0x014, 1#32), (0x015, 0xFFFFFFFF#32),
        (0x021, 0x3F#32), (0x030, 0xFFFFC0#32), (0x031, 0xFFFFC0#32)], n = p.1 →
      csrRead s t c y n =
        (((csrRead s t c x n).setWidth 32 &&& ~~~p.2) ||| (v.setWidth 32 &&& p.2)).setWidth 64))

/-- FENCE completes with any order and leaves memory as it was: a release keeps its scope for later writes, and at a scope wider
than TILE it enters the frontier with its epoch in the ring of snapshots and starts the next epoch, which is taken modulo 2^32 (the model's choice,
log 15); an acquire empties the data cache. FENCE.I completes, moves the tile's fetch stamp up to the present and empties its instruction cache.
TPROBE completes: it gives
0x1F00 for an address of another space, the cause of a failing translation in bits 15:8, and the leaf's word otherwise. BURST
completes: it starts a ramp from COLD and takes the hold to the later of a standing one and 2n cycles from now. (R214, R342,
R347, R348, R354, R360, R361, R393.) -/
def Obligations.FencesAndProbe : Prop :=
  ∀ (s : State) (x : Ctx) (h : Hd) (d : Dst) (a : Src) (u : Word) (sc : Scope) (ord : Order) (n : BitVec 9),
    Ready s x → x.pred h.guard = true → Reads s x a u →
    (∃ s1 : State, exec (.fence h sc ord) s = .next (finish s x 1 true {} s1) ∧ s1.mem = s.mem ∧
      (ord.isRel = true ∧ sc ≠ .tile →
        (s1.tile s.cur).ep = ((s.tile s.cur).ep + 1) % 4294967296 ∧
        (s1.tile s.cur).ring.head? = some ((s.tile s.cur).ep, frRaise (s.tile s.cur).fr s.cur (s.tile s.cur).ep)) ∧
      (¬(ord.isRel = true ∧ sc ≠ .tile) →
        (s1.tile s.cur).ep = (s.tile s.cur).ep ∧ (s1.tile s.cur).ring = (s.tile s.cur).ring) ∧
      (ord.isAcq = true → (s1.tile s.cur).dcache = []) ∧
      (ord.isAcq = false → (s1.tile s.cur).dcache = (s.tile s.cur).dcache) ∧
      ∃ y : Ctx, s1.ctx? s.cur s.mySlot = some y ∧ y = { x with fences := y.fences } ∧
        (ord.isRel = true → ∃ p : Option Stamp, y.fences.head? = some (sc, p)) ∧ (ord.isRel = false → y.fences = x.fences)) ∧
    exec (.fenceI h) s = .next (finish s x 1 true {} (s.setTile s.cur { s.tile s.cur with ifence := s.wstamp, icache := [], ibad := [] })) ∧
    (spaceOf u ≠ 0 → exec (.tprobe h d a) s = .next (finish s x 1 true { val := some 0x1F00 } (s.upMe (·.setDst d 0x1F00)))) ∧
    (spaceOf u = 0 → ∀ (s1 s2 : State) (r : Except (Cause × Nat) TlbEntry), Runs (xlate s.cur true x.job (offOf u)) s r s1 →
      (let w := match r with
        | .error e => BitVec.ofNat 64 (256 * e.1.code)
        | .ok e => probeWord s1 x.job e (offOf u)
       Pays s x (s1.upMe (·.setDst d w)) s2 → exec (.tprobe h d a) s = .next (finish s x 1 true { val := some w } s2))) ∧
    (let m : MxPower := (s.tile s.cur).mx
     ∃ s1 : State, exec (.burst h n) s = .next (finish s x 1 h.stop {} s1) ∧ s1.mem = s.mem ∧
       (∃ y : Ctx, s1.ctx? s.cur s.mySlot = some y ∧ y.core = x.core ∧ y.regs = x.regs ∧ y.preds = x.preds ∧ y.pc = x.pc) ∧
       (s1.tile s.cur).mx.hold = max (if m.hold ≤ s.now then 0 else m.hold) (s.now + 2 * n.toNat) ∧
       (m.state = .cold → (s1.tile s.cur).mx.state = .ramp ∧ (s1.tile s.cur).mx.since = s.now) ∧
       (m.state ≠ .cold → (s1.tile s.cur).mx.state = m.state ∧ (s1.tile s.cur).mx.since = m.since))

/-- For every load and every space: where the address is in a space, aligned to the size, and the access behind it delivers bytes
(the translation, the grant, the race check and the reading of R106 pass, or the answer of a window is there), and the tenant
can pay its units, the load completes; d takes the extended value, and with a modulo register the address register has stepped
first. (R104, R106, R124, R126, R419.) -/
def Obligations.LoadsComplete : Prop :=
  ∀ (s s1 s2 : State) (x : Ctx) (h : Hd) (d : Dst) (a : Src) (m : Option (Fin 7)) (o : BitVec 4) (u : Word) (bs : List Byte),
    Ready s x → x.pred h.guard = true → Reads s x a u →
    ∀ p ∈ [(Instr.lbu h d a m o, 1, (leNat bs) % 256), (.lhu h d a m o, 2, leNat bs % 65536),
        (.lwu h d a m o, 4, leNat bs % 4294967296), (.ld h d a m o, 8, leNat bs),
        (.lb h d a m o, 1, ((BitVec.ofNat 8 (leNat bs)).signExtend 64).toNat),
        (.lh h d a m o, 2, ((BitVec.ofNat 16 (leNat bs)).signExtend 64).toNat),
        (.lw h d a m o, 4, ((BitVec.ofNat 32 (leNat bs)).signExtend 64).toNat)],
      spaceOk (memAddr u m o p.2.1) = true → (memAddr u m o p.2.1).toNat % p.2.1 = 0 →
      Runs (loadAny s.cur s.mySlot x (memAddr u m o p.2.1) p.2.1 0) s bs s1 →
      Pays s x (s1.upMe fun y => (memStep y a m o p.2.1).setDst d (BitVec.ofNat 64 p.2.2)) s2 →
      exec p.1 s = .next (finish s x 1 h.stop { val := some (BitVec.ofNat 64 p.2.2) } s2)

/-- For every store and every space: where the address is in a space, aligned to the size, and the access behind it takes the
bytes, and the tenant can pay, the store completes with the address register stepped where a modulo register is named; the
data is read before the step. (R104, R106, R124, R126, R419.) -/
def Obligations.StoresComplete : Prop :=
  ∀ (s s1 s2 : State) (x : Ctx) (h : Hd) (v a : Src) (m : Option (Fin 7)) (o : BitVec 4) (u w : Word),
    Ready s x → x.pred h.guard = true → Reads s x a u → Reads s x v w →
    ∀ p ∈ [(Instr.sb h v a m o, 1), (.sh h v a m o, 2), (.sw h v a m o, 4), (.sd h v a m o, 8)],
      spaceOk (memAddr u m o p.2) = true → (memAddr u m o p.2).toNat % p.2 = 0 →
      Runs (storeAny s.cur s.mySlot x (memAddr u m o p.2) (natLe p.2 w.toNat) 0) s () s1 →
      Pays s x (s1.upMe fun y => memStep y a m o p.2) s2 →
      exec p.1 s = .next (finish s x 1 h.stop {} s2)

/-- An aligned access of the own scratchpad inside the context's bytes and outside the deck rings, at readable bytes where no
release is published and with no release fence before it, in a memory of canonical form, completes: a load gives the
little-endian number of the bytes there and changes no byte; a store puts the low bytes of its data there, the lowest first,
and every byte outside the stored ones reads as before. (R104, R105, R106, R124, R318.) -/
def Obligations.ScratchpadAccesses : Prop :=
  ∀ (s : State) (x : Ctx) (h : Hd) (d : Dst) (v a : Src) (o : BitVec 4) (u w : Word),
    Ready s x → s.MemOk → x.pred h.guard = true → Reads s x a u → Reads s x v w → x.fences = [] →
    ∀ p ∈ [(Instr.lbu h d a none o, Instr.sb h v a none o, 1), (.lhu h d a none o, .sh h v a none o, 2),
        (.lwu h d a none o, .sw h v a none o, 4), (.ld h d a none o, .sd h v a none o, 8)],
      (let addr := memAddr u none o p.2.2
       let off := addr.toNat - 0x8000000000000000
       let k := spAt s.cur off
       0x8000000000000000 ≤ addr.toNat → off < 16777216 → off % p.2.2 = 0 → off + p.2.2 ≤ padBytes x.partw →
       hitsDeck (s.tile s.cur) off p.2.2 = false → badBytes s k p.2.2 = 0 → pubsOver s k p.2.2 = [] →
       (let r := BitVec.ofNat 64 (leNat (cellsRead s.mem k p.2.2))
        exec p.1 s = .next (finish s x 1 h.stop { val := some r } (s.upMe (·.setDst d r)))) ∧
       ∃ s1 : State, exec p.2.1 s = .next (finish s x 1 h.stop {} s1) ∧ SameOutside k p.2.2 s s1 ∧
         cellsRead s1.mem k p.2.2 = natLe p.2.2 w.toNat ∧ s1.ctx? s.cur s.mySlot = some x)

/-- A load or store whose address lies in no space takes ADDRESS_SPACE, and one in a space that is not a multiple of the size
takes MISALIGNED_DATA, precisely and with the address as EVAL; an access of the own scratchpad that reaches past its bytes or
into a deck ring takes OUT_OF_POOL. (R10, R104, R105, R106, R318, R377.) -/
def Obligations.AccessFaults : Prop :=
  ∀ (s : State) (x : Ctx) (h : Hd) (d : Dst) (v a : Src) (m : Option (Fin 7)) (o : BitVec 4) (u w : Word),
    Ready s x → x.pred h.guard = true → Reads s x a u → Reads s x v w →
    ∀ p ∈ [(Instr.lbu h d a m o, 1), (.lb h d a m o, 1), (.lhu h d a m o, 2), (.lh h d a m o, 2), (.lwu h d a m o, 4),
        (.lw h d a m o, 4), (.ld h d a m o, 8), (.sb h v a m o, 1), (.sh h v a m o, 2), (.sw h v a m o, 4), (.sd h v a m o, 8)],
      (let addr := memAddr u m o p.2
       let takes (c : Cause) := exec p.1 s =
         .next (preciseTrap s x c addr)
       (spaceOk addr = false → takes .addressSpace) ∧
       (spaceOk addr = true → addr.toNat % p.2 ≠ 0 → takes .misalignedData) ∧
       (spaceOk addr = true → addr.toNat % p.2 = 0 → spaceOf addr = 8 →
         padBytes x.partw < offOf addr + p.2 ∨ hitsDeck (s.tile s.cur) (offOf addr) p.2 = true → takes .outOfPool))

/-- An atomic of any space completes where its place passes the checks, its access delivers the old value and the tenant can pay:
d takes the old value (sign-extended for a word) and the group ends. On readable bytes of the own scratchpad outside the deck
rings it completes under every order and scope, in a memory of canonical form and with nothing pending at the group's end: the
bytes take the new value of R363 and R364 (a failed compare leaves them), every other byte of memory reads as before, and no
other register and no predicate changes. (R362, R363, R364.) -/
def Obligations.Atomics : Prop :=
  ∀ (s : State) (x : Ctx) (h : Hd) (word : Bool) (sc : Scope) (ord : Order) (d : Fin 48) (a : Src) (u : Word),
    Ready s x → x.pred h.guard = true → Reads s x a u →
    (let n := if word then 4 else 8
     let v := (x.regs.get d).toNat % 2 ^ (8 * n)
     let w := (x.regs.toList[d.val + 1]?.getD 0).toNat % 2 ^ (8 * n)
     ∀ q ∈ [(Instr.amoadd h word sc ord d a, 0), (.amoand h word sc ord d a, 1), (.amoor h word sc ord d a, 2),
        (.amoxor h word sc ord d a, 3), (.amomin h word sc ord d a, 4), (.amomax h word sc ord d a, 5), (.amoswap h word sc ord d a, 6),
        (.amocas h word sc ord d a, 7)],
       ∀ (p : Place) (old : Nat) (ps : List Pub) (s1 s2 s3 s4 : State), Runs (amoPlace s.cur x u sc n) s p s1 →
         Runs (amoAccess s.cur s.mySlot x u p q.2 n sc ord v w) s1 (old, ps) s2 → Runs (amoAcquire s.cur sc ord ps) s2 () s3 →
         (let r := if word then (BitVec.ofNat 32 old).signExtend 64 else BitVec.ofNat 64 old
          Pays s x (s3.upMe (·.setReg d r)) s4 → exec q.1 s = .next (finish s x 1 true { val := some r } s4))) ∧
    (s.MemOk → x.quiet = true →
     let n := if word then 4 else 8
     let off := u.toNat - 0x8000000000000000
     let k := spAt s.cur off
     let old := leNat (cellsRead s.mem k n)
     let v := (x.regs.get d).toNat % 2 ^ (8 * n)
     let w := (x.regs.toList[d.val + 1]?.getD 0).toNat % 2 ^ (8 * n)
     let sgn (z : Nat) : Int := if 2 * z < 2 ^ (8 * n) then (z : Int) else (z : Int) - 2 ^ (8 * n)
     0x8000000000000000 ≤ u.toNat → off < 16777216 → off % n = 0 → off + n ≤ padBytes x.partw →
     hitsDeck (s.tile s.cur) off n = false → badBytes s k n = 0 →
     ∀ p ∈ [(Instr.amoadd h word sc ord d a, (old + v) % 2 ^ (8 * n)), (.amoand h word sc ord d a, old &&& v),
        (.amoor h word sc ord d a, old ||| v), (.amoxor h word sc ord d a, old ^^^ v),
        (.amomin h word sc ord d a, if sgn old ≤ sgn v then old else v), (.amomax h word sc ord d a, if sgn old ≤ sgn v then v else old),
        (.amoswap h word sc ord d a, v), (.amocas h word sc ord d a, if old = v then w else old)],
       ∃ (t : State) (y : Ctx), exec p.1 s = .next t ∧ leNat (cellsRead t.mem k n) = p.2 ∧ SameOutside k n s t ∧
         t.ctx? s.cur s.mySlot = some y ∧ y.preds = x.preds ∧ y.latches = [] ∧
         y.regs = x.regs.set d (if word then (BitVec.ofNat 32 old).signExtend 64 else BitVec.ofNat 64 old))

/-- Where nothing pends and the context has the dealer, waking it as it waits in an instruction ends the wait, writes the result
to the destination that the wait keeps, steps the pc past the instruction, closes the group, and leaves memory and the rest of
the context's state. (R42, R120, R321.) -/
def Obligations.Waking : Prop :=
  ∀ (s : State) (t : TileNo) (c : SlotNo) (w : Wait) (y : Ctx) (v : Option Word),
    s.ctx? t c = some y → (s.tile t).cur = c → y.quiet = true → (∀ L : Fin 2, ¬((y.loops.get L).act = true ∧ (y.loops.get L).le = y.pc)) →
    ∃ z : Ctx, (wake t c w { val := v } s).ctx? t c = some z ∧ z.wait = none ∧ z.latches = [] ∧
      z.pc = y.pc + BitVec.ofNat 64 (4 * w.len) ∧ z.core = y.core ∧ z.preds = y.preds ∧ z.loops = y.loops ∧
      z.regs = (match w.dst, v with
        | some d, some u => (y.setDst d u).regs
        | _, _ => y.regs) ∧
      wake t c w { val := v } s =
        { s.settled with tiles := (wake t c w { val := v } s).tiles, queues := (wake t c w { val := v } s).queues }

/-- For a run word that is well formed and inside the context's units: CLAIM of a run none of whose units a resident context holds
takes it and clears its bytes and tags; RELEASE of a run the context holds and no unretired block names gives it back with its
contents; ACLR of such a run of accumulator tiles clears it; HSTAT of one unit gives its state word; PARTW gives the partition
word. (R138, R139, R144, R145, R146, R147.) -/
def Obligations.PoolInstructions : Prop :=
  ∀ (s : State) (x : Ctx) (h : Hd) (d : Dst) (a : Src) (u : Word),
    Ready s x → x.pred h.guard = true → Reads s x a u →
    exec (.partw h d) s = .next (finish s x 1 true { val := some (x.partw.setWidth 64) } (s.upMe (·.setDst d (x.partw.setWidth 64)))) ∧
    (let r := runOf u
     r.rest = 0 → r.count ≠ 0 → r.first + r.count ≤ (if r.acc then accUnits x.partw else handUnits x.partw) →
     ((∀ y ∈ residents (s.tile s.cur), runTouched y r = false) → exec (.claim h a) s =
        .next (finish s x 1 true {} (clearRun s.cur r (s.upMe fun y =>
          if r.acc then { y with heldTiles := y.heldTiles ||| runMask 192 r }
          else { y with heldSlots := y.heldSlots ||| runMask 384 r })))) ∧
     (runHeld x r = true → runNamed x r = false →
        exec (.release h a) s = .next (finish s x 1 true {} (s.upMe fun y =>
          if r.acc then { y with heldTiles := y.heldTiles &&& ~~~runMask 192 r }
          else { y with heldSlots := y.heldSlots &&& ~~~runMask 384 r })) ∧
        (r.acc = true → exec (.aclr h a) s = .next (finish s x 1 true {} (clearRun s.cur r s)))) ∧
     (r.count = 1 → exec (.hstat h d a) s =
        .next (finish s x 1 true { val := some (hstatWord (s.tile s.cur) x s.mySlot r) }
          (s.upMe (·.setDst d (hstatWord (s.tile s.cur) x s.mySlot r))))))

/-- A run word with a reserved bit set or count 0 takes RESERVED_FIELD, one that reaches past the partition OUT_OF_POOL, a CLAIM
of a unit that a resident context holds SLOT_EXHAUSTED, a RELEASE or ACLR of a run not wholly held SLOT_NOT_HELD, and an ACLR
of tiles that an unretired block names ACC_CONFLICT, each precisely with the run word as EVAL; a RELEASE of a held run that a
block names waits. (R10, R144, R145, R377.) -/
def Obligations.PoolFaults : Prop :=
  ∀ (s : State) (x : Ctx) (h : Hd) (d : Dst) (a : Src) (u : Word),
    Ready s x → x.pred h.guard = true → Reads s x a u →
    (let r := runOf u
     let fits : Prop := r.rest = 0 ∧ r.count ≠ 0
     let inside : Prop := r.first + r.count ≤ (if r.acc then accUnits x.partw else handUnits x.partw)
     (¬ fits → ∀ i ∈ [Instr.claim h a, .release h a, .aclr h a, .hstat h d a], exec i s = .next (preciseTrap s x .reservedField u)) ∧
     (fits → r.acc = false → exec (.aclr h a) s = .next (preciseTrap s x .reservedField u)) ∧
     (fits → r.count ≠ 1 → exec (.hstat h d a) s = .next (preciseTrap s x .reservedField u)) ∧
     (fits → ¬ inside → (∀ i ∈ [Instr.claim h a, .release h a], exec i s = .next (preciseTrap s x .outOfPool u)) ∧
        (r.acc = true → exec (.aclr h a) s = .next (preciseTrap s x .outOfPool u)) ∧
        (r.count = 1 → exec (.hstat h d a) s = .next (preciseTrap s x .outOfPool u))) ∧
     (fits → inside → (∃ y ∈ residents (s.tile s.cur), runTouched y r = true) →
        exec (.claim h a) s = .next (preciseTrap s x .slotExhausted u)) ∧
     (fits → inside → runHeld x r = false → exec (.release h a) s = .next (preciseTrap s x .slotNotHeld u) ∧
        (r.acc = true → exec (.aclr h a) s = .next (preciseTrap s x .slotNotHeld u))) ∧
     (fits → inside → runHeld x r = true → runNamed x r = true →
        exec (.release h a) s = .next (waits s h 1 none (.release u) s) ∧
        (r.acc = true → exec (.aclr h a) s = .next (preciseTrap s x .accConflict u))))

/-- After a run is cleared, every byte of its units, and of the companions of its slots below 192, reads 0 in a memory of
canonical form, every other byte of memory reads as before, and the tags of its units are at their reset values while the tags
of other units stay. (R136, R137, R145.) -/
def Obligations.ClearedUnits : Prop :=
  ∀ (s : State) (t : TileNo) (r : Run), s.MemOk →
    (r.acc = true → r.first + r.count ≤ 192 →
      (∀ k, cellGet (clearRun t r s).mem k =
        if accAt t r.first 0 ≤ k ∧ k < accAt t r.first 0 + 16384 * r.count then 0 else cellGet s.mem k) ∧
      ∀ u : Fin 192, ((clearRun t r s).tile t).accTags.get u =
        if r.first ≤ u ∧ u.val < r.first + r.count then {} else (s.tile t).accTags.get u) ∧
    (r.acc = false → r.first + r.count ≤ 384 →
      (∀ k, cellGet (clearRun t r s).mem k =
        if (handAt t r.first 0 ≤ k ∧ k < handAt t r.first 0 + 8192 * r.count) ∨
          (compAt t r.first 0 ≤ k ∧ k < compAt t r.first 0 + 2048 * (min (r.first + r.count) 192 - min r.first 192)) then 0
        else cellGet s.mem k) ∧
      ∀ u : Fin 384, ((clearRun t r s).tile t).slotTags.get u =
        if r.first ≤ u ∧ u.val < r.first + r.count then {} else (s.tile t).slotTags.get u)

/-- TDEF of an image of 32 doublewords at a multiple of 64 that the loads deliver and that is well formed sets the entry, VALID
set; TMOD replaces one doubleword of a valid entry, VALID kept, if the result is well formed; TKILL clears an entry; none of
the three while an unretired block names the identifier: TKILL then takes TID_IN_USE with EVAL 0 (R377 gives an a operand, which TKILL has not: log
88). TGET gives doubleword a of an entry. (R150, R151, R154, R155, R377.) -/
def Obligations.TensorTable : Prop :=
  ∀ (s s1 s2 : State) (x : Ctx) (h : Hd) (d : Dst) (n : Fin 128) (a c : Src) (u v : Word) (img : List Word),
    Ready s x → x.pred h.guard = true → Reads s x a u → Reads s x c v →
    (x.titLocked n = false →
      (u.toNat % 64 = 0 → Runs (loadDws s.cur s.mySlot x u 32) s img s1 →
        (let e : Tit := Vector.ofFn fun k => if k = 0 then withValid (img[0]?.getD 0) true else img[k.val]?.getD 0
         titOk e = true → Pays s x (s1.upMe (·.titSet n e)) s2 → exec (.tdef h n a) s = .next (finish s x 1 true {} s2))) ∧
      (∀ hk : u.toNat < 32, titValid (x.titGet n) = true →
        (let e : Tit := (x.titGet n).set u.toNat (if u = 0 then withValid v true else v) hk
         titOk e = true → exec (.tmod h n a c) s = .next (finish s x 1 true {} (s.upMe (·.titSet n e))))) ∧
      exec (.tkill h n) s = .next (finish s x 1 true {} (s.upMe (·.titSet n (Vector.replicate 32 0))))) ∧
    (∀ hk : u.toNat < 32, exec (.tget h d n a) s =
      .next (finish s x 1 true { val := some ((x.titGet n).get ⟨u.toNat, hk⟩) } (s.upMe (·.setDst d ((x.titGet n).get ⟨u.toNat, hk⟩))))) ∧
    (x.titLocked n = true → exec (.tkill h n) s = .next (preciseTrap s x .tidInUse 0)) ∧
    (32 ≤ u.toNat → exec (.tget h d n a) s = .next (preciseTrap s x .reservedField u))

/-- On an idle semaphore SEMI sets count, ceiling, mode and promise from its words and clears the rest but the binding; SEMB
binds, unbinds or only declares external posts; SEMK returns the semaphore to reset, binding included. SEMP adds to the count
of a semaphore in count mode that stays within its ceiling. SEMR gives the word its selector names. Nothing else changes.
(R220, R222, R229, R232, R233, R235, R236, R237.) -/
def Obligations.Semaphores : Prop :=
  ∀ (s : State) (x : Ctx) (h : Hd) (d : Dst) (n : Fin 64) (a c : Src) (u v : Word),
    Ready s x → x.pred h.guard = true → Reads s x a u → Reads s x c v →
    (x.semIdle n = true → initOk u.toNat v.toNat = true → u.toNat % 4096 ≤ u.toNat / 4096 % 4096 →
      ∃ m : Sem, exec (.semi h n a c) s = .next (finish s x 1 true {} (s.upMe (·.modSem n fun _ => m))) ∧
        m.count = u.toNat % 4096 ∧ m.ceil = u.toNat / 4096 % 4096 ∧ m.phaseMode = u.getLsbD 24 ∧ m.expect = v.toNat ∧
        m.n = u.toNat % 4096 ∧ m.bind = (x.sems.get n).bind ∧ m.loss = 0 ∧ m.cur = 0 ∧ m.curl = 0 ∧ m.ext = 0 ∧ m.held = []) ∧
    (regionOk u.toNat = true → v.toNat < 4294967296 →
      (u.toNat % 8 = 0 → exec (.semb h n a c) s = .next (finish s x 1 true {} (s.upMe (·.modSem n (·.declare v.toNat))))) ∧
      (u.toNat % 8 = 4 → x.semIdle n = true → exec (.semb h n a c) s =
        .next (finish s x 1 true {} (s.upMe (·.modSem n fun m => ({ m with bind := none } : Sem).declare v.toNat)))) ∧
      (1 ≤ u.toNat % 8 → u.toNat % 8 ≤ 3 → x.semIdle n = true →
        (let r : Region := ⟨u.toNat % 8, u.toNat / 65536 % 16777216, u.toNat / 1099511627776⟩
         regionIn x.partw r = true → x.overlaps n r = false → exec (.semb h n a c) s =
          .next (finish s x 1 true {} (s.upMe (·.modSem n fun m => ({ m with bind := some r } : Sem).declare v.toNat)))))) ∧
    (x.semIdle n = true → exec (.semk h n) s = .next (finish s x 1 true {} (s.upMe (·.modSem n fun _ => {})))) ∧
    ((x.sems.get n).phaseMode = false → (x.sems.get n).count + u.toNat ≤ (x.sems.get n).ceil → exec (.semp h n a) s =
      .next (finish s x 1 true {} (s.upMe (·.modSem n fun m =>
        { m with count := m.count + u.toNat, n := min (m.n + u.toNat) 4294967295 })))) ∧
    (v.toNat < 7 → exec (.semr h d n c) s =
      .next (finish s x 1 true { val := some (BitVec.ofNat 64 ((x.sems.get n).select v.toNat)) }
        (s.upMe (·.setDst d (BitVec.ofNat 64 ((x.sems.get n).select v.toNat))))))

/-- SEMW with a take above its threshold or a threshold above the ceiling takes SEM_UNSATISFIABLE, with a threshold above the
promise FORWARD_WAIT; otherwise it lowers the promise by its take, joins the wait order last, and waits. SEMI, SEMK, and a SEMB that binds or
unbinds, on a semaphore that is not idle wait; a SEMB that only declares does not. (R169, R229, R232, R233, R234, R235, R237.) -/
def Obligations.SemaphoreWaits : Prop :=
  ∀ (s : State) (x : Ctx) (h : Hd) (n : Fin 64) (a c : Src) (u v : Word),
    Ready s x → x.pred h.guard = true → Reads s x a u → Reads s x c v →
    ((x.sems.get n).ceil < u.toNat ∨ u.toNat < v.toNat → exec (.semw h n a c) s = .next (preciseTrap s x .semUnsatisfiable u)) ∧
    (u.toNat ≤ (x.sems.get n).ceil → v.toNat ≤ u.toNat →
      ((x.sems.get n).n < u.toNat → exec (.semw h n a c) s = .next (preciseTrap s x .forwardWait u)) ∧
      (u.toNat ≤ (x.sems.get n).n → exec (.semw h n a c) s =
        .next (waits s h 1 none (.semw n u.toNat v.toNat) (s.upMe (·.modSem n fun m =>
          { m with n := m.n - v.toNat, order := m.order ++ [.dealer] }))))) ∧
    (x.semIdle n = false →
      exec (.semk h n) s = .next (waits s h 1 none (.semIdle 2 n 0 0) s) ∧
      (initOk u.toNat v.toNat = true → u.toNat % 4096 ≤ u.toNat / 4096 % 4096 →
        exec (.semi h n a c) s = .next (waits s h 1 none (.semIdle 0 n u v) s)) ∧
      (regionOk u.toNat = true → v.toNat < 4294967296 →
        (u.toNat % 8 = 0 → exec (.semb h n a c) s = .next (finish s x 1 true {} (s.upMe (·.modSem n (·.declare v.toNat))))) ∧
        (u.toNat % 8 = 4 → exec (.semb h n a c) s = .next (waits s h 1 none (.semIdle 1 n u v) s)) ∧
        (1 ≤ u.toNat % 8 → u.toNat % 8 ≤ 3 →
          (let r : Region := ⟨u.toNat % 8, u.toNat / 65536 % 16777216, u.toNat / 1099511627776⟩
           regionIn x.partw r = true → x.overlaps n r = false → exec (.semb h n a c) s = .next (waits s h 1 none (.semIdle 1 n u v) s)))))

/-- RELEASE_COMPLETE frees the run once no block names it; SEM_IDLE_ACTION acts on a semaphore that has become idle; SEMW_GRANT
takes from a semaphore whose order the dealer heads and whose count and losses reach the threshold, with an acquire;
DRAIN_COMPLETE ends a DRAIN once nothing of the context is left; CANCEL_FLAGS_SET sets the flags of all clusters; WFE_WAKE
clears a set event flag; QUNBIND_IDLE unbinds once no block names the endpoint; TINV_PINS_RELEASED waits for the pins that
stood; RDV_RELEASE lets the MARKs that hold the chains of its mask post and retire; each then completes the waiting
instruction. (R145, R169, R181, R183, R227, R229, R234, R327, R330, R336, R394, R414.) -/
def Obligations.WaitsEnd : Prop :=
  ∀ (s : State) (t : TileNo) (c : SlotNo) (x : Ctx) (w : Wait),
    s.ctx? t c = some x → x.wait = some w → (s.tile t).cur = c →
    (∀ v, w.kind = .release v → runNamed x (runOf v) = false →
      exec (.releaseComplete t c) s = .next (wake t c w {} (s.modCtx t c (dropRun (runOf v))))) ∧
    (∀ op n a v, w.kind = .semIdle op n a v → x.semIdle n = true →
      exec (.semIdleAction t c) s = .next (wake t c w {} (s.modCtx t c (·.modSem n (semAct op a v))))) ∧
    (∀ n thr k, w.kind = .semw n thr k → (x.sems.get n).order.head? = some .dealer →
      thr ≤ (x.sems.get n).count + (x.sems.get n).loss →
      (let s1 := mergeAt t ((x.sems.get n).acquired thr) s
       let s2 := s1.setTile t { s1.tile t with dcache := [] }
       exec (.semwGrant t c) s = .next (wake t c w {} (s2.modCtx t c (·.modSem n fun m =>
         { m.take k with order := m.order.drop 1 }))))) ∧
    (w.kind = .drain → drained s x = true →
      (let s1 := mergeAt t [] s
       exec (.drainComplete t c) s = .next (wake t c w {} (s1.setTile t { s1.tile t with dcache := [] })))) ∧
    (∀ job, w.kind = .cancel job → s.input.nums = [] →
      (let s1 := (List.finRange 48).foldl (fun s k => setCancel job k s) s
       s1.cancelledAll job = true → exec (.cancelFlagsSet t c) s = .next (wake t c w {} s1))) ∧
    (w.kind = .wfe → x.event = true → x.run = .run →
      (let s1 := mergeAt t x.evStamps s
       exec (.wfeWake t c) s = .next (wake t c w {} ((s1.setTile t { s1.tile t with dcache := [] }).modCtx t c fun y =>
         { y with event := false, evStamps := [] })))) ∧
    (∀ v b, w.kind = .qunbind v → bindWord v.toNat 0 = some b → namesEp x b = false →
      exec (.qunbindIdle t c) s = .next (wake t c w {} (unbind t b s))) ∧
    (∀ ps, w.kind = .tinv ps → (∀ p ∈ ps, pinStands s x.job p = false) →
      (let s1 := mergeAt t [] s
       exec (.tinvPinsReleased t c) s = .next (wake t c w {} (s1.setTile t { s1.tile t with dcache := [] })))) ∧
    (∀ (mask : BitVec 4) (ms : List (ChainNo × Entry)) (s1 : State), w.kind = .rdv mask → ms.map Prod.fst = maskChains mask →
      (∀ p ∈ ms, holdingMark x p.1 = some p.2) →
      Runs (ms.forM fun p => blockStep t c p.1 p.2 x.job (retireBlock t c p.1 p.2 0 0)) s () s1 →
      (s1.tile t).cur = c → (∃ y, s1.ctx? t c = some y ∧ ∀ p ∈ ms, (y.entry? p.1 p.2.seq).isNone = true) →
      exec (.rdvRelease t c) s = .next (wake t c w {} s1))

/-- KICK starts its chain if it is stopped, and retries it if its fault has been reported; FORK does so to every chain of its
mask; DRAIN of a context with nothing queued, nothing under way and no held contribution completes with an acquire; RDV with a
rendezvous MARK queued on every chain of its mask starts the stopped ones and waits for RDV_RELEASE, and without one takes
RDV_MISMATCH with its mask as EVAL (R377 gives an a operand, which RDV has not: log 88); CHSEQ gives the number of the next block, and CHSTAT the
status word, whose block is the one at the head of the queue (log 21). (R157, R179, R181, R183, R184, R227, R377.) -/
def Obligations.ChainControl : Prop :=
  (∀ (s : State) (x : Ctx) (h : Hd) (d : Dst) (k : Fin 4) (m : BitVec 4),
    Ready s x → x.pred h.guard = true →
    exec (.kick h k) s = .next (finish s x 1 true {} (s.upMe fun y => { y with chains := y.chains.set k (y.chains.get k).kick })) ∧
    (∃ y : Ctx, exec (.fork h m) s = .next (finish s x 1 true {} (s.upMe fun _ => y)) ∧ y = { x with chains := y.chains } ∧
      ∀ j : Fin 4, y.chains.get j = if m.getLsbD j then (x.chains.get j).kick else x.chains.get j) ∧
    ((∀ j : Fin 4, (x.chains.get j).queue = [] ∧ (x.chains.get j).state ≠ .faulted) →
      (∀ q ∈ s.msgs, ¬(q.job = x.job ∧ q.num = x.num ∧ q.chain.isSome = true)) →
      (∀ j : Fin 4, (x.covs.get j).early = []) →
      ∃ s1 : State, exec (.drain h) s = .next (finish s x 1 true {} s1) ∧ s1.ctx? s.cur s.mySlot = some x ∧ s1.mem = s.mem ∧
        (s1.tile s.cur).dcache = []) ∧
    ((∀ j : Fin 4, m.getLsbD j = true → ∃ e ∈ (x.chains.get j).queue, e.isRdv = true) →
      ∃ y : Ctx, exec (.rdv h m) s = .next (waits s h 1 none (.rdv m) (s.upMe fun _ => y)) ∧ y = { x with chains := y.chains } ∧
        ∀ j : Fin 4, y.chains.get j = if m.getLsbD j = true ∧ (x.chains.get j).state = .stopped
          then { x.chains.get j with state := .running } else x.chains.get j) ∧
    ((∃ j : Fin 4, m.getLsbD j = true ∧ ∀ e ∈ (x.chains.get j).queue, e.isRdv = false) →
      exec (.rdv h m) s = .next (preciseTrap s x .rdvMismatch (m.setWidth 64))) ∧
    exec (.chseq h d k) s = .next (finish s x 1 true { val := some (BitVec.ofNat 64 (x.chains.get k).seq) }
      (s.upMe (·.setDst d (BitVec.ofNat 64 (x.chains.get k).seq)))) ∧
    exec (.chstat h d k) s = .next (finish s x 1 true { val := some (BitVec.ofNat 64 (chstatWord (x.chains.get k))) }
      (s.upMe (·.setDst d (BitVec.ofNat 64 (chstatWord (x.chains.get k))))))) ∧
  (∀ k : Chain, k.kick.queue = k.queue ∧ k.kick.seq = k.seq ∧
    (k.state = .stopped → k.kick = { k with state := .running }) ∧ (k.state = .running → k.kick = k) ∧
    (∀ f, k.state = .faulted → k.fault = some f →
      (f.reported = true → k.kick.state = .running ∧ k.kick.fault = none) ∧ (f.reported = false → k.kick = k)))

/-- With address operands that pass their checks, and reads of records and futures that deliver: SPAWN of a FREE record writes its job, parent and state, PARKED where JOIN is
not 0 and QUEUED with a push where it is 0, and in a cancelled job retires it; RESOLVE of an unresolved future writes state
and value and decrements its waiters; AWAIT of an unresolved future with fewer than six waiters adds the record, and without
the suspend bit goes on. (R311, R314, R317, R322, R323, R324, R327, R331, R333, R334.) -/
def Obligations.SpawnsAndFutures : Prop :=
  ∀ (s s1 s2 s3 : State) (x : Ctx) (h : Hd) (a c : Src) (u v : Word) (pa xpa : Nat),
    Ready s x → x.pred h.guard = true → Reads s x a u → Reads s x c v →
    Runs (operandPlace s.cur x u 64 true) s pa s1 →
    (let touch (va : Word) (k n : Nat) : M Unit := eccTouch s.cur s.mySlot x va k n
     (∀ r0, Runs (touch u (pa + 16) 8) s1 () r0 →
      (let r := (releaseAt s.cur .dev r0).1
       let p := (releaseAt s.cur .dev r0).2
       let w := recDw r pa 2
       recState r pa = 0 →
       (r.cancelled (clOf s.cur) x.job = true → Pays s x (ownWrites s.cur x s (setRecDw pa 2 (withRetired w 0x36) r)) s3 →
          exec (.spawn h a) s = .next (finish s x 1 true {} s3)) ∧
       (r.cancelled (clOf s.cur) x.job = false → ∀ r2, Runs (ownParent s.cur s.mySlot x) r () r2 →
         (let parent := ((runningRec r2 x).map (recParent r2)).getD 0
          let q := gridUp s.cur x.job parent (setRecDw pa 4 parent (setRecDw pa 3 (x.job % 4294967296 + 4294967296 * 0xFFFFFFFF) r2))
          ∀ q2, Runs (carry pa p) q () q2 →
          (w % 4294967296 ≠ 0 → Pays s x (ownWrites s.cur x s (setRecDw pa 2 (spawnFlags w (r.timed x.job) 1) q2)) s3 →
            exec (.spawn h a) s = .next (finish s x 1 true {} s3)) ∧
          (w % 4294967296 = 0 → ∀ q3,
            ownerPush s.cur x.job (r.timed x.job) (recPrio (setRecDw pa 2 (spawnFlags w (r.timed x.job) 2) q2) pa) u
              (setRecDw pa 2 (spawnFlags w (r.timed x.job) 2) q2) = some q3 →
            Pays s x (ownWrites s.cur x s q3) s3 → exec (.spawn h a) s = .next (finish s x 1 true {} s3)))))) ∧
     (∀ r0 r1, Runs (touch u pa 8) s1 () r0 → resolveFault r0 pa = none → Runs (touch u (pa + 16) (8 * (readNat r0 pa 8 / 4 % 8))) r0 () r1 →
       Runs (resolveFuture s.cur x.job x.num.toNat (fun r => trapDrop .race u 0 [r]) u pa v) r1 () s2 → Pays s x (ownWrites s.cur x s s2) s3 →
       exec (.resolve h a c) s = .next (finish s x 1 true {} s3)) ∧
     (∀ r0 r1 s4 s5, s.cancelled (clOf s.cur) x.job = false → v.toNat % 64 = 0 → Runs (touch u pa 8) s1 () r0 →
       Runs (operandPlace s.cur x v 64 true) r0 xpa s2 → Runs (touch u (xpa + 16) 8) s2 () r1 →
       (recState r1 xpa = 1 ∨ (recState r1 xpa = 3 ∧ v = x.record)) →
       Runs (register s.cur x u v pa xpa) r1 () s4 →
       Runs (carry xpa (releaseAt s.cur .dev s4).2) (releaseAt s.cur .dev s4).1 () s5 → Pays s x (ownWrites s.cur x s s5) s3 →
       exec (.await h a c) s = .next (finish s x 1 true {} s3)))

/-- Resolution is refused with FUTURE_STATE where the state word has an invalid code and with DOUBLE_RESOLVE where the future is
resolved already. Registration of a record on a valid unresolved future with fewer than six waiters, at readable bytes of a
memory of canonical form, stores the record's address in the next waiter doubleword and raises the number of waiters, and
writes nothing else. Resolution of a valid unresolved future there sets ST to 1 and VALUE to the value, keeps NW and W0 to W5, and writes nothing else
before it decrements each waiter that NW counts, in order; a decrement lowers the JOIN of a record on readable bytes by one, where it is not 0, and
leaves the other bits of its doubleword 2; a PARKED or SUSPENDED record whose JOIN reaches 0 is pushed, or retired with CANCELLED in a cancelled job;
JOIN 0 stays and is recorded. (A record that CTXSAVE saved is not pushed: R384.) (R322, R323, R324, R326, R327, R384.) -/
def Obligations.FutureStates : Prop :=
  (∀ (s : State) (pa : Nat), let w := readNat s pa 8
    (w % 4 ≤ 1 ∧ w / 4 % 8 ≤ 6 ∧ w / 32 = 0 → (w % 4 = 1 → resolveFault s pa = some .doubleResolve) ∧
      (w % 4 = 0 → resolveFault s pa = none)) ∧
    (¬(w % 4 ≤ 1 ∧ w / 4 % 8 ≤ 6 ∧ w / 32 = 0) → resolveFault s pa = some .futureState)) ∧
  (∀ (s : State) (t : TileNo) (x : Ctx) (f v : Word) (fpa xpa n : Nat),
    s.MemOk → readNat s fpa 8 = 4 * n → n < 6 → badBytes s fpa 64 = 0 →
    ∃ s1, Runs (register t x f v fpa xpa) s () s1 ∧ leNat (cellsRead s1.mem fpa 8) = 4 * (n + 1) ∧
      leNat (cellsRead s1.mem (fpa + 16 + 8 * n) 8) = v.toNat ∧
      ∀ k, ¬(fpa ≤ k ∧ k < fpa + 8) → ¬(fpa + 16 + 8 * n ≤ k ∧ k < fpa + 24 + 8 * n) → cellGet s1.mem k = cellGet s.mem k) ∧
  (∀ (s : State) (t : TileNo) (job ctx : Nat) (race : ErrRec → M Unit) (f v : Word) (fpa n : Nat),
    s.MemOk → readNat s fpa 8 = 4 * n → n ≤ 6 → badBytes s fpa 64 = 0 →
    ∃ s1 : State, leNat (cellsRead s1.mem fpa 8) = 4 * n + 1 ∧ leNat (cellsRead s1.mem (fpa + 8) 8) = v.toNat ∧ SameOutside fpa 16 s s1 ∧
      ∀ s2, Runs (resolveFuture t job ctx race f fpa v) s () s2 ↔
        Runs ((List.range n).forM fun j => do resolveWaiter t job ctx race f (← see fun s => readNat s (fpa + 16 + 8 * j) 8)) s1 () s2) ∧
  (∀ (s r : State) (t : TileNo) (job ctx : Nat) (race : ErrRec → M Unit) (f : Word) (va pa : Nat),
    va < 2 ^ 60 → va % 64 = 0 → hwXlate s job va true = some pa → recState s pa < 6 → badBytes s (pa + 16) 8 = 0 → hwTag t job va true s = some r →
    (let v := recDw s pa 2
     ∃ r1 : State, r1.mem = s.mem ∧
      (v % 2 ^ 32 = 0 → ∃ e : ErrRec, e.cause = Cause.joinOverflow.code ∧ Runs (resolveWaiter t job ctx race f va) s () (r1.addErr e)) ∧
      (v % 2 ^ 32 ≠ 0 →
        (let s1 := setRecDw pa 2 (v - 1) r1
         let last := v % 2 ^ 32 = 1 ∧ (recState s pa = 1 ∨ recState s pa = 4) ∧ r1.parkedByProgram job (BitVec.ofNat 64 va) = false
         (¬ last → Runs (resolveWaiter t job ctx race f va) s () s1) ∧
         (last → Runs (resolveWaiter t job ctx race f va) s () (if s1.cancelled (clOf t) job
           then retireHeld t job (BitVec.ofNat 64 va) pa 0x36 s1 else leafPush t job pa (BitVec.ofNat 64 va) s1))))))

/-- YIELD of a record whose page is there, whose access does not race and whose read delivers, with room at the thief's end of a deck or in the
overflow queue, saves its state as QUEUED, pushes it and leaves the dealer; END of a context whose chains hold nothing and of
which nothing is under way retires its record with CAUSE 0; in a cancelled job AWAIT, YIELD, END and GBAR, a GBAR that waits
among them, whose arrival goes back, abandon the chains and, once nothing of them is under way, retire the record with CANCELLED instead. CANCEL of the own job sets the flag of its
own cluster, completes where the flag then stands in all 48 tables, and else waits for the other clusters; of another job it takes PRIV. (R181,
R314, R319, R327, R335, R336.) -/
def Obligations.RecordsEnd : Prop :=
  ∀ (s s3 : State) (x : Ctx) (h : Hd) (a c : Src) (u v : Word),
    Ready s x → x.pred h.guard = true → Reads s x a u → Reads s x c v →
    (s.cancelled (clOf s.cur) x.job = true → ∀ (s1 : State) (y : Ctx), Runs (abandonAt s.cur s.mySlot) s () s1 →
      s1.ctx? s.cur s.mySlot = some y → drained s1 y = true →
      (let s2 := mergeAt s.cur [] s1
       Pays s x (ownWrites s.cur x s (retireCtx s.cur s.mySlot 0x36
         ((s2.setTile s.cur { s2.tile s.cur with dcache := [] }).charge s.cur s.mySlot 8 1))) s3) →
      (∀ i ∈ [Instr.yield h, .endRec h, .await h a c], exec i s = .next (finish s x 1 true { ctl := .leave } s3)) ∧
      (x.wait = none → exec (.gbar h a) s = .next (finish s x 1 true { ctl := .leave } s3))) ∧
    (∀ n gen w, s.cancelled (clOf s.cur) x.job = true → x.wait = some w → w.kind = .gbar n gen → (s.group n).gen = gen →
      ∀ (s1 : State) (y : Ctx), Runs (abandonAt s.cur s.mySlot) (s.setGroup { s.group n with arr := (s.group n).arr - 1 }) () s1 →
      s1.ctx? s.cur s.mySlot = some y → drained s1 y = true →
      (let s2 := mergeAt s.cur [] s1
       Pays s x (ownWrites s.cur x s (retireCtx s.cur s.mySlot 0x36
         ((s2.setTile s.cur { s2.tile s.cur with dcache := [] }).charge s.cur s.mySlot 8 1))) s3) →
      exec (.gbar h a) s = .next (finish s x 1 true { ctl := .leave } s3)) ∧
    (s.cancelled (clOf s.cur) x.job = false →
      (∀ pa r r1 s1 s2 s4, runningRec s x = some pa → Runs (ownTag s.cur x x.record true) s () r →
        Runs (eccTouch s.cur s.mySlot x x.record (pa + 16) 16)
          (r.setTile s.cur { r.tile s.cur with dcache := dropLine (r.tile s.cur).dcache (pa / 64 * 64) }) () r1 →
        Runs (suspendRec s.cur s.mySlot x pa 2) r1 () s1 →
        Runs (carry pa (releaseAt s.cur .dev s1).2) (releaseAt s.cur .dev s1).1 () s2 →
        thiefPush s.cur x.job (s2.timed x.job) (recPrio s2 pa) x.record s2 = some s4 → Pays s x (ownWrites s.cur x s s4) s3 →
        exec (.yield h) s = .next (finish s x 1 true { ctl := .leave } s3)) ∧
      ((∀ j : Fin 4, (x.chains.get j).queue = [] ∧ (x.chains.get j).state ≠ .faulted) → s.anyOutstanding x = false →
        (∀ j : Fin 4, (x.covs.get j).early = []) →
        (let s1 := mergeAt s.cur [] s
         Pays s x (ownWrites s.cur x s (retireCtx s.cur s.mySlot 0
           ((s1.setTile s.cur { s1.tile s.cur with dcache := [] }).charge s.cur s.mySlot 8 1))) s3 →
         exec (.endRec h) s = .next (finish s x 1 true { ctl := .leave } s3)))) ∧
    (u.toNat = x.job →
      (let s1 := setCancel x.job (clOf s.cur) s
       (s1.cancelledAll x.job = true → exec (.cancel h a) s = .next (finish s x 1 true {} s1)) ∧
       (s1.cancelledAll x.job = false → exec (.cancel h a) s = .next (waits s h 1 none (.cancel x.job) s1)))) ∧
    (u.toNat ≠ x.job → exec (.cancel h a) s = .next (preciseTrap s x .priv u))

/-- After a context is retired its slot is empty, and its number is not among the live ones of any job that is left with its job's
number. (R314, R335, R140.) -/
def Obligations.RetiredContext : Prop :=
  ∀ (s : State) (t : TileNo) (c : SlotNo) (x : Ctx) (cause : Nat),
    s.ctx? t c = some x → (retireCtx t c cause s).ctx? t c = none ∧
      ∀ j ∈ (retireCtx t c cause s).jobs, j.id = x.job → x.num ∉ j.live

/-- JOIN of a group below 4096 by a context that is in none, where the group is dissolved or of the same job and not full, makes
it a member; LEAVE of its own group ends that; GBAR of the last arrival releases the barrier and goes on as an acquire of
every arrival, an earlier arrival waits, and a waiting member goes on once GEN has moved; WFE with the event flag set clears
it and goes on, and else sleeps; SEV sets the event flag of the job's contexts on its target tile. (R328, R330, R337, R338,
R347.) -/
def Obligations.GroupInstructions : Prop :=
  ∀ (s : State) (x : Ctx) (h : Hd) (a : Src) (u : Word),
    Ready s x → x.pred h.guard = true → Reads s x a u →
    (let g := s.group u.toNat
     (u.toNat < 4096 → x.grp = none → g.memb ≠ 65535 → (g.memb = 0 ∨ g.job = x.job) → exec (.join h a) s =
       .next (finish s x 1 true {} ((s.setGroup { g with job := x.job, memb := g.memb + 1 }).upMe fun y =>
         { y with grp := some u.toNat }))) ∧
     (u.toNat < 4096 → x.grp = some u.toNat →
       exec (.leave h a) s = .next (finish s x 1 true {} ((leaveGroup u.toNat s).upMe fun y => { y with grp := none })) ∧
       (x.wait = none → s.cancelled (clOf s.cur) x.job = false →
         (let r := releaseAt s.cur .dev s
          let g' := { g with arr := g.arr + 1, stamps := r.2.toList ++ g.stamps }
          (g.arr + 1 = g.memb →
            (let s1 := mergeAt s.cur g'.stamps (r.1.setGroup (releaseBarrier g'))
             exec (.gbar h a) s = .next (finish s x 1 true {} (s1.setTile s.cur { s1.tile s.cur with dcache := [] })))) ∧
          (g.arr + 1 ≠ g.memb → exec (.gbar h a) s = .next (waits s h 1 none (.gbar u.toNat g.gen) (r.1.setGroup g')))))) ∧
     (∀ n gen w, x.wait = some w → w.kind = .gbar n gen → (s.group n).gen ≠ gen →
       (let s1 := mergeAt s.cur (s.group n).past s
        exec (.gbar h a) s = .next (finish s x 1 true {} (s1.setTile s.cur { s1.tile s.cur with dcache := [] })))) ∧
     (¬(u.toNat < 4096) ∨ x.grp ≠ some u.toNat → exec (.leave h a) s = .next (preciseTrap s x .groupLimit u))) ∧
    (x.event = true →
      (let s1 := mergeAt s.cur x.evStamps s
       exec (.wfe h) s = .next (finish s x 1 true {}
         ((s1.setTile s.cur { s1.tile s.cur with dcache := [] }).upMe fun y => { y with event := false, evStamps := [] })))) ∧
    (x.event = false → exec (.wfe h) s = .next (waits s h 1 none .wfe s)) ∧
    (∀ hu : u.toNat < 384, ∃ s1 : State, exec (.sev h a) s = .next (finish s x 1 true {} s1) ∧ s1.mem = s.mem ∧
      ∀ (c : SlotNo) (y : Ctx), s.ctx? ⟨u.toNat, hu⟩ c = some y → ∃ z, s1.ctx? ⟨u.toNat, hu⟩ c = some z ∧
        z.event = (y.event || y.job == x.job) ∧ z = { y with event := z.event, evStamps := z.evStamps }) ∧
    (384 ≤ u.toNat → exec (.sev h a) s = .next (preciseTrap s x .reservedField u))

/-- QBIND of well-formed words binds the tile's endpoint, unless a resident context has it bound or the peer cannot be reached, or
an inbound entry of the own job with an arrival class that is not bound; QUNBIND of a binding the context holds and no block
uses removes it, and of one it does not hold does nothing; QDEPTH gives the depth word; TINV of a page-aligned range drops the
job's translations everywhere and completes as an acquire where no pin stands on the range. (R394, R411, R412, R413, R414,
R415.) -/
def Obligations.BindingInstructions : Prop :=
  ∀ (s : State) (x : Ctx) (h : Hd) (d : Dst) (a c : Src) (u v : Word),
    Ready s x → x.pred h.guard = true → Reads s x a u → Reads s x c v →
    (∀ b, bindWord u.toNat v.toNat = some b →
      (b.kind = 2 → (s.inw b.inb).v = true → (s.inw b.inb).job = x.job → (s.inw b.inb).bound = false →
        ((s.inw b.inb).arrk = 1 ∧ (x.sem b.sem).phaseMode = true ∨ (s.inw b.inb).arrk = 2 ∧ (x.sem b.sem).phaseMode = false) →
        exec (.qbind h a c) s = .next (finish s x 1 true {}
          (s.setInw b.inb { s.inw b.inb with bound := true, btile := s.cur, bsem := b.sem, bctx := x.num }))) ∧
      (b.kind ≠ 2 → boundHere s s.cur b.ep = false → (b.remote = false ∨ s.routed b.dev = true) →
        exec (.qbind h a c) s = .next (finish s x 1 true {} (bindEp s.cur b.ep
          { job := x.job, num := x.num, consumer := b.kind == 1, tile := b.tile, ep := b.rep,
            dev := if b.remote && b.dev != s.domain then some b.dev else none } (unbindEp s.cur b.ep s)))) ∧
      (b.kind ≠ 2 → boundHere s s.cur b.ep = true → exec (.qbind h a c) s = .next (preciseTrap s x .queueRebind u))) ∧
    (bindWord u.toNat v.toNat = none → exec (.qbind h a c) s = .next (preciseTrap s x .reservedField u)) ∧
    (∀ b, bindWord u.toNat 0 = some b →
      (holdsBinding s s.cur x b = false → exec (.qunbind h a) s = .next (finish s x 1 true {} s)) ∧
      (holdsBinding s s.cur x b = true → namesEp x b = false →
        exec (.qunbind h a) s = .next (finish s x 1 true {} (unbind s.cur b s))) ∧
      (holdsBinding s s.cur x b = true → namesEp x b = true → exec (.qunbind h a) s = .next (waits s h 1 none (.qunbind u) s))) ∧
    (∀ e : Fin 8, u.toNat = e.val →
      exec (.qdepth h d a) s = .next (finish s x 1 true { val := some (BitVec.ofNat 64 (depthWord s s.cur e x)) }
        (s.upMe (·.setDst d (BitVec.ofNat 64 (depthWord s s.cur e x)))))) ∧
    (u.toNat < 2 ^ 60 → u.toNat % 65536 = 0 → v.toNat % 65536 = 0 → (v ≠ 0 ∨ u = 0) →
      (let s1 := tlbInvalidate x.job u.toNat v.toNat (releaseAt s.cur .dev s).1
       let s2 := mergeAt s.cur [] s1
       (pinsOver s1 x.job u.toNat v.toNat = [] →
         exec (.tinv h a c) s = .next (finish s x 1 true {} (s2.setTile s.cur { s2.tile s.cur with dcache := [] }))) ∧
       (pinsOver s1 x.job u.toNat v.toNat ≠ [] →
         exec (.tinv h a c) s = .next (waits s h 1 none (.tinv (pinsOver s1 x.job u.toNat v.toNat)) s1))))

/-- ENQ of a device-side queue of the own job with room copies the 64 bytes of its packet to the entry of TAIL and advances TAIL by one
modulo 2^32; every other byte of memory, but for the grid word whose OUT a LAUNCH or INVOKE raises, stays; on a full queue it waits, and ENQ_QUEUE_ROOM completes it once there is room and its context has the dealer; in a cancelled job it
queues nothing; a queue that is closed to the job takes PRIV, and a number above 255 RESERVED_FIELD. (R317, R327, R332, R433.) -/
def Obligations.QueuedPackets : Prop :=
  ∀ (s s1 s2 s3 : State) (x : Ctx) (h : Hd) (a c : Src) (u v : Word) (pa : Nat),
    Ready s x → x.pred h.guard = true → Reads s x a u → Reads s x c v →
    (∀ hq : v.toNat < 256, Runs (enqPlace s.cur x u) s pa s1 →
      (openTo (s1.queue ⟨v.toNat, hq⟩) x.job = false →
        settleStep s s.cur s.mySlot none x.job (applySide s.cur s.mySlot ⟨0, [], s1.free, s1.reqs⟩ s) = some s2 →
        exec (.enq h a c) s = .next (enterTrap s.cur s.mySlot .d .priv x.pc u [] s2)) ∧
      (openTo (s1.queue ⟨v.toNat, hq⟩) x.job = true →
        (let r := (releaseAt s.cur .dev s1).1
         (r.cancelled (clOf s.cur) x.job = true → Pays s x r s2 → exec (.enq h a c) s = .next (finish s x 1 true {} s2)) ∧
         (r.cancelled (clOf s.cur) x.job = false → queueFull (r.queue ⟨v.toNat, hq⟩) = true →
           settleStep s s.cur s.mySlot none x.job r = some s2 →
           exec (.enq h a c) s = .next (waits s h 1 none (.enq (BitVec.ofNat 64 pa) v) s2)) ∧
         (r.cancelled (clOf s.cur) x.job = false → queueFull (r.queue ⟨v.toNat, hq⟩) = false →
           ∀ bs, Runs (enqFetch s.cur s.mySlot x u pa) r bs s2 →
           Pays s x (ownLines s.cur x s (enqueue s.cur x ⟨v.toNat, hq⟩ bs s2)) s3 →
           exec (.enq h a c) s = .next (finish s x 1 true {} s3) ∧
           (let k := s2.queue ⟨v.toNat, hq⟩
            let s4 := (writeVia (queueAt s2 k · true) (k.entry k.tail) bs s2).getD s2
            let grid := ((runningRec s4 x).map (recParent s4)).getD 0
            let t := finish s x 1 true {} s3
            (t.queue ⟨v.toNat, hq⟩).tail = (k.tail + 1) % 4294967296 ∧
            (s.MemOk → ∀ p, (∀ j, j < 64 → queueAt s2 k (k.entry k.tail + j) true = some (p + j)) →
              (startsGrid bs = false → cellsRead t.mem p 64 = bs ∧ SameOutside p 64 s t) ∧
              ∀ j, ¬(p ≤ j ∧ j < p + 64) → (∀ w, hwXlate s4 x.job grid true = some w → ¬(w ≤ j ∧ j < w + 8)) →
                cellGet t.mem j = cellGet s.mem j)))))) ∧
    (256 ≤ v.toNat → exec (.enq h a c) s = .next (preciseTrap s x .reservedField u)) ∧
    (∀ (t : TileNo) (k : SlotNo) (y : Ctx) (w : Wait) (q : Word) (hq : q.toNat < 256) (b : Word) (bs : List Byte) (s4 s5 : State),
      s.ctx? t k = some y → y.wait = some w → (s.tile t).cur = k → w.kind = .enq b q → s.cancelled (clOf t) y.job = false →
      queueFull (s.queue ⟨q.toNat, hq⟩) = false → Runs (enqFetch t k y y.pc b.toNat) s bs s4 →
      settleStep s t k none y.job (ownLines t y s (enqueue t y ⟨q.toNat, hq⟩ bs s4)) = some s5 →
      exec (.enqQueueRoom t k) s = .next (wake t k w {} s5))

/-- AXIS of an accepted word sets the axis declaration, QSW of a word below 2^16 sets a scale register and QSR reads one; on an
idle bank RESI of an aligned, well-formed record of 48 doublewords loads it, RESX stores the bank's record, RESR reads the
selected word and RESCLR resets it; on a busy bank the four wait, and BANK_IDLE_ACTION makes their action and completes them
once the bank is idle and their context has the dealer. (R274, R282, R288, R291, R292, R293, R294, R295, R296.) -/
def Obligations.ShapingInstructions : Prop :=
  ∀ (s s1 s2 : State) (x : Ctx) (h : Hd) (d : Dst) (n : Fin 4) (q : Fin 8) (a c : Src) (u v : Word),
    Ready s x → x.pred h.guard = true → Reads s x a u → Reads s x c v →
    (u.toNat / 512 = 0 → u.toNat % 16 ≤ 13 → (u.getLsbD 8 = true ∨ u.toNat % 256 = 0) → exec (.axis h n a) s =
      .next (finish s x 1 true {} (s.upMe fun y => { y with axis :=
        { en := u.getLsbD 8, dim := u.toNat % 16, bsq := u.getLsbD 4, qsel := ⟨u.toNat / 32 % 8, Nat.mod_lt _ (by decide)⟩, bank := n } }))) ∧
    (u.toNat < 65536 → exec (.qsw h q a) s = .next (finish s x 1 true {} (s.upMe fun y => { y with qs := y.qs.set q (u.setWidth 16) }))) ∧
    exec (.qsr h d q) s =
      .next (finish s x 1 true { val := some ((x.qs.get q).setWidth 64) } (s.upMe (·.setDst d ((x.qs.get q).setWidth 64)))) ∧
    (x.bankIdle n = true →
      (∀ ds, u.toNat % 64 = 0 → Runs (loadDws s.cur s.mySlot x u 48) s ds s1 → bankRecOk (ds.map (·.toNat)) = true →
        Pays s x (s1.modCtx s.cur s.mySlot fun y => { y with banks := y.banks.set n (bankOf (ds.map (·.toNat))) }) s2 →
        exec (.resi h n a) s = .next (finish s x 1 true {} s2)) ∧
      (u.toNat % 64 = 0 → Runs (storeDws s.cur s.mySlot x u (bankRecord (x.banks.get n))) s () s1 → Pays s x s1 s2 →
        exec (.resx h n a) s = .next (finish s x 1 true {} s2)) ∧
      (v.toNat < 2 ∨ (64 ≤ v.toNat ∧ v.toNat < 128) → exec (.resr h d n c) s =
        .next (finish s x 1 true { val := some (BitVec.ofNat 64 ((x.banks.get n).select v.toNat)) }
          (s.upMe (·.setDst d (BitVec.ofNat 64 ((x.banks.get n).select v.toNat)))))) ∧
      exec (.resclr h n) s = .next (finish s x 1 true {} (s.upMe fun y => { y with banks := y.banks.set n {} }))) ∧
    (x.bankIdle n = false →
      exec (.resclr h n) s = .next (waits s h 1 none (.bank 3 n 0) s) ∧
      (u.toNat % 64 = 0 → exec (.resi h n a) s = .next (waits s h 1 none (.bank 0 n u) s) ∧
        exec (.resx h n a) s = .next (waits s h 1 none (.bank 1 n u) s)) ∧
      (v.toNat < 2 ∨ (64 ≤ v.toNat ∧ v.toNat < 128) → exec (.resr h d n c) s = .next (waits s h 1 (some d) (.bank 2 n v) s))) ∧
    (∀ (t : TileNo) (k : SlotNo) (y : Ctx) (w : Wait) (op m : Fin 4) (b : Word) (e : Eff) (s3 s4 : State), s.ctx? t k = some y →
      y.wait = some w → (s.tile t).cur = k → w.kind = .bank op m b → y.bankIdle m = true → Runs (bankAct t k op m b) s e s3 →
      (let s5 := match w.dst, e.val with
        | some d, some v => s3.modCtx t k (·.setDst d v)
        | _, _ => s3
       settleStep s t k none y.job s5 = some s4 → exec (.bankIdleAction t k) s =
         .next (complete t k w.len true (y.stepping && !y.active) e s4))) ∧
    (∀ (t : TileNo) (k : SlotNo) (y : Ctx) (w : Wait) (m : Fin 4), s.ctx? t k = some y → y.wait = some w →
      (s.tile t).cur = k → s.Unmetered → w.kind = .bank 3 m 0 → w.dst = none → y.bankIdle m = true → exec (.bankIdleAction t k) s =
        .next (complete t k w.len true (y.stepping && !y.active) {} (s.modCtx t k fun z => { z with banks := z.banks.set m {} })))

/-- On an idle controller COVSET of an aligned, accepted record sets the controller from it, with no ticket, sample or update; on
a busy one it waits, and COVSET_IDLE_ACTION sets it and completes it once the controller is idle and its context has the
dealer. COVGET and COVSTAT read the word their selector names. COVERAGE_CONTRIBUTION applies the contribution of the ticket
that is next. (R297, R303, R306, R308, R309.) -/
def Obligations.CoverageInstructions : Prop :=
  ∀ (s s1 s2 : State) (x : Ctx) (h : Hd) (d : Dst) (n : Fin 4) (a c : Src) (u v : Word),
    Ready s x → x.pred h.guard = true → Reads s x a u → Reads s x c v →
    (∀ d0 d1 : Word, u.toNat % 16 = 0 → x.covIdle n = true → Runs (loadDws s.cur s.mySlot x u 2) s [d0, d1] s1 →
      covOk d0.toNat d1.toNat = true →
      Pays s x (s1.modCtx s.cur s.mySlot fun y => { y with covs := y.covs.set n (covFrom d0.toNat d1.toNat) }) s2 →
      exec (.covset h n a) s = .next (finish s x 1 true {} s2) ∧
      (covFrom d0.toNat d1.toNat).frac = d0.toNat % 8 ∧ (covFrom d0.toNat d1.toNat).period = d1.toNat / 4294967296 % 65536 ∧
      (covFrom d0.toNat d1.toNat).tkt = 0 ∧ (covFrom d0.toNat d1.toNat).ns = 0 ∧ (covFrom d0.toNat d1.toNat).upd = 0) ∧
    (u.toNat % 16 = 0 → x.covIdle n = false → exec (.covset h n a) s = .next (waits s h 1 none (.covset n u) s)) ∧
    (u.toNat % 16 ≠ 0 → exec (.covset h n a) s = .next (preciseTrap s x .misalignedData u)) ∧
    (v.toNat ≤ 2 →
      exec (.covget h d n c) s = .next (finish s x 1 true { val := some (BitVec.ofNat 64 ((x.covs.get n).get v.toNat)) }
        (s.upMe (·.setDst d (BitVec.ofNat 64 ((x.covs.get n).get v.toNat))))) ∧
      exec (.covstat h d n c) s = .next (finish s x 1 true { val := some (BitVec.ofNat 64 ((x.covs.get n).stat v.toNat)) }
        (s.upMe (·.setDst d (BitVec.ofNat 64 ((x.covs.get n).stat v.toNat)))))) ∧
    (∀ (t : TileNo) (k : SlotNo) (y : Ctx) (w : Wait) (m : Fin 4) (b : Word) (s3 : State), s.ctx? t k = some y → y.wait = some w →
      (s.tile t).cur = k → w.kind = .covset m b → w.dst = none → y.covIdle m = true → Runs (covsetAct t k m b) s () s3 →
      settleStep s t k none y.job s3 = some s2 →
      exec (.covsetIdleAction t k) s = .next (complete t k w.len true (y.stepping && !y.active) {} s2)) ∧
    (∀ (t : TileNo) (k : SlotNo) (y : Ctx) (m : Fin 4) (e : Nat × Nat × Nat), s.ctx? t k = some y →
      (y.covs.get m).early.find? (·.1 == (y.covs.get m).appl) = some e →
      (let q : Cov := (y.covs.get m).apply e.2.1 e.2.2
       let q2 : Cov := { q with early := (y.covs.get m).early.filter (·.1 != e.1) }
       exec (.coverageContribution t k m) s = .next (s.modCtx t k fun z => { z with covs := z.covs.set m q2 }).settled))

/-- LINK of a block that passes the checks of R176 completes; its commitment appends the block to its chain with the chain's next
number, which moves on by one modulo 2^32, and leaves the other chains. LINK of 64 readable zero bytes of chain memory, the
image of a NOP without tokens, passes. A misaligned block address, one of another space, and a full chain take
MISALIGNED_DATA, ADDRESS_SPACE and CHAIN_FULL with the block address as EVAL. (R54, R62, R160, R171, R176, R177, R178.) -/
def Obligations.LinkCommits : Prop :=
  (∀ (s s1 s2 : State) (x : Ctx) (h : Hd) (ch : Fin 4) (a : Src) (u : Word),
    Ready s x → x.pred h.guard = true → Reads s x a u →
    (let k : Linking := { t := s.cur, c := s.mySlot, x := x, ch := ch, ga := u }
     let fails (c : Cause) : Prop := exec (.link h ch a) s =
       .next (enterTrap s.cur s.mySlot .l c x.pc u [] (applySide s.cur s.mySlot ⟨0, [], s.free, s.reqs⟩ s))
     (Runs (linkAt k) s () s1 → Pays s x s1 s2 → exec (.link h ch a) s = .next (finish s x 1 true {} s2)) ∧
     ((spaceOf u = 0 ∨ spaceOf u = 8) → offOf u < 16777216 → offOf u % 64 ≠ 0 → fails .misalignedData) ∧
     (spaceOf u ≠ 0 → spaceOf u ≠ 8 → fails .addressSpace) ∧
     ((spaceOf u = 0 ∨ spaceOf u = 8) → offOf u < 16777216 → offOf u % 64 = 0 → k.inChain s (offOf u) 64 = true →
       badBytes s (spAt s.cur (offOf u)) 64 = 0 → readNat s (spAt s.cur (offOf u)) 64 = 0 →
       ((x.chains.get ch).queue.length = 64 → fails .chainFull) ∧
       ((x.chains.get ch).queue.length < 64 → (∀ m : SemNo, (x.sems.get m).bind = none) →
         ∃ (s3 : State) (y : Ctx) (e : Entry), exec (.link h ch a) s = .next (finish s x 1 true {} s3) ∧
           s3.ctx? s.cur s.mySlot = some y ∧ s3.mem = s.mem ∧
           y.chains.get ch = { x.chains.get ch with
             seq := ((x.chains.get ch).seq + 1) % 4294967296, queue := (x.chains.get ch).queue ++ [e] } ∧
           e.seq = (x.chains.get ch).seq ∧ e.linked.body = .nop ∧ e.cur = e.linked ∧ e.run = {} ∧
           (∀ j : Fin 4, j ≠ ch → y.chains.get j = x.chains.get j) ∧ y.sems = x.sems ∧ y.regs = x.regs)))) ∧
  (∀ (s : State) (k : Linking) (b : Blk) (cap : Cap) (env : Env) (ps : List Page) (pins : List Pin),
    s.ctx? k.t k.c = some k.x →
    ∃ (s1 : State) (y : Ctx) (e : Entry), Runs (k.commit b cap env ps pins) s () s1 ∧ s1.ctx? k.t k.c = some y ∧
      (y.chains.get k.ch).queue = (k.x.chains.get k.ch).queue ++ [e] ∧ e.seq = (k.x.chains.get k.ch).seq ∧ e.linked = b ∧
      e.slots = env.slots ∧ e.tiles = env.tiles ∧ (y.chains.get k.ch).seq = ((k.x.chains.get k.ch).seq + 1) % 4294967296 ∧
      (y.chains.get k.ch).state = (k.x.chains.get k.ch).state ∧ (∀ j : Fin 4, j ≠ k.ch → y.chains.get j = k.x.chains.get j) ∧
      y.regs = k.x.regs ∧ y.preds = k.x.preds ∧ s1.mem = s.mem)

/-- Where nothing is pending at the end of a group, an integer, bit-field, immediate or predicate-reading instruction completes
with every general register but its destination as before, every predicate, loop bound and every other part of the context
(status, CSRs, modulo registers, semaphores, tensors, chains, trap registers) as before; a compare, PAND, POR, PXOR, PANDN,
PNOT or PPUT changes no general register. Neither changes a byte of memory, anything of another context but the mark of a
descheduled queue (R426), or anything of a tile but its resident contexts; besides them only the energy counts of the queues
may move (R424). (R40, R41, R42, R95, R110, R112, R113, R114, R116, R424.) -/
def Obligations.RegisterFrames : Prop :=
  ∀ (s : State) (x : Ctx) (h : Hd) (d : Dst) (e : Fin 48) (a c : Src) (u v : Word) (i : BitVec 9) (j : BitVec 6) (k : BitVec 32)
      (g p q r : Fin 8) (ct : CmpMode),
    Ready s x → x.quiet = true → x.pred h.guard = true → Reads s x a u → Reads s x c v →
    (let framed (t : State) (y : Ctx) : Prop :=
       t.ctx? s.cur s.mySlot = some y ∧ y.core = x.core ∧ SameBounds x y ∧ t.mem = s.mem ∧
       (∀ n : TileNo, { t.tile n with slots := (s.tile n).slots } = s.tile n) ∧
       (∀ (n : TileNo) (b : SlotNo) (z : Ctx), (n, b) ≠ (s.cur, s.mySlot) → s.ctx? n b = some z →
         ∃ z' : Ctx, t.ctx? n b = some z' ∧ { z' with desched := z.desched } = z) ∧
       t = { s with tiles := t.tiles, queues := t.queues }
     (∀ m ∈ [
       (Instr.add h d a c, d), (.sub h d a c, d), (.addw h d a c, d), (.subw h d a c, d), (.and h d a c, d), (.or h d a c, d),
       (.xor h d a c, d), (.andn h d a c, d), (.orn h d a c, d), (.xnor h d a c, d), (.sll h d a c, d), (.srl h d a c, d),
       (.sra h d a c, d), (.rol h d a c, d), (.ror h d a c, d), (.sllw h d a c, d), (.srlw h d a c, d), (.sraw h d a c, d),
       (.mul h d a c, d), (.mulh h d a c, d), (.mulhu h d a c, d), (.mulhsu h d a c, d), (.div h d a c, d), (.divu h d a c, d),
       (.rem h d a c, d), (.remu h d a c, d), (.min h d a c, d), (.max h d a c, d), (.minu h d a c, d), (.maxu h d a c, d),
       (.abs h d a, d), (.clz h d a, d), (.ctz h d a, d), (.popc h d a, d), (.rev8 h d a, d), (.bfxu h d a c, d), (.bfxs h d a c, d),
       (.sh1add h d a c, d), (.sh2add h d a c, d), (.sh3add h d a c, d), (.sh4add h d a c, d), (.sh6add h d a c, d),
       (.sh8add h d a c, d), (.sh13add h d a c, d), (.addi h d a i, d), (.andi h d a i, d), (.ori h d a i, d), (.slli h d a j, d),
       (.srli h d a j, d), (.srai h d a j, d), (.rori h d a j, d), (.xori h d a j, d), (.li h d k, d), (.liu h d k, d), (.pget h d, d),
       (.movnz h e a c, some e), (.movz h e a c, some e), (.bfi h e a c, some e), (.lih h e k, some e), (.addl h e k, some e)],
       ∃ t y, exec m.1 s = .next t ∧ framed t y ∧ y.preds = x.preds ∧ ∀ n : Fin 48, m.2 ≠ some n → y.regs.get n = x.regs.get n) ∧
     (∀ m ∈ [
       Instr.cmpeq g ct p q a c, .cmpne g ct p q a c, .cmplt g ct p q a c, .cmpge g ct p q a c, .cmpltu g ct p q a c,
       .cmpgeu g ct p q a c, .cmpts g ct p q a c, .cmptc g ct p q a c, .cmpeqi g ct p q a j, .cmpnei g ct p q a j,
       .cmplti g ct p q a j, .cmpgei g ct p q a j, .cmpltui g ct p q a j, .cmpgeui g ct p q a j, .cmptsi g ct p q a j,
       .cmptci g ct p q a j, .pand h p q r, .por h p q r, .pxor h p q r, .pandn h p q r, .pnot h p q, .pput h a c],
       ∃ t y, exec m s = .next t ∧ framed t y ∧ y.regs = x.regs))

/-- After reset no context is resident, every store and pool reads zero, no queue is enabled or halted, no chunk is granted, no
lock is held, the error ring and FRAME are empty and 0, every matrix array is COLD, the module is not READY, and the memory
has its canonical form. That HBM4 reads zero is the model's choice (log 3). (R101, R213, R449, R450.) -/
def Obligations.ResetState : Prop :=
  State.reset.MemOk ∧ State.reset.mem = [] ∧ (∀ k, cellGet State.reset.mem k = 0) ∧ State.reset.ready = false ∧ State.reset.tripped = false ∧
  State.reset.frame = 0 ∧ State.reset.errRing = [] ∧ State.reset.errCount = 0 ∧ State.reset.lostRec = 0 ∧ State.reset.jobs = [] ∧
  State.reset.saved = [] ∧ State.reset.msgs = [] ∧
  (∀ (t : TileNo) (c : SlotNo), State.reset.ctx? t c = none) ∧
  (∀ t : TileNo, (State.reset.tile t).mx.state = .cold ∧ (State.reset.tile t).padJob = none ∧
    (∀ k : Fin 384, ((State.reset.tile t).slotTags.get k).valid = false) ∧
    (∀ k : Fin 192, ((State.reset.tile t).accTags.get k).written = false)) ∧
  (∀ (c : Fin 48) (k : Fin 32), (State.reset.clusters.get c).grants.get k = none) ∧
  (∀ (d : Fin 8) (k : Fin 128), (State.reset.dies.get d).grants.get k = none) ∧
  (∀ q : Fin 256, (State.reset.queue q).en = false ∧ (State.reset.queue q).halt = false ∧ (State.reset.queue q).head = 0 ∧
    (State.reset.queue q).tail = 0 ∧ (State.reset.queue q).malcnt = 0) ∧
  (∀ l : Fin 16, (State.reset.hsems.get l).owner = 0)

/-- In every state whose memory lists its cells in rising order without cells that read as unlisted, a step that answers a next
state leaves memory in that form, whichever agent takes the step; so two equal memories are equal data. The form is the
model's own (log 3). (R1, R2.) -/
def Obligations.MemoryStaysCanonical : Prop :=
  ∀ s t : State, s.MemOk → step s = .next t → t.MemOk

/-- Where every byte can be read and the tenants can pay, and no message of the chain waits or lies behind: a LOAD iteration to
scratchpad from a tensor of any format but F4B8 copies the element unchanged; a STORE iteration from scratchpad to such a
tensor, without shaping or combining, does the same the other way; a VECTOR iteration of an elementwise operator between
scratchpad ports writes the operator's result at the element of w; a MATRIX K-step whose tags, pairing, directions and
accumulator format agree writes its accumulator tile and no other byte, tags it, and without SAT an integer one with
untransposed operands adds (or subtracts, or starts from 0) the sums of products modulo 2^32. Each completes, advances the
block by one iteration, and leaves every byte outside what it writes. (R186, R188, R189, R201, R202, R205, R208, R209, R239,
R243, R247, R250.) -/
def Obligations.EngineIterations : Prop :=
  ∀ (s : State) (t : TileNo) (c : SlotNo) (x : Ctx) (e : Entry), s.MemOk → s.Readable → s.Solvent t → e.run.cov = none → e.run.out = none →
    (∀ (b : CopyBody) (k n : Nat), RunsBlock s t c 0 x e → e.cur.body = .load b → b.lkind = 0 → b.cnten = false →
      titFmt (x.titNo b.tid) ≠ 8 → n = fmtBytes (titFmt (x.titNo b.tid)) → s.parkedOf x 0 = none → chainBehind s x 0 k n = false →
      enginePlace s t e.cap (addOff (e.cap.tensOf b.tid).base (elemAt (x.titNo b.tid) b e.index * n)) = .at k false →
      ∃ s', exec (.loadIteration t c) s = .next s' ∧ Advanced s' t c 0 e.seq (e.run.iter + 1) ∧
        SameOutside (spAt t (localOff b e.index)) n s s' ∧
        cellsRead s'.mem (spAt t (localOff b e.index)) n = cellsRead s.mem k n) ∧
    (∀ (b : CopyBody) (k n : Nat), RunsBlock s t c 1 x e → e.cur.body = .store b → b.lkind = 0 → b.cnten = false → b.shape = false →
      b.combine = false → s.parkedOf x 1 = none → chainBehind s x 1 k n = false →
      chainBehind s x 1 (spAt t (localOff b e.index)) n = false →
      titFmt (x.titNo b.tid) ≠ 8 → n = fmtBytes (titFmt (x.titNo b.tid)) →
      enginePlace s t e.cap (addOff (e.cap.tensOf b.tid).base (elemAt (x.titNo b.tid) b e.index * n)) = .at k false →
      ∃ s', exec (.storeIteration t c) s = .next s' ∧ Advanced s' t c 1 e.seq (e.run.iter + 1) ∧ SameOutside k n s s' ∧
        cellsRead s'.mem k n = cellsRead s.mem (spAt t (localOff b e.index)) n) ∧
    (∀ b : VecBody, RunsBlock s t c 3 x e → e.cur.body = .vector b → 1 ≤ b.op → b.op ≤ 0x34 → (vgroup b.op).isSome = true → b.msrc = 0 →
      b.ragged = false → b.x.kind = 1 → b.y.kind = 1 → b.z.kind = 1 → b.w.kind = 1 → e.run.qw = [] → e.run.gridded = false →
      s.parkedOf x 3 = none →
      (let at' (p : VPort) : Nat := spAt t (p.base + portElem p e.index * fmtBytes p.type)
       let rd (p : VPort) : Nat := leNat (cellsRead s.mem (at' p) (fmtBytes p.type))
       let r := opDeliver e.cap.fp b (rd b.x) (if (opInputs b).contains 1 then rd b.y else 0) (if (opInputs b).contains 2 then rd b.z else 0)
       ∃ s', exec (.vectorIteration t c) s = .next s' ∧ Advanced s' t c 3 e.seq (e.run.iter + 1) ∧
         SameOutside (at' b.w) (fmtBytes b.w.type) s s' ∧
         cellsRead s'.mem (at' b.w) (fmtBytes b.w.type) = natLe (fmtBytes b.w.type) r.1)) ∧
    (∀ (m : MatBody) (fa fb K : Nat), RunsBlock s t c 2 x e → e.cur.body = .matrix m → e.cap.fmtA = some fa → e.cap.fmtB = some fb →
      (let T := matTile m e.index
       let sa := (matSlot m.a e.index (mixedPair (some fa) (some fb))).1
       let sb := (matSlot m.b e.index false).1
       let ga := slotTag (s.tile t) sa
       let gb := slotTag (s.tile t) sb
       let want : Nat := if 4 ≤ m.op then 7 else 0
       let old (r q : Nat) : Nat :=
         if m.op % 4 = 1 ∧ T ∉ e.run.visited then 0 else leNat (cellsRead s.mem (accAt t T (4 * (64 * r + q))) 4)
       let el (u r k : Nat) : Int := (cellGet s.mem (handAt t u (128 * r + k))).toInt
       ga.valid = true → ga.tid.toNat = m.a.tid → ga.format.toNat = fa → gb.valid = true → gb.tid.toNat = m.b.tid →
       gb.format.toNat = fb → pairK m.op fa fb = some K → dirOk m.a.dir fa = true → dirOk m.b.dir fb = true → e.cap.nbv = false →
       T < 192 → ((accTag (s.tile t) T).written = false ∨ (accTag (s.tile t) T).format.toNat = want) →
       ∃ s', exec (if 4 ≤ m.op then .matrixIntKStep t c else .matrixFloatKStep t c) s = .next s' ∧
         Advanced s' t c 2 e.seq (e.run.iter + 1) ∧ SameOutside (accAt t T 0) 16384 s s' ∧
         accTag (s'.tile t) T = { format := BitVec.ofNat 4 want, written := true } ∧
         (4 ≤ m.op → m.sat = false → m.a.dir = 0 → m.b.dir = 0 → ∀ r q, r < 64 → q < 64 →
           (let sum := ((List.range 128).map fun k => el sa r k * el sb q k).sum
            leNat (cellsRead s'.mem (accAt t T (4 * (64 * r + q))) 4) =
              (((old r q : Int) + (if m.op % 4 = 2 then -sum else sum)) % 4294967296).toNat))))

/-- The first block not started of a running chain, whose waits are granted, starts with its tokens taken and with its fraction,
captured or waited for (taking the tokens and the fraction in one step is the model's choice, log 49). Where a block's posts are plain and within their ceilings: NOP and END apply them and retire, END
stopping its chain; MARK does so once its future is resolved, and as a rendezvous it holds its chain; PATCH, at once or after
a hold, writes an admitted word from readable bytes into the queued copy of its target and retires; a walked block of which
nothing is owed or under way retires. A PATCH_RANGE goes back to the program under ABORT, and under CLAMP a bound is clamped
and the chain goes on. A stalled block looks again when its queue can move; the oldest entry in flight arrives at its local
endpoint, and a credit at its producer; the oldest held post is applied once it fits. (R162, R166, R168, R169, R170, R182,
R192, R219, R264, R270, R304, R410.) -/
def Obligations.BlockSteps : Prop :=
  (∀ (s : State) (t : TileNo) (c : SlotNo) (ch : ChainNo) (x : Ctx) (e : Entry), s.ctx? t c = some x → x.stops = false →
    readyOf x ch = some e → x.entry? ch e.seq = some e →
    ∃ s' y, exec (if e.pending then .coverageFractionWait t c ch else .blockWaitGrant t c ch) s = .next s' ∧ s'.ctx? t c = some y ∧
      s'.mem = s.mem ∧ y.sems = (takeWaits e x).sems ∧ y.regs = x.regs ∧ ∃ z, y.entry? ch e.seq = some z ∧ z.run.started = true ∧ z.cur = e.cur ∧
        z.run.cov = e.covSel.map fun k => { k with frac := k.fraction (x.covs.get k.cov) }) ∧
  (∀ (s : State) (t : TileNo) (c : SlotNo) (ch : ChainNo) (x : Ctx) (e : Entry), Acts s t c ch x e →
    (e.run.ended = false → e.cap.pred = true →
      (e.cur.body = .nop → ∃ s' y, exec (.nopBlock t c ch) s = .next s' ∧ s'.ctx? t c = some y ∧ s'.mem = s.mem ∧ Posted x ch e y) ∧
      (e.cur.body = .endB → ∃ s' y, exec (.endBlock t c ch) s = .next s' ∧ s'.ctx? t c = some y ∧ s'.mem = s.mem ∧ Posted x ch e y ∧
        (y.chain ch).state = .stopped) ∧
      (∀ (f v : Word) (s1 s2 : State), e.cur.body = .resolve f v → Runs (engineResolve t x e.cap f v .iteration) s () s1 →
        s1.ctx? t c = some x →
        settleStep s t c (some (ch, e.seq)) x.job (s1.modCtx t c (·.modRun ch e.seq fun p => { p with ended := true, stalled := false })) = some s2 →
        ∃ s' y, exec (.markResolve t c ch) s = .next s' ∧ s'.ctx? t c = some y ∧ s'.mem = s1.mem ∧ Posted x ch e y) ∧
      (e.cur.body = .rendezvous → exec (.markRendezvous t c ch) s =
        .next (s.modCtx t c (·.modRun ch e.seq fun r => { r with ended := true })).settled) ∧
      (∀ (p : PatchBody) (g : ChainNo × Nat) (y : Entry), e.cur.body = .patch p → e.cap.target = some g → x.isLinked g = true →
        x.entry? g.1 g.2 = some y → y.run.started = false → y.cur.patchable p.tfield = true → badBytes s (spAt t p.src) 4 = 0 →
        (let v := leNat (cellsRead s.mem (spAt t p.src) 4)
         admitted x y p.tfield v = true →
         ∃ s' z, exec (if e.run.stalled then .patchHoldResume t c ch else .patchAction t c ch) s = .next s' ∧ s'.ctx? t c = some z ∧
           s'.mem = s.mem ∧ z.entry? ch e.seq = none ∧ z.entry? g.1 g.2 = some { y with cur := y.cur.patch p.tfield v }))) ∧
    (finishing (x.chain ch).queue = none → e.walked = true → e.run.unit < 2 → e.run.owed = 0 → s.outstanding x ch e.seq = false →
      ∃ s' y, exec (.blockRetire t c ch) s = .next s' ∧ s'.ctx? t c = some y ∧ s'.mem = s.mem ∧ Posted x ch e y)) ∧
  (∀ (s : State) (t : TileNo) (c : SlotNo) (ch : ChainNo) (x : Ctx) (f : ChainFault) (e y : Entry) (p : PatchBody) (g : ChainNo × Nat)
      (j : Job), s.ctx? t c = some x → (x.chain ch).state = .faulted → (x.chain ch).fault = some f → f.toLeaf = true →
    f.reported = false → x.entry? ch f.seq = some e → e.cur.body = .patch p → e.cap.target = some g → x.entry? g.1 g.2 = some y →
    s.job? x.job = some j →
    (2 ≤ j.ppol → exec (.patchRangePolicy t c ch) s = .next (s.modCtx t c (reportRange ch)).settled) ∧
    (j.ppol = 0 → p.tfield ≤ 0x0D → exec (.patchRangePolicy t c ch) s = .next
      ((s.modCtx t c (·.modEntry g.1 g.2 fun y => { y with cur := y.cur.patch p.tfield (clampBound x y p.tfield e.run.refused) })).modCtx
        t c (settle ch e.seq)).settled)) ∧
  (∀ (s : State) (t : TileNo) (c : SlotNo) (ch : ChainNo) (x : Ctx) (e : Entry), s.ctx? t c = some x → (x.chain ch).state = .running →
    (x.chain ch).queue.find? (fun e => e.run.stalled && e.cur.body.engine) = some e →
    (∃ p ∈ queuePorts e.cur.body, (if p.2 then s.canPush t p.1 x else s.canPop t p.1 x) = true) →
    exec (.queueStallResume t c ch) s = .next (s.modCtx t c (·.modRun ch e.seq fun p => { p with stalled := false })).settled) ∧
  (∀ (s : State) (t : TileNo) (e : Fin 8) (b : EpBind) (bs : List Byte) (r : List (List Byte)), (s.ep t e).bind = some b → b.dev = none →
    s.input.flag = false →
    (b.consumer = true → s.formed t e = true → (s.ep b.tile b.ep).flight = bs :: r →
      (let s1 := s.modEp b.tile b.ep fun p => { p with flight := r }
       exec (.linkedQueueEntryArrive t e) s = .next (s1.modEp t e fun q => { q with entries := q.entries ++ [bs] }).settled)) ∧
    (b.consumer = false → 0 < (s.ep t e).back → exec (.linkedQueueCreditReturn t e) s =
      .next (s.modEp t e fun p => { p with back := p.back - 1, credits := p.credits + 1 }).settled)) ∧
  (∀ (s : State) (t : TileNo) (c : SlotNo) (n : SemNo) (x : Ctx) (u : HeldUnit) (r : List HeldUnit), s.ctx? t c = some x →
    (x.sem n).held = u :: r → (x.sem n).exceeds u.amount u.lost = false →
    (let s1 := s.modCtx t c (·.modSem n fun m => { m with held := r }.arrive u)
     exec (.heldPostApply t c n) s = .next (match u.ack with
       | some k => (s1.modCtx t c (·.modRun k.1 k.2 fun p => { p with owed := p.owed - 1 })).settled
       | none => s1.settled)))

/-- CTXSAVE of an accessible area whose units are paid for, once the engines have stopped, frees the slot and keeps the context, registers
and predicates unchanged; until then it waits and stops them; it takes its address causes precisely. CTXRESTORE of a valid area puts the
context that the area holds (which of its bytes say what is the model's choice, log 14), with its tensors, into the free slot. A pop of a
new, readable record into an empty slot makes a context with the arguments of its record (which records it passes over is log 57); a record
whose context another tile's bindings hold fails to be restored, which the leaf records (the model's choice, log 149); with
its flag set it brings back a pre-empted context (the model's choice, logs 31 and 110). The leaf marks a context that it may
choose and streams it out once its dealer and its engines have stopped, a suspended one with stopped engines at once; the
dealer goes over to the other slot when at a group end the running context waits or is gone, or after its time slice; a push
that found no room is made once there is some, and with the flag set a record goes to another cluster (log 22). (R142, R313,
R319, R320, R321, R367, R368, R371, R372, R384, R385.) -/
def Obligations.Streaming : Prop :=
  (∀ (s : State) (x : Ctx) (h : Hd) (a : Src) (u : Word), Ready s x → x.pred h.guard = true → Reads s x a u →
    (let n := areaTotal x (!jobStays s s.cur s.mySlot x.job)
     ∀ s0, Runs (areaChecks s.cur x u n) s () s0 → s0.ctx? s.cur s.mySlot = some x →
      (∀ o s1, enginesQuiet s0 x = true → s0.Readable → Runs (touchRecord s.cur s.mySlot x x.record 16) (s0.charge s.cur s.mySlot 8 1) o s1 →
        s.Covers x.job (s1.reqs ++ areaReqs s1 s.cur x.job u.toNat n true) →
        ∃ s', exec (.ctxsave h a) s = .next s' ∧ s'.ctx? s.cur s.mySlot = none ∧
          ∃ e ∈ s'.saved, e.job = x.job ∧ e.num = x.num ∧ e.kind = .program ∧ e.area = u ∧ e.ctx.regs = x.regs ∧ e.ctx.preds = x.preds ∧
            e.ctx.latches = []) ∧
      (enginesQuiet s0 x = false → ∀ s1, Pays s x (s0.upMe fun y => { y with stopping := true }) s1 →
        exec (.ctxsave h a) s = .next (waits s h 1 none .again s1))) ∧
    (spaceOf u ≠ 0 → exec (.ctxsave h a) s = .next (preciseTrap s x .addressSpace u) ∧
      exec (.ctxrestore h a) s = .next (preciseTrap s x .addressSpace u)) ∧
    (spaceOf u = 0 → u.toNat % 65536 ≠ 0 → exec (.ctxsave h a) s = .next (preciseTrap s x .misalignedData u) ∧
      exec (.ctxrestore h a) s = .next (preciseTrap s x .misalignedData u)) ∧
    (∀ (bs : List Byte) (s0 s1 : State), Runs (areaChecks s.cur x u 64) s () s0 →
      (let total := areaDw (readArea s0 x.job u.toNat 64).1 3
       Runs (areaChecks s.cur x u total) s0 () s1 →
       (let s2 : State := { s1 with reqs := s1.reqs ++ areaReqs s1 s.cur x.job u.toNat total false }
        let e := areaCtx s2 bs
        readArea s2 x.job u.toNat total = (bs, 0) → areaValid bs = true → fitFault s2 s.cur (1 - s.mySlot) e = none →
        s2.ctx? s.cur (1 - s.mySlot) = none → s2.residentNum e.job e.num.toNat = false →
        ((e.ctx.loops.get 1).act = true → (e.ctx.loops.get 0).act = true) → e.job = x.job → bits (areaDw bs 0) 49 1 = 0 →
        e.ctx.stepDue = false → ∀ o s3, Runs (touchRecord s.cur s.mySlot x e.ctx.record 8) s2 o s3 → s.Covers x.job (s3.reqs ++ [(1, 1)]) →
        ∃ s' y, exec (.ctxrestore h a) s = .next s' ∧ s'.ctx? s.cur (1 - s.mySlot) = some y ∧
          y.num.toNat = bits (areaDw bs 0) 32 16 ∧ y.regs = e.ctx.regs ∧ y.preds = e.ctx.preds ∧ y.pc = e.ctx.pc ∧ y.tit = areaTit bs)))) ∧
  (∀ (s : State) (t : TileNo) (c : SlotNo) (num : BitVec 16) (q : Queued) (pa : Nat), s.ctx? t c = none →
    s.input.flag = false → (popOrder s t).find? (poppable s t c) = some q → hwXlate s q.job q.va.toNat true = some pa →
    pa + 64 ≤ 0x10000000000 → badBytes s pa 64 = 0 → s.cancelled (clOf t) q.job = false → recValid s pa q = true → recResume s pa = false →
    (∀ j, s.job? (recJob s pa q) = some j → j.live.length < 65536 ∧ num ∉ j.live) → hwTag t q.job q.va.toNat true s ≠ none →
    ∃ s' y, exec (.recordPop t c num) s = .next s' ∧ s'.ctx? t c = some y ∧ y.num = num ∧ y.job = recJob s pa q ∧ y.record = q.va ∧
      y.cls = recClass s pa q ∧
      y.pc = BitVec.ofNat 64 (recDw s pa 0) ∧ y.regs.get 0 = BitVec.ofNat 64 (recDw s pa 1) ∧ y.regs.get 1 = q.va ∧
      y.regs.get 2 = BitVec.ofNat 64 (recDw s pa 6) ∧ y.regs.get 3 = BitVec.ofNat 64 (recDw s pa 7) ∧
      ∀ n : Fin 48, 4 ≤ n.val → y.regs.get n = 0) ∧
  (∀ (s : State) (t : TileNo) (c : SlotNo) (num : BitVec 16), slotFree s t c = true → s.input.flag = false →
    (popOrder s t).find? (poppable s t c) = none →
    (let failed := failedRestores s t none
     failed ≠ [] → exec (.recordPop t c num) s = .next (failed.foldl (fun z q => noteRebind t q z) s).settled)) ∧
  (∀ (s : State) (t : TileNo) (c : SlotNo) (num : BitVec 16) (e : Saved), slotFree s t c = true → s.input.flag = true →
    (∀ x, s.ctx? t c = some x → mayChoose s t c x = true ∧ enginesQuiet s x = true) →
    (let best := (popOrder s t).find? (poppable s t c)
     s.saved.find? (fun e => e.num == num && e.kind == .preempted && savedFits s t c e && ((s.job? e.job).any (s.mayRun t)) &&
        best.all fun q => decide (q.cls ≤ e.ctx.cls)) = some e →
     exec (.recordPop t c num) s = .next (enterSlot t c (resumeStep t c (streamIn t c e (streamOut t c .suspended s)))).settled)) ∧
  (∀ (s : State) (t : TileNo) (c : SlotNo) (x : Ctx), s.ctx? t c = some x →
    (x.run = .held → x.marked = false → mayChoose s t c x = true → enginesQuiet s x = true →
      exec (.preemption t c) s = .next (streamOut t c .suspended s).settled) ∧
    ((x.run = .run ∨ (x.run = .held ∧ enginesQuiet s x = false)) → x.marked = false → mayChoose s t c x = true →
      exec (.preemption t c) s = .next (s.modCtx t c fun y => { y with marked := true }).settled) ∧
    (x.marked = true → enginesQuiet s x = true →
      (x.run = .run → x.stopsHere = true → exec (.preemption t c) s = .next (streamOut t c .preempted s).settled) ∧
      (x.run = .held → exec (.preemption t c) s = .next (streamOut t c .suspended s).settled))) ∧
  (∀ (s : State) (t : TileNo) (y : Ctx), s.ctx? t (1 - (s.tile t).cur) = some y → canRun s t (1 - (s.tile t).cur) = true →
    ((∀ x, s.ctx? t (s.tile t).cur = some x →
        x.atEnd = true ∧ (canRun s t (s.tile t).cur = false ∨ ∃ w, x.wait = some w ∧ y.lost ≤ w.since)) →
      exec (.contextSwitch t) s = .next (switchTo t (1 - (s.tile t).cur) s).settled) ∧
    (∀ x, s.ctx? t (s.tile t).cur = some x → x.latches = [] → x.wait = none → x.gained + 8192 ≤ s.now → x.cls ≤ y.cls →
      exec (.timeSliceExpiry t) s = .next (switchTo t (1 - (s.tile t).cur) s).settled)) ∧
  (∀ (s s1 : State) (cl : Fin 48) (i job pa : Nat) (va : Word) (t : TileNo), s.input.flag = false →
    (s.clusters.get cl).pushes[i]? = some (job, va, t) → hwXlate s job va.toNat true = some pa →
    badBytes s (pa + 16) 8 = 0 →
    ownerPush t job (s.timed job) (recPrio s pa) va (setRecDw pa 2 (withState (recDw s pa 2) 2) (hwTouch t job va.toNat s)) = some s1 →
    exec (.overflowPushRetry cl i) s = .next (let k : Cluster := s1.clusters.get cl
      ({ s1 with clusters := s1.clusters.set cl { k with pushes := (s.clusters.get cl).pushes.eraseIdx i } } : State).settled)) ∧
  (∀ (s s1 : State) (cl k : Fin 48) (i : Nat) (n : Fin 4) (u v : TileNo) (q : Queued), s.input.flag = true → s.input.value % 4 = n.val →
    s.input.addr = k.val → k ≠ cl → movable s cl i n = some (u, q) → s.timed q.job = false → v.val = k.val * 8 →
    overflowPush v q.job false n q.va (dequeue (match q.src with
      | .deck _ _ _ => v
      | .over _ _ => u) q.src s) = some s1 →
    exec (.overflowPushRetry cl i) s = .next s1.settled)

/-- A pending cause interrupts a waiting instruction, whose arrival or place is withdrawn, and enters the handler or the leaf; the
watchdog, of an instruction that does not wait for its context to get the dealer back, and a machine check become pending and
interrupt such a wait. For a context that the leaf holds, BREAK and STEP with FWDBG go to debug, an unknown service number
gets all ones, and each known service gets its result in g4 and the context goes on at its EPC; every other cause retires the
record. JOB_CANCEL_COMPLETE ends a cancelled job whose contexts are quiet. (R234, R327, R337, R374, R375, R376, R378, R379,
R380, R448.) -/
def Obligations.Interrupts : Prop :=
  (∀ (s : State) (t : TileNo) (c : SlotNo) (x : Ctx) (w : Wait), s.ctx? t c = some x → x.wait = some w → x.run = .run → x.active = false →
    interruptible s w = true →
    (x.asyncs ≠ [] ∨ (pendingFault x).isSome = true → exec (.trapEntry t c) s = .next (takePending t c (withdraw t c w s)).settled) ∧
    (let late (k : Cause) : State := s.modCtx t c fun y => { y with asyncs := y.asyncs ++ [k] }
     (w.kind ≠ .wfe → (x.recounts = true → (s.tile t).cur = c) → w.since + 2 * ((s.job? x.job).map (·.watchdog)).getD 67108864 < s.now → Cause.watchdog ∉ x.asyncs →
       exec (.watchdog t c) s = .next (takePending t c (withdraw t c w (late .watchdog))).settled) ∧
     (Cause.machineCheck ∉ x.asyncs →
       exec (.machineCheck t c) s = .next (takePending t c (withdraw t c w (late .machineCheck))).settled))) ∧
  (∀ (s : State) (t : TileNo) (c : SlotNo) (x : Ctx), s.ctx? t c = some x → x.wait = none → Cause.machineCheck ∉ x.asyncs →
    exec (.machineCheck t c) s = .next (s.modCtx t c fun y => { y with asyncs := y.asyncs ++ [.machineCheck] }).settled) ∧
  (∀ (s : State) (t : TileNo) (c : SlotNo) (x : Ctx) (r : TrapRec), s.ctx? t c = some x → x.run = .leaf → x.leafTrap = some r →
    (let s1 := s.addErr (causeRec s t x r.cause r.eval r.epc)
     let goesOn (z : State) (v : Word) : State :=
       (resumeStep t c (z.modCtx t c fun y => { y.setReg 4 v with run := .run, pc := r.epc, leafTrap := none })).settled
     let n := (x.regs.get 4).toNat % 256
     let p := (x.regs.get 5).toNat
     (r.cause = .firmwareCall →
       (n = 0 → exec (.fwDomainNumber t c) s = .next (goesOn s1 (BitVec.ofNat 64 s.domain))) ∧
       (n = 1 → 20 ≤ p → p ≤ 40 → exec (.fwSetWatchdog t c) s = .next (goesOn (s1.modJob x.job fun j => { j with watchdog := 2 ^ p }) 0)) ∧
       (n = 1 → (p < 20 ∨ 40 < p) → exec (.fwSetWatchdog t c) s = .next (goesOn s1 (BitVec.allOnes 64))) ∧
       (∀ (found : Option (Nat × BitVec 16)) (bad : Nat), n = 2 → s.savedAt x.job (x.regs.get 5) = (found, bad) →
         (let s2 := if bad = 0 then s1
            else s1.addErr { causeRec s1 t x .eccStrict (x.regs.get 5) (BitVec.ofNat 64 bad) with ctx := 0 }
          (found = none → exec (.fwUnbindSaved t c) s = .next (goesOn s2 (BitVec.allOnes 64))) ∧
          (∀ (u : TileNo) (k : BitVec 16), found = some (u.val, k) →
            (let kept := s.saved.find? fun g => g.job == x.job && g.num == k && g.tile.val == u.val
             (∀ g, kept = some g → exec (.fwUnbindSaved t c) s = .next (goesOn (unbindSaved g s2) 0)) ∧
             (kept = none → (unbindAll u x.job k s2).ctx? t c = some x →
               exec (.fwUnbindSaved t c) s = .next (goesOn (unbindAll u x.job k s2) 0)))))) ∧
       (n = 3 → exec (.fwLog t c) s = .next (goesOn (appendLog x.job (x.regs.get 5) s1) 0)) ∧
       (3 < n → exec (.leafTrapHandling t c) s = .next (goesOn s1 (BitVec.allOnes 64)))) ∧
     ((r.cause = .brk ∨ r.cause = .step) → x.dbgctl.getLsbD 1 = true →
       exec (.leafTrapHandling t c) s = .next (s1.modCtx t c fun y => { y with run := .debug }).settled) ∧
     (∀ s2, r.cause ≠ .firmwareCall → ¬((r.cause = .brk ∨ r.cause = .step) ∧ x.dbgctl.getLsbD 1 = true) →
       s2 = retireCtx t c r.cause.code (faultGrid t x s1) →
       exec (.leafTrapHandling t c) s = .next (if (s2.job? x.job).any (·.fcancel) then (cancelJob x.job s2).settled else s2.settled)))) ∧
  (∀ (s : State) (job : Nat) (j : Job), s.job? job = some j → s.cancelledAll job = true → s.jobQuiet job = true →
    ∃ s', exec (.jobCancelComplete job) s = .next s' ∧ s'.job? job = none)

/-- A message of this device to itself, or one that was held, meets the checks of its entry once no earlier message or post of its chain lies
there: it is refused or held, or a write performs at its places, or in general it takes what the model's receive gives; its verdict is noted,
and its dealer's cache drops what it passed; a message of another
device gets the verdict as its answer, laid out as the model chose (logs 16 and 86), with the number of bytes it could not read (log 84). An answer returns the permits of its flits and goes to the dealer that waits, to the
read of its block, or counts the bytes of a store. A loss goes to the dealer or the read that waits, or counts the lost bytes
of a store, and sends a notice under counted-drop; a notice is acknowledged or counts as a loss at a doorbell. (R165, R196, R349, R402,
R403, R404, R405, R406, R407, R408.) -/
def Obligations.Peers : Prop :=
  (∀ (s : State) (m : Msg) (i : Nat), m.dev = s.domain → msgBehind s m = false → behindPosts s m = false →
    (let a : Arrival :=
       { dev := m.dev, job := m.job, inb := m.inb, off := m.off, op := m.op, tile := m.tile, stamp := m.stamp, fences := m.fences }
     let arrives (t : State) : Prop :=
       (s.input.flag = true → s.msgs.find? (fun k => k.id == s.input.value && k.state == .going) = some m →
         exec .windowMessageArrival s = .next t.settled) ∧
       (s.msgs[i]? = some m → m.state = .held → exec (.windowMessageRetry i) s = .next t.settled)
     (entryOk (s.inw m.inb) a = false → arrives (setMsg m.id .refused s)) ∧
     (entryOk (s.inw m.inb) a = true → heldAtEntry s (s.inw m.inb) m.op = true → arrives (setMsg m.id .held s)) ∧
     (∀ (ps : List (Nat × Bool)) (bs : List Byte), entryOk (s.inw m.inb) a = true → (s.inw m.inb).kind = 0 →
       targetOf s (s.inw m.inb) a = .at ps → (∀ p ∈ ps, p.2 = false) → m.op = .write bs →
       arrives (setMsg m.id (.done [] 0 0 [] 0) (passCache m (m.places s) (placesPublish a ps false (placesWrite ps bs false s))))) ∧
     (∀ (v : Verdict) (s1 : State), Runs (receive a) s v s1 →
       arrives (setMsg m.id v.toMsg (if v = .held ∨ v = .refused then s1 else passCache m (m.places s) s1))))) ∧
  (∀ (s : State) (a : Arrival) (v : Verdict) (s1 : State), s.input.flag = false → s.input.who ≠ s.domain →
    a = { dev := s.input.who, job := s.input.nums[1]?.getD 0, inb := winNo (s.input.nums[0]?.getD 0), off := s.input.addr,
          op := inputOp s.input } → (inputOp s.input).sane = true → Runs (receive a) s v s1 →
    ∃ s', exec .windowMessageArrival s = .next s' ∧ s'.mem = s1.mem ∧ s'.answer = match v with
      | .refused => [0]
      | .held => [1]
      | .done bs n k _ bad => 2 :: natLe 2 n ++ natLe 2 k ++ natLe 2 bad ++ bs) ∧
  (∀ (s : State) (m : Msg) (i : Nat), s.msgs[i]? = some m → ackBehind s m = false →
    (∀ bs n k ps bad, msgAnswer s m = some (.done bs n k ps bad) →
      (let gone := dropMsg m.id (chargePayload m bs.length (returnFlits m.dev m.cls (1 + unitsOf bs.length) s))
       (m.chain = none → exec (.windowAck i) s = .next (gone.modWhere m.tile m.job m.num (giveAnswer m.id (.data bs ps bad))).settled) ∧
       (∀ ch seq it, m.chain = some (ch, seq, it) →
         (∀ z, m.op = .read z → exec (.windowAck i) s =
           .next (gone.modWhere m.tile m.job m.num (giveRead ch seq m.id (.data bs ps bad))).settled) ∧
         (∀ w x, m.op = .write w → gone.whereCtx m.tile m.job m.num = some x →
           (let r := countAck ch seq false m.count (addEvents n k (if blockStrict x ch seq = true then x else addDrops bad x))
            r.2 = [] → (bad = 0 ∨ blockStrict x ch seq = true) →
            exec (.windowAck i) s = .next (gone.modWhere m.tile m.job m.num fun _ =>
              if bad = 0 then r.1 else faultMsg ch seq it .eccStrict m.addr r.1).settled))))) ∧
    (msgAnswer s m = some .refused →
      (let back := chargePayload m 0 (returnFlits m.dev m.cls 1 s)
       (m.chain = none → exec (.windowAck i) s =
         .next ((dropMsg m.id back).modWhere m.tile m.job m.num (giveAnswer m.id .refused)).settled) ∧
       (∀ ch seq it w, m.chain = some (ch, seq, it) → m.op = .write w → exec (.windowAck i) s =
         .next ((setMsg m.id .parked back).modWhere m.tile m.job m.num (faultMsg ch seq it .windowFault m.addr)).settled))) ∧
    (m.state = .lost →
      (m.chain = none → exec (.lossDetected i) s = .next ((dropMsg m.id s).modWhere m.tile m.job m.num (giveAnswer m.id .lost)).settled) ∧
      (∀ ch seq it x, m.chain = some (ch, seq, it) → s.whereCtx m.tile m.job m.num = some x →
        (∀ z, m.op = .read z →
          (let s1 := (dropMsg m.id s).modWhere m.tile m.job m.num (giveRead ch seq m.id .lost)
           exec (.lossDetected i) s = .next (if blockStrict x ch seq = true then s1 else sendNotice m s1).settled)) ∧
        (∀ w, m.op = .write w →
          (blockStrict x ch seq = true → exec (.lossDetected i) s =
            .next ((setMsg m.id .parked s).modWhere m.tile m.job m.num (faultMsg ch seq it .windowFault m.addr)).settled) ∧
          (blockStrict x ch seq = false → (countLost ch seq w.length m.count x).2 = [] → exec (.lossDetected i) s =
            .next (let s1 := (dropMsg m.id s).modWhere m.tile m.job m.num fun _ => (countLost ch seq w.length m.count x).1
                   sendNotice m (s1.addErr (causeRec s1 m.tile x .windowFault m.addr (BitVec.ofNat 64 w.length)))).settled))))) ∧
  (∀ s : State,
    (∀ n, s.input.flag = true → s.notices[s.input.value]? = some n →
      exec .lossNotice s = .next (if s.input.size = 1 then sendFlits n.1 3 1 s
        else { returnFlits n.1 3 1 s with notices := s.notices.eraseIdx s.input.value } : State).settled) ∧
    (s.input.flag = false → s.input.nums[0]?.getD 0 < 256 → (s.inw (winNo (s.input.nums[0]?.getD 0))).kind = 0 →
      exec .lossNotice s = .next (sendFlits s.input.who 3 1 (returnFlits s.input.who 3 1 s)).settled) ∧
    (∀ s1, s.input.flag = false → s.input.nums[0]?.getD 0 < 256 → (s.inw (winNo (s.input.nums[0]?.getD 0))).v = true →
      (s.inw (winNo (s.input.nums[0]?.getD 0))).bound = true →
      (s.inw (winNo (s.input.nums[0]?.getD 0))).kind = 2 →
      Runs (applyArrival (s.inw (winNo (s.input.nums[0]?.getD 0))) (winNo (s.input.nums[0]?.getD 0)) (s.input.nums[3]?.getD 0) true none)
        s () s1 →
      exec .lossNotice s = .next (sendFlits s.input.who 3 1 (returnFlits s.input.who 3 1 s1)).settled))

/-- A bad flit is replayed and counted, and the fourth failure retrains the link, until RETRAIN_COMPLETE; permits return, are
audited and are repaired; a message of 64 bytes passes a command link on a permit, and the link's audit after 4096 of them repairs and counts
a difference. A refill, a request that may leave, a
router's power step after its dwell (what a router reports, and from when it dwells, is the model's choice, logs 109 and 125), and the end of a
budget period of an earlier cycle (USED in 1/512 pJ, log 27) act on buckets, waits and budgets; the
array leaves RAMP after 48 cycles and FULL after 64 idle ones with no iteration ready, a hold that has passed ends, and a
change of power mode at a frame tick applies the slower of REQ and LIMIT. (R213, R214, R397, R398, R419, R420, R423, R425,
R426, R430, R446.) -/
def Obligations.LinksAndShares : Prop :=
  (∀ (s : State) (p : Fin 18), s.input.who = p.val →
    (let k : Link := s.ports.get p
     let tries := if s.input.flag then k.tries + 1 else 1
     (k.retraining = false →
       ∃ s', exec .flitReplay s = .next s' ∧ s'.errRing.getLast? ≠ none ∧
         (s'.ports.get p).retraining = decide (4 ≤ tries) ∧ (s'.ports.get p).tries = if tries < 4 then tries else 0) ∧
     (k.retraining = true →
       exec .retrainComplete s =
         .next (pumpPort p ({ s with ports := s.ports.set p { k with retraining := false } } : State)).settled) ∧
     (let ch := chanNo s.input.addr
      let q : Chan := k.chans.get ch
      let withChan (q' : Chan) : State := { s with ports := s.ports.set p { k with chans := k.chans.set ch q' } }
      (q.withheld = 0 → exec .permitReturn s = .next (pumpPort p (withChan { q with permits := q.permits + 1, sent := 0 })).settled) ∧
      (q.withheld ≠ 0 → exec .permitReturn s = .next (pumpPort p (withChan { q with withheld := q.withheld - 1, sent := 0 })).settled) ∧
      (s.input.value ≠ 0 → ∃ s', exec .resynchronisation s = .next s' ∧ s'.errCount = (s.errCount + 1) % 4294967296)) ∧
     (∃ s', exec .auditFlit s = .next s' ∧ (∀ j : Fin 18, j ≠ p → s'.ports.get j = s.ports.get j) ∧
       ∀ ch : Fin 4, (((s'.ports.get p).chans.get ch).returns = ((k.chans.get ch).returns - s.input.nums[4 + ch.val]?.getD 0)) ∧
         ((s'.ports.get p).chans.get ch).permits = (k.chans.get ch).permits))) ∧
  (∀ (s : State) (c : Fin 48), s.input.who = c.val → s.input.addr = 0 →
    (let k : Cluster := s.clusters.get c
     (s.input.flag = false → s.input.bytes.length = 64 → k.cmdDown.1 ≠ 0 → k.cmdDown.2.2 ≠ 4095 →
       ∃ s', exec .commandLinkMessage s = .next s' ∧ (s'.clusters.get c).cmdDown =
         (k.cmdDown.1 - 1, k.cmdDown.2.1 ++ [s.input.bytes], k.cmdDown.2.2 + 1)) ∧
     (s.input.flag = false → s.input.bytes.length = 64 → k.cmdDown.1 ≠ 0 → k.cmdDown.2.2 = 4095 →
       (let held : Nat := k.cmdDown.2.1.length + 1
        ∃ s', exec .commandLinkMessage s = .next s' ∧ (s'.clusters.get c).cmdDown = (8 - held, k.cmdDown.2.1 ++ [s.input.bytes], 0) ∧
          (s'.clusters.get c).cmdFixes = k.cmdFixes + (if k.cmdDown.1 - 1 + held = 8 then 0 else 1) ∧
          (k.cmdDown.1 - 1 + held ≠ 8 → s'.errCount = (s.errCount + 1) % 4294967296))) ∧
     (∀ m r, s.input.flag = true → k.cmdDown.2.1 = m :: r → k.cmdDown.2.2 ≠ 4096 →
       ∃ s', exec .commandLinkMessage s = .next s' ∧ s'.answer = m ∧ (s'.clusters.get c).cmdDown =
         ((if s.input.value = 0 then k.cmdDown.1 + 1 else k.cmdDown.1), r, k.cmdDown.2.2)))) ∧
  (∀ (s : State) (d : Fin 8), (s.dies.get d).period + 1024 ≤ s.now →
    exec (.tokenRefill d) s = .next ({ s with dies := s.dies.set d (refillDie s d) } : State).settled) ∧
  (∀ (s : State) (t : TileNo) (c : SlotNo), ([0, 1] : List SlotNo).find? (mayLeave s t) = some c →
    exec (.bandwidthRequest t) s = .next (s.modCtx t c fun x => { x with wait := x.wait.map fun w => { w with kind := .again } }).settled) ∧
  (∀ (s : State) (t : TileNo) (k n : Fin 4), s.input.nums = [] → s.input.value = k.val → n.val = k.val + 1 →
    ((s.tile t).subs.get k = true → (s.tile t).subs.get n = false → ((s.tile t).occ.get k).1 = 2 → ((s.tile t).occ.get k).2 + 256 ≤ s.now →
      exec (.subnetworkPower t true) s = .next (s.setTile t { s.tile t with
        subs := (s.tile t).subs.set n true, occ := (s.tile t).occ.set n (0, s.now) }).settled) ∧
    ((s.tile t).subs.get n = true → ((s.tile t).occ.get n).1 = 0 → ((s.tile t).occ.get n).2 + 4096 ≤ s.now →
      exec (.subnetworkPower t false) s = .next (s.setTile t { s.tile t with subs := (s.tile t).subs.set n false }).settled)) ∧
  (∀ (s s' : State) (t : TileNo) (up : Bool), exec (.subnetworkPower t up) s = .next s' → (s'.tile t).subs.get 0 = (s.tile t).subs.get 0) ∧
  (∀ (s : State) (t : TileNo) (up : Bool) (k : Fin 4) (l : Nat) (r : List Nat), s.input.nums = l :: r → s.input.value % 4 = k.val →
    ((s.tile t).occ.get k).1 ≠ min l 2 →
    exec (.subnetworkPower t up) s = .next (s.setTile t { s.tile t with occ := (s.tile t).occ.set k (min l 2, s.now) }).settled) ∧
  (∀ (s : State) (q : Fin 256) (cyc at' : Nat), (s.queue q).due = some (cyc, at') → cyc < s.now →
    ∃ s', exec (.budgetPeriodEnd q) s = .next s' ∧ s'.mem = s.mem ∧ s'.queue q = endPeriod at' (s.queue q) ∧
      (s'.queue q).used = (s.queue q).used - (s.queue q).budget * 512000000) ∧
  (∀ (s : State) (t : TileNo),
    (let m : MxPower := (s.tile t).mx
     (m.state = .ramp → m.since + 48 ≤ s.now → ∃ s', exec (.rampComplete t) s = .next s' ∧ (s'.tile t).mx.state = .full) ∧
     (let z := settleHold t s
      let k : MxPower := (z.tile t).mx
      k.state = .full → k.hold ≤ s.now → max (max k.idle k.hold) k.since + 64 ≤ s.now →
      ((z.tile t).slots.toList.all fun o => o.all fun x => !x.matBusy) = true →
      exec (.matrixCold t) s = .next (z.setTile t { z.tile t with mx := { k with state := .cold, since := 0 } }).settled) ∧
     (m.hold ≠ 0 → m.hold ≤ s.now → ∃ s', exec (.burstHoldExpiry t) s = .next s' ∧ (s'.tile t).mx.hold = 0 ∧
       (s'.tile t).mx.state = m.state ∧ (s'.tile t).mx.idle = max m.idle m.hold))) ∧
  (∀ s : State, s.ready = true → s.frameT = s.time → slowerOf s.req s.limit ≠ s.mode → s.input.value ≤ 3960000 →
    ∃ s', exec .powerModeChange s = .next s' ∧ s'.mode = slowerOf s.req s.limit ∧ s'.pend = false ∧ s'.time = s.time + s.input.value ∧
      s'.now = s.now)

/-- A packet that a queue offers is taken: WRAP moves HEAD to the next multiple of SIZE, COPY delivers its bytes or is refused for
its length, SIGNAL, once the records of the grids before it are pushed, stores or adds, WAIT holds its queue until WAIT_POLL
sees its condition, INDIRECT opens its buffer, BARRIER starts once nothing is under way, LAUNCH and INVOKE create their grid
or complete with STATUS 1, and LOAD_MODEL starts; a later turn of it takes lock 1 and makes its slot LOADING or EVICTING or
refuses it, a third one copies the image and ends RESIDENT or FREE, and MODEL_UNLOAD_COMPLETE frees an evicted slot.
PACKET_COMPLETION writes the completion word where SIGEN is set. Memory is readable throughout. The turns of LOAD_MODEL are the model's choice (log
75), and so is STATUS 1 for a COPY of a bad length or an INVOKE of more than 16 buffers (log 63). (R433, R435, R436, R437, R438, R439, R441, R442, R444.) -/
def Obligations.FrontEnd : Prop :=
  (∀ (s : State) (q : Fin 256) (p : Packet), Offers s q p →
    (let k : Queue := s.queue q
     let s1 := s.modQueue q (·.advance p)
     (p.type = 0 → exec (.wrap q) s = .next (s1.modQueue q Queue.close).settled ∧
       (k.stack = [] → (k.advance p).head = (k.head / k.size + 1) * k.size % 4294967296)) ∧
     (∀ bs s2, p.type = 3 → 1 ≤ p.get 32 0 64 → p.get 32 0 64 ≤ 2 ^ 40 →
       (let at' (w : Bool) (a : Nat) : Option Nat := if p.get 40 0 1 = 1 then physAt s1 a else queueAt s1 k a w
        bytesVia s1 (at' false) (p.get 16 0 64) (p.get 32 0 64) = some bs → writeVia (at' true) (p.get 24 0 64) bs s1 = some s2 →
        exec (.copy q) s = .next (started q (p.start (some 0)) s2).settled)) ∧
     (p.type = 3 → (p.get 32 0 64 = 0 ∨ 2 ^ 40 < p.get 32 0 64) →
       exec (.copy q) s = .next (started q (p.start (some 1)) s1).settled) ∧
     (∀ pa, p.type = 4 → s.pushing k = false → queueAt s1 k (p.get 16 0 64) true = some pa →
       (p.get 32 0 1 ≠ 1 → exec (.signal q) s = .next (started q (p.start (some 0)) (writeNat s1 pa 8 (p.get 24 0 64))).settled) ∧
       (p.get 32 0 1 = 1 → exec (.signal q) s =
         .next (started q (p.start (some 0)) (writeBytes s1 pa (natLe 8 (readNat s1 pa 8 + p.get 24 0 64)) true)).settled)) ∧
     (p.type = 5 → exec (.wait q) s = .next ((s1.modQueue q fun z => { z with
       wait := some { pkt := p.start none, addr := p.get 16 0 64, value := BitVec.ofNat 64 (p.get 24 0 64),
                      ge := p.get 32 0 1 == 1 } }).modQueue q Queue.close).settled) ∧
     (p.type = 6 → p.get 24 0 16 ≠ 0 → exec (.indirect q) s = .next ((s1.modQueue q fun z => { z with
       stack := ⟨p.start none, p.get 16 0 64, p.get 24 0 16⟩ :: z.stack }).modQueue q Queue.close).settled) ∧
     (p.type = 8 → k.started = [] → exec (.barrier q) s = .next (started q (p.start (some 0)) s1).settled) ∧
     (let s2 := s1.modQueue q fun z => { z with
        parents := if z.stack.isEmpty then z.parents.filter (·.1 != p.idx) else z.parents }
      (p.type = 1 →
        (let d := readDesc (bytesVia s1 (queueAt s1 k · false)) (launchBody p).desc
         (∀ s3, (d.bind fun d => launchGrid q k (launchBody p) d (Vector.replicate 16 0) (parentOf k p) s2) = some s3 →
           exec (.launch q) s =
             .next (started q { p.start none with grid := some (k.job, (launchBody p).grid), slot := none } s3).settled) ∧
         ((d.bind fun d => launchGrid q k (launchBody p) d (Vector.replicate 16 0) (parentOf k p) s2) = none →
           exec (.launch q) s = .next (started q (p.start (some 1)) (dropChild k p s2)).settled))) ∧
      (let m : Model := s.models.get (slotNo p)
       let n := p.get 16 8 5
       p.type = 2 →
         ((m.state ≠ .resident ∨ m.job ≠ k.job ∨ 16 < n) →
           exec (.invoke q) s = .next (started q (p.start (some 1)) (dropChild k p s2)).settled) ∧
         (∀ (bufs : List Nat) (img : Nat) (d : Desc) (b : LaunchBody) (s3 : State), m.state = .resident → m.job = k.job → n ≤ 16 →
           (List.range n).mapM (fun j => natVia s1 (queueAt s1 k · false) (p.get 24 0 64 + 8 * j) 8) = some bufs →
           natVia s1 (physAt s1) m.pbase 128 = some img →
           (let h := launchBody ⟨img, 0⟩
            let reloc : Vector Word 16 := Vector.ofFn fun j => BitVec.ofNat 64 (bufs[j.val]?.getD 0)
            b = { h with code := h.code + BitVec.ofNat 64 m.pbase, desc := m.pbase + h.desc, frame := reloc.get 0 + h.frame,
                         grid := p.get 32 0 64, recbase := p.get 40 0 64, arg1 := BitVec.ofNat 64 (p.get 48 0 64) } →
            readDesc (bytesVia s1 (physAt s1)) b.desc = some d → launchGrid q k b d reloc (parentOf k p) s2 = some s3 →
            (let m3 : Model := s3.models.get (slotNo p)
             exec (.invoke q) s = .next (started q { p.start none with grid := some (k.job, b.grid), slot := some (slotNo p) }
               { s3 with models := s3.models.set (slotNo p) { m3 with live := m3.live + 1 } }).settled))))) ∧
     (p.type = 7 → (s.input.who = 2 ∨ loadDue k = none) →
       exec (.loadModel q) s = .next (started q { p.start none with load := some (loadOf p) } s1).settled))) ∧
  (∀ (s : State) (q : Fin 256) (i : Nat) (l : Load), loadDue (s.queue q) = some (i, l) → s.input.who ≠ 2 →
    (let m : Model := s.models.get l.slot
     let put (z : State) (m : Model) (f : Pkt → Pkt) : State :=
       (({ z with models := z.models.set l.slot m } : State).modQueue q fun k => { k with started := k.started.modify i f }).settled
     let lock : HsemLock := s.hsems.get 1
     let s1 : State := { s with hsems := s.hsems.set 1 { lock with owner := 3 } }
     (l.locked = false → lock.owner = 0 →
       (m.state ≠ (if l.unload then SlotState.resident else .free) ∨ m.job ≠ (s.queue q).job →
         exec (.loadModel q) s = .next (s1.modQueue q fun k => { k with
           started := k.started.modify i fun p => { p with status := some 1 } }).settled) ∧
       (l.unload = true → m.state = .resident → m.job = (s.queue q).job →
         exec (.loadModel q) s = .next (put s1 { m with state := .evicting } fun p =>
           { p with slot := some l.slot, load := some { l with locked := true } })) ∧
       (l.unload = false → m.state = .free → m.job = (s.queue q).job → allottable s1 s.input.addr l.bytes = true →
         exec (.loadModel q) s = .next (put s1 { m with state := .loading, pbase := s.input.addr, bytes := l.bytes, live := 0 } fun p =>
           { p with load := some { l with locked := true } }))) ∧
     (l.locked = true → s.input.flag = false → s.Readable →
       (let image := bytesVia s (queueAt s (s.queue q) · false) l.image l.bytes
        (∀ bs, image = some bs → 128 ≤ l.bytes → modelOk (writeBytes s m.pbase bs) m.pbase = true →
          exec (.loadModel q) s = .next (put (writeBytes s m.pbase bs) { m with state := .resident } fun p => { p with status := some 0 })) ∧
        (∀ bs, image = some bs → ¬(128 ≤ l.bytes ∧ modelOk (writeBytes s m.pbase bs) m.pbase = true) →
          exec (.loadModel q) s = .next (put (writeBytes s m.pbase bs) { job := m.job } fun p => { p with status := some 1 })) ∧
        (image = none → exec (.loadModel q) s = .next (put s { job := m.job } fun p => { p with status := some 1 })))))) ∧
  (∀ (s : State) (q : Fin 256) (w : QWait) (pa : Nat), (s.queue q).wait = some w → s.input.flag = false → s.Readable →
    queueAt s (s.queue q) w.addr false = some pa →
    (let v := readNat s pa 8
     let seen : Prop := if w.ge then w.value.toNat ≤ v else v = w.value.toNat
     (seen → exec (.waitPoll q) s = .next ((s.modQueue q fun k => { k with wait := none }).modQueue q fun k =>
       { k with started := k.started ++ [{ w.pkt with status := some 0 }] }).settled) ∧
     (¬seen → exec (.waitPoll q) s = .next s.settled))) ∧
  (∀ (s : State) (i : Fin 64), (s.models.get i).state = .evicting → (s.models.get i).live = 0 →
    ∃ s', exec (.modelUnloadComplete i) s = .next s' ∧ s'.mem = s.mem ∧ (s'.models.get i).state = .free ∧ (s'.models.get i).live = 0 ∧
      (s'.models.get i).job = (s.models.get i).job) ∧
  (∀ (s : State) (q : Fin 256) (i st : Nat) (p : Pkt), (s.queue q).started[i]? = some p → p.status = some st → p.type ≠ 7 →
    s.input.flag = false →
    (let s1 := s.modQueue q fun k => { k with started := k.started.eraseIdx i }
     (p.sigen = false → exec (.packetCompletion q i) s = .next s1.settled) ∧
     (∀ a, p.sigen = true → queueAt s1 (s.queue q) p.sig true = some a → exec (.packetCompletion q i) s =
       .next (writeNat s1 a 8 (st + 256 * p.type + 65536 * p.idx + 9223372036854775808)).settled)))

/-- A valid TAIL write moves TAIL, with lock 0 or without it; any other halts the queue with HCAUSE 4, leaves TAIL and is recorded (the record is
the model's choice, log 65); with lock 0 a write of HALT as 1 ends
the halt and HCAUSE keeps its value. A lock's owner releases it by a write of 0, a read of a free lock takes it, and two reads
in one cycle go by the toggle (one step for both is log 24). PWRMODE and RESET act under lock 2 (REQ = 3 changes nothing, log 77); another write
does what its region says, where a leaf reaches its part of the map; the banker writes POOL of a die and cancels a job in every cluster (how it
names them is log 80); and a write without its
lock is ignored and recorded. The aperture reads and writes memory within a line, as the banker does in HBM4 (log 18); a read of a register of another width, or
misaligned, gives zeros and is recorded; the debug port writes and reads the register map as the banker does, reads and writes the registers
and the SRAM of a firmware processor and the registers of a held context, and lets that go on (its operations are the model's choice, log 83); an
image that passes its check is started, and another one is recorded. (R327, R420, R427, R428, R429, R430, R431, R433, R443, R445, R447, R454.) -/
def Obligations.RegisterMap : Prop :=
  (∀ (s : State) (q : Fin 256) (v : Nat), s.input.who ≤ 2 → s.input.size = 4 → s.input.value = v → v < 4294967296 →
    (s.input.addr = 0x100000 + 64 * q.val + 28 →
      (let d (a b : Nat) : Nat := (a + 4294967296 - b) % 4294967296
       let k : Queue := s.queue q
       k.head < 4294967296 → k.tail < 4294967296 → k.logsz < 16 →
         (d v k.head ≤ k.size ∧ d v k.tail ≤ k.size →
           (holdsLock s s.input.who 0 = false → exec .tailWrite s = .next (s.modQueue q fun _ => { k with tail := v }).settled) ∧
           ∃ k' : Queue, exec .tailWrite s = .next (s.modQueue q fun _ => k').settled ∧ k'.tail = v ∧ k'.head = k.head ∧ k'.halt = k.halt ∧
             k'.hcause = k.hcause ∧ k'.malcnt = k.malcnt ∧ k'.stack = k.stack ∧ k'.logsz = k.logsz) ∧
         (¬(d v k.head ≤ k.size ∧ d v k.tail ≤ k.size) → ∃ s', exec .tailWrite s = .next s' ∧ s'.mem = s.mem ∧
           s'.errCount = (s.errCount + 1) % 4294967296 ∧ (s'.queue q).tail = k.tail ∧ (s'.queue q).head = k.head ∧
           (s'.queue q).halt = true ∧ (s'.queue q).hcause = 4 ∧ (s'.queue q).malcnt = min (k.malcnt + 1) 0xFFFFFFFF ∧
           ∀ j : Fin 256, j ≠ q → s'.queue j = s.queue j))) ∧
    (s.input.addr = 0x100000 + 64 * q.val + 8 → v.testBit 7 = true → holdsLock s s.input.who 0 = true →
      ∃ k' : Queue, exec .haltClear s = .next (s.modQueue q fun _ => k').settled ∧ k'.halt = false ∧ k'.hcause = (s.queue q).hcause ∧
        k'.malcnt = (s.queue q).malcnt ∧ k'.tail = (s.queue q).tail)) ∧
  (∀ (s : State) (l : Fin 16),
    (s.input.who ≤ 2 → s.input.size = 8 → s.input.addr = 0x10000 + 8 * l.val → s.input.value = 0 → (s.hsems.get l).owner.val = s.input.who + 1 →
      (let h : HsemLock := s.hsems.get l
       exec .hsemRelease s = .next ({ s with hsems := s.hsems.set l { h with owner := 0 } } : State).settled)) ∧
    (s.input.addr = l.val →
      (let h : HsemLock := s.hsems.get l
       (s.input.flag = false → s.input.who ≤ 2 →
         ∃ s', exec .hsemTake s = .next s' ∧ s'.mem = s.mem ∧ s'.answer = natLe 8 h.owner.val ∧
           (s'.hsems.get l).owner.val = if h.owner = 0 then s.input.who + 1 else h.owner.val) ∧
       (s.input.flag = true → h.owner = 0 →
         ∃ s', exec .hsemTake s = .next s' ∧ (s'.hsems.get l).toggle = 1 - h.toggle ∧
           (h.toggle = 0 → (s'.hsems.get l).owner = 1 ∧ s'.answer = natLe 8 0 ++ natLe 8 1) ∧
           (h.toggle = 1 → (s'.hsems.get l).owner = 2 ∧ s'.answer = natLe 8 2 ++ natLe 8 0))))) ∧
  (∀ s : State, s.input.who ≤ 2 → s.input.size = 8 → s.input.value < 2 ^ 64 → holdsLock s s.input.who 2 = true →
    (s.input.addr = 0x100 →
      (∀ m, modeOf (s.input.value % 4) = some m → exec .pwrmodeWrite s = .next ({ s with req := m, pend := true } : State).settled) ∧
      (s.input.value % 4 = 3 → exec .pwrmodeWrite s = .next s.settled)) ∧
    (s.input.addr = 0x10 →
      (s.input.value % 2 = 0 → exec .resetRequest s = .next ({ s with asked := true } : State).settled) ∧
      (s.input.value % 2 = 1 → exec .resetRequest s = .next s.settled))) ∧
  (∀ (s : State) (q : Fin 256), s.input.who ≤ 1 → s.input.size = 8 → s.input.value < 2 ^ 64 → s.input.addr = 0x140000 + 16 * q.val →
    (holdsLock s s.input.who 0 = true → ∃ s', exec .registerWrite s = .next s' ∧ s'.mem = s.mem ∧
      (s'.queue q).budget = s.input.value % 4294967296 ∧ (s'.queue q).per = perOf (s.input.value / 4294967296 % 8) ∧
      ((s.queue q).due = none → (s'.queue q).used = (s.queue q).used) ∧ ((s'.queue q).spent = true → (s'.queue q).desch = true) ∧
      ∀ j : Fin 256, j ≠ q → s'.queue j = s.queue j) ∧
    (holdsLock s s.input.who 0 = false → ∃ s', exec .registerWrite s = .next s' ∧ s'.queues = s.queues ∧
      s'.errCount = (s.errCount + 1) % 4294967296)) ∧
  (∀ s s1 : State, s.input.who < 51 → (s.input.who = 2 → s.input.nums = []) → s.input.value < 2 ^ (8 * s.input.size) →
    writeRow s.input.addr s.input.size s.input.value = .plain →
    Runs (regWrite s.input.who s.input.addr s.input.size s.input.value) s () s1 → exec .registerWrite s = .next s1.settled) ∧
  (∀ (s : State) (d : Fin 8),
    (∀ k, s.input.who = 2 → s.input.nums = [] → s.input.size = 8 → k < 131072 → s.input.addr = 0x1000000 + 0x100000 * d.val + 8 * k →
      s.input.value < 2 ^ 64 →
      (let r := Config.dieLayout k
       exec .registerWrite s = .next (setDieDw d r.1 r.2 (splice (dieDw s d r.1 r.2) 0 8 s.input.value) s).settled)) ∧
    (∀ v, ((setDieDw d 0 0 v s).dies.get d).poolHbm = v ∧ ((setDieDw d 0 1 v s).dies.get d).poolNet = v ∧
      (setDieDw d 0 0 v s).mem = s.mem ∧ (setDieDw d 0 1 v s).mem = s.mem) ∧
    (∀ hb n, s.input.who = 2 → s.input.nums = [3, d.val, hb, n] →
      ∃ s', exec .registerWrite s = .next s' ∧ s'.mem = s.mem ∧ (s'.dies.get d).poolHbm = hb ∧ (s'.dies.get d).poolNet = n)) ∧
  (∀ (s : State) (job : Nat) (j : Job), s.input.who = 2 → s.input.nums = [8, job] → s.job? job = some j →
    exec .registerWrite s = .next (cancelJob job s).settled) ∧
  (∀ s : State, (s.input.who < 2 ∨ (s.input.who = 2 ∧ isHbm s.input.addr = true)) → onMap s.input.addr = true → s.input.addr < 0xFC00000000 →
    (s.input.flag = true → s.input.bytes ≠ [] → s.input.addr % 64 + s.input.bytes.length ≤ 64 → s.MemOk →
      (∀ j, j < s.input.bytes.length → s.carveAt (s.input.addr + j) = none) → ∃ s', exec .hostMemoryAccess s = .next s' ∧
        cellsRead s'.mem s.input.addr s.input.bytes.length = s.input.bytes ∧ SameOutside s.input.addr s.input.bytes.length s s' ∧
        s'.tags = s.tags) ∧
    (s.input.flag = false → 1 ≤ s.input.size → s.input.addr % 64 + s.input.size ≤ 64 → s.Readable →
      (∀ j, j < s.input.size → s.carveAt (s.input.addr + j) = none) →
      exec .hostMemoryAccess s = .next ({ s with answer := cellsRead s.mem s.input.addr s.input.size } : State).settled)) ∧
  (∀ s : State, s.input.who < 2 → s.input.flag = false → 0xFC00000000 ≤ s.input.addr → s.input.addr < 0xFC10000000 →
    ¬((s.input.size = 4 ∨ s.input.size = 8) ∧ s.input.addr % s.input.size = 0) →
    ∃ s', exec .hostMemoryAccess s = .next s' ∧ s'.answer = List.replicate s.input.size 0 ∧ s'.errCount = (s.errCount + 1) % 4294967296) ∧
  (∀ (s : State) (t : TileNo) (c : SlotNo) (x : Ctx) (n : Fin 48), s.input.who = 2 → s.ctx? t c = some x → x.run = .debug →
    (s.input.nums = [t.val, c.val, 0, n.val] →
      (s.input.flag = false → exec .debugAccess s = .next ({ s with answer := natLe 8 (x.regs.get n).toNat } : State).settled) ∧
      (s.input.flag = true → exec .debugAccess s =
        .next (s.modCtx t c fun y => y.setReg n (BitVec.ofNat 64 s.input.value)).settled)) ∧
    (∀ k : Fin 8, s.input.nums = [t.val, c.val, 8, k.val] →
      (s.input.flag = false → exec .debugAccess s = .next ({ s with answer := natLe 8 (x.qs.get k).toNat } : State).settled) ∧
      (s.input.flag = true → exec .debugAccess s =
        .next (s.modCtx t c fun y => { y with qs := y.qs.set k (BitVec.ofNat 16 s.input.value) }).settled)) ∧
    (∀ k : Fin 16, s.input.nums = [t.val, c.val, 9, k.val] →
      (s.input.flag = false → exec .debugAccess s = .next ({ s with answer := natLe 8 (x.reloc.get k).toNat } : State).settled) ∧
      (s.input.flag = true → exec .debugAccess s =
        .next (s.modCtx t c fun y => { y with reloc := y.reloc.set k (BitVec.ofNat 64 s.input.value) }).settled)) ∧
    (∀ r, s.input.nums = [t.val, c.val, 6, 0] → x.leafTrap = some r → exec .debugAccess s =
      .next (resumeStep t c (s.modCtx t c fun y => { y with run := .run, pc := r.epc, leafTrap := none })).settled)) ∧
  (∀ s s1 : State, s.input.who = 0 → (s.input.size = 4 ∨ s.input.size = 8) → s.input.addr % s.input.size = 0 →
    (s.input.flag = true → Runs (regWrite 2 s.input.addr s.input.size (s.input.value % 2 ^ (8 * s.input.size))) s () s1 →
      exec .debugAccess s = .next s1.settled) ∧
    (∀ v, s.input.flag = false → Runs (regRead 2 s.input.addr s.input.size) s v s1 →
      exec .debugAccess s = .next ({ s1 with answer := natLe s.input.size v } : State).settled)) ∧
  (∀ (s : State) (p : Fin 49) (k : Nat), s.input.who = 1 →
    (s.input.nums = [p.val, 0, k] → s.input.flag = true → 0 < k → k < 32 → s.input.value < 2 ^ 32 →
      ∃ s', exec .debugAccess s = .next s' ∧ s'.mem = s.mem ∧ (s'.procs.get p).x.toList[k]? = some (BitVec.ofNat 64 s.input.value)) ∧
    (s.input.nums = [p.val, 0, k] → s.input.flag = false → exec .debugAccess s =
      .next ({ s with answer := natLe 8 ((s.procs.get p).x.toList[k]?.getD 0).toNat } : State).settled) ∧
    (s.input.nums = [p.val, 5, k] → s.input.flag = false → k + s.input.size ≤ (if p = 0 then 4194304 else 262144) → exec .debugAccess s =
      .next ({ s with answer := cellsRead (s.procs.get p).sram k s.input.size } : State).settled)) ∧
  (∀ s : State, s.input.who ≤ 2 → s.input.addr + s.input.size ≤ 67108864 → (s.hsems.get 4).owner.val = s.input.who + 1 →
    (let img := cellsRead s.mem (mailAt s.input.addr) s.input.size
     (Config.imageTarget img % 2 = 0 → imageOk s img = true →
       exec .firmwareImageLoad s = .next ({ s with procs := s.procs.set 0 (startProc 0 img) } : State).settled) ∧
     (∀ c : Fin 48, Config.imageTarget img % 2 ≠ 0 → s.input.value = c.val → imageOk s img = true →
       exec .firmwareImageLoad s = .next ({ s with procs := s.procs.set c.succ (startProc c.succ img) } : State).settled) ∧
     (imageOk s img = false → (Config.imageTarget img % 2 = 0 ∨ s.input.value < 48) →
       ∃ s', exec .firmwareImageLoad s = .next s' ∧ s'.procs = s.procs ∧ s'.errCount = (s.errCount + 1) % 4294967296)))

/-- A cold reset puts everything at its reset value but host memory, the fuses and what the model keeps of the run (log 87), a warm one keeps
HBM4 with its save areas, the error records and the counters; the management interface reads its registers; a port reset drops its flits and frees
its locks. The bring-up goes from step to step:
image check, HBM training, leaf boot, and at a frame tick, with all that the tick does, READY in the fastest mode that LIMIT allows, unless the tick
trips the clocks. A frame tick is held back by timetabled
records (log 76), else FRAME advances, a step down that is due happens with its change of mode, and a reading above 110 degrees trips; the thermal
limit steps up after a second below 90 degrees, where PEND is then 1 only if a change waits; a trip stops the clocks, and then only a
reset is taken: any other turn is the model's stop (log 20). A corrected error of HBM4 is recorded, an uncorrectable one makes its code word unreadable and is recorded,
and an uncorrectable one of a pool or a tile's store makes its code word unreadable without a record, and so does one of a tile's cache (log 134). (R101, R329, R430, R447, R449, R450,
R451, R452, R453, R455.) -/
def Obligations.ResetsAndTicks : Prop :=
  (∀ s : State,
    exec .coldReset s = .next (coldReset s).settled ∧ exec .warmReset s = .next (warmReset s).settled ∧
    (s.input.flag = false → s.input.value % 2 = 1 → exec .managementReset s = .next (coldReset s).settled) ∧
    (s.input.flag = false → s.input.value % 2 = 0 → exec .managementReset s = .next (warmReset s).settled) ∧
    (s.input.flag = true → ∃ v, exec .managementReset s = .next ({ s with answer := natLe 8 v } : State).settled ∧
      (s.input.addr = 0 → v = 0x7400) ∧ (s.input.addr = 1 → v = statusWord s) ∧
      (∀ d : Fin 8, s.input.addr = 0x10 + d.val → v = (s.dies.get d).temp) ∧ (s.input.addr = 0x20 → v = s.power) ∧
      (s.input.addr = 0x21 → v = s.flow)) ∧
    coldReset s = { State.reset with agenda := s.agenda, free := s.free + 1, fuses := s.fuses, mem := (coldReset s).mem } ∧
    (s.MemOk → (∀ k, 2 ^ 64 ≤ k → cellGet (coldReset s).mem k = cellGet s.mem k) ∧
      (∀ k, hbmEnd ≤ k → k < 2 ^ 64 → cellGet (coldReset s).mem k = 0)) ∧
    warmReset s = { State.reset with
      agenda := s.agenda, free := s.free, fuses := s.fuses, mem := (warmReset s).mem, carve := s.carve
      tags := s.tags.filter fun g => isHbm (256 * g.1), poison := s.poison.filter isHbm, forms := s.forms
      errRing := s.errRing, lostRec := s.lostRec, errCount := s.errCount, counters := s.counters } ∧
    (s.MemOk → (∀ k, k < hbmEnd → cellGet (warmReset s).mem k = cellGet s.mem k) ∧
      (∀ k, hbmEnd ≤ k → k < 2 ^ 64 → cellGet (warmReset s).mem k = 0))) ∧
  (∀ (s : State) (p : Fin 2), s.input.who = p.val →
    ∃ s', exec .portReset s = .next s' ∧ s'.mem = s.mem ∧ s'.ports.get ⟨16 + p.val, by omega⟩ = {} ∧
      ∀ l : Fin 16, (s'.hsems.get l).owner = if (s.hsems.get l).owner.val = p.val + 1 then 0 else (s.hsems.get l).owner) ∧
  (∀ s : State,
    (s.boot = 0 → s.bootFail = false →
      (imageOk s s.input.bytes = true → Config.imageTarget s.input.bytes % 2 = 0 →
        exec .bankerBoot s = .next ({ s with boot := 2, procs := s.procs.set 0 (startProc 0 s.input.bytes) } : State).settled) ∧
      (imageOk s s.input.bytes = false → ∃ s', exec .bankerBoot s = .next s' ∧ s'.bootFail = true ∧ s'.boot = 0 ∧ s'.procs = s.procs)) ∧
    (s.boot = 2 → ∃ s', exec .hbmTraining s = .next s' ∧ s'.boot = 3 ∧ ∀ k, k ∈ s'.fenced ↔ k ∈ s.input.nums ∧ k < 16) ∧
    (s.boot = 3 → ∃ s', exec .leafBoot s = .next s' ∧ s'.boot = 5 ∧ s'.domain = s.input.value % 128 ∧
      s'.procs.get 0 = s.procs.get 0 ∧
      (imageOk s s.input.bytes = true → Config.imageTarget s.input.bytes % 2 = 1 →
        ∀ c : Fin 48, s'.procs.get c.succ = startProc c.succ s.input.bytes) ∧
      (imageOk s s.input.bytes = false → s'.procs = s.procs)) ∧
    (s.boot = 5 →
      (let due := decide (s.frameAt + 2048 ≤ s.now)
       let trips := s.tripped || (due && ((takeTemps s.input.nums s).above 110 || decide ((takeTemps s.input.nums s).flow < 20)))
       let limit := if due = true ∧ s.hot = true then s.mode.slower else s.limit
       due = true ∨ (s.frame ≠ 0 ∧ s.frameT = s.time) →
         (trips = false → ∃ s', exec .bringupReady s = .next s' ∧ s'.boot = 6 ∧ s'.ready = true ∧ s'.mode = slowerOf .full limit ∧
           s'.limit = limit ∧ s'.req = .full ∧ s'.pend = false ∧ s'.mem = s.mem) ∧
         (trips = true → ∃ s', exec .bringupReady s = .next s' ∧ s'.boot = 5 ∧ s'.ready = s.ready ∧ s'.tripped = true ∧ s'.mem = s.mem)))) ∧
  (∀ s : State, s.frameAt + 2048 ≤ s.now →
    (holders s ≠ [] → exec .frameTick s = .next ({ noteHolders s with slips := (s.slips ++ holders s).dedup } : State).settled) ∧
    (holders s = [] → ∃ s', exec .frameTick s = .next s' ∧ s'.frame = s.frame + 1 ∧ s'.slips = [] ∧ s'.frameT = s.time ∧ s'.mem = s.mem ∧
      (s.hot = true → s'.limit = s.mode.slower ∧ s'.mode = slowerOf s.req s.mode.slower) ∧
      (s.hot = false → s'.limit = s.limit ∧ s'.mode = s.mode) ∧
      s'.tripped = (s.tripped || (takeTemps s.input.nums s).above 110 || decide ((takeTemps s.input.nums s).flow < 20)))) ∧
  (∀ (s : State) (n : Nat), s.coolAt = some n → s.limit ≠ .full → n + 198000000000 ≤ s.time →
    ∃ s', exec .thermalStepUp s = .next s' ∧ s'.limit = s.limit.faster ∧
      s'.pend = (s.pend || slowerOf s.req s.limit.faster != s.mode) ∧ s'.errCount = (s.errCount + 1) % 4294967296) ∧
  (∀ s : State, ((takeTemps s.input.nums s).above 110 = true ∨ s.input.value < 20) →
    ∃ s', exec .thermalTrip s = .next s' ∧ s'.tripped = true ∧ s'.mem = s.mem ∧ s'.errCount = (s.errCount + 1) % 4294967296) ∧
  (∀ (s : State) (t : TileNo) (i : Instr) (inp : Input) (r : List Turn), s.tripped = true →
    (s.agenda = .dealer t :: r → step s = .fault .clocksStopped) ∧
    (s.agenda = .event i inp :: r → isReset i = false → step s = .fault .clocksStopped) ∧
    (s.agenda = .event i inp :: r → isReset i = true → step s = exec i { s with agenda := r, input := inp })) ∧
  (∀ s : State, s.input.size ≠ 1 → s.input.size ≠ 2 → isHbm s.input.addr = true →
    (s.input.flag = false → ∃ s', exec .errorCheckAndScrub s = .next s' ∧ s'.mem = s.mem ∧ s'.poison = s.poison ∧
      s'.errCount = (s.errCount + 1) % 4294967296) ∧
    (s.input.flag = true → ∃ s', exec .errorCheckAndScrub s = .next s' ∧ codeWord s.input.addr ∈ s'.poison ∧
      s'.errCount = (s.errCount + 1) % 4294967296)) ∧
  (∀ s : State, s.input.size ≠ 1 → s.input.size ≠ 2 → isHbm s.input.addr = false → s.input.addr < mailAt 0 → s.input.flag = true →
    codeWord s.input.addr ∉ s.poison →
    exec .errorCheckAndScrub s = .next ({ s with poison := codeWord s.input.addr :: s.poison } : State).settled) ∧
  (∀ (s : State) (t : TileNo), (s.input.size = 1 ∨ s.input.size = 2) → s.input.who = t.val →
    (s.input.flag = false → exec .errorCheckAndScrub s = .next s.settled) ∧
    (s.input.flag = true → exec .errorCheckAndScrub s =
      .next (s.setTile t (markCache (s.input.size == 2) s.input.addr (s.tile t))).settled))
end

