-- ==== Sys2Proof/Laws/State.lean ====
section
/-!
SUPPORT. Updates of the state and of a context, field by field: what each leaves as it was, and what a context reads as after its slot
was changed.
-/
namespace Sys2Proof.Machine

@[simp] theorem State.setTile_agenda (s : State) (t : TileNo) (x : Tile) : (s.setTile t x).agenda = s.agenda := rfl
@[simp] theorem State.setTile_input (s : State) (t : TileNo) (x : Tile) : (s.setTile t x).input = s.input := rfl
@[simp] theorem State.setTile_cur (s : State) (t : TileNo) (x : Tile) : (s.setTile t x).cur = s.cur := rfl
@[simp] theorem State.setTile_clusters (s : State) (t : TileNo) (x : Tile) : (s.setTile t x).clusters = s.clusters := rfl
@[simp] theorem State.setTile_dies (s : State) (t : TileNo) (x : Tile) : (s.setTile t x).dies = s.dies := rfl
@[simp] theorem State.setTile_mem (s : State) (t : TileNo) (x : Tile) : (s.setTile t x).mem = s.mem := rfl
@[simp] theorem State.setTile_poison (s : State) (t : TileNo) (x : Tile) : (s.setTile t x).poison = s.poison := rfl
@[simp] theorem State.setTile_tags (s : State) (t : TileNo) (x : Tile) : (s.setTile t x).tags = s.tags := rfl
@[simp] theorem State.setTile_carve (s : State) (t : TileNo) (x : Tile) : (s.setTile t x).carve = s.carve := rfl
@[simp] theorem State.setTile_pubs (s : State) (t : TileNo) (x : Tile) : (s.setTile t x).pubs = s.pubs := rfl
@[simp] theorem State.setTile_carried (s : State) (t : TileNo) (x : Tile) : (s.setTile t x).carried = s.carried := rfl
@[simp] theorem State.setTile_so (s : State) (t : TileNo) (x : Tile) : (s.setTile t x).so = s.so := rfl
@[simp] theorem State.setTile_hist (s : State) (t : TileNo) (x : Tile) : (s.setTile t x).hist = s.hist := rfl
@[simp] theorem State.setTile_wstamp (s : State) (t : TileNo) (x : Tile) : (s.setTile t x).wstamp = s.wstamp := rfl
@[simp] theorem State.setTile_frame (s : State) (t : TileNo) (x : Tile) : (s.setTile t x).frame = s.frame := rfl
@[simp] theorem State.setTile_frameAt (s : State) (t : TileNo) (x : Tile) : (s.setTile t x).frameAt = s.frameAt := rfl
@[simp] theorem State.setTile_jobs (s : State) (t : TileNo) (x : Tile) : (s.setTile t x).jobs = s.jobs := rfl
@[simp] theorem State.setTile_groups (s : State) (t : TileNo) (x : Tile) : (s.setTile t x).groups = s.groups := rfl
@[simp] theorem State.setTile_saved (s : State) (t : TileNo) (x : Tile) : (s.setTile t x).saved = s.saved := rfl
@[simp] theorem State.setTile_forms (s : State) (t : TileNo) (x : Tile) : (s.setTile t x).forms = s.forms := rfl
@[simp] theorem State.setTile_errRing (s : State) (t : TileNo) (x : Tile) : (s.setTile t x).errRing = s.errRing := rfl
@[simp] theorem State.setTile_lostRec (s : State) (t : TileNo) (x : Tile) : (s.setTile t x).lostRec = s.lostRec := rfl
@[simp] theorem State.setTile_mode (s : State) (t : TileNo) (x : Tile) : (s.setTile t x).mode = s.mode := rfl
@[simp] theorem State.setTile_now (s : State) (t : TileNo) (x : Tile) : (s.setTile t x).now = s.now := rfl
@[simp] theorem State.setTile_time (s : State) (t : TileNo) (x : Tile) : (s.setTile t x).time = s.time := rfl
@[simp] theorem State.setTile_free (s : State) (t : TileNo) (x : Tile) : (s.setTile t x).free = s.free := rfl
@[simp] theorem State.setTile_reqs (s : State) (t : TileNo) (x : Tile) : (s.setTile t x).reqs = s.reqs := rfl
@[simp] theorem State.setTile_ungranted (s : State) (t : TileNo) (x : Tile) : (s.setTile t x).ungranted = s.ungranted := rfl
@[simp] theorem State.setTile_logs (s : State) (t : TileNo) (x : Tile) : (s.setTile t x).logs = s.logs := rfl
@[simp] theorem State.setTile_fuses (s : State) (t : TileNo) (x : Tile) : (s.setTile t x).fuses = s.fuses := rfl
@[simp] theorem State.setTile_tripped (s : State) (t : TileNo) (x : Tile) : (s.setTile t x).tripped = s.tripped := rfl
@[simp] theorem State.setTile_links (s : State) (t : TileNo) (x : Tile) : (s.setTile t x).links = s.links := rfl
@[simp] theorem State.setTile_outWin (s : State) (t : TileNo) (x : Tile) : (s.setTile t x).outWin = s.outWin := rfl
@[simp] theorem State.setTile_inWin (s : State) (t : TileNo) (x : Tile) : (s.setTile t x).inWin = s.inWin := rfl
@[simp] theorem State.setTile_domain (s : State) (t : TileNo) (x : Tile) : (s.setTile t x).domain = s.domain := rfl
@[simp] theorem State.setTile_routes (s : State) (t : TileNo) (x : Tile) : (s.setTile t x).routes = s.routes := rfl
@[simp] theorem State.setTile_msgs (s : State) (t : TileNo) (x : Tile) : (s.setTile t x).msgs = s.msgs := rfl
@[simp] theorem State.setTile_msgNo (s : State) (t : TileNo) (x : Tile) : (s.setTile t x).msgNo = s.msgNo := rfl
@[simp] theorem State.setTile_bindNo (s : State) (t : TileNo) (x : Tile) : (s.setTile t x).bindNo = s.bindNo := rfl
@[simp] theorem State.setTile_ports (s : State) (t : TileNo) (x : Tile) : (s.setTile t x).ports = s.ports := rfl
@[simp] theorem State.setTile_shares (s : State) (t : TileNo) (x : Tile) : (s.setTile t x).shares = s.shares := rfl
@[simp] theorem State.setTile_weights (s : State) (t : TileNo) (x : Tile) : (s.setTile t x).weights = s.weights := rfl
@[simp] theorem State.setTile_queues (s : State) (t : TileNo) (x : Tile) : (s.setTile t x).queues = s.queues := rfl
@[simp] theorem State.setTile_models (s : State) (t : TileNo) (x : Tile) : (s.setTile t x).models = s.models := rfl
@[simp] theorem State.setTile_hsems (s : State) (t : TileNo) (x : Tile) : (s.setTile t x).hsems = s.hsems := rfl
@[simp] theorem State.setTile_counters (s : State) (t : TileNo) (x : Tile) : (s.setTile t x).counters = s.counters := rfl
@[simp] theorem State.setTile_errCount (s : State) (t : TileNo) (x : Tile) : (s.setTile t x).errCount = s.errCount := rfl
@[simp] theorem State.setTile_errSel (s : State) (t : TileNo) (x : Tile) : (s.setTile t x).errSel = s.errSel := rfl
@[simp] theorem State.setTile_req (s : State) (t : TileNo) (x : Tile) : (s.setTile t x).req = s.req := rfl
@[simp] theorem State.setTile_limit (s : State) (t : TileNo) (x : Tile) : (s.setTile t x).limit = s.limit := rfl
@[simp] theorem State.setTile_pend (s : State) (t : TileNo) (x : Tile) : (s.setTile t x).pend = s.pend := rfl
@[simp] theorem State.setTile_hot (s : State) (t : TileNo) (x : Tile) : (s.setTile t x).hot = s.hot := rfl
@[simp] theorem State.setTile_coolAt (s : State) (t : TileNo) (x : Tile) : (s.setTile t x).coolAt = s.coolAt := rfl
@[simp] theorem State.setTile_power (s : State) (t : TileNo) (x : Tile) : (s.setTile t x).power = s.power := rfl
@[simp] theorem State.setTile_flow (s : State) (t : TileNo) (x : Tile) : (s.setTile t x).flow = s.flow := rfl
@[simp] theorem State.setTile_boot (s : State) (t : TileNo) (x : Tile) : (s.setTile t x).boot = s.boot := rfl
@[simp] theorem State.setTile_ready (s : State) (t : TileNo) (x : Tile) : (s.setTile t x).ready = s.ready := rfl
@[simp] theorem State.setTile_bootFail (s : State) (t : TileNo) (x : Tile) : (s.setTile t x).bootFail = s.bootFail := rfl
@[simp] theorem State.setTile_fenced (s : State) (t : TileNo) (x : Tile) : (s.setTile t x).fenced = s.fenced := rfl
@[simp] theorem State.setTile_asked (s : State) (t : TileNo) (x : Tile) : (s.setTile t x).asked = s.asked := rfl
@[simp] theorem State.setTile_procs (s : State) (t : TileNo) (x : Tile) : (s.setTile t x).procs = s.procs := rfl
@[simp] theorem State.setTile_frameT (s : State) (t : TileNo) (x : Tile) : (s.setTile t x).frameT = s.frameT := rfl
@[simp] theorem State.setTile_slips (s : State) (t : TileNo) (x : Tile) : (s.setTile t x).slips = s.slips := rfl
@[simp] theorem State.setTile_answer (s : State) (t : TileNo) (x : Tile) : (s.setTile t x).answer = s.answer := rfl
@[simp] theorem State.setTile_notices (s : State) (t : TileNo) (x : Tile) : (s.setTile t x).notices = s.notices := rfl
@[simp] theorem State.setSlot_agenda (s : State) (t : TileNo) (c : SlotNo) (x : Option Ctx) : (s.setSlot t c x).agenda = s.agenda := rfl
@[simp] theorem State.setSlot_input (s : State) (t : TileNo) (c : SlotNo) (x : Option Ctx) : (s.setSlot t c x).input = s.input := rfl
@[simp] theorem State.setSlot_cur (s : State) (t : TileNo) (c : SlotNo) (x : Option Ctx) : (s.setSlot t c x).cur = s.cur := rfl
@[simp] theorem State.setSlot_clusters (s : State) (t : TileNo) (c : SlotNo) (x : Option Ctx) : (s.setSlot t c x).clusters = s.clusters := rfl
@[simp] theorem State.setSlot_dies (s : State) (t : TileNo) (c : SlotNo) (x : Option Ctx) : (s.setSlot t c x).dies = s.dies := rfl
@[simp] theorem State.setSlot_mem (s : State) (t : TileNo) (c : SlotNo) (x : Option Ctx) : (s.setSlot t c x).mem = s.mem := rfl
@[simp] theorem State.setSlot_poison (s : State) (t : TileNo) (c : SlotNo) (x : Option Ctx) : (s.setSlot t c x).poison = s.poison := rfl
@[simp] theorem State.setSlot_tags (s : State) (t : TileNo) (c : SlotNo) (x : Option Ctx) : (s.setSlot t c x).tags = s.tags := rfl
@[simp] theorem State.setSlot_carve (s : State) (t : TileNo) (c : SlotNo) (x : Option Ctx) : (s.setSlot t c x).carve = s.carve := rfl
@[simp] theorem State.setSlot_pubs (s : State) (t : TileNo) (c : SlotNo) (x : Option Ctx) : (s.setSlot t c x).pubs = s.pubs := rfl
@[simp] theorem State.setSlot_carried (s : State) (t : TileNo) (c : SlotNo) (x : Option Ctx) : (s.setSlot t c x).carried = s.carried := rfl
@[simp] theorem State.setSlot_so (s : State) (t : TileNo) (c : SlotNo) (x : Option Ctx) : (s.setSlot t c x).so = s.so := rfl
@[simp] theorem State.setSlot_hist (s : State) (t : TileNo) (c : SlotNo) (x : Option Ctx) : (s.setSlot t c x).hist = s.hist := rfl
@[simp] theorem State.setSlot_wstamp (s : State) (t : TileNo) (c : SlotNo) (x : Option Ctx) : (s.setSlot t c x).wstamp = s.wstamp := rfl
@[simp] theorem State.setSlot_frame (s : State) (t : TileNo) (c : SlotNo) (x : Option Ctx) : (s.setSlot t c x).frame = s.frame := rfl
@[simp] theorem State.setSlot_frameAt (s : State) (t : TileNo) (c : SlotNo) (x : Option Ctx) : (s.setSlot t c x).frameAt = s.frameAt := rfl
@[simp] theorem State.setSlot_jobs (s : State) (t : TileNo) (c : SlotNo) (x : Option Ctx) : (s.setSlot t c x).jobs = s.jobs := rfl
@[simp] theorem State.setSlot_groups (s : State) (t : TileNo) (c : SlotNo) (x : Option Ctx) : (s.setSlot t c x).groups = s.groups := rfl
@[simp] theorem State.setSlot_saved (s : State) (t : TileNo) (c : SlotNo) (x : Option Ctx) : (s.setSlot t c x).saved = s.saved := rfl
@[simp] theorem State.setSlot_forms (s : State) (t : TileNo) (c : SlotNo) (x : Option Ctx) : (s.setSlot t c x).forms = s.forms := rfl
@[simp] theorem State.setSlot_errRing (s : State) (t : TileNo) (c : SlotNo) (x : Option Ctx) : (s.setSlot t c x).errRing = s.errRing := rfl
@[simp] theorem State.setSlot_lostRec (s : State) (t : TileNo) (c : SlotNo) (x : Option Ctx) : (s.setSlot t c x).lostRec = s.lostRec := rfl
@[simp] theorem State.setSlot_mode (s : State) (t : TileNo) (c : SlotNo) (x : Option Ctx) : (s.setSlot t c x).mode = s.mode := rfl
@[simp] theorem State.setSlot_now (s : State) (t : TileNo) (c : SlotNo) (x : Option Ctx) : (s.setSlot t c x).now = s.now := rfl
@[simp] theorem State.setSlot_time (s : State) (t : TileNo) (c : SlotNo) (x : Option Ctx) : (s.setSlot t c x).time = s.time := rfl
@[simp] theorem State.setSlot_free (s : State) (t : TileNo) (c : SlotNo) (x : Option Ctx) : (s.setSlot t c x).free = s.free := rfl
@[simp] theorem State.setSlot_reqs (s : State) (t : TileNo) (c : SlotNo) (x : Option Ctx) : (s.setSlot t c x).reqs = s.reqs := rfl
@[simp] theorem State.setSlot_ungranted (s : State) (t : TileNo) (c : SlotNo) (x : Option Ctx) : (s.setSlot t c x).ungranted = s.ungranted := rfl
@[simp] theorem State.setSlot_logs (s : State) (t : TileNo) (c : SlotNo) (x : Option Ctx) : (s.setSlot t c x).logs = s.logs := rfl
@[simp] theorem State.setSlot_fuses (s : State) (t : TileNo) (c : SlotNo) (x : Option Ctx) : (s.setSlot t c x).fuses = s.fuses := rfl
@[simp] theorem State.setSlot_tripped (s : State) (t : TileNo) (c : SlotNo) (x : Option Ctx) : (s.setSlot t c x).tripped = s.tripped := rfl
@[simp] theorem State.setSlot_links (s : State) (t : TileNo) (c : SlotNo) (x : Option Ctx) : (s.setSlot t c x).links = s.links := rfl
@[simp] theorem State.setSlot_outWin (s : State) (t : TileNo) (c : SlotNo) (x : Option Ctx) : (s.setSlot t c x).outWin = s.outWin := rfl
@[simp] theorem State.setSlot_inWin (s : State) (t : TileNo) (c : SlotNo) (x : Option Ctx) : (s.setSlot t c x).inWin = s.inWin := rfl
@[simp] theorem State.setSlot_domain (s : State) (t : TileNo) (c : SlotNo) (x : Option Ctx) : (s.setSlot t c x).domain = s.domain := rfl
@[simp] theorem State.setSlot_routes (s : State) (t : TileNo) (c : SlotNo) (x : Option Ctx) : (s.setSlot t c x).routes = s.routes := rfl
@[simp] theorem State.setSlot_msgs (s : State) (t : TileNo) (c : SlotNo) (x : Option Ctx) : (s.setSlot t c x).msgs = s.msgs := rfl
@[simp] theorem State.setSlot_msgNo (s : State) (t : TileNo) (c : SlotNo) (x : Option Ctx) : (s.setSlot t c x).msgNo = s.msgNo := rfl
@[simp] theorem State.setSlot_bindNo (s : State) (t : TileNo) (c : SlotNo) (x : Option Ctx) : (s.setSlot t c x).bindNo = s.bindNo := rfl
@[simp] theorem State.setSlot_ports (s : State) (t : TileNo) (c : SlotNo) (x : Option Ctx) : (s.setSlot t c x).ports = s.ports := rfl
@[simp] theorem State.setSlot_shares (s : State) (t : TileNo) (c : SlotNo) (x : Option Ctx) : (s.setSlot t c x).shares = s.shares := rfl
@[simp] theorem State.setSlot_weights (s : State) (t : TileNo) (c : SlotNo) (x : Option Ctx) : (s.setSlot t c x).weights = s.weights := rfl
@[simp] theorem State.setSlot_queues (s : State) (t : TileNo) (c : SlotNo) (x : Option Ctx) : (s.setSlot t c x).queues = s.queues := rfl
@[simp] theorem State.setSlot_models (s : State) (t : TileNo) (c : SlotNo) (x : Option Ctx) : (s.setSlot t c x).models = s.models := rfl
@[simp] theorem State.setSlot_hsems (s : State) (t : TileNo) (c : SlotNo) (x : Option Ctx) : (s.setSlot t c x).hsems = s.hsems := rfl
@[simp] theorem State.setSlot_counters (s : State) (t : TileNo) (c : SlotNo) (x : Option Ctx) : (s.setSlot t c x).counters = s.counters := rfl
@[simp] theorem State.setSlot_errCount (s : State) (t : TileNo) (c : SlotNo) (x : Option Ctx) : (s.setSlot t c x).errCount = s.errCount := rfl
@[simp] theorem State.setSlot_errSel (s : State) (t : TileNo) (c : SlotNo) (x : Option Ctx) : (s.setSlot t c x).errSel = s.errSel := rfl
@[simp] theorem State.setSlot_req (s : State) (t : TileNo) (c : SlotNo) (x : Option Ctx) : (s.setSlot t c x).req = s.req := rfl
@[simp] theorem State.setSlot_limit (s : State) (t : TileNo) (c : SlotNo) (x : Option Ctx) : (s.setSlot t c x).limit = s.limit := rfl
@[simp] theorem State.setSlot_pend (s : State) (t : TileNo) (c : SlotNo) (x : Option Ctx) : (s.setSlot t c x).pend = s.pend := rfl
@[simp] theorem State.setSlot_hot (s : State) (t : TileNo) (c : SlotNo) (x : Option Ctx) : (s.setSlot t c x).hot = s.hot := rfl
@[simp] theorem State.setSlot_coolAt (s : State) (t : TileNo) (c : SlotNo) (x : Option Ctx) : (s.setSlot t c x).coolAt = s.coolAt := rfl
@[simp] theorem State.setSlot_power (s : State) (t : TileNo) (c : SlotNo) (x : Option Ctx) : (s.setSlot t c x).power = s.power := rfl
@[simp] theorem State.setSlot_flow (s : State) (t : TileNo) (c : SlotNo) (x : Option Ctx) : (s.setSlot t c x).flow = s.flow := rfl
@[simp] theorem State.setSlot_boot (s : State) (t : TileNo) (c : SlotNo) (x : Option Ctx) : (s.setSlot t c x).boot = s.boot := rfl
@[simp] theorem State.setSlot_ready (s : State) (t : TileNo) (c : SlotNo) (x : Option Ctx) : (s.setSlot t c x).ready = s.ready := rfl
@[simp] theorem State.setSlot_bootFail (s : State) (t : TileNo) (c : SlotNo) (x : Option Ctx) : (s.setSlot t c x).bootFail = s.bootFail := rfl
@[simp] theorem State.setSlot_fenced (s : State) (t : TileNo) (c : SlotNo) (x : Option Ctx) : (s.setSlot t c x).fenced = s.fenced := rfl
@[simp] theorem State.setSlot_asked (s : State) (t : TileNo) (c : SlotNo) (x : Option Ctx) : (s.setSlot t c x).asked = s.asked := rfl
@[simp] theorem State.setSlot_procs (s : State) (t : TileNo) (c : SlotNo) (x : Option Ctx) : (s.setSlot t c x).procs = s.procs := rfl
@[simp] theorem State.setSlot_frameT (s : State) (t : TileNo) (c : SlotNo) (x : Option Ctx) : (s.setSlot t c x).frameT = s.frameT := rfl
@[simp] theorem State.setSlot_slips (s : State) (t : TileNo) (c : SlotNo) (x : Option Ctx) : (s.setSlot t c x).slips = s.slips := rfl
@[simp] theorem State.setSlot_answer (s : State) (t : TileNo) (c : SlotNo) (x : Option Ctx) : (s.setSlot t c x).answer = s.answer := rfl
@[simp] theorem State.setSlot_notices (s : State) (t : TileNo) (c : SlotNo) (x : Option Ctx) : (s.setSlot t c x).notices = s.notices := rfl
@[simp] theorem State.modCtx_agenda (s : State) (t : TileNo) (c : SlotNo) (g : Ctx → Ctx) : (s.modCtx t c g).agenda = s.agenda := by
  unfold State.modCtx; split <;> rfl
@[simp] theorem State.modCtx_input (s : State) (t : TileNo) (c : SlotNo) (g : Ctx → Ctx) : (s.modCtx t c g).input = s.input := by
  unfold State.modCtx; split <;> rfl
@[simp] theorem State.modCtx_cur (s : State) (t : TileNo) (c : SlotNo) (g : Ctx → Ctx) : (s.modCtx t c g).cur = s.cur := by
  unfold State.modCtx; split <;> rfl
@[simp] theorem State.modCtx_clusters (s : State) (t : TileNo) (c : SlotNo) (g : Ctx → Ctx) : (s.modCtx t c g).clusters = s.clusters := by
  unfold State.modCtx; split <;> rfl
@[simp] theorem State.modCtx_dies (s : State) (t : TileNo) (c : SlotNo) (g : Ctx → Ctx) : (s.modCtx t c g).dies = s.dies := by
  unfold State.modCtx; split <;> rfl
@[simp] theorem State.modCtx_mem (s : State) (t : TileNo) (c : SlotNo) (g : Ctx → Ctx) : (s.modCtx t c g).mem = s.mem := by
  unfold State.modCtx; split <;> rfl
@[simp] theorem State.modCtx_poison (s : State) (t : TileNo) (c : SlotNo) (g : Ctx → Ctx) : (s.modCtx t c g).poison = s.poison := by
  unfold State.modCtx; split <;> rfl
@[simp] theorem State.modCtx_tags (s : State) (t : TileNo) (c : SlotNo) (g : Ctx → Ctx) : (s.modCtx t c g).tags = s.tags := by
  unfold State.modCtx; split <;> rfl
@[simp] theorem State.modCtx_carve (s : State) (t : TileNo) (c : SlotNo) (g : Ctx → Ctx) : (s.modCtx t c g).carve = s.carve := by
  unfold State.modCtx; split <;> rfl
@[simp] theorem State.modCtx_pubs (s : State) (t : TileNo) (c : SlotNo) (g : Ctx → Ctx) : (s.modCtx t c g).pubs = s.pubs := by
  unfold State.modCtx; split <;> rfl
@[simp] theorem State.modCtx_carried (s : State) (t : TileNo) (c : SlotNo) (g : Ctx → Ctx) : (s.modCtx t c g).carried = s.carried := by
  unfold State.modCtx; split <;> rfl
@[simp] theorem State.modCtx_so (s : State) (t : TileNo) (c : SlotNo) (g : Ctx → Ctx) : (s.modCtx t c g).so = s.so := by
  unfold State.modCtx; split <;> rfl
@[simp] theorem State.modCtx_hist (s : State) (t : TileNo) (c : SlotNo) (g : Ctx → Ctx) : (s.modCtx t c g).hist = s.hist := by
  unfold State.modCtx; split <;> rfl
@[simp] theorem State.modCtx_wstamp (s : State) (t : TileNo) (c : SlotNo) (g : Ctx → Ctx) : (s.modCtx t c g).wstamp = s.wstamp := by
  unfold State.modCtx; split <;> rfl
@[simp] theorem State.modCtx_frame (s : State) (t : TileNo) (c : SlotNo) (g : Ctx → Ctx) : (s.modCtx t c g).frame = s.frame := by
  unfold State.modCtx; split <;> rfl
@[simp] theorem State.modCtx_frameAt (s : State) (t : TileNo) (c : SlotNo) (g : Ctx → Ctx) : (s.modCtx t c g).frameAt = s.frameAt := by
  unfold State.modCtx; split <;> rfl
@[simp] theorem State.modCtx_jobs (s : State) (t : TileNo) (c : SlotNo) (g : Ctx → Ctx) : (s.modCtx t c g).jobs = s.jobs := by
  unfold State.modCtx; split <;> rfl
@[simp] theorem State.modCtx_groups (s : State) (t : TileNo) (c : SlotNo) (g : Ctx → Ctx) : (s.modCtx t c g).groups = s.groups := by
  unfold State.modCtx; split <;> rfl
@[simp] theorem State.modCtx_saved (s : State) (t : TileNo) (c : SlotNo) (g : Ctx → Ctx) : (s.modCtx t c g).saved = s.saved := by
  unfold State.modCtx; split <;> rfl
@[simp] theorem State.modCtx_forms (s : State) (t : TileNo) (c : SlotNo) (g : Ctx → Ctx) : (s.modCtx t c g).forms = s.forms := by
  unfold State.modCtx; split <;> rfl
@[simp] theorem State.modCtx_errRing (s : State) (t : TileNo) (c : SlotNo) (g : Ctx → Ctx) : (s.modCtx t c g).errRing = s.errRing := by
  unfold State.modCtx; split <;> rfl
@[simp] theorem State.modCtx_lostRec (s : State) (t : TileNo) (c : SlotNo) (g : Ctx → Ctx) : (s.modCtx t c g).lostRec = s.lostRec := by
  unfold State.modCtx; split <;> rfl
@[simp] theorem State.modCtx_mode (s : State) (t : TileNo) (c : SlotNo) (g : Ctx → Ctx) : (s.modCtx t c g).mode = s.mode := by
  unfold State.modCtx; split <;> rfl
@[simp] theorem State.modCtx_now (s : State) (t : TileNo) (c : SlotNo) (g : Ctx → Ctx) : (s.modCtx t c g).now = s.now := by
  unfold State.modCtx; split <;> rfl
@[simp] theorem State.modCtx_time (s : State) (t : TileNo) (c : SlotNo) (g : Ctx → Ctx) : (s.modCtx t c g).time = s.time := by
  unfold State.modCtx; split <;> rfl
@[simp] theorem State.modCtx_free (s : State) (t : TileNo) (c : SlotNo) (g : Ctx → Ctx) : (s.modCtx t c g).free = s.free := by
  unfold State.modCtx; split <;> rfl
@[simp] theorem State.modCtx_reqs (s : State) (t : TileNo) (c : SlotNo) (g : Ctx → Ctx) : (s.modCtx t c g).reqs = s.reqs := by
  unfold State.modCtx; split <;> rfl
@[simp] theorem State.modCtx_ungranted (s : State) (t : TileNo) (c : SlotNo) (g : Ctx → Ctx) : (s.modCtx t c g).ungranted = s.ungranted := by
  unfold State.modCtx; split <;> rfl
@[simp] theorem State.modCtx_logs (s : State) (t : TileNo) (c : SlotNo) (g : Ctx → Ctx) : (s.modCtx t c g).logs = s.logs := by
  unfold State.modCtx; split <;> rfl
@[simp] theorem State.modCtx_fuses (s : State) (t : TileNo) (c : SlotNo) (g : Ctx → Ctx) : (s.modCtx t c g).fuses = s.fuses := by
  unfold State.modCtx; split <;> rfl
@[simp] theorem State.modCtx_tripped (s : State) (t : TileNo) (c : SlotNo) (g : Ctx → Ctx) : (s.modCtx t c g).tripped = s.tripped := by
  unfold State.modCtx; split <;> rfl
@[simp] theorem State.modCtx_links (s : State) (t : TileNo) (c : SlotNo) (g : Ctx → Ctx) : (s.modCtx t c g).links = s.links := by
  unfold State.modCtx; split <;> rfl
@[simp] theorem State.modCtx_outWin (s : State) (t : TileNo) (c : SlotNo) (g : Ctx → Ctx) : (s.modCtx t c g).outWin = s.outWin := by
  unfold State.modCtx; split <;> rfl
@[simp] theorem State.modCtx_inWin (s : State) (t : TileNo) (c : SlotNo) (g : Ctx → Ctx) : (s.modCtx t c g).inWin = s.inWin := by
  unfold State.modCtx; split <;> rfl
@[simp] theorem State.modCtx_domain (s : State) (t : TileNo) (c : SlotNo) (g : Ctx → Ctx) : (s.modCtx t c g).domain = s.domain := by
  unfold State.modCtx; split <;> rfl
@[simp] theorem State.modCtx_routes (s : State) (t : TileNo) (c : SlotNo) (g : Ctx → Ctx) : (s.modCtx t c g).routes = s.routes := by
  unfold State.modCtx; split <;> rfl
@[simp] theorem State.modCtx_msgs (s : State) (t : TileNo) (c : SlotNo) (g : Ctx → Ctx) : (s.modCtx t c g).msgs = s.msgs := by
  unfold State.modCtx; split <;> rfl
@[simp] theorem State.modCtx_msgNo (s : State) (t : TileNo) (c : SlotNo) (g : Ctx → Ctx) : (s.modCtx t c g).msgNo = s.msgNo := by
  unfold State.modCtx; split <;> rfl
@[simp] theorem State.modCtx_bindNo (s : State) (t : TileNo) (c : SlotNo) (g : Ctx → Ctx) : (s.modCtx t c g).bindNo = s.bindNo := by
  unfold State.modCtx; split <;> rfl
@[simp] theorem State.modCtx_ports (s : State) (t : TileNo) (c : SlotNo) (g : Ctx → Ctx) : (s.modCtx t c g).ports = s.ports := by
  unfold State.modCtx; split <;> rfl
@[simp] theorem State.modCtx_shares (s : State) (t : TileNo) (c : SlotNo) (g : Ctx → Ctx) : (s.modCtx t c g).shares = s.shares := by
  unfold State.modCtx; split <;> rfl
@[simp] theorem State.modCtx_weights (s : State) (t : TileNo) (c : SlotNo) (g : Ctx → Ctx) : (s.modCtx t c g).weights = s.weights := by
  unfold State.modCtx; split <;> rfl
@[simp] theorem State.modCtx_queues (s : State) (t : TileNo) (c : SlotNo) (g : Ctx → Ctx) : (s.modCtx t c g).queues = s.queues := by
  unfold State.modCtx; split <;> rfl
@[simp] theorem State.modCtx_models (s : State) (t : TileNo) (c : SlotNo) (g : Ctx → Ctx) : (s.modCtx t c g).models = s.models := by
  unfold State.modCtx; split <;> rfl
@[simp] theorem State.modCtx_hsems (s : State) (t : TileNo) (c : SlotNo) (g : Ctx → Ctx) : (s.modCtx t c g).hsems = s.hsems := by
  unfold State.modCtx; split <;> rfl
@[simp] theorem State.modCtx_counters (s : State) (t : TileNo) (c : SlotNo) (g : Ctx → Ctx) : (s.modCtx t c g).counters = s.counters := by
  unfold State.modCtx; split <;> rfl
@[simp] theorem State.modCtx_errCount (s : State) (t : TileNo) (c : SlotNo) (g : Ctx → Ctx) : (s.modCtx t c g).errCount = s.errCount := by
  unfold State.modCtx; split <;> rfl
@[simp] theorem State.modCtx_errSel (s : State) (t : TileNo) (c : SlotNo) (g : Ctx → Ctx) : (s.modCtx t c g).errSel = s.errSel := by
  unfold State.modCtx; split <;> rfl
@[simp] theorem State.modCtx_req (s : State) (t : TileNo) (c : SlotNo) (g : Ctx → Ctx) : (s.modCtx t c g).req = s.req := by
  unfold State.modCtx; split <;> rfl
@[simp] theorem State.modCtx_limit (s : State) (t : TileNo) (c : SlotNo) (g : Ctx → Ctx) : (s.modCtx t c g).limit = s.limit := by
  unfold State.modCtx; split <;> rfl
@[simp] theorem State.modCtx_pend (s : State) (t : TileNo) (c : SlotNo) (g : Ctx → Ctx) : (s.modCtx t c g).pend = s.pend := by
  unfold State.modCtx; split <;> rfl
@[simp] theorem State.modCtx_hot (s : State) (t : TileNo) (c : SlotNo) (g : Ctx → Ctx) : (s.modCtx t c g).hot = s.hot := by
  unfold State.modCtx; split <;> rfl
@[simp] theorem State.modCtx_coolAt (s : State) (t : TileNo) (c : SlotNo) (g : Ctx → Ctx) : (s.modCtx t c g).coolAt = s.coolAt := by
  unfold State.modCtx; split <;> rfl
@[simp] theorem State.modCtx_power (s : State) (t : TileNo) (c : SlotNo) (g : Ctx → Ctx) : (s.modCtx t c g).power = s.power := by
  unfold State.modCtx; split <;> rfl
@[simp] theorem State.modCtx_flow (s : State) (t : TileNo) (c : SlotNo) (g : Ctx → Ctx) : (s.modCtx t c g).flow = s.flow := by
  unfold State.modCtx; split <;> rfl
@[simp] theorem State.modCtx_boot (s : State) (t : TileNo) (c : SlotNo) (g : Ctx → Ctx) : (s.modCtx t c g).boot = s.boot := by
  unfold State.modCtx; split <;> rfl
@[simp] theorem State.modCtx_ready (s : State) (t : TileNo) (c : SlotNo) (g : Ctx → Ctx) : (s.modCtx t c g).ready = s.ready := by
  unfold State.modCtx; split <;> rfl
@[simp] theorem State.modCtx_bootFail (s : State) (t : TileNo) (c : SlotNo) (g : Ctx → Ctx) : (s.modCtx t c g).bootFail = s.bootFail := by
  unfold State.modCtx; split <;> rfl
@[simp] theorem State.modCtx_fenced (s : State) (t : TileNo) (c : SlotNo) (g : Ctx → Ctx) : (s.modCtx t c g).fenced = s.fenced := by
  unfold State.modCtx; split <;> rfl
@[simp] theorem State.modCtx_asked (s : State) (t : TileNo) (c : SlotNo) (g : Ctx → Ctx) : (s.modCtx t c g).asked = s.asked := by
  unfold State.modCtx; split <;> rfl
@[simp] theorem State.modCtx_procs (s : State) (t : TileNo) (c : SlotNo) (g : Ctx → Ctx) : (s.modCtx t c g).procs = s.procs := by
  unfold State.modCtx; split <;> rfl
@[simp] theorem State.modCtx_frameT (s : State) (t : TileNo) (c : SlotNo) (g : Ctx → Ctx) : (s.modCtx t c g).frameT = s.frameT := by
  unfold State.modCtx; split <;> rfl
@[simp] theorem State.modCtx_slips (s : State) (t : TileNo) (c : SlotNo) (g : Ctx → Ctx) : (s.modCtx t c g).slips = s.slips := by
  unfold State.modCtx; split <;> rfl
@[simp] theorem State.modCtx_answer (s : State) (t : TileNo) (c : SlotNo) (g : Ctx → Ctx) : (s.modCtx t c g).answer = s.answer := by
  unfold State.modCtx; split <;> rfl
@[simp] theorem State.modCtx_notices (s : State) (t : TileNo) (c : SlotNo) (g : Ctx → Ctx) : (s.modCtx t c g).notices = s.notices := by
  unfold State.modCtx; split <;> rfl
@[simp] theorem State.modJob_agenda (s : State) (k : Nat) (g : Job → Job) : (s.modJob k g).agenda = s.agenda := rfl
@[simp] theorem State.modJob_input (s : State) (k : Nat) (g : Job → Job) : (s.modJob k g).input = s.input := rfl
@[simp] theorem State.modJob_cur (s : State) (k : Nat) (g : Job → Job) : (s.modJob k g).cur = s.cur := rfl
@[simp] theorem State.modJob_tiles (s : State) (k : Nat) (g : Job → Job) : (s.modJob k g).tiles = s.tiles := rfl
@[simp] theorem State.modJob_clusters (s : State) (k : Nat) (g : Job → Job) : (s.modJob k g).clusters = s.clusters := rfl
@[simp] theorem State.modJob_dies (s : State) (k : Nat) (g : Job → Job) : (s.modJob k g).dies = s.dies := rfl
@[simp] theorem State.modJob_mem (s : State) (k : Nat) (g : Job → Job) : (s.modJob k g).mem = s.mem := rfl
@[simp] theorem State.modJob_poison (s : State) (k : Nat) (g : Job → Job) : (s.modJob k g).poison = s.poison := rfl
@[simp] theorem State.modJob_tags (s : State) (k : Nat) (g : Job → Job) : (s.modJob k g).tags = s.tags := rfl
@[simp] theorem State.modJob_carve (s : State) (k : Nat) (g : Job → Job) : (s.modJob k g).carve = s.carve := rfl
@[simp] theorem State.modJob_pubs (s : State) (k : Nat) (g : Job → Job) : (s.modJob k g).pubs = s.pubs := rfl
@[simp] theorem State.modJob_carried (s : State) (k : Nat) (g : Job → Job) : (s.modJob k g).carried = s.carried := rfl
@[simp] theorem State.modJob_so (s : State) (k : Nat) (g : Job → Job) : (s.modJob k g).so = s.so := rfl
@[simp] theorem State.modJob_hist (s : State) (k : Nat) (g : Job → Job) : (s.modJob k g).hist = s.hist := rfl
@[simp] theorem State.modJob_wstamp (s : State) (k : Nat) (g : Job → Job) : (s.modJob k g).wstamp = s.wstamp := rfl
@[simp] theorem State.modJob_frame (s : State) (k : Nat) (g : Job → Job) : (s.modJob k g).frame = s.frame := rfl
@[simp] theorem State.modJob_frameAt (s : State) (k : Nat) (g : Job → Job) : (s.modJob k g).frameAt = s.frameAt := rfl
@[simp] theorem State.modJob_groups (s : State) (k : Nat) (g : Job → Job) : (s.modJob k g).groups = s.groups := rfl
@[simp] theorem State.modJob_saved (s : State) (k : Nat) (g : Job → Job) : (s.modJob k g).saved = s.saved := rfl
@[simp] theorem State.modJob_forms (s : State) (k : Nat) (g : Job → Job) : (s.modJob k g).forms = s.forms := rfl
@[simp] theorem State.modJob_errRing (s : State) (k : Nat) (g : Job → Job) : (s.modJob k g).errRing = s.errRing := rfl
@[simp] theorem State.modJob_lostRec (s : State) (k : Nat) (g : Job → Job) : (s.modJob k g).lostRec = s.lostRec := rfl
@[simp] theorem State.modJob_mode (s : State) (k : Nat) (g : Job → Job) : (s.modJob k g).mode = s.mode := rfl
@[simp] theorem State.modJob_now (s : State) (k : Nat) (g : Job → Job) : (s.modJob k g).now = s.now := rfl
@[simp] theorem State.modJob_time (s : State) (k : Nat) (g : Job → Job) : (s.modJob k g).time = s.time := rfl
@[simp] theorem State.modJob_free (s : State) (k : Nat) (g : Job → Job) : (s.modJob k g).free = s.free := rfl
@[simp] theorem State.modJob_reqs (s : State) (k : Nat) (g : Job → Job) : (s.modJob k g).reqs = s.reqs := rfl
@[simp] theorem State.modJob_ungranted (s : State) (k : Nat) (g : Job → Job) : (s.modJob k g).ungranted = s.ungranted := rfl
@[simp] theorem State.modJob_logs (s : State) (k : Nat) (g : Job → Job) : (s.modJob k g).logs = s.logs := rfl
@[simp] theorem State.modJob_fuses (s : State) (k : Nat) (g : Job → Job) : (s.modJob k g).fuses = s.fuses := rfl
@[simp] theorem State.modJob_tripped (s : State) (k : Nat) (g : Job → Job) : (s.modJob k g).tripped = s.tripped := rfl
@[simp] theorem State.modJob_links (s : State) (k : Nat) (g : Job → Job) : (s.modJob k g).links = s.links := rfl
@[simp] theorem State.modJob_outWin (s : State) (k : Nat) (g : Job → Job) : (s.modJob k g).outWin = s.outWin := rfl
@[simp] theorem State.modJob_inWin (s : State) (k : Nat) (g : Job → Job) : (s.modJob k g).inWin = s.inWin := rfl
@[simp] theorem State.modJob_domain (s : State) (k : Nat) (g : Job → Job) : (s.modJob k g).domain = s.domain := rfl
@[simp] theorem State.modJob_routes (s : State) (k : Nat) (g : Job → Job) : (s.modJob k g).routes = s.routes := rfl
@[simp] theorem State.modJob_msgs (s : State) (k : Nat) (g : Job → Job) : (s.modJob k g).msgs = s.msgs := rfl
@[simp] theorem State.modJob_msgNo (s : State) (k : Nat) (g : Job → Job) : (s.modJob k g).msgNo = s.msgNo := rfl
@[simp] theorem State.modJob_bindNo (s : State) (k : Nat) (g : Job → Job) : (s.modJob k g).bindNo = s.bindNo := rfl
@[simp] theorem State.modJob_ports (s : State) (k : Nat) (g : Job → Job) : (s.modJob k g).ports = s.ports := rfl
@[simp] theorem State.modJob_shares (s : State) (k : Nat) (g : Job → Job) : (s.modJob k g).shares = s.shares := rfl
@[simp] theorem State.modJob_weights (s : State) (k : Nat) (g : Job → Job) : (s.modJob k g).weights = s.weights := rfl
@[simp] theorem State.modJob_queues (s : State) (k : Nat) (g : Job → Job) : (s.modJob k g).queues = s.queues := rfl
@[simp] theorem State.modJob_models (s : State) (k : Nat) (g : Job → Job) : (s.modJob k g).models = s.models := rfl
@[simp] theorem State.modJob_hsems (s : State) (k : Nat) (g : Job → Job) : (s.modJob k g).hsems = s.hsems := rfl
@[simp] theorem State.modJob_counters (s : State) (k : Nat) (g : Job → Job) : (s.modJob k g).counters = s.counters := rfl
@[simp] theorem State.modJob_errCount (s : State) (k : Nat) (g : Job → Job) : (s.modJob k g).errCount = s.errCount := rfl
@[simp] theorem State.modJob_errSel (s : State) (k : Nat) (g : Job → Job) : (s.modJob k g).errSel = s.errSel := rfl
@[simp] theorem State.modJob_req (s : State) (k : Nat) (g : Job → Job) : (s.modJob k g).req = s.req := rfl
@[simp] theorem State.modJob_limit (s : State) (k : Nat) (g : Job → Job) : (s.modJob k g).limit = s.limit := rfl
@[simp] theorem State.modJob_pend (s : State) (k : Nat) (g : Job → Job) : (s.modJob k g).pend = s.pend := rfl
@[simp] theorem State.modJob_hot (s : State) (k : Nat) (g : Job → Job) : (s.modJob k g).hot = s.hot := rfl
@[simp] theorem State.modJob_coolAt (s : State) (k : Nat) (g : Job → Job) : (s.modJob k g).coolAt = s.coolAt := rfl
@[simp] theorem State.modJob_power (s : State) (k : Nat) (g : Job → Job) : (s.modJob k g).power = s.power := rfl
@[simp] theorem State.modJob_flow (s : State) (k : Nat) (g : Job → Job) : (s.modJob k g).flow = s.flow := rfl
@[simp] theorem State.modJob_boot (s : State) (k : Nat) (g : Job → Job) : (s.modJob k g).boot = s.boot := rfl
@[simp] theorem State.modJob_ready (s : State) (k : Nat) (g : Job → Job) : (s.modJob k g).ready = s.ready := rfl
@[simp] theorem State.modJob_bootFail (s : State) (k : Nat) (g : Job → Job) : (s.modJob k g).bootFail = s.bootFail := rfl
@[simp] theorem State.modJob_fenced (s : State) (k : Nat) (g : Job → Job) : (s.modJob k g).fenced = s.fenced := rfl
@[simp] theorem State.modJob_asked (s : State) (k : Nat) (g : Job → Job) : (s.modJob k g).asked = s.asked := rfl
@[simp] theorem State.modJob_procs (s : State) (k : Nat) (g : Job → Job) : (s.modJob k g).procs = s.procs := rfl
@[simp] theorem State.modJob_frameT (s : State) (k : Nat) (g : Job → Job) : (s.modJob k g).frameT = s.frameT := rfl
@[simp] theorem State.modJob_slips (s : State) (k : Nat) (g : Job → Job) : (s.modJob k g).slips = s.slips := rfl
@[simp] theorem State.modJob_answer (s : State) (k : Nat) (g : Job → Job) : (s.modJob k g).answer = s.answer := rfl
@[simp] theorem State.modJob_notices (s : State) (k : Nat) (g : Job → Job) : (s.modJob k g).notices = s.notices := rfl
@[simp] theorem State.addErr_mem (s : State) (r : ErrRec) : (s.addErr r).mem = s.mem := by
  unfold State.addErr; dsimp only; split <;> rfl
@[simp] theorem State.addErr_tiles (s : State) (r : ErrRec) : (s.addErr r).tiles = s.tiles := by
  unfold State.addErr; dsimp only; split <;> rfl
@[simp] theorem State.addErr_jobs (s : State) (r : ErrRec) : (s.addErr r).jobs = s.jobs := by
  unfold State.addErr; dsimp only; split <;> rfl
@[simp] theorem State.addErr_dies (s : State) (r : ErrRec) : (s.addErr r).dies = s.dies := by
  unfold State.addErr; dsimp only; split <;> rfl
@[simp] theorem State.addErr_queues (s : State) (r : ErrRec) : (s.addErr r).queues = s.queues := by
  unfold State.addErr; dsimp only; split <;> rfl
@[simp] theorem State.addErr_reqs (s : State) (r : ErrRec) : (s.addErr r).reqs = s.reqs := by
  unfold State.addErr; dsimp only; split <;> rfl
@[simp] theorem State.addErr_poison (s : State) (r : ErrRec) : (s.addErr r).poison = s.poison := by
  unfold State.addErr; dsimp only; split <;> rfl
@[simp] theorem State.addErr_now (s : State) (r : ErrRec) : (s.addErr r).now = s.now := by
  unfold State.addErr; dsimp only; split <;> rfl
@[simp] theorem State.addErr_frame (s : State) (r : ErrRec) : (s.addErr r).frame = s.frame := by
  unfold State.addErr; dsimp only; split <;> rfl
@[simp] theorem State.addErr_free (s : State) (r : ErrRec) : (s.addErr r).free = s.free := by
  unfold State.addErr; dsimp only; split <;> rfl
@[simp] theorem State.addErr_msgs (s : State) (r : ErrRec) : (s.addErr r).msgs = s.msgs := by
  unfold State.addErr; dsimp only; split <;> rfl
@[simp] theorem State.addErr_saved (s : State) (r : ErrRec) : (s.addErr r).saved = s.saved := by
  unfold State.addErr; dsimp only; split <;> rfl
@[simp] theorem writeBytes_agenda (s : State) (k : Nat) (bs : List Byte) (b : Bool) : (writeBytes s k bs b).agenda = s.agenda := rfl
@[simp] theorem writeBytes_input (s : State) (k : Nat) (bs : List Byte) (b : Bool) : (writeBytes s k bs b).input = s.input := rfl
@[simp] theorem writeBytes_cur (s : State) (k : Nat) (bs : List Byte) (b : Bool) : (writeBytes s k bs b).cur = s.cur := rfl
@[simp] theorem writeBytes_tiles (s : State) (k : Nat) (bs : List Byte) (b : Bool) : (writeBytes s k bs b).tiles = s.tiles := rfl
@[simp] theorem writeBytes_clusters (s : State) (k : Nat) (bs : List Byte) (b : Bool) : (writeBytes s k bs b).clusters = s.clusters := rfl
@[simp] theorem writeBytes_dies (s : State) (k : Nat) (bs : List Byte) (b : Bool) : (writeBytes s k bs b).dies = s.dies := rfl
@[simp] theorem writeBytes_tags (s : State) (k : Nat) (bs : List Byte) (b : Bool) : (writeBytes s k bs b).tags = s.tags := rfl
@[simp] theorem writeBytes_carve (s : State) (k : Nat) (bs : List Byte) (b : Bool) : (writeBytes s k bs b).carve = s.carve := rfl
@[simp] theorem writeBytes_carried (s : State) (k : Nat) (bs : List Byte) (b : Bool) : (writeBytes s k bs b).carried = s.carried := rfl
@[simp] theorem writeBytes_so (s : State) (k : Nat) (bs : List Byte) (b : Bool) : (writeBytes s k bs b).so = s.so := rfl
@[simp] theorem writeBytes_frame (s : State) (k : Nat) (bs : List Byte) (b : Bool) : (writeBytes s k bs b).frame = s.frame := rfl
@[simp] theorem writeBytes_frameAt (s : State) (k : Nat) (bs : List Byte) (b : Bool) : (writeBytes s k bs b).frameAt = s.frameAt := rfl
@[simp] theorem writeBytes_jobs (s : State) (k : Nat) (bs : List Byte) (b : Bool) : (writeBytes s k bs b).jobs = s.jobs := rfl
@[simp] theorem writeBytes_groups (s : State) (k : Nat) (bs : List Byte) (b : Bool) : (writeBytes s k bs b).groups = s.groups := rfl
@[simp] theorem writeBytes_saved (s : State) (k : Nat) (bs : List Byte) (b : Bool) : (writeBytes s k bs b).saved = s.saved := rfl
@[simp] theorem writeBytes_forms (s : State) (k : Nat) (bs : List Byte) (b : Bool) : (writeBytes s k bs b).forms = s.forms := rfl
@[simp] theorem writeBytes_errRing (s : State) (k : Nat) (bs : List Byte) (b : Bool) : (writeBytes s k bs b).errRing = s.errRing := rfl
@[simp] theorem writeBytes_lostRec (s : State) (k : Nat) (bs : List Byte) (b : Bool) : (writeBytes s k bs b).lostRec = s.lostRec := rfl
@[simp] theorem writeBytes_mode (s : State) (k : Nat) (bs : List Byte) (b : Bool) : (writeBytes s k bs b).mode = s.mode := rfl
@[simp] theorem writeBytes_now (s : State) (k : Nat) (bs : List Byte) (b : Bool) : (writeBytes s k bs b).now = s.now := rfl
@[simp] theorem writeBytes_time (s : State) (k : Nat) (bs : List Byte) (b : Bool) : (writeBytes s k bs b).time = s.time := rfl
@[simp] theorem writeBytes_free (s : State) (k : Nat) (bs : List Byte) (b : Bool) : (writeBytes s k bs b).free = s.free := rfl
@[simp] theorem writeBytes_reqs (s : State) (k : Nat) (bs : List Byte) (b : Bool) : (writeBytes s k bs b).reqs = s.reqs := rfl
@[simp] theorem writeBytes_ungranted (s : State) (k : Nat) (bs : List Byte) (b : Bool) : (writeBytes s k bs b).ungranted = s.ungranted := rfl
@[simp] theorem writeBytes_logs (s : State) (k : Nat) (bs : List Byte) (b : Bool) : (writeBytes s k bs b).logs = s.logs := rfl
@[simp] theorem writeBytes_fuses (s : State) (k : Nat) (bs : List Byte) (b : Bool) : (writeBytes s k bs b).fuses = s.fuses := rfl
@[simp] theorem writeBytes_tripped (s : State) (k : Nat) (bs : List Byte) (b : Bool) : (writeBytes s k bs b).tripped = s.tripped := rfl
@[simp] theorem writeBytes_links (s : State) (k : Nat) (bs : List Byte) (b : Bool) : (writeBytes s k bs b).links = s.links := rfl
@[simp] theorem writeBytes_outWin (s : State) (k : Nat) (bs : List Byte) (b : Bool) : (writeBytes s k bs b).outWin = s.outWin := rfl
@[simp] theorem writeBytes_inWin (s : State) (k : Nat) (bs : List Byte) (b : Bool) : (writeBytes s k bs b).inWin = s.inWin := rfl
@[simp] theorem writeBytes_domain (s : State) (k : Nat) (bs : List Byte) (b : Bool) : (writeBytes s k bs b).domain = s.domain := rfl
@[simp] theorem writeBytes_routes (s : State) (k : Nat) (bs : List Byte) (b : Bool) : (writeBytes s k bs b).routes = s.routes := rfl
@[simp] theorem writeBytes_msgs (s : State) (k : Nat) (bs : List Byte) (b : Bool) : (writeBytes s k bs b).msgs = s.msgs := rfl
@[simp] theorem writeBytes_msgNo (s : State) (k : Nat) (bs : List Byte) (b : Bool) : (writeBytes s k bs b).msgNo = s.msgNo := rfl
@[simp] theorem writeBytes_bindNo (s : State) (k : Nat) (bs : List Byte) (b : Bool) : (writeBytes s k bs b).bindNo = s.bindNo := rfl
@[simp] theorem writeBytes_ports (s : State) (k : Nat) (bs : List Byte) (b : Bool) : (writeBytes s k bs b).ports = s.ports := rfl
@[simp] theorem writeBytes_shares (s : State) (k : Nat) (bs : List Byte) (b : Bool) : (writeBytes s k bs b).shares = s.shares := rfl
@[simp] theorem writeBytes_weights (s : State) (k : Nat) (bs : List Byte) (b : Bool) : (writeBytes s k bs b).weights = s.weights := rfl
@[simp] theorem writeBytes_queues (s : State) (k : Nat) (bs : List Byte) (b : Bool) : (writeBytes s k bs b).queues = s.queues := rfl
@[simp] theorem writeBytes_models (s : State) (k : Nat) (bs : List Byte) (b : Bool) : (writeBytes s k bs b).models = s.models := rfl
@[simp] theorem writeBytes_hsems (s : State) (k : Nat) (bs : List Byte) (b : Bool) : (writeBytes s k bs b).hsems = s.hsems := rfl
@[simp] theorem writeBytes_counters (s : State) (k : Nat) (bs : List Byte) (b : Bool) : (writeBytes s k bs b).counters = s.counters := rfl
@[simp] theorem writeBytes_errCount (s : State) (k : Nat) (bs : List Byte) (b : Bool) : (writeBytes s k bs b).errCount = s.errCount := rfl
@[simp] theorem writeBytes_errSel (s : State) (k : Nat) (bs : List Byte) (b : Bool) : (writeBytes s k bs b).errSel = s.errSel := rfl
@[simp] theorem writeBytes_req (s : State) (k : Nat) (bs : List Byte) (b : Bool) : (writeBytes s k bs b).req = s.req := rfl
@[simp] theorem writeBytes_limit (s : State) (k : Nat) (bs : List Byte) (b : Bool) : (writeBytes s k bs b).limit = s.limit := rfl
@[simp] theorem writeBytes_pend (s : State) (k : Nat) (bs : List Byte) (b : Bool) : (writeBytes s k bs b).pend = s.pend := rfl
@[simp] theorem writeBytes_hot (s : State) (k : Nat) (bs : List Byte) (b : Bool) : (writeBytes s k bs b).hot = s.hot := rfl
@[simp] theorem writeBytes_coolAt (s : State) (k : Nat) (bs : List Byte) (b : Bool) : (writeBytes s k bs b).coolAt = s.coolAt := rfl
@[simp] theorem writeBytes_power (s : State) (k : Nat) (bs : List Byte) (b : Bool) : (writeBytes s k bs b).power = s.power := rfl
@[simp] theorem writeBytes_flow (s : State) (k : Nat) (bs : List Byte) (b : Bool) : (writeBytes s k bs b).flow = s.flow := rfl
@[simp] theorem writeBytes_boot (s : State) (k : Nat) (bs : List Byte) (b : Bool) : (writeBytes s k bs b).boot = s.boot := rfl
@[simp] theorem writeBytes_ready (s : State) (k : Nat) (bs : List Byte) (b : Bool) : (writeBytes s k bs b).ready = s.ready := rfl
@[simp] theorem writeBytes_bootFail (s : State) (k : Nat) (bs : List Byte) (b : Bool) : (writeBytes s k bs b).bootFail = s.bootFail := rfl
@[simp] theorem writeBytes_fenced (s : State) (k : Nat) (bs : List Byte) (b : Bool) : (writeBytes s k bs b).fenced = s.fenced := rfl
@[simp] theorem writeBytes_asked (s : State) (k : Nat) (bs : List Byte) (b : Bool) : (writeBytes s k bs b).asked = s.asked := rfl
@[simp] theorem writeBytes_procs (s : State) (k : Nat) (bs : List Byte) (b : Bool) : (writeBytes s k bs b).procs = s.procs := rfl
@[simp] theorem writeBytes_frameT (s : State) (k : Nat) (bs : List Byte) (b : Bool) : (writeBytes s k bs b).frameT = s.frameT := rfl
@[simp] theorem writeBytes_slips (s : State) (k : Nat) (bs : List Byte) (b : Bool) : (writeBytes s k bs b).slips = s.slips := rfl
@[simp] theorem writeBytes_answer (s : State) (k : Nat) (bs : List Byte) (b : Bool) : (writeBytes s k bs b).answer = s.answer := rfl
@[simp] theorem writeBytes_notices (s : State) (k : Nat) (bs : List Byte) (b : Bool) : (writeBytes s k bs b).notices = s.notices := rfl
@[simp] theorem writeBytes_mem (s : State) (k : Nat) (bs : List Byte) (b : Bool) : (writeBytes s k bs b).mem = cellsWrite s.mem k bs := rfl
@[simp] theorem Ctx.setReg_num (x : Ctx) (g : Fin 48) (v : Word) : (x.setReg g v).num = x.num := rfl
@[simp] theorem Ctx.setReg_job (x : Ctx) (g : Fin 48) (v : Word) : (x.setReg g v).job = x.job := rfl
@[simp] theorem Ctx.setReg_record (x : Ctx) (g : Fin 48) (v : Word) : (x.setReg g v).record = x.record := rfl
@[simp] theorem Ctx.setReg_cls (x : Ctx) (g : Fin 48) (v : Word) : (x.setReg g v).cls = x.cls := rfl
@[simp] theorem Ctx.setReg_run (x : Ctx) (g : Fin 48) (v : Word) : (x.setReg g v).run = x.run := rfl
@[simp] theorem Ctx.setReg_preds (x : Ctx) (g : Fin 48) (v : Word) : (x.setReg g v).preds = x.preds := rfl
@[simp] theorem Ctx.setReg_latches (x : Ctx) (g : Fin 48) (v : Word) : (x.setReg g v).latches = x.latches := rfl
@[simp] theorem Ctx.setReg_mods (x : Ctx) (g : Fin 48) (v : Word) : (x.setReg g v).mods = x.mods := rfl
@[simp] theorem Ctx.setReg_loops (x : Ctx) (g : Fin 48) (v : Word) : (x.setReg g v).loops = x.loops := rfl
@[simp] theorem Ctx.setReg_pc (x : Ctx) (g : Fin 48) (v : Word) : (x.setReg g v).pc = x.pc := rfl
@[simp] theorem Ctx.setReg_partw (x : Ctx) (g : Fin 48) (v : Word) : (x.setReg g v).partw = x.partw := rfl
@[simp] theorem Ctx.setReg_fpctl (x : Ctx) (g : Fin 48) (v : Word) : (x.setReg g v).fpctl = x.fpctl := rfl
@[simp] theorem Ctx.setReg_nbv (x : Ctx) (g : Fin 48) (v : Word) : (x.setReg g v).nbv = x.nbv := rfl
@[simp] theorem Ctx.setReg_nancnt (x : Ctx) (g : Fin 48) (v : Word) : (x.setReg g v).nancnt = x.nancnt := rfl
@[simp] theorem Ctx.setReg_satcnt (x : Ctx) (g : Fin 48) (v : Word) : (x.setReg g v).satcnt = x.satcnt := rfl
@[simp] theorem Ctx.setReg_errmode (x : Ctx) (g : Fin 48) (v : Word) : (x.setReg g v).errmode = x.errmode := rfl
@[simp] theorem Ctx.setReg_dropcnt (x : Ctx) (g : Fin 48) (v : Word) : (x.setReg g v).dropcnt = x.dropcnt := rfl
@[simp] theorem Ctx.setReg_epc (x : Ctx) (g : Fin 48) (v : Word) : (x.setReg g v).epc = x.epc := rfl
@[simp] theorem Ctx.setReg_ecause (x : Ctx) (g : Fin 48) (v : Word) : (x.setReg g v).ecause = x.ecause := rfl
@[simp] theorem Ctx.setReg_eval (x : Ctx) (g : Fin 48) (v : Word) : (x.setReg g v).eval = x.eval := rfl
@[simp] theorem Ctx.setReg_tvec (x : Ctx) (g : Fin 48) (v : Word) : (x.setReg g v).tvec = x.tvec := rfl
@[simp] theorem Ctx.setReg_elatch (x : Ctx) (g : Fin 48) (v : Word) : (x.setReg g v).elatch = x.elatch := rfl
@[simp] theorem Ctx.setReg_chainbase (x : Ctx) (g : Fin 48) (v : Word) : (x.setReg g v).chainbase = x.chainbase := rfl
@[simp] theorem Ctx.setReg_chainlim (x : Ctx) (g : Fin 48) (v : Word) : (x.setReg g v).chainlim = x.chainlim := rfl
@[simp] theorem Ctx.setReg_dbgctl (x : Ctx) (g : Fin 48) (v : Word) : (x.setReg g v).dbgctl = x.dbgctl := rfl
@[simp] theorem Ctx.setReg_event (x : Ctx) (g : Fin 48) (v : Word) : (x.setReg g v).event = x.event := rfl
@[simp] theorem Ctx.setReg_evStamps (x : Ctx) (g : Fin 48) (v : Word) : (x.setReg g v).evStamps = x.evStamps := rfl
@[simp] theorem Ctx.setReg_grp (x : Ctx) (g : Fin 48) (v : Word) : (x.setReg g v).grp = x.grp := rfl
@[simp] theorem Ctx.setReg_wait (x : Ctx) (g : Fin 48) (v : Word) : (x.setReg g v).wait = x.wait := rfl
@[simp] theorem Ctx.setReg_gained (x : Ctx) (g : Fin 48) (v : Word) : (x.setReg g v).gained = x.gained := rfl
@[simp] theorem Ctx.setReg_lost (x : Ctx) (g : Fin 48) (v : Word) : (x.setReg g v).lost = x.lost := rfl
@[simp] theorem Ctx.setReg_stepDue (x : Ctx) (g : Fin 48) (v : Word) : (x.setReg g v).stepDue = x.stepDue := rfl
@[simp] theorem Ctx.setReg_stopping (x : Ctx) (g : Fin 48) (v : Word) : (x.setReg g v).stopping = x.stopping := rfl
@[simp] theorem Ctx.setReg_marked (x : Ctx) (g : Fin 48) (v : Word) : (x.setReg g v).marked = x.marked := rfl
@[simp] theorem Ctx.setReg_desched (x : Ctx) (g : Fin 48) (v : Word) : (x.setReg g v).desched = x.desched := rfl
@[simp] theorem Ctx.setReg_leafTrap (x : Ctx) (g : Fin 48) (v : Word) : (x.setReg g v).leafTrap = x.leafTrap := rfl
@[simp] theorem Ctx.setReg_asyncs (x : Ctx) (g : Fin 48) (v : Word) : (x.setReg g v).asyncs = x.asyncs := rfl
@[simp] theorem Ctx.setReg_fences (x : Ctx) (g : Fin 48) (v : Word) : (x.setReg g v).fences = x.fences := rfl
@[simp] theorem Ctx.setReg_seen (x : Ctx) (g : Fin 48) (v : Word) : (x.setReg g v).seen = x.seen := rfl
@[simp] theorem Ctx.setReg_activity (x : Ctx) (g : Fin 48) (v : Word) : (x.setReg g v).activity = x.activity := rfl
@[simp] theorem Ctx.setReg_chains (x : Ctx) (g : Fin 48) (v : Word) : (x.setReg g v).chains = x.chains := rfl
@[simp] theorem Ctx.setReg_heldSlots (x : Ctx) (g : Fin 48) (v : Word) : (x.setReg g v).heldSlots = x.heldSlots := rfl
@[simp] theorem Ctx.setReg_heldTiles (x : Ctx) (g : Fin 48) (v : Word) : (x.setReg g v).heldTiles = x.heldTiles := rfl
@[simp] theorem Ctx.setReg_tit (x : Ctx) (g : Fin 48) (v : Word) : (x.setReg g v).tit = x.tit := rfl
@[simp] theorem Ctx.setReg_sems (x : Ctx) (g : Fin 48) (v : Word) : (x.setReg g v).sems = x.sems := rfl
@[simp] theorem Ctx.setReg_qs (x : Ctx) (g : Fin 48) (v : Word) : (x.setReg g v).qs = x.qs := rfl
@[simp] theorem Ctx.setReg_axis (x : Ctx) (g : Fin 48) (v : Word) : (x.setReg g v).axis = x.axis := rfl
@[simp] theorem Ctx.setReg_banks (x : Ctx) (g : Fin 48) (v : Word) : (x.setReg g v).banks = x.banks := rfl
@[simp] theorem Ctx.setReg_covs (x : Ctx) (g : Fin 48) (v : Word) : (x.setReg g v).covs = x.covs := rfl
@[simp] theorem Ctx.setReg_reloc (x : Ctx) (g : Fin 48) (v : Word) : (x.setReg g v).reloc = x.reloc := rfl
@[simp] theorem Ctx.setReg_answers (x : Ctx) (g : Fin 48) (v : Word) : (x.setReg g v).answers = x.answers := rfl
@[simp] theorem Ctx.setDst_num (x : Ctx) (d : Dst) (v : Word) : (x.setDst d v).num = x.num := by cases d <;> rfl
@[simp] theorem Ctx.setDst_job (x : Ctx) (d : Dst) (v : Word) : (x.setDst d v).job = x.job := by cases d <;> rfl
@[simp] theorem Ctx.setDst_record (x : Ctx) (d : Dst) (v : Word) : (x.setDst d v).record = x.record := by cases d <;> rfl
@[simp] theorem Ctx.setDst_cls (x : Ctx) (d : Dst) (v : Word) : (x.setDst d v).cls = x.cls := by cases d <;> rfl
@[simp] theorem Ctx.setDst_run (x : Ctx) (d : Dst) (v : Word) : (x.setDst d v).run = x.run := by cases d <;> rfl
@[simp] theorem Ctx.setDst_preds (x : Ctx) (d : Dst) (v : Word) : (x.setDst d v).preds = x.preds := by cases d <;> rfl
@[simp] theorem Ctx.setDst_latches (x : Ctx) (d : Dst) (v : Word) : (x.setDst d v).latches = x.latches := by cases d <;> rfl
@[simp] theorem Ctx.setDst_mods (x : Ctx) (d : Dst) (v : Word) : (x.setDst d v).mods = x.mods := by cases d <;> rfl
@[simp] theorem Ctx.setDst_loops (x : Ctx) (d : Dst) (v : Word) : (x.setDst d v).loops = x.loops := by cases d <;> rfl
@[simp] theorem Ctx.setDst_pc (x : Ctx) (d : Dst) (v : Word) : (x.setDst d v).pc = x.pc := by cases d <;> rfl
@[simp] theorem Ctx.setDst_partw (x : Ctx) (d : Dst) (v : Word) : (x.setDst d v).partw = x.partw := by cases d <;> rfl
@[simp] theorem Ctx.setDst_fpctl (x : Ctx) (d : Dst) (v : Word) : (x.setDst d v).fpctl = x.fpctl := by cases d <;> rfl
@[simp] theorem Ctx.setDst_nbv (x : Ctx) (d : Dst) (v : Word) : (x.setDst d v).nbv = x.nbv := by cases d <;> rfl
@[simp] theorem Ctx.setDst_nancnt (x : Ctx) (d : Dst) (v : Word) : (x.setDst d v).nancnt = x.nancnt := by cases d <;> rfl
@[simp] theorem Ctx.setDst_satcnt (x : Ctx) (d : Dst) (v : Word) : (x.setDst d v).satcnt = x.satcnt := by cases d <;> rfl
@[simp] theorem Ctx.setDst_errmode (x : Ctx) (d : Dst) (v : Word) : (x.setDst d v).errmode = x.errmode := by cases d <;> rfl
@[simp] theorem Ctx.setDst_dropcnt (x : Ctx) (d : Dst) (v : Word) : (x.setDst d v).dropcnt = x.dropcnt := by cases d <;> rfl
@[simp] theorem Ctx.setDst_epc (x : Ctx) (d : Dst) (v : Word) : (x.setDst d v).epc = x.epc := by cases d <;> rfl
@[simp] theorem Ctx.setDst_ecause (x : Ctx) (d : Dst) (v : Word) : (x.setDst d v).ecause = x.ecause := by cases d <;> rfl
@[simp] theorem Ctx.setDst_eval (x : Ctx) (d : Dst) (v : Word) : (x.setDst d v).eval = x.eval := by cases d <;> rfl
@[simp] theorem Ctx.setDst_tvec (x : Ctx) (d : Dst) (v : Word) : (x.setDst d v).tvec = x.tvec := by cases d <;> rfl
@[simp] theorem Ctx.setDst_elatch (x : Ctx) (d : Dst) (v : Word) : (x.setDst d v).elatch = x.elatch := by cases d <;> rfl
@[simp] theorem Ctx.setDst_chainbase (x : Ctx) (d : Dst) (v : Word) : (x.setDst d v).chainbase = x.chainbase := by cases d <;> rfl
@[simp] theorem Ctx.setDst_chainlim (x : Ctx) (d : Dst) (v : Word) : (x.setDst d v).chainlim = x.chainlim := by cases d <;> rfl
@[simp] theorem Ctx.setDst_dbgctl (x : Ctx) (d : Dst) (v : Word) : (x.setDst d v).dbgctl = x.dbgctl := by cases d <;> rfl
@[simp] theorem Ctx.setDst_event (x : Ctx) (d : Dst) (v : Word) : (x.setDst d v).event = x.event := by cases d <;> rfl
@[simp] theorem Ctx.setDst_evStamps (x : Ctx) (d : Dst) (v : Word) : (x.setDst d v).evStamps = x.evStamps := by cases d <;> rfl
@[simp] theorem Ctx.setDst_grp (x : Ctx) (d : Dst) (v : Word) : (x.setDst d v).grp = x.grp := by cases d <;> rfl
@[simp] theorem Ctx.setDst_wait (x : Ctx) (d : Dst) (v : Word) : (x.setDst d v).wait = x.wait := by cases d <;> rfl
@[simp] theorem Ctx.setDst_gained (x : Ctx) (d : Dst) (v : Word) : (x.setDst d v).gained = x.gained := by cases d <;> rfl
@[simp] theorem Ctx.setDst_lost (x : Ctx) (d : Dst) (v : Word) : (x.setDst d v).lost = x.lost := by cases d <;> rfl
@[simp] theorem Ctx.setDst_stepDue (x : Ctx) (d : Dst) (v : Word) : (x.setDst d v).stepDue = x.stepDue := by cases d <;> rfl
@[simp] theorem Ctx.setDst_stopping (x : Ctx) (d : Dst) (v : Word) : (x.setDst d v).stopping = x.stopping := by cases d <;> rfl
@[simp] theorem Ctx.setDst_marked (x : Ctx) (d : Dst) (v : Word) : (x.setDst d v).marked = x.marked := by cases d <;> rfl
@[simp] theorem Ctx.setDst_desched (x : Ctx) (d : Dst) (v : Word) : (x.setDst d v).desched = x.desched := by cases d <;> rfl
@[simp] theorem Ctx.setDst_leafTrap (x : Ctx) (d : Dst) (v : Word) : (x.setDst d v).leafTrap = x.leafTrap := by cases d <;> rfl
@[simp] theorem Ctx.setDst_asyncs (x : Ctx) (d : Dst) (v : Word) : (x.setDst d v).asyncs = x.asyncs := by cases d <;> rfl
@[simp] theorem Ctx.setDst_fences (x : Ctx) (d : Dst) (v : Word) : (x.setDst d v).fences = x.fences := by cases d <;> rfl
@[simp] theorem Ctx.setDst_seen (x : Ctx) (d : Dst) (v : Word) : (x.setDst d v).seen = x.seen := by cases d <;> rfl
@[simp] theorem Ctx.setDst_activity (x : Ctx) (d : Dst) (v : Word) : (x.setDst d v).activity = x.activity := by cases d <;> rfl
@[simp] theorem Ctx.setDst_chains (x : Ctx) (d : Dst) (v : Word) : (x.setDst d v).chains = x.chains := by cases d <;> rfl
@[simp] theorem Ctx.setDst_heldSlots (x : Ctx) (d : Dst) (v : Word) : (x.setDst d v).heldSlots = x.heldSlots := by cases d <;> rfl
@[simp] theorem Ctx.setDst_heldTiles (x : Ctx) (d : Dst) (v : Word) : (x.setDst d v).heldTiles = x.heldTiles := by cases d <;> rfl
@[simp] theorem Ctx.setDst_tit (x : Ctx) (d : Dst) (v : Word) : (x.setDst d v).tit = x.tit := by cases d <;> rfl
@[simp] theorem Ctx.setDst_sems (x : Ctx) (d : Dst) (v : Word) : (x.setDst d v).sems = x.sems := by cases d <;> rfl
@[simp] theorem Ctx.setDst_qs (x : Ctx) (d : Dst) (v : Word) : (x.setDst d v).qs = x.qs := by cases d <;> rfl
@[simp] theorem Ctx.setDst_axis (x : Ctx) (d : Dst) (v : Word) : (x.setDst d v).axis = x.axis := by cases d <;> rfl
@[simp] theorem Ctx.setDst_banks (x : Ctx) (d : Dst) (v : Word) : (x.setDst d v).banks = x.banks := by cases d <;> rfl
@[simp] theorem Ctx.setDst_covs (x : Ctx) (d : Dst) (v : Word) : (x.setDst d v).covs = x.covs := by cases d <;> rfl
@[simp] theorem Ctx.setDst_reloc (x : Ctx) (d : Dst) (v : Word) : (x.setDst d v).reloc = x.reloc := by cases d <;> rfl
@[simp] theorem Ctx.setDst_answers (x : Ctx) (d : Dst) (v : Word) : (x.setDst d v).answers = x.answers := by cases d <;> rfl
@[simp] theorem Ctx.setPred_num (x : Ctx) (p : Fin 8) (v : Bool) : (x.setPred p v).num = x.num := by
  unfold Ctx.setPred; split <;> rfl
@[simp] theorem Ctx.setPred_job (x : Ctx) (p : Fin 8) (v : Bool) : (x.setPred p v).job = x.job := by
  unfold Ctx.setPred; split <;> rfl
@[simp] theorem Ctx.setPred_record (x : Ctx) (p : Fin 8) (v : Bool) : (x.setPred p v).record = x.record := by
  unfold Ctx.setPred; split <;> rfl
@[simp] theorem Ctx.setPred_cls (x : Ctx) (p : Fin 8) (v : Bool) : (x.setPred p v).cls = x.cls := by
  unfold Ctx.setPred; split <;> rfl
@[simp] theorem Ctx.setPred_run (x : Ctx) (p : Fin 8) (v : Bool) : (x.setPred p v).run = x.run := by
  unfold Ctx.setPred; split <;> rfl
@[simp] theorem Ctx.setPred_regs (x : Ctx) (p : Fin 8) (v : Bool) : (x.setPred p v).regs = x.regs := by
  unfold Ctx.setPred; split <;> rfl
@[simp] theorem Ctx.setPred_latches (x : Ctx) (p : Fin 8) (v : Bool) : (x.setPred p v).latches = x.latches := by
  unfold Ctx.setPred; split <;> rfl
@[simp] theorem Ctx.setPred_mods (x : Ctx) (p : Fin 8) (v : Bool) : (x.setPred p v).mods = x.mods := by
  unfold Ctx.setPred; split <;> rfl
@[simp] theorem Ctx.setPred_loops (x : Ctx) (p : Fin 8) (v : Bool) : (x.setPred p v).loops = x.loops := by
  unfold Ctx.setPred; split <;> rfl
@[simp] theorem Ctx.setPred_pc (x : Ctx) (p : Fin 8) (v : Bool) : (x.setPred p v).pc = x.pc := by
  unfold Ctx.setPred; split <;> rfl
@[simp] theorem Ctx.setPred_partw (x : Ctx) (p : Fin 8) (v : Bool) : (x.setPred p v).partw = x.partw := by
  unfold Ctx.setPred; split <;> rfl
@[simp] theorem Ctx.setPred_fpctl (x : Ctx) (p : Fin 8) (v : Bool) : (x.setPred p v).fpctl = x.fpctl := by
  unfold Ctx.setPred; split <;> rfl
@[simp] theorem Ctx.setPred_nbv (x : Ctx) (p : Fin 8) (v : Bool) : (x.setPred p v).nbv = x.nbv := by
  unfold Ctx.setPred; split <;> rfl
@[simp] theorem Ctx.setPred_nancnt (x : Ctx) (p : Fin 8) (v : Bool) : (x.setPred p v).nancnt = x.nancnt := by
  unfold Ctx.setPred; split <;> rfl
@[simp] theorem Ctx.setPred_satcnt (x : Ctx) (p : Fin 8) (v : Bool) : (x.setPred p v).satcnt = x.satcnt := by
  unfold Ctx.setPred; split <;> rfl
@[simp] theorem Ctx.setPred_errmode (x : Ctx) (p : Fin 8) (v : Bool) : (x.setPred p v).errmode = x.errmode := by
  unfold Ctx.setPred; split <;> rfl
@[simp] theorem Ctx.setPred_dropcnt (x : Ctx) (p : Fin 8) (v : Bool) : (x.setPred p v).dropcnt = x.dropcnt := by
  unfold Ctx.setPred; split <;> rfl
@[simp] theorem Ctx.setPred_epc (x : Ctx) (p : Fin 8) (v : Bool) : (x.setPred p v).epc = x.epc := by
  unfold Ctx.setPred; split <;> rfl
@[simp] theorem Ctx.setPred_ecause (x : Ctx) (p : Fin 8) (v : Bool) : (x.setPred p v).ecause = x.ecause := by
  unfold Ctx.setPred; split <;> rfl
@[simp] theorem Ctx.setPred_eval (x : Ctx) (p : Fin 8) (v : Bool) : (x.setPred p v).eval = x.eval := by
  unfold Ctx.setPred; split <;> rfl
@[simp] theorem Ctx.setPred_tvec (x : Ctx) (p : Fin 8) (v : Bool) : (x.setPred p v).tvec = x.tvec := by
  unfold Ctx.setPred; split <;> rfl
@[simp] theorem Ctx.setPred_elatch (x : Ctx) (p : Fin 8) (v : Bool) : (x.setPred p v).elatch = x.elatch := by
  unfold Ctx.setPred; split <;> rfl
@[simp] theorem Ctx.setPred_chainbase (x : Ctx) (p : Fin 8) (v : Bool) : (x.setPred p v).chainbase = x.chainbase := by
  unfold Ctx.setPred; split <;> rfl
@[simp] theorem Ctx.setPred_chainlim (x : Ctx) (p : Fin 8) (v : Bool) : (x.setPred p v).chainlim = x.chainlim := by
  unfold Ctx.setPred; split <;> rfl
@[simp] theorem Ctx.setPred_dbgctl (x : Ctx) (p : Fin 8) (v : Bool) : (x.setPred p v).dbgctl = x.dbgctl := by
  unfold Ctx.setPred; split <;> rfl
@[simp] theorem Ctx.setPred_event (x : Ctx) (p : Fin 8) (v : Bool) : (x.setPred p v).event = x.event := by
  unfold Ctx.setPred; split <;> rfl
@[simp] theorem Ctx.setPred_evStamps (x : Ctx) (p : Fin 8) (v : Bool) : (x.setPred p v).evStamps = x.evStamps := by
  unfold Ctx.setPred; split <;> rfl
@[simp] theorem Ctx.setPred_grp (x : Ctx) (p : Fin 8) (v : Bool) : (x.setPred p v).grp = x.grp := by
  unfold Ctx.setPred; split <;> rfl
@[simp] theorem Ctx.setPred_wait (x : Ctx) (p : Fin 8) (v : Bool) : (x.setPred p v).wait = x.wait := by
  unfold Ctx.setPred; split <;> rfl
@[simp] theorem Ctx.setPred_gained (x : Ctx) (p : Fin 8) (v : Bool) : (x.setPred p v).gained = x.gained := by
  unfold Ctx.setPred; split <;> rfl
@[simp] theorem Ctx.setPred_lost (x : Ctx) (p : Fin 8) (v : Bool) : (x.setPred p v).lost = x.lost := by
  unfold Ctx.setPred; split <;> rfl
@[simp] theorem Ctx.setPred_stepDue (x : Ctx) (p : Fin 8) (v : Bool) : (x.setPred p v).stepDue = x.stepDue := by
  unfold Ctx.setPred; split <;> rfl
@[simp] theorem Ctx.setPred_stopping (x : Ctx) (p : Fin 8) (v : Bool) : (x.setPred p v).stopping = x.stopping := by
  unfold Ctx.setPred; split <;> rfl
@[simp] theorem Ctx.setPred_marked (x : Ctx) (p : Fin 8) (v : Bool) : (x.setPred p v).marked = x.marked := by
  unfold Ctx.setPred; split <;> rfl
@[simp] theorem Ctx.setPred_desched (x : Ctx) (p : Fin 8) (v : Bool) : (x.setPred p v).desched = x.desched := by
  unfold Ctx.setPred; split <;> rfl
@[simp] theorem Ctx.setPred_leafTrap (x : Ctx) (p : Fin 8) (v : Bool) : (x.setPred p v).leafTrap = x.leafTrap := by
  unfold Ctx.setPred; split <;> rfl
@[simp] theorem Ctx.setPred_asyncs (x : Ctx) (p : Fin 8) (v : Bool) : (x.setPred p v).asyncs = x.asyncs := by
  unfold Ctx.setPred; split <;> rfl
@[simp] theorem Ctx.setPred_fences (x : Ctx) (p : Fin 8) (v : Bool) : (x.setPred p v).fences = x.fences := by
  unfold Ctx.setPred; split <;> rfl
@[simp] theorem Ctx.setPred_seen (x : Ctx) (p : Fin 8) (v : Bool) : (x.setPred p v).seen = x.seen := by
  unfold Ctx.setPred; split <;> rfl
@[simp] theorem Ctx.setPred_activity (x : Ctx) (p : Fin 8) (v : Bool) : (x.setPred p v).activity = x.activity := by
  unfold Ctx.setPred; split <;> rfl
@[simp] theorem Ctx.setPred_chains (x : Ctx) (p : Fin 8) (v : Bool) : (x.setPred p v).chains = x.chains := by
  unfold Ctx.setPred; split <;> rfl
@[simp] theorem Ctx.setPred_heldSlots (x : Ctx) (p : Fin 8) (v : Bool) : (x.setPred p v).heldSlots = x.heldSlots := by
  unfold Ctx.setPred; split <;> rfl
@[simp] theorem Ctx.setPred_heldTiles (x : Ctx) (p : Fin 8) (v : Bool) : (x.setPred p v).heldTiles = x.heldTiles := by
  unfold Ctx.setPred; split <;> rfl
@[simp] theorem Ctx.setPred_tit (x : Ctx) (p : Fin 8) (v : Bool) : (x.setPred p v).tit = x.tit := by
  unfold Ctx.setPred; split <;> rfl
@[simp] theorem Ctx.setPred_sems (x : Ctx) (p : Fin 8) (v : Bool) : (x.setPred p v).sems = x.sems := by
  unfold Ctx.setPred; split <;> rfl
@[simp] theorem Ctx.setPred_qs (x : Ctx) (p : Fin 8) (v : Bool) : (x.setPred p v).qs = x.qs := by
  unfold Ctx.setPred; split <;> rfl
@[simp] theorem Ctx.setPred_axis (x : Ctx) (p : Fin 8) (v : Bool) : (x.setPred p v).axis = x.axis := by
  unfold Ctx.setPred; split <;> rfl
@[simp] theorem Ctx.setPred_banks (x : Ctx) (p : Fin 8) (v : Bool) : (x.setPred p v).banks = x.banks := by
  unfold Ctx.setPred; split <;> rfl
@[simp] theorem Ctx.setPred_covs (x : Ctx) (p : Fin 8) (v : Bool) : (x.setPred p v).covs = x.covs := by
  unfold Ctx.setPred; split <;> rfl
@[simp] theorem Ctx.setPred_reloc (x : Ctx) (p : Fin 8) (v : Bool) : (x.setPred p v).reloc = x.reloc := by
  unfold Ctx.setPred; split <;> rfl
@[simp] theorem Ctx.setPred_answers (x : Ctx) (p : Fin 8) (v : Bool) : (x.setPred p v).answers = x.answers := by
  unfold Ctx.setPred; split <;> rfl
@[simp] theorem Ctx.count_num (x : Ctx) (k : Fin 9) (n : Nat) : (x.count k n).num = x.num := rfl
@[simp] theorem Ctx.count_job (x : Ctx) (k : Fin 9) (n : Nat) : (x.count k n).job = x.job := rfl
@[simp] theorem Ctx.count_record (x : Ctx) (k : Fin 9) (n : Nat) : (x.count k n).record = x.record := rfl
@[simp] theorem Ctx.count_cls (x : Ctx) (k : Fin 9) (n : Nat) : (x.count k n).cls = x.cls := rfl
@[simp] theorem Ctx.count_run (x : Ctx) (k : Fin 9) (n : Nat) : (x.count k n).run = x.run := rfl
@[simp] theorem Ctx.count_regs (x : Ctx) (k : Fin 9) (n : Nat) : (x.count k n).regs = x.regs := rfl
@[simp] theorem Ctx.count_preds (x : Ctx) (k : Fin 9) (n : Nat) : (x.count k n).preds = x.preds := rfl
@[simp] theorem Ctx.count_latches (x : Ctx) (k : Fin 9) (n : Nat) : (x.count k n).latches = x.latches := rfl
@[simp] theorem Ctx.count_mods (x : Ctx) (k : Fin 9) (n : Nat) : (x.count k n).mods = x.mods := rfl
@[simp] theorem Ctx.count_loops (x : Ctx) (k : Fin 9) (n : Nat) : (x.count k n).loops = x.loops := rfl
@[simp] theorem Ctx.count_pc (x : Ctx) (k : Fin 9) (n : Nat) : (x.count k n).pc = x.pc := rfl
@[simp] theorem Ctx.count_partw (x : Ctx) (k : Fin 9) (n : Nat) : (x.count k n).partw = x.partw := rfl
@[simp] theorem Ctx.count_fpctl (x : Ctx) (k : Fin 9) (n : Nat) : (x.count k n).fpctl = x.fpctl := rfl
@[simp] theorem Ctx.count_nbv (x : Ctx) (k : Fin 9) (n : Nat) : (x.count k n).nbv = x.nbv := rfl
@[simp] theorem Ctx.count_nancnt (x : Ctx) (k : Fin 9) (n : Nat) : (x.count k n).nancnt = x.nancnt := rfl
@[simp] theorem Ctx.count_satcnt (x : Ctx) (k : Fin 9) (n : Nat) : (x.count k n).satcnt = x.satcnt := rfl
@[simp] theorem Ctx.count_errmode (x : Ctx) (k : Fin 9) (n : Nat) : (x.count k n).errmode = x.errmode := rfl
@[simp] theorem Ctx.count_dropcnt (x : Ctx) (k : Fin 9) (n : Nat) : (x.count k n).dropcnt = x.dropcnt := rfl
@[simp] theorem Ctx.count_epc (x : Ctx) (k : Fin 9) (n : Nat) : (x.count k n).epc = x.epc := rfl
@[simp] theorem Ctx.count_ecause (x : Ctx) (k : Fin 9) (n : Nat) : (x.count k n).ecause = x.ecause := rfl
@[simp] theorem Ctx.count_eval (x : Ctx) (k : Fin 9) (n : Nat) : (x.count k n).eval = x.eval := rfl
@[simp] theorem Ctx.count_tvec (x : Ctx) (k : Fin 9) (n : Nat) : (x.count k n).tvec = x.tvec := rfl
@[simp] theorem Ctx.count_elatch (x : Ctx) (k : Fin 9) (n : Nat) : (x.count k n).elatch = x.elatch := rfl
@[simp] theorem Ctx.count_chainbase (x : Ctx) (k : Fin 9) (n : Nat) : (x.count k n).chainbase = x.chainbase := rfl
@[simp] theorem Ctx.count_chainlim (x : Ctx) (k : Fin 9) (n : Nat) : (x.count k n).chainlim = x.chainlim := rfl
@[simp] theorem Ctx.count_dbgctl (x : Ctx) (k : Fin 9) (n : Nat) : (x.count k n).dbgctl = x.dbgctl := rfl
@[simp] theorem Ctx.count_event (x : Ctx) (k : Fin 9) (n : Nat) : (x.count k n).event = x.event := rfl
@[simp] theorem Ctx.count_evStamps (x : Ctx) (k : Fin 9) (n : Nat) : (x.count k n).evStamps = x.evStamps := rfl
@[simp] theorem Ctx.count_grp (x : Ctx) (k : Fin 9) (n : Nat) : (x.count k n).grp = x.grp := rfl
@[simp] theorem Ctx.count_wait (x : Ctx) (k : Fin 9) (n : Nat) : (x.count k n).wait = x.wait := rfl
@[simp] theorem Ctx.count_gained (x : Ctx) (k : Fin 9) (n : Nat) : (x.count k n).gained = x.gained := rfl
@[simp] theorem Ctx.count_lost (x : Ctx) (k : Fin 9) (n : Nat) : (x.count k n).lost = x.lost := rfl
@[simp] theorem Ctx.count_stepDue (x : Ctx) (k : Fin 9) (n : Nat) : (x.count k n).stepDue = x.stepDue := rfl
@[simp] theorem Ctx.count_stopping (x : Ctx) (k : Fin 9) (n : Nat) : (x.count k n).stopping = x.stopping := rfl
@[simp] theorem Ctx.count_marked (x : Ctx) (k : Fin 9) (n : Nat) : (x.count k n).marked = x.marked := rfl
@[simp] theorem Ctx.count_desched (x : Ctx) (k : Fin 9) (n : Nat) : (x.count k n).desched = x.desched := rfl
@[simp] theorem Ctx.count_leafTrap (x : Ctx) (k : Fin 9) (n : Nat) : (x.count k n).leafTrap = x.leafTrap := rfl
@[simp] theorem Ctx.count_asyncs (x : Ctx) (k : Fin 9) (n : Nat) : (x.count k n).asyncs = x.asyncs := rfl
@[simp] theorem Ctx.count_fences (x : Ctx) (k : Fin 9) (n : Nat) : (x.count k n).fences = x.fences := rfl
@[simp] theorem Ctx.count_seen (x : Ctx) (k : Fin 9) (n : Nat) : (x.count k n).seen = x.seen := rfl
@[simp] theorem Ctx.count_chains (x : Ctx) (k : Fin 9) (n : Nat) : (x.count k n).chains = x.chains := rfl
@[simp] theorem Ctx.count_heldSlots (x : Ctx) (k : Fin 9) (n : Nat) : (x.count k n).heldSlots = x.heldSlots := rfl
@[simp] theorem Ctx.count_heldTiles (x : Ctx) (k : Fin 9) (n : Nat) : (x.count k n).heldTiles = x.heldTiles := rfl
@[simp] theorem Ctx.count_tit (x : Ctx) (k : Fin 9) (n : Nat) : (x.count k n).tit = x.tit := rfl
@[simp] theorem Ctx.count_sems (x : Ctx) (k : Fin 9) (n : Nat) : (x.count k n).sems = x.sems := rfl
@[simp] theorem Ctx.count_qs (x : Ctx) (k : Fin 9) (n : Nat) : (x.count k n).qs = x.qs := rfl
@[simp] theorem Ctx.count_axis (x : Ctx) (k : Fin 9) (n : Nat) : (x.count k n).axis = x.axis := rfl
@[simp] theorem Ctx.count_banks (x : Ctx) (k : Fin 9) (n : Nat) : (x.count k n).banks = x.banks := rfl
@[simp] theorem Ctx.count_covs (x : Ctx) (k : Fin 9) (n : Nat) : (x.count k n).covs = x.covs := rfl
@[simp] theorem Ctx.count_reloc (x : Ctx) (k : Fin 9) (n : Nat) : (x.count k n).reloc = x.reloc := rfl
@[simp] theorem Ctx.count_answers (x : Ctx) (k : Fin 9) (n : Nat) : (x.count k n).answers = x.answers := rfl

/-- The place of a vector just set holds the value; the others are as they were. -/
@[simp] theorem vec_get_set {α : Type} {n : Nat} (v : Vector α n) (i : Fin n) (x : α) (h : i.val < n) : (v.set i.val x h).get i = x := by
  show (v.set i.val x h)[i.val] = x
  simp
theorem vec_get_set_ne {α : Type} {n : Nat} (v : Vector α n) (i j : Fin n) (x : α) (h : i.val < n) (hij : i ≠ j) :
    (v.set i.val x h).get j = v.get j := by
  show (v.set i.val x h)[j.val] = v[j.val]
  exact Vector.getElem_set_ne h j.isLt (Fin.val_ne_of_ne hij)

@[simp] theorem State.tile_setTile (s : State) (t : TileNo) (x : Tile) : (s.setTile t x).tile t = x := by
  simp [State.tile, State.setTile]
theorem State.tile_setTile_ne (s : State) (t u : TileNo) (x : Tile) (h : t ≠ u) : (s.setTile t x).tile u = s.tile u := by
  simp [State.tile, State.setTile, vec_get_set_ne _ _ _ _ _ h]
@[simp] theorem State.ctx_setSlot (s : State) (t : TileNo) (c : SlotNo) (x : Option Ctx) : (s.setSlot t c x).ctx? t c = x := by
  simp [State.ctx?, State.setSlot]
/-- A changed context reads as changed. -/
theorem State.ctx_modCtx (s : State) (t : TileNo) (c : SlotNo) (g : Ctx → Ctx) : (s.modCtx t c g).ctx? t c = (s.ctx? t c).map g := by
  unfold State.modCtx
  split <;> rename_i h <;> simp [h]
/-- The general register just written holds the value; the others are as they were. -/
@[simp] theorem Ctx.setReg_get (x : Ctx) (g : Fin 48) (v : Word) : (x.setReg g v).regs.get g = v := by simp [Ctx.setReg]
theorem Ctx.setReg_get_ne (x : Ctx) (g n : Fin 48) (v : Word) (h : g ≠ n) : (x.setReg g v).regs.get n = x.regs.get n := by
  simp [Ctx.setReg, vec_get_set_ne _ _ _ _ _ h]

end Sys2Proof.Machine
end

