-- ==== Sys2Proof/Laws/Area.lean ====
section
/-!
SUPPORT. What the requests that a step has made do not touch: translation, and the bytes and the requests of an area; and what a context of another
device's form keeps.
-/
namespace Sys2Proof.Machine

theorem hwXlate_reqs (s : State) (l : List (Nat × Nat)) (job a : Nat) (w : Bool) :
    hwXlate { s with reqs := l } job a w = hwXlate s job a w := rfl
theorem readBytes_reqs (s : State) (l : List (Nat × Nat)) (k n : Nat) : readBytes { s with reqs := l } k n = readBytes s k n := by
  induction n generalizing k with
  | zero => rfl
  | succ n ih => simp only [readBytes, ih]
theorem badBytes_reqs (s : State) (l : List (Nat × Nat)) (k n : Nat) : badBytes { s with reqs := l } k n = badBytes s k n := by
  induction n generalizing k with
  | zero => rfl
  | succ n ih => simp only [badBytes, ih]
theorem readArea_reqs (s : State) (l : List (Nat × Nat)) (job a n : Nat) : readArea { s with reqs := l } job a n = readArea s job a n := by
  simp only [readArea, hwXlate_reqs, readBytes_reqs, badBytes_reqs]
theorem areaReqs_reqs (s : State) (l : List (Nat × Nat)) (t : TileNo) (job a n : Nat) (w : Bool) :
    areaReqs { s with reqs := l } t job a n w = areaReqs s t job a n w := by
  simp only [areaReqs, hwXlate_reqs]

/-- In a context of another device's form the loop levels are active as the LOOPST of its area says, which CTXRESTORE checks (R102, R385). -/
theorem foreignCtx_act (bs : List Byte) (L : Fin 2) : ((foreignCtx bs).ctx.loops.get L).act = (areaLoopst bs).testBit L := by
  unfold foreignCtx
  simp only [Vector.get, Vector.toArray_ofFn, Array.getElem_ofFn]
  rfl

end Sys2Proof.Machine
end

