-- ==== Sys2Proof/Laws/Memory.lean ====
section
/-!
SUPPORT. Memory: a read after a write, a read elsewhere, and that every memory operation keeps the canonical form (log 3).
-/
namespace Sys2Proof.Machine

/-! ## Reads -/

/-- Below the first listed address everything reads as unlisted. -/
theorem cellGet_below (m : List Host.Cell) : ∀ lo k, cellsWfFrom lo m = true → k < lo → cellGet m k = unlisted := by
  cases m with
  | nil => intros; rfl
  | cons p r =>
    obtain ⟨a, b⟩ := p
    intro lo k h hk
    simp only [cellsWfFrom, Bool.and_eq_true, decide_eq_true_eq] at h
    have : a ≠ k := by omega
    have : k < a := by omega
    simp [cellGet, *]

/-- Reading a cell after it was put at the head. -/
theorem cellGet_cellCons (m : List Host.Cell) (k j : Nat) (b : Byte) (h : cellsWfFrom (k + 1) m = true) :
    cellGet (cellCons k b m) j = if j = k then b else if j < k then unlisted else cellGet m j := by
  unfold cellCons
  split <;> rename_i hb
  · rcases Nat.lt_trichotomy j k with hj | hj | hj
    · have := cellGet_below m (k + 1) j h (by omega)
      simp [this, show j ≠ k by omega, hj]
    · have := cellGet_below m (k + 1) j h (by omega)
      rw [this, if_pos hj, hb]
    · simp [show j ≠ k by omega, show ¬ j < k by omega]
  · simp only [cellGet, eq_comm]

/-- A weaker bound. -/
theorem cellsWfFrom_mono (m : List Host.Cell) : ∀ a b, a ≤ b → cellsWfFrom b m = true → cellsWfFrom a m = true := by
  cases m with
  | nil => intros; rfl
  | cons p r =>
    obtain ⟨k, v⟩ := p
    intro a b hab h
    simp only [cellsWfFrom, Bool.and_eq_true, decide_eq_true_eq] at *
    exact ⟨⟨by omega, h.1.2⟩, h.2⟩

/-- Putting a cell at the head keeps the form. -/
theorem cellCons_wf (m : List Host.Cell) (lo k : Nat) (b : Byte) (hk : lo ≤ k) (h : cellsWfFrom (k + 1) m = true) :
    cellsWfFrom lo (cellCons k b m) = true := by
  unfold cellCons
  split <;> rename_i hb
  · exact cellsWfFrom_mono m lo (k + 1) (by omega) h
  · simp [cellsWfFrom, hk, h, hb]

/-- A byte written keeps the form. -/
theorem cellSet_wfFrom (m : List Host.Cell) : ∀ lo k b, cellsWfFrom lo m = true → lo ≤ k → cellsWfFrom lo (cellSet m k b) = true := by
  induction m with
  | nil => intro lo k b _ hk; exact cellCons_wf [] lo k b hk rfl
  | cons p r ih =>
    obtain ⟨a, v⟩ := p
    intro lo k b h hk
    have h' := h
    simp only [cellsWfFrom, Bool.and_eq_true, decide_eq_true_eq] at h
    simp only [cellSet]
    split
    · exact cellCons_wf r lo k b hk (by simp_all)
    · split
      · refine cellCons_wf _ lo k b hk ?_
        simp only [cellsWfFrom, Bool.and_eq_true, decide_eq_true_eq]
        exact ⟨⟨by omega, h.1.2⟩, h.2⟩
      · simp only [cellsWfFrom, Bool.and_eq_true, decide_eq_true_eq]
        exact ⟨h.1, ih (a + 1) k b h.2 (by omega)⟩

/-- A byte written reads as written, and every other byte as before. -/
theorem cellGet_cellSet (m : List Host.Cell) : ∀ lo k j b, cellsWfFrom lo m = true →
    cellGet (cellSet m k b) j = if j = k then b else cellGet m j := by
  induction m with
  | nil =>
    intro lo k j b _
    rw [show cellSet [] k b = cellCons k b [] from rfl, cellGet_cellCons [] k j b rfl]
    split <;> simp [cellGet]
  | cons p r ih =>
    obtain ⟨a, v⟩ := p
    intro lo k j b h
    have h' := h
    simp only [cellsWfFrom, Bool.and_eq_true, decide_eq_true_eq] at h
    simp only [cellSet]
    split
    · rename_i hak
      rw [cellGet_cellCons r k j b (by simp_all)]
      by_cases hj : j = k
      · simp [hj]
      · by_cases hl : j < k
        · simp [hj, hl, cellGet, show a ≠ j by omega, show j < a by omega]
        · simp [hj, hl, cellGet, show a ≠ j by omega, show ¬ j < a by omega]
    · split
      · rename_i hak hka
        have hw : cellsWfFrom (k + 1) ((a, v) :: r) = true := by
          simp only [cellsWfFrom, Bool.and_eq_true, decide_eq_true_eq]
          exact ⟨⟨by omega, h.1.2⟩, h.2⟩
        rw [cellGet_cellCons _ k j b hw]
        by_cases hj : j = k
        · simp [hj]
        · by_cases hl : j < k
          · simp [hj, hl, cellGet, show a ≠ j by omega, show j < a by omega]
          · simp [hj, hl]
      · rename_i hak hka
        have := ih (a + 1) k j b h.2
        simp only [cellGet]
        by_cases hj : a = j
        · simp [hj, show j ≠ k by omega]
        · by_cases hl : j < a
          · simp [hj, hl, show j ≠ k by omega]
          · simp only [hj, hl, if_false, this]

/-! ## Ranges -/

/-- Bytes written keep the form. -/
theorem cellsWrite_wf (bs : List Byte) : ∀ m k, Memory.wf m = true → Memory.wf (cellsWrite m k bs) = true := by
  induction bs with
  | nil => intro m k h; exact h
  | cons b r ih => intro m k h; exact ih _ _ (cellSet_wfFrom m 0 k b h (Nat.zero_le k))

/-- Bytes written leave every byte outside them. -/
theorem cellGet_cellsWrite_out (bs : List Byte) : ∀ m k j, Memory.wf m = true → (j < k ∨ k + bs.length ≤ j) →
    cellGet (cellsWrite m k bs) j = cellGet m j := by
  induction bs with
  | nil => intros; rfl
  | cons b r ih =>
    intro m k j h hj
    simp only [List.length_cons] at hj
    show cellGet (cellsWrite (cellSet m k b) (k + 1) r) j = _
    rw [ih _ (k + 1) j (cellSet_wfFrom m 0 k b h (Nat.zero_le k)) (by omega), cellGet_cellSet m 0 k j b h, if_neg (by omega)]

/-- Bytes written read as written. -/
theorem cellsRead_cellsWrite (bs : List Byte) : ∀ m k, Memory.wf m = true → cellsRead (cellsWrite m k bs) k bs.length = bs := by
  induction bs with
  | nil => intros; rfl
  | cons b r ih =>
    intro m k h
    have hw := cellSet_wfFrom m 0 k b h (Nat.zero_le k)
    show cellGet (cellsWrite (cellSet m k b) (k + 1) r) k :: cellsRead (cellsWrite (cellSet m k b) (k + 1) r) (k + 1) r.length = b :: r
    rw [ih _ (k + 1) hw, cellGet_cellsWrite_out r _ (k + 1) k hw (by omega), cellGet_cellSet m 0 k k b h, if_pos rfl]

/-- Leaving cells out keeps the form. -/
theorem filter_wfFrom (p : Host.Cell → Bool) (m : List Host.Cell) : ∀ lo, cellsWfFrom lo m = true → cellsWfFrom lo (m.filter p) = true := by
  induction m with
  | nil => intros; rfl
  | cons c r ih =>
    obtain ⟨a, v⟩ := c
    intro lo h
    simp only [cellsWfFrom, Bool.and_eq_true, decide_eq_true_eq] at h
    have hr := ih (a + 1) h.2
    simp only [List.filter_cons]
    split
    · simp only [cellsWfFrom, Bool.and_eq_true, decide_eq_true_eq]
      exact ⟨h.1, hr⟩
    · exact cellsWfFrom_mono _ lo (a + 1) (by omega) hr

/-! ## The memory operations of a state -/

theorem State.MemOk.writeBytes {s : State} (h : s.MemOk) (k : Nat) (bs : List Byte) (b : Bool) : (writeBytes s k bs b).MemOk :=
  cellsWrite_wf bs s.mem k h
theorem State.MemOk.writeNat {s : State} (h : s.MemOk) (k n v : Nat) : (writeNat s k n v).MemOk := cellsWrite_wf (natLe n v) s.mem k h
theorem State.MemOk.zeroBytes {s : State} (h : s.MemOk) (k n : Nat) : (zeroBytes s k n).MemOk := filter_wfFrom _ s.mem 0 h
theorem State.MemOk.filter {s : State} (h : s.MemOk) (p : Host.Cell → Bool) : Memory.wf (s.mem.filter p) = true := filter_wfFrom p s.mem 0 h
/-- Any list of single bytes written keeps the form. -/
theorem State.MemOk.foldSet (l : List Host.Cell) (f : Host.Cell → Nat) (g : Host.Cell → Byte) :
    ∀ m, Memory.wf m = true → Memory.wf (l.foldl (fun m c => cellSet m (f c) (g c)) m) = true := by
  induction l with
  | nil => intro m h; exact h
  | cons c r ih => intro m h; exact ih _ (cellSet_wfFrom m 0 (f c) (g c) h (Nat.zero_le _))

/-- What writes no memory keeps the form. -/
theorem State.MemOk.of_mem {s t : State} (h : s.MemOk) (e : t.mem = s.mem) : t.MemOk := by
  show Memory.wf t.mem = true
  rw [e]
  exact h

/-- The memory right after reset has the form. -/
theorem reset_mem_canonical : Memory.wf State.reset.mem = true := rfl

/-! ## Numbers and bytes -/

/-- A number's low bytes have the length asked for. -/
@[simp] theorem natLe_length (n : Nat) : ∀ v, (natLe n v).length = n := by
  induction n with
  | zero => intro v; rfl
  | succ k ih => intro v; simp [natLe, ih]

/-- The number of the low bytes of a number is the number, as far as they hold it. -/
theorem leNat_natLe (n : Nat) : ∀ v, leNat (natLe n v) = v % 256 ^ n := by
  induction n with
  | zero => intro v; simp [natLe, leNat, Nat.mod_one]
  | succ k ih =>
    intro v
    simp only [natLe, leNat, ih, BitVec.toNat_ofNat]
    have h := Nat.mod_mul (x := v) (a := 256) (b := 256 ^ k)
    have e : 256 ^ (k + 1) = 256 * 256 ^ k := by rw [Nat.pow_succ, Nat.mul_comm]
    rw [e, h]

/-- The bytes of the number of some bytes are those bytes. -/
theorem natLe_leNat (bs : List Byte) : natLe bs.length (leNat bs) = bs := by
  induction bs with
  | nil => rfl
  | cons b r ih =>
    have hb := b.isLt
    have h1 : (b.toNat + 256 * leNat r) / 256 = leNat r := by omega
    simp only [List.length_cons, natLe, leNat, h1, ih, List.cons.injEq, and_true]
    apply BitVec.eq_of_toNat_eq
    simp only [BitVec.toNat_ofNat]
    omega

end Sys2Proof.Machine
end

