-- ==== Sys2Proof/Laws/Keeps.lean ====
section
/-!
SUPPORT. Effects that keep the canonical form of memory, one lemma for each way an effect is put together: a meaning built of such
parts keeps the form, and so does the step that runs it.
-/
namespace Sys2Proof.Machine

/-- Whatever the effect leaves behind, its memory is canonical if it was before. -/
def KeepsMem {α : Type} (m : M α) : Prop :=
  ∀ s : State, s.MemOk → match m s with
    | .ok (_, t) => t.MemOk
    | .error (.wait _ t) => t.MemOk
    | .error (.send f) => ∀ u : State, u.MemOk → (f u).1.MemOk
    | .error _ => True

/-! ## State operations that write no memory -/

theorem State.MemOk.setTile {s : State} (h : s.MemOk) (t : TileNo) (x : Tile) : (s.setTile t x).MemOk := h
theorem State.MemOk.setSlot {s : State} (h : s.MemOk) (t : TileNo) (c : SlotNo) (x : Option Ctx) : (s.setSlot t c x).MemOk := h
theorem State.MemOk.modCtx {s : State} (h : s.MemOk) (t : TileNo) (c : SlotNo) (f : Ctx → Ctx) : (s.modCtx t c f).MemOk :=
  h.of_mem (State.modCtx_mem s t c f)
theorem State.MemOk.modJob {s : State} (h : s.MemOk) (k : Nat) (f : Job → Job) : (s.modJob k f).MemOk := h
theorem State.MemOk.addErr {s : State} (h : s.MemOk) (r : ErrRec) : (s.addErr r).MemOk := h.of_mem (State.addErr_mem s r)
theorem State.MemOk.settled {s : State} (h : s.MemOk) : s.settled.MemOk := h

/-! ### The operations of bandwidth and energy -/

@[simp] theorem State.closePeriod_mem (q : Fin 256) (n : Nat) (s : State) : (s.closePeriod q n).mem = s.mem := by
  unfold State.closePeriod; dsimp only; split <;> rfl
@[simp] theorem State.settleQueue_mem (q : Fin 256) (s : State) : (s.settleQueue q).mem = s.mem := by
  unfold State.settleQueue
  split
  · split <;> simp
  · rfl
@[simp] theorem State.deschedule_mem (q : Fin 256) (s : State) : (s.deschedule q).mem = s.mem := by
  unfold State.deschedule; dsimp only; split <;> rfl
@[simp] theorem refills_mem (d : Fin 8) (n : Nat) (s : State) : (refills d n s).mem = s.mem := by
  induction n generalizing s with
  | zero => rfl
  | succ n ih => exact (ih _).trans rfl
@[simp] theorem settleDie_mem (d : Fin 8) (s : State) : (settleDie d s).mem = s.mem := by
  unfold settleDie; dsimp only; split
  · rfl
  · exact refills_mem d _ s
@[simp] theorem State.dropReq_mem (s : State) (t : TileNo) (c : SlotNo) (w : Option (ChainNo × Nat)) : (s.dropReq t c w).mem = s.mem := by
  unfold State.dropReq; split <;> rfl

@[simp] theorem State.chargeQueue_mem (i : Fin 256) (k : Fin 9) (n : Nat) (s : State) : (s.chargeQueue i k n).mem = s.mem := by
  unfold State.chargeQueue; simp
@[simp] theorem State.chargeJob_mem (job : Nat) (k : Fin 9) (n : Nat) (s : State) : (s.chargeJob job k n).mem = s.mem := by
  unfold State.chargeJob; split <;> simp
@[simp] theorem State.modEvery_mem (job : Nat) (num : BitVec 16) (f : Ctx → Ctx) (s : State) : (s.modEvery job num f).mem = s.mem := rfl
@[simp] theorem chargeAccess_mem (s0 : State) (t : TileNo) (c : SlotNo) (n : Nat) (s : State) : (chargeAccess s0 t c n s).mem = s.mem := by
  unfold chargeAccess
  split
  · rfl
  · split
    · rfl
    · split
      · rfl
      · dsimp only; split <;> simp

theorem State.MemOk.charge {s : State} (h : s.MemOk) (t : TileNo) (c : SlotNo) (k : Fin 9) (n : Nat) : (s.charge t c k n).MemOk := by
  refine h.of_mem ?_
  unfold State.charge
  split
  · rfl
  · split
    · rfl
    · simp

theorem State.MemOk.payUnits {s t : State} (h : s.MemOk) (s0 : State) (u : TileNo) (c : SlotNo) (w : Option (ChainNo × Nat)) (job : Nat)
    (hp : payUnits s0 u c w job s = some t) : t.MemOk := by
  refine h.of_mem ?_
  unfold Machine.payUnits at hp
  dsimp only at hp
  split at hp
  · cases hp; rfl
  · split at hp
    · cases hp; rfl
    · split at hp
      · cases hp; exact settleDie_mem _ s
      · split at hp
        · cases hp
          exact (State.dropReq_mem _ _ _ _).trans (settleDie_mem _ s)
        · cases hp

theorem State.MemOk.settleStep {s t : State} (h : s.MemOk) (s0 : State) (u : TileNo) (c : SlotNo) (w : Option (ChainNo × Nat)) (job : Nat)
    (hp : settleStep s0 u c w job s = some t) : t.MemOk :=
  State.MemOk.payUnits (h.of_mem (chargeAccess_mem _ _ _ _ _)) _ _ _ _ _ hp

theorem State.MemOk.markWaiting {s : State} (h : s.MemOk) (t : TileNo) (c : SlotNo) (w : Option (ChainNo × Nat)) (job : Nat) (l : List (Nat × Nat)) :
    (markWaiting t c w job l s).MemOk := by
  refine h.of_mem ?_
  unfold Machine.markWaiting
  split
  · rfl
  · exact settleDie_mem _ s

theorem State.MemOk.applySide {s : State} (h : s.MemOk) (t : TileNo) (c : SlotNo) (d : Side) : (applySide t c d s).MemOk := by
  unfold Machine.applySide
  refine State.MemOk.modCtx ?_ _ _ _
  have : ∀ (l : List ErrRec) (u : State), u.MemOk → (l.foldl State.addErr u).MemOk := by
    intro l
    induction l with
    | nil => intro u hu; exact hu
    | cons r l ih => intro u hu; exact ih _ (hu.addErr r)
  exact this _ _ h

theorem State.MemOk.enterTrap {s : State} (h : s.MemOk) (t : TileNo) (c : SlotNo) (k : TrapKind) (a : Cause) (p v : Word) (l : List Word) :
    (enterTrap t c k a p v l s).MemOk := by
  unfold Machine.enterTrap
  split
  · exact h
  · split <;> exact h

theorem State.MemOk.takePending {s : State} (h : s.MemOk) (t : TileNo) (c : SlotNo) : (takePending t c s).MemOk := by
  unfold Machine.takePending
  split
  · exact h
  · split
    · exact h
    · split
      · exact State.MemOk.enterTrap (h.setSlot _ _ _) _ _ _ _ _ _ _
      · split
        · exact State.MemOk.enterTrap (h.setSlot _ _ _) _ _ _ _ _ _ _
        · exact h

theorem State.MemOk.setWait {s : State} (h : s.MemOk) (t : TileNo) (c : SlotNo) (d : Hd) (n : Nat) (b : Bool) (e : Option Dst) (k : WaitKind) :
    (setWait t c d n b e k s).MemOk := by
  refine State.MemOk.modCtx ?_ _ _ _
  split
  · exact h
  · exact h.of_mem (State.dropReq_mem _ _ _ _)

theorem State.MemOk.resumeStep {s : State} (h : s.MemOk) (t : TileNo) (c : SlotNo) : (resumeStep t c s).MemOk := by
  unfold Machine.resumeStep
  split
  · exact h
  · split
    · exact State.MemOk.enterTrap (h.setSlot _ _ _) _ _ _ _ _ _ _
    · exact h

theorem State.MemOk.complete {s : State} (h : s.MemOk) (t : TileNo) (c : SlotNo) (n : Nat) (a b : Bool) (e : Eff) :
    (complete t c n a b e s).MemOk := by
  have h := h.charge t c 8 1
  unfold Machine.complete
  dsimp only
  split
  · exact h
  · split
    · exact h
    · exact State.MemOk.resumeStep (h.setSlot _ _ _) _ _
    · split
      · exact State.MemOk.enterTrap (h.setSlot _ _ _) _ _ _ _ _ _ _
      · split
        · exact State.MemOk.takePending (h.setSlot _ _ _) _ _
        · exact h
    · split
      · exact State.MemOk.enterTrap (h.setSlot _ _ _) _ _ _ _ _ _ _
      · split
        · exact State.MemOk.takePending (h.setSlot _ _ _) _ _
        · exact h
    · exact State.MemOk.enterTrap (h.setSlot _ _ _) _ _ _ _ _ _ _

/-! ## Putting effects together -/

theorem KeepsMem.pure {α : Type} (a : α) : KeepsMem (pure a : M α) := fun _ h => h
theorem KeepsMem.bind {α β : Type} {m : M α} {f : α → M β} (hm : KeepsMem m) (hf : ∀ a, KeepsMem (f a)) : KeepsMem (m >>= f) := by
  intro s h
  have h1 := hm s h
  simp only [Bind.bind, StateT.bind, Except.bind]
  cases hr : m s with
  | error e => rw [hr] at h1; cases e <;> exact h1
  | ok p => rw [hr] at h1; exact hf p.1 p.2 h1
theorem KeepsMem.upd {f : State → State} (h : ∀ s : State, s.MemOk → (f s).MemOk) : KeepsMem (upd f) := fun s hs => h s hs
theorem KeepsMem.see {α : Type} (f : State → α) : KeepsMem (see f) := fun _ h => h
theorem KeepsMem.check (b : Bool) (c : Cause) (v : Word) : KeepsMem (check b c v) := by
  cases b
  · exact fun _ _ => trivial
  · exact fun _ h => h
theorem KeepsMem.enabled (b : Bool) : KeepsMem (enabled b) := by
  cases b
  · exact fun _ _ => trivial
  · exact fun _ h => h
theorem KeepsMem.present {α : Type} (o : Option α) : KeepsMem (present o) := by
  cases o
  · exact fun _ _ => trivial
  · exact fun _ h => h
theorem KeepsMem.trap {α : Type} (c : Cause) (v : Word) : KeepsMem (trap c v : M α) := fun _ _ => trivial
theorem KeepsMem.waitFor {α : Type} (k : WaitKind) : KeepsMem (waitFor k : M α) := fun _ h => h
theorem KeepsMem.drawNat : KeepsMem drawNat := fun _ h => h
theorem KeepsMem.drawBit : KeepsMem drawBit := fun _ h => h
theorem KeepsMem.me : KeepsMem me := fun _ h => h
theorem KeepsMem.getCtx (t : TileNo) (c : SlotNo) : KeepsMem (getCtx t c) := (KeepsMem.see _).bind fun _ => KeepsMem.present _
theorem KeepsMem.myCtx : KeepsMem myCtx := KeepsMem.me.bind fun _ => KeepsMem.getCtx _ _
theorem KeepsMem.modCtx (t : TileNo) (c : SlotNo) (f : Ctx → Ctx) : KeepsMem (modCtx t c f) := fun _ h => h.modCtx t c f
theorem KeepsMem.modMe (f : Ctx → Ctx) : KeepsMem (modMe f) := KeepsMem.me.bind fun _ => KeepsMem.modCtx _ _ f
theorem KeepsMem.modTile (t : TileNo) (f : Tile → Tile) : KeepsMem (modTile t f) := fun _ h => h
theorem KeepsMem.ite {α : Type} {p : Prop} [Decidable p] {a b : M α} (ha : KeepsMem a) (hb : KeepsMem b) : KeepsMem (if p then a else b) := by
  split
  · exact ha
  · exact hb
theorem KeepsMem.forM {α : Type} (l : List α) {f : α → M PUnit} (h : ∀ a, KeepsMem (f a)) : KeepsMem (l.forM f) := by
  induction l with
  | nil => exact KeepsMem.pure _
  | cons a l ih => exact (h a).bind fun _ => ih
theorem KeepsMem.readA (r : Src) : KeepsMem (readA r) := by
  refine KeepsMem.me.bind fun _ => (KeepsMem.getCtx _ _).bind fun x => ?_
  split
  · exact KeepsMem.pure _
  · exact KeepsMem.drawNat.bind fun _ => KeepsMem.trap _ _
theorem KeepsMem.readC (r : Src) (a : Word) : KeepsMem (readC r a) := by
  refine KeepsMem.me.bind fun _ => (KeepsMem.getCtx _ _).bind fun x => ?_
  split
  · exact KeepsMem.pure _
  · exact KeepsMem.trap _ _

/-! ## The wrappers -/

/-- A step of another agent built of such an effect. -/
theorem KeepsMem.agent {m : M Unit} (hm : KeepsMem m) (s t : State) (h : s.MemOk) (hn : agent m s = .next t) : t.MemOk := by
  have h1 := hm s h
  unfold Machine.agent at hn
  split at hn <;> rename_i e
  · rw [e] at h1; cases hn; exact h1
  · rw [e] at h1; cases hn; exact h1
  · cases hn
  · cases hn
  · cases hn; exact h

/-- A step of a dealer keeps the form where its effect and its end do. -/
theorem State.MemOk.paidOr {s u : State} (h : s.MemOk) (hu : u.MemOk) (t : TileNo) (c : SlotNo) (x : Ctx) (hd : Hd) (len : Nat) (ends : Bool)
    (dst : Option Dst) {f : State → State} (hf : ∀ v : State, v.MemOk → (f v).MemOk) : (paidOr t c x hd len ends dst s u f).MemOk := by
  unfold Machine.paidOr
  split
  · rename_i hp; exact hf _ (hu.settleStep _ _ _ _ _ hp)
  · exact (h.markWaiting _ _ _ _ _).setWait _ _ _ _ _ _ _

/-- A dealer instruction built of such an effect. -/
theorem KeepsMem.dealer {eff : M Eff} (hm : KeepsMem eff) (hd : Hd) (len : Nat) (ends : Bool) (dst : Option Dst) (s t : State)
    (h : s.MemOk) (hn : dealer hd eff s len ends dst = .next t) : t.MemOk := by
  have h1 := hm s h
  unfold Machine.dealer at hn
  dsimp only at hn
  split at hn
  · cases hn; exact h
  · split at hn
    · split at hn
      · unfold runEff at hn
        dsimp only at hn
        split at hn <;> rename_i e
        · rw [e] at h1
          rw [← Host.Outcome.next.inj hn]
          exact h.paidOr h1 _ _ _ _ _ _ _ fun v hv => hv.complete _ _ _ _ _ _
        · rw [← Host.Outcome.next.inj hn]
          exact h.paidOr (h.applySide _ _ _) _ _ _ _ _ _ _ fun v hv => hv.enterTrap _ _ _ _ _ _ _
        · rw [← Host.Outcome.next.inj hn]
          exact h.paidOr (h.applySide _ _ _) _ _ _ _ _ _ _ fun v hv => hv.enterTrap _ _ _ _ _ _ _
        · rw [e] at h1
          rw [← Host.Outcome.next.inj hn]
          exact h.paidOr h1 _ _ _ _ _ _ _ fun v hv => hv.setWait _ _ _ _ _ _ _
        · rw [e] at h1
          rw [← Host.Outcome.next.inj hn]
          exact h.paidOr (h1 s h) _ _ _ _ _ _ _ fun v hv => hv.setWait _ _ _ _ _ _ _
        · cases hn
        · cases hn
        · cases hn; exact h
        · cases hn; exact h
      · cases hn; exact h.complete _ _ _ _ _ _
    · cases hn; exact h

end Sys2Proof.Machine
end

