-- ==== Sys2Proof/Laws/PerInstr.lean ====
section
/-!
SUPPORT. Per-instruction laws. WordRange: every word of an instruction's encoding fits 32 bits, so it is the word that memory holds (R37).
-/
namespace Sys2Proof.Laws

/-! ## Ranges of fields -/

theorem src_code_lt (r : Src) : r.code < 64 := by
  cases r with
  | g i => have := i.isLt; simp only [Src.code]; omega
  | b k => have := k.isLt; simp only [Src.code]; omega
  | zero | tileid | ctxid | lc0 | lc1 => decide
theorem dstN_le (d : Dst) : dstN d ≤ 1 := by cases d <;> simp [dstN]
theorem dstCode_lt (d : Dst) : dstCode d < 48 := by
  cases d with
  | none => decide
  | some g => exact g.isLt
theorem modCode_lt (m : Option (Fin 7)) : modCode m < 8 := by
  cases m with
  | none => decide
  | some k => have := k.isLt; simp only [modCode]; omega
theorem scope_code_lt (s : Scope) : s.code < 8 := by cases s <;> decide
theorem order_code_lt (s : Order) : s.code < 4 := by cases s <;> decide
theorem mode_code_lt (s : CmpMode) : s.code < 8 := by cases s <;> decide

theorem encHead_lt (maj : Nat) (h : Hd) (n d : Nat) (hm : maj < 64) (hn : n ≤ 1) (hd : d < 64) : encHead maj h n d + 32768 ≤ 4294967296 := by
  have := h.guard.isLt
  have := Bool.toNat_le h.stop
  unfold encHead
  omega
theorem encR_lt (maj fn : Nat) (h : Hd) (n d a c : Nat) (hm : maj < 64) (hf : fn < 8) (hn : n ≤ 1) (hd : d < 64) (ha : a < 64) (hc : c < 64) :
    encR maj fn h n d a c < 4294967296 := by
  have := encHead_lt maj h n d hm hn hd
  unfold encR
  omega
theorem encI_lt (maj : Nat) (h : Hd) (n d a i : Nat) (hm : maj < 64) (hn : n ≤ 1) (hd : d < 64) (ha : a < 64) (hi : i < 512) :
    encI maj h n d a i < 4294967296 := by
  have := encHead_lt maj h n d hm hn hd
  unfold encI
  omega
theorem encC_lt (maj : Nat) (g : Fin 8) (ct : CmpMode) (p q : Fin 8) (a : Src) (low : Nat) (hm : maj < 64) (hl : low < 256) :
    encC maj g ct p q a low < 4294967296 := by
  have := g.isLt
  have := p.isLt
  have := q.isLt
  have := mode_code_lt ct
  have := src_code_lt a
  unfold encC
  omega
theorem encL_lt (h : Hd) (n d kind : Nat) (hn : n ≤ 1) (hd : d < 64) (hk : kind < 4) : encL h n d kind < 4294967296 := by
  have := encHead_lt 0x3e h n d (by decide) hn hd
  unfold encL
  omega

namespace WordRange

/-- Every word of the instruction's encoding fits 32 bits (R37). -/
def Statement (i : Instr) : Prop := ∀ w ∈ encode i, w < 4294967296

theorem none {i : Instr} (h : encode i = []) : Statement i := by
  intro w hw
  rw [h] at hw
  cases hw
theorem one {i : Instr} {v : Nat} (h : encode i = [v]) (hv : v < 4294967296) : Statement i := by
  intro w hw
  rw [h] at hw
  cases List.mem_singleton.mp hw
  exact hv
theorem two {i : Instr} {v u : Nat} (h : encode i = [v, u]) (hv : v < 4294967296) (hu : u < 4294967296) : Statement i := by
  intro w hw
  rw [h] at hw
  rcases List.mem_cons.mp hw with e | e
  · exact e ▸ hv
  · cases List.mem_singleton.mp e
    exact hu

theorem add (h : Hd) (d : Dst) (a : Src) (c : Src) : Statement (.add h d a c) := by
  have := dstN_le d
  have := dstCode_lt d
  have := src_code_lt a
  have := src_code_lt c
  exact one rfl (encR_lt _ _ _ _ _ _ _ (by decide) (by decide) (by omega) (by omega) (by omega) (by omega))
theorem sub (h : Hd) (d : Dst) (a : Src) (c : Src) : Statement (.sub h d a c) := by
  have := dstN_le d
  have := dstCode_lt d
  have := src_code_lt a
  have := src_code_lt c
  exact one rfl (encR_lt _ _ _ _ _ _ _ (by decide) (by decide) (by omega) (by omega) (by omega) (by omega))
theorem addw (h : Hd) (d : Dst) (a : Src) (c : Src) : Statement (.addw h d a c) := by
  have := dstN_le d
  have := dstCode_lt d
  have := src_code_lt a
  have := src_code_lt c
  exact one rfl (encR_lt _ _ _ _ _ _ _ (by decide) (by decide) (by omega) (by omega) (by omega) (by omega))
theorem subw (h : Hd) (d : Dst) (a : Src) (c : Src) : Statement (.subw h d a c) := by
  have := dstN_le d
  have := dstCode_lt d
  have := src_code_lt a
  have := src_code_lt c
  exact one rfl (encR_lt _ _ _ _ _ _ _ (by decide) (by decide) (by omega) (by omega) (by omega) (by omega))
theorem and (h : Hd) (d : Dst) (a : Src) (c : Src) : Statement (.and h d a c) := by
  have := dstN_le d
  have := dstCode_lt d
  have := src_code_lt a
  have := src_code_lt c
  exact one rfl (encR_lt _ _ _ _ _ _ _ (by decide) (by decide) (by omega) (by omega) (by omega) (by omega))
theorem or (h : Hd) (d : Dst) (a : Src) (c : Src) : Statement (.or h d a c) := by
  have := dstN_le d
  have := dstCode_lt d
  have := src_code_lt a
  have := src_code_lt c
  exact one rfl (encR_lt _ _ _ _ _ _ _ (by decide) (by decide) (by omega) (by omega) (by omega) (by omega))
theorem xor (h : Hd) (d : Dst) (a : Src) (c : Src) : Statement (.xor h d a c) := by
  have := dstN_le d
  have := dstCode_lt d
  have := src_code_lt a
  have := src_code_lt c
  exact one rfl (encR_lt _ _ _ _ _ _ _ (by decide) (by decide) (by omega) (by omega) (by omega) (by omega))
theorem andn (h : Hd) (d : Dst) (a : Src) (c : Src) : Statement (.andn h d a c) := by
  have := dstN_le d
  have := dstCode_lt d
  have := src_code_lt a
  have := src_code_lt c
  exact one rfl (encR_lt _ _ _ _ _ _ _ (by decide) (by decide) (by omega) (by omega) (by omega) (by omega))
theorem orn (h : Hd) (d : Dst) (a : Src) (c : Src) : Statement (.orn h d a c) := by
  have := dstN_le d
  have := dstCode_lt d
  have := src_code_lt a
  have := src_code_lt c
  exact one rfl (encR_lt _ _ _ _ _ _ _ (by decide) (by decide) (by omega) (by omega) (by omega) (by omega))
theorem xnor (h : Hd) (d : Dst) (a : Src) (c : Src) : Statement (.xnor h d a c) := by
  have := dstN_le d
  have := dstCode_lt d
  have := src_code_lt a
  have := src_code_lt c
  exact one rfl (encR_lt _ _ _ _ _ _ _ (by decide) (by decide) (by omega) (by omega) (by omega) (by omega))
theorem sll (h : Hd) (d : Dst) (a : Src) (c : Src) : Statement (.sll h d a c) := by
  have := dstN_le d
  have := dstCode_lt d
  have := src_code_lt a
  have := src_code_lt c
  exact one rfl (encR_lt _ _ _ _ _ _ _ (by decide) (by decide) (by omega) (by omega) (by omega) (by omega))
theorem srl (h : Hd) (d : Dst) (a : Src) (c : Src) : Statement (.srl h d a c) := by
  have := dstN_le d
  have := dstCode_lt d
  have := src_code_lt a
  have := src_code_lt c
  exact one rfl (encR_lt _ _ _ _ _ _ _ (by decide) (by decide) (by omega) (by omega) (by omega) (by omega))
theorem sra (h : Hd) (d : Dst) (a : Src) (c : Src) : Statement (.sra h d a c) := by
  have := dstN_le d
  have := dstCode_lt d
  have := src_code_lt a
  have := src_code_lt c
  exact one rfl (encR_lt _ _ _ _ _ _ _ (by decide) (by decide) (by omega) (by omega) (by omega) (by omega))
theorem rol (h : Hd) (d : Dst) (a : Src) (c : Src) : Statement (.rol h d a c) := by
  have := dstN_le d
  have := dstCode_lt d
  have := src_code_lt a
  have := src_code_lt c
  exact one rfl (encR_lt _ _ _ _ _ _ _ (by decide) (by decide) (by omega) (by omega) (by omega) (by omega))
theorem ror (h : Hd) (d : Dst) (a : Src) (c : Src) : Statement (.ror h d a c) := by
  have := dstN_le d
  have := dstCode_lt d
  have := src_code_lt a
  have := src_code_lt c
  exact one rfl (encR_lt _ _ _ _ _ _ _ (by decide) (by decide) (by omega) (by omega) (by omega) (by omega))
theorem sllw (h : Hd) (d : Dst) (a : Src) (c : Src) : Statement (.sllw h d a c) := by
  have := dstN_le d
  have := dstCode_lt d
  have := src_code_lt a
  have := src_code_lt c
  exact one rfl (encR_lt _ _ _ _ _ _ _ (by decide) (by decide) (by omega) (by omega) (by omega) (by omega))
theorem srlw (h : Hd) (d : Dst) (a : Src) (c : Src) : Statement (.srlw h d a c) := by
  have := dstN_le d
  have := dstCode_lt d
  have := src_code_lt a
  have := src_code_lt c
  exact one rfl (encR_lt _ _ _ _ _ _ _ (by decide) (by decide) (by omega) (by omega) (by omega) (by omega))
theorem sraw (h : Hd) (d : Dst) (a : Src) (c : Src) : Statement (.sraw h d a c) := by
  have := dstN_le d
  have := dstCode_lt d
  have := src_code_lt a
  have := src_code_lt c
  exact one rfl (encR_lt _ _ _ _ _ _ _ (by decide) (by decide) (by omega) (by omega) (by omega) (by omega))
theorem mul (h : Hd) (d : Dst) (a : Src) (c : Src) : Statement (.mul h d a c) := by
  have := dstN_le d
  have := dstCode_lt d
  have := src_code_lt a
  have := src_code_lt c
  exact one rfl (encR_lt _ _ _ _ _ _ _ (by decide) (by decide) (by omega) (by omega) (by omega) (by omega))
theorem mulh (h : Hd) (d : Dst) (a : Src) (c : Src) : Statement (.mulh h d a c) := by
  have := dstN_le d
  have := dstCode_lt d
  have := src_code_lt a
  have := src_code_lt c
  exact one rfl (encR_lt _ _ _ _ _ _ _ (by decide) (by decide) (by omega) (by omega) (by omega) (by omega))
theorem mulhu (h : Hd) (d : Dst) (a : Src) (c : Src) : Statement (.mulhu h d a c) := by
  have := dstN_le d
  have := dstCode_lt d
  have := src_code_lt a
  have := src_code_lt c
  exact one rfl (encR_lt _ _ _ _ _ _ _ (by decide) (by decide) (by omega) (by omega) (by omega) (by omega))
theorem mulhsu (h : Hd) (d : Dst) (a : Src) (c : Src) : Statement (.mulhsu h d a c) := by
  have := dstN_le d
  have := dstCode_lt d
  have := src_code_lt a
  have := src_code_lt c
  exact one rfl (encR_lt _ _ _ _ _ _ _ (by decide) (by decide) (by omega) (by omega) (by omega) (by omega))
theorem div (h : Hd) (d : Dst) (a : Src) (c : Src) : Statement (.div h d a c) := by
  have := dstN_le d
  have := dstCode_lt d
  have := src_code_lt a
  have := src_code_lt c
  exact one rfl (encR_lt _ _ _ _ _ _ _ (by decide) (by decide) (by omega) (by omega) (by omega) (by omega))
theorem divu (h : Hd) (d : Dst) (a : Src) (c : Src) : Statement (.divu h d a c) := by
  have := dstN_le d
  have := dstCode_lt d
  have := src_code_lt a
  have := src_code_lt c
  exact one rfl (encR_lt _ _ _ _ _ _ _ (by decide) (by decide) (by omega) (by omega) (by omega) (by omega))
theorem rem (h : Hd) (d : Dst) (a : Src) (c : Src) : Statement (.rem h d a c) := by
  have := dstN_le d
  have := dstCode_lt d
  have := src_code_lt a
  have := src_code_lt c
  exact one rfl (encR_lt _ _ _ _ _ _ _ (by decide) (by decide) (by omega) (by omega) (by omega) (by omega))
theorem remu (h : Hd) (d : Dst) (a : Src) (c : Src) : Statement (.remu h d a c) := by
  have := dstN_le d
  have := dstCode_lt d
  have := src_code_lt a
  have := src_code_lt c
  exact one rfl (encR_lt _ _ _ _ _ _ _ (by decide) (by decide) (by omega) (by omega) (by omega) (by omega))
theorem min (h : Hd) (d : Dst) (a : Src) (c : Src) : Statement (.min h d a c) := by
  have := dstN_le d
  have := dstCode_lt d
  have := src_code_lt a
  have := src_code_lt c
  exact one rfl (encR_lt _ _ _ _ _ _ _ (by decide) (by decide) (by omega) (by omega) (by omega) (by omega))
theorem max (h : Hd) (d : Dst) (a : Src) (c : Src) : Statement (.max h d a c) := by
  have := dstN_le d
  have := dstCode_lt d
  have := src_code_lt a
  have := src_code_lt c
  exact one rfl (encR_lt _ _ _ _ _ _ _ (by decide) (by decide) (by omega) (by omega) (by omega) (by omega))
theorem minu (h : Hd) (d : Dst) (a : Src) (c : Src) : Statement (.minu h d a c) := by
  have := dstN_le d
  have := dstCode_lt d
  have := src_code_lt a
  have := src_code_lt c
  exact one rfl (encR_lt _ _ _ _ _ _ _ (by decide) (by decide) (by omega) (by omega) (by omega) (by omega))
theorem maxu (h : Hd) (d : Dst) (a : Src) (c : Src) : Statement (.maxu h d a c) := by
  have := dstN_le d
  have := dstCode_lt d
  have := src_code_lt a
  have := src_code_lt c
  exact one rfl (encR_lt _ _ _ _ _ _ _ (by decide) (by decide) (by omega) (by omega) (by omega) (by omega))
theorem abs (h : Hd) (d : Dst) (a : Src) : Statement (.abs h d a) := by
  have := dstN_le d
  have := dstCode_lt d
  have := src_code_lt a
  exact one rfl (encR_lt _ _ _ _ _ _ _ (by decide) (by decide) (by omega) (by omega) (by omega) (by omega))
theorem movnz (h : Hd) (d : Fin 48) (a : Src) (c : Src) : Statement (.movnz h d a c) := by
  have := d.isLt
  have := src_code_lt a
  have := src_code_lt c
  exact one rfl (encR_lt _ _ _ _ _ _ _ (by decide) (by decide) (by omega) (by omega) (by omega) (by omega))
theorem movz (h : Hd) (d : Fin 48) (a : Src) (c : Src) : Statement (.movz h d a c) := by
  have := d.isLt
  have := src_code_lt a
  have := src_code_lt c
  exact one rfl (encR_lt _ _ _ _ _ _ _ (by decide) (by decide) (by omega) (by omega) (by omega) (by omega))
theorem clz (h : Hd) (d : Dst) (a : Src) : Statement (.clz h d a) := by
  have := dstN_le d
  have := dstCode_lt d
  have := src_code_lt a
  exact one rfl (encR_lt _ _ _ _ _ _ _ (by decide) (by decide) (by omega) (by omega) (by omega) (by omega))
theorem ctz (h : Hd) (d : Dst) (a : Src) : Statement (.ctz h d a) := by
  have := dstN_le d
  have := dstCode_lt d
  have := src_code_lt a
  exact one rfl (encR_lt _ _ _ _ _ _ _ (by decide) (by decide) (by omega) (by omega) (by omega) (by omega))
theorem popc (h : Hd) (d : Dst) (a : Src) : Statement (.popc h d a) := by
  have := dstN_le d
  have := dstCode_lt d
  have := src_code_lt a
  exact one rfl (encR_lt _ _ _ _ _ _ _ (by decide) (by decide) (by omega) (by omega) (by omega) (by omega))
theorem bfxu (h : Hd) (d : Dst) (a : Src) (c : Src) : Statement (.bfxu h d a c) := by
  have := dstN_le d
  have := dstCode_lt d
  have := src_code_lt a
  have := src_code_lt c
  exact one rfl (encR_lt _ _ _ _ _ _ _ (by decide) (by decide) (by omega) (by omega) (by omega) (by omega))
theorem bfxs (h : Hd) (d : Dst) (a : Src) (c : Src) : Statement (.bfxs h d a c) := by
  have := dstN_le d
  have := dstCode_lt d
  have := src_code_lt a
  have := src_code_lt c
  exact one rfl (encR_lt _ _ _ _ _ _ _ (by decide) (by decide) (by omega) (by omega) (by omega) (by omega))
theorem bfi (h : Hd) (d : Fin 48) (a : Src) (c : Src) : Statement (.bfi h d a c) := by
  have := d.isLt
  have := src_code_lt a
  have := src_code_lt c
  exact one rfl (encR_lt _ _ _ _ _ _ _ (by decide) (by decide) (by omega) (by omega) (by omega) (by omega))
theorem rev8 (h : Hd) (d : Dst) (a : Src) : Statement (.rev8 h d a) := by
  have := dstN_le d
  have := dstCode_lt d
  have := src_code_lt a
  exact one rfl (encR_lt _ _ _ _ _ _ _ (by decide) (by decide) (by omega) (by omega) (by omega) (by omega))
theorem sh1add (h : Hd) (d : Dst) (a : Src) (c : Src) : Statement (.sh1add h d a c) := by
  have := dstN_le d
  have := dstCode_lt d
  have := src_code_lt a
  have := src_code_lt c
  exact one rfl (encR_lt _ _ _ _ _ _ _ (by decide) (by decide) (by omega) (by omega) (by omega) (by omega))
theorem sh2add (h : Hd) (d : Dst) (a : Src) (c : Src) : Statement (.sh2add h d a c) := by
  have := dstN_le d
  have := dstCode_lt d
  have := src_code_lt a
  have := src_code_lt c
  exact one rfl (encR_lt _ _ _ _ _ _ _ (by decide) (by decide) (by omega) (by omega) (by omega) (by omega))
theorem sh3add (h : Hd) (d : Dst) (a : Src) (c : Src) : Statement (.sh3add h d a c) := by
  have := dstN_le d
  have := dstCode_lt d
  have := src_code_lt a
  have := src_code_lt c
  exact one rfl (encR_lt _ _ _ _ _ _ _ (by decide) (by decide) (by omega) (by omega) (by omega) (by omega))
theorem sh4add (h : Hd) (d : Dst) (a : Src) (c : Src) : Statement (.sh4add h d a c) := by
  have := dstN_le d
  have := dstCode_lt d
  have := src_code_lt a
  have := src_code_lt c
  exact one rfl (encR_lt _ _ _ _ _ _ _ (by decide) (by decide) (by omega) (by omega) (by omega) (by omega))
theorem sh6add (h : Hd) (d : Dst) (a : Src) (c : Src) : Statement (.sh6add h d a c) := by
  have := dstN_le d
  have := dstCode_lt d
  have := src_code_lt a
  have := src_code_lt c
  exact one rfl (encR_lt _ _ _ _ _ _ _ (by decide) (by decide) (by omega) (by omega) (by omega) (by omega))
theorem sh8add (h : Hd) (d : Dst) (a : Src) (c : Src) : Statement (.sh8add h d a c) := by
  have := dstN_le d
  have := dstCode_lt d
  have := src_code_lt a
  have := src_code_lt c
  exact one rfl (encR_lt _ _ _ _ _ _ _ (by decide) (by decide) (by omega) (by omega) (by omega) (by omega))
theorem sh13add (h : Hd) (d : Dst) (a : Src) (c : Src) : Statement (.sh13add h d a c) := by
  have := dstN_le d
  have := dstCode_lt d
  have := src_code_lt a
  have := src_code_lt c
  exact one rfl (encR_lt _ _ _ _ _ _ _ (by decide) (by decide) (by omega) (by omega) (by omega) (by omega))
theorem addi (h : Hd) (d : Dst) (a : Src) (i : BitVec 9) : Statement (.addi h d a i) := by
  have := dstN_le d
  have := dstCode_lt d
  have := src_code_lt a
  have := i.isLt
  exact one rfl (encI_lt _ _ _ _ _ _ (by decide) (by omega) (by omega) (by omega) (by omega))
theorem andi (h : Hd) (d : Dst) (a : Src) (i : BitVec 9) : Statement (.andi h d a i) := by
  have := dstN_le d
  have := dstCode_lt d
  have := src_code_lt a
  have := i.isLt
  exact one rfl (encI_lt _ _ _ _ _ _ (by decide) (by omega) (by omega) (by omega) (by omega))
theorem ori (h : Hd) (d : Dst) (a : Src) (i : BitVec 9) : Statement (.ori h d a i) := by
  have := dstN_le d
  have := dstCode_lt d
  have := src_code_lt a
  have := i.isLt
  exact one rfl (encI_lt _ _ _ _ _ _ (by decide) (by omega) (by omega) (by omega) (by omega))
theorem slli (h : Hd) (d : Dst) (a : Src) (i : BitVec 6) : Statement (.slli h d a i) := by
  have := dstN_le d
  have := dstCode_lt d
  have := src_code_lt a
  have := i.isLt
  exact one rfl (encI_lt _ _ _ _ _ _ (by decide) (by omega) (by omega) (by omega) (by omega))
theorem srli (h : Hd) (d : Dst) (a : Src) (i : BitVec 6) : Statement (.srli h d a i) := by
  have := dstN_le d
  have := dstCode_lt d
  have := src_code_lt a
  have := i.isLt
  exact one rfl (encI_lt _ _ _ _ _ _ (by decide) (by omega) (by omega) (by omega) (by omega))
theorem srai (h : Hd) (d : Dst) (a : Src) (i : BitVec 6) : Statement (.srai h d a i) := by
  have := dstN_le d
  have := dstCode_lt d
  have := src_code_lt a
  have := i.isLt
  exact one rfl (encI_lt _ _ _ _ _ _ (by decide) (by omega) (by omega) (by omega) (by omega))
theorem rori (h : Hd) (d : Dst) (a : Src) (i : BitVec 6) : Statement (.rori h d a i) := by
  have := dstN_le d
  have := dstCode_lt d
  have := src_code_lt a
  have := i.isLt
  exact one rfl (encI_lt _ _ _ _ _ _ (by decide) (by omega) (by omega) (by omega) (by omega))
theorem xori (h : Hd) (d : Dst) (a : Src) (i : BitVec 6) : Statement (.xori h d a i) := by
  have := dstN_le d
  have := dstCode_lt d
  have := src_code_lt a
  have := i.isLt
  exact one rfl (encI_lt _ _ _ _ _ _ (by decide) (by omega) (by omega) (by omega) (by omega))
theorem cmpeq (g : Fin 8) (ct : CmpMode) (p : Fin 8) (q : Fin 8) (a : Src) (c : Src) : Statement (.cmpeq g ct p q a c) := by
  have := g.isLt
  have := p.isLt
  have := q.isLt
  have := src_code_lt a
  have := src_code_lt c
  exact one rfl (encC_lt _ _ _ _ _ _ _ (by decide) (by omega))
theorem cmpne (g : Fin 8) (ct : CmpMode) (p : Fin 8) (q : Fin 8) (a : Src) (c : Src) : Statement (.cmpne g ct p q a c) := by
  have := g.isLt
  have := p.isLt
  have := q.isLt
  have := src_code_lt a
  have := src_code_lt c
  exact one rfl (encC_lt _ _ _ _ _ _ _ (by decide) (by omega))
theorem cmplt (g : Fin 8) (ct : CmpMode) (p : Fin 8) (q : Fin 8) (a : Src) (c : Src) : Statement (.cmplt g ct p q a c) := by
  have := g.isLt
  have := p.isLt
  have := q.isLt
  have := src_code_lt a
  have := src_code_lt c
  exact one rfl (encC_lt _ _ _ _ _ _ _ (by decide) (by omega))
theorem cmpge (g : Fin 8) (ct : CmpMode) (p : Fin 8) (q : Fin 8) (a : Src) (c : Src) : Statement (.cmpge g ct p q a c) := by
  have := g.isLt
  have := p.isLt
  have := q.isLt
  have := src_code_lt a
  have := src_code_lt c
  exact one rfl (encC_lt _ _ _ _ _ _ _ (by decide) (by omega))
theorem cmpltu (g : Fin 8) (ct : CmpMode) (p : Fin 8) (q : Fin 8) (a : Src) (c : Src) : Statement (.cmpltu g ct p q a c) := by
  have := g.isLt
  have := p.isLt
  have := q.isLt
  have := src_code_lt a
  have := src_code_lt c
  exact one rfl (encC_lt _ _ _ _ _ _ _ (by decide) (by omega))
theorem cmpgeu (g : Fin 8) (ct : CmpMode) (p : Fin 8) (q : Fin 8) (a : Src) (c : Src) : Statement (.cmpgeu g ct p q a c) := by
  have := g.isLt
  have := p.isLt
  have := q.isLt
  have := src_code_lt a
  have := src_code_lt c
  exact one rfl (encC_lt _ _ _ _ _ _ _ (by decide) (by omega))
theorem cmpts (g : Fin 8) (ct : CmpMode) (p : Fin 8) (q : Fin 8) (a : Src) (c : Src) : Statement (.cmpts g ct p q a c) := by
  have := g.isLt
  have := p.isLt
  have := q.isLt
  have := src_code_lt a
  have := src_code_lt c
  exact one rfl (encC_lt _ _ _ _ _ _ _ (by decide) (by omega))
theorem cmptc (g : Fin 8) (ct : CmpMode) (p : Fin 8) (q : Fin 8) (a : Src) (c : Src) : Statement (.cmptc g ct p q a c) := by
  have := g.isLt
  have := p.isLt
  have := q.isLt
  have := src_code_lt a
  have := src_code_lt c
  exact one rfl (encC_lt _ _ _ _ _ _ _ (by decide) (by omega))
theorem cmpeqi (g : Fin 8) (ct : CmpMode) (p : Fin 8) (q : Fin 8) (a : Src) (i : BitVec 6) : Statement (.cmpeqi g ct p q a i) := by
  have := g.isLt
  have := p.isLt
  have := q.isLt
  have := src_code_lt a
  have := i.isLt
  exact one rfl (encC_lt _ _ _ _ _ _ _ (by decide) (by omega))
theorem cmpnei (g : Fin 8) (ct : CmpMode) (p : Fin 8) (q : Fin 8) (a : Src) (i : BitVec 6) : Statement (.cmpnei g ct p q a i) := by
  have := g.isLt
  have := p.isLt
  have := q.isLt
  have := src_code_lt a
  have := i.isLt
  exact one rfl (encC_lt _ _ _ _ _ _ _ (by decide) (by omega))
theorem cmplti (g : Fin 8) (ct : CmpMode) (p : Fin 8) (q : Fin 8) (a : Src) (i : BitVec 6) : Statement (.cmplti g ct p q a i) := by
  have := g.isLt
  have := p.isLt
  have := q.isLt
  have := src_code_lt a
  have := i.isLt
  exact one rfl (encC_lt _ _ _ _ _ _ _ (by decide) (by omega))
theorem cmpgei (g : Fin 8) (ct : CmpMode) (p : Fin 8) (q : Fin 8) (a : Src) (i : BitVec 6) : Statement (.cmpgei g ct p q a i) := by
  have := g.isLt
  have := p.isLt
  have := q.isLt
  have := src_code_lt a
  have := i.isLt
  exact one rfl (encC_lt _ _ _ _ _ _ _ (by decide) (by omega))
theorem cmpltui (g : Fin 8) (ct : CmpMode) (p : Fin 8) (q : Fin 8) (a : Src) (i : BitVec 6) : Statement (.cmpltui g ct p q a i) := by
  have := g.isLt
  have := p.isLt
  have := q.isLt
  have := src_code_lt a
  have := i.isLt
  exact one rfl (encC_lt _ _ _ _ _ _ _ (by decide) (by omega))
theorem cmpgeui (g : Fin 8) (ct : CmpMode) (p : Fin 8) (q : Fin 8) (a : Src) (i : BitVec 6) : Statement (.cmpgeui g ct p q a i) := by
  have := g.isLt
  have := p.isLt
  have := q.isLt
  have := src_code_lt a
  have := i.isLt
  exact one rfl (encC_lt _ _ _ _ _ _ _ (by decide) (by omega))
theorem cmptsi (g : Fin 8) (ct : CmpMode) (p : Fin 8) (q : Fin 8) (a : Src) (i : BitVec 6) : Statement (.cmptsi g ct p q a i) := by
  have := g.isLt
  have := p.isLt
  have := q.isLt
  have := src_code_lt a
  have := i.isLt
  exact one rfl (encC_lt _ _ _ _ _ _ _ (by decide) (by omega))
theorem cmptci (g : Fin 8) (ct : CmpMode) (p : Fin 8) (q : Fin 8) (a : Src) (i : BitVec 6) : Statement (.cmptci g ct p q a i) := by
  have := g.isLt
  have := p.isLt
  have := q.isLt
  have := src_code_lt a
  have := i.isLt
  exact one rfl (encC_lt _ _ _ _ _ _ _ (by decide) (by omega))
theorem pand (h : Hd) (p : Fin 8) (q : Fin 8) (r : Fin 8) : Statement (.pand h p q r) := by
  have := p.isLt
  have := q.isLt
  have := r.isLt
  exact one rfl (encR_lt _ _ _ _ _ _ _ (by decide) (by decide) (by omega) (by omega) (by omega) (by omega))
theorem por (h : Hd) (p : Fin 8) (q : Fin 8) (r : Fin 8) : Statement (.por h p q r) := by
  have := p.isLt
  have := q.isLt
  have := r.isLt
  exact one rfl (encR_lt _ _ _ _ _ _ _ (by decide) (by decide) (by omega) (by omega) (by omega) (by omega))
theorem pxor (h : Hd) (p : Fin 8) (q : Fin 8) (r : Fin 8) : Statement (.pxor h p q r) := by
  have := p.isLt
  have := q.isLt
  have := r.isLt
  exact one rfl (encR_lt _ _ _ _ _ _ _ (by decide) (by decide) (by omega) (by omega) (by omega) (by omega))
theorem pandn (h : Hd) (p : Fin 8) (q : Fin 8) (r : Fin 8) : Statement (.pandn h p q r) := by
  have := p.isLt
  have := q.isLt
  have := r.isLt
  exact one rfl (encR_lt _ _ _ _ _ _ _ (by decide) (by decide) (by omega) (by omega) (by omega) (by omega))
theorem pnot (h : Hd) (p : Fin 8) (q : Fin 8) : Statement (.pnot h p q) := by
  have := p.isLt
  have := q.isLt
  exact one rfl (encR_lt _ _ _ _ _ _ _ (by decide) (by decide) (by omega) (by omega) (by omega) (by omega))
theorem pget (h : Hd) (d : Dst) : Statement (.pget h d) := by
  have := dstN_le d
  have := dstCode_lt d
  exact one rfl (encR_lt _ _ _ _ _ _ _ (by decide) (by decide) (by omega) (by omega) (by omega) (by omega))
theorem pput (h : Hd) (a : Src) (c : Src) : Statement (.pput h a c) := by
  have := src_code_lt a
  have := src_code_lt c
  exact one rfl (encR_lt _ _ _ _ _ _ _ (by decide) (by decide) (by omega) (by omega) (by omega) (by omega))
theorem br (g : Fin 8) (i : BitVec 23) : Statement (.br g i) := by
  have := g.isLt
  have := i.isLt
  exact one rfl (by omega)
theorem brl (g : Fin 8) (i : BitVec 23) : Statement (.brl g i) := by
  have := g.isLt
  have := i.isLt
  exact one rfl (by omega)
theorem jr (h : Hd) (a : Src) : Statement (.jr h a) := by
  have := src_code_lt a
  exact one rfl (encR_lt _ _ _ _ _ _ _ (by decide) (by decide) (by omega) (by omega) (by omega) (by omega))
theorem jrl (h : Hd) (d : Fin 48) (a : Src) : Statement (.jrl h d a) := by
  have := d.isLt
  have := src_code_lt a
  exact one rfl (encR_lt _ _ _ _ _ _ _ (by decide) (by decide) (by omega) (by omega) (by omega) (by omega))
theorem ret (h : Hd) : Statement (.ret h) := by
  exact one rfl (encR_lt _ _ _ _ _ _ _ (by decide) (by decide) (by omega) (by omega) (by omega) (by omega))
theorem loop (h : Hd) (a : Src) (i : BitVec 9) : Statement (.loop h a i) := by
  have := src_code_lt a
  have := i.isLt
  exact one rfl (encI_lt _ _ _ _ _ _ (by decide) (by omega) (by omega) (by omega) (by omega))
theorem mset (h : Hd) (k : Fin 7) (a : Src) (c : Src) : Statement (.mset h k a c) := by
  have := k.isLt
  have := src_code_lt a
  have := src_code_lt c
  exact one rfl (encR_lt _ _ _ _ _ _ _ (by decide) (by decide) (by omega) (by omega) (by omega) (by omega))
theorem mgetb (h : Hd) (d : Dst) (k : Fin 7) : Statement (.mgetb h d k) := by
  have := dstN_le d
  have := dstCode_lt d
  have := k.isLt
  exact one rfl (encR_lt _ _ _ _ _ _ _ (by decide) (by decide) (by omega) (by omega) (by omega) (by omega))
theorem mgetl (h : Hd) (d : Dst) (k : Fin 7) : Statement (.mgetl h d k) := by
  have := dstN_le d
  have := dstCode_lt d
  have := k.isLt
  exact one rfl (encR_lt _ _ _ _ _ _ _ (by decide) (by decide) (by omega) (by omega) (by omega) (by omega))
theorem csrr (h : Hd) (d : Dst) (r : BitVec 12) : Statement (.csrr h d r) := by
  have := dstN_le d
  have := dstCode_lt d
  have := r.isLt
  exact one rfl (encR_lt _ _ _ _ _ _ _ (by decide) (by decide) (by omega) (by omega) (by omega) (by omega))
theorem csrw (h : Hd) (r : BitVec 12) (x : Src) : Statement (.csrw h r x) := by
  have := r.isLt
  have := src_code_lt x
  exact one rfl (encR_lt _ _ _ _ _ _ _ (by decide) (by decide) (by omega) (by omega) (by omega) (by omega))
theorem csrs (h : Hd) (r : BitVec 12) (x : Src) : Statement (.csrs h r x) := by
  have := r.isLt
  have := src_code_lt x
  exact one rfl (encR_lt _ _ _ _ _ _ _ (by decide) (by decide) (by omega) (by omega) (by omega) (by omega))
theorem csrc (h : Hd) (r : BitVec 12) (x : Src) : Statement (.csrc h r x) := by
  have := r.isLt
  have := src_code_lt x
  exact one rfl (encR_lt _ _ _ _ _ _ _ (by decide) (by decide) (by omega) (by omega) (by omega) (by omega))
theorem amoadd (h : Hd) (w : Bool) (sc : Scope) (o : Order) (d : Fin 48) (a : Src) : Statement (.amoadd h w sc o d a) := by
  have := Bool.toNat_le w
  have := scope_code_lt sc
  have := order_code_lt o
  have := d.isLt
  have := src_code_lt a
  exact one rfl (encI_lt _ _ _ _ _ _ (by decide) (by omega) (by omega) (by omega) (by omega))
theorem amoand (h : Hd) (w : Bool) (sc : Scope) (o : Order) (d : Fin 48) (a : Src) : Statement (.amoand h w sc o d a) := by
  have := Bool.toNat_le w
  have := scope_code_lt sc
  have := order_code_lt o
  have := d.isLt
  have := src_code_lt a
  exact one rfl (encI_lt _ _ _ _ _ _ (by decide) (by omega) (by omega) (by omega) (by omega))
theorem amoor (h : Hd) (w : Bool) (sc : Scope) (o : Order) (d : Fin 48) (a : Src) : Statement (.amoor h w sc o d a) := by
  have := Bool.toNat_le w
  have := scope_code_lt sc
  have := order_code_lt o
  have := d.isLt
  have := src_code_lt a
  exact one rfl (encI_lt _ _ _ _ _ _ (by decide) (by omega) (by omega) (by omega) (by omega))
theorem amoxor (h : Hd) (w : Bool) (sc : Scope) (o : Order) (d : Fin 48) (a : Src) : Statement (.amoxor h w sc o d a) := by
  have := Bool.toNat_le w
  have := scope_code_lt sc
  have := order_code_lt o
  have := d.isLt
  have := src_code_lt a
  exact one rfl (encI_lt _ _ _ _ _ _ (by decide) (by omega) (by omega) (by omega) (by omega))
theorem amomin (h : Hd) (w : Bool) (sc : Scope) (o : Order) (d : Fin 48) (a : Src) : Statement (.amomin h w sc o d a) := by
  have := Bool.toNat_le w
  have := scope_code_lt sc
  have := order_code_lt o
  have := d.isLt
  have := src_code_lt a
  exact one rfl (encI_lt _ _ _ _ _ _ (by decide) (by omega) (by omega) (by omega) (by omega))
theorem amomax (h : Hd) (w : Bool) (sc : Scope) (o : Order) (d : Fin 48) (a : Src) : Statement (.amomax h w sc o d a) := by
  have := Bool.toNat_le w
  have := scope_code_lt sc
  have := order_code_lt o
  have := d.isLt
  have := src_code_lt a
  exact one rfl (encI_lt _ _ _ _ _ _ (by decide) (by omega) (by omega) (by omega) (by omega))
theorem amoswap (h : Hd) (w : Bool) (sc : Scope) (o : Order) (d : Fin 48) (a : Src) : Statement (.amoswap h w sc o d a) := by
  have := Bool.toNat_le w
  have := scope_code_lt sc
  have := order_code_lt o
  have := d.isLt
  have := src_code_lt a
  exact one rfl (encI_lt _ _ _ _ _ _ (by decide) (by omega) (by omega) (by omega) (by omega))
theorem amocas (h : Hd) (w : Bool) (sc : Scope) (o : Order) (d : Fin 48) (a : Src) : Statement (.amocas h w sc o d a) := by
  have := Bool.toNat_le w
  have := scope_code_lt sc
  have := order_code_lt o
  have := d.isLt
  have := src_code_lt a
  exact one rfl (encI_lt _ _ _ _ _ _ (by decide) (by omega) (by omega) (by omega) (by omega))
theorem fence (h : Hd) (sc : Scope) (o : Order) : Statement (.fence h sc o) := by
  have := scope_code_lt sc
  have := order_code_lt o
  exact one rfl (encI_lt _ _ _ _ _ _ (by decide) (by omega) (by omega) (by omega) (by omega))
theorem fenceI (h : Hd) : Statement (.fenceI h) := by
  exact one rfl (encI_lt _ _ _ _ _ _ (by decide) (by omega) (by omega) (by omega) (by omega))
theorem nop (h : Hd) : Statement (.nop h) := by
  exact one rfl (encR_lt _ _ _ _ _ _ _ (by decide) (by decide) (by omega) (by omega) (by omega) (by omega))
theorem trap (h : Hd) (n : BitVec 6) : Statement (.trap h n) := by
  have := n.isLt
  exact one rfl (encR_lt _ _ _ _ _ _ _ (by decide) (by decide) (by omega) (by omega) (by omega) (by omega))
theorem eret (h : Hd) : Statement (.eret h) := by
  exact one rfl (encR_lt _ _ _ _ _ _ _ (by decide) (by decide) (by omega) (by omega) (by omega) (by omega))
theorem brk (h : Hd) : Statement (.brk h) := by
  exact one rfl (encR_lt _ _ _ _ _ _ _ (by decide) (by decide) (by omega) (by omega) (by omega) (by omega))
theorem link (h : Hd) (n : Fin 4) (a : Src) : Statement (.link h n a) := by
  have := n.isLt
  have := src_code_lt a
  exact one rfl (encR_lt _ _ _ _ _ _ _ (by decide) (by decide) (by omega) (by omega) (by omega) (by omega))
theorem kick (h : Hd) (n : Fin 4) : Statement (.kick h n) := by
  have := n.isLt
  exact one rfl (encR_lt _ _ _ _ _ _ _ (by decide) (by decide) (by omega) (by omega) (by omega) (by omega))
theorem fork (h : Hd) (m : BitVec 4) : Statement (.fork h m) := by
  have := m.isLt
  exact one rfl (encR_lt _ _ _ _ _ _ _ (by decide) (by decide) (by omega) (by omega) (by omega) (by omega))
theorem rdv (h : Hd) (m : BitVec 4) : Statement (.rdv h m) := by
  have := m.isLt
  exact one rfl (encR_lt _ _ _ _ _ _ _ (by decide) (by decide) (by omega) (by omega) (by omega) (by omega))
theorem rdvRelease (x0 : TileNo) (x1 : SlotNo) : Statement (.rdvRelease x0 x1) := none rfl
theorem drain (h : Hd) : Statement (.drain h) := by
  exact one rfl (encR_lt _ _ _ _ _ _ _ (by decide) (by decide) (by omega) (by omega) (by omega) (by omega))
theorem drainComplete (x0 : TileNo) (x1 : SlotNo) : Statement (.drainComplete x0 x1) := none rfl
theorem chseq (h : Hd) (d : Dst) (n : Fin 4) : Statement (.chseq h d n) := by
  have := dstN_le d
  have := dstCode_lt d
  have := n.isLt
  exact one rfl (encR_lt _ _ _ _ _ _ _ (by decide) (by decide) (by omega) (by omega) (by omega) (by omega))
theorem chstat (h : Hd) (d : Dst) (n : Fin 4) : Statement (.chstat h d n) := by
  have := dstN_le d
  have := dstCode_lt d
  have := n.isLt
  exact one rfl (encR_lt _ _ _ _ _ _ _ (by decide) (by decide) (by omega) (by omega) (by omega) (by omega))
theorem semi (h : Hd) (n : Fin 64) (a : Src) (c : Src) : Statement (.semi h n a c) := by
  have := n.isLt
  have := src_code_lt a
  have := src_code_lt c
  exact one rfl (encR_lt _ _ _ _ _ _ _ (by decide) (by decide) (by omega) (by omega) (by omega) (by omega))
theorem semb (h : Hd) (n : Fin 64) (a : Src) (c : Src) : Statement (.semb h n a c) := by
  have := n.isLt
  have := src_code_lt a
  have := src_code_lt c
  exact one rfl (encR_lt _ _ _ _ _ _ _ (by decide) (by decide) (by omega) (by omega) (by omega) (by omega))
theorem semw (h : Hd) (n : Fin 64) (a : Src) (c : Src) : Statement (.semw h n a c) := by
  have := n.isLt
  have := src_code_lt a
  have := src_code_lt c
  exact one rfl (encR_lt _ _ _ _ _ _ _ (by decide) (by decide) (by omega) (by omega) (by omega) (by omega))
theorem semwGrant (x0 : TileNo) (x1 : SlotNo) : Statement (.semwGrant x0 x1) := none rfl
theorem semp (h : Hd) (n : Fin 64) (a : Src) : Statement (.semp h n a) := by
  have := n.isLt
  have := src_code_lt a
  exact one rfl (encR_lt _ _ _ _ _ _ _ (by decide) (by decide) (by omega) (by omega) (by omega) (by omega))
theorem semr (h : Hd) (d : Dst) (n : Fin 64) (c : Src) : Statement (.semr h d n c) := by
  have := dstN_le d
  have := dstCode_lt d
  have := n.isLt
  have := src_code_lt c
  exact one rfl (encR_lt _ _ _ _ _ _ _ (by decide) (by decide) (by omega) (by omega) (by omega) (by omega))
theorem semk (h : Hd) (n : Fin 64) : Statement (.semk h n) := by
  have := n.isLt
  exact one rfl (encR_lt _ _ _ _ _ _ _ (by decide) (by decide) (by omega) (by omega) (by omega) (by omega))
theorem semIdleAction (x0 : TileNo) (x1 : SlotNo) : Statement (.semIdleAction x0 x1) := none rfl
theorem tdef (h : Hd) (n : Fin 128) (a : Src) : Statement (.tdef h n a) := by
  have := n.isLt
  have := src_code_lt a
  exact one rfl (encI_lt _ _ _ _ _ _ (by decide) (by omega) (by omega) (by omega) (by omega))
theorem tmod (h : Hd) (n : Fin 128) (a : Src) (x : Src) : Statement (.tmod h n a x) := by
  have := n.isLt
  have := src_code_lt a
  have := src_code_lt x
  exact one rfl (encI_lt _ _ _ _ _ _ (by decide) (by omega) (by omega) (by omega) (by omega))
theorem tget (h : Hd) (d : Dst) (n : Fin 128) (a : Src) : Statement (.tget h d n a) := by
  have := dstN_le d
  have := dstCode_lt d
  have := n.isLt
  have := src_code_lt a
  exact one rfl (encI_lt _ _ _ _ _ _ (by decide) (by omega) (by omega) (by omega) (by omega))
theorem tkill (h : Hd) (n : Fin 128) : Statement (.tkill h n) := by
  have := n.isLt
  exact one rfl (encI_lt _ _ _ _ _ _ (by decide) (by omega) (by omega) (by omega) (by omega))
theorem claim (h : Hd) (a : Src) : Statement (.claim h a) := by
  have := src_code_lt a
  exact one rfl (encR_lt _ _ _ _ _ _ _ (by decide) (by decide) (by omega) (by omega) (by omega) (by omega))
theorem release (h : Hd) (a : Src) : Statement (.release h a) := by
  have := src_code_lt a
  exact one rfl (encR_lt _ _ _ _ _ _ _ (by decide) (by decide) (by omega) (by omega) (by omega) (by omega))
theorem releaseComplete (x0 : TileNo) (x1 : SlotNo) : Statement (.releaseComplete x0 x1) := none rfl
theorem aclr (h : Hd) (a : Src) : Statement (.aclr h a) := by
  have := src_code_lt a
  exact one rfl (encR_lt _ _ _ _ _ _ _ (by decide) (by decide) (by omega) (by omega) (by omega) (by omega))
theorem hstat (h : Hd) (d : Dst) (a : Src) : Statement (.hstat h d a) := by
  have := dstN_le d
  have := dstCode_lt d
  have := src_code_lt a
  exact one rfl (encR_lt _ _ _ _ _ _ _ (by decide) (by decide) (by omega) (by omega) (by omega) (by omega))
theorem partw (h : Hd) (d : Dst) : Statement (.partw h d) := by
  have := dstN_le d
  have := dstCode_lt d
  exact one rfl (encR_lt _ _ _ _ _ _ _ (by decide) (by decide) (by omega) (by omega) (by omega) (by omega))
theorem axis (h : Hd) (n : Fin 4) (a : Src) : Statement (.axis h n a) := by
  have := n.isLt
  have := src_code_lt a
  exact one rfl (encR_lt _ _ _ _ _ _ _ (by decide) (by decide) (by omega) (by omega) (by omega) (by omega))
theorem resi (h : Hd) (n : Fin 4) (a : Src) : Statement (.resi h n a) := by
  have := n.isLt
  have := src_code_lt a
  exact one rfl (encR_lt _ _ _ _ _ _ _ (by decide) (by decide) (by omega) (by omega) (by omega) (by omega))
theorem resx (h : Hd) (n : Fin 4) (a : Src) : Statement (.resx h n a) := by
  have := n.isLt
  have := src_code_lt a
  exact one rfl (encR_lt _ _ _ _ _ _ _ (by decide) (by decide) (by omega) (by omega) (by omega) (by omega))
theorem resr (h : Hd) (d : Dst) (n : Fin 4) (c : Src) : Statement (.resr h d n c) := by
  have := dstN_le d
  have := dstCode_lt d
  have := n.isLt
  have := src_code_lt c
  exact one rfl (encR_lt _ _ _ _ _ _ _ (by decide) (by decide) (by omega) (by omega) (by omega) (by omega))
theorem resclr (h : Hd) (n : Fin 4) : Statement (.resclr h n) := by
  have := n.isLt
  exact one rfl (encR_lt _ _ _ _ _ _ _ (by decide) (by decide) (by omega) (by omega) (by omega) (by omega))
theorem bankIdleAction (x0 : TileNo) (x1 : SlotNo) : Statement (.bankIdleAction x0 x1) := none rfl
theorem qsw (h : Hd) (n : Fin 8) (a : Src) : Statement (.qsw h n a) := by
  have := n.isLt
  have := src_code_lt a
  exact one rfl (encR_lt _ _ _ _ _ _ _ (by decide) (by decide) (by omega) (by omega) (by omega) (by omega))
theorem qsr (h : Hd) (d : Dst) (n : Fin 8) : Statement (.qsr h d n) := by
  have := dstN_le d
  have := dstCode_lt d
  have := n.isLt
  exact one rfl (encR_lt _ _ _ _ _ _ _ (by decide) (by decide) (by omega) (by omega) (by omega) (by omega))
theorem covset (h : Hd) (n : Fin 4) (a : Src) : Statement (.covset h n a) := by
  have := n.isLt
  have := src_code_lt a
  exact one rfl (encR_lt _ _ _ _ _ _ _ (by decide) (by decide) (by omega) (by omega) (by omega) (by omega))
theorem covsetIdleAction (x0 : TileNo) (x1 : SlotNo) : Statement (.covsetIdleAction x0 x1) := none rfl
theorem covget (h : Hd) (d : Dst) (n : Fin 4) (c : Src) : Statement (.covget h d n c) := by
  have := dstN_le d
  have := dstCode_lt d
  have := n.isLt
  have := src_code_lt c
  exact one rfl (encR_lt _ _ _ _ _ _ _ (by decide) (by decide) (by omega) (by omega) (by omega) (by omega))
theorem covstat (h : Hd) (d : Dst) (n : Fin 4) (c : Src) : Statement (.covstat h d n c) := by
  have := dstN_le d
  have := dstCode_lt d
  have := n.isLt
  have := src_code_lt c
  exact one rfl (encR_lt _ _ _ _ _ _ _ (by decide) (by decide) (by omega) (by omega) (by omega) (by omega))
theorem spawn (h : Hd) (a : Src) : Statement (.spawn h a) := by
  have := src_code_lt a
  exact one rfl (encR_lt _ _ _ _ _ _ _ (by decide) (by decide) (by omega) (by omega) (by omega) (by omega))
theorem enq (h : Hd) (a : Src) (c : Src) : Statement (.enq h a c) := by
  have := src_code_lt a
  have := src_code_lt c
  exact one rfl (encR_lt _ _ _ _ _ _ _ (by decide) (by decide) (by omega) (by omega) (by omega) (by omega))
theorem enqQueueRoom (x0 : TileNo) (x1 : SlotNo) : Statement (.enqQueueRoom x0 x1) := none rfl
theorem await (h : Hd) (a : Src) (c : Src) : Statement (.await h a c) := by
  have := src_code_lt a
  have := src_code_lt c
  exact one rfl (encR_lt _ _ _ _ _ _ _ (by decide) (by decide) (by omega) (by omega) (by omega) (by omega))
theorem resolve (h : Hd) (a : Src) (c : Src) : Statement (.resolve h a c) := by
  have := src_code_lt a
  have := src_code_lt c
  exact one rfl (encR_lt _ _ _ _ _ _ _ (by decide) (by decide) (by omega) (by omega) (by omega) (by omega))
theorem yield (h : Hd) : Statement (.yield h) := by
  exact one rfl (encR_lt _ _ _ _ _ _ _ (by decide) (by decide) (by omega) (by omega) (by omega) (by omega))
theorem endRec (h : Hd) : Statement (.endRec h) := by
  exact one rfl (encR_lt _ _ _ _ _ _ _ (by decide) (by decide) (by omega) (by omega) (by omega) (by omega))
theorem cancel (h : Hd) (a : Src) : Statement (.cancel h a) := by
  have := src_code_lt a
  exact one rfl (encR_lt _ _ _ _ _ _ _ (by decide) (by decide) (by omega) (by omega) (by omega) (by omega))
theorem cancelFlagsSet (x0 : TileNo) (x1 : SlotNo) : Statement (.cancelFlagsSet x0 x1) := none rfl
theorem jobCancelComplete (x0 : Nat) : Statement (.jobCancelComplete x0) := none rfl
theorem join (h : Hd) (a : Src) : Statement (.join h a) := by
  have := src_code_lt a
  exact one rfl (encR_lt _ _ _ _ _ _ _ (by decide) (by decide) (by omega) (by omega) (by omega) (by omega))
theorem leave (h : Hd) (a : Src) : Statement (.leave h a) := by
  have := src_code_lt a
  exact one rfl (encR_lt _ _ _ _ _ _ _ (by decide) (by decide) (by omega) (by omega) (by omega) (by omega))
theorem gbar (h : Hd) (a : Src) : Statement (.gbar h a) := by
  have := src_code_lt a
  exact one rfl (encR_lt _ _ _ _ _ _ _ (by decide) (by decide) (by omega) (by omega) (by omega) (by omega))
theorem wfe (h : Hd) : Statement (.wfe h) := by
  exact one rfl (encR_lt _ _ _ _ _ _ _ (by decide) (by decide) (by omega) (by omega) (by omega) (by omega))
theorem wfeWake (x0 : TileNo) (x1 : SlotNo) : Statement (.wfeWake x0 x1) := none rfl
theorem sev (h : Hd) (a : Src) : Statement (.sev h a) := by
  have := src_code_lt a
  exact one rfl (encR_lt _ _ _ _ _ _ _ (by decide) (by decide) (by omega) (by omega) (by omega) (by omega))
theorem ctxsave (h : Hd) (a : Src) : Statement (.ctxsave h a) := by
  have := src_code_lt a
  exact one rfl (encR_lt _ _ _ _ _ _ _ (by decide) (by decide) (by omega) (by omega) (by omega) (by omega))
theorem ctxrestore (h : Hd) (a : Src) : Statement (.ctxrestore h a) := by
  have := src_code_lt a
  exact one rfl (encR_lt _ _ _ _ _ _ _ (by decide) (by decide) (by omega) (by omega) (by omega) (by omega))
theorem qbind (h : Hd) (a : Src) (c : Src) : Statement (.qbind h a c) := by
  have := src_code_lt a
  have := src_code_lt c
  exact one rfl (encR_lt _ _ _ _ _ _ _ (by decide) (by decide) (by omega) (by omega) (by omega) (by omega))
theorem qunbind (h : Hd) (a : Src) : Statement (.qunbind h a) := by
  have := src_code_lt a
  exact one rfl (encR_lt _ _ _ _ _ _ _ (by decide) (by decide) (by omega) (by omega) (by omega) (by omega))
theorem qunbindIdle (x0 : TileNo) (x1 : SlotNo) : Statement (.qunbindIdle x0 x1) := none rfl
theorem qdepth (h : Hd) (d : Dst) (a : Src) : Statement (.qdepth h d a) := by
  have := dstN_le d
  have := dstCode_lt d
  have := src_code_lt a
  exact one rfl (encR_lt _ _ _ _ _ _ _ (by decide) (by decide) (by omega) (by omega) (by omega) (by omega))
theorem tprobe (h : Hd) (d : Dst) (a : Src) : Statement (.tprobe h d a) := by
  have := dstN_le d
  have := dstCode_lt d
  have := src_code_lt a
  exact one rfl (encR_lt _ _ _ _ _ _ _ (by decide) (by decide) (by omega) (by omega) (by omega) (by omega))
theorem tinv (h : Hd) (a : Src) (c : Src) : Statement (.tinv h a c) := by
  have := src_code_lt a
  have := src_code_lt c
  exact one rfl (encR_lt _ _ _ _ _ _ _ (by decide) (by decide) (by omega) (by omega) (by omega) (by omega))
theorem tinvPinsReleased (x0 : TileNo) (x1 : SlotNo) : Statement (.tinvPinsReleased x0 x1) := none rfl
theorem burst (h : Hd) (n : BitVec 9) : Statement (.burst h n) := by
  have := n.isLt
  exact one rfl (encI_lt _ _ _ _ _ _ (by decide) (by omega) (by omega) (by omega) (by omega))
theorem li (h : Hd) (d : Dst) (i : BitVec 32) : Statement (.li h d i) := by
  have := dstN_le d
  have := dstCode_lt d
  have := i.isLt
  exact two rfl (encL_lt _ _ _ _ (by omega) (by omega) (by decide)) (by omega)
theorem liu (h : Hd) (d : Dst) (i : BitVec 32) : Statement (.liu h d i) := by
  have := dstN_le d
  have := dstCode_lt d
  have := i.isLt
  exact two rfl (encL_lt _ _ _ _ (by omega) (by omega) (by decide)) (by omega)
theorem lih (h : Hd) (d : Fin 48) (i : BitVec 32) : Statement (.lih h d i) := by
  have := d.isLt
  have := i.isLt
  exact two rfl (encL_lt _ _ _ _ (by omega) (by omega) (by decide)) (by omega)
theorem addl (h : Hd) (d : Fin 48) (i : BitVec 32) : Statement (.addl h d i) := by
  have := d.isLt
  have := i.isLt
  exact two rfl (encL_lt _ _ _ _ (by omega) (by omega) (by decide)) (by omega)
theorem trapEntry (x0 : TileNo) (x1 : SlotNo) : Statement (.trapEntry x0 x1) := none rfl
theorem leafTrapHandling (x0 : TileNo) (x1 : SlotNo) : Statement (.leafTrapHandling x0 x1) := none rfl
theorem fwDomainNumber (x0 : TileNo) (x1 : SlotNo) : Statement (.fwDomainNumber x0 x1) := none rfl
theorem fwSetWatchdog (x0 : TileNo) (x1 : SlotNo) : Statement (.fwSetWatchdog x0 x1) := none rfl
theorem fwUnbindSaved (x0 : TileNo) (x1 : SlotNo) : Statement (.fwUnbindSaved x0 x1) := none rfl
theorem fwLog (x0 : TileNo) (x1 : SlotNo) : Statement (.fwLog x0 x1) := none rfl
theorem watchdog (x0 : TileNo) (x1 : SlotNo) : Statement (.watchdog x0 x1) := none rfl
theorem machineCheck (x0 : TileNo) (x1 : SlotNo) : Statement (.machineCheck x0 x1) := none rfl
theorem contextSwitch (x0 : TileNo) : Statement (.contextSwitch x0) := none rfl
theorem timeSliceExpiry (x0 : TileNo) : Statement (.timeSliceExpiry x0) := none rfl
theorem recordPop (x0 : TileNo) (x1 : SlotNo) (x2 : BitVec 16) : Statement (.recordPop x0 x1 x2) := none rfl
theorem overflowPushRetry (x0 : Fin 48) (x1 : Nat) : Statement (.overflowPushRetry x0 x1) := none rfl
theorem preemption (x0 : TileNo) (x1 : SlotNo) : Statement (.preemption x0 x1) := none rfl
theorem blockWaitGrant (x0 : TileNo) (x1 : SlotNo) (x2 : ChainNo) : Statement (.blockWaitGrant x0 x1 x2) := none rfl
theorem coverageFractionWait (x0 : TileNo) (x1 : SlotNo) (x2 : ChainNo) : Statement (.coverageFractionWait x0 x1 x2) := none rfl
theorem loadIteration (x0 : TileNo) (x1 : SlotNo) : Statement (.loadIteration x0 x1) := none rfl
theorem storeIteration (x0 : TileNo) (x1 : SlotNo) : Statement (.storeIteration x0 x1) := none rfl
theorem linkedQueueEntryArrive (x0 : TileNo) (x1 : Fin 8) : Statement (.linkedQueueEntryArrive x0 x1) := none rfl
theorem linkedQueueCreditReturn (x0 : TileNo) (x1 : Fin 8) : Statement (.linkedQueueCreditReturn x0 x1) := none rfl
theorem queueStallResume (x0 : TileNo) (x1 : SlotNo) (x2 : ChainNo) : Statement (.queueStallResume x0 x1 x2) := none rfl
theorem matrixFloatKStep (x0 : TileNo) (x1 : SlotNo) : Statement (.matrixFloatKStep x0 x1) := none rfl
theorem matrixIntKStep (x0 : TileNo) (x1 : SlotNo) : Statement (.matrixIntKStep x0 x1) := none rfl
theorem vectorIteration (x0 : TileNo) (x1 : SlotNo) : Statement (.vectorIteration x0 x1) := none rfl
theorem blockRetire (x0 : TileNo) (x1 : SlotNo) (x2 : ChainNo) : Statement (.blockRetire x0 x1 x2) := none rfl
theorem coverageContribution (x0 : TileNo) (x1 : SlotNo) (x2 : Fin 4) : Statement (.coverageContribution x0 x1 x2) := none rfl
theorem nopBlock (x0 : TileNo) (x1 : SlotNo) (x2 : ChainNo) : Statement (.nopBlock x0 x1 x2) := none rfl
theorem endBlock (x0 : TileNo) (x1 : SlotNo) (x2 : ChainNo) : Statement (.endBlock x0 x1 x2) := none rfl
theorem markResolve (x0 : TileNo) (x1 : SlotNo) (x2 : ChainNo) : Statement (.markResolve x0 x1 x2) := none rfl
theorem markRendezvous (x0 : TileNo) (x1 : SlotNo) (x2 : ChainNo) : Statement (.markRendezvous x0 x1 x2) := none rfl
theorem patchAction (x0 : TileNo) (x1 : SlotNo) (x2 : ChainNo) : Statement (.patchAction x0 x1 x2) := none rfl
theorem patchHoldResume (x0 : TileNo) (x1 : SlotNo) (x2 : ChainNo) : Statement (.patchHoldResume x0 x1 x2) := none rfl
theorem patchRangePolicy (x0 : TileNo) (x1 : SlotNo) (x2 : ChainNo) : Statement (.patchRangePolicy x0 x1 x2) := none rfl
theorem heldPostApply (x0 : TileNo) (x1 : SlotNo) (x2 : SemNo) : Statement (.heldPostApply x0 x1 x2) := none rfl
theorem rampComplete (x0 : TileNo) : Statement (.rampComplete x0) := none rfl
theorem matrixCold (x0 : TileNo) : Statement (.matrixCold x0) := none rfl
theorem burstHoldExpiry (x0 : TileNo) : Statement (.burstHoldExpiry x0) := none rfl
theorem windowMessageRetry (x0 : Nat) : Statement (.windowMessageRetry x0) := none rfl
theorem windowAck (x0 : Nat) : Statement (.windowAck x0) := none rfl
theorem lossDetected (x0 : Nat) : Statement (.lossDetected x0) := none rfl
theorem tokenRefill (x0 : Fin 8) : Statement (.tokenRefill x0) := none rfl
theorem bandwidthRequest (x0 : TileNo) : Statement (.bandwidthRequest x0) := none rfl
theorem subnetworkPower (x0 : TileNo) (x1 : Bool) : Statement (.subnetworkPower x0 x1) := none rfl
theorem budgetPeriodEnd (x0 : Nat) : Statement (.budgetPeriodEnd x0) := none rfl
theorem wrap (x0 : Nat) : Statement (.wrap x0) := none rfl
theorem launch (x0 : Nat) : Statement (.launch x0) := none rfl
theorem invoke (x0 : Nat) : Statement (.invoke x0) := none rfl
theorem copy (x0 : Nat) : Statement (.copy x0) := none rfl
theorem signal (x0 : Nat) : Statement (.signal x0) := none rfl
theorem wait (x0 : Nat) : Statement (.wait x0) := none rfl
theorem waitPoll (x0 : Nat) : Statement (.waitPoll x0) := none rfl
theorem indirect (x0 : Nat) : Statement (.indirect x0) := none rfl
theorem loadModel (x0 : Nat) : Statement (.loadModel x0) := none rfl
theorem modelUnloadComplete (x0 : Fin 64) : Statement (.modelUnloadComplete x0) := none rfl
theorem barrier (x0 : Nat) : Statement (.barrier x0) := none rfl
theorem packetCompletion (x0 : Nat) (x1 : Nat) : Statement (.packetCompletion x0 x1) := none rfl
theorem frameTick : Statement (.frameTick) := none rfl
theorem windowMessageArrival : Statement (.windowMessageArrival) := none rfl
theorem lossNotice : Statement (.lossNotice) := none rfl
theorem flitReplay : Statement (.flitReplay) := none rfl
theorem permitReturn : Statement (.permitReturn) := none rfl
theorem auditFlit : Statement (.auditFlit) := none rfl
theorem resynchronisation : Statement (.resynchronisation) := none rfl
theorem commandLinkMessage : Statement (.commandLinkMessage) := none rfl
theorem tailWrite : Statement (.tailWrite) := none rfl
theorem haltClear : Statement (.haltClear) := none rfl
theorem hsemTake : Statement (.hsemTake) := none rfl
theorem hsemRelease : Statement (.hsemRelease) := none rfl
theorem pwrmodeWrite : Statement (.pwrmodeWrite) := none rfl
theorem powerModeChange : Statement (.powerModeChange) := none rfl
theorem resetRequest : Statement (.resetRequest) := none rfl
theorem registerWrite : Statement (.registerWrite) := none rfl
theorem firmwareImageLoad : Statement (.firmwareImageLoad) := none rfl
theorem coldReset : Statement (.coldReset) := none rfl
theorem warmReset : Statement (.warmReset) := none rfl
theorem portReset : Statement (.portReset) := none rfl
theorem bankerBoot : Statement (.bankerBoot) := none rfl
theorem hbmTraining : Statement (.hbmTraining) := none rfl
theorem leafBoot : Statement (.leafBoot) := none rfl
theorem bringupReady : Statement (.bringupReady) := none rfl
theorem thermalStepUp : Statement (.thermalStepUp) := none rfl
theorem thermalTrip : Statement (.thermalTrip) := none rfl
theorem managementReset : Statement (.managementReset) := none rfl
theorem debugAccess : Statement (.debugAccess) := none rfl
theorem hostMemoryAccess : Statement (.hostMemoryAccess) := none rfl
theorem retrainComplete : Statement (.retrainComplete) := none rfl
theorem errorCheckAndScrub : Statement (.errorCheckAndScrub) := none rfl

end WordRange

end Sys2Proof.Laws
end

