-- ==== Sys2Proof/Laws/Run.lean ====
section
/-!
SUPPORT. The shared operations, once each: what the reads of operands, the wrapper of a dealer instruction and the wrapper of another
agent's step answer.
-/
namespace Sys2Proof.Machine

/-! ## Units -/

/-- No event leaves everything as it was. -/
@[simp] theorem charge_zero (t : TileNo) (c : SlotNo) (k : Fin 9) (s : State) : s.charge t c k 0 = s := by
  unfold State.charge; split <;> rfl

/-- Where nothing is owed, nothing is paid. -/
theorem payUnits_zero (s0 : State) (t : TileNo) (c : SlotNo) (w : Option (ChainNo × Nat)) (job : Nat) (s : State) (h1 : s.meterHbm = 0)
    (h2 : s.meterNet = 0) : payUnits s0 t c w job s = some s := by
  simp [payUnits, h1, h2]
/-- Where nothing is owed, nothing is paid, and no energy is counted. -/
theorem settleStep_zero (s0 : State) (t : TileNo) (c : SlotNo) (w : Option (ChainNo × Nat)) (job : Nat) (s : State) (h1 : s.meterHbm = 0)
    (h2 : s.meterNet = 0) : settleStep s0 t c w job s = some s := by
  unfold settleStep
  rw [h1, chargeAccess, if_pos rfl, payUnits_zero _ _ _ _ _ _ h1 h2]
/-- A step of a dealer that owes nothing ends as it would. -/
theorem paidOr_zero (t : TileNo) (c : SlotNo) (x : Ctx) (h : Hd) (len : Nat) (ends : Bool) (dst : Option Dst) (s s' : State) (f : State → State)
    (h1 : s'.meterHbm = 0) (h2 : s'.meterNet = 0) : paidOr t c x h len ends dst s s' f = f s' := by
  unfold paidOr
  rw [settleStep_zero _ _ _ _ _ _ h1 h2]

/-- A ready state that an effect left without units to pay. -/
theorem pays_free (s : State) (x : Ctx) (s1 : State) (h1 : s1.meterHbm = 0) (h2 : s1.meterNet = 0) : Pays s x s1 s1 := by
  exact settleStep_zero _ _ _ _ _ _ h1 h2

/-- What a fault leaves owes the requests of its step. -/
theorem applySide_reqs (t : TileNo) (c : SlotNo) (d : Side) (s : State) : (applySide t c d s).reqs = d.reqs := by
  have : ∀ (l : List ErrRec) (u : State), (l.foldl State.addErr u).reqs = u.reqs := by
    intro l
    induction l with
    | nil => intro u; rfl
    | cons r l ih => intro u; exact (ih _).trans (State.addErr_reqs u r)
  unfold applySide
  simp [this]

/-- Hardware that has written no memory for a dealer leaves its cache and the published releases as they are. -/
theorem ownLines_none (t : TileNo) (x : Ctx) (s s' : State) (h : s'.hist = s.hist) : ownLines t x s s' = s' := by
  have hw : wroteSince s s' = [] := by simp [wroteSince, h]
  have ht : s'.tiles.set t (s'.tiles.get t) = s'.tiles := by
    apply Vector.ext
    intro i hi
    rw [Vector.getElem_set]
    split
    · rename_i he; subst he; rfl
    · rfl
  simp only [ownLines, hw, List.flatMap_nil, List.nil_append, List.any_nil, Bool.not_false, List.filter_true, State.setTile, State.tile]
  rw [show ({ s'.tiles.get t with dcache := (s'.tiles.get t).dcache } : Tile) = s'.tiles.get t from rfl, ht]

/-- Nor does it make requests. -/
theorem ownWrites_none (t : TileNo) (x : Ctx) (s s' : State) (h : s'.hist = s.hist) : ownWrites t x s s' = s' := by
  have hr : wroteReqs t s s' = [] := by simp [wroteReqs, wroteSince, h]
  simp only [ownWrites, hr, List.append_nil]
  exact ownLines_none t x s s' h

/-! ## Effects -/

theorem bind_ok {α β : Type} (m : M α) (f : α → M β) (s t : State) (a : α) (h : m s = .ok (a, t)) : (m >>= f) s = f a t := by
  simp only [bind, StateT.bind, Except.bind, h]
theorem bind_error {α β : Type} (m : M α) (f : α → M β) (s : State) (e : Exit) (h : m s = .error e) : (m >>= f) s = .error e := by
  simp only [bind, StateT.bind, Except.bind, h]
/-- A completed sequence, taken apart. -/
theorem bind_ok_iff {α β : Type} (m : M α) (f : α → M β) (s u : State) (b : β) :
    (m >>= f) s = .ok (b, u) ↔ ∃ a t, m s = .ok (a, t) ∧ f a t = .ok (b, u) := by
  constructor
  · intro h
    cases hm : m s with
    | error e => rw [bind_error m f s e hm] at h; cases h
    | ok p => exact ⟨p.1, p.2, rfl, by rw [bind_ok m f s p.2 p.1 hm] at h; exact h⟩
  · rintro ⟨a, t, hm, hf⟩
    rw [bind_ok m f s t a hm, hf]

@[simp] theorem pure_run {α : Type} (a : α) (s : State) : (pure a : M α) s = .ok (a, s) := rfl
@[simp] theorem upd_run (f : State → State) (s : State) : upd f s = .ok ((), f s) := rfl
@[simp] theorem see_run {α : Type} (f : State → α) (s : State) : see f s = .ok (f s, s) := rfl
@[simp] theorem me_run (s : State) : me s = .ok ((s.cur, s.mySlot), s) := rfl
@[simp] theorem modCtx_run (t : TileNo) (c : SlotNo) (f : Ctx → Ctx) (s : State) : modCtx t c f s = .ok ((), s.modCtx t c f) := rfl
@[simp] theorem modMe_run (f : Ctx → Ctx) (s : State) : modMe f s = .ok ((), s.upMe f) := rfl
@[simp] theorem modTile_run (t : TileNo) (f : Tile → Tile) (s : State) : modTile t f s = .ok ((), s.setTile t (f (s.tile t))) := rfl
@[simp] theorem check_true (c : Cause) (v : Word) (s : State) : check true c v s = .ok ((), s) := rfl
@[simp] theorem check_false (c : Cause) (v : Word) (s : State) : check false c v s = .error (.trap c v ⟨0, [], s.free, s.reqs⟩) := rfl
@[simp] theorem enabled_true (s : State) : enabled true s = .ok ((), s) := rfl
@[simp] theorem enabled_false (s : State) : enabled false s = .error .idle := rfl
@[simp] theorem present_some {α : Type} (a : α) (s : State) : present (some a) s = .ok (a, s) := rfl
@[simp] theorem present_none {α : Type} (s : State) : present (none : Option α) s = .error .idle := rfl

theorem getCtx_run (t : TileNo) (c : SlotNo) (s : State) (x : Ctx) (h : s.ctx? t c = some x) : getCtx t c s = .ok (x, s) := by
  simp only [getCtx, bind, StateT.bind, Except.bind, see_run, h, present_some]
theorem myCtx_run (s : State) (x : Ctx) (h : s.ctx? s.cur s.mySlot = some x) : myCtx s = .ok (x, s) := by
  simp only [myCtx, bind, StateT.bind, Except.bind, me_run]
  exact getCtx_run _ _ s x h

/-- A readable a operand. -/
theorem readA_run (s : State) (x : Ctx) (r : Src) (v : Word) (h : s.ctx? s.cur s.mySlot = some x) (hv : Reads s x r v) :
    readA r s = .ok (v, s) := by
  unfold Reads at hv
  simp only [readA, bind, StateT.bind, Except.bind, me_run, getCtx_run _ _ s x h, hv, pure_run]
/-- A readable further operand. -/
theorem readC_run (s : State) (x : Ctx) (r : Src) (a v : Word) (h : s.ctx? s.cur s.mySlot = some x) (hv : Reads s x r v) :
    readC r a s = .ok (v, s) := by
  unfold Reads at hv
  simp only [readC, bind, StateT.bind, Except.bind, me_run, getCtx_run _ _ s x h, hv, pure_run]

/-! ## The wrappers -/

/-- A dealer instruction whose effect completes and whose units are paid. -/
theorem dealer_done (s : State) (x : Ctx) (h : Hd) (eff : M Eff) (len : Nat) (ends : Bool) (dst : Option Dst) (e : Eff) (s1 s2 : State)
    (hr : Ready s x) (hg : x.pred h.guard = true) (he : eff s = .ok (e, s1)) (hp : Pays s x s1 s2) :
    dealer h eff s len ends dst = .next (finish s x len (ends || h.stop) e s2) := by
  have h1 : s.ctx? s.cur (s.tile s.cur).cur = some x := hr.here
  have h2 : settleStep s s.cur (s.tile s.cur).cur none x.job s1 = some s2 := hp
  simp only [dealer, h1, hr.runs, hg, if_true, runEff, paidOr, he, h2]
  rfl
/-- A dealer instruction whose effect raises a precise cause with nothing done. -/
theorem dealer_trap (s : State) (x : Ctx) (h : Hd) (eff : M Eff) (len : Nat) (ends : Bool) (dst : Option Dst) (c : Cause) (v : Word)
    (hr : Ready s x) (hg : x.pred h.guard = true) (he : eff s = .error (.trap c v ⟨0, [], s.free, s.reqs⟩)) :
    dealer h eff s len ends dst = .next (preciseTrap s x c v) := by
  have h1 : s.ctx? s.cur (s.tile s.cur).cur = some x := hr.here
  have h2 : ∀ d : Side, d.reqs = s.reqs → (applySide s.cur (s.tile s.cur).cur d s).reqs = s.reqs := fun d hd => by rw [applySide_reqs, hd]
  have h3 : (applySide s.cur (s.tile s.cur).cur ⟨0, [], s.free, s.reqs⟩ s).meterHbm = 0 := by unfold State.meterHbm; rw [h2 _ rfl]; exact hr.hbm
  have h4 : (applySide s.cur (s.tile s.cur).cur ⟨0, [], s.free, s.reqs⟩ s).meterNet = 0 := by unfold State.meterNet; rw [h2 _ rfl]; exact hr.net
  simp only [dealer, h1, hr.runs, hg, if_true, runEff, he, paidOr_zero _ _ _ _ _ _ _ _ _ _ h3 h4]
  rfl
/-- A dealer instruction that begins to wait, with nothing owed. -/
theorem dealer_wait (s : State) (x : Ctx) (h : Hd) (eff : M Eff) (len : Nat) (ends : Bool) (dst : Option Dst) (k : WaitKind) (s1 : State)
    (hr : Ready s x) (hg : x.pred h.guard = true) (he : eff s = .error (.wait k s1)) (h1 : s1.meterHbm = 0) (h2 : s1.meterNet = 0) :
    dealer h eff s len ends dst = .next (setWait s.cur s.mySlot h len (ends || h.stop) dst k s1) := by
  have h0 : s.ctx? s.cur (s.tile s.cur).cur = some x := hr.here
  simp only [dealer, h0, hr.runs, hg, if_true, runEff, he, paidOr_zero _ _ _ _ _ _ _ _ _ _ h1 h2]
  rfl
/-- A dealer instruction with a false guard. -/
theorem dealer_skip (s : State) (x : Ctx) (h : Hd) (eff : M Eff) (len : Nat) (ends : Bool) (dst : Option Dst)
    (hr : Ready s x) (hg : x.pred h.guard = false) :
    dealer h eff s len ends dst = .next (finish s x len (ends || h.stop) {} s) := by
  have h0 : s.ctx? s.cur (s.tile s.cur).cur = some x := hr.here
  simp only [dealer, h0, hr.runs, hg, if_true]
  rfl

/-- A step of another agent that completes. -/
theorem agent_done (m : M Unit) (s t : State) (h : m s = .ok ((), t)) : agent m s = .next t.settled := by
  simp only [agent, h]; rfl
/-- A step of another agent that is not enabled changes nothing. -/
theorem agent_idle (m : M Unit) (s : State) (h : m s = .error .idle) : agent m s = .next s := by
  simp only [agent, h]
/-- Every outcome of a step of another agent. -/
theorem agent_next (m : M Unit) (s t : State) (h : agent m s = .next t) :
    (∃ u, m s = .ok ((), u) ∧ t = u.settled) ∨ (∃ k u, m s = .error (.wait k u) ∧ t = u.settled) ∨ t = s := by
  unfold agent at h
  split at h
  · rename_i u hu; exact .inl ⟨u, hu, (Host.Outcome.next.inj h).symm⟩
  · rename_i k u hu; exact .inr (.inl ⟨k, u, hu, (Host.Outcome.next.inj h).symm⟩)
  · cases h
  · cases h
  · exact .inr (.inr (Host.Outcome.next.inj h).symm)

end Sys2Proof.Machine
end

