-- ==== Sys2Proof/Tests/Slice0.lean ====
section
/-!
SUPPORT. Own tests: ill-formed instructions that WellFormed refuses, words written out from the encodings of R38 to R50, one-step
tests whose results are worked by hand from the rules they name, and a witness for the hypotheses of each statement.
-/
namespace Sys2Proof.Tests
open Sys2Proof Sys2Proof.Machine

/-! ## Ill-formed instructions -/

/-- LOOP needs a body end of 1 to 511 words (R45). -/
theorem test_loop_end_zero : ¬ (Instr.loop ⟨0, false⟩ (.g 1) 0).WF := by decide
/-- FENCE needs an order other than RLX (R50). -/
theorem test_fence_rlx : ¬ (Instr.fence ⟨0, false⟩ .dev .rlx).WF := by decide
/-- FORK and RDV need a mask of 1 to 15 (R50). -/
theorem test_masks_zero : ¬ (Instr.fork ⟨0, false⟩ 0).WF ∧ ¬ (Instr.rdv ⟨0, false⟩ 0).WF := by decide
/-- AMOCAS needs an even d of at most 46 (R50). -/
theorem test_amocas_odd : ¬ (Instr.amocas ⟨0, false⟩ false .dev .rlx 5 (.g 1)).WF := by decide
/-- A memory form with a modulo register needs a base among g0 to g47 (R46). -/
theorem test_modulo_base : ¬ (Instr.ld ⟨0, false⟩ (some 1) .zero (some 2) 0).WF ∧
    ¬ (Instr.sd ⟨0, false⟩ (.g 1) (.b 0) (some 2) 0).WF := by decide
/-- A step of another agent is no instruction of a dealer, so it has no encoding. -/
theorem test_events_have_no_words : encode .frameTick = [] ∧ encode (.recordPop 0 0 0) = [] := by decide

/-! ## Words that decode -/

/-- ADD to SUBW, with a guard, a stop, a suppressed destination and a latch operand (R39, R41, R50). -/
theorem words_arithmetic : ∀ p ∈ [
    (0x0403A8A8, Instr.add ⟨0, false⟩ (some 7) (.g 20) (.g 21)),
    (0x040428A9, Instr.sub ⟨0, false⟩ (some 8) (.g 20) (.g 21)),
    (0x0404A8AA, Instr.addw ⟨0, false⟩ (some 9) (.g 20) (.g 21)),
    (0x040528AB, Instr.subw ⟨0, false⟩ (some 10) (.g 20) (.g 21)),
    (0x05A20A30, Instr.add ⟨3, true⟩ (some 4) (.g 5) (.g 6)),
    (0x04406039, Instr.sub ⟨0, false⟩ none (.b 0) (.g 7))],
    decode p.1 0 true = .ok p.2 := by decide

/-- R50, major 0x02. -/
theorem words_logic : ∀ p ∈ [
    (0x0803A8A8, Instr.and ⟨0, false⟩ (some 7) (.g 20) (.g 21)),
    (0x080428A9, Instr.or ⟨0, false⟩ (some 8) (.g 20) (.g 21)),
    (0x0804A8AA, Instr.xor ⟨0, false⟩ (some 9) (.g 20) (.g 21)),
    (0x080528AB, Instr.andn ⟨0, false⟩ (some 10) (.g 20) (.g 21)),
    (0x0805A8AC, Instr.orn ⟨0, false⟩ (some 11) (.g 20) (.g 21)),
    (0x080628AD, Instr.xnor ⟨0, false⟩ (some 12) (.g 20) (.g 21))],
    decode p.1 0 true = .ok p.2 := by decide

/-- R50, major 0x03. -/
theorem words_shift : ∀ p ∈ [
    (0x0C03A8A8, Instr.sll ⟨0, false⟩ (some 7) (.g 20) (.g 21)),
    (0x0C0428A9, Instr.srl ⟨0, false⟩ (some 8) (.g 20) (.g 21)),
    (0x0C04A8AA, Instr.sra ⟨0, false⟩ (some 9) (.g 20) (.g 21)),
    (0x0C0528AB, Instr.rol ⟨0, false⟩ (some 10) (.g 20) (.g 21)),
    (0x0C05A8AC, Instr.ror ⟨0, false⟩ (some 11) (.g 20) (.g 21)),
    (0x0C0628AD, Instr.sllw ⟨0, false⟩ (some 12) (.g 20) (.g 21)),
    (0x0C06A8AE, Instr.srlw ⟨0, false⟩ (some 13) (.g 20) (.g 21)),
    (0x0C0728AF, Instr.sraw ⟨0, false⟩ (some 14) (.g 20) (.g 21))],
    decode p.1 0 true = .ok p.2 := by decide

/-- R50, major 0x04. -/
theorem words_multiply : ∀ p ∈ [
    (0x1003A8A8, Instr.mul ⟨0, false⟩ (some 7) (.g 20) (.g 21)),
    (0x100428A9, Instr.mulh ⟨0, false⟩ (some 8) (.g 20) (.g 21)),
    (0x1004A8AA, Instr.mulhu ⟨0, false⟩ (some 9) (.g 20) (.g 21)),
    (0x100528AB, Instr.mulhsu ⟨0, false⟩ (some 10) (.g 20) (.g 21)),
    (0x1005A8AC, Instr.div ⟨0, false⟩ (some 11) (.g 20) (.g 21)),
    (0x100628AD, Instr.divu ⟨0, false⟩ (some 12) (.g 20) (.g 21)),
    (0x1006A8AE, Instr.rem ⟨0, false⟩ (some 13) (.g 20) (.g 21)),
    (0x100728AF, Instr.remu ⟨0, false⟩ (some 14) (.g 20) (.g 21))],
    decode p.1 0 true = .ok p.2 := by decide

/-- R50, major 0x05. -/
theorem words_select : ∀ p ∈ [
    (0x1403A8A8, Instr.min ⟨0, false⟩ (some 7) (.g 20) (.g 21)),
    (0x140428A9, Instr.max ⟨0, false⟩ (some 8) (.g 20) (.g 21)),
    (0x1404A8AA, Instr.minu ⟨0, false⟩ (some 9) (.g 20) (.g 21)),
    (0x140528AB, Instr.maxu ⟨0, false⟩ (some 10) (.g 20) (.g 21)),
    (0x14018804, Instr.abs ⟨0, false⟩ (some 3) (.g 4)),
    (0x1417EFC5, Instr.movnz ⟨0, false⟩ 47 (.b 7) .zero),
    (0x140073D6, Instr.movz ⟨0, false⟩ 0 .tileid .ctxid)],
    decode p.1 0 true = .ok p.2 := by decide

/-- R50, major 0x06. -/
theorem words_bits : ∀ p ∈ [
    (0x1800F600, Instr.clz ⟨0, false⟩ (some 1) .lc0),
    (0x1800F801, Instr.ctz ⟨0, false⟩ (some 1) .lc1),
    (0x18008402, Instr.popc ⟨0, false⟩ (some 1) (.g 2)),
    (0x1800841B, Instr.bfxu ⟨0, false⟩ (some 1) (.g 2) (.g 3)),
    (0x1800841C, Instr.bfxs ⟨0, false⟩ (some 1) (.g 2) (.g 3)),
    (0x1800841D, Instr.bfi ⟨0, false⟩ 1 (.g 2) (.g 3)),
    (0x18008406, Instr.rev8 ⟨0, false⟩ (some 1) (.g 2))],
    decode p.1 0 true = .ok p.2 := by decide

/-- R50, major 0x07. -/
theorem words_scaled : ∀ p ∈ [
    (0x1C03A8A8, Instr.sh1add ⟨0, false⟩ (some 7) (.g 20) (.g 21)),
    (0x1C0428A9, Instr.sh2add ⟨0, false⟩ (some 8) (.g 20) (.g 21)),
    (0x1C04A8AA, Instr.sh3add ⟨0, false⟩ (some 9) (.g 20) (.g 21)),
    (0x1C0528AB, Instr.sh4add ⟨0, false⟩ (some 10) (.g 20) (.g 21)),
    (0x1C05A8AC, Instr.sh6add ⟨0, false⟩ (some 11) (.g 20) (.g 21)),
    (0x1C0628AD, Instr.sh8add ⟨0, false⟩ (some 12) (.g 20) (.g 21)),
    (0x1C06A8AE, Instr.sh13add ⟨0, false⟩ (some 13) (.g 20) (.g 21))],
    decode p.1 0 true = .ok p.2 := by decide

/-- R45, R50: majors 0x08 to 0x0B. -/
theorem words_immediate : ∀ p ∈ [
    (0x200105F8, Instr.addi ⟨0, false⟩ (some 2) (.g 2) (-8)),
    (0x240106FF, Instr.andi ⟨0, false⟩ (some 2) (.g 3) 255),
    (0x28010700, Instr.ori ⟨0, false⟩ (some 2) (.g 3) (-256)),
    (0x2C010609, Instr.slli ⟨0, false⟩ (some 2) (.g 3) 9),
    (0x2C01064A, Instr.srli ⟨0, false⟩ (some 2) (.g 3) 10),
    (0x2C01068B, Instr.srai ⟨0, false⟩ (some 2) (.g 3) 11),
    (0x2C0106CC, Instr.rori ⟨0, false⟩ (some 2) (.g 3) 12),
    (0x2C01070D, Instr.xori ⟨0, false⟩ (some 2) (.g 3) 13)],
    decode p.1 0 true = .ok p.2 := by decide

/-- R47, R114: majors 0x0C to 0x0F. -/
theorem words_compare : ∀ p ∈ [
    (0x30070928, Instr.cmpeq 0 .plain 3 4 (.g 9) (.g 10)),
    (0x30970929, Instr.cmpne 1 .z 3 4 (.g 9) (.g 10)),
    (0x3127092A, Instr.cmplt 2 .all 3 4 (.g 9) (.g 10)),
    (0x31B7092B, Instr.cmpge 3 .any 3 4 (.g 9) (.g 10)),
    (0x36470928, Instr.cmpltu 4 .xor 3 4 (.g 9) (.g 10)),
    (0x36D70929, Instr.cmpgeu 5 .hit 3 4 (.g 9) (.g 10)),
    (0x3767092A, Instr.cmpts 6 .mix 3 4 (.g 9) (.g 10)),
    (0x3787092B, Instr.cmptc 7 .plain 3 4 (.g 9) (.g 10)),
    (0x38170937, Instr.cmpeqi 0 .z 3 4 (.g 9) 55),
    (0x38A70976, Instr.cmpnei 1 .all 3 4 (.g 9) 54),
    (0x393709B5, Instr.cmplti 2 .any 3 4 (.g 9) 53),
    (0x39C709F4, Instr.cmpgei 3 .xor 3 4 (.g 9) 52),
    (0x3E570933, Instr.cmpltui 4 .hit 3 4 (.g 9) 51),
    (0x3EE70972, Instr.cmpgeui 5 .mix 3 4 (.g 9) 50),
    (0x3F0709B1, Instr.cmptsi 6 .plain 3 4 (.g 9) 49),
    (0x3F9709F0, Instr.cmptci 7 .z 3 4 (.g 9) 48)],
    decode p.1 0 true = .ok p.2 := by decide

/-- R50, major 0x10. -/
theorem words_predicate : ∀ p ∈ [
    (0x40008418, Instr.pand ⟨0, false⟩ 1 2 3),
    (0x40008419, Instr.por ⟨0, false⟩ 1 2 3),
    (0x4000841A, Instr.pxor ⟨0, false⟩ 1 2 3),
    (0x4000841B, Instr.pandn ⟨0, false⟩ 1 2 3),
    (0x40008404, Instr.pnot ⟨0, false⟩ 1 2),
    (0x40048005, Instr.pget ⟨0, false⟩ (some 9)),
    (0x40001256, Instr.pput ⟨0, false⟩ (.g 9) (.g 10))],
    decode p.1 0 true = .ok p.2 := by decide

/-- R48, R50: majors 0x11 to 0x14. -/
theorem words_control : ∀ p ∈ [
    (0x44000003, Instr.br 0 3),
    (0x497FFFFB, Instr.brl 2 (-5)),
    (0x4C005E00, Instr.jr ⟨0, false⟩ (.g 47)),
    (0x4C051601, Instr.jrl ⟨0, false⟩ 10 (.g 11)),
    (0x4C000002, Instr.ret ⟨0, false⟩),
    (0x50000A07, Instr.loop ⟨0, false⟩ (.g 5) 7)],
    decode p.1 0 true = .ok p.2 := by decide

/-- R46, R50: majors 0x15 to 0x17. -/
theorem words_memory : ∀ p ∈ [
    (0x54048808, Instr.lbu ⟨0, false⟩ (some 9) (.g 4) none (-8)),
    (0x54048818, Instr.lhu ⟨0, false⟩ (some 9) (.g 4) none (-8)),
    (0x54048828, Instr.lwu ⟨0, false⟩ (some 9) (.g 4) none (-8)),
    (0x54048838, Instr.ld ⟨0, false⟩ (some 9) (.g 4) none (-8)),
    (0x58048847, Instr.lb ⟨0, false⟩ (some 9) (.g 4) (some 0) 7),
    (0x58048897, Instr.lh ⟨0, false⟩ (some 9) (.g 4) (some 1) 7),
    (0x580488E7, Instr.lw ⟨0, false⟩ (some 9) (.g 4) (some 2) 7),
    (0x5C1C09CF, Instr.sb ⟨0, false⟩ .zero (.g 4) (some 6) (-1)),
    (0x5C1C09DF, Instr.sh ⟨0, false⟩ .zero (.g 4) (some 6) (-1)),
    (0x5C1C09EF, Instr.sw ⟨0, false⟩ .zero (.g 4) (some 6) (-1)),
    (0x5C1C09FF, Instr.sd ⟨0, false⟩ .zero (.g 4) (some 6) (-1)),
    (0x540488F1, Instr.ld ⟨0, false⟩ (some 9) (.g 4) (some 2) 1)],
    decode p.1 0 true = .ok p.2 := by decide

/-- R50, major 0x18. -/
theorem words_modulo : ∀ p ∈ [
    (0x60019048, Instr.mset ⟨0, false⟩ 2 (.g 8) (.g 9)),
    (0x60028E01, Instr.mgetb ⟨0, false⟩ (some 5) 6),
    (0x60028202, Instr.mgetl ⟨0, false⟩ (some 5) 0)],
    decode p.1 0 true = .ok p.2 := by decide

/-- R50, major 0x19: a csr number stands in a and c, a high. -/
theorem words_csr : ∀ p ∈ [
    (0x64018180, Instr.csrr ⟨0, false⟩ (some 3) 0x030),
    (0x64018181, Instr.csrw ⟨0, false⟩ 0x030 (.g 3)),
    (0x64018182, Instr.csrs ⟨0, false⟩ 0x030 (.g 3)),
    (0x64018183, Instr.csrc ⟨0, false⟩ 0x030 (.g 3))],
    decode p.1 0 true = .ok p.2 := by decide

/-- R45, R50: majors 0x1A and 0x1B. -/
theorem words_ordering : ∀ p ∈ [
    (0x68030E00, Instr.amoadd ⟨0, false⟩ false .tile .rlx 6 (.g 7)),
    (0x68030E4B, Instr.amoand ⟨0, false⟩ true .clu .acq 6 (.g 7)),
    (0x68030E94, Instr.amoor ⟨0, false⟩ false .die .rel 6 (.g 7)),
    (0x68030EDF, Instr.amoxor ⟨0, false⟩ true .dev .ar 6 (.g 7)),
    (0x68030F20, Instr.amomin ⟨0, false⟩ false .dom .rlx 6 (.g 7)),
    (0x68030F43, Instr.amomax ⟨0, false⟩ true .tile .acq 6 (.g 7)),
    (0x68030F8C, Instr.amoswap ⟨0, false⟩ false .clu .rel 6 (.g 7)),
    (0x68030FD7, Instr.amocas ⟨0, false⟩ true .die .ar 6 (.g 7)),
    (0x6C000016, Instr.fence ⟨0, false⟩ .die .ar),
    (0x6C000040, Instr.fenceI ⟨0, false⟩)],
    decode p.1 0 true = .ok p.2 := by decide

/-- R50, R51: majors 0x1C and 0x2C. -/
theorem words_system : ∀ p ∈ [
    (0x70000000, Instr.nop ⟨0, false⟩),
    (0x70200000, Instr.nop ⟨0, true⟩),
    (0x700001F1, Instr.trap ⟨0, false⟩ 62),
    (0x70000002, Instr.eret ⟨0, false⟩),
    (0x70000003, Instr.brk ⟨0, false⟩),
    (0xB00001FF, Instr.burst ⟨0, false⟩ 511)],
    decode p.1 0 true = .ok p.2 := by decide

/-- R50: majors 0x20 and 0x21. -/
theorem words_chain : ∀ p ∈ [
    (0x80010A00, Instr.link ⟨0, false⟩ 2 (.g 5)),
    (0x80018001, Instr.kick ⟨0, false⟩ 3),
    (0x80078002, Instr.fork ⟨0, false⟩ 15),
    (0x80028003, Instr.rdv ⟨0, false⟩ 5),
    (0x80000004, Instr.drain ⟨0, false⟩),
    (0x84038200, Instr.chseq ⟨0, false⟩ (some 7) 1),
    (0x84038401, Instr.chstat ⟨0, false⟩ (some 7) 2)],
    decode p.1 0 true = .ok p.2 := by decide

/-- R50, major 0x22. -/
theorem words_semaphore : ∀ p ∈ [
    (0x881F8A30, Instr.semi ⟨0, false⟩ 63 (.g 5) (.g 6)),
    (0x88018A31, Instr.semb ⟨0, false⟩ 3 (.g 5) (.g 6)),
    (0x88018A32, Instr.semw ⟨0, false⟩ 3 (.g 5) (.g 6)),
    (0x88018A03, Instr.semp ⟨0, false⟩ 3 (.g 5)),
    (0x8803FDC4, Instr.semr ⟨0, false⟩ (some 7) 62 .zero),
    (0x88048005, Instr.semk ⟨0, false⟩ 9)],
    decode p.1 0 true = .ok p.2 := by decide

/-- R45, R50: major 0x23. -/
theorem words_tensor : ∀ p ∈ [
    (0x8C000A7F, Instr.tdef ⟨0, false⟩ 127 (.g 5)),
    (0x8C038C82, Instr.tmod ⟨0, false⟩ 2 (.g 6) (.g 7)),
    (0x8C038D03, Instr.tget ⟨0, false⟩ (some 7) 3 (.g 6)),
    (0x8C000184, Instr.tkill ⟨0, false⟩ 4)],
    decode p.1 0 true = .ok p.2 := by decide

/-- R50, major 0x24. -/
theorem words_pool : ∀ p ∈ [
    (0x90000A00, Instr.claim ⟨0, false⟩ (.g 5)),
    (0x90000A01, Instr.release ⟨0, false⟩ (.g 5)),
    (0x90000C02, Instr.aclr ⟨0, false⟩ (.g 6)),
    (0x90039003, Instr.hstat ⟨0, false⟩ (some 7) (.g 8)),
    (0x90010004, Instr.partw ⟨0, false⟩ (some 2))],
    decode p.1 0 true = .ok p.2 := by decide

/-- R50: majors 0x25 and 0x26. -/
theorem words_shaping : ∀ p ∈ [
    (0x94018A00, Instr.axis ⟨0, false⟩ 3 (.g 5)),
    (0x94008A01, Instr.resi ⟨0, false⟩ 1 (.g 5)),
    (0x94010A02, Instr.resx ⟨0, false⟩ 2 (.g 5)),
    (0x94038643, Instr.resr ⟨0, false⟩ (some 7) 3 (.g 8)),
    (0x94008004, Instr.resclr ⟨0, false⟩ 1),
    (0x94038A05, Instr.qsw ⟨0, false⟩ 7 (.g 5)),
    (0x94048C06, Instr.qsr ⟨0, false⟩ (some 9) 6),
    (0x98018800, Instr.covset ⟨0, false⟩ 3 (.g 4)),
    (0x98048421, Instr.covget ⟨0, false⟩ (some 9) 2 (.g 4)),
    (0x98048222, Instr.covstat ⟨0, false⟩ (some 9) 1 (.g 4))],
    decode p.1 0 true = .ok p.2 := by decide

/-- R50: majors 0x27 and 0x28. -/
theorem words_continuation : ∀ p ∈ [
    (0x9C002C00, Instr.spawn ⟨0, false⟩ (.g 22)),
    (0x9C000A31, Instr.enq ⟨0, false⟩ (.g 5) (.g 6)),
    (0x9C001EB2, Instr.await ⟨0, false⟩ (.g 15) (.g 22)),
    (0x9C000C43, Instr.resolve ⟨0, false⟩ (.g 6) (.g 8)),
    (0x9C000004, Instr.yield ⟨0, false⟩),
    (0x9C000005, Instr.endRec ⟨0, false⟩),
    (0x9C000A06, Instr.cancel ⟨0, false⟩ (.g 5)),
    (0xA0000A00, Instr.join ⟨0, false⟩ (.g 5)),
    (0xA0000A01, Instr.leave ⟨0, false⟩ (.g 5)),
    (0xA0000A02, Instr.gbar ⟨0, false⟩ (.g 5)),
    (0xA0000003, Instr.wfe ⟨0, false⟩),
    (0xA0000A04, Instr.sev ⟨0, false⟩ (.g 5))],
    decode p.1 0 true = .ok p.2 := by decide

/-- R50: majors 0x29 to 0x2B. -/
theorem words_context : ∀ p ∈ [
    (0xA4000A00, Instr.ctxsave ⟨0, false⟩ (.g 5)),
    (0xA4000A01, Instr.ctxrestore ⟨0, false⟩ (.g 5)),
    (0xA8000A30, Instr.qbind ⟨0, false⟩ (.g 5) (.g 6)),
    (0xA8000A01, Instr.qunbind ⟨0, false⟩ (.g 5)),
    (0xA8038A02, Instr.qdepth ⟨0, false⟩ (some 7) (.g 5)),
    (0xAC038A00, Instr.tprobe ⟨0, false⟩ (some 7) (.g 5)),
    (0xAC000A31, Instr.tinv ⟨0, false⟩ (.g 5) (.g 6))],
    decode p.1 0 true = .ok p.2 := by decide

/-- The four long forms, whose second word is the immediate (R49). -/
theorem words_long : ∀ p ∈ [
    (0xF80A0000, 0x12345678, Instr.li ⟨0, false⟩ (some 20) 0x12345678),
    (0xF8029000, 0xFFFFFFFF, Instr.liu ⟨0, false⟩ (some 5) 0xFFFFFFFF),
    (0xF8032000, 0x80000000, Instr.lih ⟨0, false⟩ 6 0x80000000),
    (0xF817B000, 0x00000001, Instr.addl ⟨0, false⟩ 47 0x00000001)],
    decode p.1 p.2.1 true = .ok p.2.2 := by decide

/-- The checks of R52, in order: no opcode, LONG_SPLIT before a reserved field, reserved field before a bad register, bad register,
and the compare mode 7. -/
theorem words_refused : ∀ p ∈ [
    (0x00000000, true, Cause.illegalOp), (0x74000000, true, .illegalOp), (0xFC000000, true, .illegalOp), (0xF8004000, true, .illegalOp),
    (0x58008030, true, .illegalOp), (0x0402F807, true, .illegalOp), (0xF8028001, false, .longSplit), (0xF8028001, true, .reservedField),
    (0x04408000, true, .reservedField), (0x7000F800, true, .reservedField), (0x6800802A, true, .reservedField),
    (0x0407FFF8, true, .badReg), (0x04027A30, true, .badReg), (0x50007000, true, .reservedField), (0x50007A01, true, .badReg),
    (0x40040000, true, .badReg), (0x30728310, true, .predCode)],
    decode p.1 0 p.2.1 = .error p.2.2 := by decide

/-! ## One step -/

/-- A context of job 7 with number 1 at the start of its cluster pool, with g5 = 5 and g6 = 6 and the partition word of 8, 48 and 8
banks. -/
def demoCtx : Ctx :=
  { num := 1, job := 7, record := 0, cls := 0, pc := 0x9000000000000000
    regs := ((Vector.replicate 48 0).set 5 5).set 6 6, preds := 1, partw := 0x3022 }

/-- The machine after reset with one context, in slot 0 of tile 0. -/
def demoWith (f : Ctx → Ctx) : State := ({ State.reset with cur := 0 } : State).setSlot 0 0 (some (f demoCtx))
/-- The same with values in some registers. -/
def demoRegs (l : List (Fin 48 × Word)) : State := demoWith fun x => l.foldl (fun x p => x.setReg p.1 p.2) x

/-- What a step leaves of the context of the demonstration. -/
def after {α : Type} (f : Ctx → α) (o : Host.Outcome State Fault Refusal) : Option α :=
  match o with
  | .next t => (t.ctx? 0 0).map f
  | .fault _ | .refused _ => none
/-- A register of that context. -/
def regOf (g : Fin 48) (o : Host.Outcome State Fault Refusal) : Option Word := after (·.regs.get g) o
/-- A byte of memory after a step. -/
def byteOf (k : Nat) (o : Host.Outcome State Fault Refusal) : Option Byte :=
  match o with
  | .next t => some (cellGet t.mem k)
  | .fault _ | .refused _ => none

/-- R110: addition wraps. -/
theorem test_add_wraps : regOf 4 (exec (.add ⟨0, false⟩ (some 4) (.g 5) (.g 6)) (demoRegs [(5, 0xFFFFFFFFFFFFFFFF), (6, 2)])) = some 1 := by
  decide
/-- R110: SUBW sign-extends bit 31 of the 32-bit difference. -/
theorem test_subw_sign : regOf 5 (exec (.subw ⟨0, false⟩ (some 5) (.g 5) (.g 6)) (demoRegs [(5, 0x100000000), (6, 1)])) =
    some 0xFFFFFFFFFFFFFFFF := by decide
/-- R110: shift amounts are taken modulo 64. -/
theorem test_sra_amount : regOf 4 (exec (.sra ⟨0, false⟩ (some 4) (.g 5) (.g 6)) (demoRegs [(5, 0x8000000000000000), (6, 65)])) =
    some 0xC000000000000000 := by decide
/-- R110: MULHSU takes a signed and c unsigned. -/
theorem test_mulhsu : regOf 4 (exec (.mulhsu ⟨0, false⟩ (some 4) (.g 5) (.g 6)) (demoRegs [(5, 0xFFFFFFFFFFFFFFFF), (6, 2)])) =
    some 0xFFFFFFFFFFFFFFFF := by decide
/-- R111: the overflow row and the zero row. -/
theorem test_div_corners :
    regOf 4 (exec (.div ⟨0, false⟩ (some 4) (.g 5) (.g 6)) (demoRegs [(5, 0x8000000000000000), (6, 0xFFFFFFFFFFFFFFFF)])) =
      some 0x8000000000000000 ∧
    regOf 4 (exec (.rem ⟨0, false⟩ (some 4) (.g 5) .zero) (demoRegs [(5, 7)])) = some 7 := by decide
/-- R112: a sign-extended field of 4 bits at bit 4. -/
theorem test_bfxs : regOf 4 (exec (.bfxs ⟨0, false⟩ (some 4) (.g 5) (.g 6)) (demoRegs [(5, 0x80), (6, 0x404)])) =
    some 0xFFFFFFFFFFFFFFF8 := by decide
/-- R110: the bytes come out in reverse order. -/
theorem test_rev8 : regOf 4 (exec (.rev8 ⟨0, false⟩ (some 4) (.g 5)) (demoRegs [(5, 0x0102030405060708)])) =
    some 0x0807060504030201 := by decide
/-- R113, R45: an immediate is sign-extended. -/
theorem test_andi_sign : regOf 4 (exec (.andi ⟨0, false⟩ (some 4) (.g 5) (-256)) (demoRegs [(5, 0x123456789ABCDEFF)])) =
    some 0x123456789ABCDE00 := by decide
/-- R49: LIH keeps the low half of d. -/
theorem test_lih : regOf 5 (exec (.lih ⟨0, false⟩ 5 0xDEADBEEF) (demoRegs [(5, 0x1122334455667788)])) = some 0xDEADBEEF55667788 := by
  decide
/-- R114: mode Z with a false guard clears both predicates. -/
theorem test_cmp_z : after (·.preds) (exec (.cmpeq 7 .z 1 2 .zero .zero) (demoWith fun x => { x with preds := 7 })) = some 1 := by decide
/-- R114, R115: pd2 is written last. -/
theorem test_cmp_same : after (·.preds) (exec (.cmpeq 0 .plain 1 1 .zero .zero) (demoWith id)) = some 1 := by decide
/-- R48, R117: BRL backward, with the address after the branch in g47. -/
theorem test_brl : after (fun x => (x.pc, x.regs.get 47)) (exec (.brl 0 (-1)) (demoWith id)) =
    some (0x8FFFFFFFFFFFFFFC, 0x9000000000000004) := by decide
/-- R119: a count of 0 goes past the body. -/
theorem test_loop_zero : after (fun x => (x.pc, (x.loops.get 0).act)) (exec (.loop ⟨0, false⟩ .zero 2) (demoWith id)) =
    some (0x900000000000000C, false) := by decide
/-- R120, R121: the last instruction of a body goes back while the count is above 1. -/
theorem test_loop_back : after (fun x => (x.pc, (x.loops.get 0).lc))
    (exec (.nop ⟨0, false⟩) (demoWith fun x => { x with loops := x.loops.set 0 ⟨2, 0x9000000000000000, 0x9000000000000000, true⟩ })) =
    some (0x9000000000000000, 1) := by decide
/-- R40: a false guard reads no operand, not even a stale latch. -/
theorem test_guard_false : after (fun x => (x.pc, x.latches)) (exec (.add ⟨1, false⟩ (some 4) (.b 0) (.b 0)) (demoWith id)) =
    some (0x9000000000000004, [none]) := by decide
/-- R42: b0 is the result of the instruction before. -/
theorem test_latch : regOf 4 (exec (.add ⟨0, false⟩ (some 4) (.b 0) (.g 6)) (demoWith fun x => { x with latches := [some 40] })) =
    some 46 := by decide
/-- R106, R124: a store puts the lowest byte at the lowest address of the own scratchpad. -/
theorem test_sd_little_endian : byteOf (spAt 0 8) (exec (.sd ⟨0, false⟩ (.g 5) (.g 6) none 1)
    (demoRegs [(5, 0x1122334455667788), (6, 0x8000000000000000)])) = some 0x88 := by decide
/-- R124: LB sign-extends, LBU does not. -/
theorem test_lb_sign :
    (let s := { demoRegs [(6, 0x8000000000000000)] with mem := [(spAt 0 3, 0x80)] }
     regOf 4 (exec (.lb ⟨0, false⟩ (some 4) (.g 6) none 3) s) = some 0xFFFFFFFFFFFFFF80 ∧
     regOf 4 (exec (.lbu ⟨0, false⟩ (some 4) (.g 6) none 3) s) = some 0x80) := by decide
/-- R126: the address register steps round the buffer. -/
theorem test_modulo_step : after (fun x => (x.regs.get 4, x.regs.get 6)) (exec (.ld ⟨0, false⟩ (some 4) (.g 6) (some 0) 1)
    { demoWith fun x => { x.setReg 6 0x8000000000000018 with mods := x.mods.set 0 ⟨0x8000000000000000, 0x20⟩ } with
      mem := [(spAt 0 24, 9)] }) = some (9, 0x8000000000000000) := by decide
/-- R106: an access that is not aligned takes MISALIGNED_DATA (0x12) at its own address with the data address as EVAL (R374, R377). -/
theorem test_misaligned : after (fun x => (x.pc, x.ecause, x.eval, x.epc)) (exec (.ld ⟨0, false⟩ (some 4) (.g 6) none 0)
    (demoWith fun x => { x.setReg 6 0x8000000000000001 with tvec := 0x40 })) =
    some (0x40, 0x12, 0x8000000000000001, 0x9000000000000000) := by decide
/-- R363: an atomic on a word gives the old value sign-extended. -/
theorem test_amoadd_word :
    (let o := exec (.amoadd ⟨0, false⟩ true .dev .rlx 5 (.g 6)) { demoRegs [(5, 1), (6, 0x8000000000000000)] with
      mem := [(spAt 0 0, 0xFF), (spAt 0 1, 0xFF), (spAt 0 2, 0xFF), (spAt 0 3, 0xFF)] }
     regOf 5 o = some 0xFFFFFFFFFFFFFFFF ∧ byteOf (spAt 0 0) o = some 0) := by decide
/-- R102, R100: TILEID and an unlisted number. -/
theorem test_csr : regOf 4 (exec (.csrr ⟨0, false⟩ (some 4) 0) (demoRegs [(4, 9)])) = some 0 ∧
    after (·.ecause) (exec (.csrr ⟨0, false⟩ (some 4) 0xFFF) (demoWith fun x => { x with tvec := 0x40 })) = some 0x0A := by decide
/-- R374, R376: TRAP 5 traps after it completes, with EVAL 5 and EPC at the next word. -/
theorem test_trap : after (fun x => (x.pc, x.ecause, x.eval, x.epc)) (exec (.trap ⟨0, false⟩ 5) (demoWith fun x => { x with tvec := 0x40 })) =
    some (0x40, 0x05, 5, 0x9000000000000004) := by decide
/-- R383: ERET goes to EPC and ends the handler; outside a handler it takes PRIV (0x04). -/
theorem test_eret :
    after (fun x => (x.pc, x.active)) (exec (.eret ⟨0, false⟩) (demoWith fun x => { x with epc := 0x100, dbgctl := 4 })) = some (0x100, false) ∧
    after (·.ecause) (exec (.eret ⟨0, false⟩) (demoWith fun x => { x with tvec := 0x40 })) = some 4 := by decide
/-- R144, R145: CLAIM of two accumulator tiles from tile 4, and a run of count 0. -/
theorem test_claim :
    after (·.heldTiles) (exec (.claim ⟨0, false⟩ (.g 5)) (demoRegs [(5, 0x40404)])) = some 0x30 ∧
    after (·.ecause) (exec (.claim ⟨0, false⟩ (.g 5)) (demoWith fun x => { x.setReg 5 4 with tvec := 0x40 })) = some 1 := by decide
/-- R232, R235: SEMI of count 2 and ceiling 9, and SEMP of 3. -/
theorem test_semaphore :
    after (fun x => ((x.sems.get 1).count, (x.sems.get 1).ceil)) (exec (.semi ⟨0, false⟩ 1 (.g 5) .zero) (demoRegs [(5, 0x9002)])) = some (2, 9) ∧
    after (fun x => (x.sems.get 1).count) (exec (.semp ⟨0, false⟩ 1 (.g 5))
      (demoWith fun x => { x.setReg 5 3 with sems := x.sems.set 1 { ceil := 9, count := 2 } })) = some 5 := by decide
/-- R293: QSW takes 16 bits. -/
theorem test_qsw : after (fun x => x.qs.get 3) (exec (.qsw ⟨0, false⟩ 3 (.g 5)) (demoRegs [(5, 0x3F80)])) = some 0x3F80 := by decide
/-- R330: SEV sets the event flag of the contexts of the job on the tile. -/
theorem test_sev : after (·.event) (exec (.sev ⟨0, false⟩ .zero) (demoWith id)) = some true := by decide
/-- The device number of the first tile of the second cluster, and the die of the last tile (R14). -/
theorem test_places : clOf 8 = 1 ∧ dieNo 383 = 7 := by decide

/-! ## Numbers -/

/-- The BF16 row of the example under R90: 1, seven products 2^-13 * 2^-12, and zeros. -/
def nbvRow : List (Val × Val) :=
  (elemVal 2 0x3F80, elemVal 2 0x3F80) :: List.replicate 7 (elemVal 2 0x3900, elemVal 2 0x3980) ++ List.replicate 56 (elemVal 2 0, elemVal 2 0)
/-- Its two results (R87, R89, R90). -/
theorem test_nbv_example : kstep0 false 0 nbvRow (fun _ => .num (.ofInt 1)) = 0x3F800002 := by decide +kernel
theorem test_nbv1_example : kstep1 false 0 nbvRow (.num (.ofInt 1)) = 0x3F800001 := by decide +kernel

/-! ## Witnesses: for each statement of Obligations.lean a state and operands that meet its hypotheses -/

set_option exponentiation.threshold 400

/-- The dealer of the demonstration is ready. -/
theorem ready (f : Ctx → Ctx) (h : (f demoCtx).runnable = true) : Ready (demoWith f) (f demoCtx) := ⟨rfl, h, rfl, rfl⟩

/-- What most statements ask of a state and of two operands. -/
def Meets (u v : Word) : Prop :=
  ∃ (s : State) (x : Ctx) (a c : Src), Ready s x ∧ x.pred 0 = true ∧ Reads s x a u ∧ Reads s x c v

/-- Two registers of any values meet it. -/
theorem meets (u v : Word) : Meets u v :=
  ⟨demoWith fun x => (x.setReg 5 u).setReg 6 v, _, .g 5, .g 6, ready (fun x => (x.setReg 5 u).setReg 6 v) rfl,
    rfl, rfl, rfl⟩

theorem witness_DecodeEncode : ∃ i w ws, Instr.WF i ∧ encode i = w :: ws :=
  ⟨.lih ⟨7, true⟩ 47 0xFFFFFFFF, _, _, by decide, rfl⟩
theorem witness_DecoderKeepsToTheTable : ∃ i, decode 0xF8028000 0xFFFFFFFF true = .ok i := ⟨_, rfl⟩

/-- The context of the demonstration with its chunk granted and ADD g4, g5, g6 at its pc. -/
def codeState : State :=
  { demoWith id with
    agenda := [.dealer 0]
    clusters := (demoWith id).clusters.set 0 { (demoWith id).clusters.get 0 with
      grants := ((demoWith id).clusters.get 0).grants.set 0 (some { job := 7, write := true, checked := false }) }
    mem := [(clPoolAt 0 0, 0x30), (clPoolAt 0 1, 0x0A), (clPoolAt 0 2, 0x02), (clPoolAt 0 3, 0x04)] }
theorem witness_StepRunsDecoded :
    (∃ i s1, codeState.ctx? 0 (codeState.tile 0).cur = some demoCtx ∧ demoCtx.runnable = true ∧ codeState.tripped = false ∧
      fetchInstr 0 (codeState.tile 0).cur demoCtx { codeState with agenda := [], cur := 0 } = .ok (i, s1)) ∧
    (demoCtx.pc = BitVec.ofNat 64 (0x9000000000000000 + 0) ∧ grantFault codeState demoCtx.job (clPoolAt (0 / 8) 0) false = none ∧
      badBytes codeState (clPoolAt (0 / 8) 0) 4 = 0 ∧ codeState.hist = [] ∧ readNat codeState (clPoolAt (0 / 8) 0) 4 = 0x04020A30 ∧
      isLong 0x04020A30 = false ∧ decode 0x04020A30 0 true = .ok (.add ⟨0, false⟩ (some 4) (.g 5) (.g 6))) :=
  ⟨⟨.add ⟨0, false⟩ (some 4) (.g 5) (.g 6), _, rfl, rfl, rfl, rfl⟩, rfl, by decide, by decide, rfl, by decide, rfl, rfl⟩
/-- A step fetches, decodes and executes that word. -/
theorem test_step : regOf 4 (step codeState) = some 11 := by decide

theorem witness_IntegerResults : Meets 5 6 ∧ Meets 0 0xFFFFFFFFFFFFFFFF := ⟨meets _ _, meets _ _⟩
theorem witness_IntegerResults_counts :
    (∃ n, n < 64 ∧ (1#64).getLsbD n = true ∧ ∀ m, n < m → (1#64).getLsbD m = false) ∧
    (∃ n, n < 64 ∧ (0x8000000000000000#64).getLsbD n = true ∧ ∀ m, m < n → (0x8000000000000000#64).getLsbD m = false) :=
  ⟨⟨0, by decide, by decide, fun m h => by rw [BitVec.getLsbD_one]; simp; omega⟩, 63, by decide, by decide, by decide⟩
/-- The rows of R111 at their corners: a zero divisor, the overflow row, and next to it. -/
theorem witness_DivisionResults : Meets 7 0 ∧ Meets 0x8000000000000000 (-1) ∧ Meets 0x8000000000000001 (-1) ∧ Meets 7 1 :=
  ⟨meets _ _, meets _ _, meets _ _, meets _ _⟩
/-- A field at bit 63, one of width 0, and one cut short by the end of the register. -/
theorem witness_BitFieldResults : Meets 1 0x13F ∧ Meets 1 0x20 ∧ Meets 1 0x7F3C := ⟨meets _ _, meets _ _, meets _ _⟩
theorem witness_ImmediateResults : Meets 5 0 := meets _ _
theorem witness_CompareWrites : Meets 5 5 ∧ Meets 5 6 := ⟨meets _ _, meets _ _⟩
theorem witness_PredicateLogic : Meets 0xFF 0xFF := meets _ _
theorem witness_FalseGuard : ∃ (s : State) (x : Ctx), Ready s x ∧ x.pred 1 = false := ⟨demoWith id, _, ready id rfl, rfl⟩

/-- A context whose level 0 ends at its pc with its last count, and one with counts left. -/
def looping (n : Word) (x : Ctx) : Ctx := { x with loops := x.loops.set 0 ⟨n, x.pc, x.pc, true⟩ }
/-- Such a context where nothing is pending. -/
def AtLast (n : Word) : Prop :=
  ∃ (s : State) (y : Ctx), s.ctx? s.cur s.mySlot = some y ∧ y.quiet = true ∧ y.stepping = false ∧ (y.loops.get 0).act = true ∧
    (y.loops.get 0).le = y.pc ∧ (y.loops.get 1).act = false ∧ (y.loops.get 0).lc = n
theorem witness_Completing :
    (∃ (s : State) (x y : Ctx), s.ctx? s.cur s.mySlot = some y ∧ y.quiet = true ∧ x.stepping = false ∧
      ∀ L : Fin 2, ¬((y.loops.get L).act = true ∧ (y.loops.get L).le = y.pc)) ∧ AtLast 1 ∧ AtLast 2 :=
  ⟨⟨demoWith id, demoCtx, demoCtx, rfl, rfl, rfl, by decide⟩,
    ⟨demoWith (looping 1), looping 1 demoCtx, rfl, rfl, rfl, rfl, rfl, rfl, rfl⟩,
    ⟨demoWith (looping 2), looping 2 demoCtx, rfl, rfl, rfl, rfl, rfl, rfl, rfl⟩⟩
theorem witness_Transferring :
    (∃ (s : State) (y : Ctx), s.ctx? s.cur s.mySlot = some y ∧ y.quiet = true ∧ y.stepping = false ∧
      (y.loops.get 0).act = true ∧ ¬((y.loops.get 0).ls.toNat ≤ 0 ∧ 0 ≤ (y.loops.get 0).le.toNat)) ∧
    (∃ (s : State) (y : Ctx), s.ctx? s.cur s.mySlot = some y ∧ y.quiet = true ∧ (y.loops.get 0).act = false ∧ (y.loops.get 1).act = false) :=
  ⟨⟨demoWith (looping 1), looping 1 demoCtx, rfl, rfl, rfl, rfl, by decide⟩, demoWith id, demoCtx, rfl, rfl, rfl, rfl⟩
theorem witness_Branches : Meets 4 0 ∧ ∃ (s : State) (x : Ctx), Ready s x ∧ x.pred 0 = true ∧ (x.regs.get 47).toNat % 4 = 0 :=
  ⟨meets _ _, demoWith id, _, ready id rfl, rfl, by decide⟩
theorem witness_MisalignedJumps : Meets 1 0 ∧ ∃ (s : State) (x : Ctx), Ready s x ∧ x.pred 0 = true ∧ Reads s x (.g 47) 3 ∧ x.regs.get 47 = 3 :=
  ⟨meets _ _, demoWith (·.setReg 47 3), _, ready (·.setReg 47 3) rfl, rfl, rfl, rfl⟩
/-- No level active with count 0 and 1; level 0 active around the body and not around it; both active. -/
theorem witness_LoopStarts : Meets 0 0 ∧ Meets 1 0 ∧
    (∃ (s : State) (x : Ctx), Ready s x ∧ (x.loops.get 0).act = true ∧ (x.loops.get 1).act = false ∧ (x.loops.get 0).ls.toNat ≤ x.pc.toNat ∧
      (x.pc + 4).toNat < (x.loops.get 0).le.toNat) ∧
    (∃ (s : State) (x : Ctx), Ready s x ∧ (x.loops.get 0).act = true ∧ ¬(x.pc + 4).toNat < (x.loops.get 0).le.toNat) ∧
    (∃ (s : State) (x : Ctx), Ready s x ∧ (x.loops.get 1).act = true) :=
  ⟨meets _ _, meets _ _,
    ⟨demoWith fun x => { x with loops := x.loops.set 0 ⟨2, x.pc, x.pc + 8, true⟩ }, _, ready _ rfl, rfl, rfl, by decide, by decide⟩,
    ⟨demoWith (looping 1), _, ready (looping 1) rfl, rfl, by decide⟩,
    ⟨demoWith fun x => { x with loops := x.loops.set 1 ⟨2, x.pc, x.pc + 8, true⟩ }, _, ready _ rfl, rfl⟩⟩

theorem witness_TrapsAndReturns : ∃ (s : State) (x : Ctx), Ready s x ∧ x.pred 0 = true ∧ x.active = false := ⟨demoWith id, _, ready id rfl, rfl, rfl⟩
theorem witness_TrapsAndReturns_active : ∃ (s : State) (x : Ctx), Ready s x ∧ x.pred 0 = true ∧ x.active = true :=
  ⟨demoWith fun x => { x with dbgctl := 4 }, _, ready _ rfl, rfl, rfl⟩
/-- A context whose traps go to the leaf, one whose traps go to its handler, and one in its handler. -/
theorem witness_TrapEntry : ∀ p ∈ [((0 : Word), (0 : BitVec 32)), (0x40, 0), (0x40, 4)], ∃ (s : State) (x : Ctx), s.ctx? 0 0 = some x ∧ x.latches.length < 16 ∧
    x.tvec = p.1 ∧ x.dbgctl = p.2 := fun p _ =>
  ⟨demoWith fun x => { x with tvec := p.1, dbgctl := p.2 }, _, rfl, show 0 < 16 by decide, rfl, rfl⟩
theorem witness_EretRestoresTheGroup : ∃ (s : State) (x z : Ctx), s.ctx? 0 0 = some x ∧ x.latches.length ≤ 8 ∧ x.pc.toNat % 4 = 0 ∧
    toLeaf x .d .illegalOp = false ∧ (enterTrap 0 0 .d .illegalOp x.pc 0 [] s).ctx? 0 0 = some z ∧ x.latches = [some 3, none] :=
  ⟨demoWith fun x => { x with tvec := 0x40, latches := [some 3, none] }, _, _, rfl, by decide, by decide, rfl, rfl, rfl⟩
theorem witness_StaleLatches : ∃ (s : State) (x : Ctx), Ready s x ∧ x.pred 0 = true ∧ Reads s x (.g 5) 5 ∧ (x.latches[0]?).join = none ∧
    x.latches = [none] :=
  ⟨demoWith fun x => { x with latches := [none] }, _, ready _ rfl, rfl, rfl, rfl, rfl⟩
theorem witness_ModuloRegisters : Meets 5 6 := meets _ _
theorem witness_CsrReads : (∃ (s : State) (x : Ctx), Ready s x ∧ x.pred 0 = true) ∧ csrClass 0x004 ≠ .unknown ∧ csrClass 0xFFF = .unknown :=
  ⟨⟨demoWith id, _, ready id rfl, rfl⟩, by decide, by decide⟩
theorem witness_CsrWrites : Meets 5 0 ∧ (csrClass 0x010 = .rw ∧ boundsActive demoCtx 0x010 = false) ∧ csrClass 0xFFF = .unknown ∧
    csrClass 0x000 = .readonly ∧ (∃ n : Fin 4096, csrClass n = .priv) ∧
    (csrClass 0x019 = .rw ∧ boundsActive (looping 1 demoCtx) 0x019 = true) :=
  ⟨meets _ _, by decide, by decide, by decide, ⟨0x050, by decide⟩, by decide⟩
/-- An address of another space, one of device memory with a page, and one without. -/
theorem witness_FencesAndProbe : Meets 0x8000000000000000 0 ∧ spaceOf 0x8000000000000000 ≠ 0 ∧
    ∃ r s1 s2, Runs (xlate 0 true 7 (offOf 0)) (demoWith id) r s1 ∧
      (let w := match r with
        | .error e => BitVec.ofNat 64 (256 * e.1.code)
        | .ok e => probeWord s1 demoCtx.job e (offOf 0)
       Pays (demoWith id) demoCtx (s1.upMe (·.setDst (some 4) w)) s2) :=
  ⟨meets _ _, by decide, _, _, _, rfl, rfl⟩

/-- The demonstration with g6 at an address of the own scratchpad. -/
def padCtx (o : Nat) (x : Ctx) : Ctx := x.setReg 6 (BitVec.ofNat 64 (0x8000000000000000 + o))
theorem witness_LoadsComplete : ∃ (s s1 s2 : State) (x : Ctx) (bs : List Byte), Ready s x ∧ x.pred 0 = true ∧
    Reads s x (.g 6) 0x8000000000000008 ∧ spaceOk (memAddr 0x8000000000000008 none 0 8) = true ∧
    (memAddr 0x8000000000000008 none 0 8).toNat % 8 = 0 ∧
    Runs (loadAny s.cur s.mySlot x (memAddr 0x8000000000000008 none 0 8) 8 0) s bs s1 ∧
    Pays s x (s1.upMe fun y => (memStep y (.g 6) none 0 8).setDst (some 4) 0) s2 :=
  ⟨demoWith (padCtx 8), _, _, padCtx 8 demoCtx, _, ready (padCtx 8) rfl, rfl, rfl, by decide, by decide, rfl, rfl⟩
theorem witness_StoresComplete : ∃ (s s1 s2 : State) (x : Ctx), Ready s x ∧ x.pred 0 = true ∧
    Reads s x (.g 6) 0x8000000000000008 ∧ Reads s x (.g 5) 5 ∧ spaceOk (memAddr 0x8000000000000008 (some 2) 1 8) = true ∧
    (memAddr 0x8000000000000008 (some 2) 1 8).toNat % 8 = 0 ∧
    Runs (storeAny s.cur s.mySlot x (memAddr 0x8000000000000008 (some 2) 1 8) (natLe 8 5) 0) s () s1 ∧
    Pays s x (s1.upMe fun y => memStep y (.g 6) (some 2) 1 8) s2 :=
  ⟨demoWith (padCtx 8), _, _, padCtx 8 demoCtx, ready (padCtx 8) rfl, rfl, rfl, rfl, by decide, by decide, rfl, rfl⟩
/-- The first bytes of the scratchpad, and the last 8 that the partition holds. -/
theorem witness_ScratchpadAccesses : ∀ o ∈ [0, padBytes demoCtx.partw - 8],
    o % 8 = 0 ∧ o < 16777216 ∧ o + 8 ≤ padBytes demoCtx.partw ∧ hitsDeck ((demoWith id).tile 0) o 8 = false ∧
    badBytes (demoWith id) (spAt 0 o) 8 = 0 ∧ pubsOver (demoWith id) (spAt 0 o) 8 = [] ∧ demoCtx.fences = [] := by decide
theorem witness_ScratchpadAccesses_ready : Meets 0x8000000000000000 5 ∧ (demoWith id).MemOk := ⟨meets _ _, rfl⟩
/-- No space; a misaligned address; the first byte past the scratchpad. -/
theorem witness_AccessFaults : Meets 0xF000000000000000 0 ∧ spaceOk 0xF000000000000000 = false ∧
    Meets 0x8000000000000001 0 ∧ spaceOk 0x8000000000000001 = true ∧ (0x8000000000000001#64).toNat % 2 ≠ 0 ∧
    Meets (BitVec.ofNat 64 (0x8000000000000000 + padBytes demoCtx.partw)) 0 ∧
    spaceOf (BitVec.ofNat 64 (0x8000000000000000 + padBytes demoCtx.partw)) = 8 ∧
    padBytes demoCtx.partw < offOf (BitVec.ofNat 64 (0x8000000000000000 + padBytes demoCtx.partw)) + 1 :=
  ⟨meets _ _, by decide, meets _ _, by decide, by decide, meets _ _, by decide, by decide⟩
theorem amoPlace_aligned (t : TileNo) (x : Ctx) (a : Word) (sc : Scope) (n : Nat) (h1 : spaceOk a = true)
    (h2 : (spaceOf a != 0xC || sc == .dom) = true) (h3 : (a.toNat % n == 0) = true) : amoPlace t x a sc n = resolve t x a n true := by
  unfold amoPlace
  rw [h1, h2, h3]
  rfl
theorem resolve_pad (t : TileNo) (x : Ctx) (a : Word) (n : Nat) (s : State) (h : spaceOf a = 8)
    (h1 : decide (offOf a + n ≤ padBytes x.partw) = true) (h2 : hitsDeck (s.tile t) (offOf a) n = false) :
    Runs (resolve t x a n true) s (.pad t (offOf a)) s := by
  unfold resolve
  rw [h]
  show (do
    check (decide (offOf a + n ≤ padBytes x.partw)) .outOfPool a
    check (!hitsDeck (← see (·.tile t)) (offOf a) n) .outOfPool a
    return .pad t (offOf a) : M Place) s = _
  rw [h1]
  show (check (!hitsDeck (s.tile t) (offOf a) n) .outOfPool a >>= fun _ => pure (Place.pad t (offOf a)) : M Place) s = _
  rw [h2]
  rfl
/-- The first doubleword of the scratchpad. -/
theorem pad_place : Runs (amoPlace 0 demoCtx 0x8000000000000000 .dom 8) (demoWith id) (.pad 0 (offOf 0x8000000000000000)) (demoWith id) := by
  rw [amoPlace_aligned _ _ _ _ _ (by decide) (by decide) (by decide +kernel)]
  exact resolve_pad _ _ _ _ _ (by decide) (by decide) (by decide)
set_option maxRecDepth 10000 in
/-- Each operation, with release and acquire, at the first doubleword of the scratchpad. -/
theorem witness_Atomics_any : ∀ op ∈ List.range 8, ∃ p old ps s1 s2 s3 s4,
    Runs (amoPlace 0 demoCtx 0x8000000000000000 .dom 8) (demoWith id) p s1 ∧
    Runs (amoAccess 0 0 demoCtx 0x8000000000000000 p op 8 .dom .ar 5 6) s1 (old, ps) s2 ∧ Runs (amoAcquire 0 .dom .ar ps) s2 () s3 ∧
    Pays (demoWith id) demoCtx (s3.upMe (·.setReg 5 (BitVec.ofNat 64 old))) s4 := by
  intro op h
  have : op < 8 := by simpa using h
  interval_cases op <;> exact ⟨_, _, _, _, _, _, _, pad_place, rfl, rfl, rfl⟩
theorem witness_Atomics : Meets 0x8000000000000000 0 ∧ demoCtx.quiet = true ∧ 0 + 8 ≤ padBytes demoCtx.partw ∧ (demoWith id).MemOk ∧
    badBytes (demoWith id) (spAt 0 0) 8 = 0 ∧ hitsDeck ((demoWith id).tile 0) 0 8 = false :=
  ⟨meets _ _, rfl, by decide, rfl, by decide, by decide⟩
/-- A context that waits in an instruction. -/
def waiting (k : WaitKind) (x : Ctx) : Ctx := { x with wait := some { kind := k, h := ⟨0, false⟩, len := 1, dst := none, since := 0 } }
theorem witness_Waking : ∃ (s : State) (y : Ctx), s.ctx? 0 0 = some y ∧ (s.tile 0).cur = 0 ∧ y.quiet = true ∧
    ∀ L : Fin 2, ¬((y.loops.get L).act = true ∧ (y.loops.get L).le = y.pc) :=
  ⟨demoWith (waiting .drain), waiting .drain demoCtx, rfl, rfl, rfl, by decide⟩

/-- A context that holds the first two accumulator tiles. -/
def holding (x : Ctx) : Ctx := { x with heldTiles := 3 }
/-- One unit at the last place of the partition, which nobody holds; a run that is held and not named. -/
theorem witness_PoolInstructions :
    (Meets 0x402BF 0 ∧ (runOf 0x402BF).rest = 0 ∧ (runOf 0x402BF).count = 1 ∧
      (runOf 0x402BF).first + (runOf 0x402BF).count ≤ accUnits demoCtx.partw ∨ accUnits demoCtx.partw < 192) ∧
    (∀ y ∈ residents ((demoWith id).tile 0), runTouched y (runOf 0x40200) = false) ∧
    (Ready (demoWith holding) (holding demoCtx) ∧ runHeld (holding demoCtx) (runOf 0x40400) = true ∧
      runNamed (holding demoCtx) (runOf 0x40400) = false ∧ (runOf 0x40400).acc = true) :=
  ⟨.inr (by decide), by decide, ready holding rfl, by decide, by decide, by decide⟩
theorem witness_PoolInstructions_last : Meets (BitVec.ofNat 64 (0x40200 + (accUnits demoCtx.partw - 1))) 0 ∧
    (let r := runOf (BitVec.ofNat 64 (0x40200 + (accUnits demoCtx.partw - 1)))
     r.rest = 0 ∧ r.count = 1 ∧ r.acc = true ∧ r.first + r.count = accUnits demoCtx.partw) := ⟨meets _ _, by decide⟩
/-- A reserved bit; count 0; hand slots; the first unit past the partition; a unit held; a unit not held. -/
theorem witness_PoolFaults : Meets 0x80000 0 ∧ (runOf 0x80000).rest ≠ 0 ∧ Meets 0 0 ∧ (runOf 0).count = 0 ∧
    ((runOf 0x200).rest = 0 ∧ (runOf 0x200).count = 1 ∧ (runOf 0x200).acc = false) ∧ (runOf 0x40400).count ≠ 1 ∧
    (let r := runOf (BitVec.ofNat 64 (0x40200 + accUnits demoCtx.partw))
     r.rest = 0 ∧ r.count = 1 ∧ accUnits demoCtx.partw < r.first + r.count) ∧
    (Ready (demoWith holding) (holding demoCtx) ∧ ∃ y ∈ residents ((demoWith holding).tile 0), runTouched y (runOf 0x40201) = true) ∧
    runHeld (holding demoCtx) (runOf 0x40201) = true ∧ runHeld demoCtx (runOf 0x40201) = false :=
  ⟨meets _ _, by decide, meets _ _, by decide, by decide, by decide, by decide,
    ⟨ready holding rfl, holding demoCtx, .head _, by decide⟩, by decide, by decide⟩
/-- The header of a block without tokens. -/
def demoHdr : BHdr := { kind := .nop, psel := 0, csel := 0, patchok := false, w0 := none, w1 := none, p0 := none, p1 := none }
/-- A queued block with a body, number 0 of its chain, which has started or not. -/
def block (b : Body) (on : Bool) : Entry :=
  { seq := 0, slots := 0, tiles := 1, linkId := 0, pins := [], linked := ⟨demoHdr, b⟩, cur := ⟨demoHdr, b⟩, cap := {}, sp := []
    run := { started := on } }
/-- A context with that block on a chain, which runs. -/
def chained (ch : ChainNo) (b : Body) (on : Bool) (x : Ctx) : Ctx :=
  { holding x with chains := x.chains.set ch { state := .running, seq := 1, queue := [block b on] } }
/-- A run that an unretired block names. -/
def naming : Ctx → Ctx := chained 2 .nop false
theorem witness_PoolFaults_named : Ready (demoWith naming) (naming demoCtx) ∧ runHeld (naming demoCtx) (runOf 0x40200) = true ∧
    runNamed (naming demoCtx) (runOf 0x40200) = true := ⟨ready naming rfl, by decide, by decide⟩
theorem witness_ClearedUnits : ((runOf 0x404BE).acc = true ∧ (runOf 0x404BE).first + (runOf 0x404BE).count = 192) ∧
    ((runOf 0x57F).acc = false ∧ (runOf 0x57F).first + (runOf 0x57F).count ≤ 385) ∧
    ((runOf 0x37F).acc = false ∧ (runOf 0x37F).first + (runOf 0x37F).count = 384) ∧ (demoWith id).MemOk :=
  ⟨by decide, by decide, by decide, rfl⟩

/-- A tensor image of rank 1 with 256 elements of FP32 at the start of the scratchpad, itself at offset 64. -/
def titState : State :=
  { demoWith (padCtx 64) with mem := [(spAt 0 64, 0x10), (spAt 0 79, 0x80), (spAt 0 97, 1), (spAt 0 152, 1)] }
theorem witness_TensorTable : Ready titState (padCtx 64 demoCtx) ∧ (padCtx 64 demoCtx).pred 0 = true ∧
    (padCtx 64 demoCtx).titLocked 0 = false ∧
    ∃ img s1 s2, Reads titState (padCtx 64 demoCtx) (.g 6) 0x8000000000000040 ∧
      Runs (loadDws 0 0 (padCtx 64 demoCtx) 0x8000000000000040 32) titState img s1 ∧
      (let e : Tit := Vector.ofFn fun k => if k = 0 then withValid (img[0]?.getD 0) true else img[k.val]?.getD 0
       titOk e = true ∧ Pays titState (padCtx 64 demoCtx) (s1.upMe (·.titSet 0 e)) s2) :=
  ⟨⟨rfl, rfl, rfl, rfl⟩, rfl, by decide, _, _, _, rfl, rfl, by decide, rfl⟩
/-- An entry whose doubleword 24, the last that TMOD may change to another value, is set; the first selector beyond the entry. -/
def entry1 : Tit := Vector.ofFn fun k => if k = 0 then 0x110 else if k = 1 then 0x8000000000000000 else if k = 4 then 256 else if k = 11 then 1 else 0
theorem witness_TensorTable_tmod : Meets 31 0 ∧ Meets 0 0x10 ∧ Meets 32 0 ∧ titValid entry1 = true ∧ titOk (entry1.set 31 0) = true ∧
    titOk (entry1.set 0 (withValid 0x10 true)) = true := ⟨meets _ _, meets _ _, meets _ _, by decide, by decide, by decide⟩
theorem witness_TensorTable_locked : ∃ x : Ctx, x.titLocked 3 = true ∧ x.runnable = true :=
  ⟨{ demoCtx with chains := demoCtx.chains.set 0 { queue := [{ block .nop false with cap := { set := [3] } }] } }, by decide, rfl⟩

/-- Init words at the bounds of R216 and R232; region words of each kind; a post that just fits. -/
theorem witness_Semaphores : Meets 0xFFFFFF 0 ∧ initOk 0xFFFFFF 0 = true ∧ 0xFFFFFF % 4096 ≤ 0xFFFFFF / 4096 % 4096 ∧
    Meets 0x1001000 4294967295 ∧ initOk 0x1001000 4294967295 = true ∧ demoCtx.semIdle 0 = true ∧
    (regionOk 0 = true ∧ 0 % 8 = 0) ∧ (regionOk 4 = true ∧ 4 % 8 = 4) ∧
    (∀ v ∈ [1 + 1099511627776 * 64, 2 + 65536 * 191 + 1099511627776, 3 + 65536 * 95 + 1099511627776],
      regionOk v = true ∧ 1 ≤ v % 8 ∧ v % 8 ≤ 3 ∧ regionIn demoCtx.partw ⟨v % 8, v / 65536 % 16777216, v / 1099511627776⟩ = true ∧
        demoCtx.overlaps 0 ⟨v % 8, v / 65536 % 16777216, v / 1099511627776⟩ = false) ∧
    ((demoCtx.sems.get 0).phaseMode = false ∧ (demoCtx.sems.get 0).count + 0 ≤ (demoCtx.sems.get 0).ceil) :=
  ⟨meets _ _, by decide, by decide, meets _ _, by decide, by decide, by decide, by decide, by decide, by decide⟩
/-- A semaphore of count 1 and ceiling 2 with a promise of 2, and one that is not idle. -/
def withSem (m : Sem) (x : Ctx) : Ctx := { x with sems := x.sems.set 0 m }
theorem witness_SemaphoreWaits : Meets 2 3 ∧ Meets 2 1 ∧ Meets 3 0 ∧
    (∃ (s : State) (x : Ctx), Ready s x ∧ (x.sems.get 0).ceil = 2 ∧ (x.sems.get 0).n = 2 ∧ x.pred 0 = true) ∧
    (∃ (s : State) (x : Ctx), Ready s x ∧ 2 ≤ (x.sems.get 0).ceil ∧ (x.sems.get 0).n < 2) ∧
    (∃ (s : State) (x : Ctx), Ready s x ∧ x.semIdle 0 = false ∧ initOk 0x9002 0 = true) :=
  ⟨meets _ _, meets _ _, meets _ _, ⟨demoWith (withSem { count := 1, ceil := 2, n := 2 }), _, ready _ rfl, rfl, rfl, rfl⟩,
    ⟨demoWith (withSem { ceil := 2, n := 1 }), _, ready _ rfl, by decide, by decide⟩,
    ⟨demoWith (withSem { ceil := 2, n := 1, order := [.dealer] }), _, ready _ rfl, by decide, by decide⟩⟩

/-- A waiting context for each of the waits. -/
theorem witness_WaitsEnd : ∀ k ∈ [WaitKind.release 0x40400, .semIdle 2 0 0 0, .semw 0 1 1, .drain, .cancel 7, .wfe, .qunbind 0, .tinv [],
    .rdv 0], ∃ (s : State) (x : Ctx) (w : Wait), s.ctx? 0 0 = some x ∧ x.wait = some w ∧ (s.tile 0).cur = 0 ∧ w.kind = k := fun k _ =>
  ⟨demoWith (waiting k), waiting k demoCtx, _, rfl, rfl, rfl, rfl⟩
theorem witness_WaitsEnd_conditions : runNamed demoCtx (runOf 0x40400) = false ∧ demoCtx.semIdle 0 = true ∧
    (∃ x : Ctx, (x.sems.get 0).order.head? = some .dealer ∧ 1 ≤ (x.sems.get 0).count + (x.sems.get 0).loss) ∧
    drained (demoWith id) demoCtx = true ∧ (demoWith id).input.nums = [] ∧
    (∃ x : Ctx, x.event = true ∧ x.run = .run) ∧ (∃ b, bindWord 0 0 = some b ∧ namesEp demoCtx b = false) :=
  ⟨by decide, by decide, ⟨withSem { count := 1, ceil := 2, order := [.dealer] } demoCtx, by decide, by decide⟩, by decide, rfl,
    ⟨{ demoCtx with event := true }, rfl, rfl⟩, _, rfl, by decide⟩
theorem witness_WaitsEnd_cancel : ((List.finRange 48).foldl (fun s k => setCancel 7 k s) (demoWith id)).cancelledAll 7 = true := by
  decide +kernel
/-- A rendezvous MARK that holds its chain, and what its release does. -/
def heldMark : Entry := { block .rendezvous true with run := { started := true, ended := true } }
def marked (x : Ctx) : Ctx :=
  waiting (.rdv 4) { x with chains := x.chains.set 2 { state := .running, seq := 1, queue := [heldMark] } }
theorem witness_WaitsEnd_rdv : ∃ (s1 : State) (y : Ctx), [((2 : ChainNo), heldMark)].map Prod.fst = maskChains 4 ∧
    holdingMark (marked demoCtx) 2 = some heldMark ∧
    Runs ([((2 : ChainNo), heldMark)].forM fun p => blockStep 0 0 p.1 p.2 7 (retireBlock 0 0 p.1 p.2 0 0)) (demoWith marked) () s1 ∧
    (s1.tile 0).cur = 0 ∧ s1.ctx? 0 0 = some y ∧ (y.entry? 2 0).isNone = true :=
  ⟨_, _, rfl, rfl, rfl, rfl, rfl, rfl⟩

theorem witness_ChainControl : (∃ (s : State) (x : Ctx), Ready s x ∧ x.pred 0 = true ∧
      (∀ j : Fin 4, (x.chains.get j).queue = [] ∧ (x.chains.get j).state ≠ .faulted) ∧ s.msgs = [] ∧ (∀ j : Fin 4, (x.covs.get j).early = [])) ∧
    (∃ (s : State) (x : Ctx), Ready s x ∧ (∀ j : Fin 4, (4#4).getLsbD j = true → ∃ e ∈ (x.chains.get j).queue, e.isRdv = true)) ∧
    (∃ (s : State) (x : Ctx), Ready s x ∧ ∃ j : Fin 4, (4#4).getLsbD j = true ∧ ∀ e ∈ (x.chains.get j).queue, e.isRdv = false) :=
  ⟨⟨demoWith id, demoCtx, ready id rfl, rfl, by decide, rfl, by decide⟩,
    ⟨demoWith (chained 2 .rendezvous true), _, ready _ rfl, by decide⟩, demoWith id, demoCtx, ready id rfl, 2, by decide, by decide⟩
/-- A chain that is stopped, one that runs, and one whose fault is or is not reported. -/
theorem witness_ChainControl_kick : ∀ b : Bool, ∃ (k : Chain) (f : ChainFault), k.state = .faulted ∧ k.fault = some f ∧ f.reported = b :=
  fun b => ⟨{ state := .faulted, fault := some { cause := .machineCheck, seq := 0, point := .start, idx := [], addr := 0, reported := b, toLeaf := false } }, _, rfl, rfl, rfl⟩

/-- The demonstration in a job whose first GiB of addresses is mapped to HBM4 by one root entry at 0x1000, with a deck of 16 records and
other bytes of memory; g6 holds an address. -/
def jobState (va : Word) (extra : List Host.Cell) (low : List Host.Cell := []) : State :=
  let s := demoWith fun x => { x.setReg 6 va with record := 0x80 }
  { s with
    jobs := [{ id := 7, ptbase := 0x1000, tenant := 0, queue := 0, live := [1] }]
    tiles := s.tiles.set 0 { s.tile 0 with dkb := (s.tile 0).dkb.set 0 0x100, dkl := (s.tile 0).dkl.set 0 0x180 }
    mem := low ++ (0x1000, 0x1F) :: extra }
def jobCtx (va : Word) : Ctx := { demoCtx.setReg 6 va with record := 0x80 }
theorem jobReady (va : Word) (extra low : List Host.Cell) : Ready (jobState va extra low) (jobCtx va) := ⟨rfl, rfl, rfl, rfl⟩

/-- SPAWN of a FREE record at 0x2000 with JOIN 0, and with JOIN 1. -/
theorem witness_SpawnsAndFutures_spawn : ∃ s1 r0 r2 q2 q3 s3, Runs (operandPlace 0 (jobCtx 0x2000) 0x2000 64 true) (jobState 0x2000 []) 0x2000 s1 ∧
    Runs (eccTouch 0 0 (jobCtx 0x2000) 0x2000 (0x2000 + 16) 8) s1 () r0 ∧
    (let r := (releaseAt 0 .dev r0).1
     let p := (releaseAt 0 .dev r0).2
     recState r 0x2000 = 0 ∧ r.cancelled 0 7 = false ∧ Runs (ownParent 0 0 (jobCtx 0x2000)) r () r2 ∧
     (let parent := ((runningRec r2 (jobCtx 0x2000)).map (recParent r2)).getD 0
      let q := gridUp 0 7 parent (setRecDw 0x2000 4 parent (setRecDw 0x2000 3 (7 % 4294967296 + 4294967296 * 0xFFFFFFFF) r2))
      Runs (carry 0x2000 p) q () q2 ∧ recDw r 0x2000 2 % 4294967296 = 0 ∧
        ownerPush 0 7 (r.timed 7) (recPrio (setRecDw 0x2000 2 (spawnFlags (recDw r 0x2000 2) (r.timed 7) 2) q2) 0x2000) 0x2000
          (setRecDw 0x2000 2 (spawnFlags (recDw r 0x2000 2) (r.timed 7) 2) q2) = some q3 ∧
        Pays (jobState 0x2000 []) (jobCtx 0x2000) (ownWrites 0 (jobCtx 0x2000) (jobState 0x2000 []) q3) s3)) :=
  ⟨_, _, _, _, _, _, rfl, rfl, by decide, by decide, rfl, rfl, by decide, rfl, rfl⟩
theorem witness_SpawnsAndFutures_join : ∃ s1 r0, Runs (operandPlace 0 (jobCtx 0x2000) 0x2000 64 true) (jobState 0x2000 [(0x2010, 1)]) 0x2000 s1 ∧
    Runs (eccTouch 0 0 (jobCtx 0x2000) 0x2000 (0x2000 + 16) 8) s1 () r0 ∧
    recState (releaseAt 0 .dev r0).1 0x2000 = 0 ∧ recDw (releaseAt 0 .dev r0).1 0x2000 2 % 4294967296 ≠ 0 := ⟨_, _, rfl, rfl, by decide, by decide⟩
theorem witness_SpawnsAndFutures_resolve : ∃ s1 r0 r1 s2 s3, Runs (operandPlace 0 (jobCtx 0x2000) 0x2000 64 true) (jobState 0x2000 []) 0x2000 s1 ∧
    Runs (eccTouch 0 0 (jobCtx 0x2000) 0x2000 0x2000 8) s1 () r0 ∧ resolveFault r0 0x2000 = none ∧
    Runs (eccTouch 0 0 (jobCtx 0x2000) 0x2000 (0x2000 + 16) (8 * (readNat r0 0x2000 8 / 4 % 8))) r0 () r1 ∧
    Runs (resolveFuture 0 7 1 (fun r => trapDrop .race 0x2000 0 [r]) 0x2000 0x2000 5) r1 () s2 ∧
    Pays (jobState 0x2000 []) (jobCtx 0x2000) (ownWrites 0 (jobCtx 0x2000) (jobState 0x2000 []) s2) s3 :=
  ⟨_, _, _, _, _, rfl, rfl, by decide, rfl, rfl, rfl⟩
/-- AWAIT of the future at 0x2000 by the running record at 0x80. -/
theorem witness_SpawnsAndFutures_await : ∃ s1 r0 s2 r1 s4 s5 s3, Runs (operandPlace 0 (jobCtx 0x2000) 0x2000 64 true)
      (jobState 0x2000 [] [(0x94, 0x30)]) 0x2000 s1 ∧
    (jobState 0x2000 [] [(0x94, 0x30)]).cancelled 0 7 = false ∧ (0x80#64).toNat % 64 = 0 ∧
    Runs (eccTouch 0 0 (jobCtx 0x2000) 0x2000 0x2000 8) s1 () r0 ∧
    Runs (operandPlace 0 (jobCtx 0x2000) 0x80 64 true) r0 0x80 s2 ∧ Runs (eccTouch 0 0 (jobCtx 0x2000) 0x80 (0x80 + 16) 8) s2 () r1 ∧
    (recState r1 0x80 = 3 ∧ (0x80 : Word) = (jobCtx 0x2000).record) ∧
    Runs (register 0 (jobCtx 0x2000) 0x2000 0x80 0x2000 0x80) r1 () s4 ∧
    Runs (carry 0x80 (releaseAt 0 .dev s4).2) (releaseAt 0 .dev s4).1 () s5 ∧
    Pays (jobState 0x2000 [] [(0x94, 0x30)]) (jobCtx 0x2000)
      (ownWrites 0 (jobCtx 0x2000) (jobState 0x2000 [] [(0x94, 0x30)]) s5) s3 :=
  ⟨_, _, _, _, _, _, _, rfl, by decide, by decide, rfl, rfl, rfl, by decide, rfl, rfl, rfl⟩

/-- A future at 0x2000 with one waiter, the record at 0x80, parked with JOIN 1, or with JOIN 2, or with JOIN 0. -/
def futureState (join : Byte) : State := jobState 0 [(0x2000, 4), (0x2010, 0x80)] [(0x90, join), (0x94, 0x10)]
theorem witness_FutureStates_resolve : (futureState 1).MemOk ∧ readNat (futureState 1) 0x2000 8 = 4 * 1 ∧ badBytes (futureState 1) 0x2000 64 = 0 :=
  ⟨rfl, by decide, by decide⟩
theorem witness_FutureStates_decrement : ∀ j ∈ [(0 : Byte), 1, 2], hwXlate (futureState j) 7 0x80 true = some 0x80 ∧
    recState (futureState j) 0x80 = 1 ∧ badBytes (futureState j) (0x80 + 16) 8 = 0 ∧ (hwTag 0 7 0x80 true (futureState j)).isSome ∧
    recDw (futureState j) 0x80 2 % 2 ^ 32 = j.toNat ∧ (futureState j).parkedByProgram 7 0x80 = false := by decide
/-- Futures: unresolved with 0 and with 6 waiters, resolved, and an invalid word; room for the sixth waiter. -/
theorem witness_FutureStates : (∃ w, w % 4 = 1 ∧ w / 4 % 8 ≤ 6 ∧ w / 32 = 0) ∧ (∃ w, w % 4 = 0 ∧ w / 4 % 8 = 6 ∧ w / 32 = 0) ∧
    (∃ w : Nat, ¬(w % 4 ≤ 1 ∧ w / 4 % 8 ≤ 6 ∧ w / 32 = 0)) ∧
    (readNat (jobState 0 [(0x2000, 20)]) 0x2000 8 = 4 * 5 ∧ badBytes (jobState 0 [(0x2000, 20)]) 0x2000 64 = 0 ∧ (jobState 0 [(0x2000, 20)]).MemOk) :=
  ⟨⟨1, by decide⟩, ⟨24, by decide⟩, ⟨2, by decide⟩, by decide, by decide, rfl⟩

theorem witness_RecordsEnd_yield : ∃ r r1 s1 s2 s4 s3, runningRec (jobState 0 []) (jobCtx 0) = some 0x80 ∧
    (jobState 0 []).cancelled 0 7 = false ∧ Runs (ownTag 0 (jobCtx 0) (jobCtx 0).record true) (jobState 0 []) () r ∧
    Runs (eccTouch 0 0 (jobCtx 0) (jobCtx 0).record (0x80 + 16) 16)
      (r.setTile 0 { r.tile 0 with dcache := dropLine (r.tile 0).dcache (0x80 / 64 * 64) }) () r1 ∧
    Runs (suspendRec 0 0 (jobCtx 0) 0x80 2) r1 () s1 ∧
    Runs (carry 0x80 (releaseAt 0 .dev s1).2) (releaseAt 0 .dev s1).1 () s2 ∧
    thiefPush 0 7 (s2.timed 7) (recPrio s2 0x80) 0x80 s2 = some s4 ∧
    Pays (jobState 0 []) (jobCtx 0) (ownWrites 0 (jobCtx 0) (jobState 0 []) s4) s3 :=
  ⟨_, _, _, _, _, _, by decide, by decide, rfl, rfl, rfl, rfl, rfl, rfl⟩
/-- END: chains without blocks, nothing under way, and units that can be paid. -/
theorem witness_RecordsEnd : Ready (jobState 0 []) (jobCtx 0) ∧ (jobState 0 []).cancelled 0 7 = false ∧
    (∀ j : Fin 4, ((jobCtx 0).chains.get j).queue = [] ∧ ((jobCtx 0).chains.get j).state ≠ .faulted) ∧
    (jobState 0 []).anyOutstanding (jobCtx 0) = false ∧ (∀ j : Fin 4, ((jobCtx 0).covs.get j).early = []) ∧
    (let s1 := mergeAt 0 [] (jobState 0 [])
     ∃ s3, Pays (jobState 0 []) (jobCtx 0)
       (ownWrites 0 (jobCtx 0) (jobState 0 []) (retireCtx 0 0 0 ((s1.setTile 0 { s1.tile 0 with dcache := [] }).charge 0 0 8 1))) s3) :=
  ⟨jobReady _ _ _, by decide, by decide, by decide, by decide, Option.isSome_iff_exists.mp (by decide +kernel)⟩
/-- CANCEL of the own job and of another one; the flags of the other 47 clusters set, or none of them. -/
theorem witness_RecordsEnd_cancel : Meets 7 0 ∧ Meets 8 0 ∧ demoCtx.job = 7 ∧ (setCancel 7 0 (demoWith id)).cancelledAll 7 = false ∧
    (setCancel 7 0 ((List.finRange 48).foldl (fun s k => if k = 0 then s else setCancel 7 k s) (demoWith id))).cancelledAll 7 = true :=
  ⟨meets _ _, meets _ _, rfl, by decide +kernel, by decide +kernel⟩
/-- A job with its cancel flag set in the tile's cluster. -/
theorem witness_RecordsEnd_cancelled : ∃ s1 y, (setCancel 7 0 (jobState 0 [])).cancelled 0 7 = true ∧
    Runs (abandonAt 0 0) (setCancel 7 0 (jobState 0 [])) () s1 ∧ s1.ctx? 0 0 = some y ∧ drained s1 y = true ∧
    ∃ s3, Pays (setCancel 7 0 (jobState 0 [])) (jobCtx 0) (ownWrites 0 (jobCtx 0) (setCancel 7 0 (jobState 0 []))
      (retireCtx 0 0 0x36 (((mergeAt 0 [] s1).setTile 0 { (mergeAt 0 [] s1).tile 0 with dcache := [] }).charge 0 0 8 1))) s3 :=
  ⟨_, _, by decide, rfl, rfl, by decide +kernel, Option.isSome_iff_exists.mp (by decide +kernel)⟩
/-- A GBAR of group 4095 that waits in the cancelled job. -/
theorem witness_RecordsEnd_gbar : ∃ (s s1 : State) (x y : Ctx) (w : Wait), Ready s x ∧ s.cancelled 0 7 = true ∧ x.wait = some w ∧
    w.kind = .gbar 4095 0 ∧ (s.group 4095).gen = 0 ∧ Runs (abandonAt 0 0) (s.setGroup { s.group 4095 with arr := (s.group 4095).arr - 1 }) () s1 ∧
    s1.ctx? 0 0 = some y ∧ drained s1 y = true ∧
    ∃ s3, Pays s x (ownWrites 0 x s
      (retireCtx 0 0 0x36 (((mergeAt 0 [] s1).setTile 0 { (mergeAt 0 [] s1).tile 0 with dcache := [] }).charge 0 0 8 1))) s3 :=
  ⟨setCancel 7 0 ((jobState 0 []).setSlot 0 0 (some (waiting (.gbar 4095 0) (jobCtx 0)))), _, waiting (.gbar 4095 0) (jobCtx 0), _, _,
    ⟨rfl, rfl, rfl, rfl⟩, by decide, rfl, rfl, rfl, rfl, rfl, by decide +kernel, Option.isSome_iff_exists.mp (by decide +kernel)⟩
theorem witness_RetiredContext : (jobState 0 []).ctx? 0 0 = some (jobCtx 0) := rfl

/-- A member of group 4095, alone in it or not. -/
def member (x : Ctx) : Ctx := { x with grp := some 4095 }
def grouped (memb arr : Nat) : State := { demoWith member with groups := [{ id := 4095, job := 7, memb, arr }] }
theorem witness_GroupInstructions : Meets 4095 0 ∧ Meets 4096 0 ∧ demoCtx.grp = none ∧ ((demoWith id).group 4095).memb = 0 ∧
    (∀ m ∈ [1, 2], (grouped m 0).ctx? 0 0 = some (member demoCtx) ∧ ((grouped m 0).group 4095).memb = m ∧
      (grouped m 0).cancelled 0 7 = false) ∧ (member demoCtx).wait = none ∧
    (∃ (x : Ctx) (w : Wait), x.wait = some w ∧ w.kind = .gbar 4095 5 ∧ ((grouped 1 0).group 4095).gen ≠ 5) ∧ Meets 383 0 ∧ Meets 384 0 :=
  ⟨meets _ _, meets _ _, rfl, by decide, by intro m h; simp at h; obtain rfl | rfl := h <;> exact ⟨rfl, rfl, by decide⟩, rfl,
    ⟨waiting (.gbar 4095 5) demoCtx, _, rfl, rfl, by decide⟩, meets _ _, meets _ _⟩

/-- A binding word of each kind, at the highest numbers, and one beyond R412; an inbound entry that may be bound. -/
theorem witness_BindingInstructions : Meets 0x1C 0x17F ∧ Meets 3 0 ∧
    (∃ b, bindWord 0x1C 0xF7F = some b ∧ b.kind = 0 ∧ b.ep = 7 ∧ b.tile = 383 ∧ b.rep = 7 ∧ b.remote = false ∧ boundHere (demoWith id) 0 b.ep = false) ∧
    bindWord 3 0 = none ∧ bindWord 0 384 = none ∧
    (∃ b, bindWord 0x3FFF02 0 = some b ∧ b.kind = 2 ∧ b.sem = 63 ∧ b.inb = 255 ∧ (demoCtx.sem b.sem).phaseMode = false ∧
      (let s := { demoWith id with inWin := [(255, ({ v := true, job := 7, arrk := 2 } : InWin))] }
       (s.inw b.inb).v = true ∧ (s.inw b.inb).job = 7 ∧ (s.inw b.inb).bound = false ∧ (s.inw b.inb).arrk = 2)) ∧
    (∃ b, bindWord 0x1C 0 = some b ∧ holdsBinding (demoWith id) 0 demoCtx b = false) :=
  ⟨meets _ _, meets _ _, ⟨_, rfl, rfl, rfl, rfl, rfl, rfl, by decide⟩, by decide, by decide,
    ⟨_, rfl, rfl, rfl, rfl, by decide, rfl, rfl, rfl, rfl⟩, _, rfl, by decide⟩
/-- An endpoint that its context holds, with no block naming it and with one. -/
theorem witness_BindingInstructions_held :
    (let s := bindEp 0 0 { job := 7, num := 1, consumer := false, tile := 0, ep := 1, dev := none } (demoWith id)
     boundHere s 0 0 = true ∧ ∃ b, bindWord 0 0 = some b ∧ holdsBinding s 0 demoCtx b = true ∧ namesEp demoCtx b = false) :=
  ⟨by decide, _, rfl, by decide, by decide⟩
/-- A page-aligned range and the whole space; a context without blocks, which holds no pin. -/
theorem witness_BindingInstructions_tinv : Meets 0x10000 0x10000 ∧ Meets 0 0 ∧ allBlocks demoCtx = [] := ⟨meets _ _, meets _ _, by decide⟩

/-- A queue in device memory that is open to the job, with room and without. -/
def queued (tail : Nat) : State :=
  (jobState 0x2000 []).modQueue 255 fun k => { k with base := 0x3000, logsz := 1, space := 2, job := 7, tail }
theorem witness_QueuedPackets : ∃ s1 s2 s3 bs, Runs (enqPlace 0 (jobCtx 0x2000) 0x2000) (queued 1) 0x2000 s1 ∧
    openTo (s1.queue 255) 7 = true ∧
    (let r := (releaseAt 0 .dev s1).1
     r.cancelled 0 7 = false ∧ queueFull (r.queue 255) = false ∧ Runs (enqFetch 0 0 (jobCtx 0x2000) 0x2000 0x2000) r bs s2 ∧
     Pays (queued 1) (jobCtx 0x2000) (ownLines 0 (jobCtx 0x2000) (queued 1) (enqueue 0 (jobCtx 0x2000) 255 bs s2)) s3) ∧
    startsGrid bs = false :=
  ⟨_, _, _, _, rfl, by decide, ⟨by decide, by decide, rfl, rfl⟩, by decide⟩
/-- A context that waits for room in queue 255. -/
def roomState : State := (queued 1).setSlot 0 0 (some (waiting (.enq 0x2000 255) (jobCtx 0x2000)))
theorem witness_QueuedPackets_wakes : ∃ y w bs s4 s5, roomState.ctx? 0 0 = some y ∧ y.wait = some w ∧ (roomState.tile 0).cur = 0 ∧
    w.kind = .enq 0x2000 255 ∧ roomState.cancelled (clOf 0) y.job = false ∧ queueFull (roomState.queue 255) = false ∧
    Runs (enqFetch 0 0 y y.pc 0x2000) roomState bs s4 ∧
    settleStep roomState 0 0 none y.job (ownLines 0 y roomState (enqueue 0 y 255 bs s4)) = some s5 :=
  ⟨_, _, _, _, _, rfl, rfl, rfl, rfl, by decide, by decide, rfl, rfl⟩
theorem witness_QueuedPackets_places : (queued 1).MemOk ∧ ∀ j, j < 64 →
    queueAt (queued 1) ((queued 1).queue 255) (((queued 1).queue 255).entry ((queued 1).queue 255).tail + j) true = some (0x3040 + j) :=
  ⟨rfl, by decide +kernel⟩
theorem witness_QueuedPackets_room : (∃ s1 s2, Runs (enqPlace 0 (jobCtx 0x2000) 0x2000) (queued 2) 0x2000 s1 ∧ openTo (s1.queue 255) 7 = true ∧
      openTo (s1.queue 254) 7 = false ∧
      (let r := (releaseAt 0 .dev s1).1
       r.cancelled 0 7 = false ∧ queueFull (r.queue 255) = true ∧ settleStep (queued 2) 0 0 none 7 r = some s2)) ∧ Meets 0 256 ∧
    (∃ (x : Ctx) (w : Wait), x.wait = some w ∧ w.kind = .enq 0x2000 255 ∧ (255#64).toNat < 256 ∧ queueFull ((queued 1).queue 255) = false) :=
  ⟨⟨_, _, rfl, by decide, by decide, by decide, by decide, rfl⟩, meets _ _, waiting (.enq 0x2000 255) demoCtx, _, rfl, rfl, by decide, by decide⟩

/-- AXIS words with and without EN; a bank record of zeros at offset 64; a selector at each bound; a bank that is busy. -/
theorem witness_ShapingInstructions : Meets 0x11D 127 ∧ Meets 0 0 ∧ Meets 0xFFFF 64 ∧ demoCtx.bankIdle 3 = true ∧
    (∃ ds s1 s2, Runs (loadDws 0 0 (padCtx 64 demoCtx) 0x8000000000000040 48) (demoWith (padCtx 64)) ds s1 ∧
      bankRecOk (ds.map (·.toNat)) = true ∧ Pays (demoWith (padCtx 64)) (padCtx 64 demoCtx) (s1.modCtx 0 0 fun y =>
        { y with banks := y.banks.set 3 (bankOf (ds.map (·.toNat))) }) s2) ∧
    (∃ s1 s2, Runs (storeDws 0 0 (padCtx 64 demoCtx) 0x8000000000000040 (bankRecord (demoCtx.banks.get 3))) (demoWith (padCtx 64)) () s1 ∧
      Pays (demoWith (padCtx 64)) (padCtx 64 demoCtx) s1 s2) :=
  ⟨meets _ _, meets _ _, meets _ _, by decide, ⟨_, _, _, rfl, by decide, rfl⟩, _, _, rfl, rfl⟩
/-- A STORE body without levels, shaped or not. -/
def storeBody (shape : Bool) : CopyBody :=
  { tid := 0, lkind := 0, combine := false, lring := 1, llvl := 0, ndim := 1, shape, cnten := false, csem := 0, lbase := 0, torg := 0, lvls := [] }
/-- A context whose STORE is shaped by bank 2. -/
def shapedStore : Entry := { block (.store (storeBody true)) true with cap := { axis := { en := true, bank := 2 } } }
def shaped (x : Ctx) : Ctx := { x with chains := x.chains.set 1 { state := .running, seq := 1, queue := [shapedStore] } }
theorem witness_ShapingInstructions_busy : (shaped demoCtx).bankIdle 2 = false ∧ (shaped demoCtx).runnable = true ∧
    (∃ (s : State) (y : Ctx) (w : Wait), s.ctx? 0 0 = some y ∧ y.wait = some w ∧ (s.tile 0).cur = 0 ∧ s.Unmetered ∧ w.kind = .bank 3 2 0 ∧
      w.dst = none ∧ y.bankIdle 2 = true) ∧
    (∃ (s : State) (y : Ctx) (w : Wait) (e : Eff) (s3 s4 : State), s.ctx? 0 0 = some y ∧ y.wait = some w ∧ (s.tile 0).cur = 0 ∧
      w.kind = .bank 2 1 127 ∧ y.bankIdle 1 = true ∧ Runs (bankAct 0 0 2 1 127) s e s3 ∧ settleStep s 0 0 none 7 s3 = some s4) :=
  ⟨by decide, rfl, ⟨demoWith (waiting (.bank 3 2 0)), waiting (.bank 3 2 0) demoCtx, _, rfl, rfl, rfl, ⟨rfl, rfl⟩, rfl, rfl, by decide⟩,
    demoWith (waiting (.bank 2 1 127)), waiting (.bank 2 1 127) demoCtx, _, _, _, _, rfl, rfl, rfl, rfl, by decide, rfl, rfl⟩

/-- A record of period 1 at offset 16, which asks for the exact fraction; a controller that is busy; a ticket that has come early. -/
def covState (x : Ctx → Ctx) : State := { demoWith x with mem := [(spAt 0 28, 1)] }
theorem witness_CoverageInstructions : Meets 0x8000000000000010 2 ∧ demoCtx.covIdle 0 = true ∧
    ∃ s1 s2, Runs (loadDws 0 0 (padCtx 16 demoCtx) 0x8000000000000010 2) (covState (padCtx 16)) [0, 0x100000000] s1 ∧ covOk 0 0x100000000 = true ∧
      Pays (covState (padCtx 16)) (padCtx 16 demoCtx) (s1.modCtx 0 0 fun y => { y with covs := y.covs.set 0 (covFrom 0 0x100000000) }) s2 :=
  ⟨meets _ _, by decide, _, _, rfl, by decide, rfl⟩
def covered (x : Ctx) : Ctx := { x with covs := x.covs.set 1 { early := [(0, 5, 6)] } }
theorem witness_CoverageInstructions_other : Meets 1 0 ∧
    (∃ (x : Ctx) (e : Entry), x.covIdle 1 = false ∧ x.runnable = true ∧ (x.chains.get 2).queue = [e]) ∧
    (∃ (s s3 s2 : State) (w : Wait), s.ctx? 0 0 = some (waiting (.covset 1 0x8000000000000010) demoCtx) ∧
      (waiting (.covset 1 0x8000000000000010) demoCtx).wait = some w ∧ w.kind = .covset 1 0x8000000000000010 ∧ w.dst = none ∧
      Runs (covsetAct 0 0 1 0x8000000000000010) s () s3 ∧ settleStep s 0 0 none 7 s3 = some s2) ∧
    (∃ (s : State) (e : Nat × Nat × Nat), s.ctx? 0 0 = some (covered demoCtx) ∧
      ((covered demoCtx).covs.get 1).early.find? (·.1 == ((covered demoCtx).covs.get 1).appl) = some e) :=
  ⟨meets _ _, ⟨{ demoCtx with chains := demoCtx.chains.set 2 { state := .running, queue := [{ block .nop true with cap :=
      { covs := [{ cov := 1, ticket := 0, pat := 0, kern := 0, srate := false, adapt := false, g := 0, frac := some 1 }] } }] } }, _, by decide, rfl, rfl⟩,
    ⟨covState (waiting (.covset 1 0x8000000000000010)), _, _, _, rfl, rfl, rfl, rfl, rfl, rfl⟩,
    demoWith covered, (0, 5, 6), rfl, by decide⟩

/-- Chain memory in the first 4096 bytes of the scratchpad, all zero: the image of a NOP at offset 64, and at the last 64 bytes. -/
def chainMem (x : Ctx) : Ctx := { x with chainlim := 4096 }
theorem witness_LinkCommits : Ready (demoWith chainMem) (chainMem demoCtx) ∧
    (∀ o ∈ [64, 4032], o < 16777216 ∧ o % 64 = 0 ∧ ({ t := 0, c := 0, x := chainMem demoCtx, ch := 2, ga := BitVec.ofNat 64 o } : Linking).inChain (demoWith chainMem) o 64 = true ∧
      badBytes (demoWith chainMem) (spAt 0 o) 64 = 0 ∧ readNat (demoWith chainMem) (spAt 0 o) 64 = 0) ∧
    ((chainMem demoCtx).chains.get 2).queue.length < 64 ∧ (∀ m : SemNo, ((chainMem demoCtx).sems.get m).bind = none) ∧
    spaceOf (64 : Word) = 0 ∧ offOf (65 : Word) % 64 ≠ 0 ∧ (spaceOf (0x9000000000000000 : Word) ≠ 0 ∧ spaceOf (0x9000000000000000 : Word) ≠ 8) :=
  ⟨ready chainMem rfl, by decide, by decide, by decide, by decide, by decide, by decide⟩
set_option maxRecDepth 4000 in
theorem witness_LinkCommits_runs : ∃ s1 s2,
    Runs (linkAt { t := 0, c := 0, x := chainMem demoCtx, ch := 2, ga := 64 }) (demoWith chainMem) () s1 ∧ Pays (demoWith chainMem) (chainMem demoCtx) s1 s2 :=
  ⟨_, _, rfl, rfl⟩
theorem witness_LinkCommits_full : ∃ x : Ctx, x.runnable = true ∧ (x.chains.get 2).queue.length = 64 :=
  ⟨{ demoCtx with chains := demoCtx.chains.set 2 { queue := List.replicate 64 (block .nop false) } }, rfl, by decide⟩
theorem witness_RegisterFrames : Meets 5 6 ∧ demoCtx.quiet = true := ⟨meets _ _, rfl⟩
theorem witness_MemoryStaysCanonical : codeState.MemOk ∧ ∃ t, step codeState = .next t := ⟨rfl, _, rfl⟩

/-! ### Engines -/

/-- A machine in which chain ch runs the block e of a context with tensor identifier 0 as `entry1`. -/
def engineCtx (ch : ChainNo) (e : Entry) (x : Ctx) : Ctx :=
  { x with tit := x.tit.set 0 entry1, chains := x.chains.set ch { state := .running, seq := 1, queue := [e] } }
theorem runsBlock (ch : ChainNo) (e : Entry) (h1 : runningOf ((engineCtx ch e demoCtx).chain ch).queue = some e)
    (h2 : (engineCtx ch e demoCtx).entry? ch e.seq = some e) (h3 : ((engineCtx ch e demoCtx).chain ch).state = .running)
    (h4 : e.run.stalled = false ∧ e.run.await = none) (h5 : e.run.iter < e.total) :
    RunsBlock (demoWith (engineCtx ch e)) 0 0 ch (engineCtx ch e demoCtx) e := ⟨rfl, h3, rfl, h1, h2, h4, rfl, h5, rfl, rfl⟩
theorem readable (s : State) (h : s.poison = []) : s.Readable := fun k n => by
  induction n generalizing k with
  | zero => rfl
  | succ n ih => simp [badBytes, h, ih]
theorem solvent (f : Ctx → Ctx) : (demoWith f).Solvent 0 :=
  ⟨fun b h => absurd h (by simp [demoWith, State.setSlot, State.setTile, State.reset]), show (0 : Nat) < 1024 by decide, rfl⟩

def copyBody : CopyBody :=
  { tid := 0, lkind := 0, combine := false, lring := 1, llvl := 0, ndim := 1, shape := false, cnten := false, csem := 0, lbase := 0x800, torg := 0
    lvls := [{ bnd := 4, tdim := 0, tstep := 1, lstr := 4 }] }
def copyCap : Cap := { tens := [{ tid := 0, base := 0x8000000000000000, s0 := 0, s1 := 0 }] }
/-- The last of four iterations of a LOAD and of a STORE. -/
def loadBlock : Entry := { block (.load copyBody) true with cap := copyCap, run := { started := true, iter := 3 } }
def storeBlock : Entry := { block (.store copyBody) true with cap := copyCap, run := { started := true, iter := 3 } }
theorem witness_EngineIterations_load : (demoWith (engineCtx 0 loadBlock)).Readable ∧ (demoWith (engineCtx 0 loadBlock)).Solvent 0 ∧
    loadBlock.run.cov = none ∧ loadBlock.run.out = none ∧ (demoWith (engineCtx 0 loadBlock)).MemOk ∧
    (demoWith (engineCtx 0 loadBlock)).parkedOf (engineCtx 0 loadBlock demoCtx) 0 = none ∧
    chainBehind (demoWith (engineCtx 0 loadBlock)) (engineCtx 0 loadBlock demoCtx) 0 (spAt 0 12) 4 = false ∧ RunsBlock (demoWith (engineCtx 0 loadBlock)) 0 0 0 (engineCtx 0 loadBlock demoCtx) loadBlock ∧
    loadBlock.cur.body = .load copyBody ∧ copyBody.lkind = 0 ∧ copyBody.cnten = false ∧ titFmt ((engineCtx 0 loadBlock demoCtx).titNo copyBody.tid) ≠ 8 ∧
    enginePlace (demoWith (engineCtx 0 loadBlock)) 0 loadBlock.cap (addOff (loadBlock.cap.tensOf copyBody.tid).base
      (elemAt ((engineCtx 0 loadBlock demoCtx).titNo copyBody.tid) copyBody loadBlock.index * 4)) = .at (spAt 0 12) false :=
  ⟨readable _ rfl, solvent _, rfl, rfl, rfl, rfl, rfl, runsBlock 0 loadBlock (by decide) (by decide) (by decide) (by decide) (by decide), rfl, rfl, rfl, by decide, by decide⟩
theorem witness_EngineIterations_store : RunsBlock (demoWith (engineCtx 1 storeBlock)) 0 0 1 (engineCtx 1 storeBlock demoCtx) storeBlock ∧
    storeBlock.cur.body = .store copyBody ∧ copyBody.shape = false ∧ copyBody.combine = false ∧
    (demoWith (engineCtx 1 storeBlock)).parkedOf (engineCtx 1 storeBlock demoCtx) 1 = none ∧
    chainBehind (demoWith (engineCtx 1 storeBlock)) (engineCtx 1 storeBlock demoCtx) 1 (spAt 0 12) 4 = false ∧
    chainBehind (demoWith (engineCtx 1 storeBlock)) (engineCtx 1 storeBlock demoCtx) 1 (spAt 0 (localOff copyBody storeBlock.index)) 4 = false ∧
    enginePlace (demoWith (engineCtx 1 storeBlock)) 0 storeBlock.cap (addOff (storeBlock.cap.tensOf copyBody.tid).base
      (elemAt ((engineCtx 1 storeBlock demoCtx).titNo copyBody.tid) copyBody storeBlock.index * 4)) = .at (spAt 0 12) false :=
  ⟨runsBlock 1 storeBlock (by decide) (by decide) (by decide) (by decide) (by decide), rfl, rfl, rfl, by decide, by decide, by decide⟩
def port (o : Nat) : VPort := { kind := 1, type := 0, dir := 0, count := 4, base := o, str := [1] }
def vecBody (op : Nat) : VecBody :=
  { bnd := [4], op, mmode := 0, msrc := 0, ragged := false, imm := 0, x := port 0, y := port 0x100, z := port 0x200, w := port 0x300, rlt := 0 }
/-- Operators 0x01 and 0x34, the first and the last of the elementwise ones. -/
theorem witness_EngineIterations_vector : ∀ op ∈ [0x01, 0x34],
    (let e := block (.vector (vecBody op)) true
     RunsBlock (demoWith (engineCtx 3 e)) 0 0 3 (engineCtx 3 e demoCtx) e ∧ (vgroup op).isSome = true ∧ e.run.qw = [] ∧ e.run.gridded = false ∧
     (demoWith (engineCtx 3 e)).parkedOf (engineCtx 3 e demoCtx) 3 = none) := by
  intro op h
  simp at h
  obtain rfl | rfl := h <;>
    exact ⟨runsBlock 3 _ (by decide) (by decide) (by decide) (by decide) (by decide), by decide, rfl, rfl, rfl⟩
def matBody (op : Nat) : MatBody :=
  { bnd := [1], a := ⟨0, 1, 0, 0, 1⟩, b := ⟨1, 1, 0, 0, 2⟩, cbase := 0, cring := 1, clvl := 0, cstr := [], op, qsen := false, qsel := 0, sat := false }
def matBlock (op f : Nat) : Entry := { block (.matrix (matBody op)) true with cap := { fmtA := some f, fmtB := some f } }
/-- Two tagged slots: INT8 under IMMA, FP16 under MMA. -/
def taggedTile (f : Nat) (x : Tile) : Tile :=
  { x with slotTags := (x.slotTags.set 0 { valid := true, format := BitVec.ofNat 4 f, tid := 1, bandscale := 0, band := 0 }).set 1
                         { valid := true, format := BitVec.ofNat 4 f, tid := 2, bandscale := 0, band := 0 } }
def matState (op f : Nat) : State :=
  let s := demoWith (engineCtx 2 (matBlock op f))
  { s with tiles := s.tiles.set 0 (taggedTile f (s.tile 0)) }
theorem witness_EngineIterations_matrix : ∀ p ∈ [(4, 5, 128), (0, 1, 64)],
    (let s := matState p.1 p.2.1
     let e := matBlock p.1 p.2.1
     RunsBlock s 0 0 2 (engineCtx 2 e demoCtx) e ∧ (slotTag (s.tile 0) 0).valid = true ∧ (slotTag (s.tile 0) 0).tid.toNat = 1 ∧
       (slotTag (s.tile 0) 1).tid.toNat = 2 ∧ (slotTag (s.tile 0) 1).format.toNat = p.2.1 ∧ pairK p.1 p.2.1 p.2.1 = some p.2.2 ∧
       dirOk 0 p.2.1 = true ∧ e.cap.nbv = false ∧ (accTag (s.tile 0) (matTile (matBody p.1) e.index)).written = false ∧
       (matSlot (matBody p.1).a e.index false).1 = 0 ∧ (matSlot (matBody p.1).b e.index false).1 = 1) := by
  intro p h
  simp at h
  obtain rfl | rfl := h <;>
    exact ⟨⟨rfl, rfl, rfl, by decide, by decide, by decide, rfl, by decide, rfl, rfl⟩, rfl, by decide, by decide, by decide, by decide, by decide, rfl, rfl,
      by decide, by decide⟩

/-! ### Blocks, streaming and traps -/

/-- A NOP block that waits for nothing and has not started. -/
def idleBlock : Entry := block .nop false
theorem witness_BlockSteps_start : ∃ (s : State) (x : Ctx), s.ctx? 0 0 = some x ∧ x.stops = false ∧ readyOf x 2 = some idleBlock ∧
    x.entry? 2 idleBlock.seq = some idleBlock ∧ idleBlock.pending = false :=
  ⟨demoWith (chained 2 .nop false), chained 2 .nop false demoCtx, rfl, rfl, by decide, by decide, rfl⟩
/-- A started head block of each kind that acts. -/
theorem acts (b : Body) : Acts (demoWith (chained 2 b true)) 0 0 2 (chained 2 b true demoCtx) (block b true) :=
  ⟨rfl, rfl, rfl, rfl, nofun, rfl, rfl, rfl⟩
theorem witness_BlockSteps_acts : ∀ b ∈ [Body.nop, .endB, .rendezvous], (block b true).run.ended = false ∧ (block b true).cap.pred = true ∧
    Acts (demoWith (chained 2 b true)) 0 0 2 (chained 2 b true demoCtx) (block b true) := fun b _ => ⟨rfl, rfl, acts b⟩
/-- A MARK that resolves a future of the first GiB. -/
def resolver (x : Ctx) : Ctx := { chained 2 (.resolve 0x2000 5) true x with record := 0x80 }
def gibCap : Cap := { leaves := [{ base := 0, size := 3, pa := 0, chk := false }] }
theorem witness_BlockSteps_resolve : ∃ s1 s2, Acts (demoWith (chained 2 (.resolve 0x2000 5) true)) 0 0 2 (chained 2 (.resolve 0x2000 5) true demoCtx)
      (block (.resolve 0x2000 5) true) ∧
    Runs (engineResolve 0 (resolver demoCtx) gibCap 0x2000 5 .iteration) ((jobState 0 []).setSlot 0 0 (some (resolver demoCtx))) () s1 ∧
    s1.ctx? 0 0 = some (resolver demoCtx) ∧
    settleStep ((jobState 0 []).setSlot 0 0 (some (resolver demoCtx))) 0 0 (some (2, 0)) 7
      (s1.modCtx 0 0 (·.modRun 2 0 fun p => { p with ended := true, stalled := false })) = some s2 := ⟨_, _, acts _, rfl, rfl, rfl⟩
/-- A LOAD that may be patched and has not started, a PATCH of it, and a context with both. -/
def patchTarget : Entry := { block (.load copyBody) false with cur := ⟨{ demoHdr with kind := .load, patchok := true }, .load copyBody⟩ }
def patchBlock (tf : Nat) : Entry :=
  { block (.patch { src := 0x40, tchain := 0, trel := 0, tfield := tf, clamp := false }) true with cap := { target := some (0, 0) } }
def patchChain (tf : Nat) (fault : Option ChainFault) : Chain :=
  { state := if fault.isSome then .faulted else .running, fault, seq := 1, queue := [patchBlock tf] }
def patcher (tf : Nat) (fault : Option ChainFault) (x : Ctx) : Ctx :=
  { x with chains := (x.chains.set 2 (patchChain tf fault)).set 0 { state := .running, seq := 1, queue := [patchTarget] } }
theorem witness_BlockSteps_patch : ((patcher 0 none demoCtx).chain 2).queue.head? = some (patchBlock 0) ∧ (patcher 0 none demoCtx).isLinked (0, 0) = true ∧
    (patcher 0 none demoCtx).entry? 0 0 = some patchTarget ∧ patchTarget.run.started = false ∧ patchTarget.cur.patchable 0 = true ∧
    badBytes (demoWith (patcher 0 none)) (spAt 0 0x40) 4 = 0 ∧ admitted (patcher 0 none demoCtx) patchTarget 0 0 = true :=
  ⟨rfl, by decide, by decide, rfl, by decide, by decide, by decide⟩
theorem witness_BlockSteps_retire : ∃ (x : Ctx) (e : Entry), finishing (x.chain 3).queue = none ∧ e.walked = true ∧ e.run.unit < 2 ∧ e.run.owed = 0 ∧
    (demoWith id).outstanding x 3 e.seq = false :=
  ⟨demoCtx, { block (.vector (vecBody 1)) true with run := { started := true, iter := 4 } }, by decide, by decide, by decide, rfl, by decide⟩
def rangeFault : ChainFault := { cause := .patchRange, seq := 0, point := .iteration, idx := [], addr := 0, reported := false, toLeaf := true }
theorem witness_BlockSteps_policy : (patcher 0 (some rangeFault) demoCtx).chain 2 = { state := .faulted, fault := some rangeFault, seq := 1, queue := [patchBlock 0] } ∧
    (patcher 0 (some rangeFault) demoCtx).entry? 2 0 = some (patchBlock 0) ∧ (patcher 0 (some rangeFault) demoCtx).entry? 0 0 = some patchTarget ∧
    (∀ ppol ∈ [0, 2], ∃ j, ({ demoWith (patcher 0 (some rangeFault)) with jobs := [{ id := 7, ptbase := 0, tenant := 0, queue := 0, ppol }] } : State).job? 7 =
      some j ∧ j.ppol = ppol) := ⟨rfl, by decide, by decide, fun _ _ => ⟨_, rfl, rfl⟩⟩
/-- A queue whose two ends are bound on tile 0, with an entry on its way and a credit on its way back. -/
def linkedEnds : State :=
  let s := bindEp 0 1 { job := 7, num := 1, consumer := true, tile := 0, ep := 0, dev := none }
    (bindEp 0 0 { job := 7, num := 1, consumer := false, tile := 0, ep := 1, dev := none } (demoWith id))
  s.modEp 0 0 fun p => { p with flight := [[1, 2]], back := 1 }
theorem witness_BlockSteps_queue : ∃ b c, (linkedEnds.ep 0 1).bind = some b ∧ b.dev = none ∧ b.consumer = true ∧ linkedEnds.formed 0 1 = true ∧
    (linkedEnds.ep b.tile b.ep).flight = [1, 2] :: [] ∧ (linkedEnds.ep 0 0).bind = some c ∧ c.consumer = false ∧ 0 < (linkedEnds.ep 0 0).back ∧
    linkedEnds.canPush 0 0 demoCtx = true := ⟨_, _, rfl, rfl, rfl, by decide, rfl, rfl, rfl, by decide, by decide⟩
def stalledStore : Entry :=
  { block (.store { storeBody false with lkind := 3, lbase := 1 }) true with run := { started := true, stalled := true } }
theorem witness_BlockSteps_stall : ((engineCtx 1 stalledStore demoCtx).chain 1).state = .running ∧
    ((engineCtx 1 stalledStore demoCtx).chain 1).queue.find? (fun e => e.run.stalled && e.cur.body.engine) = some stalledStore ∧
    (queuePorts stalledStore.cur.body).length = 1 := by decide
theorem witness_BlockSteps_held : (withSem { ceil := 9, held := [{ amount := 3, lost := false, ack := none }] } demoCtx |>.sem 0).exceeds 3 false = false := by
  decide

/-- The demonstration whose TLB holds the leaf of its first GiB, with another context of the job on the tile. -/
def areaState (va : Word) : State :=
  let s := (jobState va []).setSlot 0 1 (some { demoCtx with num := 2 })
  { s with tiles := s.tiles.set 0 { s.tile 0 with tlb := [leafOf 7 0 0x1F] } }
theorem area_total : areaTotal (jobCtx 0x10000) (!jobStays (areaState 0x10000) 0 0 7) = 131072 := by decide +kernel
theorem area_pages : areaPages (0x10000 : Word) 131072 = [0x10000, 0x20000] := by decide
theorem witness_Streaming_save : Ready (areaState 0x10000) (jobCtx 0x10000) ∧
    Runs (areaChecks 0 (jobCtx 0x10000) 0x10000 (areaTotal (jobCtx 0x10000) (!jobStays (areaState 0x10000) 0 0 7))) (areaState 0x10000) ()
      (areaState 0x10000) ∧ enginesQuiet (areaState 0x10000) (jobCtx 0x10000) = true ∧
    (∀ l, (areaState 0x10000).Covers 7 l) ∧ (areaState 0x10000).Readable ∧
    ∃ o s1, Runs (touchRecord 0 0 (jobCtx 0x10000) (jobCtx 0x10000).record 16) ((areaState 0x10000).charge 0 0 8 1) o s1 := by
  rw [area_total, areaChecks, area_pages]
  exact ⟨⟨rfl, rfl, rfl, rfl⟩, rfl, by decide, fun _ => ⟨nofun, by decide, by decide⟩, readable _ rfl, _, _, rfl⟩
/-- A started NOP that has not retired: the engines have still to stop. -/
theorem witness_Streaming_stopping : enginesQuiet (demoWith (chained 2 .nop true)) (chained 2 .nop true demoCtx) = false ∧
    ∃ s1, Pays (demoWith (chained 2 .nop true)) (chained 2 .nop true demoCtx)
      ((demoWith (chained 2 .nop true)).upMe fun y => { y with stopping := true }) s1 := ⟨by decide, _, rfl⟩
/-- The first five doublewords of an area of number 5 without units and without the scratchpad. -/
def areaHead : List Byte := ([0x500074001, 7, 0x3022, 0x20000, 0x500180097].map (natLe 8)).flatten
/-- That area, of zeros after its header, at 0x10000, and its page in the TLB, with requests made so far; another device has saved it. -/
def restoreState (l : List (Nat × Nat)) : State :=
  let s := jobState 0x10000 (cellsWrite [] 0x10000 areaHead)
  { s with tiles := s.tiles.set 0 { s.tile 0 with tlb := [leafOf 7 0 0x1F] }, reqs := l }
theorem readBytes_append (s : State) (k m n : Nat) : readBytes s k (m + n) = readBytes s k m ++ readBytes s (k + m) n := by
  induction m generalizing k with
  | zero => simp [readBytes]
  | succ m ih => simp [Nat.succ_add, readBytes, ih, Nat.add_assoc]
theorem readBytes_zero (s : State) (k n : Nat) (h : ∀ j, k ≤ j → cellGet s.mem j = 0) : readBytes s k n = List.replicate n 0 := by
  induction n generalizing k with
  | zero => rfl
  | succ n ih => simp [readBytes, h k (Nat.le_refl k), ih (k + 1) fun j hj => h j (by omega), List.replicate_succ]
theorem checkWord_zero (k m : Nat) : checkWord k (List.replicate (8 * m) 0) = 0 := by
  induction m generalizing k with
  | zero => rfl
  | succ m ih =>
    have : List.replicate (8 * (m + 1)) (0 : Byte) = 0 :: 0 :: 0 :: 0 :: 0 :: 0 :: 0 :: 0 :: List.replicate (8 * m) 0 := by
      simp [Nat.mul_add, List.replicate_succ]
    rw [this, checkWord, ih]; simp [leNat, rotl64]
theorem area_cells : cellsWrite [] 0x10000 areaHead = [(0x10000, 1), (0x10001, 0x40), (0x10002, 7), (0x10004, 5), (0x10008, 7), (0x10010, 0x22), (0x10011, 0x30), (0x1001A, 2), (0x10020, 0x97), (0x10022, 0x18), (0x10024, 5)] := by decide
theorem area_rest (l : List (Nat × Nat)) (j : Nat) (hj : 0x10028 ≤ j) : cellGet (restoreState l).mem j = 0 := by
  have e : (restoreState l).mem = (0x1000, 0x1F) :: cellsWrite [] 0x10000 areaHead := rfl
  rw [e, area_cells]
  simp only [cellGet]
  repeat rw [if_neg (by omega), if_neg (by omega)]
  rfl
theorem area_good (l : List (Nat × Nat)) (a n : Nat) : badBytes (restoreState l) a n = 0 := readable _ rfl a n
theorem area_map (l : List (Nat × Nat)) :
    hwXlate (restoreState l) 7 0x10000 false = some 0x10000 ∧ hwXlate (restoreState l) 7 0x20000 false = some 0x20000 := by
  have h : restoreState l = { restoreState [] with reqs := l } := rfl
  rw [h, hwXlate_reqs _ l _ 0x10000, hwXlate_reqs _ l _ 0x20000]
  decide
theorem area_head (l : List (Nat × Nat)) : readBytes (restoreState l) 0x10000 40 = areaHead := rfl
theorem area_one (l : List (Nat × Nat)) : readBytes (restoreState l) 0x10000 (40 + 65496) = areaHead ++ List.replicate 65496 0 := by
  rw [readBytes_append, area_head, readBytes_zero _ _ _ (area_rest l)]
theorem area_two (l : List (Nat × Nat)) : readBytes (restoreState l) 0x20000 65536 = List.replicate 65536 0 :=
  readBytes_zero _ _ _ fun j hj => area_rest l j (by omega)
theorem rr0 : List.range ((131072 + 65535) / 65536) = [0, 1] := by decide
theorem mm0 : min 65536 (131072 - 65536 * 0) = 65536 := by omega
theorem mm1 : min 65536 (131072 - 65536 * 1) = 65536 := by omega
theorem two_of (s : State) (job a p q M N : Nat) (m0 : min M (N - M * 0) = M) (m1 : min M (N - M * 1) = M)  (h1 : hwXlate s job a false = some p) (h2 : hwXlate s job (a + M) false = some q) :
   (let one (k : Nat) : List Byte × Nat :=
    let m := min M (N - M * k)
    match hwXlate s job (a + M * k) false with
    | some pa => (readBytes s pa m, badBytes s pa m)
    | none => (List.replicate m 0, 0)
    let ps := [0, 1].map one
    (ps.flatMap (·.1), ps.foldl (fun b p => b + p.2) 0)) = (readBytes s p M ++ readBytes s q M, badBytes s p M + badBytes s q M) := by
  simp only [Nat.mul_zero, Nat.mul_one, Nat.sub_zero] at m0 m1
  simp only [List.map_cons, List.map_nil, m0, m1, Nat.sub_zero, Nat.mul_zero, Nat.mul_one, Nat.add_zero, h1, h2, List.flatMap_cons, List.flatMap_nil, List.foldl, List.append_nil, Nat.zero_add]
theorem readArea_two (s : State) (job a p q : Nat) (h1 : hwXlate s job a false = some p) (h2 : hwXlate s job (a + 65536) false = some q) :
    readArea s job a 131072 = (readBytes s p 65536 ++ readBytes s q 65536, badBytes s p 65536 + badBytes s q 65536) := by
  unfold readArea
  rw [rr0]
  exact two_of s job a p q 65536 131072 mm0 mm1 h1 h2
theorem area_read (l : List (Nat × Nat)) :
    readArea (restoreState l) 7 0x10000 131072 = (areaHead ++ List.replicate 65496 0 ++ List.replicate 65536 0, 0) := by
  rw [readArea_two _ _ _ _ _ (area_map l).1 (area_map l).2, area_two, area_good, area_good]
  exact congrArg (fun l => (l ++ List.replicate 65536 (0 : Byte), 0)) (area_one l)
/-- Its bytes. -/
def areaImage : List Byte := areaHead ++ List.replicate 65496 0 ++ List.replicate 65536 0
theorem area_check : checkWord 0 areaImage = areaDw areaImage 4 := by
  have z (Z : List Byte) (h : checkWord 5 Z = 0) : checkWord 0 (areaHead ++ Z) = 0x500180097 := by
    simp [areaHead, natLe, checkWord, h, leNat, rotl64]
  have q : List.replicate 65496 (0 : Byte) ++ List.replicate 65536 0 = List.replicate (8 * 16379) 0 := by rw [← List.replicate_add]
  have c : checkWord 0 areaImage = 0x500180097 := by
    unfold areaImage
    rw [List.append_assoc, q]
    exact z _ (checkWord_zero _ _)
  rw [c]; rfl
theorem area_header : areaDw areaImage 0 % 4294967296 = 0x74001 ∧ headerOk areaImage = true ∧ bits (areaDw areaImage 0) 49 1 = 0 ∧
    areaDw areaImage 3 = 131072 := by decide +kernel
theorem area_valid : areaValid areaImage = true := by
  simp only [areaValid, area_header.1, area_header.2.1, area_check, beq_self_eq_true, Bool.and_self]
theorem area_total64 : areaDw (readArea (restoreState []) 7 0x10000 64).1 3 = 131072 := by decide +kernel
theorem area_pages64 : Runs (areaChecks 0 (jobCtx 0x10000) 0x10000 64) (restoreState []) () (restoreState []) ∧
    Runs (areaChecks 0 (jobCtx 0x10000) 0x10000 131072) (restoreState []) () (restoreState []) := by
  have h1 : areaPages (0x10000 : Word) 64 = [0x10000] := by decide
  rw [areaChecks, areaChecks, area_pages, h1]
  exact ⟨rfl, rfl⟩
/-- What that area holds, whatever the other device's form says of it. -/
theorem area_ctx (l : List (Nat × Nat)) : (areaCtx (restoreState l) areaImage).job = 7 ∧ (areaCtx (restoreState l) areaImage).num = 5 ∧
    (areaCtx (restoreState l) areaImage).ctx.stepDue = false ∧ (areaCtx (restoreState l) areaImage).spinc = false ∧
    (areaCtx (restoreState l) areaImage).ctx.partw = 0x3022 :=
  ⟨show bits (areaDw areaImage 1) 0 32 = 7 by decide +kernel, show BitVec.ofNat 16 (bits (areaDw areaImage 0) 32 16) = 5 by decide +kernel, rfl,
    show (bits (areaDw areaImage 0) 48 1 == 1) = false by decide +kernel, show BitVec.ofNat 32 (bits (areaDw areaImage 2) 0 32) = 0x3022 by decide +kernel⟩
/-- After its header the area holds zeros. -/
theorem area_zero (k : Nat) (h : 8 ≤ k) : areaDw areaImage k = 0 := by
  have z (n : Nat) : leNat (List.replicate n 0) = 0 := by induction n <;> simp_all [List.replicate_succ, leNat]
  have e : areaImage = areaHead ++ List.replicate 131032 0 := by
    rw [areaImage, List.append_assoc, ← List.replicate_add]
  have d : List.drop (8 * k) areaHead = [] := List.drop_eq_nil_of_le (by show 40 ≤ 8 * k; omega)
  rw [areaDw, e, List.drop_append, d, List.nil_append, List.drop_replicate, List.take_replicate, z]
theorem area_loops (l : List (Nat × Nat)) : ((areaCtx (restoreState l) areaImage).ctx.loops.get 1).act = true →
    ((areaCtx (restoreState l) areaImage).ctx.loops.get 0).act = true := by
  intro h
  have h : ((foreignCtx areaImage).ctx.loops.get 1).act = true := h
  rw [foreignCtx_act, areaLoopst, area_zero _ (Nat.le_add_right _ _)] at h
  simp at h
theorem hwTag_fresh (s : State) (h : s.tags = []) (t : TileNo) (job va : Nat) (w : Bool) : ∃ s1, hwTag t job va w s = some s1 := by
  unfold hwTag
  split
  · exact ⟨_, rfl⟩
  · dsimp only
    split
    · refine Option.isSome_iff_exists.mp ?_
      have r : (raceTag s t tagReset w true).isSome = true := by cases w <;> rfl
      rw [h, tagGet, Option.isSome_map, r]
    · exact ⟨_, rfl⟩
/-- The action answers, from that state. -/
def Answers {α : Type} (m : M α) (s : State) : Prop := ∃ v s1, Runs m s v s1
theorem Answers.bind {α β : Type} {m : M α} {f : α → M β} {s : State} (h : Answers m s) (g : ∀ v s1, Answers (f v) s1) : Answers (m >>= f) s := by
  obtain ⟨v, s1, h⟩ := h
  obtain ⟨w, s2, h2⟩ := g v s1
  exact ⟨w, s2, by simp only [Runs, Bind.bind, StateT.bind] at *; rw [h]; exact h2⟩
theorem touchRecord_fresh (s : State) (t : TileNo) (c : SlotNo) (x : Ctx) (va : Word) (hs : s.tags = []) (hx : x.strict = false) :
    Answers (touchRecord t c x va 8) s := by
  obtain ⟨s1, h1⟩ := hwTag_fresh s hs t x.job va.toNat true
  have d (s : State) (k : Nat) : Answers (meterDws t k 8) s := ⟨_, _, rfl⟩
  have r (s : State) (k : Nat) : Answers (eccRead t c x va k 8) s := by
    refine .bind ⟨_, _, rfl⟩ fun b s => ?_
    split
    · exact ⟨_, _, rfl⟩
    · rw [if_neg (by simp [hx])]
      exact .bind ⟨_, _, rfl⟩ fun _ s => .bind ⟨_, _, rfl⟩ fun _ s => ⟨_, _, rfl⟩
  have n (s : State) (k : Nat) : Answers (noteRead t c k 8) s := .bind ⟨_, _, rfl⟩ fun _ s => by
    dsimp only [noteFences]
    split <;> exact ⟨_, _, rfl⟩
  unfold touchRecord
  cases h : hwXlate s x.job va.toNat true with
  | none => exact ⟨none, s, by simp only [Runs, Bind.bind, StateT.bind, see, h]; rfl⟩
  | some pa =>
    obtain ⟨v, s2, h2⟩ : Answers (ownTag t x va true >>= fun _ => eccTouch t c x va (pa + 16) 8 >>= fun _ => meterDws t (pa + 16) 8 >>= fun _ => pure (some pa)) s :=
      .bind ⟨(), s1, by simp only [Runs, ownTag, Bind.bind, StateT.bind, see, h1]; rfl⟩ fun _ s => .bind
        (.bind (n _ _) fun _ s => .bind (d _ _) fun _ s => .bind (r _ _) fun _ _ => ⟨_, _, rfl⟩) fun _ s => .bind (d _ _) fun _ _ => ⟨_, _, rfl⟩
    exact ⟨v, s2, by simp only [Runs, Bind.bind, StateT.bind, see, h] at *; exact h2⟩
theorem fits (s : State) (e : Saved) (y : Ctx) (h : s.ctx? 0 0 = some y) (h1 : y.heldSlots = 0) (h2 : y.heldTiles = 0) (h3 : e.job = y.job)
    (h4 : e.ctx.partw = y.partw) (h5 : e.spinc = false) : fitFault s 0 1 e = none := by
  unfold fitFault
  rw [show ((1 : SlotNo) - 1) = 0 from rfl, h]
  simp only [h1, h2, h3, h4, h5]
  rw [if_neg (by simp), if_neg]
  rintro (h | h)
  · exact h BitVec.zero_and
  · exact h BitVec.zero_and
/-- What CTXRESTORE of that area asks. -/
theorem witness_Streaming_restore : Ready (restoreState []) (jobCtx 0x10000) ∧
    Runs (areaChecks 0 (jobCtx 0x10000) 0x10000 64) (restoreState []) () (restoreState []) ∧
    (let total := areaDw (readArea (restoreState []) 7 0x10000 64).1 3
     Runs (areaChecks 0 (jobCtx 0x10000) 0x10000 total) (restoreState []) () (restoreState []) ∧
     (let s2 := restoreState ([] ++ areaReqs (restoreState []) 0 7 0x10000 total false)
      let e := areaCtx s2 areaImage
      readArea s2 7 0x10000 total = (areaImage, 0) ∧ areaValid areaImage = true ∧ fitFault s2 0 1 e = none ∧ s2.ctx? 0 1 = none ∧
      s2.residentNum e.job e.num.toNat = false ∧ ((e.ctx.loops.get 1).act = true → (e.ctx.loops.get 0).act = true) ∧ e.job = 7 ∧
      bits (areaDw areaImage 0) 49 1 = 0 ∧ e.ctx.stepDue = false ∧
      ∃ o s3, Runs (touchRecord 0 0 (jobCtx 0x10000) e.ctx.record 8) s2 o s3 ∧ (restoreState []).Covers 7 (s3.reqs ++ [(1, 1)]))) := by
  refine ⟨⟨rfl, rfl, rfl, rfl⟩, area_pages64.1, ?_⟩
  simp only [area_total64]
  refine ⟨area_pages64.2, area_read _, area_valid, ?_, rfl, ?_, area_loops _, (area_ctx _).1, area_header.2.2.1, rfl, ?_⟩
  · exact fits _ _ (jobCtx 0x10000) rfl rfl rfl ((area_ctx _).1.trans rfl) ((area_ctx _).2.2.2.2.trans rfl) (area_ctx _).2.2.2.1
  · rw [(area_ctx _).1, (area_ctx _).2.1]
    exact (show (restoreState []).residentNum 7 (5 : BitVec 16).toNat = false by decide +kernel)
  · obtain ⟨o, s3, h⟩ := touchRecord_fresh (restoreState ([] ++ areaReqs (restoreState []) 0 7 0x10000 131072 false)) 0 0 (jobCtx 0x10000)
      (areaCtx (restoreState ([] ++ areaReqs (restoreState []) 0 7 0x10000 131072 false)) areaImage).ctx.record rfl rfl
    exact ⟨o, s3, h, nofun, by decide, by decide⟩
theorem witness_Streaming_traps : Meets 0x8000000000000000 0 ∧ spaceOf (0x8000000000000000 : Word) ≠ 0 ∧ Meets 0x8000 0 ∧ (0x8000#64).toNat % 65536 ≠ 0 :=
  ⟨meets _ _, by decide, meets _ _, by decide⟩
/-- A queued record at 0x2000 in the deck of class 0, and nothing on the tile. -/
def popState : State :=
  let s := jobState 0 [(0x2014, 0x20), (0x2018, 7), (0x201C, 0xFF), (0x201D, 0xFF), (0x201E, 0xFF), (0x201F, 0xFF)]
  writeNat { s with
    jobs := [{ id := 7, ptbase := 0x1000, tenant := 0, queue := 0, live := [1], ntile := 1 }]
    tiles := s.tiles.set 0 { s.tile 0 with slots := Vector.replicate 2 none, padJob := some 7, dkt := (s.tile 0).dkt.set 0 0x10000 } } (spAt 0 0x100) 8 0x2000
def popped : Queued := ⟨.deck 0 0 0, 7, 0x2000, 0⟩
theorem witness_Streaming_pop : popState.ctx? 0 0 = none ∧ popState.input.flag = false ∧
    (popOrder popState 0).find? (poppable popState 0 0) = some popped ∧ hwXlate popState 7 0x2000 true = some 0x2000 ∧
    badBytes popState 0x2000 64 = 0 ∧ popState.cancelled 0 7 = false ∧ recValid popState 0x2000 popped = true ∧ recResume popState 0x2000 = false ∧
    recJob popState 0x2000 popped = 7 ∧ (popState.job? 7).map (·.live) = some [1] ∧ hwTag 0 7 0x2000 true popState ≠ none := by decide
/-- That record, whose context another tile has saved with a binding to another device. -/
def failingState : State :=
  let s := writeBytes popState 0x2014 [0xA0, 0, 3]
  bindEp 1 0 { job := 7, num := 3, consumer := false, tile := 0, ep := 1, dev := some 4 } { s with
    saved := [{ job := 7, num := 3, kind := .suspended, area := 0, tile := 1, ctx := { demoCtx with num := 3 } }] }
theorem witness_Streaming_rebind : slotFree failingState 0 0 = true ∧ failingState.input.flag = false ∧
    (popOrder failingState 0).find? (poppable failingState 0 0) = none ∧ failedRestores failingState 0 none ≠ [] := by decide +kernel
/-- A pre-empted context that may come back into the empty slot, and no record that waits. -/
def resumable : Saved := { job := 7, num := 3, kind := .preempted, area := 0, tile := 0, ctx := { demoCtx with num := 3 } }
set_option maxRecDepth 10000 in
theorem witness_Streaming_resume : ∃ s : State, slotFree s 0 0 = true ∧ s.input.flag = true ∧ s.ctx? 0 0 = none ∧
    (let best := (popOrder s 0).find? (poppable s 0 0)
     s.saved.find? (fun e => e.num == 3 && e.kind == .preempted && savedFits s 0 0 e && ((s.job? e.job).any (s.mayRun 0)) &&
       best.all fun q => decide (q.cls ≤ e.ctx.cls)) = some resumable) :=
  ⟨{ popState with saved := [resumable], input := { popState.input with flag := true }, mem := [] }, by decide, rfl, by decide, by decide⟩
theorem witness_Streaming_preemption : ∀ f ∈ [fun x : Ctx => { x with run := .held }, id, fun x => { x with marked := true },
      fun x => { x with run := .held, marked := true }],
    (demoWith f).ctx? 0 0 = some (f demoCtx) ∧ mayChoose (demoWith f) 0 0 (f demoCtx) = true ∧ enginesQuiet (demoWith f) (f demoCtx) = true ∧
      (f demoCtx).stopsHere = true := by
  intro f h
  simp only [List.mem_cons, List.not_mem_nil, or_false] at h
  rcases h with rfl | rfl | rfl | rfl <;> exact ⟨rfl, by decide, by decide, by decide⟩
/-- Two contexts on the tile: the first waits, or has run for its time slice. -/
def pair (w : Option WaitKind) (now : Nat) : State :=
  { (demoWith fun x => match w with
      | some k => waiting k x
      | none => x).setSlot 0 1 (some { demoCtx with num := 2 }) with now }
theorem witness_Streaming_switch : (∃ x y, (pair (some .drain) 0).ctx? 0 0 = some x ∧ (pair (some .drain) 0).ctx? 0 1 = some y ∧
      canRun (pair (some .drain) 0) 0 1 = true ∧ x.atEnd = true ∧ ∃ w, x.wait = some w ∧ y.lost ≤ w.since) ∧
    (∃ x y, (pair none 8192).ctx? 0 0 = some x ∧ (pair none 8192).ctx? 0 1 = some y ∧ x.latches = [] ∧ x.wait = none ∧
      canRun (pair none 8192) 0 1 = true ∧ x.gained + 8192 ≤ (pair none 8192).now ∧ x.cls ≤ y.cls) :=
  ⟨⟨_, _, rfl, rfl, by decide, rfl, _, rfl, by decide⟩, _, _, rfl, rfl, rfl, rfl, by decide, by decide, by decide⟩
def pushState : State :=
  let s := jobState 0 []
  { s with clusters := s.clusters.set 0 { s.clusters.get 0 with pushes := [(7, 0x2000, 0)] } }
/-- The oldest record of the cluster's overflow queue of class 0 goes to cluster 1. -/
def movingState : State :=
  let s := jobState 0 []
  { s with
    clusters := s.clusters.set 0 { s.clusters.get 0 with overflow := (s.clusters.get 0).overflow.set 0 [(7, 0x2000)] }
    input := { s.input with flag := true, addr := 1 } }
theorem witness_Streaming_move : ∃ u q, movingState.input.flag = true ∧ movingState.input.value % 4 = (0 : Fin 4).val ∧
    movingState.input.addr = (1 : Fin 48).val ∧ (1 : Fin 48) ≠ 0 ∧ movable movingState 0 8 0 = some (u, q) ∧ movingState.timed q.job = false ∧
    (8 : TileNo).val = (1 : Fin 48).val * 8 ∧ ∃ s1, overflowPush 8 q.job false 0 q.va (dequeue (match q.src with
      | .deck _ _ _ => 8
      | .over _ _ => u) q.src movingState) = some s1 :=
  ⟨0, ⟨.over 0 0, 7, 0x2000, 0⟩, rfl, by decide, by decide, by decide, by decide, by decide, by decide, Option.isSome_iff_exists.mp (by decide +kernel)⟩
theorem witness_Streaming_push : ∃ s1, pushState.input.flag = false ∧ (pushState.clusters.get 0).pushes[0]? = some (7, 0x2000, 0) ∧
    hwXlate pushState 7 0x2000 true = some 0x2000 ∧ badBytes pushState (0x2000 + 16) 8 = 0 ∧
    ownerPush 0 7 (pushState.timed 7) (recPrio pushState 0x2000) 0x2000
      (setRecDw 0x2000 2 (withState (recDw pushState 0x2000 2) 2) (hwTouch 0 7 0x2000 pushState)) = some s1 :=
  ⟨_, rfl, by decide, by decide, by decide, rfl⟩

theorem witness_Interrupts_waits : ∃ (s : State) (x : Ctx) (w : Wait), s.ctx? 0 0 = some x ∧ x.wait = some w ∧ x.run = .run ∧ x.active = false ∧
    (x.recounts = true ∧ (s.tile 0).cur = 0) ∧
    interruptible s w = true ∧ x.asyncs ≠ [] ∧ w.kind ≠ .wfe ∧ w.since + 2 * ((s.job? x.job).map (·.watchdog)).getD 67108864 < s.now ∧
    Cause.watchdog ∉ x.asyncs :=
  ⟨{ demoWith fun x => { waiting .drain x with asyncs := [.machineCheck] } with now := 134217729 }, _, _, rfl, rfl, rfl, rfl, ⟨by decide, rfl⟩, by decide, by decide,
    by decide, by decide, by decide⟩
theorem witness_Interrupts_check : demoCtx.wait = none ∧ Cause.machineCheck ∉ demoCtx.asyncs := ⟨rfl, by decide⟩
/-- A context that the leaf holds with a firmware call, or a BREAK. -/
def called (k : Cause) (n p : Word) (x : Ctx) : Ctx :=
  { (x.setReg 4 n).setReg 5 p with run := .leaf, dbgctl := 2, leafTrap := some ⟨.dplus, k, 0x40, 0, [], []⟩ }
theorem witness_Interrupts_leaf : ∀ p ∈ [(Cause.firmwareCall, (0 : Word), (0 : Word)), (.firmwareCall, 1, 20), (.firmwareCall, 1, 40), (.firmwareCall, 1, 41),
      (.firmwareCall, 2, 0), (.firmwareCall, 3, 0), (.firmwareCall, 4, 0), (.brk, 0, 0), (.illegalOp, 0, 0)],
    ∃ x r, (demoWith (called p.1 p.2.1 p.2.2)).ctx? 0 0 = some x ∧ x.run = .leaf ∧ x.leafTrap = some r ∧ r.cause = p.1 ∧ x.regs.get 4 = p.2.1 ∧
      x.regs.get 5 = p.2.2 ∧ x.dbgctl.getLsbD 1 = true := fun _ _ =>
  ⟨_, _, rfl, rfl, rfl, rfl, rfl, rfl, show (2#32).getLsbD 1 = true from rfl⟩
/-- The save area of `restoreState`, which tile 0 wrote for number 5; and a context of the leaf's that its unbinding leaves as it is. -/
theorem saved_area : (restoreState []).savedAt 7 0x10000 = (some ((0 : TileNo).val, 5), 0) := by
  unfold State.savedAt
  rw [if_neg (by decide)]
  simp only [show (0x10000 : Word).toNat = 0x10000 from rfl, area_total64, area_read]
  rw [show (areaHead ++ List.replicate 65496 0 ++ List.replicate 65536 0 : List Byte) = areaImage from rfl, area_valid]
  rw [show bits (areaDw areaImage 1) 0 32 = 7 by decide +kernel, show bits (areaDw areaImage 1) 32 9 = 0 by decide +kernel,
    show bits (areaDw areaImage 0) 32 16 = 5 by decide +kernel]
  rfl
theorem witness_Interrupts_unbind : (demoWith id).savedAt 7 0 = (none, 0) ∧ (restoreState []).savedAt 7 0x10000 = (some ((0 : TileNo).val, 5), 0) ∧
    (unbindAll 0 7 5 (restoreState [])).ctx? 0 0 = (restoreState []).ctx? 0 0 := ⟨by decide, saved_area, by decide +kernel⟩
/-- The saved context of that area is known, and an area of which one word cannot be read. -/
theorem witness_Interrupts_saved : ∃ g, ({ restoreState [] with saved := [{ resumable with num := 5 }] } : State).saved.find?
    (fun g => g.job == 7 && g.num == 5 && g.tile.val == (0 : TileNo).val) = some g := ⟨_, rfl⟩
theorem witness_Interrupts_cancel :
    (let s : State := { (List.finRange 48).foldl (fun s k => setCancel 7 k s) State.reset with jobs := [{ id := 7, ptbase := 0, tenant := 0, queue := 0 }] }
     ∃ j, s.job? 7 = some j ∧ s.cancelledAll 7 = true) := ⟨_, rfl, by decide +kernel⟩

/-- SHA-256 of the three bytes of "abc": the example of FIPS 180-4, which defines the digest that R447 names. -/
theorem test_sha_abc : beNat (sha256Fn.digest [0x61, 0x62, 0x63]) = 0xba7816bf8f01cfea414140de5dae2223b00361a396177a9cb410ff61f20015ad := by
  decide +kernel

/-! ### The outside -/

/-- A module that is ready with number 3 as its domain and one inbound entry, 5: the first 4096 bytes of job 7, which is mapped as in
`jobState`. -/
def peerState (e : InWin) (f : State → State) : State := f { jobState 0 [] with domain := 3, inWin := [(5, e)] }
def openWin : InWin := { v := true, r := true, w := true, c := true, anysrc := true, job := 7, base := 0, size := 4096 }
def loopMsg (op : MsgOp) (st : MsgState) : Msg :=
  { id := 9, tile := 0, job := 7, num := 1, chain := none, win := 0, dev := 3, inb := 5, off := 64, op, addr := 0, stamp := none, state := st }
def peerInput (l : List Nat) : Input := { State.reset.input with who := 4, addr := 64, size := 8, nums := l }
theorem witness_Peers_local : ∀ st ∈ [MsgState.going, .held],
    (let s := peerState openWin fun s => { s with msgs := [loopMsg (.write [1, 2]) st] }
     let m := loopMsg (.write [1, 2]) st
     m.dev = s.domain ∧ msgBehind s m = false ∧ behindPosts s m = false ∧ s.msgs[0]? = some m ∧ entryOk (s.inw 5) ⟨3, 7, 5, 64, m.op, 0, none, []⟩ = true ∧
     (s.inw 5).kind = 0 ∧ targetOf s (s.inw 5) ⟨3, 7, 5, 64, m.op, 0, none, []⟩ = .at [(64, false), (65, false)]) ∧
    (let s := peerState { openWin with arrk := 1 } id
     entryOk (s.inw 5) ⟨3, 7, 5, 64, .write [1, 2], 0, none, []⟩ = true ∧ heldAtEntry s (s.inw 5) (.write [1, 2]) = true) ∧
    entryOk ((peerState { openWin with w := false } id).inw 5) ⟨3, 7, 5, 64, .write [1, 2], 0, none, []⟩ = false := by decide
theorem witness_Peers_remote : ∃ v s1, (inputOp (peerInput [5, 7, 0])).sane = true ∧ (peerInput [5, 7, 0]).who ≠ (peerState openWin id).domain ∧
    Runs (receive ⟨4, 7, 5, 64, inputOp (peerInput [5, 7, 0]), 0, none, []⟩) (peerState openWin fun s => { s with input := peerInput [5, 7, 0] }) v s1 :=
  ⟨_, _, by decide, by decide, rfl⟩
/-- Messages of a dealer, of a LOAD and of a STORE that waits for its answers. -/
def sent (op : MsgOp) (st : MsgState) (ch : Option (ChainNo × Nat × Nat)) : Msg := { loopMsg op st with chain := ch, count := 2 }
def sentState (m : Msg) (strict : Bool) : State :=
  { demoWith fun x => { x with chains := x.chains.set 1 { state := .running, seq := 1, queue := [{ block (.store (storeBody false)) true with cap := { strict } }] } }
    with domain := 3, msgs := [m] }
theorem witness_Peers_ack : ∀ ch ∈ [none, some ((1 : ChainNo), 0, 2)], ∀ op ∈ [MsgOp.read 8, .write [1, 2]],
    ∀ st ∈ [MsgState.done [1, 2] 0 0 [] 0, .refused, .lost], ∀ b ∈ [true, false],
    (let m := sent op st ch
     let s := sentState m b
     s.msgs[0]? = some m ∧ ackBehind s m = false ∧ (st ≠ .lost → msgAnswer s m = some st) ∧
     (∃ x, s.whereCtx 0 7 1 = some x ∧ (dropMsg 9 (chargePayload m 2 (returnFlits 3 0 2 s))).whereCtx 0 7 1 = some x ∧ blockStrict x 1 0 = b ∧
       (countAck 1 0 false m.count (addEvents 0 0 (if b = true then x else addDrops 0 x))).2 = [] ∧ (countLost 1 0 2 m.count x).2 = [])) := by
  intro ch hc op ho st hs b hb
  simp only [List.mem_cons, List.not_mem_nil, or_false] at hc ho hs hb
  rcases hc with rfl | rfl <;> rcases ho with rfl | rfl <;> rcases hs with rfl | rfl | rfl <;> rcases hb with rfl | rfl <;>
    exact ⟨rfl, rfl, by decide, _, rfl, rfl, rfl, rfl, rfl⟩
/-- A doorbell entry bound to semaphore 0 of the context in slot 0 of tile 0. -/
def doorbell : InWin := { openWin with arrk := 2, bound := true, bctx := 1 }
theorem witness_Peers_notice : ({ peerState openWin id with notices := [(4, 5, 64, 8, 1)] } : State).notices[0]? = some (4, 5, 64, 8, 1) ∧
    ((peerState openWin id).inw 5).kind = 0 ∧
    ((peerState doorbell id).inw 5).v = true ∧ ((peerState doorbell id).inw 5).bound = true ∧ ((peerState doorbell id).inw 5).kind = 2 ∧
    (∃ s1, Runs (applyArrival doorbell 5 1 true none) (peerState doorbell id) () s1) := ⟨by decide, by decide, by decide, by decide, by decide, _, rfl⟩

/-- Port 3, whose link retrains or not and which owes permits or not; a down link with a message and without permits. -/
def portState (re : Bool) (withheld : Nat) : State :=
  { State.reset with
    input := { State.reset.input with who := 3, value := 1 }
    ports := State.reset.ports.set 3 { retraining := re, chans := Vector.replicate 4 { withheld } } }
theorem witness_LinksAndShares_links : (portState false 0).input.who = (3 : Fin 18).val ∧ ((portState false 0).ports.get 3).retraining = false ∧
    ((portState true 0).ports.get 3).retraining = true ∧ (((portState false 0).ports.get 3).chans.get 0).withheld = 0 ∧
    (((portState false 2).ports.get 3).chans.get 0).withheld ≠ 0 ∧ (portState false 0).input.value ≠ 0 := by decide
def cmdState (flag : Bool) (l : Nat × List (List Byte) × Nat) : State :=
  { State.reset with
    input := { State.reset.input with who := 2, flag, bytes := List.replicate 64 7 }
    clusters := State.reset.clusters.set 2 { cmdDown := l } }
theorem witness_LinksAndShares_command : (cmdState false (8, [], 0)).input.bytes.length = 64 ∧ (cmdState false (8, [], 0)).input.who = (2 : Fin 48).val ∧
    ((cmdState false (8, [], 0)).clusters.get 2).cmdDown.1 ≠ 0 ∧ ((cmdState true (7, [[1]], 1)).clusters.get 2).cmdDown.2.1 = [1] :: [] ∧
    (∀ n ∈ [7, 8], (cmdState false (n, [], 4095)).input.flag = false ∧ ((cmdState false (n, [], 4095)).clusters.get 2).cmdDown.1 ≠ 0 ∧
      ((cmdState false (n, [], 4095)).clusters.get 2).cmdDown.2.2 = 4095) := by decide
/-- A router with subnetwork 1 on or off, whose subnetwork 0 or 1 reports an occupancy since cycle 0. -/
def routed (on : Bool) (k : Fin 4) (l : Nat) (x : Tile) : Tile := { x with subs := x.subs.set 1 on, occ := x.occ.set k (l, 0) }
theorem witness_LinksAndShares_subnetworks :
    (let x := routed false 0 2 (State.reset.tile 0)
     x.subs.get 0 = true ∧ x.subs.get 1 = false ∧ (x.occ.get 0).1 = 2 ∧ (x.occ.get 0).2 + 256 ≤ 256) ∧
    (let x := routed true 1 0 (State.reset.tile 0)
     x.subs.get 1 = true ∧ (x.occ.get 1).1 = 0 ∧ (x.occ.get 1).2 + 4096 ≤ 4096) ∧
    (∀ k : Fin 4, ((routed true k 0 (State.reset.tile 0)).occ.get k).1 ≠ min 2 2) := by decide
theorem witness_LinksAndShares_shares : (State.reset.dies.get 0).period + 1024 ≤ ({ State.reset with now := 1024 } : State).now ∧
    (∃ s : State, ([0, 1] : List SlotNo).find? (mayLeave s 0) = some 0) ∧
    State.reset.input.nums = [] ∧ State.reset.input.value = (0 : Fin 4).val ∧ (1 : Fin 4).val = (0 : Fin 4).val + 1 ∧
    (∃ s', exec (.subnetworkPower 0 false) State.reset = .next s') ∧ (∃ k : Queue, k.due = some (5, 7)) :=
  ⟨by decide, ⟨demoWith (waiting (.port 0 1)), by decide⟩, rfl, rfl, rfl, ⟨_, rfl⟩, { due := some (5, 7) }, rfl⟩
def mxState (m : MxPower) (now : Nat) : State := { State.reset.setTile 0 { State.reset.tile 0 with mx := m } with now }
theorem witness_LinksAndShares_power :
    (let s := mxState { state := .ramp, since := 0 } 48
     (s.tile 0).mx.state = .ramp ∧ (s.tile 0).mx.since + 48 ≤ s.now) ∧
    (let s := mxState { state := .full } 64
     let z := settleHold 0 s
     (z.tile 0).mx.state = .full ∧ (z.tile 0).mx.hold ≤ s.now ∧ max (max (z.tile 0).mx.idle (z.tile 0).mx.hold) (z.tile 0).mx.since + 64 ≤ s.now ∧
       ((z.tile 0).slots.toList.all fun o => o.all fun x => !x.matBusy) = true) ∧
    (let s := mxState { state := .full, hold := 64 } 64
     (s.tile 0).mx.hold ≠ 0 ∧ (s.tile 0).mx.hold ≤ s.now) ∧
    (let s : State := { State.reset with ready := true, mode := .full, req := .economy }
     s.ready = true ∧ s.frameT = s.time ∧ slowerOf s.req s.limit ≠ s.mode ∧ s.input.value ≤ 3960000) := by decide

/-- Numbers at byte offsets, as one number. -/
def fields (l : List (Nat × Nat)) : Nat := l.foldl (fun n p => n + p.2 * 2 ^ (8 * p.1)) 0
/-- The launch descriptor of one tile, tile 0, and the body of a LAUNCH of one record at 0x20000 with its grid word at 0x10000. -/
def descOne : Nat := fields [(0, 0x22), (20, 0x10000)]
def launchOne (desc : Nat) : Nat := fields [(0, 0x201), (24, desc), (48, 0x10000), (56, 1), (64, 0x20000)]
/-- The header of a model image, whose descriptor is at 0x80. -/
def modelHead : Nat := fields [(0, 0x201), (24, 0x80), (56, 1)]
/-- A module that is ready, with queue 1 of job 7 in physical memory at 0x3000, the packet there, the page table of `jobState`, a
descriptor at 0x5000, and a model image at 0x8000; slot 0 holds the state m. -/
def frontState (raw : Nat) (m : SlotState) : State :=
  let k : Queue := { base := 0x3000, logsz := 4, space := 2, en := true, job := 7, ptroot := 0x1000, tail := 2 }
  let put (a n v : Nat) (c : List Host.Cell) : List Host.Cell := cellsWrite c a (natLe n v)
  { State.reset with
    ready := true, queues := State.reset.queues.set 1 k, input := { State.reset.input with addr := 0x200000 }
    mem := put 0x8080 64 descOne (put 0x8000 128 modelHead (put 0x5000 64 descOne (put 0x3000 128 raw [(0x1000, 0x1F)])))
    models := State.reset.models.set 0 { state := m, job := 7, pbase := 0x8000, bytes := 192 } }
/-- The packet of the queue. -/
def offered (raw : Nat) : Packet := ⟨raw, 0⟩
theorem offers (raw : Nat) (m : SlotState) (h : nextPacket (frontState raw m) ((frontState raw m).queue 1) = some (offered raw))
    (w : takeFault ((frontState raw m).queue 1) (offered raw) = none) : Offers (frontState raw m) 1 (offered raw) :=
  ⟨rfl, ⟨nofun, rfl⟩, h, w, .inr rfl, readable _ rfl⟩
def queueOne : Queue := (frontState 0 .free).queue 1
/-- WRAP; COPY of no byte, and of 4 bytes from 0x5000 to 0x6000, in the queue's space or with PHYS; SIGNAL, plain or adding; WAIT; INDIRECT of one entry;
BARRIER; LAUNCH with a descriptor and without one; INVOKE without buffers and with 17; LOAD_MODEL as an unload and as a load. -/
theorem witness_FrontEnd_packets : ∀ raw ∈ [fields [(0, 0x100)], fields [(0, 0x103)], fields [(0, 0x103), (16, 0x5000), (24, 0x6000), (32, 4)],
      fields [(0, 0x103), (16, 0x5000), (24, 0x6000), (32, 4), (40, 1)], fields [(0, 0x104), (16, 0x6000), (24, 5)],
      fields [(0, 0x104), (16, 0x6000), (24, 5), (32, 1)], fields [(0, 0x105), (16, 0x6000), (24, 5)], fields [(0, 0x106), (16, 0x6000), (24, 1)],
      fields [(0, 0x108)], launchOne 0x5000, launchOne 0x7000, fields [(0, 0x102), (32, 0x10000), (40, 0x20000)],
      fields [(0, 0x102), (16, 17 * 256), (32, 0x10000), (40, 0x20000)], fields [(0, 0x107), (16, 64)], fields [(0, 0x107), (24, 0x8000), (32, 192)]],
    ∀ m ∈ [SlotState.free, .resident], Offers (frontState raw m) 1 (offered raw) ∧ ((frontState raw m).queue 1).stack = [] ∧
      ((frontState raw m).queue 1).started = [] ∧ loadDue ((frontState raw m).queue 1) = none := by
  have h : ∀ raw ∈ [fields [(0, 0x100)], fields [(0, 0x103)], fields [(0, 0x103), (16, 0x5000), (24, 0x6000), (32, 4)],
      fields [(0, 0x103), (16, 0x5000), (24, 0x6000), (32, 4), (40, 1)], fields [(0, 0x104), (16, 0x6000), (24, 5)],
      fields [(0, 0x104), (16, 0x6000), (24, 5), (32, 1)], fields [(0, 0x105), (16, 0x6000), (24, 5)], fields [(0, 0x106), (16, 0x6000), (24, 1)],
      fields [(0, 0x108)], launchOne 0x5000, launchOne 0x7000, fields [(0, 0x102), (32, 0x10000), (40, 0x20000)],
      fields [(0, 0x102), (16, 17 * 256), (32, 0x10000), (40, 0x20000)], fields [(0, 0x107), (16, 64)], fields [(0, 0x107), (24, 0x8000), (32, 192)]],
    ∀ m ∈ [SlotState.free, .resident], nextPacket (frontState raw m) ((frontState raw m).queue 1) = some (offered raw) ∧
      takeFault ((frontState raw m).queue 1) (offered raw) = none := by decide +kernel
  exact fun raw hr m hm => ⟨offers raw m (h raw hr m hm).1 (h raw hr m hm).2, rfl, rfl, rfl⟩
/-- What the accesses of a COPY, a SIGNAL and a WAIT need. -/
def waitOf (v : Word) : QWait := ⟨⟨5, 0, false, 0, none, none, none, false, none⟩, 0x6000, v, false⟩
def waitState (v : Word) : State := (frontState 0 .free).modQueue 1 fun k => { k with wait := some (waitOf v) }
theorem witness_FrontEnd_places : ((bytesVia (frontState 0 .free) (physAt (frontState 0 .free)) 0x5000 4).bind fun bs =>
      writeVia (physAt (frontState 0 .free)) 0x6000 bs (frontState 0 .free)).isSome = true ∧
    queueAt (frontState 0 .free) queueOne 0x6000 true = some 0x6000 ∧ (frontState 0 .free).pushing queueOne = false := by decide +kernel
theorem witness_FrontEnd_wait (v : Word) : ((waitState v).queue 1).wait = some (waitOf v) ∧ (waitState v).input.flag = false ∧
    queueAt (waitState v) ((waitState v).queue 1) (waitOf v).addr false = some 0x6000 := ⟨rfl, rfl, rfl⟩
/-- The value there, 0, meets the condition of a WAIT for 0, and not that of one for 5. -/
theorem witness_FrontEnd_seen : readNat (waitState 0) 0x6000 8 = (waitOf 0).value.toNat ∧ readNat (waitState 5) 0x6000 8 ≠ (waitOf 5).value.toNat := by
  decide +kernel
/-- The state after the LAUNCH, or the INVOKE, has been taken. -/
def taken (raw : Nat) : State :=
  ((frontState raw .resident).modQueue 1 (·.advance (offered raw))).modQueue 1 fun z => { z with
    parents := if z.stack.isEmpty then z.parents.filter (·.1 != 0) else z.parents }
theorem witness_FrontEnd_launch :
    (∃ s3, ((readDesc (bytesVia (taken (launchOne 0x5000)) (queueAt (taken (launchOne 0x5000)) queueOne · false)) 0x5000).bind fun d =>
      launchGrid 1 queueOne (launchBody (offered (launchOne 0x5000))) d (Vector.replicate 16 0) 0 (taken (launchOne 0x5000))) = some s3) ∧
    readDesc (bytesVia (taken (launchOne 0x7000)) (queueAt (taken (launchOne 0x7000)) queueOne · false)) 0x7000 = none :=
  ⟨Option.isSome_iff_exists.mp (by decide +kernel), by decide +kernel⟩
/-- The grid of the image at 0x8000, and the check of its copy at 0x200000. -/
def invokeOne : Nat := fields [(0, 0x102), (32, 0x10000), (40, 0x20000)]
theorem witness_FrontEnd_invoke : (List.range 0).mapM (fun j => natVia (taken invokeOne) (queueAt (taken invokeOne) queueOne · false) (8 * j) 8) = some [] ∧
    natVia (taken invokeOne) (physAt (taken invokeOne)) 0x8000 128 = some modelHead ∧
    ∃ s3, ((readDesc (bytesVia (taken invokeOne) (physAt (taken invokeOne))) 0x8080).bind fun d => launchGrid 1 queueOne
      { launchBody ⟨modelHead, 0⟩ with code := 0x8000, desc := 0x8080, frame := 0, grid := 0x10000, recbase := 0x20000, arg1 := 0 } d (Vector.replicate 16 0) 0
      (taken invokeOne)) = some s3 := ⟨rfl, by decide +kernel, Option.isSome_iff_exists.mp (by decide +kernel)⟩
/-- A LOAD_MODEL under way: an unload or a load of slot 0, before it has lock 1 or with it, and the image 0x200000 in its place. -/
def loadingState (unload locked : Bool) (m : SlotState) : State :=
  let s := (frontState 0 m).modQueue 1 fun k => { k with
    started := [{ type := 7, idx := 0, sigen := false, sig := 0, load := some { slot := 0, unload, image := 0x8000, bytes := 192, locked } }] }
  if locked then { s with models := s.models.set 0 { s.models.get 0 with pbase := 0x200000 } } else s
theorem witness_FrontEnd_load : ∀ u ∈ [true, false], ∀ l ∈ [true, false], (u && l) = false → ∀ m ∈ [SlotState.free, .resident, .loading],
    (let s := loadingState u l m
     loadDue (s.queue 1) = some (0, { slot := 0, unload := u, image := 0x8000, bytes := 192, locked := l }) ∧ s.input.who ≠ 2 ∧ s.input.flag = false ∧
     (s.hsems.get 1).owner = 0 ∧ (s.models.get 0).state = m ∧ (s.models.get 0).job = (s.queue 1).job ∧ (l = false → allottable s s.input.addr 192 = true)) := by
  decide
theorem witness_FrontEnd_image : ((bytesVia (loadingState false true .loading) (queueAt (loadingState false true .loading) queueOne · false) 0x8000 192).any
      fun bs => modelOk (writeBytes (loadingState false true .loading) 0x200000 bs) 0x200000) = true ∧
    modelOk (writeBytes (loadingState false true .loading) 0x200000 [0]) 0x200000 = false := by decide +kernel
theorem witness_FrontEnd_evicting : ((frontState 0 .evicting).models.get 0).state = .evicting ∧ ((frontState 0 .evicting).models.get 0).live = 0 := ⟨rfl, rfl⟩
/-- A COPY that has its status, with SIGEN and without. -/
def overPkt (g : Bool) : Pkt := ⟨3, 0, g, 0x6000, none, none, none, false, some 0⟩
theorem witness_FrontEnd_completion (g : Bool) :
    (((frontState 0 .free).modQueue 1 fun k => { k with started := [overPkt g] }).queue 1).started[0]? = some (overPkt g) ∧ (overPkt g).status = some 0 ∧
    (overPkt g).type ≠ 7 ∧ queueAt (frontState 0 .free) queueOne (overPkt g).sig true = some 0x6000 := ⟨rfl, rfl, nofun, rfl⟩

/-- A register access by port `who`; a halted queue 1. -/
def access (who addr size value : Nat) : State := { frontState 0 .free with input := { State.reset.input with who, addr, size, value } }
theorem witness_RegisterMap_queues : (∀ v ∈ [2, 16, 17], ∀ who ∈ [0, 2],
      (access who 0x10005C 4 v).input.addr = 0x100000 + 64 * (1 : Fin 256).val + 28 ∧
      ((access who 0x10005C 4 v).queue 1).head = 0 ∧ ((access who 0x10005C 4 v).queue 1).tail = 2 ∧ ((access who 0x10005C 4 v).queue 1).logsz < 16 ∧
      v < 4294967296 ∧ holdsLock (access who 0x10005C 4 v) who 0 = (who == 2)) ∧
    ((access 2 0x100048 4 128).input.addr = 0x100000 + 64 * (1 : Fin 256).val + 8 ∧ Nat.testBit 128 7 = true ∧ holdsLock (access 2 0x100048 4 128) 2 0 = true) ∧
    (((access 0 0x10005C 4 17).queue 1).size = 16) := by decide
theorem witness_RegisterMap_locks : (access 0 0x10018 8 0).input.addr = 0x10000 + 8 * (3 : Fin 16).val ∧
    ((access 0 3 8 0).hsems.get 3).owner = 0 ∧ (∃ h : HsemLock, h.owner.val = 0 + 1) ∧ (∀ b : Fin 2, ∃ h : HsemLock, h.toggle = b ∧ h.owner = 0) :=
  ⟨by decide, by decide, ⟨{ owner := 1 }, rfl⟩, fun b => ⟨{ toggle := b }, rfl, rfl⟩⟩
theorem witness_RegisterMap_writes : holdsLock (access 2 0x100 8 1) 2 2 = true ∧ modeOf (1 % 4) = some .balanced ∧ Nat.mod 3 4 = 3 ∧
    (access 0 0x140010 8 5).input.addr = 0x140000 + 16 * (1 : Fin 256).val ∧ holdsLock (access 0 0x140010 8 5) 0 0 = false ∧
    writeRow 0x140010 8 5 = .plain ∧ (∃ s1, Runs (regWrite 0 0x140010 8 5) (access 0 0x140010 8 5) () s1) :=
  ⟨by decide, rfl, rfl, by decide, by decide, by decide, _, rfl⟩
theorem witness_RegisterMap_width : ¬(((access 1 0xFC00010000 1 0).input.size = 4 ∨ (access 1 0xFC00010000 1 0).input.size = 8) ∧
    (access 1 0xFC00010000 1 0).input.addr % (access 1 0xFC00010000 1 0).input.size = 0) := by decide
theorem witness_RegisterMap_aperture : (access 1 0x6038 8 0).input.who < 2 ∧ onMap (access 1 0x6038 8 0).input.addr = true ∧
    (access 1 0x6038 8 0).input.addr % 64 + (access 1 0x6038 8 0).input.size ≤ 64 ∧ (∀ j, j < 8 → (access 1 0x6038 8 0).carveAt (0x6038 + j) = none) ∧
    (access 1 0x6038 8 0).Readable ∧ (access 1 0x6038 8 0).MemOk :=
  ⟨by decide, by decide, by decide, fun _ _ => rfl, readable _ rfl, show Memory.wf (access 1 0x6038 8 0).mem = true by decide +kernel⟩
/-- The banker writes a doubleword of the region of die 2, POOL of that die, or cancels job 7; a leaf reaches its part of the map. -/
theorem witness_RegisterMap_banker : (access 2 0x1200008 8 5).input.addr = 0x1000000 + 0x100000 * (2 : Fin 8).val + 8 * 1 ∧
    ({ (access 2 0 8 5).input with nums := [3, (2 : Fin 8).val, 400, 100] } : Input).nums = [3, 2, 400, 100] ∧
    ((jobState 0 []).job? 7).isSome = true ∧ (access 2 0x1200008 8 5).input.nums = [] ∧
    writeRow 0x2000000 8 5 = .plain ∧ (∃ s1, Runs (regWrite 3 0x2000000 8 5) (access 3 0x2000000 8 5) () s1) ∧
    isHbm (access 2 0x6038 8 0).input.addr = true := ⟨by decide, by decide, by decide, by decide, by decide, ⟨_, rfl⟩, by decide⟩
/-- The debug port at the register map. -/
theorem witness_RegisterMap_port : (access 0 0x140010 8 5).input.addr % 8 = 0 ∧
    (∃ s1, Runs (regWrite 2 0x140010 8 (5 % 2 ^ (8 * 8))) (access 0 0x140010 8 5) () s1) ∧
    (∃ v s1, Runs (regRead 2 0x140010 8) (access 0 0x140010 8 5) v s1) := ⟨by decide, ⟨_, rfl⟩, _, _, rfl⟩
/-- A context that is held for the debug port, and a read of its g5. -/
def debugged (nums : List Nat) : State :=
  { demoWith (fun x => { x with run := .debug, leafTrap := some ⟨.dplus, .brk, 0x40, 0, [], []⟩ }) with input := { State.reset.input with who := 2, nums } }
theorem witness_RegisterMap_debug : ∃ x r, (debugged [0, 0, 0, 5]).ctx? 0 0 = some x ∧ (debugged [0, 0, 6, 0]).ctx? 0 0 = some x ∧ x.run = .debug ∧
    x.leafTrap = some r ∧ (debugged [0, 0, 0, 5]).input.nums = [(0 : TileNo).val, (0 : SlotNo).val, 0, (5 : Fin 48).val] :=
  ⟨_, _, rfl, rfl, rfl, rfl, by decide⟩
/-- Lock 4 of the banker, and an image without a header, which fails its check. -/
theorem witness_RegisterMap_image : ∃ s : State, s.input.who = 2 ∧ s.input.addr + s.input.size ≤ 67108864 ∧ (s.hsems.get 4).owner.val = 2 + 1 ∧
    imageOk s (cellsRead s.mem (mailAt s.input.addr) s.input.size) = false ∧ s.input.value < 48 :=
  ⟨{ access 2 0 4 47 with hsems := (access 2 0 4 47).hsems.set 4 { owner := 3 } }, rfl, by decide, rfl, rfl, by decide⟩

theorem witness_ResetsAndTicks : State.reset.MemOk ∧ (access 1 0 0 0).input.who = (1 : Fin 2).val ∧ (State.reset.boot = 0 ∧ State.reset.bootFail = false) ∧
    (∀ n ∈ [2, 3, 5], ({ State.reset with boot := n, now := 2048 } : State).boot = n ∧
      ({ State.reset with boot := n, now := 2048 } : State).frameAt + 2048 ≤ ({ State.reset with boot := n, now := 2048 } : State).now) ∧
    (isHbm (clPoolAt 0 0) = false ∧ clPoolAt 0 0 < mailAt 0 ∧ codeWord (clPoolAt 0 0) ∉ State.reset.poison) ∧ isHbm (access 0 0x6000 0 0).input.addr = true ∧
    ((takeTemps [] State.reset).above 110 = true ∨ State.reset.input.value < 20) ∧ State.reset.input.flag = false ∧ imageOk State.reset [] = false ∧
    (∀ d : Fin 8, ({ State.reset.input with addr := 0x10 + d.val } : Input).addr = 0x10 + d.val) :=
  ⟨rfl, by decide, ⟨rfl, rfl⟩, fun _ _ => ⟨rfl, show 0 + 2048 ≤ 2048 by decide⟩, by decide, by decide, by decide, rfl, rfl, fun _ => rfl⟩
/-- A frame tick that is due, with a timetabled record that holds it back or without one. -/
def dueState (held : Bool) : State :=
  { jobState 0 [] with
    now := 2048, jobs := [{ id := 7, ptbase := 0x1000, tenant := 0, queue := 0, timed := true, pushed := if held then [0x2000] else [] }] }
theorem witness_ResetsAndTicks_frame : (∀ b ∈ [true, false], (dueState b).frameAt + 2048 ≤ (dueState b).now) ∧ holders (dueState false) = [] := by decide
/-- The tick of the bring-up: it comes with the step or has just come, and its readings trip the clocks or not. -/
theorem witness_ResetsAndTicks_ready : ∀ d ∈ [true, false], ∀ f ∈ [10, 30],
    (let s : State := { State.reset with boot := 5, now := if d then 2048 else 0, frame := 1, flow := f }
     s.boot = 5 ∧ decide (s.frameAt + 2048 ≤ s.now) = d ∧ (d = true ∨ (s.frame ≠ 0 ∧ s.frameT = s.time)) ∧
     (s.tripped || (d && ((takeTemps s.input.nums s).above 110 || decide ((takeTemps s.input.nums s).flow < 20)))) = (d && decide (f = 10))) := by
  decide
theorem witness_ResetsAndTicks_cache : ∀ n ∈ [1, 2], ((access 1 0x6000 n 0).input.size = 1 ∨ (access 1 0x6000 n 0).input.size = 2) ∧
    (access 1 0x6000 n 0).input.who = (1 : TileNo).val := by decide
theorem witness_ResetsAndTicks_held : holders (dueState true) ≠ [] := by decide
theorem witness_ResetsAndTicks_thermal : ∃ (s : State) (n : Nat), s.coolAt = some n ∧ s.limit ≠ .full ∧ n + 198000000000 ≤ s.time :=
  ⟨{ State.reset with coolAt := some 0, limit := .economy, time := 198000000000 }, 0, rfl, nofun, by decide⟩
theorem witness_ResetsAndTicks_tripped : ∃ (s : State) (i : Instr), s.tripped = true ∧ isReset i = false ∧ isReset .coldReset = true ∧
    s.agenda = .event i s.input :: [] :=
  ⟨{ State.reset with tripped := true, agenda := [.event .frameTick State.reset.input] }, .frameTick, rfl, rfl, rfl, rfl⟩

end Sys2Proof.Tests
end

section
/-!
PROOFS. The precise faults of jumps, of loads and stores, and of the pool instructions: each proof follows the instruction's checks up to the one
that fails, and `dealer_trap` turns that into the trap of the step.
-/
namespace Sys2Proof.Machine
open Sys2Proof

/-! ## Checks that pass and checks that fail -/

/-- A check that holds leaves the rest of the effect. -/
theorem check_bind_ok {α : Type} {b : Bool} (h : b = true) (c : Cause) (v : Word) (f : Unit → M α) (s : State) :
    (check b c v >>= f) s = f () s := by
  subst h
  exact bind_ok _ _ _ _ _ (check_true c v s)
/-- A check that fails ends the effect with its cause, and nothing is done. -/
theorem check_bind_fail {α : Type} {b : Bool} (h : b = false) (c : Cause) (v : Word) (f : Unit → M α) (s : State) :
    (check b c v >>= f) s = .error (.trap c v ⟨0, [], s.free, s.reqs⟩) := by
  subst h
  exact bind_error _ _ _ _ (check_false c v s)

/-- An effect that begins with a readable a operand goes on with its value. -/
theorem readA_bind {α : Type} {s : State} {x : Ctx} {r : Src} {v : Word} (hr : Ready s x) (hv : Reads s x r v) (f : Word → M α) :
    (readA r >>= f) s = f v s := bind_ok _ _ _ _ _ (readA_run s x r v hr.here hv)
/-- So does one that reads a further operand. -/
theorem readC_bind {α : Type} {s : State} {x : Ctx} {r : Src} {a v : Word} (hr : Ready s x) (hv : Reads s x r v) (f : Word → M α) :
    (readC r a >>= f) s = f v s := bind_ok _ _ _ _ _ (readC_run s x r a v hr.here hv)
/-- The context of the acting dealer is at hand. -/
theorem myCtx_bind {α : Type} {s : State} {x : Ctx} (hr : Ready s x) (f : Ctx → M α) : (myCtx >>= f) s = f x s :=
  bind_ok _ _ _ _ _ (myCtx_run s x hr.here)
theorem me_bind {α : Type} (f : TileNo × SlotNo → M α) (s : State) : (me >>= f) s = f (s.cur, s.mySlot) s := bind_ok _ _ _ _ _ (me_run s)
theorem getCtx_bind {α : Type} {s : State} {x : Ctx} (hr : Ready s x) (f : Ctx → M α) : (getCtx s.cur s.mySlot >>= f) s = f x s :=
  bind_ok _ _ _ _ _ (getCtx_run _ _ s x hr.here)

/-! ## Jumps (R118) -/

/-- A jump to a misaligned target ends at its check. -/
theorem jumpCheck_bind_misaligned {α : Type} {u : Word} (hu : u.toNat % 4 ≠ 0) (f : Unit → M α) (s : State) :
    (jumpCheck u >>= f) s = .error (.trap .misalignedFetch u ⟨0, [], s.free, s.reqs⟩) :=
  check_bind_fail (by simpa using hu) _ _ f s

/-- Settles O15: each of the three jumps checks its target before it does anything. -/
theorem misalignedJumps : Obligations.MisalignedJumps := by
  intro s x h e a u hr hg ha hu
  refine ⟨?_, ?_⟩
  · intro i hi
    simp only [List.mem_cons, List.not_mem_nil, or_false] at hi
    rcases hi with rfl | rfl
    · exact dealer_trap _ _ _ _ _ _ _ _ _ hr hg ((readA_bind hr ha _).trans (jumpCheck_bind_misaligned hu _ _))
    · exact dealer_trap _ _ _ _ _ _ _ _ _ hr hg ((readA_bind hr ha _).trans (jumpCheck_bind_misaligned hu _ _))
  · rintro rfl
    exact dealer_trap _ _ _ _ _ _ _ _ _ hr hg ((myCtx_bind hr _).trans (jumpCheck_bind_misaligned hu _ _))

/-! ## Loads and stores (R106) -/

/-- Steps 1 to 3 of R106: the checks of an access, then its place. -/
def checkedPlace (t : TileNo) (x : Ctx) (a : Word) (n : Nat) (write : Bool) : M Place := do
  accessChecks a n
  resolve t x a n write

theorem checkedPlace_badSpace {a : Word} (h : spaceOk a = false) (t : TileNo) (x : Ctx) (n : Nat) (w : Bool) (s : State) :
    checkedPlace t x a n w s = .error (.trap .addressSpace a ⟨0, [], s.free, s.reqs⟩) :=
  bind_error _ _ _ _ (check_bind_fail h _ _ _ s)
/-- Steps 1 and 2 pass for an aligned address of a space. -/
theorem accessChecks_ok {a : Word} {n : Nat} (h : spaceOk a = true) (ha : a.toNat % n = 0) (s : State) : accessChecks a n s = .ok ((), s) :=
  (check_bind_ok h _ _ _ s).trans (by rw [ha]; rfl)
theorem checkedPlace_misaligned {a : Word} {n : Nat} (h : spaceOk a = true) (ha : a.toNat % n ≠ 0) (t : TileNo) (x : Ctx) (w : Bool) (s : State) :
    checkedPlace t x a n w s = .error (.trap .misalignedData a ⟨0, [], s.free, s.reqs⟩) :=
  bind_error _ _ _ _ ((check_bind_ok h _ _ _ s).trans (by rw [beq_false_of_ne ha]; rfl))
/-- An address of the own scratchpad past the context's bytes, or on a deck ring, has no place (R105, R318). -/
theorem checkedPlace_outOfPool {a : Word} {n : Nat} {t : TileNo} {x : Ctx} {s : State} (h : spaceOk a = true) (ha : a.toNat % n = 0)
    (hp : spaceOf a = 8) (hf : padBytes x.partw < offOf a + n ∨ hitsDeck (s.tile t) (offOf a) n = true) (w : Bool) :
    checkedPlace t x a n w s = .error (.trap .outOfPool a ⟨0, [], s.free, s.reqs⟩) := by
  refine (bind_ok _ _ _ _ _ (accessChecks_ok h ha s)).trans ?_
  unfold resolve
  simp only [hp]
  by_cases hb : padBytes x.partw < offOf a + n
  · exact check_bind_fail (by simpa using hb) _ _ _ s
  · refine (check_bind_ok (by simpa using hb) _ _ _ s).trans ((bind_ok _ _ _ _ _ (see_run _ s)).trans ?_)
    exact check_bind_fail (by simpa [hb] using hf) _ _ _ s

/-- Where the place of an access fails, so does what goes on with it. -/
theorem checkedPlace_bind_error {α β : Type} {t : TileNo} {x : Ctx} {a : Word} {n : Nat} {w : Bool} {s : State} {e : Exit}
    (h : checkedPlace t x a n w s = .error e) {m : M α} (hm : ∃ f, m = resolve t x a n w >>= f) (g : α → M β) :
    (accessChecks a n >>= fun _ => m >>= g) s = .error e := by
  obtain ⟨f, rfl⟩ := hm
  have := bind_error _ g s e (bind_error _ f s e h)
  simpa only [checkedPlace, bind_assoc] using this
theorem loadAny_eq_resolve_bind (t : TileNo) (c : SlotNo) (x : Ctx) (a : Word) (n j : Nat) :
    ∃ f, loadAny t c x a n j = resolve t x a n false >>= f := ⟨_, rfl⟩
theorem storeAny_eq_resolve_bind (t : TileNo) (c : SlotNo) (x : Ctx) (a : Word) (n v j : Nat) :
    ∃ f, storeAny t c x a (natLe n v) j = resolve t x a n true >>= f := ⟨_, by unfold storeAny; rw [natLe_length]⟩

/-- A load whose place fails takes that cause. -/
theorem loadOp_trap {s : State} {x : Ctx} {h : Hd} {a : Src} {u : Word} {m : Option (Fin 7)} {o : BitVec 4} {n : Nat} {c : Cause}
    (hr : Ready s x) (hg : x.pred h.guard = true) (ha : Reads s x a u)
    (hf : ∀ w, checkedPlace s.cur x (memAddr u m o n) n w s = .error (.trap c (memAddr u m o n) ⟨0, [], s.free, s.reqs⟩))
    (d : Dst) (f : Nat → Word) : loadOp h d a m o n f s = .next (preciseTrap s x c (memAddr u m o n)) :=
  dealer_trap _ _ _ _ _ _ _ _ _ hr hg <|
    (readA_bind hr ha _).trans <| (me_bind _ s).trans <| (getCtx_bind hr _).trans <| checkedPlace_bind_error (hf false) (loadAny_eq_resolve_bind ..) _

/-- A store whose place fails takes that cause. -/
theorem storeOp_trap {s : State} {x : Ctx} {h : Hd} {v a : Src} {u y : Word} {m : Option (Fin 7)} {o : BitVec 4} {n : Nat} {c : Cause}
    (hr : Ready s x) (hg : x.pred h.guard = true) (ha : Reads s x a u) (hv : Reads s x v y)
    (hf : ∀ w, checkedPlace s.cur x (memAddr u m o n) n w s = .error (.trap c (memAddr u m o n) ⟨0, [], s.free, s.reqs⟩)) :
    storeOp h v a m o n s = .next (preciseTrap s x c (memAddr u m o n)) :=
  dealer_trap _ _ _ _ _ _ _ _ _ hr hg <|
    (readA_bind hr ha _).trans <| (readC_bind hr hv _).trans <| (me_bind _ s).trans <| (getCtx_bind hr _).trans <| checkedPlace_bind_error (hf true) (storeAny_eq_resolve_bind ..) _

/-- Settles O28: the causes in the order of R106, then each load and store as one that takes the cause of its place. -/
theorem accessFaults : Obligations.AccessFaults := by
  intro s x h d v a m o u y hr hg ha hv p hp
  have key : ∀ c, (∀ w, checkedPlace s.cur x (memAddr u m o p.2) p.2 w s = .error (.trap c (memAddr u m o p.2) ⟨0, [], s.free, s.reqs⟩)) →
      exec p.1 s = .next (preciseTrap s x c (memAddr u m o p.2)) := by
    intro c hf
    simp only [List.mem_cons, List.not_mem_nil, or_false] at hp
    rcases hp with rfl | rfl | rfl | rfl | rfl | rfl | rfl | rfl | rfl | rfl | rfl
    · show execLbu h d a m o s = _; exact loadOp_trap hr hg ha hf d _
    · show execLb h d a m o s = _; exact loadOp_trap hr hg ha hf d _
    · show execLhu h d a m o s = _; exact loadOp_trap hr hg ha hf d _
    · show execLh h d a m o s = _; exact loadOp_trap hr hg ha hf d _
    · show execLwu h d a m o s = _; exact loadOp_trap hr hg ha hf d _
    · show execLw h d a m o s = _; exact loadOp_trap hr hg ha hf d _
    · show execLd h d a m o s = _; exact loadOp_trap hr hg ha hf d _
    · show execSb h v a m o s = _; exact storeOp_trap hr hg ha hv hf
    · show execSh h v a m o s = _; exact storeOp_trap hr hg ha hv hf
    · show execSw h v a m o s = _; exact storeOp_trap hr hg ha hv hf
    · show execSd h v a m o s = _; exact storeOp_trap hr hg ha hv hf
  refine ⟨fun hs => key _ fun w => ?_, fun hs hm => key _ fun w => ?_, fun hs hm hp hb => key _ fun w => ?_⟩
  · exact checkedPlace_badSpace hs _ _ _ w s
  · exact checkedPlace_misaligned hs hm _ _ w s
  · exact checkedPlace_outOfPool hs hm hp hb w

/-! ## Pool instructions (R144) -/

/-- A run word of a form that the instruction takes: no reserved bit, some unit, one unit where one is asked for, tiles where tiles are. -/
def runFits (v : Word) (one tiles : Bool) : Bool :=
  (runOf v).rest == 0 && (runOf v).count != 0 && (!one || (runOf v).count == 1) && (!tiles || (runOf v).acc)
/-- A run inside the partition. -/
def runInside (x : Ctx) (v : Word) : Prop :=
  (runOf v).first + (runOf v).count ≤ (if (runOf v).acc then accUnits x.partw else handUnits x.partw)

theorem runChecks_bind_reserved {α : Type} {v : Word} {one tiles : Bool} (h : runFits v one tiles = false) (x : Ctx) (f : Run → M α) (s : State) :
    (runChecks x v one tiles >>= f) s = .error (.trap .reservedField v ⟨0, [], s.free, s.reqs⟩) :=
  bind_error _ _ _ _ (check_bind_fail h _ _ _ s)
theorem runChecks_bind_outOfPool {α : Type} {v : Word} {one tiles : Bool} {x : Ctx} (h : runFits v one tiles = true) (hi : ¬ runInside x v)
    (f : Run → M α) (s : State) : (runChecks x v one tiles >>= f) s = .error (.trap .outOfPool v ⟨0, [], s.free, s.reqs⟩) :=
  bind_error _ _ _ _ ((check_bind_ok h _ _ _ s).trans (check_bind_fail (decide_eq_false (p := _ ≤ _) hi) _ _ _ s))
theorem runChecks_bind_ok {α : Type} {v : Word} {one tiles : Bool} {x : Ctx} (h : runFits v one tiles = true) (hi : runInside x v)
    (f : Run → M α) (s : State) : (runChecks x v one tiles >>= f) s = f (runOf v) s :=
  bind_ok _ _ _ _ _ ((check_bind_ok h _ _ _ s).trans (check_bind_ok (decide_eq_true (p := _ ≤ _) hi) _ _ _ s))

section
variable {s : State} {x : Ctx} {h : Hd} {a : Src} {u : Word} (hr : Ready s x) (hg : x.pred h.guard = true) (ha : Reads s x a u)
include hr hg ha

/-- The four pool instructions take the cause of their run checks. -/
theorem execClaim_runChecks_trap {c : Cause}
    (hf : ∀ f : Run → M Eff, (runChecks x u false false >>= f) s = .error (.trap c u ⟨0, [], s.free, s.reqs⟩)) :
    execClaim h a s = .next (preciseTrap s x c u) :=
  dealer_trap _ _ _ _ _ _ _ _ _ hr hg <| (readA_bind hr ha _).trans <| (me_bind _ s).trans <| (getCtx_bind hr _).trans <| hf _
theorem execRelease_runChecks_trap {c : Cause}
    (hf : ∀ f : Run → M Eff, (runChecks x u false false >>= f) s = .error (.trap c u ⟨0, [], s.free, s.reqs⟩)) :
    execRelease h a s = .next (preciseTrap s x c u) :=
  dealer_trap _ _ _ _ _ _ _ _ _ hr hg <| (readA_bind hr ha _).trans <| (myCtx_bind hr _).trans <| hf _
theorem execAclr_runChecks_trap {c : Cause}
    (hf : ∀ f : Run → M Eff, (runChecks x u false true >>= f) s = .error (.trap c u ⟨0, [], s.free, s.reqs⟩)) :
    execAclr h a s = .next (preciseTrap s x c u) :=
  dealer_trap _ _ _ _ _ _ _ _ _ hr hg <| (readA_bind hr ha _).trans <| (me_bind _ s).trans <| (getCtx_bind hr _).trans <| hf _
theorem execHstat_runChecks_trap {c : Cause} (d : Dst)
    (hf : ∀ f : Run → M Eff, (runChecks x u true false >>= f) s = .error (.trap c u ⟨0, [], s.free, s.reqs⟩)) :
    execHstat h d a s = .next (preciseTrap s x c u) :=
  dealer_trap _ _ _ _ _ _ _ _ _ hr hg <| (readA_bind hr ha _).trans <| (me_bind _ s).trans <| (getCtx_bind hr _).trans <| hf _

theorem execClaim_slotExhausted (hc : runFits u false false = true) (hi : runInside x u)
    (hy : ∃ y ∈ residents (s.tile s.cur), runTouched y (runOf u) = true) : execClaim h a s = .next (preciseTrap s x .slotExhausted u) := by
  refine dealer_trap _ _ _ _ _ _ _ _ _ hr hg <| (readA_bind hr ha _).trans <| (me_bind _ s).trans <| (getCtx_bind hr _).trans <|
    (runChecks_bind_ok hc hi _ s).trans <| (bind_ok _ _ _ _ _ (see_run _ s)).trans <| check_bind_fail ?_ _ _ _ s
  simpa using hy
theorem execRelease_slotNotHeld (hc : runFits u false false = true) (hi : runInside x u) (hh : runHeld x (runOf u) = false) :
    execRelease h a s = .next (preciseTrap s x .slotNotHeld u) :=
  dealer_trap _ _ _ _ _ _ _ _ _ hr hg <| (readA_bind hr ha _).trans <| (myCtx_bind hr _).trans <|
    (runChecks_bind_ok hc hi _ s).trans <| check_bind_fail hh _ _ _ s
theorem execRelease_waits (hc : runFits u false false = true) (hi : runInside x u) (hh : runHeld x (runOf u) = true)
    (hn : runNamed x (runOf u) = true) : execRelease h a s = .next (waits s h 1 none (.release u) s) := by
  refine dealer_wait _ _ _ _ _ _ _ _ _ hr hg ?_ hr.hbm hr.net
  refine (readA_bind hr ha _).trans <| (myCtx_bind hr _).trans <| (runChecks_bind_ok hc hi _ s).trans <| (check_bind_ok hh _ _ _ s).trans ?_
  rw [if_pos hn]
  rfl
theorem execAclr_slotNotHeld (hc : runFits u false true = true) (hi : runInside x u) (hh : runHeld x (runOf u) = false) :
    execAclr h a s = .next (preciseTrap s x .slotNotHeld u) :=
  dealer_trap _ _ _ _ _ _ _ _ _ hr hg <| (readA_bind hr ha _).trans <| (me_bind _ s).trans <| (getCtx_bind hr _).trans <|
    (runChecks_bind_ok hc hi _ s).trans <| check_bind_fail hh _ _ _ s
theorem execAclr_accConflict (hc : runFits u false true = true) (hi : runInside x u) (hh : runHeld x (runOf u) = true)
    (hn : runNamed x (runOf u) = true) : execAclr h a s = .next (preciseTrap s x .accConflict u) :=
  dealer_trap _ _ _ _ _ _ _ _ _ hr hg <| (readA_bind hr ha _).trans <| (me_bind _ s).trans <| (getCtx_bind hr _).trans <|
    (runChecks_bind_ok hc hi _ s).trans <| (check_bind_ok hh _ _ _ s).trans <| check_bind_fail (b := !runNamed x (runOf u)) (by rw [hn]; rfl) _ _ _ s

end

/-- Settles O32: the causes in the order of R144 and R145. -/
theorem poolFaults : Obligations.PoolFaults := by
  intro s x h d a u hr hg ha
  have fits : ∀ {one tiles}, (runOf u).rest = 0 ∧ (runOf u).count ≠ 0 → (one = true → (runOf u).count = 1) →
      (tiles = true → (runOf u).acc = true) → runFits u one tiles = true := by
    rintro (_ | _) (_ | _) ⟨h1, h2⟩ h3 h4 <;> simp_all [runFits]
  refine ⟨?_, ?_, ?_, ?_, ?_, ?_, ?_⟩
  · intro hf
    have bad : ∀ one tiles, runFits u one tiles = false := by
      intro one tiles
      simp only [not_and_or, not_not] at hf
      rcases hf with h0 | h0 <;> simp [runFits, h0]
    simp only [List.forall_mem_cons, List.not_mem_nil, false_implies, implies_true, and_true]
    exact ⟨execClaim_runChecks_trap hr hg ha fun f => runChecks_bind_reserved (bad _ _) x f s,
      execRelease_runChecks_trap hr hg ha fun f => runChecks_bind_reserved (bad _ _) x f s,
      execAclr_runChecks_trap hr hg ha fun f => runChecks_bind_reserved (bad _ _) x f s,
      execHstat_runChecks_trap hr hg ha d fun f => runChecks_bind_reserved (bad _ _) x f s⟩
  · intro _ hacc
    exact execAclr_runChecks_trap hr hg ha fun f => runChecks_bind_reserved (by simp [runFits, hacc]) x f s
  · intro _ hone
    exact execHstat_runChecks_trap hr hg ha d fun f => runChecks_bind_reserved (by simp [runFits, hone]) x f s
  · intro hf hi
    refine ⟨?_, fun hacc => ?_, fun hone => ?_⟩
    · simp only [List.forall_mem_cons, List.not_mem_nil, false_implies, implies_true, and_true]
      exact ⟨execClaim_runChecks_trap hr hg ha fun f => runChecks_bind_outOfPool (fits (one := false) (tiles := false) hf nofun nofun) hi f s,
        execRelease_runChecks_trap hr hg ha fun f => runChecks_bind_outOfPool (fits (one := false) (tiles := false) hf nofun nofun) hi f s⟩
    · exact execAclr_runChecks_trap hr hg ha fun f => runChecks_bind_outOfPool (fits (one := false) hf nofun fun _ => hacc) hi f s
    · exact execHstat_runChecks_trap hr hg ha d fun f => runChecks_bind_outOfPool (fits (tiles := false) hf (fun _ => hone) nofun) hi f s
  · intro hf hi hy
    exact execClaim_slotExhausted hr hg ha (fits (one := false) (tiles := false) hf nofun nofun) hi hy
  · intro hf hi hh
    exact ⟨execRelease_slotNotHeld hr hg ha (fits (one := false) (tiles := false) hf nofun nofun) hi hh,
      fun hacc => execAclr_slotNotHeld hr hg ha (fits (one := false) hf nofun fun _ => hacc) hi hh⟩
  · intro hf hi hh hn
    exact ⟨execRelease_waits hr hg ha (fits (one := false) (tiles := false) hf nofun nofun) hi hh hn,
      fun hacc => execAclr_accConflict hr hg ha (fits (one := false) hf nofun fun _ => hacc) hi hh hn⟩

end Sys2Proof.Machine
end

section
namespace Sys2Proof.Machine
open Sys2Proof

/-! ## What keeps memory canonical (O51)

The effects of the model are put together of a few parts: `pure`, `bind`, choices, folds, and updates of the state, of which only the
writes of bytes touch memory. So one lemma for every way to put effects together, and then one for every function of the model that a
step can reach, in the model's order: `Keeps.f` for an effect `f`, `State.MemOk.f` for an update of the state, `OptOk.f` for an update
that may have no result, `KeepsStep.f` for a whole step. Such a proof follows the function's definition, part for part.

The predicate `KeepsMem` of the model's laws unfolds to a run of the effect. `Keeps` holds it closed, so that a proof never evaluates
the effect that it speaks of. -/

/-- The effect leaves a canonical memory canonical. -/
structure Keeps {α : Type} (m : M α) : Prop where
  keepsMem : KeepsMem m

/-- A state that may be there is canonical where it is. -/
structure OptOk (o : Option State) : Prop where
  get : ∀ {s : State}, o = some s → s.MemOk

/-- The outcome of a run of an effect leaves memory canonical. -/
structure RunOk {α : Type} (r : Except Exit (α × State)) : Prop where
  memOk : match r with
    | .ok (_, t) => t.MemOk
    | .error (.wait _ t) => t.MemOk
    | .error (.send f) => ∀ u : State, u.MemOk → (f u).1.MemOk
    | .error _ => True

/-- A step that answers a next state leaves memory canonical. -/
def KeepsStep (f : State → Host.Outcome State Fault Refusal) : Prop := ∀ s t, s.MemOk → f s = .next t → t.MemOk

/-! ### States -/

theorem State.MemOk.ite {p : Prop} [Decidable p] {a b : State} (ha : a.MemOk) (hb : b.MemOk) : (if p then a else b).MemOk := by
  split
  · exact ha
  · exact hb
theorem State.MemOk.dite {p : Prop} [Decidable p] {a : p → State} {b : ¬p → State} (ha : ∀ h, (a h).MemOk)
    (hb : ∀ h, (b h).MemOk) : (if h : p then a h else b h).MemOk := by
  split
  · exact ha _
  · exact hb _
theorem State.MemOk.foldl {α : Type} {s : State} (h : s.MemOk) (l : List α) {f : State → α → State}
    (hf : ∀ (s : State) a, s.MemOk → (f s a).MemOk) : (l.foldl f s).MemOk := by
  induction l generalizing s with
  | nil => exact h
  | cons a l ih => exact ih (hf s a h)

/-- A fold over the contexts of some tiles. -/
theorem State.MemOk.foldSlots {s : State} (h : s.MemOk) (l : List TileNo) (m : List SlotNo) {f : State → TileNo → SlotNo → State}
    (hf : ∀ (s : State) t c, s.MemOk → (f s t c).MemOk) : (l.foldl (fun s t => m.foldl (fun s c => f s t c) s) s).MemOk :=
  .foldl h _ fun _ _ h => .foldl h _ fun _ _ h => hf _ _ _ h

/-! Fields that are no memory. Stated of a variable: over a computed state the kernel would compare its other fields. -/

theorem State.MemOk.withSaved {s : State} {l : List Saved} (h : s.MemOk) : ({ s with saved := l } : State).MemOk := h
theorem State.MemOk.withForms {s : State} {l m : List Saved} (h : s.MemOk) : ({ s with saved := l, forms := m } : State).MemOk := h
theorem State.MemOk.withQueues {s : State} {l : Vector Queue 256} (h : s.MemOk) : ({ s with queues := l } : State).MemOk := h
theorem State.MemOk.withPoison {s : State} {l : List Nat} (h : s.MemOk) : ({ s with poison := l } : State).MemOk := h

/-! ### States that may be there -/

theorem OptOk.none : OptOk none := ⟨fun e => by cases e⟩
theorem OptOk.some {s : State} (h : s.MemOk) : OptOk (some s) := ⟨fun e => Option.some.inj e ▸ h⟩
theorem OptOk.val {s : State} (h : OptOk (Option.some s)) : s.MemOk := h.get rfl
theorem OptOk.ite {p : Prop} [Decidable p] {a b : Option State} (ha : OptOk a) (hb : OptOk b) : OptOk (if p then a else b) := by
  split
  · exact ha
  · exact hb
theorem OptOk.bind {o : Option State} {f : State → Option State} (ho : OptOk o) (hf : ∀ s : State, s.MemOk → OptOk (f s)) :
    OptOk (o >>= f) := by
  cases o with
  | none => exact .none
  | some s => exact hf s ho.val
/-- The same where the first part is no state. -/
theorem OptOk.bind' {α : Type} {o : Option α} {f : α → Option State} (hf : ∀ a, OptOk (f a)) : OptOk (o >>= f) := by
  cases o with
  | none => exact .none
  | some a => exact hf a
theorem OptOk.iteBind {p : Prop} [Decidable p] {a b : Option State} {f : State → Option State} (ha : OptOk a) (hb : OptOk b)
    (hf : ∀ s : State, s.MemOk → OptOk (f s)) : OptOk (if p then a >>= f else b >>= f) := .ite (ha.bind hf) (hb.bind hf)
theorem OptOk.map {α : Type} {o : Option α} {f : α → State} (hf : ∀ a, (f a).MemOk) : OptOk (o.map f) := by
  cases o with
  | none => exact .none
  | some a => exact .some (hf a)
theorem OptOk.getD {o : Option State} {s : State} (ho : OptOk o) (h : s.MemOk) : (o.getD s).MemOk := by
  cases o with
  | none => exact h
  | some t => exact ho.val

/-! ### Effects: the ways to put them together -/

theorem Keeps.pure {α : Type} (a : α) : Keeps (pure a : M α) := ⟨.pure a⟩
theorem Keeps.bind {α β : Type} {m : M α} {f : α → M β} (hm : Keeps m) (hf : ∀ a, Keeps (f a)) : Keeps (m >>= f) :=
  ⟨hm.keepsMem.bind fun a => (hf a).keepsMem⟩
theorem Keeps.map {α β : Type} (f : α → β) {m : M α} (hm : Keeps m) : Keeps (f <$> m) := hm.bind fun _ => .pure _
theorem Keeps.ite {α : Type} {p : Prop} [Decidable p] {a b : M α} (ha : Keeps a) (hb : Keeps b) : Keeps (if p then a else b) := by
  split
  · exact ha
  · exact hb
theorem Keeps.dite {α : Type} {p : Prop} [Decidable p] {a : p → M α} {b : ¬p → M α} (ha : ∀ h, Keeps (a h))
    (hb : ∀ h, Keeps (b h)) : Keeps (if h : p then a h else b h) := by
  split
  · exact ha _
  · exact hb _
/-- A choice whose two branches go on in the same way. -/
theorem Keeps.iteBind {α β : Type} {p : Prop} [Decidable p] {a b : M α} {f : α → M β} (ha : Keeps a) (hb : Keeps b)
    (hf : ∀ v, Keeps (f v)) : Keeps (if p then a >>= f else b >>= f) := .ite (ha.bind hf) (hb.bind hf)
/-- An effect that only one branch has first. -/
theorem Keeps.iteThen {α : Type} {p : Prop} [Decidable p] {a : M Unit} {f : Unit → M α} (ha : Keeps a) (hf : ∀ v, Keeps (f v)) :
    Keeps (if p then a >>= f else f ()) := .ite (ha.bind hf) (hf ())
/-- A choice whose second branch is what the first goes on with. -/
theorem Keeps.iteElse {α : Type} {p : Prop} [Decidable p] {m r : M α} (hr : Keeps r) (hm : Keeps r → Keeps m) :
    Keeps (if p then m else r) := .ite (hm hr) hr
/-- A choice whose first branch is what the second goes on with. -/
theorem Keeps.iteFirst {α : Type} {p : Prop} [Decidable p] {m r : M α} (hr : Keeps r) (hm : Keeps r → Keeps m) :
    Keeps (if p then r else m) := .ite hr (hm hr)
/-- A choice whose second branch may go on as the first does. -/
theorem Keeps.iteRest {α β : Type} {p : Prop} [Decidable p] {a : M α} {f : α → M β} {m : M β} (ha : Keeps a)
    (hf : ∀ v, Keeps (f v)) (hm : (∀ v, Keeps (f v)) → Keeps m) : Keeps (if p then a >>= f else m) := .ite (ha.bind hf) (hm hf)
theorem Keeps.forM {α : Type} (l : List α) {f : α → M PUnit} (h : ∀ a, Keeps (f a)) : Keeps (l.forM f) :=
  ⟨.forM l fun a => (h a).keepsMem⟩
theorem Keeps.mapM {α β : Type} (l : List α) {f : α → M β} (h : ∀ a, Keeps (f a)) : Keeps (l.mapM f) := by
  induction l with
  | nil => exact .pure _
  | cons a l ih => rw [List.mapM_cons]; exact (h a).bind fun _ => ih.bind fun _ => .pure _

/-! ### Effects: the basic ones -/

theorem Keeps.upd {f : State → State} (h : ∀ s : State, s.MemOk → (f s).MemOk) : Keeps (upd f) := ⟨.upd h⟩
/-- An update that writes no memory. -/
theorem Keeps.updMem {f : State → State} (hf : ∀ s : State, (f s).mem = s.mem) : Keeps (Machine.upd f) :=
  .upd fun s h => h.of_mem (hf s)
theorem Keeps.see {α : Type} (f : State → α) : Keeps (see f) := ⟨.see f⟩
/-- An effect that goes on with what it reads of a canonical state. -/
theorem Keeps.see_bind {α β : Type} {g : State → α} {f : α → M β} (p : α → Prop) (hg : ∀ s : State, s.MemOk → p (g s))
    (hf : ∀ a, p a → Keeps (f a)) : Keeps (Machine.see g >>= f) := ⟨fun s h => (hf _ (hg s h)).keepsMem s h⟩
theorem Keeps.check (b : Bool) (c : Cause) (v : Word) : Keeps (check b c v) := ⟨.check b c v⟩
theorem Keeps.enabled (b : Bool) : Keeps (enabled b) := ⟨.enabled b⟩
theorem Keeps.present {α : Type} (o : Option α) : Keeps (present o) := ⟨.present o⟩
theorem Keeps.present_bind {β : Type} {o : Option State} {f : State → M β} (ho : OptOk o)
    (hf : ∀ t : State, t.MemOk → Keeps (f t)) : Keeps (Machine.present o >>= f) := by
  cases o with
  | none => exact ⟨fun _ _ => trivial⟩
  | some t => exact ⟨fun s h => (hf t ho.val).keepsMem s h⟩
theorem Keeps.trap {α : Type} (c : Cause) (v : Word) : Keeps (trap c v : M α) := ⟨.trap c v⟩
theorem Keeps.ltrap {α : Type} {c : Cause} {v : Word} {d : Side} : Keeps (exit (.ltrap c v d) : M α) := ⟨fun _ _ => trivial⟩
theorem Keeps.idle {α : Type} : Keeps (exit .idle : M α) := ⟨fun _ _ => trivial⟩
theorem Keeps.refuse {α : Type} {r : Refusal} : Keeps (exit (.refuse r) : M α) := ⟨fun _ _ => trivial⟩
theorem Keeps.send {α : Type} {f : State → State × Nat} (hf : ∀ s : State, s.MemOk → (f s).1.MemOk) :
    Keeps (exit (.send f) : M α) := ⟨fun _ _ => hf⟩
theorem Keeps.trapDrop {α : Type} {c a drops recs} : Keeps (trapDrop c a drops recs : M α) := ⟨fun _ _ => trivial⟩
theorem Keeps.efault {α : Type} {c addr pt recs} : Keeps (efault c addr pt recs : M α) := ⟨fun _ _ => trivial⟩
theorem Keeps.waitFor {α : Type} (k : WaitKind) : Keeps (waitFor k : M α) := ⟨.waitFor k⟩
theorem Keeps.drawNat : Keeps drawNat := ⟨.drawNat⟩
theorem Keeps.drawBit : Keeps drawBit := ⟨.drawBit⟩
theorem Keeps.me : Keeps me := ⟨.me⟩
theorem Keeps.getCtx (t : TileNo) (c : SlotNo) : Keeps (getCtx t c) := ⟨.getCtx t c⟩
theorem Keeps.myCtx : Keeps myCtx := ⟨.myCtx⟩
theorem Keeps.modCtx (t : TileNo) (c : SlotNo) (f : Ctx → Ctx) : Keeps (modCtx t c f) := ⟨.modCtx t c f⟩
theorem Keeps.modMe (f : Ctx → Ctx) : Keeps (modMe f) := ⟨.modMe f⟩
theorem Keeps.modTile (t : TileNo) (f : Tile → Tile) : Keeps (modTile t f) := ⟨.modTile t f⟩
theorem Keeps.readA (r : Src) : Keeps (readA r) := ⟨.readA r⟩
theorem Keeps.readC (r : Src) (a : Word) : Keeps (readC r a) := ⟨.readC r a⟩

/-! ### Runs of effects -/

theorem Keeps.run {α : Type} {m : M α} (hm : Keeps m) {s : State} (h : s.MemOk) : RunOk (m s) := ⟨hm.keepsMem s h⟩
theorem Keeps.of_run {α : Type} {m : M α} (h : ∀ s : State, s.MemOk → RunOk (m s)) : Keeps m := ⟨fun s hs => (h s hs).memOk⟩
/-- An update of the state that a run has left. -/
theorem RunOk.upd {r : Except Exit (Unit × State)} {f : State → State} (hr : RunOk r) (hf : ∀ s : State, s.MemOk → (f s).MemOk) :
    RunOk (r >>= fun p => .ok ((), f p.2)) := by
  cases r with
  | ok p => exact ⟨hf _ hr.memOk⟩
  | error e => exact ⟨hr.memOk⟩

/-! ### Steps -/

theorem KeepsStep.dealer {eff : M Eff} (hm : Keeps eff) {hd : Hd} {len : Nat} {ends : Bool} {dst : Option Dst} :
    KeepsStep fun s => Machine.dealer hd eff s len ends dst := fun s t h hn => hm.keepsMem.dealer hd len ends dst s t h hn
theorem KeepsStep.agent {m : M Unit} (hm : Keeps m) : KeepsStep fun s => Machine.agent m s := fun s t h hn => hm.keepsMem.agent s t h hn

/-! ## Machine/Mem -/

theorem State.MemOk.writeCarve {s : State} {pa bs} (h : s.MemOk) : (writeCarve s pa bs).MemOk := by
  induction bs generalizing s pa with
  | nil => exact h
  | cons b r ih =>
    unfold Machine.writeCarve
    refine ih ?_
    split
    · exact h
    · exact .writeBytes h ..

/-! ## Machine/Ops -/

theorem Keeps.recordCause {t x c addr info} : Keeps (recordCause t x c addr info) :=
  .upd fun _ h => .addErr h ..
theorem State.MemOk.request {s : State} {h n} (hs : s.MemOk) : (State.request h n s).MemOk :=
  .ite hs (.of_mem hs rfl)
theorem Keeps.meterNet {n} : Keeps (meterNet n) :=
  .upd fun _ h => .request h
theorem State.MemOk.settleDie {s : State} {d} (h : s.MemOk) : (settleDie d s).MemOk := h.of_mem (settleDie_mem ..)
theorem State.MemOk.endPeriods {s : State} {d due n} (h : s.MemOk) : (endPeriods d due n s).MemOk := by
  induction n generalizing s due with
  | zero => exact h
  | succ n ih =>
    have h1 : (if due then { s with dies := s.dies.set d (refillDie s d) } else s).MemOk := .ite (.of_mem h rfl) h
    exact ih (.of_mem h1 rfl)
theorem State.MemOk.passDie {s : State} {d was} (h : s.MemOk) : (passDie d was s).MemOk :=
  .ite h (.of_mem (.endPeriods h) rfl)
theorem State.MemOk.settleDies {s : State} (h : s.MemOk) : (settleDies s).MemOk :=
  .foldl h _ fun _ _ h => .settleDie h
theorem State.MemOk.modBucket {s : State} {d k f} (h : s.MemOk) : (State.modBucket s d k f).MemOk :=
  .of_mem h rfl
theorem State.MemOk.dropReq {s : State} {t c who} (h : s.MemOk) : (s.dropReq t c who).MemOk := h.of_mem (State.dropReq_mem ..)
theorem OptOk.payUnits {s0 s : State} {t c who job} (h : s.MemOk) : OptOk (payUnits s0 t c who job s) := ⟨h.payUnits _ _ _ _ _⟩
theorem State.MemOk.emptySlot {s : State} {t c} (h : s.MemOk) : (State.emptySlot s t c).MemOk :=
  .ite (.setSlot h ..) (.setTile (.setSlot h ..) ..)
theorem State.MemOk.markQueue {s : State} {q on} (h : s.MemOk) : (s.markQueue q on).MemOk := h
theorem State.MemOk.deschedule {s : State} {q} (h : s.MemOk) : (s.deschedule q).MemOk := h.of_mem (State.deschedule_mem ..)
theorem State.MemOk.closePeriod {s : State} {q n} (h : s.MemOk) : (s.closePeriod q n).MemOk := h.of_mem (State.closePeriod_mem ..)
theorem State.MemOk.settleQueue {s : State} {q} (h : s.MemOk) : (s.settleQueue q).MemOk := h.of_mem (State.settleQueue_mem ..)
theorem State.MemOk.chargeQueue {s : State} {i k n} (h : s.MemOk) : (s.chargeQueue i k n).MemOk := h.of_mem (State.chargeQueue_mem ..)
theorem State.MemOk.chargeJob {s : State} {job k n} (h : s.MemOk) : (s.chargeJob job k n).MemOk := h.of_mem (State.chargeJob_mem ..)
theorem State.MemOk.modEvery {s : State} {job num f} (h : s.MemOk) : (s.modEvery job num f).MemOk := h
theorem State.MemOk.chargeOwner {s : State} {job num k n} (h : s.MemOk) : (State.chargeOwner job num k n s).MemOk :=
  .ite h (.chargeJob (.modEvery h))
theorem OptOk.settleStep {s0 s : State} {t c who job} (h : s.MemOk) : OptOk (settleStep s0 t c who job s) := ⟨h.settleStep _ _ _ _ _⟩
theorem KeepsStep.runEff {t c x h len ends dst eff} (heff : Keeps eff) : KeepsStep (runEff t c x h len ends dst eff) := by
  intro s u hs hn
  have h1 := heff.run hs
  unfold Machine.runEff at hn
  dsimp only at hn
  cases hr : eff s with
  | ok p =>
    rw [hr] at h1 hn
    rw [← Host.Outcome.next.inj hn]
    exact hs.paidOr h1.memOk _ _ _ _ _ _ _ fun _ hv => hv.complete ..
  | error e =>
    rw [hr] at h1 hn
    cases e with
    | trap cause eval d | ltrap cause eval d =>
      rw [← Host.Outcome.next.inj hn]
      exact hs.paidOr (hs.applySide ..) _ _ _ _ _ _ _ fun _ hv => hv.enterTrap ..
    | wait k s' =>
      rw [← Host.Outcome.next.inj hn]
      exact hs.paidOr h1.memOk _ _ _ _ _ _ _ fun _ hv => hv.setWait ..
    | send f =>
      rw [← Host.Outcome.next.inj hn]
      exact hs.paidOr (h1.memOk s hs) _ _ _ _ _ _ _ fun _ hv => hv.setWait ..
    | fault f => cases hn
    | refuse r => cases hn
    | idle | efault => cases hn; exact hs
theorem Keeps.paying {t c who job m} (hm : Keeps m) : Keeps (paying t c who job m) := by
  refine ⟨fun s h => ?_⟩
  have h1 := hm.keepsMem s h
  unfold Machine.paying
  cases hr : m s with
  | ok p =>
    rw [hr] at h1
    cases hp : settleStep s t c who job p.2 with
    | none => simp only [hp]; exact h.markWaiting ..
    | some u => simp only [hp]; exact (OptOk.settleStep h1).get hp
  | error e =>
    rw [hr] at h1
    cases e with
    | wait k s' =>
      cases hp : settleStep s t c who job s' with
      | none => simp only [hp]; exact h.markWaiting ..
      | some u => simp only [hp]; exact (OptOk.settleStep h1).get hp
    | trap | ltrap | efault | send | idle | fault | refuse => exact h1
theorem Keeps.onDealer {t c} : Keeps (onDealer t c) :=
  .bind (.see _) fun _ => .enabled _
theorem Keeps.finishWait {t c w e} : Keeps (finishWait t c w e) :=
  .bind .onDealer fun _ => .bind (.getCtx _ _) fun _ => .bind (.modCtx _ _ _) fun _ => .upd fun _ h => .complete h ..

/-! ## Machine/Race -/

theorem State.MemOk.releaseAt {s : State} {t sc} (h : s.MemOk) : (releaseAt t sc s).1.MemOk := by cases sc <;> exact h
theorem Keeps.release {t sc} : Keeps (release t sc) := ⟨fun _ h => h.releaseAt⟩
theorem State.MemOk.mergeAt {s : State} {t ps} (h : s.MemOk) : (mergeAt t ps s).MemOk :=
  .setTile h ..
theorem Keeps.mergeStamps {t ps} : Keeps (mergeStamps t ps) :=
  .upd fun _ h => .mergeAt h
theorem Keeps.dealerAcquire {t ps} : Keeps (dealerAcquire t ps) :=
  .bind .mergeStamps fun _ => .modTile _ _
theorem Keeps.soEnter {t sc p} : Keeps (soEnter t sc p) :=
  .bind (.see _) fun _ => .bind .mergeStamps fun _ => by
    split
    · exact .pure _
    · exact .updMem fun _ => rfl
theorem Keeps.carry {pa p} : Keeps (carry pa p) := by
  unfold Machine.carry
  split
  · exact .pure _
  · exact .updMem fun _ => rfl
theorem Keeps.raceCheck {t x pa write atomic} : Keeps (raceCheck t x pa write atomic) :=
  .bind (.see _) fun _ => .bind (.see _) fun _ => by
    split
    · exact .bind (.updMem fun _ => rfl) fun _ => .pure _
    · exact .bind (.see _) fun _ => .pure _
theorem Keeps.peerTag {pa} : Keeps (peerTag pa) :=
  .updMem fun _ => rfl

/-! ## Machine/Translate -/

theorem Keeps.meterPa {t pa n} : Keeps (meterPa t pa n) :=
  .upd fun _ h => .request h
theorem Keeps.xlate {t strict job va} : Keeps (xlate t strict job va) :=
  .bind (.see _) fun _ => .bind (.see _) fun _ => by
    dsimp only
    split
    · exact .bind (.forM _ fun _ => .meterPa) fun _ => .bind (.modTile _ _) fun _ => .pure _
    · split
      · exact .ite (.pure _) (.bind .drawBit fun _ => .ite (.pure _) (.bind (.forM _ fun _ => .meterPa) fun _ =>
          .bind (.modTile _ _) fun _ => .pure _))
      · exact .bind .drawBit fun _ => .ite (.pure _) (.bind (.forM _ fun _ => .meterPa) fun _ => .bind (.modTile _ _) fun _ => .pure _)

/-! ## Machine/Access -/

theorem Keeps.walkTrap {α : Type} {t x c eval a drops} : Keeps (walkTrap t x c eval a drops : M α) :=
  .bind (.see _) fun _ => .trapDrop
theorem Keeps.devPlace {t x a write} : Keeps (devPlace t x a write) :=
  .bind .xlate fun _ => by
    split
    · exact .walkTrap
    · exact .bind (.check _ _ _) fun _ => .bind (.see _) fun _ => by
        split
        · exact .trap _ _
        · exact .bind (.see _) fun _ => .pure _
theorem Keeps.poolAccess {x a pa write} : Keeps (poolAccess x a pa write) :=
  .bind (.see _) fun _ => by
    split
    · exact .trap _ _
    · exact .bind (.see _) fun _ => .pure _
theorem Keeps.resolveMeterIf {far n} : Keeps (resolve.meterIf far n) :=
  .ite .meterNet (.pure _)
theorem Keeps.resolve {t x a n write} : Keeps (resolve t x a n write) := by
  unfold Machine.resolve
  dsimp only
  split
  · exact .bind .devPlace fun _ => .pure _
  · exact .bind (.check _ _ _) fun _ => .bind (.see _) fun _ => .bind (.check _ _ _) fun _ => .pure _
  · exact .poolAccess
  · exact .poolAccess
  · split
    · exact .bind (.see _) fun _ => by
        split
        · exact .trap _ _
        · exact .bind (.check _ _ _) fun _ => .bind (.check _ _ _) fun _ => .bind .resolveMeterIf fun _ => .pure _
    · exact .trap _ _
  · exact .pure _
  · exact .trap _ _
theorem Keeps.accessChecks {a n} : Keeps (accessChecks a n) :=
  .bind (.check _ _ _) fun _ => .check _ _ _
theorem Keeps.raceStep {t x a p write atomic} : Keeps (raceStep t x a p write atomic) := by
  unfold Machine.raceStep
  split
  · exact .bind .raceCheck fun _ => by
      split
      · exact .pure _
      · exact .trapDrop
  · exact .pure _
  · exact .pure _
  · exact .pure _
theorem Keeps.eccRead {t c x a k n} : Keeps (eccRead t c x a k n) :=
  .bind (.see _) fun _ => .ite (.see _) (.ite (.trap _ _) (.bind (.modCtx _ _ _) fun _ => .bind .recordCause fun _ => .see _))
theorem Keeps.deliverBad {α : Type} {t c x a bad v} : Keeps (deliverBad t c x a bad v : M α) :=
  .ite (.pure _) (.ite (.trap _ _) (.bind (.modCtx _ _ _) fun _ => .bind .recordCause fun _ => .pure _))
theorem Keeps.noteFences {t c ps} : Keeps (noteFences t c ps) :=
  .ite (.pure _) (.modCtx _ _ _)
theorem Keeps.noteRead {t c k n} : Keeps (noteRead t c k n) :=
  .bind (.see _) fun _ => .noteFences
theorem Keeps.meterDws {t k n} : Keeps (meterDws t k n) :=
  .forM _ fun _ => .meterPa
theorem Keeps.eccTouch {t c x a k n} : Keeps (eccTouch t c x a k n) :=
  .bind .noteRead fun _ => .bind .meterDws fun _ => .bind .eccRead fun _ => .pure _
theorem Keeps.publish {t x k n} : Keeps (publish t x k n) :=
  .ite (.pure _) (.updMem fun _ => rfl)
theorem Keeps.cachedRead {t c x a pa n} : Keeps (cachedRead t c x a pa n) :=
  .bind (.see _) fun _ => by
    dsimp only
    split
    · exact .bind .noteRead fun _ => .bind .meterPa fun _ => .bind .eccRead fun _ => .bind (.see _) fun _ => .bind (.see _) fun _ =>
        .bind (.modTile _ _) fun _ => .pure _
    · exact .bind (.see _) fun _ => .ite (.bind .noteFences fun _ => .deliverBad) (.bind .drawBit fun _ =>
        .ite (.bind .noteFences fun _ => .deliverBad) (.bind .noteRead fun _ => .bind .meterPa fun _ => .bind .eccRead fun _ =>
        .bind (.see _) fun _ => .bind (.see _) fun _ => .bind (.modTile _ _) fun _ => .pure _))
theorem Keeps.placeRead {t c x a p n} : Keeps (placeRead t c x a p n) := by
  unfold Machine.placeRead
  split
  · exact .ite .cachedRead (.bind .noteRead fun _ => .bind .meterPa fun _ => .eccRead)
  · exact .bind .noteRead fun _ => .eccRead
  · exact .idle
theorem Keeps.eccWrite {x a p n} : Keeps (eccWrite x a p n) := by
  unfold Machine.eccWrite
  split
  · exact .pure _
  · exact .bind (.see _) fun _ => .check _ _ _
theorem Keeps.placeWrite {t x p bs rmw} : Keeps (placeWrite t x p bs rmw) := by
  unfold Machine.placeWrite
  split
  · exact .bind .meterPa fun _ => .bind (.upd fun _ h => .writeBytes h ..) fun _ => .bind .publish fun _ => .modTile _ _
  · exact .bind (.upd fun _ h => .writeBytes h ..) fun _ => .publish
  · exact .idle
theorem Keeps.metering {α : Type} {t} {m : M α} (hm : Keeps m) : Keeps (metering t m) := by
  refine ⟨fun s h => ?_⟩
  have h1 := hm.keepsMem s h
  unfold Machine.metering
  cases hr : m s with
  | ok p => rw [hr] at h1; exact h1
  | error e => rw [hr] at h1; cases e <;> exact h1
theorem State.MemOk.ownLines {s' : State} {t x s} (h : s'.MemOk) : (ownLines t x s s').MemOk := h
theorem State.MemOk.ownWrites {s' : State} {t x s} (h : s'.MemOk) : (ownWrites t x s s').MemOk :=
  .ownLines (.of_mem h rfl)
theorem Keeps.owningBy {f m} (hf : ∀ t x s (s' : State), s'.MemOk → (f t x s s').MemOk) (hm : Keeps m) : Keeps (owningBy f m) := by
  refine ⟨fun s h => ?_⟩
  have h1 := hm.keepsMem s h
  unfold Machine.owningBy
  cases hr : m s with
  | ok p =>
    rw [hr] at h1
    cases hx : s.ctx? s.cur (s.tile s.cur).cur with
    | none => exact h1
    | some x => exact hf _ _ _ _ h1
  | error e => rw [hr] at h1; cases e <;> exact h1
theorem Keeps.owning {m} (hm : Keeps m) : Keeps (owning m) := .owningBy (fun _ _ _ _ h => .ownWrites h) hm
theorem Keeps.owningArea {m} (hm : Keeps m) : Keeps (owningArea m) := .owningBy (fun _ _ _ _ h => .ownLines h) hm
theorem Keeps.operandPlace {t x a align write} : Keeps (operandPlace t x a align write) :=
  .bind (.check _ _ _) fun _ => .bind (.check _ _ _) fun _ => .bind .devPlace fun _ => .bind .raceStep fun _ =>
    .bind (.modTile _ _) fun _ => .pure _
theorem Keeps.read8 {pa} : Keeps (read8 pa) :=
  .see _

/-! ## Machine/Bind -/

theorem State.MemOk.modEp {s : State} {t e f} (h : s.MemOk) : (State.modEp s t e f).MemOk :=
  .dite (fun _ => .setTile h ..) fun _ => h
theorem State.MemOk.deliverFlight {s : State} {t e p} (h : s.MemOk) : (deliverFlight t e p s).MemOk := by
  unfold Machine.deliverFlight
  split
  · exact h
  · exact .of_mem (.ite (.modEp h) h) rfl
theorem State.MemOk.unbindEp {s : State} {t e} (h : s.MemOk) : (unbindEp t e s).MemOk := by
  unfold Machine.unbindEp
  dsimp only
  split
  · exact h
  · exact .modEp (.of_mem (.deliverFlight h) rfl)
theorem State.MemOk.bindEp {s : State} {t e b} (h : s.MemOk) : (bindEp t e b s).MemOk :=
  .modEp (.of_mem h rfl)
theorem State.MemOk.farBound {s : State} {t e p} (h : s.MemOk) : (farBound t e p s).MemOk :=
  .modEp h
theorem State.MemOk.farUnbound {s : State} {t e p} (h : s.MemOk) : (farUnbound t e p s).MemOk :=
  .modEp (.of_mem h rfl)
theorem State.MemOk.modAway {s : State} {t e consumer n f} (h : s.MemOk) : (State.modAway s t e consumer n f).MemOk :=
  .of_mem h rfl
theorem State.MemOk.unbindAll {s : State} {t job num} (h : s.MemOk) : (unbindAll t job num s).MemOk :=
  .of_mem (.foldl h _ fun _ _ h => .ite (.unbindEp h) h) rfl
theorem State.MemOk.unbindSaved {s : State} {g} (h : s.MemOk) : (unbindSaved g s).MemOk := by
  unfold Machine.unbindSaved
  refine .foldl ?_ _ fun _ _ h => .modEp h
  exact .of_mem (.foldl (.unbindAll h) _ fun _ _ h => .deliverFlight h) rfl

/-! ## Machine/Records -/

theorem OptOk.hwTag {s : State} {t job va write} (h : s.MemOk) : OptOk (hwTag t job va write s) := by
  unfold Machine.hwTag
  split
  · exact .some h
  · exact .ite (.map fun _ => h) (.some h)
theorem Keeps.ownTag {t x va write} : Keeps (ownTag t x va write) :=
  .see_bind OptOk (fun _ h => .hwTag h) fun o ho => by
    cases o with
    | none => exact .bind (.see _) fun _ => .trapDrop
    | some s' => exact .upd fun _ _ => ho.val
theorem State.MemOk.hwReach {s : State} {t job va write} (h : s.MemOk) : (hwReach t job va write s).MemOk := by
  unfold Machine.hwReach
  split
  · next ho => exact (OptOk.get (.hwTag h) ho)
  · exact .addErr h ..
theorem State.MemOk.hwTouch {s : State} {t job va} (h : s.MemOk) : (hwTouch t job va s).MemOk :=
  .hwReach h
theorem State.MemOk.setRecDw {s : State} {pa k v} (h : s.MemOk) : (setRecDw pa k v s).MemOk :=
  .writeNat h ..
theorem State.MemOk.setCancel {s : State} {job k} (h : s.MemOk) : (setCancel job k s).MemOk :=
  .ite h (.of_mem h rfl)
theorem State.MemOk.cancelJob {s : State} {job} (h : s.MemOk) : (cancelJob job s).MemOk :=
  .foldl h _ fun _ _ h => .setCancel h
theorem State.MemOk.noteBad {s : State} {t job pa n} (h : s.MemOk) : (noteBad t job pa n s).MemOk :=
  .ite h (.addErr h ..)
theorem State.MemOk.gridUp {s : State} {t job va} (h : s.MemOk) : (gridUp t job va s).MemOk := by
  unfold Machine.gridUp
  split
  · exact h
  · exact .writeNat (.noteBad h) ..
theorem State.MemOk.endJob {s : State} {job} (h : s.MemOk) : (endJob job s).MemOk := by
  unfold Machine.endJob
  split
  · exact h
  · exact .of_mem (.settleDies h) rfl
theorem State.MemOk.gridDone {s : State} {job va status} (h : s.MemOk) : (gridDone job va status s).MemOk :=
  .ite (.of_mem h rfl) (.endJob (.of_mem h rfl))
theorem State.MemOk.gridFault {s : State} {job va} (h : s.MemOk) : (gridFault job va s).MemOk :=
  .of_mem h rfl
theorem State.MemOk.gridDown {s : State} {t fuel job va} (h : s.MemOk) : (gridDown t fuel job va s).MemOk := by
  induction fuel generalizing s va with
  | zero => exact h
  | succ n ih =>
    unfold Machine.gridDown
    split
    · exact h
    · dsimp only
      split
      · exact .noteBad h
      · split
        · exact .writeNat (.noteBad h) ..
        · exact .gridDone (.ite (ih (.writeNat (.noteBad h) ..)) (.writeNat (.noteBad h) ..))
theorem State.MemOk.gridLeave {s : State} {t job va} (h : s.MemOk) : (gridLeave t job va s).MemOk :=
  .gridDown h
theorem State.MemOk.retireRec {s : State} {t job va pa cause} (h : s.MemOk) : (retireRec t job va pa cause s).MemOk :=
  .gridLeave (.modJob (.setRecDw (.noteBad (.noteBad (.hwTouch h)))) ..)
theorem State.MemOk.setGroup {s : State} {g} (h : s.MemOk) : (State.setGroup s g).MemOk :=
  .of_mem h rfl
theorem State.MemOk.leaveGroup {s : State} {g} (h : s.MemOk) : (leaveGroup g s).MemOk :=
  .setGroup h
theorem State.MemOk.writeGroup {s : State} {g pa} (h : s.MemOk) : (writeGroup g pa s).MemOk :=
  .setRecDw h
theorem State.MemOk.writeGroupField {s : State} {x pa} (h : s.MemOk) : (writeGroupField x pa s).MemOk :=
  .writeGroup h
theorem State.MemOk.retireHeld {s : State} {t job va pa cause} (h : s.MemOk) : (retireHeld t job va pa cause s).MemOk :=
  .retireRec (by
  split
  · exact h
  · exact .writeGroup (.modEvery (by
      split
      · exact .modEvery (.leaveGroup h)
      · exact h)))
theorem State.MemOk.setDkt {s : State} {t n top bot} (h : s.MemOk) : (setDkt t n top bot s).MemOk :=
  .setTile h ..
theorem State.MemOk.notePush {s : State} {job timed va} (h : s.MemOk) : (notePush job timed va s).MemOk :=
  .ite (.modJob h ..) h
theorem OptOk.overflowPush {s : State} {t job timed n va} (h : s.MemOk) : OptOk (overflowPush t job timed n va s) :=
  .ite .none (.some (.of_mem h rfl))
theorem OptOk.ownerPush {s : State} {t job timed n va} (h : s.MemOk) : OptOk (ownerPush t job timed n va s) :=
  .ite (.some (.notePush (.setDkt (.writeNat h ..)))) (.overflowPush h)
theorem OptOk.thiefPush {s : State} {t job timed n va} (h : s.MemOk) : OptOk (thiefPush t job timed n va s) :=
  .ite (.some (.notePush (.setDkt (.writeNat h ..)))) (.overflowPush h)
theorem State.MemOk.leafPush {s : State} {t job pa va} (h : s.MemOk) : (leafPush t job pa va s).MemOk := by
  unfold Machine.leafPush
  dsimp only
  split
  · next ho => exact OptOk.get (.ownerPush (.setRecDw h)) ho
  · exact .of_mem h (State.addErr_mem ..)
theorem State.MemOk.decrement {s : State} {t job pa va} (h : s.MemOk) : (decrement t job pa va s).1.MemOk := by
  have h1 : (Machine.noteBad t job (pa + 16) 8 s).MemOk := .noteBad h
  unfold Machine.decrement
  dsimp only
  split
  · exact h1
  · split
    · split
      · exact .retireHeld (.setRecDw h1)
      · exact .leafPush (.setRecDw h1)
    · exact .setRecDw h1
theorem Keeps.resolveWaiter {t job ctx race fva wva} (hrace : ∀ a, Keeps (race a)) : Keeps (resolveWaiter t job ctx race fva wva) := by
  unfold Machine.resolveWaiter
  dsimp only
  split
  · exact .upd fun _ h => .addErr h ..
  · exact .bind (.see _) fun _ => by
      split
      · exact .upd fun _ h => .addErr h ..
      · exact .bind (.see _) fun _ => by
          split
          · exact .upd fun _ h => .addErr h ..
          · exact .see_bind OptOk (fun _ h => .hwTag h) fun _ ho => by
              split
              · exact .bind (.upd fun _ _ => ho.val) fun _ => .bind .release fun _ => .bind .carry fun _ => .bind (.see _) fun _ =>
                  .bind (.upd fun _ h => .decrement h) fun _ => by
                  split
                  · exact .pure _
                  · exact .upd fun _ h => .addErr h ..
              · exact .bind (.see _) fun _ => .bind ((hrace _)) fun _ => .bind .release fun _ => .bind .carry fun _ =>
                  .bind (.see _) fun _ => .bind (.upd fun _ h => .decrement h) fun _ => by
                  split
                  · exact .pure _
                  · exact .upd fun _ h => .addErr h ..
theorem Keeps.resolveFuture {t job ctx race fva fpa v} (hrace : ∀ a, Keeps (race a)) : Keeps (resolveFuture t job ctx race fva fpa v) :=
  .bind .release fun _ => .bind .carry fun _ => .bind (.see _) fun _ => .bind (.upd fun _ h => .writeNat h ..) fun _ =>
    .bind (.upd fun _ h => .writeNat h ..) fun _ => .forM _ fun _ => .bind (.see _) fun _ => .resolveWaiter (fun _ => (hrace _))
theorem State.MemOk.unpin {s : State} {job ps} (h : s.MemOk) : (unpin job ps s).MemOk :=
  .foldl h _ fun _ _ h => .of_mem h rfl
theorem State.MemOk.dropParked {s : State} {x} (h : s.MemOk) : (State.dropParked x s).MemOk :=
  .of_mem h rfl
theorem State.MemOk.releaseCtx {s : State} {t x} (h : s.MemOk) : (releaseCtx t x s).MemOk :=
  .modJob (by
  split
  · exact .leaveGroup (.unbindAll (.dropParked (.foldl h _ fun _ _ h => .unpin h)))
  · exact .unbindAll (.dropParked (.foldl h _ fun _ _ h => .unpin h))) ..
theorem State.MemOk.retireCtx {s : State} {t c cause} (h : s.MemOk) : (retireCtx t c cause s).MemOk := by
  unfold Machine.retireCtx
  split
  · exact h
  · dsimp only
    split
    · exact .emptySlot (.releaseCtx h)
    · exact .retireRec (.writeGroupField (.emptySlot (.releaseCtx h)))

/-! ## Machine/Operands -/

theorem Keeps.op2 {d a c f} : Keeps (op2 d a c f) :=
  .bind (.readA _) fun _ => .bind (.readC _ _) fun _ => .bind (.modMe _) fun _ => .pure _
theorem Keeps.op1 {d a f} : Keeps (op1 d a f) :=
  .bind (.readA _) fun _ => .bind (.modMe _) fun _ => .pure _
theorem Keeps.op3 {d a c f} : Keeps (op3 d a c f) :=
  .bind (.readA _) fun _ => .bind (.readC _ _) fun _ => .bind .myCtx fun _ => .bind (.modMe _) fun _ => .pure _
theorem Keeps.op0 {d v} : Keeps (op0 d v) :=
  .bind (.modMe _) fun _ => .pure _

/-! ## Machine/Windows -/

theorem State.MemOk.setInw {s : State} {i e} (h : s.MemOk) : (State.setInw s i e).MemOk :=
  .of_mem h rfl
theorem State.MemOk.pumpPort {s : State} {p} (h : s.MemOk) : (pumpPort p s).MemOk :=
  .ite h (.of_mem h rfl)
theorem State.MemOk.modPortTo {s : State} {dev f} (h : s.MemOk) : (State.modPortTo s dev f).MemOk := by
  unfold Machine.State.modPortTo
  split
  · exact .dite (fun _ => .of_mem h rfl) fun _ => h
  · exact h
theorem State.MemOk.sendFlits {s : State} {dev cls n} (h : s.MemOk) : (sendFlits dev cls n s).MemOk := by
  unfold Machine.sendFlits
  split
  · exact h
  · dsimp only
    split
    · exact .dite (fun _ => .pumpPort (.modPortTo h)) fun _ => .modPortTo h
    · exact .modPortTo h
theorem State.MemOk.returnFlits {s : State} {dev cls n} (h : s.MemOk) : (returnFlits dev cls n s).MemOk :=
  .ite h (.modPortTo h)
theorem State.MemOk.chargePayload {s : State} {m n} (h : s.MemOk) : (chargePayload m n s).MemOk := by
  unfold Machine.chargePayload
  split
  · exact h
  · split
    · exact .charge h ..
    · exact .chargeOwner h
theorem State.MemOk.msgCost {s : State} {m n} (h : s.MemOk) : (msgCost m n s).MemOk :=
  .chargePayload (.foldl (.request h) _ fun _ _ h => .request h)
theorem State.MemOk.issueMsg {s : State} {m n} (h : s.MemOk) : (issueMsg m n s).1.MemOk := by
  have h1 : ∀ (m' : Msg) (s' : State), s'.mem = s.mem → (Machine.msgCost m' n s').MemOk := fun _ _ e => .msgCost (h.of_mem e)
  unfold Machine.issueMsg
  dsimp only
  split
  · split
    · split
      · exact .pumpPort (h1 _ _ rfl)
      · exact h1 _ _ rfl
    · exact h1 _ _ rfl
  · exact h1 _ _ rfl
theorem State.MemOk.sendMsg {s : State} {t x chain w e o n op a p count} (h : s.MemOk) :
    (sendMsg t x chain w e o n op a p count s).1.MemOk :=
  .issueMsg h
theorem State.MemOk.sendRel {s : State} {t x chain w e o n op a rel count} (h : s.MemOk) :
    (sendRel t x chain w e o n op a rel count s).1.MemOk := by
  unfold Machine.sendRel
  split
  · exact .sendMsg h
  · exact .sendMsg (.releaseAt h)
theorem Keeps.windowAccess {t c x a w o n op need j rel} : Keeps (windowAccess t c x a w o n op need j rel) := by
  unfold Machine.windowAccess
  split
  · exact .bind (.see _) fun _ => by
      split
      · exact .trap _ _
      · exact .send fun _ h => .sendRel h
  · exact .trap _ _
  · exact .ite (.trap _ _) (.bind (.modCtx _ _ _) fun _ => .bind .recordCause fun _ => .pure _)
  · exact .bind .noteFences fun _ => .deliverBad
theorem Keeps.loadAny {t c x a n j} : Keeps (loadAny t c x a n j) :=
  .bind .resolve fun _ => by
    split
    · exact .bind .windowAccess fun _ => .pure _
    · exact .bind .raceStep fun _ => .placeRead
theorem Keeps.storeAny {t c x a bs j} : Keeps (storeAny t c x a bs j) :=
  .bind .resolve fun _ => by
    split
    · exact .bind (.see _) fun _ => .bind .windowAccess fun _ => .pure _
    · exact .bind .raceStep fun _ => .bind .eccWrite fun _ => .placeWrite
theorem Keeps.loadDws {t c x a n} : Keeps (loadDws t c x a n) :=
  .mapM _ fun _ => .bind .accessChecks fun _ => .bind .loadAny fun _ => .pure _

/-! ## Machine/Tensors -/

theorem KeepsStep.execTdef {h n a} : KeepsStep (execTdef h n a) :=
  .dealer (.bind (.readA _) fun _ => .bind .me fun _ => .bind (.getCtx _ _) fun _ => .bind .loadDws fun _ =>
    .bind (.check _ _ _) fun _ => .bind (.check _ _ _) fun _ => .bind (.check _ _ _) fun _ => .bind (.modMe _) fun _ => .pure _)
theorem KeepsStep.execTmod {h n a x} : KeepsStep (execTmod h n a x) :=
  .dealer (.bind (.readA _) fun _ => .bind (.readC _ _) fun _ => .bind .myCtx fun _ => .bind (.check _ _ _) fun _ => .dite (fun _ =>
    .bind (.check _ _ _) fun _ => .bind (.check _ _ _) fun _ => .bind (.modMe _) fun _ => .pure _) fun _ => .trap _ _)

/-! ## Machine/Sems -/

theorem Keeps.semiChecks {v w} : Keeps (semiChecks v w) :=
  .bind (.check _ _ _) fun _ => .check _ _ _
theorem Keeps.sembChecks {x n v w} : Keeps (sembChecks x n v w) :=
  .bind (.check _ _ _) fun _ => by
    split
    · exact .pure _
    · exact .bind (.check _ _ _) fun _ => .check _ _ _
theorem Keeps.semIdleOr {op n v w} : Keeps (semIdleOr op n v w) :=
  .bind .myCtx fun _ => .ite (.bind (.modMe _) fun _ => .pure _) (.waitFor _)
theorem KeepsStep.execSemb {h n a c} : KeepsStep (execSemb h n a c) :=
  .dealer (.bind (.readA _) fun _ => .bind (.readC _ _) fun _ => .bind .myCtx fun _ => .bind .sembChecks fun _ =>
    .ite (.bind (.modMe _) fun _ => .pure _) .semIdleOr)
theorem KeepsStep.execSemIdleAction {t c} : KeepsStep (execSemIdleAction t c) :=
  .agent (.bind (.getCtx _ _) fun _ => .bind (.present _) fun _ => by
    split
    · exact .bind (.enabled _) fun _ => .bind (.modCtx _ _ _) fun _ => .finishWait
    · exact .idle)
theorem KeepsStep.execSemw {h n a c} : KeepsStep (execSemw h n a c) :=
  .dealer (.bind (.readA _) fun _ => .bind (.readC _ _) fun _ => .bind .myCtx fun _ => .bind (.check _ _ _) fun _ =>
    .bind (.check _ _ _) fun _ => .bind (.modMe _) fun _ => .waitFor _)
theorem KeepsStep.execSemwGrant {t c} : KeepsStep (execSemwGrant t c) :=
  .agent (.bind (.getCtx _ _) fun _ => .bind (.present _) fun _ => by
    split
    · exact .bind (.enabled _) fun _ => .bind .dealerAcquire fun _ => .bind (.modCtx _ _ _) fun _ => .finishWait
    · exact .idle)
theorem KeepsStep.execSemp {h n a} : KeepsStep (execSemp h n a) :=
  .dealer (.bind (.readA _) fun _ => .bind .myCtx fun _ => .bind (.check _ _ _) fun _ => .bind (.check _ _ _) fun _ =>
    .bind (.modMe _) fun _ => .pure _)

/-! ## Machine/Chains -/

theorem Keeps.echeck {ok c addr} : Keeps (echeck ok c addr) :=
  .ite (.pure _) .efault
theorem State.MemOk.setFault {s : State} {t c ch seq cause pt idx addr} (h : s.MemOk) : (setFault t c ch seq cause pt idx addr s).MemOk :=
  .modCtx h ..
theorem State.MemOk.sendBlock {s : State} {t x ch e it a n op count} (h : s.MemOk) : (sendBlock t x ch e it a n op count s).MemOk :=
  .sendRel h
theorem State.MemOk.flushOut {s : State} {t c ch e} (h : s.MemOk) : (flushOut t c ch e s).MemOk := by
  unfold Machine.flushOut
  split
  · exact h
  · split
    · exact h
    · exact .modCtx (.sendBlock h) ..
theorem State.MemOk.outPut {s : State} {t c ch e it a n comb codes count} (h : s.MemOk) :
    (outPut t c ch e it a n comb codes count s).MemOk := by
  unfold Machine.outPut
  dsimp only
  split
  · exact .modCtx h ..
  · exact .ite (.modCtx h ..) (.modCtx (.flushOut h) ..)
theorem Keeps.blockStep {t c ch e job m} (hm : Keeps m) : Keeps (blockStep t c ch e job m) := by
  refine .of_run fun s h => ?_
  have paid : ∀ s' : State, s'.MemOk → RunOk (Machine.paying t c (some (ch, e.seq)) job (fun _ => .ok ((), s')) s) :=
    fun s' h' => (Keeps.paying (.of_run (m := fun _ => .ok ((), s')) fun _ _ => ⟨h'⟩)).run h
  have h1 := (Keeps.paying (t := t) (c := c) (who := some (ch, e.seq)) (job := job) hm).run h
  unfold Machine.blockStep
  dsimp only
  cases hr : Machine.paying t c (some (ch, e.seq)) job m s with
  | ok p => rw [hr] at h1; exact h1
  | error x =>
    rw [hr] at h1
    cases x with
    | efault cause pt addr d => exact (paid _ (.flushOut (.setFault (h.applySide ..)))).upd fun _ h => h
    | send f => exact (paid _ (h1.memOk s h)).upd fun _ h => h.modCtx ..
    | trap | ltrap | wait | idle | fault | refuse => exact h1
theorem Keeps.modRun {t c ch seq f} : Keeps (modRun t c ch seq f) :=
  .modCtx _ _ _
theorem Keeps.running {t c ch} : Keeps (running t c ch) :=
  .bind (.getCtx _ _) fun _ => .bind (.enabled _) fun _ => .bind (.present _) fun _ => .bind (.enabled _) fun _ =>
    .bind (.see _) fun _ => .bind (.enabled _) fun _ => .ite (.pure _) (.bind (.modTile _ _) fun _ => .pure _)
theorem Keeps.meterKey {t a k n} : Keeps (meterKey t a k n) :=
  .ite .meterPa (.ite .meterNet (.pure _))
theorem Keeps.countDrop {t c x cause a bad} : Keeps (countDrop t c x cause a bad) :=
  .bind (.modCtx _ _ _) fun _ => .recordCause
theorem Keeps.countBad {t c x a bad} : Keeps (countBad t c x a bad) :=
  .countDrop
theorem Keeps.engineBytes {t c x cap k n a again} : Keeps (engineBytes t c x cap k n a again) :=
  .bind (.see _) fun _ => .ite (.see _) (.ite .efault (.ite (.see _) (.bind .countBad fun _ => .see _)))
theorem Keeps.engineRace {t x k checked write atomic a pt} : Keeps (engineRace t x k checked write atomic a pt) := by
  unfold Machine.engineRace
  split
  · exact .bind .raceCheck fun _ => by
      split
      · exact .pure _
      · exact .efault
  · exact .pure _
theorem Keeps.engineRead {t c x ch e a n j again} : Keeps (engineRead t c x ch e a n j again) :=
  .bind (.see _) fun _ => by
    split
    · exact .bind (.see _) fun _ => .bind (.enabled _) fun _ => .bind .engineRace fun _ => .bind .meterKey fun _ =>
        .bind .engineBytes fun _ => .pure _
    · split
      · exact .ite (.pure _) (.ite .efault (.ite (.pure _) (.bind .countBad fun _ => .pure _)))
      · exact .efault
      · exact .ite .efault (.pure _)
      · exact .send fun _ h => .sendMsg h
theorem Keeps.engineWrite {t c x ch e a bs count} : Keeps (engineWrite t c x ch e a bs count) :=
  .bind (.see _) fun _ => by
    split
    · exact .bind (.see _) fun _ => .bind (.enabled _) fun _ => .bind .engineRace fun _ => .bind .meterKey fun _ =>
        .upd fun _ h => .writeBytes h ..
    · exact .upd fun _ h => .outPut h
theorem Keeps.countEvents {t c k} : Keeps (countEvents t c k) :=
  .modCtx _ _ _
theorem Keeps.engineResolve {t x cap f v pt} : Keeps (engineResolve t x cap f v pt) := by
  unfold Machine.engineResolve
  split
  · exact .efault
  · exact .bind (.see _) fun _ => .bind .engineRace fun _ => .bind .meterDws fun _ => .bind (.see _) fun _ => by
      split
      · exact .efault
      · exact .bind .read8 fun _ => .bind .meterDws fun _ => .metering (.resolveFuture (fun _ => .efault))
theorem Keeps.applyPosts {t c x e} : Keeps (applyPosts t c x e) := by
  unfold Machine.applyPosts
  refine .iteThen .efault fun _ => .bind ?_ fun _ => ?_ <;> dsimp only <;> split
  · exact .pure _
  · exact .ite .engineResolve (.modCtx _ _ _)
  · exact .pure _
  · exact .ite .engineResolve (.modCtx _ _ _)
theorem Keeps.retireBlock {t c ch e bsum bn} : Keeps (retireBlock t c ch e bsum bn) :=
  .bind (.getCtx _ _) fun _ => .bind .applyPosts fun _ => .bind (.modCtx _ _ _) fun _ => .upd fun _ h => .unpin h
theorem Keeps.abandonAt {t c} : Keeps (abandonAt t c) :=
  .bind (.getCtx _ _) fun _ => .bind (.upd fun _ h => .foldl h _ fun _ _ h => .foldl h _ fun _ _ h => .flushOut h) fun _ =>
    .bind (.upd fun _ h => .foldl h _ fun _ _ h => .unpin h) fun _ => .bind (.upd fun _ h => .dropParked h) fun _ => .modCtx _ _ _
theorem Keeps.drainStart : Keeps drainStart :=
  .bind .me fun _ => .bind (.getCtx _ _) fun _ => .bind (.check _ _ _) fun _ => .ite .abandonAt (.modCtx _ _ _)
theorem Keeps.drainAcquire {t} : Keeps (drainAcquire t) :=
  .dealerAcquire
theorem KeepsStep.execDrain {h} : KeepsStep (execDrain h) :=
  .dealer (.bind .drainStart fun _ => .bind .me fun _ => .bind (.getCtx _ _) fun _ => .bind (.see _) fun _ =>
    .ite (.bind .drainAcquire fun _ => .pure _) (.waitFor _))
theorem Keeps.cancelHere {t c} : Keeps (cancelHere t c) :=
  .bind .abandonAt fun _ => .bind (.getCtx _ _) fun _ => .bind (.see _) fun _ => .ite (.bind .drainAcquire fun _ =>
    .bind (.upd fun _ h => .charge h ..) fun _ => .bind (.upd fun _ h => .retireCtx h) fun _ => .pure _) (.waitFor _)
theorem KeepsStep.execDrainComplete {t c} : KeepsStep (execDrainComplete t c) :=
  .agent (.bind (.getCtx _ _) fun _ => .bind (.present _) fun _ => by
    split
    · exact .bind (.see _) fun _ => .bind (.enabled _) fun _ => .bind .drainAcquire fun _ => .finishWait
    · exact .bind (.see _) fun _ => .bind .onDealer fun _ => .paying (.ite .abandonAt (.bind (.see _) fun _ =>
        .bind (.enabled _) fun _ => .bind .drainAcquire fun _ => .bind (.upd fun _ h => .charge h ..) fun _ =>
        .metering (.upd fun _ h => .retireCtx h)))
    · exact .idle)
theorem KeepsStep.execRdvRelease {t c} : KeepsStep (execRdvRelease t c) :=
  .agent (.bind (.getCtx _ _) fun _ => .bind (.present _) fun _ => by
    split
    · exact .bind (.mapM _ fun _ => .bind (.present _) fun _ => .pure _) fun _ => .bind (.forM _ fun _ =>
        .blockStep .retireBlock) fun _ => .bind (.getCtx _ _) fun _ => .ite .finishWait (.pure _)
    · exact .idle)
theorem KeepsStep.execHeldPostApply {t c n} : KeepsStep (execHeldPostApply t c n) :=
  .agent (.bind (.getCtx _ _) fun _ => by
    dsimp only
    split
    · exact .idle
    · exact .bind (.enabled _) fun _ => .bind (.modCtx _ _ _) fun _ => by
        split
        · exact .modCtx _ _ _
        · exact .pure _)

/-! ## Machine/Queues -/

theorem State.MemOk.pushEntry {s : State} {t x e bs blk count} (h : s.MemOk) : (pushEntry t x e bs blk count s).MemOk := by
  unfold Machine.pushEntry
  split
  · exact h
  · split
    · exact .request (.modEp h)
    · exact .issueMsg (.modEp h)
theorem State.MemOk.popEntry {s : State} {t e} (h : s.MemOk) : (popEntry t e s).MemOk := by
  unfold Machine.popEntry
  dsimp only
  split
  · exact .modEp h
  · split
    · exact .modAway (.modEp h)
    · split
      · exact .modEp (.modEp h)
      · exact .issueMsg (.modEp h)
theorem Keeps.peerReport {t e consumer} : Keeps (peerReport t e consumer) :=
  .bind (.see _) fun _ => .bind (.see _) fun _ => .bind (.enabled _) fun _ =>
    .ite (.upd fun _ h => .farUnbound h) (.upd fun _ h => .farBound h)
theorem KeepsStep.execLinkedQueueEntryArrive {t e} : KeepsStep (execLinkedQueueEntryArrive t e) :=
  .agent (.bind (.see _) fun _ => by
    split
    · exact .peerReport
    · exact .bind (.see _) fun _ => .bind (.present _) fun _ => .bind (.enabled _) fun _ => by
        split
        · exact .bind (.see _) fun _ => .bind (.enabled _) fun _ => .bind (.see _) fun _ => .bind (.present _) fun _ =>
            .bind (.upd fun _ h => .modEp h) fun _ => .upd fun _ h => .modEp h
        · exact .bind (.see _) fun _ => .bind (.see _) fun _ => .bind (.see _) fun _ => .bind (.enabled _) fun _ =>
            .bind (.upd fun _ h => .modEp h) fun _ => .bind (.upd fun _ h => .returnFlits h) fun _ => .upd fun _ h => .sendFlits h)
theorem KeepsStep.execLinkedQueueCreditReturn {t e} : KeepsStep (execLinkedQueueCreditReturn t e) :=
  .agent (.bind (.see _) fun _ => by
    split
    · exact .peerReport
    · exact .bind (.see _) fun _ => .bind (.present _) fun _ => .bind (.enabled _) fun _ => by
        split
        · exact .bind (.enabled _) fun _ => .upd fun _ h => .modEp h
        · exact .bind (.see _) fun _ => .bind (.enabled _) fun _ => .bind (.upd fun _ h => .modEp h) fun _ =>
            .bind (.upd fun _ h => .returnFlits h) fun _ => .upd fun _ h => .sendFlits h)

/-! ## Machine/Copy -/

theorem Keeps.unitBytes {t c x cap k n} : Keeps (unitBytes t c x cap k n) :=
  .bind (.see _) fun _ => .ite (.bind .drawNat fun _ => .efault) .engineBytes
theorem Keeps.dropBytes {t c x a n} : Keeps (dropBytes t c x a n) :=
  .countDrop
theorem Keeps.flushUnit {t c ch e b} : Keeps (flushUnit t c ch e b) :=
  .bind (.getCtx _ _) fun _ => .ite .efault (.modCtx _ _ _)
theorem Keeps.endCopy {t c ch e b moved lost} : Keeps (endCopy t c ch e b moved lost) :=
  .bind (.getCtx _ _) fun _ => .bind (.upd fun _ h => .charge h ..) fun _ => .bind .modRun fun _ =>
    .iteThen (.upd fun _ h => .flushOut h) fun _ => .ite (.bind (.getCtx _ _) fun _ => .bind (.modCtx _ _ _) fun _ =>
    .ite (.upd fun _ h => .setFault h) (.pure _)) .modRun
theorem Keeps.bandScale {t c x ch e tc band j again} : Keeps (bandScale t c x ch e tc band j again) :=
  .bind .engineRead fun _ => by
    split
    · exact .bind .dropBytes fun _ => .pure _
    · exact .ite (.pure _) .efault
theorem Keeps.setSlotTag {t u g} : Keeps (setSlotTag t u g) :=
  .modTile _ _
theorem Keeps.setAccTag {t u g} : Keeps (setAccTag t u g) :=
  .modTile _ _
theorem Keeps.queuePut {t c x e ep bs last n} : Keeps (queuePut t c x e ep bs last n) :=
  .ite (.bind (.upd fun _ h => .pushEntry h) fun _ => .modRun) .modRun
theorem Keeps.stall {α : Type} {t c ch e} : Keeps (stall t c ch e : M α) := ⟨fun _ h => (State.MemOk.flushOut h).modCtx ..⟩
theorem Keeps.loadPlain {t c x e b ent} : Keeps (loadPlain t c x e b ent) := by
  unfold Machine.loadPlain
  refine .bind (.see _) fun _ => .iteElse ?_ fun rest => .bind (.see _) fun _ => .ite rest (.bind .stall fun _ => rest)
  refine .bind .engineRead fun _ => ?_
  split
  · exact .bind .dropBytes fun _ => .iteThen .queuePut fun _ => .endCopy
  · dsimp only
    split
    · exact .bind (.upd fun _ h => .writeBytes h ..) fun _ => .endCopy
    · refine .iteFirst (.bind (.upd fun _ h => .writeBytes h ..) fun _ => .endCopy) fun rest => .bind .setSlotTag fun _ => ?_
      exact .iteThen (.upd fun _ h => .zeroBytes h ..) fun _ => .bind .modRun fun _ => rest
    · exact .iteFirst (.bind (.upd fun _ h => .writeBytes h ..) fun _ => .endCopy) fun rest => .bind .setAccTag fun _ =>
        .bind .modRun fun _ => rest
    · exact .bind .queuePut fun _ => .endCopy
theorem Keeps.f4Byte {t c x e ent b el} : Keeps (f4Byte t c x e ent b el) :=
  .bind .engineRead fun _ => by
    split
    · exact .pure _
    · exact .bind .dropBytes fun _ => .pure _
theorem Keeps.f4Scale {t c x e b k again} : Keeps (f4Scale t c x e b k again) :=
  .bind .engineRead fun _ => by
    split
    · exact .pure _
    · exact .bind .dropBytes fun _ => .pure _
theorem Keeps.loadF4Pad {t c x e b ent} : Keeps (loadF4Pad t c x e b ent) :=
  .bind .f4Byte fun _ => .bind .f4Scale fun _ => .bind .bandScale fun _ => by
    split
    · exact .bind (.upd fun _ h => .writeNat h ..) fun _ => .endCopy
    · exact .endCopy
theorem Keeps.loadF4Slot {t c x e b ent} : Keeps (loadF4Slot t c x e b ent) := by
  unfold Machine.loadF4Slot
  refine .iteThen .efault fun _ => .bind .f4Byte fun _ => .iteBind .f4Scale (.pure _) fun _ => .iteBind .bandScale (.pure _) fun _ => ?_
  dsimp only
  split
  · refine .iteElse ?_ fun rest => .bind .setSlotTag fun _ => .bind .modRun fun _ => rest
    split
    · exact .bind (.upd fun _ h => .writeNat h ..) fun _ => .bind (.upd fun _ h => .writeNat h ..) fun _ => .endCopy
    · exact .bind (.upd fun _ h => .writeNat h ..) fun _ => .endCopy
  · exact .endCopy
theorem State.MemOk.resend {s : State} {id} (h : s.MemOk) : (resend id s).MemOk := by
  have cost : (match (s.msgs.find? fun m : Msg => m.id == id) with
    | some m => Machine.msgCost m m.op.size s
    | none => s).MemOk := by
    split
    · exact .msgCost h
    · exact h
  unfold Machine.resend
  dsimp only
  split
  · exact .dite (fun _ => .pumpPort (.of_mem cost rfl)) fun _ => .of_mem cost rfl
  · exact .of_mem cost rfl
theorem Keeps.orResend {t c ch m} (hm : Keeps m) : Keeps (orResend t c ch m) :=
  .bind (.getCtx _ _) fun _ => .bind (.see _) fun _ => by
    split
    · exact .bind (.enabled _) fun _ => .paying (.upd fun _ h => .resend h)
    · exact hm
theorem KeepsStep.execLoadIteration {t c} : KeepsStep (execLoadIteration t c) :=
  .agent (.orResend (.bind .running fun _ => .bind (.enabled _) fun _ => by
      split
      · exact .blockStep (.ite .flushUnit (.ite .loadPlain (.ite .loadF4Pad .loadF4Slot)))
      · exact .idle))
theorem Keeps.storeLocal {t c x e b fmt idx q} : Keeps (storeLocal t c x e b fmt idx q) := by
  unfold Machine.storeLocal
  split
  · exact .bind (.see _) fun _ => .bind (.enabled _) fun _ => .bind .engineBytes fun _ => .pure _
  · exact .bind (.see _) fun _ => .bind .unitBytes fun _ => .pure _
  · exact .pure _
theorem Keeps.storeQueue {t c e b} : Keeps (storeQueue t c e b) :=
  .ite (.pure _) (.ite (.bind (.getCtx _ _) fun _ => .bind (.see _) fun _ => .ite .stall (.bind (.see _) fun _ =>
    .bind (.upd fun _ h => .popEntry h) fun _ => .bind .modRun fun _ => .pure _)) (.pure _))
theorem Keeps.storeQueueEnd {t c e b n last} : Keeps (storeQueueEnd t c e b n last) :=
  .ite (.pure _) .modRun
theorem Keeps.modBank {t c n f} : Keeps (modBank t c n f) :=
  .modCtx _ _ _
/-- A run that faults in an engine and writes nothing. -/
theorem Keeps.raw_efault {α : Type} {c : Cause} {pt : FaultPoint} {a : Word} {d : State → Side} :
    Keeps (fun s => .error (.efault c pt a (d s)) : M α) := ⟨fun _ _ => trivial⟩
theorem Keeps.shapeStart {t c x e b ent} : Keeps (shapeStart t c x e b ent) := by
  unfold Machine.shapeStart
  refine .iteRest (.pure _) (fun _ => ?_) fun rest => .iteRest (.pure _) rest fun _ => .bind .bandScale fun S => ?_
  · dsimp only
    split
    · exact .efault
    · exact .bind .modBank fun _ => .modRun
  · cases S with
    | none => exact .bind .raw_efault rest
    | some _ => exact .bind (.pure _) rest
theorem Keeps.shapeEnd {t c e b ent} : Keeps (shapeEnd t c e b ent) :=
  .bind (.getCtx _ _) fun _ => .ite (.ite (.bind (.forM _ fun _ => .engineWrite) fun _ => .bind .modBank fun _ =>
    .modRun) (.bind .modBank fun _ => .modRun)) (.bind .modBank fun _ => .modRun)
theorem Keeps.storePlain {t c x e b ent last} : Keeps (storePlain t c x e b ent last) :=
  .bind .storeQueue fun _ => .bind .storeLocal fun _ => by
      dsimp only
      split
      · exact .bind (.getCtx _ _) fun _ => .bind .countEvents fun _ => .bind .engineWrite fun _ => .bind .modBank fun _ =>
          .iteThen .shapeEnd fun _ => .bind .storeQueueEnd fun _ => .endCopy
      · split
        · exact .bind (.see _) fun _ => by
            split
            · exact .bind (.upd fun _ h => .outPut h) fun _ => .bind .storeQueueEnd fun _ => .endCopy
            · exact .bind (.see _) fun _ => .bind (.enabled _) fun _ => .bind .engineRace fun _ => .bind .meterKey fun _ =>
                .bind .engineBytes fun _ => .bind .countEvents fun _ => .bind (.upd fun _ h => .writeBytes h ..) fun _ =>
                .bind .storeQueueEnd fun _ => .endCopy
        · exact .bind .countEvents fun _ => .bind .engineWrite fun _ => .bind .storeQueueEnd fun _ => .endCopy
theorem Keeps.storeBlock {t c x e b ent S n} : Keeps (storeBlock t c x e b ent S n) :=
  .bind (.mapM _ fun _ => .bind .storeLocal fun _ => .pure _) fun _ => .bind (.getCtx _ _) fun _ => .ite (.pure _) (.pure _)
theorem Keeps.storeBand {t c x e tc band} : Keeps (storeBand t c x e tc band) := by
  unfold Machine.storeBand
  split
  · exact .pure _
  · exact .bind .bandScale fun _ => by
      split
      · exact .pure _
      · exact .bind .modRun fun _ => .bind .engineWrite fun _ => .pure _
theorem Keeps.storeScale {t c x e b ent} : Keeps (storeScale t c x e b ent) :=
  .iteThen .engineWrite fun _ => .bind (.ite (.pure _) .storeBand) fun _ => by
    split
    · exact .modRun
    · exact .bind .storeBlock fun _ => .bind .modRun fun _ => .engineWrite
theorem Keeps.storeHalf {t c x e b el code} : Keeps (storeHalf t c x e b el code) :=
  .bind (.see _) fun _ => by
    split
    · exact .bind (.see _) fun _ => .bind (.enabled _) fun _ => .bind .engineRace fun _ => .bind .meterKey fun _ =>
        .upd fun _ h => .writeNat h ..
    · split
      · exact .modRun
      · split
        · exact .bind .modRun fun _ => .upd fun _ h => .outPut h
        · exact .bind (.upd fun _ h => .flushOut h) fun _ => .upd fun _ h => .sendBlock h
theorem Keeps.storeF4 {t c x e b ent last} : Keeps (storeF4 t c x e b ent last) := by
  unfold Machine.storeF4
  refine .iteThen .storeScale fun _ => .bind (.getCtx _ _) fun _ => .bind .modRun fun _ => ?_
  split
  · exact .idle
  · exact .endCopy
  · exact .bind .countEvents fun _ => .ite (.bind .modBank fun _ => .bind .storeHalf fun _ => .iteThen .shapeEnd fun _ =>
      .endCopy) (.bind .storeHalf fun _ => .iteThen .shapeEnd fun _ => .endCopy)
theorem KeepsStep.execStoreIteration {t c} : KeepsStep (execStoreIteration t c) :=
  .agent (.orResend (.bind .running fun _ => .bind (.enabled _) fun _ => by
      split
      · exact .blockStep (.ite .flushUnit (.bind (.see _) fun _ =>
          .ite (.upd fun _ h => .flushOut h) (.ite .shapeStart (.ite .storeF4 .storePlain))))
      · exact .idle))
theorem KeepsStep.execQueueStallResume {t c ch} : KeepsStep (execQueueStallResume t c ch) :=
  .agent (.bind (.getCtx _ _) fun _ => .bind (.enabled _) fun _ => .bind (.present _) fun _ => .bind (.see _) fun _ =>
    .bind (.enabled _) fun _ => .modRun)

/-! ## Machine/Pool -/

theorem Keeps.runChecks {x v one tiles} : Keeps (runChecks x v one tiles) :=
  .bind (.check _ _ _) fun _ => .bind (.check _ _ _) fun _ => .pure _
theorem State.MemOk.clearRun {s : State} {t r} (h : s.MemOk) : (clearRun t r s).MemOk :=
  .ite (.zeroBytes (.setTile h ..) ..) (.zeroBytes (.zeroBytes (.setTile h ..) ..) ..)
theorem KeepsStep.execClaim {h a} : KeepsStep (execClaim h a) :=
  .dealer (.bind (.readA _) fun _ => .bind .me fun _ => .bind (.getCtx _ _) fun _ => .bind .runChecks fun _ => .bind (.see _) fun _ =>
    .bind (.check _ _ _) fun _ => .bind (.modMe _) fun _ => .bind (.upd fun _ h => .clearRun h) fun _ => .pure _)
theorem KeepsStep.execRelease {h a} : KeepsStep (execRelease h a) :=
  .dealer (.bind (.readA _) fun _ => .bind .myCtx fun _ => .bind .runChecks fun _ => .bind (.check _ _ _) fun _ =>
    .ite (.waitFor _) (.bind (.modMe _) fun _ => .pure _))
theorem KeepsStep.execReleaseComplete {t c} : KeepsStep (execReleaseComplete t c) :=
  .agent (.bind (.getCtx _ _) fun _ => .bind (.present _) fun _ => by
    split
    · exact .bind (.enabled _) fun _ => .bind (.modCtx _ _ _) fun _ => .finishWait
    · exact .idle)
theorem KeepsStep.execAclr {h a} : KeepsStep (execAclr h a) :=
  .dealer (.bind (.readA _) fun _ => .bind .me fun _ => .bind (.getCtx _ _) fun _ => .bind .runChecks fun _ =>
    .bind (.check _ _ _) fun _ => .bind (.check _ _ _) fun _ => .bind (.upd fun _ h => .clearRun h) fun _ => .pure _)
theorem KeepsStep.execHstat {h d a} : KeepsStep (execHstat h d a) :=
  .dealer (.bind (.readA _) fun _ => .bind .me fun _ => .bind (.getCtx _ _) fun _ => .bind .runChecks fun _ => .bind (.see _) fun _ =>
    .op0)

/-! ## Machine/Binding -/

theorem Keeps.readBind {v w} : Keeps (readBind v w) := by
  unfold Machine.readBind
  split
  · exact .pure _
  · exact .trap _ _
theorem KeepsStep.execQbind {h a c} : KeepsStep (execQbind h a c) :=
  .dealer (.bind (.readA _) fun _ => .bind (.readC _ _) fun _ => .bind .readBind fun _ => .bind .me fun _ =>
    .bind (.getCtx _ _) fun _ => .ite (.bind (.see _) fun _ => .bind (.check _ _ _) fun _ => .bind (.check _ _ _) fun _ =>
    .bind (.check _ _ _) fun _ => .bind (.upd fun _ h => .setInw h) fun _ => .pure _) (.bind (.see _) fun _ =>
    .bind (.check _ _ _) fun _ => .bind (.see _) fun _ => .bind (.check _ _ _) fun _ => .bind (.see _) fun _ =>
    .bind (.upd fun _ h => .unbindEp h) fun _ => .bind (.upd fun _ h => .bindEp h) fun _ => .pure _))
theorem State.MemOk.unbind {s : State} {t b} (h : s.MemOk) : (unbind t b s).MemOk :=
  .ite (.setInw h) (.unbindEp h)
theorem KeepsStep.execQunbind {h a} : KeepsStep (execQunbind h a) :=
  .dealer (.bind (.readA _) fun _ => .bind .readBind fun _ => .bind .me fun _ => .bind (.getCtx _ _) fun _ => .bind (.see _) fun _ =>
    .ite (.pure _) (.ite (.waitFor _) (.bind (.upd fun _ h => .unbind h) fun _ => .pure _)))
theorem KeepsStep.execQunbindIdle {t c} : KeepsStep (execQunbindIdle t c) :=
  .agent (.bind (.getCtx _ _) fun _ => .bind (.present _) fun _ => by
    split
    · exact .bind (.present _) fun _ => .bind (.enabled _) fun _ => .bind (.upd fun _ h => .unbind h) fun _ => .finishWait
    · exact .idle)
theorem KeepsStep.execQdepth {h d a} : KeepsStep (execQdepth h d a) :=
  .dealer (.bind (.readA _) fun _ => .bind (.check _ _ _) fun _ => .bind .me fun _ => .bind (.getCtx _ _) fun _ =>
    .bind (.see _) fun _ => .op0)
theorem State.MemOk.tlbInvalidate {s : State} {job a n} (h : s.MemOk) : (tlbInvalidate job a n s).MemOk :=
  .of_mem h rfl
theorem KeepsStep.execTinv {h a c} : KeepsStep (execTinv h a c) :=
  .dealer (.bind (.readA _) fun _ => .bind (.check _ _ _) fun _ => .bind (.check _ _ _) fun _ => .bind (.readC _ _) fun _ =>
    .bind (.check _ _ _) fun _ => .bind .me fun _ => .bind (.getCtx _ _) fun _ => .bind .release fun _ =>
    .bind (.upd fun _ h => .tlbInvalidate h) fun _ => .bind (.see _) fun _ => .ite (.bind .dealerAcquire fun _ => .pure _) (.waitFor _))
theorem KeepsStep.execTinvPinsReleased {t c} : KeepsStep (execTinvPinsReleased t c) :=
  .agent (.bind (.getCtx _ _) fun _ => .bind (.present _) fun _ => by
    split
    · exact .bind (.see _) fun _ => .bind (.enabled _) fun _ => .bind .dealerAcquire fun _ => .finishWait
    · exact .idle)

/-! ## Machine/Front -/

theorem Keeps.recordPhys {kind src addr} : Keeps (recordPhys kind src addr) :=
  .bind .drawNat fun _ => .upd fun _ h => .addErr h ..
theorem Keeps.portError {p addr} : Keeps (portError p addr) :=
  .recordPhys
theorem Keeps.queueNo {q} : Keeps (queueNo q) :=
  .dite (fun _ => .pure _) fun _ => .idle
theorem State.MemOk.modQueue {s : State} {q f} (h : s.MemOk) : (State.modQueue q f s).MemOk :=
  .of_mem h rfl
theorem Keeps.recordBad {a bad} : Keeps (recordBad a bad) :=
  .ite (.pure _) (.upd fun _ h => .addErr h ..)
theorem OptOk.writeVia {s : State} {at' a bs} (h : s.MemOk) : OptOk (writeVia at' a bs s) := by
  induction bs generalizing s a with
  | nil => exact .some h
  | cons b r ih => exact .bind' fun _ => ih (.writeBytes h ..)
theorem Keeps.haltMalformed {q k cause} : Keeps (haltMalformed q k cause) :=
  .bind (.upd fun _ h => .modQueue h) fun _ => .bind .drawNat fun _ => .bind .drawNat fun _ => .upd fun _ h => .addErr h ..
theorem Keeps.haltUnread {q k} : Keeps (haltUnread q k) :=
  .ite (.bind (.upd fun _ h => .modQueue h) fun _ => .portError) .haltMalformed
theorem Keeps.taking {n ty body} (hbody : ∀ a b c, Keeps (body a b c)) : Keeps (taking n ty body) :=
  .bind .queueNo fun _ => .bind (.see _) fun _ => .bind (.see _) fun _ => .bind (.enabled _) fun _ => .bind (.see _) fun _ => by
    split
    · exact .haltUnread
    · exact .bind (.see _) fun _ => by
        split
        · exact .haltUnread
        · exact .bind (.see _) fun _ => .bind .recordBad fun _ => by
            split
            · exact .haltMalformed
            · exact .bind (.see _) fun _ => .bind (.enabled _) fun _ => .bind (.upd fun _ h => .modQueue h) fun _ =>
                .bind ((hbody _ _ _)) fun _ => .upd fun _ h => .modQueue h
theorem Keeps.startPkt {q p} : Keeps (startPkt q p) :=
  .upd fun _ h => .modQueue h
theorem Keeps.accessFails {k} : Keeps (accessFails k) :=
  .see _
theorem Keeps.finishPkt {q k p ok addr} : Keeps (finishPkt q k p ok addr) :=
  .iteThen .portError fun _ => .startPkt
theorem KeepsStep.execPacketCompletion {q idx} : KeepsStep (execPacketCompletion q idx) :=
  .agent (.bind .queueNo fun _ => .bind (.see _) fun _ => .bind (.present _) fun _ => .bind (.present _) fun _ =>
    .bind (.upd fun _ h => .modQueue h) fun _ => .iteThen (.updMem fun _ => rfl) fun _ => by
    split
    · exact .bind (.see _) fun _ => by
        split
        · exact .pure _
        · exact .bind .accessFails fun _ => .ite .portError (.upd fun _ h => .writeNat h ..)
    · exact .pure _)

/-! ## Machine/LoadStore -/

theorem KeepsStep.loadOp {h d a m off n f} : KeepsStep (loadOp h d a m off n f) :=
  .dealer (.bind (.readA _) fun _ => .bind .me fun _ => .bind (.getCtx _ _) fun _ => .bind .accessChecks fun _ =>
    .bind .loadAny fun _ => .bind (.modMe _) fun _ => .pure _)
theorem KeepsStep.storeOp {h x a m off n} : KeepsStep (storeOp h x a m off n) :=
  .dealer (.bind (.readA _) fun _ => .bind (.readC _ _) fun _ => .bind .me fun _ => .bind (.getCtx _ _) fun _ =>
    .bind .accessChecks fun _ => .bind .storeAny fun _ => .bind (.modMe _) fun _ => .pure _)
theorem KeepsStep.execLbu {h d a m off} : KeepsStep (execLbu h d a m off) := by
  unfold Machine.execLbu
  exact .loadOp
theorem KeepsStep.execLhu {h d a m off} : KeepsStep (execLhu h d a m off) := by
  unfold Machine.execLhu
  exact .loadOp
theorem KeepsStep.execLwu {h d a m off} : KeepsStep (execLwu h d a m off) := by
  unfold Machine.execLwu
  exact .loadOp
theorem KeepsStep.execLb {h d a m off} : KeepsStep (execLb h d a m off) := by
  unfold Machine.execLb
  exact .loadOp
theorem KeepsStep.execLh {h d a m off} : KeepsStep (execLh h d a m off) := by
  unfold Machine.execLh
  exact .loadOp
theorem KeepsStep.execLw {h d a m off} : KeepsStep (execLw h d a m off) := by
  unfold Machine.execLw
  exact .loadOp
theorem State.MemOk.publishAtomic {s : State} {t k n sc p} (h : s.MemOk) : (publishAtomic t k n sc p s).MemOk :=
  .of_mem h rfl
theorem Keeps.amoPlace {t x a sc n} : Keeps (amoPlace t x a sc n) :=
  .bind (.check _ _ _) fun _ => .bind (.check _ _ _) fun _ => .bind (.check _ _ _) fun _ => .resolve
theorem Keeps.amoLocal {t c x a p k op n sc ord v w} : Keeps (amoLocal t c x a p k op n sc ord v w) := by
  unfold Machine.amoLocal
  refine .bind (.see _) fun _ => .bind .raceStep fun _ => .bind .eccRead fun _ => .bind (.see _) fun _ => .bind .noteFences fun _ => ?_
  refine .iteBind .release (.pure _) fun _ => ?_
  split
  · split
    · exact .bind .meterPa fun _ => .pure _
    · exact .pure _
    · exact .pure _
  · exact .bind .placeWrite fun _ => .iteThen (.upd fun _ h => .publishAtomic h) fun _ => .pure _
theorem Keeps.amoAccess {t c x a p op n sc ord v w} : Keeps (amoAccess t c x a p op n sc ord v w) := by
  unfold Machine.amoAccess
  split
  · exact .bind (.modTile _ _) fun _ => .amoLocal
  · exact .amoLocal
  · exact .bind .windowAccess fun _ => .pure _
theorem Keeps.amoAcquire {t sc ord ps} : Keeps (amoAcquire t sc ord ps) := by
  unfold Machine.amoAcquire
  exact .iteThen .dealerAcquire fun _ => .ite (.bind (.see _) fun _ => .soEnter) (.pure _)
theorem KeepsStep.amoOp {h word sc ord d a op} : KeepsStep (amoOp h word sc ord d a op) :=
  .dealer (.bind (.readA _) fun _ => .bind .me fun _ => .bind (.getCtx _ _) fun _ => .bind .amoPlace fun _ => .bind .amoAccess fun _ =>
    .bind .amoAcquire fun _ => .bind (.modMe _) fun _ => .pure _)

/-! ## Machine/Peers -/

theorem State.MemOk.placesWrite {s : State} {ps bs rmw} (h : s.MemOk) : (placesWrite ps bs rmw s).MemOk :=
  .foldl h _ fun _ _ h => .writeBytes h ..
theorem Keeps.placesTag {ps} : Keeps (placesTag ps) :=
  .forM _ fun _ => .peerTag
theorem State.MemOk.placesPublish {s : State} {a ps rel} (h : s.MemOk) : (placesPublish a ps rel s).MemOk := by
  unfold Machine.placesPublish
  split
  · exact h
  · exact .of_mem h rfl
theorem Keeps.combineAt {ty fp loc ps xs k} : Keeps (combineAt ty fp loc ps xs k) := by
  induction xs generalizing ps k with
  | nil => exact .pure _
  | cons x r ih => exact .bind (.see _) fun _ => .bind (.upd fun _ h => .placesWrite h) fun _ => ih
theorem Keeps.perform {e a ps} : Keeps (perform e a ps) := by
  unfold Machine.perform
  split
  · exact .pure _
  · split
    · exact .bind .placesTag fun _ => .bind (.see _) fun _ => .pure _
    · exact .bind .placesTag fun _ => .bind (.upd fun _ h => .placesWrite h) fun _ => .bind (.upd fun _ h => .placesPublish h) fun _ =>
        .pure _
    · exact .bind .placesTag fun _ => .bind (.upd fun _ h => .placesWrite h) fun _ => .bind (.upd fun _ h => .placesPublish h) fun _ =>
        .pure _
    · exact .bind .placesTag fun _ => .bind (.see _) fun _ => .bind (.see _) fun _ => .bind (.upd fun _ h => .placesWrite h) fun _ =>
        .bind (.upd fun _ h => .placesPublish h) fun _ => .pure _
    · exact .pure _
    · exact .bind .placesTag fun _ => .bind (.see _) fun _ => .bind .combineAt fun _ =>
        .bind (.upd fun _ h => .placesPublish h) fun _ => .pure _
    · exact .bind (.see _) fun _ => by
        dsimp only
        split
        · exact .bind .placesTag fun _ => .pure _
        · exact .bind .placesTag fun _ => .bind (.upd fun _ h => .placesWrite h) fun _ =>
            .bind (.upd fun _ h => .placesPublish h) fun _ => .pure _
theorem Keeps.applyArrival {e inb amount lost stamp} : Keeps (applyArrival e inb amount lost stamp) :=
  .bind (.see _) fun _ => .bind (.present _) fun _ => .ite (.bind (.modCtx _ _ _) fun _ => .ite .recordCause (.pure _)) .recordCause
theorem Keeps.countArrival {e a} : Keeps (countArrival e a) := by
  unfold Machine.countArrival
  split
  · exact .forM _ fun _ => .applyArrival
  · split
    · exact .applyArrival
    · exact .pure _
    · exact .pure _
    · exact .pure _
    · exact .pure _
    · exact .pure _
    · exact .pure _
  · exact .pure _
theorem Keeps.receive {a} : Keeps (receive a) :=
  .bind (.see _) fun _ => by
    split
    · exact .pure _
    · exact .bind (.see _) fun _ => by
        split
        · exact .pure _
        · exact .bind (.see _) fun _ => by
            split
            · exact .pure _
            · exact .pure _
            · exact .bind .perform fun _ => .iteThen .countArrival fun _ => .pure _
theorem State.MemOk.setMsg {s : State} {id st} (h : s.MemOk) : (setMsg id st s).MemOk :=
  .of_mem h rfl
theorem State.MemOk.passCache {s : State} {m ps} (h : s.MemOk) : (passCache m ps s).MemOk :=
  .ite h (.setTile h ..)
theorem Keeps.arriveLocal {m} : Keeps (arriveLocal m) :=
  .bind (.see _) fun _ => .bind (.enabled _) fun _ => .bind (.see _) fun _ => .bind .receive fun _ =>
    .ite (.upd fun _ h => .setMsg h) (.bind (.upd fun _ h => .passCache h) fun _ => .upd fun _ h => .setMsg h)
theorem KeepsStep.execWindowMessageArrival : KeepsStep execWindowMessageArrival :=
  .agent (.bind (.see _) fun _ => .ite (.bind (.see _) fun _ => .bind (.present _) fun _ => .arriveLocal) (.bind (.see _) fun _ =>
    .bind (.enabled _) fun _ => .bind .receive fun _ => .bind (.updMem fun _ => rfl) fun _ =>
    .bind (.upd fun _ h => .returnFlits h) fun _ => .upd fun _ h => .sendFlits h))
theorem State.MemOk.modWhere {s : State} {t job num f} (h : s.MemOk) : (State.modWhere s t job num f).MemOk := by
  unfold Machine.State.modWhere
  split
  · exact .modCtx h ..
  · exact .of_mem h rfl
theorem Keeps.recordHeld {m x us} : Keeps (recordHeld m x us) :=
  .forM _ fun _ => .recordCause
theorem State.MemOk.dropMsg {s : State} {id} (h : s.MemOk) : (dropMsg id s).MemOk :=
  .of_mem h rfl
theorem KeepsStep.execWindowAck {i} : KeepsStep (execWindowAck i) :=
  .agent (.bind (.see _) fun _ => .bind (.present _) fun _ => .bind (.see _) fun _ => .bind (.present _) fun _ =>
    .bind (.see _) fun _ => .bind (.enabled _) fun _ => .bind (.upd fun _ h => .returnFlits h) fun _ =>
    .bind (.upd fun _ h => .chargePayload h) fun _ => by
    split
    · exact .bind (.upd fun _ h => .dropMsg h) fun _ => .upd fun _ h => .modWhere h
    · exact .bind (.upd fun _ h => .dropMsg h) fun _ => .upd fun _ h => .modWhere h
    · split
      · exact .bind (.upd fun _ h => .dropMsg h) fun _ => .upd fun _ h => .modWhere h
      · exact .bind (.upd fun _ h => .dropMsg h) fun _ => .upd fun _ h => .modWhere h
      · exact .bind (.upd fun _ h => .dropMsg h) fun _ => .bind (.see _) fun _ => .bind (.present _) fun _ =>
          .bind (.upd fun _ h => .modWhere h) fun _ => .bind .recordHeld fun _ => .ite .recordCause (.pure _)
      · exact .bind (.upd fun _ h => .setMsg h) fun _ => .upd fun _ h => .modWhere h)
theorem State.MemOk.sendNotice {s : State} {m} (h : s.MemOk) : (sendNotice m s).MemOk :=
  .sendFlits (.of_mem h rfl)
theorem KeepsStep.execLossDetected {i} : KeepsStep (execLossDetected i) :=
  .agent (.bind (.see _) fun _ => .bind (.present _) fun _ => .bind (.see _) fun _ => .bind (.enabled _) fun _ => by
    split
    · exact .bind (.upd fun _ h => .dropMsg h) fun _ => .upd fun _ h => .modWhere h
    · split
      · exact .bind (.see _) fun _ => .bind (.present _) fun _ => .bind (.upd fun _ h => .dropMsg h) fun _ =>
          .bind (.upd fun _ h => .modWhere h) fun _ => .ite (.pure _) (.upd fun _ h => .sendNotice h)
      · exact .bind (.see _) fun _ => .bind (.present _) fun _ => .ite (.bind (.upd fun _ h => .setMsg h) fun _ =>
          .upd fun _ h => .modWhere h) (.bind (.upd fun _ h => .dropMsg h) fun _ => .bind (.upd fun _ h => .modWhere h) fun _ =>
          .bind .recordCause fun _ => .bind .recordHeld fun _ => .upd fun _ h => .sendNotice h))
theorem Keeps.noticeEntry {e t} : Keeps (noticeEntry e t) :=
  .bind (.see _) fun _ => .bind (.see _) fun _ => .bind (.enabled _) fun _ => .upd fun _ h => .modEp h
theorem KeepsStep.execLossNotice : KeepsStep execLossNotice :=
  .agent (.bind (.see _) fun _ => .ite (.bind (.see _) fun _ => .bind (.present _) fun _ =>
    .ite (.upd fun _ h => .sendFlits h) (.bind (.upd fun _ h => .returnFlits h) fun _ => .updMem fun _ => rfl)) (.bind (.see _) fun _ =>
    .ite (.bind .noticeEntry fun _ => .bind (.upd fun _ h => .returnFlits h) fun _ =>
    .upd fun _ h => .sendFlits h) (.ite (.bind (.upd fun _ h => .returnFlits h) fun _ =>
    .upd fun _ h => .sendFlits h) (.bind (.enabled _) fun _ => .iteBind (.forM _ fun _ => .applyArrival) .applyArrival fun _ =>
    .bind (.upd fun _ h => .returnFlits h) fun _ => .upd fun _ h => .sendFlits h))))

/-! ## Machine/Links -/

theorem Keeps.portNo {p} : Keeps (portNo p) :=
  .dite (fun _ => .pure _) fun _ => .idle
theorem State.MemOk.bumpCounter {s : State} {k j} (h : s.MemOk) : (bumpCounter k j s).MemOk :=
  .of_mem h rfl
theorem Keeps.portEvent {p kind j} : Keeps (portEvent p kind j) :=
  .bind (.upd fun _ h => .bumpCounter h) fun _ => .recordPhys
theorem Keeps.modPort {p f} : Keeps (modPort p f) :=
  .updMem fun _ => rfl
theorem KeepsStep.execFlitReplay : KeepsStep execFlitReplay :=
  .agent (.bind (.see _) fun _ => .bind .portNo fun _ => .bind (.see _) fun _ => .bind (.enabled _) fun _ =>
    .ite (.bind .modPort fun _ => .portEvent) (.bind .modPort fun _ => .bind .portEvent fun _ => .updMem fun _ => rfl))
theorem KeepsStep.execRetrainComplete : KeepsStep execRetrainComplete :=
  .agent (.bind (.see _) fun _ => .bind .portNo fun _ => .bind (.see _) fun _ => .bind (.enabled _) fun _ => .bind .modPort fun _ =>
    .upd fun _ h => .pumpPort h)
theorem KeepsStep.execAuditFlit : KeepsStep execAuditFlit :=
  .agent (.bind (.see _) fun _ => .bind .portNo fun _ => .bind .modPort fun _ => .bind (.see _) fun _ =>
    .ite (.pure _) (.updMem fun _ => rfl))
theorem KeepsStep.execResynchronisation : KeepsStep execResynchronisation :=
  .agent (.bind (.see _) fun _ => .bind .portNo fun _ => .bind (.enabled _) fun _ => .bind .modPort fun _ => .bind .portEvent fun _ =>
    .upd fun _ h => .pumpPort h)
theorem KeepsStep.execCommandLinkMessage : KeepsStep execCommandLinkMessage :=
  .agent (.bind (.see _) fun _ => .dite (fun _ => .bind (.see _) fun _ => .bind (.enabled _) fun _ => .bind (.present _) fun _ =>
    .bind (.updMem fun _ => rfl) fun _ => .ite .recordPhys (.pure _)) fun _ => .idle)

/-! ## Machine/Csr -/

theorem Keeps.csrModify {csr r f} : Keeps (csrModify csr r f) :=
  .bind .me fun _ => .bind (.getCtx _ _) fun _ => .bind (.check _ _ _) fun _ => .bind (.check _ _ _) fun _ =>
    .bind (.check _ _ _) fun _ => .bind (.check _ _ _) fun _ => .bind (.readC _ _) fun _ => .bind (.see _) fun _ =>
    .bind (.modMe _) fun _ => .pure _

/-! ## Machine/Coverage -/

theorem Keeps.covsetAct {t c n a} : Keeps (covsetAct t c n a) :=
  .bind (.getCtx _ _) fun _ => .bind .loadDws fun _ => .bind (.check _ _ _) fun _ => .modCtx _ _ _
theorem KeepsStep.execCovset {h n a} : KeepsStep (execCovset h n a) :=
  .dealer (.bind (.readA _) fun _ => .bind (.check _ _ _) fun _ => .bind .me fun _ => .bind (.getCtx _ _) fun _ =>
    .ite (.bind .covsetAct fun _ => .pure _) (.waitFor _))
theorem KeepsStep.waitAct {t c x w m} (hm : Keeps m) : KeepsStep (waitAct t c x w m) :=
  .runEff (.bind .onDealer fun _ => .bind hm fun _ => by
    dsimp only
    split
    · exact .bind (.modCtx _ _ _) fun _ => .pure _
    · exact .pure _)
theorem KeepsStep.execCovsetIdleAction {t c} : KeepsStep (execCovsetIdleAction t c) := by
  intro s u h hn
  unfold Machine.execCovsetIdleAction at hn
  split at hn
  · cases hn; exact h
  · split at hn
    · cases hn; exact h
    · split at hn
      · split at hn
        · exact KeepsStep.waitAct (.bind .covsetAct fun _ => .pure _) _ _ h hn
        · cases hn; exact h
      · cases hn; exact h

/-! ## Machine/Matrix -/

theorem Keeps.unitPart {t c x cap k n uses} : Keeps (unitPart t c x cap k n uses) :=
  .bind (.see _) fun _ => .ite (.see _) (.bind (.see _) fun _ => .ite (.see _) (.ite (.bind .drawNat fun _ => .bind .efault fun _ =>
    .see _) (.bind .countBad fun _ => .see _)))
theorem Keeps.readOperand {t c x cap fmt dir slot h K need} : Keeps (readOperand t c x cap fmt dir slot h K need) :=
  .bind .unitPart fun _ => .ite (.bind (.mapM _ fun _ => .unitPart) fun _ => .bind (.pure _) fun _ => .bind (.see _) fun _ =>
    .pure _) (.bind (.pure _) fun _ => .bind (.see _) fun _ => .pure _)
theorem Keeps.tagCheck {g tid want} : Keeps (tagCheck g tid want) :=
  .bind .echeck fun _ => by
    split
    · exact .echeck
    · exact .pure _
theorem Keeps.covStart {e} : Keeps (covStart e) := by
  unfold Machine.covStart
  split
  · split
    · exact .ite (.pure _) .efault
    · exact .pure _
  · exact .pure _
theorem State.MemOk.chargeFiller {s : State} {t n} (h : s.MemOk) : (chargeFiller t n s).MemOk := by
  unfold Machine.chargeFiller
  split
  · exact .chargeOwner h
  · exact h
theorem State.MemOk.settleHold {s : State} {t} (h : s.MemOk) : (settleHold t s).MemOk :=
  .ite (.setTile (.chargeFiller h) ..) h
theorem State.MemOk.settleRamp {s : State} {t upto} (h : s.MemOk) : (settleRamp t upto s).MemOk :=
  .ite (.setTile (.ite h (.chargeFiller h)) ..) h
theorem State.MemOk.stepPower {s : State} {t who} (h : s.MemOk) : (stepPower t who s).MemOk :=
  .setTile (by
  split
  · exact .settleRamp (.settleHold h)
  · exact .ite (.settleRamp (.settleHold h)) (.chargeFiller (.settleRamp (.settleHold h)))
  · exact .chargeFiller (.settleRamp (.settleHold h))) ..
theorem State.MemOk.writeTile {s : State} {t T ws skip} (h : s.MemOk) : (writeTile t T ws skip s).MemOk :=
  .ite (.foldl h _ fun _ _ h => .ite h (.writeBytes h ..)) (.writeBytes h ..)
theorem Keeps.matIter {t c x e m} : Keeps (matIter t c x e m) :=
  .bind .covStart fun _ => .bind (.see _) fun _ => .bind (.see _) fun _ => .bind .tagCheck fun _ => .bind .tagCheck fun _ => by
          dsimp only
          split
          · exact .efault
          · exact .bind .echeck fun _ => .bind .echeck fun _ => .bind (.see _) fun _ => .bind .echeck fun _ =>
              .bind .readOperand fun _ => .bind .readOperand fun _ => .iteBind (.see _) .unitPart fun _ => .bind .countEvents fun _ =>
              .bind (.upd fun _ h => .writeTile h) fun _ => .bind .setAccTag fun _ => .bind (.upd fun _ h => .charge h ..) fun _ =>
              .bind (.modCtx _ _ _) fun _ => .upd fun _ h => .stepPower h
theorem Keeps.matStep {t c int} : Keeps (matStep t c int) :=
  .bind .running fun _ => .bind (.enabled _) fun _ => by
      split
      · exact .bind (.enabled _) fun _ => .blockStep .matIter
      · exact .idle
theorem Keeps.fillTile {t c x e k int T} : Keeps (fillTile t c x e k int T) :=
  .bind .unitPart fun _ => .ite (.bind .setAccTag fun _ => .pure _) (.bind (.upd fun _ h => .writeTile h) fun _ =>
    .bind .setAccTag fun _ => .pure _)
theorem Keeps.matFinish {t c x e m} : Keeps (matFinish t c x e m) := by
  unfold Machine.matFinish
  split
  · exact .pure _
  · exact .ite (.bind (.mapM _ fun _ => .fillTile) fun _ => .pure _) (.pure _)
theorem KeepsStep.execBurst {h n} : KeepsStep (execBurst h n) :=
  .dealer (.bind .me fun _ => .bind (.getCtx _ _) fun _ => .bind (.see _) fun _ => .bind (.upd fun _ h => .settleHold h) fun _ =>
    .bind (.modTile _ _) fun _ => .pure _)
theorem KeepsStep.execMatrixCold {t} : KeepsStep (execMatrixCold t) :=
  .agent (.bind (.upd fun _ h => .settleHold h) fun _ => .bind (.see _) fun _ => .bind (.see _) fun _ => .bind (.enabled _) fun _ =>
    .bind (.enabled _) fun _ => .modTile _ _)

/-! ## Machine/Link -/

theorem Keeps.linkingFail {α : Type} {k c n} : Keeps (Linking.fail k c n : M α) := ⟨fun _ _ => trivial⟩
theorem Keeps.linkingCheck {k ok c} : Keeps (Linking.check k ok c) :=
  .ite (.pure _) .linkingFail
theorem Keeps.linkingRaise {k o} : Keeps (Linking.raise k o) := by
  unfold Machine.Linking.raise
  split
  · exact .pure _
  · exact .linkingFail
theorem Keeps.linkingAddr {k} : Keeps (Linking.addr k) :=
  .bind .linkingCheck fun _ => .bind .linkingCheck fun _ => .pure _
theorem Keeps.linkingImage {k o} : Keeps (Linking.image k o) :=
  .bind (.see _) fun _ => .bind .linkingCheck fun _ => .bind (.see _) fun _ => .bind (.see _) fun _ => .bind .linkingCheck fun _ =>
    .bind .noteRead fun _ => .bind (.see _) fun _ => .bind .linkingCheck fun _ => .bind (.see _) fun _ => .pure _
theorem Keeps.linkingPointer {k p} : Keeps (Linking.pointer k p) := by
  unfold Machine.Linking.pointer
  split
  · exact .ite (.bind (.see _) fun _ => .bind .linkingCheck fun _ => .bind .noteRead fun _ => .bind (.see _) fun _ =>
      .bind .linkingCheck fun _ => .bind (.see _) fun _ => .pure _) (.pure _)
  · exact .pure _
theorem Keeps.pagesOf {fuel t x lo hi write chk} : Keeps (pagesOf fuel t x lo hi write chk) := by
  induction fuel generalizing lo with
  | zero => exact .pure _
  | succ n ih =>
    unfold Machine.pagesOf
    split
    · exact .pure _
    · exact .bind .xlate fun r => by
        cases r with
        | error e => exact .bind ih fun _ => .pure _
        | ok l => exact .bind ih fun _ => .pure _
theorem Keeps.envPages {t x spans} : Keeps (envPages t x spans) := by
  induction spans with
  | nil => exact .pure _
  | cons p r ih =>
    unfold Machine.envPages
    split
    · exact .bind .pagesOf fun _ => .bind ih fun _ => .pure _
    · exact ih
theorem Keeps.linkingNamed {k b} : Keeps (Linking.named k b) :=
  .bind .linkingCheck fun _ => .bind .linkingRaise fun _ => .linkingCheck
theorem Keeps.linkingResources {k b cap env futs pages} : Keeps (Linking.resources k b cap env futs pages) :=
  .bind (.see _) fun _ => .bind .linkingCheck fun _ => .bind (.see _) fun _ => .bind .linkingCheck fun _ => .bind .linkingRaise fun _ =>
    .bind .linkingCheck fun _ => .bind .linkingCheck fun _ => .bind (.see _) fun _ => .bind .linkingCheck fun _ =>
    .bind .linkingRaise fun _ => .linkingRaise
theorem Keeps.linkingTranslation {k b cap env pages} : Keeps (Linking.translation k b cap env pages) := by
  unfold Machine.Linking.translation
  split
  · exact .linkingFail
  · exact .bind (.see _) fun _ => .bind .linkingCheck fun _ => .bind (.see _) fun _ => .bind .linkingCheck fun _ =>
      .bind (.see _) fun _ => .bind .linkingCheck fun _ => .bind .linkingRaise fun _ => .bind .linkingCheck fun _ =>
      .bind (.see _) fun _ => by
      split
      · exact .waitFor _
      · exact .pure _
theorem Keeps.linkingTokens {k b env} : Keeps (Linking.tokens k b env) :=
  .bind .linkingRaise fun _ => .bind .linkingCheck fun _ => .bind .linkingCheck fun _ => .bind .linkingRaise fun _ => .pure _
theorem Keeps.linkingCommit {k b cap env ps pins} : Keeps (Linking.commit k b cap env ps pins) :=
  .bind (.see _) fun _ => .bind (.see _) fun _ => .bind (.updMem fun _ => rfl) fun _ => .modCtx _ _ _
theorem Keeps.linkAt {k0} : Keeps (linkAt k0) :=
  .bind .linkingAddr fun _ => .bind .linkingImage fun _ => .bind .linkingCheck fun _ => .bind .linkingCheck fun _ => by
      split
      · exact .linkingFail
      · exact .bind .linkingNamed fun _ => .bind .linkingPointer fun _ => .bind .linkingPointer fun _ => .bind .envPages fun _ =>
          .bind .linkingResources fun _ => .bind .linkingTranslation fun _ => .bind .linkingTokens fun _ =>
          .bind .linkingCommit fun _ => .ite (.pure _) (.bind (.modCtx _ _ _) fun _ => .recordCause)

/-! ## Machine/Tasks -/

theorem Keeps.ownParent {t c x} : Keeps (ownParent t c x) :=
  .bind .ownTag fun _ => .bind (.see _) fun _ => by
    split
    · exact .eccTouch
    · exact .pure _
theorem KeepsStep.execSpawn {h a} : KeepsStep (execSpawn h a) :=
  .dealer (.owning (.bind (.readA _) fun _ => .bind .me fun _ => .bind (.getCtx _ _) fun _ => .bind .operandPlace fun _ =>
    .bind .eccTouch fun _ => .bind .release fun _ => .bind (.see _) fun _ => .bind (.check _ _ _) fun _ => .bind (.see _) fun _ =>
    .bind (.see _) fun _ => by
      split
      · exact .bind (.upd fun _ h => .setRecDw h) fun _ => .pure _
      · exact .bind (.see _) fun _ => .bind .ownParent fun _ => .bind (.see _) fun _ => .bind (.upd fun _ h => .setRecDw h) fun _ =>
          .bind (.upd fun _ h => .setRecDw h) fun _ => .bind (.upd fun _ h => .gridUp h) fun _ => .bind .carry fun _ => by
          dsimp only
          split
          · exact .bind (.upd fun _ h => .setRecDw h) fun _ => .see_bind OptOk (fun _ h => .ownerPush h) fun _ ho => by
              split
              · exact .bind (.trap _ _) fun _ => .pure _
              · exact .bind (.upd fun _ _ => ho.val) fun _ => .pure _
          · exact .bind (.upd fun _ h => .setRecDw h) fun _ => .pure _))
theorem Keeps.suspendRec {t c x pa st} : Keeps (suspendRec t c x pa st) :=
  .bind (.upd fun _ h => .setRecDw h) fun _ => .bind (.upd fun _ h => .setRecDw h) fun _ =>
    .bind (.upd fun _ h => .writeGroupField h) fun _ => .modCtx _ _ _
theorem Keeps.register {t x fva xva fpa xpa} : Keeps (register t x fva xva fpa xpa) :=
  .bind (.see _) fun _ => .bind (.check _ _ _) fun _ => by
    split
    · exact .bind (.check _ _ _) fun _ => .bind (.upd fun _ h => .writeNat h ..) fun _ => .upd fun _ h => .writeNat h ..
    · exact .bind (.see _) fun _ => .bind .dealerAcquire fun _ => .bind .release fun _ => .bind .carry fun _ => .bind (.see _) fun _ => by
        split
        · exact .trap _ _
        · exact .upd fun _ h => .decrement h
theorem KeepsStep.execAwait {h a c} : KeepsStep (execAwait h a c) :=
  .dealer (.owning (.bind .me fun _ => .bind (.getCtx _ _) fun _ => .bind (.see _) fun _ => .ite .cancelHere (.bind (.readA _) fun _ =>
    .bind (.readC _ _) fun _ => .bind (.check _ _ _) fun _ => .bind .operandPlace fun _ => .bind .eccTouch fun _ =>
    .bind .operandPlace fun _ => .bind .eccTouch fun _ => .bind (.see _) fun _ => .bind (.check _ _ _) fun _ => .bind .register fun _ =>
    .bind .release fun _ => .bind .carry fun _ => .bind (.see _) fun _ => .ite (.bind .suspendRec fun _ => .pure _) (.pure _))))
theorem KeepsStep.execResolve {h a c} : KeepsStep (execResolve h a c) :=
  .dealer (.owning (.bind (.readA _) fun _ => .bind (.readC _ _) fun _ => .bind .me fun _ => .bind (.getCtx _ _) fun _ =>
    .bind .operandPlace fun _ => .bind .eccTouch fun _ => .bind (.see _) fun _ => by
      split
      · exact .trap _ _
      · exact .bind .read8 fun _ => .bind .eccTouch fun _ => .bind (.resolveFuture (fun _ => .trapDrop)) fun _ => .pure _))
theorem KeepsStep.execYield {h} : KeepsStep (execYield h) :=
  .dealer (.owning (.bind .me fun _ => .bind (.getCtx _ _) fun _ => .bind (.see _) fun _ => by
      split
      · exact .cancelHere
      · exact .bind (.see _) fun _ => by
          split
          · exact .trap _ _
          · exact .bind .ownTag fun _ => .bind (.modTile _ _) fun _ => .bind .eccTouch fun _ => .bind .suspendRec fun _ =>
              .bind .release fun _ => .bind .carry fun _ => .see_bind OptOk (fun _ h => .thiefPush h) fun _ ho => by
              dsimp only
              split
              · exact .bind (.trap _ _) fun _ => .pure _
              · exact .bind (.upd fun _ _ => ho.val) fun _ => .pure _))
theorem KeepsStep.execJoin {h a} : KeepsStep (execJoin h a) :=
  .dealer (.bind (.readA _) fun _ => .bind .myCtx fun _ => .bind (.check _ _ _) fun _ => .bind (.see _) fun _ =>
    .bind (.check _ _ _) fun _ => .bind (.upd fun _ h => .setGroup h) fun _ => .bind (.modMe _) fun _ => .pure _)
theorem KeepsStep.execLeave {h a} : KeepsStep (execLeave h a) :=
  .dealer (.bind (.readA _) fun _ => .bind .myCtx fun _ => .bind (.check _ _ _) fun _ => .bind (.check _ _ _) fun _ =>
    .bind (.upd fun _ h => .leaveGroup h) fun _ => .bind (.modMe _) fun _ => .pure _)
theorem KeepsStep.execGbar {h a} : KeepsStep (execGbar h a) :=
  .dealer (.owning (.bind .me fun _ => .bind (.getCtx _ _) fun _ => by
      split
      · exact .bind (.see _) fun _ => .ite (.bind .dealerAcquire fun _ => .pure _) (.bind (.see _) fun _ =>
          .ite (.bind (.upd fun _ h => .setGroup h) fun _ => .cancelHere) (.waitFor _))
      · exact .bind (.see _) fun _ => .ite .cancelHere (.bind (.readA _) fun _ => .bind (.check _ _ _) fun _ =>
          .bind (.check _ _ _) fun _ => .bind .release fun _ => .bind (.see _) fun _ =>
          .ite (.bind (.upd fun _ h => .setGroup h) fun _ => .bind .dealerAcquire fun _ =>
          .pure _) (.bind (.upd fun _ h => .setGroup h) fun _ => .waitFor _))))
theorem KeepsStep.execWfe {h} : KeepsStep (execWfe h) :=
  .dealer (.bind .me fun _ => .bind (.getCtx _ _) fun _ => .ite (.bind .dealerAcquire fun _ => .bind (.modCtx _ _ _) fun _ =>
    .pure _) (.waitFor _))
theorem KeepsStep.execWfeWake {t c} : KeepsStep (execWfeWake t c) :=
  .agent (.bind (.getCtx _ _) fun _ => .bind (.present _) fun _ => .bind (.enabled _) fun _ => .bind .dealerAcquire fun _ =>
    .bind (.modCtx _ _ _) fun _ => .finishWait)
theorem KeepsStep.execSev {h a} : KeepsStep (execSev h a) := by
  unfold Machine.execSev
  refine .dealer (.bind (.readA _) fun _ => .bind .me fun _ => .bind (.getCtx _ _) fun _ => .dite (fun _ => ?_) fun _ => .trap _ _)
  refine .bind .release fun _ => .bind (.upd fun _ h => ?_) fun _ => .pure _
  exact .withSaved ((h.modCtx ..).modCtx ..)
theorem Keeps.leafHeld {t c} : Keeps (leafHeld t c) :=
  .bind (.getCtx _ _) fun _ => .bind (.enabled _) fun _ => .bind (.present _) fun _ => .pure _
theorem Keeps.leafResume {t c} : Keeps (leafResume t c) :=
  .bind (.modCtx _ _ _) fun _ => .upd fun _ h => .resumeStep h ..
theorem Keeps.fwResult {t c v} : Keeps (fwResult t c v) :=
  .bind (.modCtx _ _ _) fun _ => .leafResume
theorem State.MemOk.faultGrid {s : State} {t x} (h : s.MemOk) : (faultGrid t x s).MemOk := by
  unfold Machine.faultGrid
  split
  · exact .gridFault (.hwReach h)
  · exact h
theorem KeepsStep.execLeafTrapHandling {t c} : KeepsStep (execLeafTrapHandling t c) :=
  .agent (.bind .leafHeld fun _ => .bind (.enabled _) fun _ => .bind .recordCause fun _ =>
    .ite .fwResult (.ite (.modCtx _ _ _) (.bind (.upd fun _ h => .faultGrid h) fun _ => .bind (.upd fun _ h => .retireCtx h) fun _ =>
    .bind (.see _) fun _ => .ite (.upd fun _ h => .cancelJob h) (.pure _))))

/-! ## Machine/Interrupt -/

theorem State.MemOk.withdraw {s : State} {t c w} (h : s.MemOk) : (withdraw t c w s).MemOk := by
  unfold Machine.withdraw
  split
  · exact .ite (.setGroup h) h
  · exact .modCtx h ..
  · exact .of_mem h rfl
  · exact h
  · exact h
  · exact h
  · exact h
  · exact h
  · exact h
  · exact h
  · exact h
  · exact h
  · exact h
  · exact h
  · exact h
  · exact h
  · exact h
theorem Keeps.interrupt {t c} : Keeps (interrupt t c) :=
  .bind (.getCtx _ _) fun _ => .bind (.present _) fun _ => .bind (.enabled _) fun _ => .bind (.see _) fun _ =>
    .bind (.enabled _) fun _ => .bind (.upd fun _ h => .withdraw h) fun _ => .upd fun _ h => .takePending h ..
theorem KeepsStep.execWatchdog {t c} : KeepsStep (execWatchdog t c) :=
  .agent (.bind (.getCtx _ _) fun _ => .bind (.present _) fun _ => .bind (.see _) fun _ => .bind (.see _) fun _ =>
    .bind (.see _) fun _ => .bind (.enabled _) fun _ => .bind (.modCtx _ _ _) fun _ => .bind (.see _) fun _ => .ite .interrupt (.pure _))
theorem KeepsStep.execMachineCheck {t c} : KeepsStep (execMachineCheck t c) :=
  .agent (.bind (.getCtx _ _) fun _ => .bind (.enabled _) fun _ => .bind (.modCtx _ _ _) fun _ => .bind (.see _) fun _ =>
    .ite .interrupt (.pure _))
theorem Keeps.fwCall {t c n} : Keeps (fwCall t c n) :=
  .bind .leafHeld fun _ => .bind (.enabled _) fun _ => .bind .recordCause fun _ => .pure _
theorem KeepsStep.execFwUnbindSaved {t c} : KeepsStep (execFwUnbindSaved t c) := by
  unfold Machine.execFwUnbindSaved
  refine .agent (.bind .fwCall fun _ => .bind (.see _) fun _ => ?_)
  dsimp only
  refine .iteFirst ?_ fun rest => .bind (.upd fun _ h => .addErr h ..) fun _ => rest
  split
  · refine .bind (.see _) fun _ => ?_
    split
    · exact .bind (.upd fun _ h => .unbindSaved h) fun _ => .fwResult
    · exact .dite (fun _ => .bind (.upd fun _ h => .unbindAll h) fun _ => .fwResult) fun _ => .fwResult
  · exact .fwResult
theorem State.MemOk.appendLog {s : State} {job v} (h : s.MemOk) : (appendLog job v s).MemOk :=
  .writeNat (.of_mem h rfl) ..

/-! ## Machine/Patch -/

theorem Keeps.patchAct {t c x ch e p} : Keeps (patchAct t c x ch e p) := by
  unfold Machine.patchAct
  split
  · exact .efault
  · exact .iteThen .stall fun _ => by
      split
      · exact .efault
      · exact .bind .echeck fun _ => .bind .engineBytes fun _ => .ite (.modCtx _ _ _) (.ite (.modCtx _ _ _) (.bind (.see _) fun _ =>
          .efault))
theorem Keeps.actRetire {t c x ch e act} (hact : Keeps act) : Keeps (actRetire t c x ch e act) := by
  unfold Machine.actRetire
  dsimp only
  split
  · exact .bind (.getCtx _ _) fun _ => by
      split
      · exact .ite (.blockStep .retireBlock) (.pure _)
      · exact .pure _
  · exact .bind (.blockStep (.bind hact fun _ => .modRun)) fun _ => .bind (.getCtx _ _) fun _ => by
      split
      · exact .ite (.blockStep .retireBlock) (.pure _)
      · exact .pure _
theorem Keeps.keepRefused {t c ch e p} : Keeps (keepRefused t c ch e p) :=
  .bind (.getCtx _ _) fun _ => by
    split
    · split
      · exact .bind (.see _) fun _ => .bind .modRun fun _ => by
          split
          · exact .pure _
          · exact .updMem fun _ => rfl
      · exact .pure _
    · exact .pure _
theorem Keeps.actingBlock {t c ch} : Keeps (actingBlock t c ch) :=
  .bind (.getCtx _ _) fun _ => .bind (.present _) fun _ => .bind (.enabled _) fun _ => .bind (.enabled _) fun _ => .pure _
theorem KeepsStep.execPatchAction {t c ch} : KeepsStep (execPatchAction t c ch) :=
  .agent (.bind .actingBlock fun _ => by
      split
      split
      · exact .bind (.enabled _) fun _ => .bind (.actRetire .patchAct) fun _ => .keepRefused
      · exact .idle)
theorem KeepsStep.execPatchHoldResume {t c ch} : KeepsStep (execPatchHoldResume t c ch) :=
  .agent (.bind .actingBlock fun _ => by
      split
      split
      · exact .bind (.enabled _) fun _ => .bind (.actRetire .patchAct) fun _ => .keepRefused
      · exact .idle)
theorem Keeps.relink {t c x ch y f v} : Keeps (relink t c x ch y f v) :=
  .bind .linkingCheck fun _ => .bind .linkingCheck fun _ => .bind .linkingNamed fun _ => .bind .envPages fun _ =>
    .bind .linkingResources fun _ => .bind (.upd fun _ h => .unpin h) fun _ => .bind .linkingTranslation fun _ =>
    .bind (.see _) fun _ => .bind (.see _) fun _ => .bind (.updMem fun _ => rfl) fun _ => .pure _
theorem KeepsStep.execPatchRangePolicy {t c ch} : KeepsStep (execPatchRangePolicy t c ch) := by
  unfold Machine.execPatchRangePolicy
  refine .agent (.bind (.getCtx _ _) fun _ => .bind (.present _) fun _ => .bind (.enabled _) fun _ => .bind (.present _) fun _ => ?_)
  split
  · refine .bind (.present _) fun _ => .bind (.see _) fun _ => ?_
    dsimp only
    split
    · exact .iteThen (.modCtx _ _ _) fun _ => .modCtx _ _ _
    · refine .see_bind State.MemOk (fun _ h => h) fun s h => ?_
      generalize hr : Machine.relink _ _ _ _ _ _ _ _ = r
      have h1 : RunOk r := hr ▸ Keeps.relink.run h
      split
      · exact .bind (.upd fun _ _ => .of_mem h1.memOk rfl) fun _ => .bind (.modCtx _ _ _) fun _ => .modCtx _ _ _
      · exact .idle
      · exact .bind (.upd fun _ h => .applySide h ..) fun _ => .modCtx _ _ _
      · exact .modCtx _ _ _
    · exact .modCtx _ _ _
  · exact .idle

/-! ## Machine/Vector -/

theorem Keeps.portTag {t p o} : Keeps (portTag t p o) :=
  .bind (.see _) fun _ => by
    split
    · exact .efault
    · exact .pure _
theorem Keeps.portRead {t c x cap p o} : Keeps (portRead t c x cap p o) := by
  unfold Machine.portRead
  dsimp only
  split
  · exact .bind .engineBytes fun _ => .pure _
  · exact .bind (.see _) fun _ => .ite (.bind .unitBytes fun _ => .pure _) (.pure _)
  · exact .bind .unitBytes fun _ => .pure _
theorem Keeps.portWrite {t c seq p o v} : Keeps (portWrite t c seq p o v) := by
  unfold Machine.portWrite
  dsimp only
  split
  · exact .upd fun _ h => .writeNat h ..
  · exact .bind .setAccTag fun _ => .upd fun _ h => .writeNat h ..
  · exact .modRun
theorem Keeps.drainW {fuel t c x e p} : Keeps (drainW fuel t c x e p) := by
  induction fuel with
  | zero => exact .pure _
  | succ n ih =>
    unfold Machine.drainW
    refine .bind (.getCtx _ _) fun _ => ?_
    dsimp only
    split
    · refine .bind (.see _) fun _ => ?_
      split
      · exact .bind (.upd fun _ h => .pushEntry h) fun _ => .bind .modRun fun _ => ih
      · exact .pure _
    · exact .pure _
theorem Keeps.wReady {t c x e p} : Keeps (wReady t c x e p) :=
  .bind .drainW fun _ => .bind (.getCtx _ _) fun _ => .ite .stall (.pure _)
theorem Keeps.queueElem {t c e k p} : Keeps (queueElem t c e k p) :=
  .bind (.getCtx _ _) fun _ => .ite (.bind (.see _) fun _ => .ite (.bind .stall fun _ => .pure _) (.bind (.see _) fun _ =>
    .bind (.upd fun _ h => .popEntry h) fun _ => .bind .modRun fun _ => .bind (.pure _) fun _ => .pure _)) (.bind (.pure _) fun _ =>
    .pure _)
theorem Keeps.readLen {t c x cap b u} : Keeps (readLen t c x cap b u) :=
  .bind .engineBytes fun _ => .ite (.bind .countEvents fun _ => .pure _) (.pure _)
theorem Keeps.tagsAt {t b idx ks} : Keeps (tagsAt t b idx ks) :=
  .forM _ fun _ => .portTag
theorem Keeps.readMask {t c x e b idx} : Keeps (readMask t c x e b idx) :=
  .ite (.bind .queueElem fun _ => .bind .modRun fun _ => .pure _) (.bind (.see _) fun _ => .iteThen .tagsAt fun _ =>
    .bind .portRead fun _ => .pure _)
theorem Keeps.gridStep {t c x e b} : Keeps (gridStep t c x e b) :=
  .ite (.bind (.mapM _ fun _ => .readLen) fun _ => .modRun) (.ite (.ite (.bind (.pure _) fun _ =>
    .modRun) (.iteBind .readMask (.pure _) fun _ => .modRun)) .modRun)
theorem Keeps.inputAt {t c x e b idx k} : Keeps (inputAt t c x e b idx k) :=
  .ite .queueElem .portRead
theorem Keeps.rowResult {t c e b seg idx} : Keeps (rowResult t c e b seg idx) :=
  .bind .portTag fun _ => .bind .countEvents fun _ => .portWrite
theorem Keeps.maskedWrite {t c e b idx} : Keeps (maskedWrite t c e b idx) :=
  .ite .portWrite (.pure _)
theorem Keeps.softmaxRow {t c x e b seg idx} : Keeps (softmaxRow t c x e b seg idx) :=
  .bind (.mapM _ fun _ => .ite (.pure _) (.bind .inputAt fun _ => .pure _)) fun _ => .forM _ fun _ => by
    dsimp only
    split
    · exact .bind .countEvents fun _ => .portWrite
    · exact .maskedWrite
theorem Keeps.indexIter {t c x e b idx} : Keeps (indexIter t c x e b idx) :=
  .bind .tagsAt fun _ => .bind .inputAt fun _ => .iteThen .efault fun _ => .bind .portTag fun _ => .ite (.bind .portTag fun _ =>
    .bind .portRead fun _ => .bind .countEvents fun _ => .portWrite) (.bind .inputAt fun _ => .ite (.bind .portRead fun _ =>
    .bind (.pure _) fun _ => .bind .countEvents fun _ => .portWrite) (.bind (.pure _) fun _ => .bind .countEvents fun _ => .portWrite))
theorem Keeps.unusedInput {t c x e b idx k} : Keeps (unusedInput t c x e b idx k) :=
  .ite (.pure _) (.bind .inputAt fun _ => .pure _)
theorem Keeps.selIter {t c x e b idx} : Keeps (selIter t c x e b idx) :=
  .bind (.see _) fun _ => .iteThen .tagsAt fun _ => .bind .inputAt fun _ => .bind .tagsAt fun _ => .bind .inputAt fun _ =>
    .bind .unusedInput fun _ => .pure _
theorem Keeps.activeIter {t c x e b idx lastOfRow lastOfBlock} : Keeps (activeIter t c x e b idx lastOfRow lastOfBlock) := by
  unfold Machine.activeIter
  dsimp only
  split
  · exact .bind .indexIter fun _ => .pure _
  · exact .bind .tagsAt fun _ => .iteThen .portTag fun _ => .bind .inputAt fun _ => .pure _
  · exact .bind .tagsAt fun _ => .bind .inputAt fun _ => .pure _
  · exact .ite (.bind .tagsAt fun _ => .bind .inputAt fun _ => .bind .countEvents fun _ => .bind .portWrite fun _ =>
      .pure _) (.bind .tagsAt fun _ => .iteThen .portTag fun _ => .bind .inputAt fun _ => .pure _)
  · exact .ite (.bind .selIter fun _ => .bind .countEvents fun _ => .bind .portWrite fun _ => .pure _) (.bind .tagsAt fun _ =>
      .iteBind .inputAt (.pure _) fun _ => .iteBind .inputAt (.pure _) fun _ => .iteBind .inputAt (.pure _) fun _ =>
      .bind (.pure _) fun _ => .bind .countEvents fun _ => .bind .portWrite fun _ => .pure _)
theorem Keeps.vecTuple {t c x e b} : Keeps (vecTuple t c x e b) := by
  unfold Machine.vecTuple
  refine .iteRest (.pure _) (fun _ => ?_) fun rest => .ite (.bind (.pure _) rest) ?_
  · refine .ite (.iteThen .rowResult fun _ => .bind .modRun fun _ => .drainW) ?_
    refine .bind (.forM _ fun _ => .bind .queueElem fun _ => .pure _) fun _ => ?_
    refine .iteRest (.pure _) (fun _ => ?_) fun rest => .iteBind .readMask (.pure _) rest
    refine .iteBind .activeIter (.pure _) fun _ => .iteThen .maskedWrite fun _ => ?_
    refine .iteThen (.ite .softmaxRow (.ite .rowResult (.pure _))) fun _ => ?_
    exact .iteThen (.upd fun _ h => .charge h ..) fun _ => .bind .modRun fun _ => .drainW
  · split
    · exact .bind (.pure _) rest
    · exact .bind .readLen fun _ => .bind .modRun fun _ => .bind (.pure _) rest
theorem KeepsStep.execVectorIteration {t c} : KeepsStep (execVectorIteration t c) :=
  .agent (.orResend (.bind .running fun _ => .bind (.enabled _) fun _ => by
      split
      · exact .blockStep (.bind .covStart fun _ => .bind .wReady fun _ => .ite .gridStep .vecTuple)
      · exact .idle))
theorem Keeps.emptyRows {t c x e b} : Keeps (emptyRows t c x e b) :=
  .ite (.forM _ fun _ => .ite (.bind .readLen fun _ => .ite .rowResult (.pure _)) (.ite .rowResult (.pure _))) (.pure _)
theorem Keeps.vecFill {t c e b k} : Keeps (vecFill t c e b k) :=
  .bind (.mapM _ fun _ => .ite (.bind .countEvents fun _ => .bind .portWrite fun _ => .pure _) (.ite (.pure _) (.pure _))) fun _ =>
    .pure _
theorem Keeps.vecFinish {t c x e b} : Keeps (vecFinish t c x e b) :=
  .bind .wReady fun _ => by
    dsimp only
    split
    · exact .bind .portTag fun _ => .bind .countEvents fun _ => .bind .portWrite fun _ => .bind .emptyRows fun _ => by
            split
            · exact .iteBind .vecFill (.pure _) fun _ => .pure _
            · exact .bind (.pure _) fun _ => .pure _
    · exact .bind .emptyRows fun _ => by
        split
        · exact .iteBind .vecFill (.pure _) fun _ => .pure _
        · exact .bind (.pure _) fun _ => .pure _
theorem Keeps.vecLastEntry {t c x e b} : Keeps (vecLastEntry t c x e b) :=
  .bind (.see _) fun _ => .ite (.bind (.upd fun _ h => .pushEntry h) fun _ => .modRun) .stall

/-! ## Machine/Retire -/

theorem Keeps.grantBlock {t c x ch e} : Keeps (grantBlock t c x ch e) :=
  .bind .mergeStamps fun _ => .modCtx _ _ _
theorem Keeps.grantHead {t c ch pending} : Keeps (grantHead t c ch pending) :=
  .bind (.getCtx _ _) fun _ => .bind (.enabled _) fun _ => .bind (.present _) fun _ => .bind (.enabled _) fun _ => .grantBlock
theorem Keeps.finishBlock {t c x ch e} : Keeps (finishBlock t c x ch e) :=
  .blockStep (by
  split
  · exact .ite .vecLastEntry (.bind .vecFinish fun _ => .modRun)
  · exact .bind .matFinish fun _ => .modRun
  · exact .idle)
theorem Keeps.lastUnit {t c x ch e} : Keeps (lastUnit t c x ch e) :=
  .blockStep (by
  split
  · exact .ite .efault (.modCtx _ _ _)
  · exact .ite .efault (.modCtx _ _ _)
  · exact .idle)
theorem KeepsStep.execBlockRetire {t c ch} : KeepsStep (execBlockRetire t c ch) :=
  .agent (.bind (.getCtx _ _) fun _ => .bind (.enabled _) fun _ => by
    dsimp only
    split
    · exact .finishBlock
    · exact .bind (.present _) fun _ => .bind (.enabled _) fun _ => .ite .lastUnit (.bind (.see _) fun _ => .bind (.enabled _) fun _ =>
        .blockStep .retireBlock))
theorem KeepsStep.execNopBlock {t c ch} : KeepsStep (execNopBlock t c ch) :=
  .agent (.bind .actingBlock fun _ => by
      split
      split
      · exact .actRetire (.pure _)
      · exact .idle)
theorem KeepsStep.execEndBlock {t c ch} : KeepsStep (execEndBlock t c ch) :=
  .agent (.bind .actingBlock fun _ => by
      split
      split
      · exact .actRetire (.modCtx _ _ _)
      · exact .idle)
theorem KeepsStep.execMarkResolve {t c ch} : KeepsStep (execMarkResolve t c ch) :=
  .agent (.bind .actingBlock fun _ => by
      split
      split
      · exact .actRetire .engineResolve
      · exact .idle)

/-! ## Machine/Shaping -/

theorem Keeps.storeChecks {t x a} : Keeps (storeChecks t x a) :=
  .bind .accessChecks fun _ => .bind .resolve fun _ => by
    dsimp only
    split
    · exact .bind (.see _) fun _ => by
        split
        · exact .bind (.trap _ _) fun _ => .pure _
        · exact .pure _
    · exact .bind .raceStep fun _ => .pure _
theorem Keeps.storeDws {t c x a ds} : Keeps (storeDws t c x a ds) :=
  .bind (.mapM _ fun _ => .storeChecks) fun _ => .forM _ fun _ => by
    split
    · exact .bind (.see _) fun _ => .bind .windowAccess fun _ => .pure _
    · exact .bind .eccWrite fun _ => .placeWrite
theorem Keeps.bankAct {t c op n a} : Keeps (bankAct t c op n a) :=
  .bind (.getCtx _ _) fun _ => by
    dsimp only
    split
    · exact .bind .loadDws fun _ => .bind (.check _ _ _) fun _ => .bind (.modCtx _ _ _) fun _ => .pure _
    · exact .bind .storeDws fun _ => .pure _
    · exact .pure _
    · exact .bind (.modCtx _ _ _) fun _ => .pure _
theorem Keeps.bankOr {op n a} : Keeps (bankOr op n a) :=
  .bind .me fun _ => .bind (.getCtx _ _) fun _ => .ite .bankAct (.waitFor _)
theorem KeepsStep.execBankIdleAction {t c} : KeepsStep (execBankIdleAction t c) := by
  intro s u h hn
  unfold Machine.execBankIdleAction at hn
  split at hn
  · cases hn; exact h
  · split at hn
    · cases hn; exact h
    · split at hn
      · split at hn
        · exact KeepsStep.waitAct .bankAct _ _ h hn
        · cases hn; exact h
      · cases hn; exact h

/-! ## Machine/Streaming -/

theorem State.MemOk.putCells {s : State} {t rs cs} (h : s.MemOk) : (putCells t rs cs s).MemOk :=
  State.MemOk.foldSet cs _ _ _ (State.MemOk.foldl h rs fun _ _ h => .zeroBytes h ..)
theorem State.MemOk.takeEps {s : State} {t es} (h : s.MemOk) : (takeEps t es s).MemOk :=
  .foldl h _ fun _ _ h => .modEp h
theorem State.MemOk.putEps {s : State} {t es} (h : s.MemOk) : (putEps t es s).MemOk :=
  .foldl h _ fun _ _ h => .modEp h
theorem State.MemOk.adoptPad {s : State} {t job} (h : s.MemOk) : (adoptPad t job s).MemOk := by
  unfold Machine.adoptPad
  split
  · exact h
  · dsimp only
    split
    · exact .setTile (.zeroBytes h ..) ..
    · exact .foldl (.setTile (.zeroBytes h ..) ..) _ fun _ _ h => .writeBytes h ..
theorem State.MemOk.readPool {s : State} {e} (h : s.MemOk) : (readPool e s).2.MemOk := by
  unfold Machine.readPool
  split
  · exact h
  · exact .writeNat (.noteBad h) ..
theorem State.MemOk.streamIn {s : State} {t c e} (h : s.MemOk) : (streamIn t c e s).MemOk := by
  unfold Machine.streamIn
  exact .setSlot (.withSaved (.setTile (.putEps (.mergeAt (.withPoison (.putCells (.adoptPad (.readPool h)))))) ..)) ..
theorem Keeps.areaChecks {t x a n} : Keeps (areaChecks t x a n) :=
  .bind (.check _ _ _) fun _ => .bind (.check _ _ _) fun _ => .bind (.forM _ fun _ => .bind .xlate fun _ => by
    split
    · exact .walkTrap
    · exact .pure _) fun _ => .forM _ fun _ => .bind .devPlace fun _ => .pure _
theorem Keeps.meterArea {t job a n write} : Keeps (meterArea t job a n write) :=
  .updMem fun _ => rfl
theorem State.MemOk.writeArea {s : State} {job a bs fuel} (h : s.MemOk) : (writeArea job a bs fuel s).MemOk := by
  induction fuel generalizing s a bs with
  | zero => exact h
  | succ k ih =>
    unfold Machine.writeArea
    split
    · exact h
    · refine ih ?_
      split
      · exact h.writeBytes ..
      · exact h
theorem State.MemOk.streamOut {s : State} {t c kind} (h : s.MemOk) : (streamOut t c kind s).MemOk := by
  unfold Machine.streamOut
  split
  · exact h
  · have h1 : ∀ es, (Machine.takeEps t es (Machine.releaseAt t .dev s).1).MemOk := fun _ => .takeEps h.releaseAt
    dsimp only
    split
    · exact .emptySlot (.withSaved (h1 _))
    · exact .emptySlot (.withForms ((h1 _).writeBytes ..))
theorem Keeps.touchRecord {t c x va n} : Keeps (touchRecord t c x va n) :=
  .bind (.see _) fun _ => by
    split
    · exact .pure _
    · exact .bind .ownTag fun _ => .bind .eccTouch fun _ => .bind .meterDws fun _ => .pure _
theorem KeepsStep.execCtxsave {h a} : KeepsStep (execCtxsave h a) := by
  unfold Machine.execCtxsave
  refine .dealer (.owningArea (.bind (.readA _) fun _ => .bind .me fun _ => .bind (.getCtx _ _) fun _ => .bind (.see _) fun _ => ?_))
  refine .bind .areaChecks fun _ => .bind (.see _) fun _ => ?_
  split
  · exact .bind (.modCtx _ _ _) fun _ => .waitFor _
  · refine .bind (.upd fun _ h => .charge h ..) fun _ => .bind .touchRecord fun _ => .bind (.getCtx _ _) fun _ => ?_
    refine .bind .release fun _ => .bind (.see _) fun _ => .bind (.see _) fun _ => .iteElse ?_ fun rest => ?_
    · refine .bind (.see _) fun _ => .bind (.see _) fun _ => .bind .meterArea fun _ => .bind (.upd fun _ h => .writeArea h) fun _ => ?_
      refine .bind (.upd fun _ h => .takeEps h) fun _ => .bind (.updMem fun _ => rfl) fun _ => ?_
      dsimp only
      split
      · exact .bind (.upd fun _ h => .writeGroupField (.setRecDw h)) fun _ => .bind (.upd fun _ h => .emptySlot h) fun _ => .pure _
      · exact .bind (.upd fun _ h => .emptySlot h) fun _ => .pure _
    · exact .bind (.check _ _ _) fun _ => .bind .recordCause fun _ => rest
theorem KeepsStep.execCtxrestore {h a} : KeepsStep (execCtxrestore h a) := by
  unfold Machine.execCtxrestore
  refine .dealer (.owningArea (.bind (.readA _) fun _ => .bind .me fun _ => .bind (.getCtx _ _) fun _ => .bind .areaChecks fun _ => ?_))
  refine .bind (.see _) fun _ => .bind .areaChecks fun _ => .bind .meterArea fun _ => .bind (.see _) fun _ => ?_
  dsimp only
  refine .iteElse ?_ fun rest => .bind (.check _ _ _) fun _ => .bind (.modCtx _ _ _) fun _ => .bind .recordCause fun _ => rest
  refine .bind (.see _) fun _ => .bind (.see _) fun _ => .bind (.see _) fun _ => .bind (.check _ _ _) fun _ => ?_
  refine .bind (.check _ _ _) fun _ => .bind (.check _ _ _) fun _ => .bind (.see _) fun _ => ?_
  split
  · exact .trap _ _
  · refine .bind .touchRecord fun _ => .bind (.upd fun _ h => .streamIn h) fun _ => .bind (.upd fun _ h => .modJob h ..) fun _ => ?_
    refine .bind .meterArea fun _ => .bind (.upd fun _ h => .writeArea h) fun _ => ?_
    split
    · exact .bind (.upd fun _ h => .setRecDw h) fun _ => .bind (.upd fun _ h => .resumeStep h ..) fun _ => .pure _
    · exact .bind (.upd fun _ h => .resumeStep h ..) fun _ => .pure _
theorem KeepsStep.execPreemption {t c} : KeepsStep (execPreemption t c) :=
  .agent (.bind (.getCtx _ _) fun _ => .ite (.bind (.see _) fun _ => .bind (.enabled _) fun _ =>
    .upd fun _ h => .streamOut h) (.bind (.see _) fun _ => .bind (.enabled _) fun _ => .bind (.see _) fun _ =>
    .ite (.upd fun _ h => .streamOut h) (.modCtx _ _ _)))

/-! ## Machine/Launch -/

theorem State.MemOk.addTenant {s : State} {k} (h : s.MemOk) : (addTenant k s).MemOk :=
  .of_mem h rfl
theorem OptOk.launchJob {s : State} {q k b} (h : s.MemOk) : OptOk (launchJob q k b s) := by
  unfold Machine.launchJob
  split
  · exact .some h
  · exact .bind' fun _ => .bind' fun _ => .ite (.some (.addTenant (.settleDies (.of_mem h rfl)))) .none
theorem OptOk.setGrant {s : State} {pa g} (h : s.MemOk) : OptOk (State.setGrant s pa g) := by
  unfold Machine.State.setGrant
  split
  · exact .some (.of_mem h rfl)
  · exact .some (.of_mem h rfl)
  · exact .none
theorem State.MemOk.resetTags {s : State} {a n} (h : s.MemOk) : (resetTags a n s).MemOk :=
  .of_mem h rfl
theorem State.MemOk.setUngranted {s : State} {job pa write checked} (h : s.MemOk) : (State.setUngranted job pa write checked s).MemOk :=
  .of_mem h rfl
theorem OptOk.putGrant {s : State} {job pa grant write checked} (h : s.MemOk) : OptOk (putGrant job pa grant write checked s) :=
  .ite .none (.ite (.ite (.setGrant (.setUngranted h)) (.ite .none (.setGrant (.resetTags (.zeroBytes (.setUngranted h) ..))))) (.ite
    (.setGrant (.setUngranted h)) (.some (.setUngranted h))))
theorem OptOk.grantChunk {s : State} {job pa} (h : s.MemOk) : OptOk (grantChunk job pa s) := by
  unfold Machine.grantChunk
  split
  · exact .ite (.some h) .none
  · exact .putGrant h
theorem OptOk.allSteps {α : Type} {s : State} {f : α → State → Option State} {l : List α} (h : s.MemOk)
    (hf : ∀ a (s : State), s.MemOk → OptOk (f a s)) : OptOk (allSteps f l s) := by
  induction l generalizing s with
  | nil => exact .some h
  | cons a r ih => exact .bind (hf a s h) fun _ h => ih h
theorem OptOk.writeImage {s : State} {job d i} (h : s.MemOk) : OptOk (writeImage job d i s) := by
  unfold Machine.writeImage
  split
  · exact .ite (.some (.foldl h _ fun _ _ h => .writeBytes h ..)) .none
  · exact .ite (.some (.foldl h _ fun _ _ h => .writeBytes h ..)) .none
  · exact .writeVia h
  · exact .ite (.some h) .none
theorem OptOk.writeRecord {s : State} {job b i} (h : s.MemOk) : OptOk (writeRecord job b i s) :=
  .bind' fun _ => .some (.foldl h _ fun _ _ h => .setRecDw h)
theorem State.MemOk.pushRecord {s : State} {job b d i} (h : s.MemOk) : (pushRecord job b d i s).MemOk := by
  unfold Machine.pushRecord
  dsimp only
  split
  · split
    · split
      · exact .leafPush h
      · exact h
    · split
      · next ho => exact OptOk.get (.overflowPush h) ho
      · exact .of_mem h (State.addErr_mem ..)
  · exact h
theorem State.MemOk.takeTile {s : State} {job t} (h : s.MemOk) : (takeTile job t s).MemOk :=
  .ite (.adoptPad h) h
theorem OptOk.launchGrid {s : State} {q k b d reloc parent} (h : s.MemOk) : OptOk (launchGrid q k b d reloc parent s) := by
  unfold Machine.launchGrid
  refine .ite .none (.bind (.launchJob h) fun s1 h1 => .ite .none ?_)
  refine .iteBind (.allSteps h1 fun _ _ h => .grantChunk h) (.some h1) fun s2 h2 => .bind' fun g => ?_
  refine .bind (.allSteps (h2.modJob ..) fun _ _ h => .writeImage h) fun s3 h3 => ?_
  refine .bind (.allSteps ((h3.writeNat ..).writeNat ..) fun _ _ h => .writeRecord h) fun s4 h4 => ?_
  refine .some (.foldl ?_ _ fun _ _ h => .pushRecord h)
  split
  · exact .foldl h4 _ fun _ _ h => .takeTile h
  · exact h4
theorem State.MemOk.dropChild {s : State} {k p} (h : s.MemOk) : (dropChild k p s).MemOk :=
  .ite h (.gridLeave h)
theorem Keeps.forgetParent {q p} : Keeps (forgetParent q p) :=
  .upd fun _ h => .modQueue h
theorem Keeps.launchOr {q k p b d reloc slot} : Keeps (launchOr q k p b d reloc slot) :=
  .bind .forgetParent fun _ => .see_bind OptOk (fun _ h => .bind' fun _ => .launchGrid h) fun _ ho => by
    split
    · exact .bind (.upd fun _ h => .dropChild h) fun _ => .startPkt
    · exact .bind (.upd fun _ _ => ho.val) fun _ => by
        dsimp only
        split
        · exact .bind (.updMem fun _ => rfl) fun _ => .startPkt
        · exact .startPkt
theorem KeepsStep.execLaunch {q} : KeepsStep (execLaunch q) :=
  .agent (.taking (fun _ _ _ => .bind .accessFails fun _ => .iteThen .portError fun _ => .bind (.see _) fun _ => .bind (.see _) fun _ =>
    .ite .launchOr (.bind .recordBad fun _ => .launchOr)))
theorem KeepsStep.execInvoke {q} : KeepsStep (execInvoke q) :=
  .agent (.taking (fun _ _ _ => .bind (.see _) fun _ => .bind .accessFails fun _ => .iteThen .portError fun _ => by
    dsimp only
    split
    · exact .bind .forgetParent fun _ => .bind (.upd fun _ h => .dropChild h) fun _ => .startPkt
    · exact .bind (.see _) fun _ => .bind (.see _) fun _ => by
        split
        · exact .bind (.see _) fun _ => .bind .recordBad fun _ => .bind .recordBad fun _ => .bind (.see _) fun _ =>
            .bind .recordBad fun _ => .launchOr
        · exact .bind .forgetParent fun _ => .bind (.upd fun _ h => .dropChild h) fun _ => .startPkt))
theorem Keeps.setModel {i m} : Keeps (setModel i m) :=
  .updMem fun _ => rfl
theorem Keeps.modPkt {q i f} : Keeps (modPkt q i f) :=
  .upd fun _ h => .modQueue h
theorem Keeps.loadLocked {q k i l} : Keeps (loadLocked q k i l) :=
  .bind (.see _) fun _ => .bind (.enabled _) fun _ => .bind (.updMem fun _ => rfl) fun _ => .bind (.see _) fun _ =>
    .ite .modPkt (.ite (.bind .setModel fun _ => .modPkt) (.bind (.see _) fun _ => .bind (.see _) fun _ => .bind (.enabled _) fun _ =>
    .bind .setModel fun _ => .modPkt))
theorem Keeps.loadCopy {q k i l} : Keeps (loadCopy q k i l) :=
  .bind (.see _) fun _ => .bind .accessFails fun _ => .iteThen .portError fun _ => .see_bind OptOk (fun _ h => .ite .none (.map fun _ =>
    .writeBytes h ..)) fun _ ho => by
    dsimp only
    split
    · exact .bind .setModel fun _ => .modPkt
    · exact .bind (.see _) fun _ => .bind (.upd fun _ _ => ho.val) fun _ => .bind .recordBad fun _ => .bind (.see _) fun _ =>
        .ite (.bind .setModel fun _ => .modPkt) (.bind .setModel fun _ => .modPkt)
theorem KeepsStep.execLoadModel {q} : KeepsStep (execLoadModel q) :=
  .agent (.bind .queueNo fun _ => .bind (.see _) fun _ => .bind (.see _) fun _ => by
    dsimp only
    split
    · exact .ite .loadCopy .loadLocked
    · exact .taking (fun _ _ _ => .startPkt))

/-! ## Machine/Registers -/

theorem Keeps.regRead {who off size} : Keeps (regRead who off size) :=
  .bind (.see _) fun _ =>
    .ite (.pure _) (.ite (.pure _) (.ite (.pure _) (.ite (.pure _) (.ite (.pure _) (.ite (.pure _) (.ite (.pure _) (.ite (.pure _) (.ite
    (.pure _) (.dite (fun _ => .pure _) fun _ => .dite (fun _ => .dite (fun _ => .pure _) fun _ => .pure _) fun _ =>
    .ite (.pure _) (.pure _))))))))))
theorem Keeps.writeQueue {q locked off size v} : Keeps (writeQueue q locked off size v) :=
  .bind (.see _) fun _ =>
    .ite (.upd fun _ h => .modQueue h) (.ite (.upd fun _ h => .modQueue h) (.bind (.upd fun _ h => .modQueue h) fun _ => .haltMalformed))
theorem State.MemOk.setShare {s : State} {i k} (h : s.MemOk) : (setShare i k s).MemOk :=
  .ite (.of_mem (.settleDies h) rfl) (.settleDies h)
theorem State.MemOk.setBudget {s : State} {q off size v} (h : s.MemOk) : (setBudget q off size v s).MemOk :=
  .deschedule (.modQueue (.settleQueue h))
theorem State.MemOk.setOutw {s : State} {i e} (h : s.MemOk) : (State.setOutw s i e).MemOk :=
  .of_mem h rfl
theorem Keeps.locked {who l off m} (hm : Keeps m) : Keeps (locked who l off m) :=
  .bind (.see _) fun _ => .ite hm .portError
theorem Keeps.setDeck {t n which v} : Keeps (setDeck t n which v) :=
  .modTile _ _
theorem Keeps.modSlot {t k f} : Keeps (modSlot t k f) :=
  .dite (fun _ => .bind (.see _) fun _ => .ite (.modCtx _ _ _) (.modTile _ _)) fun _ => .modTile _ _
theorem Keeps.writeSlotCsr {t k n v} : Keeps (writeSlotCsr t k n v) :=
  .dite (fun _ => .setDeck) fun _ => .modSlot
theorem State.MemOk.setEntry {s : State} {k pa v} (h : s.MemOk) : (setEntry k pa v s).MemOk := by
  unfold Machine.setEntry
  split
  · exact h
  · exact OptOk.getD (.putGrant h) h
theorem State.MemOk.setPool {s : State} {d f} (h : s.MemOk) : (setPool d f s).MemOk :=
  .of_mem (.settleDies h) rfl
theorem State.MemOk.setDieDw {s : State} {d kind k v} (h : s.MemOk) : (setDieDw d kind k v s).MemOk := by
  unfold Machine.setDieDw
  split
  · exact .ite (.setPool h) (.ite (.setPool h) h)
  · exact .setEntry h
  · exact .setEntry h
  · split
    · exact .ite (.setCancel h) h
    · exact h
  · exact h
theorem Keeps.setTileDw {t kind k v} : Keeps (setTileDw t kind k v) :=
  .dite (fun _ => .setDeck) fun _ => .dite (fun _ => .modSlot) fun _ => .ite (.modTile _ _) (.ite (.modTile _ _) (.pure _))
theorem State.MemOk.setBankerReg {s : State} {kind v} (h : s.MemOk) : (setBankerReg kind v s).MemOk :=
  .ite (.of_mem h rfl) (.ite (.of_mem h rfl) (.dite (fun _ => .of_mem h rfl) fun _ => h))
theorem Keeps.writeModule {who off size v} : Keeps (writeModule who off size v) := by
  unfold Machine.writeModule
  split
  · exact .locked (.ite (.updMem fun _ => rfl) (.pure _))
  · split
    · exact .locked (.pure _)
    · split
      · exact .locked (by
          split
          · exact .updMem fun _ => rfl
          · exact .pure _)
      · exact .ite (.dite (fun _ => .updMem fun _ => rfl) fun _ => .pure _) (.ite (.upd fun _ h => .setBankerReg h) (.pure _))
theorem Keeps.regWrite {who off size v} : Keeps (regWrite who off size v) :=
  .bind (.see _) fun _ => .ite (.pure _) (.ite .portError (.ite .writeModule (.dite (fun _ => .ite (.updMem fun _ =>
    rfl) .portError) fun _ => .dite (fun _ => .iteThen .portError fun _ => .writeQueue) fun _ => .dite (fun _ =>
    .locked (.upd fun _ h => .setBudget h)) fun _ => .dite (fun _ => .locked (.updMem fun _ => rfl)) fun _ => .dite (fun _ =>
    .locked (.upd fun _ h => .setShare h)) fun _ =>
    .ite (.locked (.upd fun _ h => .setOutw h)) (.ite (.locked (.upd fun _ h => .setInw h)) (.dite (fun _ =>
    .ite (.pure _) (.upd fun _ h => .setDieDw h)) fun _ => .dite (fun _ => .ite (.pure _) (.dite (fun _ => .writeSlotCsr) fun _ =>
    .setTileDw)) fun _ => .ite (.locked (.upd fun _ h => .writeNat h ..)) (.pure _))))))
theorem Keeps.writeStep {row} : Keeps (writeStep row) :=
  .bind (.see _) fun _ => .bind (.enabled _) fun _ => .regWrite
theorem Keeps.setChecked {job va base} : Keeps (setChecked job va base) :=
  .bind (.see _) fun _ => by
    dsimp only
    split
    · exact .bind (.enabled _) fun _ => .ite (.bind (.upd fun _ h => .resetTags h) fun _ =>
        .upd fun _ h => .writeNat h ..) (.bind (.enabled _) fun _ => .bind (.updMem fun _ => rfl) fun _ =>
        .bind (.upd fun _ h => .resetTags h) fun _ => .upd fun _ h => .writeNat h ..)
    · exact .idle
theorem Keeps.bankerWrite {l} : Keeps (bankerWrite l) := by
  unfold Machine.bankerWrite
  split
  · exact .upd fun _ h => .setBankerReg h
  · exact .updMem fun _ => rfl
  · exact .bind (.enabled _) fun _ => .upd fun _ h => .setBankerReg h
  · exact .dite (fun _ => .upd fun _ h => .setPool h) fun _ => .idle
  · exact .dite (fun _ => .setDeck) fun _ => .idle
  · exact .setChecked
  · exact .see_bind OptOk (fun _ h => .putGrant h) fun _ ho => .present_bind ho fun _ hp1 => .upd fun _ _ => hp1
  · exact .bind (.see _) fun _ => .bind (.enabled _) fun _ => .upd fun _ h => .cancelJob h
  · exact .dite (fun _ => .updMem fun _ => rfl) fun _ => .idle
  · exact .idle
theorem KeepsStep.execHsemTake : KeepsStep execHsemTake :=
  .agent (.bind (.see _) fun _ => .dite (fun _ => .bind (.see _) fun _ => .ite (.updMem fun _ => rfl) (.bind (.enabled _) fun _ =>
    .updMem fun _ => rfl)) fun _ => .idle)
theorem Keeps.hostRead {a n} : Keeps (hostRead a n) :=
  .bind (.see _) fun _ => .bind (.updMem fun _ => rfl) fun _ => .recordBad
theorem KeepsStep.execHostMemoryAccess : KeepsStep execHostMemoryAccess :=
  .agent (.bind (.see _) fun _ => .bind (.enabled _) fun _ => .ite (.bind (.enabled _) fun _ => .ite (.bind .regRead fun _ =>
    .updMem fun _ => rfl) (.bind .portError fun _ => .updMem fun _ => rfl)) (.bind (.enabled _) fun _ =>
    .ite (.ite (.upd fun _ h => .writeCarve h) .hostRead) (.ite (.pure _) (.updMem fun _ => rfl))))
theorem Keeps.heldForDebug {t c} : Keeps (heldForDebug t c) :=
  .bind (.getCtx _ _) fun _ => .bind (.enabled _) fun _ => .pure _
theorem KeepsStep.execDebugAccess : KeepsStep execDebugAccess :=
  .agent (.bind (.see _) fun _ => .ite (.bind (.enabled _) fun _ => .ite .regWrite (.bind .regRead fun _ => .updMem fun _ =>
    rfl)) (.ite (.dite (fun _ => .ite (.updMem fun _ => rfl) (.updMem fun _ => rfl)) fun _ => .idle) (.ite (.dite (fun _ =>
    .bind .heldForDebug fun _ => .ite .leafResume (.ite (.modCtx _ _ _) (.updMem fun _ => rfl))) fun _ => .idle) .idle)))

/-! ## Machine/Ticks -/

theorem State.MemOk.noteHolders {s : State} (h : s.MemOk) : (noteHolders s).MemOk :=
  .foldl h _ fun _ _ h => .foldl h _ fun _ _ h => by
    split
    · exact h
    · exact .noteBad (.noteBad h)
theorem Keeps.recordThermal {kind} : Keeps (recordThermal kind) :=
  .bind (.see _) fun _ => .recordPhys
theorem State.MemOk.takeTemps {s : State} {l} (h : s.MemOk) : (takeTemps l s).MemOk :=
  .of_mem h rfl
theorem State.MemOk.noteTemps {s : State} (h : s.MemOk) : (noteTemps s).MemOk :=
  .of_mem h rfl
theorem Keeps.applyMode {m stop} : Keeps (applyMode m stop) :=
  .bind (.see _) fun _ => .bind (.upd fun _ h => .settleDies h) fun _ => .bind (.updMem fun _ => rfl) fun _ => .bind (.updMem fun _ =>
    rfl) fun _ => .ite (.pure _) (.bind .drawNat fun _ => .recordPhys)
theorem Keeps.stepDown : Keeps stepDown :=
  .bind (.updMem fun _ => rfl) fun _ => .bind .recordThermal fun _ => .bind (.see _) fun _ => .ite (.pure _) .applyMode
theorem Keeps.tripNow : Keeps tripNow :=
  .bind (.updMem fun _ => rfl) fun _ => .bind (.see _) fun _ => .ite .recordThermal .recordPhys
theorem State.MemOk.recordSlip {s : State} {job} (h : s.MemOk) : (recordSlip job s).MemOk :=
  .addErr h ..
theorem State.MemOk.noteBudgets {s : State} (h : s.MemOk) : (noteBudgets s).MemOk :=
  State.MemOk.withQueues (.foldl h _ fun _ _ h => .settleQueue h)
theorem State.MemOk.advanceFrame {s : State} (h : s.MemOk) : (advanceFrame s).MemOk :=
  .of_mem h rfl
theorem State.MemOk.settlePend {s : State} (h : s.MemOk) : (settlePend s).MemOk :=
  .ite (.of_mem h rfl) h
theorem Keeps.frameTick : Keeps frameTick :=
  .bind (.upd fun _ h => .foldl h _ fun _ _ h => .recordSlip h) fun _ => .bind (.upd fun _ h => .advanceFrame h) fun _ =>
    .bind (.upd fun _ h => .noteBudgets h) fun _ => .bind (.see _) fun _ => .iteThen .stepDown fun _ =>
    .bind (.upd fun _ h => .settlePend h) fun _ => .bind (.see _) fun _ => .bind (.upd fun _ h => .takeTemps h) fun _ =>
    .bind (.upd fun _ h => .noteTemps h) fun _ => .bind (.see _) fun _ => .ite .tripNow (.pure _)
theorem KeepsStep.execFrameTick : KeepsStep execFrameTick :=
  .agent (.bind (.see _) fun _ => .bind (.enabled _) fun _ => .bind (.see _) fun _ => .bind (.upd fun _ h => .noteHolders h) fun _ =>
    .ite (.updMem fun _ => rfl) .frameTick)
theorem KeepsStep.execThermalStepUp : KeepsStep execThermalStepUp :=
  .agent (.bind (.see _) fun _ => .bind (.present _) fun _ => .bind (.enabled _) fun _ => .bind (.updMem fun _ => rfl) fun _ =>
    .recordThermal)
theorem KeepsStep.execThermalTrip : KeepsStep execThermalTrip :=
  .agent (.bind (.see _) fun _ => .bind (.upd fun _ h => .takeTemps h) fun _ => .bind (.updMem fun _ => rfl) fun _ =>
    .bind (.see _) fun _ => .bind (.enabled _) fun _ => .tripNow)

/-! ## Machine/Bringup -/

theorem State.MemOk.coldReset {s : State} (h : s.MemOk) : (coldReset s).MemOk := State.MemOk.foldSet _ _ _ _ (h.filter _)
theorem State.MemOk.warmReset {s : State} (h : s.MemOk) : (warmReset s).MemOk := h.filter _
theorem KeepsStep.execManagementReset : KeepsStep execManagementReset :=
  .agent (.bind (.see _) fun _ => .ite (.updMem fun _ => rfl) (.upd fun _ h => by
    split
    · exact .coldReset h
    · exact .warmReset h))
theorem KeepsStep.execPortReset : KeepsStep execPortReset :=
  .agent (.bind (.see _) fun _ => .dite (fun _ => .bind (.see _) fun _ => .bind (.updMem fun _ => rfl) fun _ => .forM _ fun _ =>
    .recordPhys) fun _ => .idle)
theorem Keeps.loadProc {p img} : Keeps (loadProc p img) :=
  .bind (.see _) fun _ => .ite (.updMem fun _ => rfl) .recordPhys
theorem KeepsStep.execFirmwareImageLoad : KeepsStep execFirmwareImageLoad :=
  .agent (.bind (.see _) fun _ => .bind (.enabled _) fun _ => .bind (.see _) fun _ => .bind (.enabled _) fun _ =>
    .bind (.see _) fun _ => .ite .loadProc (.dite (fun _ => .loadProc) fun _ => .idle))
theorem KeepsStep.execBankerBoot : KeepsStep execBankerBoot :=
  .agent (.bind (.see _) fun _ => .bind (.enabled _) fun _ => .bind (.see _) fun _ => .bind (.see _) fun _ => .ite (.updMem fun _ =>
    rfl) (.bind (.updMem fun _ => rfl) fun _ => .recordPhys))
theorem KeepsStep.execHbmTraining : KeepsStep execHbmTraining :=
  .agent (.bind (.see _) fun _ => .bind (.enabled _) fun _ => .bind (.see _) fun _ => .bind (.forM _ fun _ => .recordPhys) fun _ =>
    .updMem fun _ => rfl)
theorem State.MemOk.clearPools {s : State} (h : s.MemOk) : (clearPools s).MemOk := h.filter _
theorem KeepsStep.execLeafBoot : KeepsStep execLeafBoot :=
  .agent (.bind (.see _) fun _ => .bind (.enabled _) fun _ => .bind (.see _) fun _ => .bind (.upd fun _ h => .clearPools h) fun _ =>
    .bind (.forM _ fun _ => .loadProc) fun _ => .updMem fun _ => rfl)
theorem KeepsStep.execBringupReady : KeepsStep execBringupReady :=
  .agent (.bind (.see _) fun _ => .bind (.enabled _) fun _ => .bind (.see _) fun _ => .bind (.see _) fun _ =>
    .bind (.enabled _) fun _ => .iteThen .frameTick fun _ => .bind (.see _) fun _ => .ite (.pure _) (.bind (.updMem fun _ =>
    rfl) fun _ => .bind (.see _) fun _ => .bind (.see _) fun _ => .applyMode))
theorem KeepsStep.execErrorCheckAndScrub : KeepsStep execErrorCheckAndScrub :=
  .agent (.bind (.see _) fun _ => .ite (.dite (fun _ => .upd fun _ h => .ite (.setTile h ..) h) fun _ =>
    .idle) (.bind (.enabled _) fun _ => .iteThen (.updMem fun _ => rfl) fun _ => .ite (.bind (.upd fun _ h => .bumpCounter h) fun _ =>
    .recordPhys) (.pure _)))

/-! ## Machine/Control -/

theorem KeepsStep.compare {g ct p q k operands} (hoperands : Keeps operands) : KeepsStep (compare g ct p q k operands) :=
  .dealer (.bind .myCtx fun _ => .ite (.bind hoperands fun _ => .bind (.modMe _) fun _ => .pure _) (.bind (.modMe _) fun _ => .pure _))
theorem Keeps.cmpRegs {a c} : Keeps (cmpRegs a c) :=
  .bind (.readA _) fun _ => .bind (.readC _ _) fun _ => .pure _
theorem Keeps.cmpImm {a v} : Keeps (cmpImm a v) :=
  .bind (.readA _) fun _ => .pure _
theorem Keeps.jumpCheck {tgt} : Keeps (jumpCheck tgt) :=
  .check _ _ _
theorem KeepsStep.execLoop {h a last} : KeepsStep (execLoop h a last) :=
  .dealer (.bind (.readA _) fun _ => .bind .myCtx fun _ => .bind (.check _ _ _) fun _ => .bind (.check _ _ _) fun _ =>
    .bind (.modMe _) fun _ => .pure _)

/-! ## Machine/Ending -/

theorem KeepsStep.execEndRec {h} : KeepsStep (execEndRec h) :=
  .dealer (.owning (.bind .me fun _ => .bind (.getCtx _ _) fun _ => .bind (.see _) fun _ => .ite .cancelHere (.bind .drainStart fun _ =>
    .bind (.getCtx _ _) fun _ => .bind (.see _) fun _ => .ite (.bind .drainAcquire fun _ =>
    .bind (.upd fun _ h => .charge h ..) fun _ => .bind (.upd fun _ h => .retireCtx h) fun _ => .pure _) (.waitFor _))))
theorem KeepsStep.execCancel {h a} : KeepsStep (execCancel h a) :=
  .dealer (.bind (.readA _) fun _ => .bind .me fun _ => .bind (.getCtx _ _) fun _ => .bind (.check _ _ _) fun _ =>
    .bind (.upd fun _ h => .setCancel h) fun _ => .bind (.see _) fun _ => .ite (.pure _) (.waitFor _))
theorem KeepsStep.execCancelFlagsSet {t c} : KeepsStep (execCancelFlagsSet t c) :=
  .agent (.bind (.getCtx _ _) fun _ => .bind (.present _) fun _ => by
    split
    · exact .bind (.see _) fun _ => .bind (.upd fun _ h => .foldl h _ fun _ _ h => .ite (.setCancel h) h) fun _ =>
        .bind (.see _) fun _ => .ite .finishWait (.pure _)
    · exact .idle)
theorem State.MemOk.freeContexts {s : State} {job} (h : s.MemOk) : (freeContexts job s).MemOk := by
  unfold Machine.freeContexts
  refine .withSaved (.foldl (.foldSlots h _ _ fun s t c h => ?_) _ fun _ _ h => .ite (.releaseCtx (.unbindSaved h)) h)
  split
  · exact .ite (.emptySlot (.releaseCtx h)) h
  · exact h
theorem KeepsStep.execJobCancelComplete {job} : KeepsStep (execJobCancelComplete job) :=
  .agent (.bind (.see _) fun _ => .bind (.enabled _) fun _ => .bind (.upd fun _ h => .freeContexts h) fun _ => .bind (.see _) fun _ =>
    .upd fun _ h => .endJob (.foldl h _ fun _ _ h => .gridDone h))

/-! ## Machine/Enqueue -/

theorem Keeps.enqPlace {t x a} : Keeps (enqPlace t x a) :=
  .ite (.bind (.check _ _ _) fun _ => .bind (.check _ _ _) fun _ => .bind (.see _) fun _ => .bind (.check _ _ _) fun _ =>
    .pure _) .operandPlace
theorem Keeps.enqFetch {t c x a k} : Keeps (enqFetch t c x a k) :=
  .bind .noteRead fun _ => .iteThen .meterPa fun _ => .bind .eccRead fun _ => .iteThen .ownParent fun _ => .pure _
theorem State.MemOk.enqEntry {s : State} {t k} (h : s.MemOk) : (enqEntry t k s).MemOk := by
  unfold Machine.enqEntry
  split
  · exact .request h
  · split
    · exact .request h
    · exact h
theorem State.MemOk.gridReq {s : State} {t job va} (h : s.MemOk) : (gridReq t job va s).MemOk := by
  unfold Machine.gridReq
  split
  · exact .request h
  · exact h
theorem State.MemOk.enqueue {s : State} {t x q bs} (h : s.MemOk) : (enqueue t x q bs s).MemOk := by
  have h0 : (Machine.enqEntry t (s.queue q) s).MemOk := .enqEntry h
  have h1 : (match Machine.writeVia (queueAt (Machine.enqEntry t (s.queue q) s) (s.queue q) · true) ((s.queue q).entry
    (s.queue q).tail) bs
      (Machine.enqEntry t (s.queue q) s) with
    | some s' => s'
    | none => Machine.enqEntry t (s.queue q) s).MemOk := by
    split
    · next ho => exact OptOk.get (.writeVia h0) ho
    · exact h0
  exact .modQueue (.ite h1 (.gridUp (.gridReq h1)))
theorem KeepsStep.execEnq {h a c} : KeepsStep (execEnq h a c) :=
  .dealer (.owningArea (.bind (.readA _) fun _ => .bind (.readC _ _) fun _ => .bind .me fun _ => .bind (.getCtx _ _) fun _ =>
    .dite (fun _ => .bind .enqPlace fun _ => .bind (.see _) fun _ => .bind (.check _ _ _) fun _ => .bind .release fun _ =>
    .bind (.see _) fun _ => .ite (.pure _) (.bind (.see _) fun _ => .ite (.waitFor _) (.bind .enqFetch fun _ =>
    .bind (.upd fun _ h => .enqueue h) fun _ => .pure _))) fun _ => .trap _ _))
theorem KeepsStep.execEnqQueueRoom {t c} : KeepsStep (execEnqQueueRoom t c) := by
  unfold Machine.execEnqQueueRoom
  refine .agent (.bind (.getCtx _ _) fun x => .bind (.present _) fun w => ?_)
  split
  · next pa q _ =>
    refine .bind (.see _) fun _ => .ite .finishWait ?_
    refine .bind .queueNo fun _ => .bind (.see _) fun _ => .bind (.enabled _) fun _ => .bind .onDealer fun _ => ?_
    refine .see_bind State.MemOk (fun _ h => h) fun s h => ?_
    have h1 := (Keeps.enqFetch (t := t) (c := c) (x := x) (a := x.pc) (k := pa.toNat)).run h
    generalize Machine.enqFetch t c x x.pc pa.toNat s = r at h1 ⊢
    cases r with
    | error e => exact .modCtx _ _ _
    | ok p => exact .bind (.paying (.upd fun _ _ => .ownLines (.enqueue h1.memOk))) fun _ => .finishWait
  · exact .idle

/-! ## Machine/Ordering -/

theorem KeepsStep.execFence {h sc ord} : KeepsStep (execFence h sc ord) :=
  .dealer (.bind .me fun _ => .bind (.getCtx _ _) fun _ => .iteBind .release (.pure _) fun _ => .iteThen (.modMe _) fun _ =>
    .iteThen .dealerAcquire fun _ => .iteThen .soEnter fun _ => .pure _)
theorem KeepsStep.execTprobe {h d a} : KeepsStep (execTprobe h d a) :=
  .dealer (.bind (.readA _) fun _ => .bind .me fun _ => .bind (.getCtx _ _) fun _ => by
      split
      · exact .op0
      · exact .bind .xlate fun _ => by
          split
          · exact .op0
          · exact .bind (.see _) fun _ => .op0)

/-! ## Machine/Packets -/

theorem KeepsStep.execCopy {q} : KeepsStep (execCopy q) :=
  .agent (.taking (fun _ _ _ => .bind .accessFails fun _ => .see_bind OptOk (fun _ h => .ite .none (.bind' fun _ =>
    .writeVia h)) fun _ ho => by
    split
    · exact .ite .finishPkt .startPkt
    · exact .bind (.see _) fun _ => .bind (.upd fun _ _ => ho.val) fun _ => .bind .recordBad fun _ => .finishPkt))
theorem KeepsStep.execSignal {q} : KeepsStep (execSignal q) :=
  .agent (.taking (fun _ _ _ => .bind (.see _) fun _ => .bind .accessFails fun _ => by
    split
    · exact .ite (.bind (.see _) fun _ => .bind .recordBad fun _ => .bind (.upd fun _ h => .writeBytes h ..) fun _ =>
        .finishPkt) (.bind (.upd fun _ h => .writeNat h ..) fun _ => .finishPkt)
    · exact .finishPkt))
theorem KeepsStep.execWaitPoll {q} : KeepsStep (execWaitPoll q) :=
  .agent (.bind .queueNo fun _ => .bind (.see _) fun _ => .bind (.present _) fun _ => .bind (.see _) fun _ =>
    .bind .accessFails fun _ => by
    split
    · exact .bind (.see _) fun _ => .bind .recordBad fun _ => .bind (.see _) fun _ => .ite (.iteThen .portError fun _ =>
        .bind (.upd fun _ h => .modQueue h) fun _ => .startPkt) (.pure _)
    · exact .iteThen .portError fun _ => .bind (.upd fun _ h => .modQueue h) fun _ => .startPkt)

/-! ## Machine/Switch -/

theorem State.MemOk.switchTo {s : State} {t c} (h : s.MemOk) : (switchTo t c s).MemOk :=
  .modCtx (.setTile (.modCtx h ..) ..) ..
theorem State.MemOk.enterSlot {s : State} {t c} (h : s.MemOk) : (enterSlot t c s).MemOk :=
  .ite (.switchTo h) h
theorem KeepsStep.execContextSwitch {t} : KeepsStep (execContextSwitch t) :=
  .agent (.bind (.see _) fun _ => .bind (.getCtx _ _) fun _ => .bind (.see _) fun _ => .bind (.enabled _) fun _ =>
    .bind (.see _) fun _ => .bind (.enabled _) fun _ => .upd fun _ h => .switchTo h)
theorem KeepsStep.execTimeSliceExpiry {t} : KeepsStep (execTimeSliceExpiry t) :=
  .agent (.bind (.see _) fun _ => .bind (.getCtx _ _) fun _ => .bind (.getCtx _ _) fun _ => .bind (.see _) fun _ =>
    .bind (.enabled _) fun _ => .bind (.see _) fun _ => .bind (.enabled _) fun _ => .upd fun _ h => .switchTo h)

/-! ## Machine/Pop -/

theorem State.MemOk.dequeue {s : State} {t p} (h : s.MemOk) : (dequeue t p s).MemOk := by
  unfold Machine.dequeue
  split
  · exact .ite (.setDkt (.foldl h _ fun _ _ h => .writeNat h ..)) (.setDkt (.foldl h _ fun _ _ h => .writeNat h ..))
  · exact .of_mem h rfl
theorem Keeps.moveRecord {cl i} : Keeps (moveRecord cl i) :=
  .bind (.see _) fun _ => .dite (fun _ => .bind (.see _) fun _ => .bind (.present _) fun _ => .bind (.see _) fun _ =>
    .bind (.enabled _) fun _ => .bind (.upd fun _ h => .dequeue h) fun _ =>
    .see_bind OptOk (fun _ h => .overflowPush h) fun _ ho => .present_bind ho fun _ hp1 => .upd fun _ _ => hp1) fun _ => .idle
theorem KeepsStep.execOverflowPushRetry {cl i} : KeepsStep (execOverflowPushRetry cl i) :=
  .agent (.bind (.see _) fun _ => .ite .moveRecord (.bind (.see _) fun _ => .bind (.present _) fun _ => .bind (.see _) fun _ =>
    .bind (.present _) fun _ => .bind (.upd fun _ h => .noteBad h) fun _ =>
    .see_bind OptOk (fun _ h => .ownerPush (.setRecDw (.hwTouch h))) fun _ ho => .present_bind ho fun _ hp1 => .bind
    (.upd fun _ _ => hp1) fun _ => .updMem fun _ => rfl))
theorem State.MemOk.noteRebind {s : State} {t q} (h : s.MemOk) : (noteRebind t q s).MemOk :=
  .addErr h ..
/-- A family of state updates keeps memory canonical. -/
structure KeepAll {α β : Type} (f : α → β → State → State) : Prop where
  memOk : ∀ a b {s : State}, s.MemOk → (f a b s).MemOk
/-- Said of the function and not of its values: the list of the 384 tiles is generalised before anything is reduced. -/
theorem keepAll_dropResumed : KeepAll dropResumed := by
  delta Machine.dropResumed
  generalize List.finRange 384 = l
  revert l
  refine id fun l => ⟨fun job num s h => ?_⟩
  dsimp only
  generalize hu : List.foldl _ _ l = u
  have h1 : u.MemOk := by
    rw [← hu]
    refine .foldSlots h _ _ fun s t c h => .ite ?_ h
    split
    · exact .emptySlot (.releaseCtx h)
    · exact h
  split
  · exact .withSaved (.releaseCtx (.unbindSaved h1))
  · exact h1
theorem State.MemOk.dropResumed {s : State} {job num} (h : s.MemOk) : (dropResumed job num s).MemOk := keepAll_dropResumed.memOk _ _ h
theorem State.MemOk.retirePopped {s : State} {t q pa cause} (h : s.MemOk) : (retirePopped t q pa cause s).MemOk :=
  .ite (.dropResumed (.retireRec (.ite (.writeGroup (.dequeue h)) (.dequeue h)))) (.retireRec (.ite (.writeGroup (.dequeue h))
    (.dequeue h)))
theorem Keeps.startRun {t pa} : Keeps (startRun t pa) :=
  .bind (.upd fun _ h => .setRecDw h) fun _ => .bind (.see _) fun _ => .dealerAcquire
theorem Keeps.vacate {t c} : Keeps (vacate t c) :=
  .bind (.see _) fun _ => by
    split
    · exact .pure _
    · exact .bind (.see _) fun _ => .bind (.enabled _) fun _ => .upd fun _ h => .streamOut h
theorem Keeps.popTouch {t q} : Keeps (popTouch t q) :=
  .bind (.see _) fun _ => .bind (.upd fun _ h => .hwTouch h) fun _ => .pure _
theorem Keeps.popRace {t c q raced} : Keeps (popRace t c q raced) := by
  unfold Machine.popRace
  split
  · exact .upd fun _ h => by
      split
      · exact .enterTrap h ..
      · exact h
  · exact .pure _
theorem Keeps.popInto {t c num q pa} : Keeps (popInto t c num q pa) :=
  .bind (.see _) fun _ => .ite (.upd fun _ h => .retirePopped h) (.bind (.see _) fun _ =>
    .ite (.bind (.upd fun _ h => .retirePopped h) fun _ => .upd fun _ h => .addErr h ..) (.bind (.see _) fun _ =>
    .ite (.bind (.see _) fun _ => .bind .popTouch fun _ => .bind (.upd fun _ h => .dequeue h) fun _ => .bind (.see _) fun _ =>
    .ite (.bind .startRun fun _ => .bind (.see _) fun _ => .bind (.upd fun _ h => .modCtx h ..) fun _ =>
    .bind (.upd fun _ h => .resumeStep h ..) fun _ => .bind .popRace fun _ => .upd fun _ h => .enterSlot h) (.bind (.see _) fun _ =>
    .bind (.present _) fun _ => .bind .vacate fun _ => .bind (.upd fun _ h => .streamIn h) fun _ => .bind .startRun fun _ =>
    .bind (.see _) fun _ => .bind (.upd fun _ h => .modCtx h ..) fun _ => .bind (.upd fun _ h => .resumeStep h ..) fun _ =>
    .bind .popRace fun _ => .upd fun _ h => .enterSlot h)) (.bind (.see _) fun _ => .bind (.see _) fun _ =>
    .ite (.bind (.enabled _) fun _ => .bind .vacate fun _ => .bind .popTouch fun _ => .bind (.upd fun _ h => .dequeue h) fun _ =>
    .bind (.upd fun _ h => .adoptPad h) fun _ => .bind (.upd fun _ h => .modJob h ..) fun _ => .bind (.see _) fun _ =>
    .bind (.upd fun _ h => .setSlot h ..) fun _ => .bind .startRun fun _ => .bind .popRace fun _ =>
    .upd fun _ h => .enterSlot h) (.upd fun _ h => .addErr h ..))))
theorem KeepsStep.execRecordPop {t c num} : KeepsStep (execRecordPop t c num) :=
  .agent (.bind (.see _) fun _ => .bind (.enabled _) fun _ => .bind (.see _) fun _ => .bind (.see _) fun _ => by
    split
    · exact .bind (.see _) fun _ => .bind (.present _) fun _ => .bind .vacate fun _ => .bind (.upd fun _ h => .streamIn h) fun _ =>
        .bind (.upd fun _ h => .resumeStep h ..) fun _ => .upd fun _ h => .enterSlot h
    · exact .bind (.see _) fun _ => .bind (.upd fun _ h => .foldl h _ fun _ _ h => .noteRebind h) fun _ => .bind (.enabled _) fun _ => by
        split
        · exact .pure _
        · exact .bind (.see _) fun _ => .bind (.present _) fun _ => .bind (.upd fun _ h => .noteBad h) fun _ => .popInto)

/-! ## Machine/Shares -/

theorem KeepsStep.execSubnetworkPower {t up} : KeepsStep (execSubnetworkPower t up) :=
  .agent (.bind (.see _) fun _ => by
    dsimp only
    split
    · exact .modTile _ _
    · exact .dite (fun _ => .ite (.bind (.enabled _) fun _ => .modTile _ _) (.bind (.enabled _) fun _ => .modTile _ _)) fun _ => .idle)
theorem KeepsStep.execBudgetPeriodEnd {q} : KeepsStep (execBudgetPeriodEnd q) :=
  .agent (.bind .queueNo fun _ => .bind (.see _) fun _ => .bind (.present _) fun _ => .bind (.see _) fun _ =>
    .bind (.enabled _) fun _ => .upd fun _ h => .closePeriod h)

/-! ## Machine/Fetch -/

theorem Keeps.fetchFault {α : Type} {c} : Keeps (fetchFault c : M α) :=
  .trapDrop
theorem Keeps.fetchPlace {t x pc} : Keeps (fetchPlace t x pc) := by
  unfold Machine.fetchPlace
  dsimp only
  split
  · exact .bind .xlate fun _ => by
      split
      · exact .walkTrap
      · split
        · exact .bind (.see _) fun _ => by
            split
            · exact .fetchFault
            · exact .pure _
        · exact .fetchFault
  · split
    · exact .bind (.see _) fun _ => by
        split
        · exact .fetchFault
        · exact .pure _
    · exact .fetchFault
  · split
    · exact .bind (.see _) fun _ => by
        split
        · exact .fetchFault
        · exact .pure _
    · exact .fetchFault
  · exact .fetchFault
theorem Keeps.meterFetch {t pa} : Keeps (meterFetch t pa) :=
  .ite (.bind .drawBit fun _ => .ite .meterPa (.pure _)) (.pure _)
theorem Keeps.fetchWord {t x pa} : Keeps (fetchWord t x pa) :=
  .bind (.see _) fun _ => .iteBind .drawBit (.pure _) fun _ => .iteThen (.modTile _ _) fun _ => .bind (.see _) fun _ =>
    .ite (.pure _) (.ite .fetchFault (.bind (.see _) fun _ => .bind (.see _) fun _ => .ite (.pure _) (.bind .drawNat fun _ =>
    .bind (.see _) fun _ => .bind (.modTile _ _) fun _ => .pure _)))
theorem Keeps.countFetch {t c x bad} : Keeps (countFetch t c x bad) :=
  .ite (.pure _) (.bind (.modCtx _ _ _) fun _ => .recordCause)
theorem Keeps.fetchInstr {t c x} : Keeps (fetchInstr t c x) := by
  unfold Machine.fetchInstr
  refine .iteThen .fetchFault fun _ => .bind .fetchPlace fun _ => .bind .meterFetch fun _ => .bind .fetchWord fun _ =>
    .iteBind .fetchWord (.pure _) fun _ => ?_
  dsimp only
  cases decode _ _ _ with
  | error e => exact .bind (.see _) fun _ => .trapDrop
  | ok i => exact .ite (.bind .countFetch fun _ => .pure _) (.bind (.see _) fun _ => .trapDrop)
theorem OptOk.fetchPaid {s' : State} {t c x s} (h : s'.MemOk) : OptOk (fetchPaid t c x s s') :=
  .ite (.some (.of_mem h rfl)) (.settleStep h)
theorem State.MemOk.passTime {s : State} {n} (h : s.MemOk) : (passTime n s).MemOk := by
  unfold Machine.passTime
  split
  · exact h
  · refine .foldl ?_ _ fun _ _ h => .passDie h
    exact h

/-! ## Instructions and events

The effects that need a case split or several lines of their own are above; an instruction or event whose effect is one of the shared
shapes is settled in its arm. -/

/-- The step of every instruction and event. -/
theorem KeepsStep.exec (i : Instr) : KeepsStep (exec i) := by
  cases i with
  | add | sub | addw | subw | and | or | xor | andn | orn | xnor | sll | srl | sra | rol | ror | sllw | srlw | sraw
    | mul | mulh | mulhu | mulhsu | div | divu | rem | remu | min | max | minu | maxu | bfxu | bfxs | sh1add | sh2add
    | sh3add | sh4add | sh6add | sh8add | sh13add => exact .dealer .op2
  | abs | clz | ctz | popc | rev8 | addi | andi | ori | slli | srli | srai | rori | xori => exact .dealer .op1
  | movnz | movz | bfi => exact .dealer .op3
  | cmpeq | cmpne | cmplt | cmpge | cmpltu | cmpgeu | cmpts | cmptc => exact .compare .cmpRegs
  | cmpeqi | cmpnei | cmplti | cmpgei | cmpltui | cmpgeui | cmptsi | cmptci => exact .compare .cmpImm
  | pand | por | pxor | pandn | pnot | kick | fork => exact .dealer (.bind (.modMe _) fun _ => .pure _)
  | pget | mgetb | mgetl | chseq | chstat | partw | qsr => exact .dealer (.bind .myCtx fun _ => .op0)
  | pput | mset => exact .dealer (.bind (.readA _) fun _ => .bind (.readC _ _) fun _ => .bind (.modMe _) fun _ => .pure _)
  | br => exact .dealer (.bind .myCtx fun _ => .pure _)
  | brl | lih | addl => exact .dealer (.bind .myCtx fun _ => .bind (.modMe _) fun _ => .pure _)
  | jr => exact .dealer (.bind (.readA _) fun _ => .bind .jumpCheck fun _ => .pure _)
  | jrl => exact .dealer (.bind (.readA _) fun _ => .bind .jumpCheck fun _ => .bind .myCtx fun _ => .bind (.modMe _) fun _ => .pure _)
  | ret => exact .dealer (.bind .myCtx fun _ => .bind .jumpCheck fun _ => .pure _)
  | loop => exact .execLoop
  | lbu => exact .execLbu
  | lhu => exact .execLhu
  | lwu => exact .execLwu
  | ld => exact .loadOp
  | lb => exact .execLb
  | lh => exact .execLh
  | lw => exact .execLw
  | sb | sh | sw | sd => exact .storeOp
  | csrr => exact .dealer (.bind (.check _ _ _) fun _ => .bind .me fun _ => .bind (.getCtx _ _) fun _ => .bind (.see _) fun _ => .op0)
  | csrw | csrs | csrc => exact .dealer .csrModify
  | amoadd | amoand | amoor | amoxor | amomin | amomax | amoswap | amocas => exact .amoOp
  | fence => exact .execFence
  | fenceI => exact .dealer (.bind .me fun _ => .bind (.upd fun _ h => .setTile h ..) fun _ => .pure _)
  | nop | trap | brk => exact .dealer (.pure _)
  | eret | tkill => exact .dealer (.bind .myCtx fun _ => .bind (.check _ _ _) fun _ => .bind (.modMe _) fun _ => .pure _)
  | link => exact .dealer (.bind (.readA _) fun _ => .bind .me fun _ => .bind (.getCtx _ _) fun _ => .bind .linkAt fun _ => .pure _)
  | rdv => exact .dealer (.bind .myCtx fun _ => .bind (.check _ _ _) fun _ => .bind (.modMe _) fun _ => .waitFor _)
  | rdvRelease => exact .execRdvRelease
  | drain => exact .execDrain
  | drainComplete => exact .execDrainComplete
  | semi => exact .dealer (.bind (.readA _) fun _ => .bind (.readC _ _) fun _ => .bind .semiChecks fun _ => .semIdleOr)
  | semb => exact .execSemb
  | semw => exact .execSemw
  | semwGrant => exact .execSemwGrant
  | semp => exact .execSemp
  | semr | covget | covstat => exact .dealer (.bind (.readC _ _) fun _ => .bind (.check _ _ _) fun _ => .bind .myCtx fun _ => .op0)
  | semk => exact .dealer .semIdleOr
  | semIdleAction => exact .execSemIdleAction
  | tdef => exact .execTdef
  | tmod => exact .execTmod
  | tget => exact .dealer (.bind (.readA _) fun _ => .bind (.check _ _ _) fun _ => .bind .myCtx fun _ => .op0)
  | claim => exact .execClaim
  | release => exact .execRelease
  | releaseComplete => exact .execReleaseComplete
  | aclr => exact .execAclr
  | hstat => exact .execHstat
  | axis | qsw => exact .dealer (.bind (.readA _) fun _ => .bind (.check _ _ _) fun _ => .bind (.modMe _) fun _ => .pure _)
  | resi | resx => exact .dealer (.bind (.readA _) fun _ => .bind (.check _ _ _) fun _ => .bankOr)
  | resr => exact .dealer (.bind (.readC _ _) fun _ => .bind (.check _ _ _) fun _ => .bind .bankOr fun _ => .op0)
  | resclr => exact .dealer .bankOr
  | bankIdleAction => exact .execBankIdleAction
  | covset => exact .execCovset
  | covsetIdleAction => exact .execCovsetIdleAction
  | spawn => exact .execSpawn
  | enq => exact .execEnq
  | enqQueueRoom => exact .execEnqQueueRoom
  | await => exact .execAwait
  | resolve => exact .execResolve
  | yield => exact .execYield
  | endRec => exact .execEndRec
  | cancel => exact .execCancel
  | cancelFlagsSet => exact .execCancelFlagsSet
  | jobCancelComplete => exact .execJobCancelComplete
  | join => exact .execJoin
  | leave => exact .execLeave
  | gbar => exact .execGbar
  | wfe => exact .execWfe
  | wfeWake => exact .execWfeWake
  | sev => exact .execSev
  | ctxsave => exact .execCtxsave
  | ctxrestore => exact .execCtxrestore
  | qbind => exact .execQbind
  | qunbind => exact .execQunbind
  | qunbindIdle => exact .execQunbindIdle
  | qdepth => exact .execQdepth
  | tprobe => exact .execTprobe
  | tinv => exact .execTinv
  | tinvPinsReleased => exact .execTinvPinsReleased
  | burst => exact .execBurst
  | li | liu => exact .dealer .op0
  | trapEntry => exact .agent .interrupt
  | leafTrapHandling => exact .execLeafTrapHandling
  | fwDomainNumber => exact .agent (.bind .fwCall fun _ => .bind (.see _) fun _ => .fwResult)
  | fwSetWatchdog => exact .agent (.bind .fwCall fun _ => .ite (.bind (.upd fun _ h => .modJob h ..) fun _ => .fwResult) .fwResult)
  | fwUnbindSaved => exact .execFwUnbindSaved
  | fwLog => exact .agent (.bind .fwCall fun _ => .bind (.upd fun _ h => .appendLog h) fun _ => .fwResult)
  | watchdog => exact .execWatchdog
  | machineCheck => exact .execMachineCheck
  | contextSwitch => exact .execContextSwitch
  | timeSliceExpiry => exact .execTimeSliceExpiry
  | recordPop => exact .execRecordPop
  | overflowPushRetry => exact .execOverflowPushRetry
  | preemption => exact .execPreemption
  | blockWaitGrant | coverageFractionWait => exact .agent .grantHead
  | loadIteration => exact .execLoadIteration
  | storeIteration => exact .execStoreIteration
  | linkedQueueEntryArrive => exact .execLinkedQueueEntryArrive
  | linkedQueueCreditReturn => exact .execLinkedQueueCreditReturn
  | queueStallResume => exact .execQueueStallResume
  | matrixFloatKStep | matrixIntKStep => exact .agent .matStep
  | vectorIteration => exact .execVectorIteration
  | blockRetire => exact .execBlockRetire
  | coverageContribution => exact .agent (.bind (.getCtx _ _) fun _ => .bind (.present _) fun _ => .modCtx _ _ _)
  | nopBlock => exact .execNopBlock
  | endBlock => exact .execEndBlock
  | markResolve => exact .execMarkResolve
  | markRendezvous => exact .agent (.bind .actingBlock fun _ => .bind (.enabled _) fun _ => .modRun)
  | patchAction => exact .execPatchAction
  | patchHoldResume => exact .execPatchHoldResume
  | patchRangePolicy => exact .execPatchRangePolicy
  | heldPostApply => exact .execHeldPostApply
  | rampComplete =>
    exact .agent (.bind (.see _) fun _ => .bind (.see _) fun _ => .bind (.enabled _) fun _ => .upd fun _ h => .settleRamp h)
  | matrixCold => exact .execMatrixCold
  | burstHoldExpiry =>
    exact .agent (.bind (.see _) fun _ => .bind (.see _) fun _ => .bind (.enabled _) fun _ => .upd fun _ h => .settleHold h)
  | windowMessageRetry => exact .agent (.bind (.see _) fun _ => .bind (.present _) fun _ => .bind (.enabled _) fun _ => .arriveLocal)
  | windowAck => exact .execWindowAck
  | lossDetected => exact .execLossDetected
  | tokenRefill => exact .agent (.bind (.see _) fun _ => .bind (.enabled _) fun _ => .updMem fun _ => rfl)
  | bandwidthRequest => exact .agent (.bind (.see _) fun _ => .bind (.present _) fun _ => .modCtx _ _ _)
  | subnetworkPower => exact .execSubnetworkPower
  | budgetPeriodEnd => exact .execBudgetPeriodEnd
  | wrap => exact .agent (.taking (fun _ _ _ => .pure _))
  | launch => exact .execLaunch
  | invoke => exact .execInvoke
  | copy => exact .execCopy
  | signal => exact .execSignal
  | wait => exact .agent (.taking (fun _ _ _ => .upd fun _ h => .modQueue h))
  | waitPoll => exact .execWaitPoll
  | indirect => exact .agent (.taking (fun _ _ _ => .ite .finishPkt (.upd fun _ h => .modQueue h)))
  | loadModel => exact .execLoadModel
  | modelUnloadComplete =>
    exact .agent (.bind (.see _) fun _ => .bind (.enabled _) fun _ => .bind .setModel fun _ => .updMem fun _ => rfl)
  | barrier => exact .agent (.taking (fun _ _ _ => .startPkt))
  | packetCompletion => exact .execPacketCompletion
  | frameTick => exact .execFrameTick
  | windowMessageArrival => exact .execWindowMessageArrival
  | lossNotice => exact .execLossNotice
  | flitReplay => exact .execFlitReplay
  | permitReturn => exact .agent (.bind (.see _) fun _ => .bind .portNo fun _ => .bind .modPort fun _ => .upd fun _ h => .pumpPort h)
  | auditFlit => exact .execAuditFlit
  | resynchronisation => exact .execResynchronisation
  | commandLinkMessage => exact .execCommandLinkMessage
  | tailWrite | haltClear | hsemRelease | pwrmodeWrite | resetRequest => exact .agent .writeStep
  | hsemTake => exact .execHsemTake
  | powerModeChange => exact .agent (.bind (.see _) fun _ => .bind (.enabled _) fun _ => .applyMode)
  | registerWrite => exact .agent (.bind (.see _) fun _ => .ite .bankerWrite .writeStep)
  | firmwareImageLoad => exact .execFirmwareImageLoad
  | coldReset => exact .agent (.upd fun _ h => .coldReset h)
  | warmReset => exact .agent (.upd fun _ h => .warmReset h)
  | portReset => exact .execPortReset
  | bankerBoot => exact .execBankerBoot
  | hbmTraining => exact .execHbmTraining
  | leafBoot => exact .execLeafBoot
  | bringupReady => exact .execBringupReady
  | thermalStepUp => exact .execThermalStepUp
  | thermalTrip => exact .execThermalTrip
  | managementReset => exact .execManagementReset
  | debugAccess => exact .execDebugAccess
  | hostMemoryAccess => exact .execHostMemoryAccess
  | retrainComplete => exact .execRetrainComplete
  | errorCheckAndScrub => exact .execErrorCheckAndScrub

/-! ## The machine's step -/

/-- What fetch and decode answer is canonical, whether they end the turn or give an instruction. -/
inductive TurnOk : State ⊕ (Instr × State) → Prop
  | inl {s : State} : s.MemOk → TurnOk (.inl s)
  | inr {i : Instr} {s : State} : s.MemOk → TurnOk (.inr (i, s))
theorem TurnOk.fetchDecode {s0 : State} {t} (h0 : s0.MemOk) : TurnOk (fetchDecode t s0) := by
  unfold Machine.fetchDecode
  have h : ({ s0 with cur := t } : State).MemOk := h0
  generalize ({ s0 with cur := t } : State) = s at h
  dsimp only
  split
  · exact .inl h
  · next x _ =>
    have h1 := (Keeps.fetchInstr (t := t) (c := (s.tile t).cur) (x := x)).run h
    generalize Machine.fetchInstr t (s.tile t).cur x s = r at h1 ⊢
    split
    · cases r with
      | ok p =>
        dsimp only
        split
        · next hp => exact .inr ((OptOk.fetchPaid h1.memOk).get hp)
        · exact .inl (h.paidOr h1.memOk _ _ _ _ _ _ _ fun _ h => h)
      | error e =>
        cases e with
        | trap => exact .inl (h.paidOr (h.applySide ..) _ _ _ _ _ _ _ fun _ h => h.enterTrap ..)
        | ltrap | efault | wait | send | idle | fault | refuse => exact .inl h
    · exact .inl h
theorem KeepsStep.dealerTurn {t} : KeepsStep (dealerTurn t) := by
  intro s u h hn
  unfold Machine.dealerTurn at hn
  split at hn
  · cases hn
  · generalize hf : Machine.fetchDecode t s = r at hn
    have h1 : TurnOk r := hf ▸ .fetchDecode h
    cases h1 with
    | inl h1 => cases hn; exact h1
    | inr h1 => exact KeepsStep.exec _ _ _ h1 hn
theorem KeepsStep.step : KeepsStep step := by
  intro s u h hn
  unfold Machine.step at hn
  split at hn
  · exact KeepsStep.dealerTurn _ _ h hn
  · refine KeepsStep.dealerTurn _ _ ?_ hn
    exact h
  · split at hn
    · cases hn
    · refine KeepsStep.exec _ _ _ ?_ hn
      exact h
  · cases hn; exact .passTime h
  · cases hn
    refine State.MemOk.writeBytes ?_ _ _ _
    exact h

/-- Settles O51: every effect of the model keeps the form, so every instruction and event does, and so does the machine's step. -/
theorem memoryStaysCanonical : Obligations.MemoryStaysCanonical := by
  unfold Obligations.MemoryStaysCanonical
  exact KeepsStep.step

end Sys2Proof.Machine
end

section
/-!
PROOFS. Decoder and encoder (O1, O2, O3). What each field of a formatted word reads as; then, for each operand form of R50, what the form
reads from a word of the encoder, and that whatever it reads is well formed. The two statements go instruction by instruction over these.
-/
namespace Sys2Proof
open Sys2Proof.Laws

/-! ## Operand codes -/

@[simp] theorem litOf_val {n : Nat} (k : Fin n) : litOf n k = .ok k := by simp [litOf]
@[simp] theorem srcOf_code (r : Src) : srcOf r.code = .ok r := by
  cases r with
  | g i => simp [Src.code, srcOf]
  | b k => simp [Src.code, srcOf]
  | zero | tileid | ctxid | lc0 | lc1 => rfl
@[simp] theorem dstOf_code (d : Dst) : dstOf (dstN d) (dstCode d) = .ok d := by
  cases d with
  | none => rfl
  | some g => simp [dstOf, dstN, dstCode, litOf_val, Except.map]
@[simp] theorem ctOf_code (m : CmpMode) : ctOf m.code = .ok m := by cases m <;> rfl
@[simp] theorem scopeOf_code (s : Scope) : scopeOf s.code = .ok s := by cases s <;> rfl
@[simp] theorem ordOf_code (o : Order) : ordOf o.code = o := by cases o <;> rfl
@[simp] theorem modOf_code (m : Option (Fin 7)) : modOf (modCode m) = m := by
  cases m with
  | none => rfl
  | some k => simp [modOf, modCode]
@[simp] theorem kOf_succ (k : Fin 7) : kOf (k + 1) = .ok k := by simp [kOf, litOf_val]
/-- A base that a memory form takes is read back (R46). -/
theorem baseOf_code {m : Option (Fin 7)} {a : Src} (h : (m.isNone || a.isG) = true) : baseOf (modCode m) a.code = .ok a := by
  have hb : (modCode m == 0 || decide (a.code < 48)) = true := by
    cases m with
    | none => rfl
    | some k => cases a <;> simp_all [Src.isG, Src.code]
  unfold baseOf
  rw [hb, srcOf_code]
  rfl
theorem dstCode_lt64 (d : Dst) : dstCode d < 64 := (dstCode_lt d).trans (by decide)
theorem fin_lt64 {m : Nat} (n : Fin m) (h : m ≤ 64 := by decide) : n.val < 64 := n.isLt.trans_le h
/-- The n bit and the d field of a destination are legal together (R41). -/
@[simp] theorem dstN_or_dstCode_zero (d : Dst) : (dstN d == 0 || dstCode d == 0) = true := by cases d <;> rfl

@[simp] theorem ok_bind {α β : Type} (a : α) (f : α → Except Cause β) : (Except.ok a >>= f) = f a := rfl
@[simp] theorem need_true (c : Cause) : need true c = .ok () := rfl

theorem toNat_bne_zero {n : Nat} {i : BitVec n} (h : (i != 0) = true) : (i.toNat != 0) = true := by
  rw [bne_iff_ne] at h ⊢
  exact fun e => h (BitVec.eq_of_toNat_eq e)
theorem order_code_bne_zero {o : Order} (h : (o != .rlx) = true) : (o.code != 0) = true := by
  cases o with
  | rlx => exact h
  | acq | rel | ar => rfl

/-! ## Fields of formatted words (R38) -/

/-- What the fields of a word of format R hold. -/
structure ReadsR (w maj fn : Nat) (h : Hd) (n d a c : Nat) : Prop where
  maj : fld w 26 6 = maj
  fn  : fld w 0 3 = fn
  ac  : fld w 3 12 = a * 64 + c
  hd  : hdOf w = h
  n   : fld w 22 1 = n
  d   : fld w 15 6 = d
  a   : fld w 9 6 = a
  c   : fld w 3 6 = c

/-- What the fields of a word of formats I and M hold. -/
structure ReadsI (w maj : Nat) (h : Hd) (n d a i : Nat) : Prop where
  maj : fld w 26 6 = maj
  hd  : hdOf w = h
  n   : fld w 22 1 = n
  d   : fld w 15 6 = d
  a   : fld w 9 6 = a
  low : ∀ lo k, lo + k ≤ 9 → fld w lo k = fld i lo k

theorem hdOf_eq {w : Nat} {h : Hd} (hg : fld w 23 3 = h.guard) (hs : fld w 21 1 = h.stop.toNat) : hdOf w = h := by
  obtain ⟨g, s⟩ := h
  simp only [hdOf, hg, hs]
  cases s <;> rfl

theorem encHead_reads {maj n d l : Nat} (h : Hd) (hm : maj < 64) (hn : n ≤ 1) (hd : d < 64) (hl : l < 32768) :
    fld (encHead maj h n d + l) 26 6 = maj ∧ hdOf (encHead maj h n d + l) = h ∧ fld (encHead maj h n d + l) 22 1 = n ∧
    fld (encHead maj h n d + l) 15 6 = d := by
  have hg := h.guard.isLt
  have hs := Bool.toNat_le h.stop
  unfold encHead
  refine ⟨?_, hdOf_eq ?_ ?_, ?_, ?_⟩ <;> (unfold fld; omega)

/-- A field below the bits of m reads as if m were not there. -/
theorem fld_add_of_dvd {m lo k : Nat} (l : Nat) (h : 2 ^ (lo + k) ∣ m) : fld (m + l) lo k = fld l lo k := by
  obtain ⟨q, rfl⟩ := h
  unfold fld
  rw [← Nat.mod_mul_right_div_self, ← Nat.mod_mul_right_div_self, ← Nat.pow_add, Nat.mul_add_mod]
/-- Below bit 15 the head leaves no trace. -/
theorem fld_encHead_add (maj : Nat) (h : Hd) (n d l : Nat) {lo k : Nat} (hk : lo + k ≤ 15) :
    fld (encHead maj h n d + l) lo k = fld l lo k :=
  fld_add_of_dvd l ((Nat.pow_dvd_pow 2 hk).trans
    ⟨maj * 2048 + h.guard * 256 + n * 128 + h.stop.toNat * 64 + d, by unfold encHead; omega⟩)

theorem encR_reads {maj fn n d a c : Nat} (h : Hd) (hm : maj < 64) (hf : fn < 8) (hn : n ≤ 1) (hd : d < 64) (ha : a < 64) (hc : c < 64) :
    ReadsR (encR maj fn h n d a c) maj fn h n d a c := by
  have e : encR maj fn h n d a c = encHead maj h n d + (a * 512 + c * 8 + fn) := by unfold encR; omega
  obtain ⟨h1, h2, h3, h4⟩ := encHead_reads (l := a * 512 + c * 8 + fn) h hm hn hd (by omega)
  rw [e]
  refine ⟨h1, ?_, ?_, h2, h3, h4, ?_, ?_⟩ <;> (rw [fld_encHead_add _ _ _ _ _ (by decide)]; unfold fld; omega)

theorem encI_reads {maj n d a i : Nat} (h : Hd) (hm : maj < 64) (hn : n ≤ 1) (hd : d < 64) (ha : a < 64) (hi : i < 512) :
    ReadsI (encI maj h n d a i) maj h n d a i := by
  have e : encI maj h n d a i = encHead maj h n d + (a * 512 + i) := by unfold encI; omega
  obtain ⟨h1, h2, h3, h4⟩ := encHead_reads (l := a * 512 + i) h hm hn hd (by omega)
  rw [e]
  refine ⟨h1, h2, h3, h4, ?_, fun lo k hk => ?_⟩
  · rw [fld_encHead_add _ _ _ _ _ (by decide)]
    unfold fld
    omega
  · rw [fld_encHead_add _ _ _ _ _ (by omega)]
    exact fld_add_of_dvd i ((Nat.pow_dvd_pow 2 hk).trans ⟨a, by omega⟩)

/-- What the fields of a word of formats C and CI hold. -/
structure ReadsC (w maj : Nat) (g : Fin 8) (ct : CmpMode) (p q : Fin 8) (a : Src) (l : Nat) : Prop where
  maj : fld w 26 6 = maj
  g   : guardOf w = g
  ct  : fld w 20 3 = ct.code
  p   : pdOf w 17 = p
  q   : pdOf w 14 = q
  a   : fld w 8 6 = a.code
  low : ∀ lo k, lo + k ≤ 8 → fld w lo k = fld l lo k

theorem encC_reads {maj l : Nat} (g : Fin 8) (ct : CmpMode) (p q : Fin 8) (a : Src) (hm : maj < 64) (hl : l < 256) :
    ReadsC (encC maj g ct p q a l) maj g ct p q a l := by
  have hg := g.isLt
  have hp := p.isLt
  have hq := q.isLt
  have hc := mode_code_lt ct
  have ha := src_code_lt a
  refine ⟨?_, Fin.ext ?_, ?_, Fin.ext ?_, Fin.ext ?_, ?_, fun lo k hk => ?_⟩
  · unfold encC fld; omega
  · show fld _ 23 3 = _; unfold encC fld; omega
  · unfold encC fld; omega
  · show fld _ 17 3 = _; unfold encC fld; omega
  · show fld _ 14 3 = _; unfold encC fld; omega
  · unfold encC fld; omega
  · exact fld_add_of_dvd l ((Nat.pow_dvd_pow 2 hk).trans
      ⟨maj * 262144 + g * 32768 + ct.code * 4096 + p * 512 + q * 64 + a.code, by omega⟩)

/-- An immediate fills its field. -/
theorem fld_toNat {n : Nat} (i : BitVec n) : fld i.toNat 0 n = i.toNat := by simp [fld, Nat.mod_eq_of_lt i.isLt]
theorem tidOf_eq {w : Nat} {n : Fin 128} (h : fld w 0 7 = n) : tidOf w = n := Fin.ext h


/-! ## What each form reads from a word of the encoder (R50) -/

/-- The decoder reads the words of i as i. -/
def ReadsBack (i : Instr) : Prop := ∀ w ws, encode i = w :: ws → decode w (ws.headD 0) true = .ok i

theorem ReadsBack.noWords {i : Instr} (he : encode i = []) : ReadsBack i := by
  intro w ws h
  rw [he] at h
  cases h
theorem ReadsBack.ofWord {i : Instr} {w : Nat} (he : encode i = [w]) (hd : decode w 0 true = .ok i) : ReadsBack i := by
  intro v vs h
  rw [he] at h
  cases h
  exact hd

/-- An instruction of format R whose form reads it back. -/
theorem ReadsBack.ofR {i : Instr} {maj fn n d a c : Nat} {h : Hd} {form : Nat → Except Cause Instr}
    (he : encode i = [encR maj fn h n d a c]) (hd : ∀ w, fld w 26 6 = maj → fld w 0 3 = fn → decode w 0 true = form w)
    (hm : maj < 64 ∧ fn < 8) (hn : n ≤ 1) (hd6 : d < 64) (ha : a < 64) (hc : c < 64)
    (hf : ∀ w, ReadsR w maj fn h n d a c → form w = .ok i) : ReadsBack i := by
  have R := encR_reads h hm.1 hm.2 hn hd6 ha hc
  exact .ofWord he ((hd _ R.maj R.fn).trans (hf _ R))

/-- An instruction of format I or M whose form reads it back. -/
theorem ReadsBack.ofI {i : Instr} {maj n d a l : Nat} {h : Hd} {form : Nat → Except Cause Instr}
    (he : encode i = [encI maj h n d a l]) (hd : ∀ w, ReadsI w maj h n d a l → decode w 0 true = form w)
    (hm : maj < 64) (hn : n ≤ 1) (hd6 : d < 64) (ha : a < 64) (hl : l < 512)
    (hf : ∀ w, ReadsI w maj h n d a l → form w = .ok i) : ReadsBack i := by
  have R := encI_reads h hm hn hd6 ha hl
  exact .ofWord he ((hd _ R).trans (hf _ R))

section
variable {h : Hd} {d : Dst} {e : Fin 48} {a c : Src} (maj fn : Nat)
include maj fn

/-- d, a, c. -/
theorem ReadsBack.r3 {k : Hd → Dst → Src → Src → Instr}
    (he : encode (k h d a c) = [encR maj fn h (dstN d) (dstCode d) a.code c.code] := by rfl)
    (hd : ∀ w, fld w 26 6 = maj → fld w 0 3 = fn → decode w 0 true = asR3 w k := by intro w hm hf; rw [decode, hm, hf]; rfl)
    (hm : maj < 64 ∧ fn < 8 := by decide) : ReadsBack (k h d a c) := by
  refine .ofR he hd hm (dstN_le d) (dstCode_lt64 d) (src_code_lt a) (src_code_lt c) fun w R => ?_
  simp [asR3, nOk, R.hd, R.n, R.d, R.a, R.c]
/-- d, a. -/
theorem ReadsBack.r2 {k : Hd → Dst → Src → Instr}
    (he : encode (k h d a) = [encR maj fn h (dstN d) (dstCode d) a.code 0] := by rfl)
    (hd : ∀ w, fld w 26 6 = maj → fld w 0 3 = fn → decode w 0 true = asR2 w k := by intro w hm hf; rw [decode, hm, hf]; rfl)
    (hm : maj < 64 ∧ fn < 8 := by decide) : ReadsBack (k h d a) := by
  refine .ofR he hd hm (dstN_le d) (dstCode_lt64 d) (src_code_lt a) (by decide) fun w R => ?_
  simp [asR2, nOk, c0, R.hd, R.n, R.d, R.a, R.c]
/-- d read and written, a, c. -/
theorem ReadsBack.rd3 {k : Hd → Fin 48 → Src → Src → Instr}
    (he : encode (k h e a c) = [encR maj fn h 0 e a.code c.code] := by rfl)
    (hd : ∀ w, fld w 26 6 = maj → fld w 0 3 = fn → decode w 0 true = asRd3 w k := by intro w hm hf; rw [decode, hm, hf]; rfl)
    (hm : maj < 64 ∧ fn < 8 := by decide) : ReadsBack (k h e a c) := by
  refine .ofR he hd hm (by decide) (fin_lt64 e) (src_code_lt a) (src_code_lt c) fun w R => ?_
  simp [asRd3, n0, R.hd, R.n, R.d, R.a, R.c]
/-- Three predicate numbers. -/
theorem ReadsBack.p3 {k : Hd → Fin 8 → Fin 8 → Fin 8 → Instr} {p q r : Fin 8}
    (he : encode (k h p q r) = [encR maj fn h 0 p q r] := by rfl)
    (hd : ∀ w, fld w 26 6 = maj → fld w 0 3 = fn → decode w 0 true = asP3 w k := by intro w hm hf; rw [decode, hm, hf]; rfl)
    (hm : maj < 64 ∧ fn < 8 := by decide) : ReadsBack (k h p q r) := by
  refine .ofR he hd hm (by decide) (fin_lt64 p) (fin_lt64 q) (fin_lt64 r) fun w R => ?_
  simp [asP3, n0, R.hd, R.n, R.d, R.a, R.c]
/-- Two predicate numbers. -/
theorem ReadsBack.p2 {k : Hd → Fin 8 → Fin 8 → Instr} {p q : Fin 8}
    (he : encode (k h p q) = [encR maj fn h 0 p q 0] := by rfl)
    (hd : ∀ w, fld w 26 6 = maj → fld w 0 3 = fn → decode w 0 true = asP2 w k := by intro w hm hf; rw [decode, hm, hf]; rfl)
    (hm : maj < 64 ∧ fn < 8 := by decide) : ReadsBack (k h p q) := by
  refine .ofR he hd hm (by decide) (fin_lt64 p) (fin_lt64 q) (by decide) fun w R => ?_
  simp [asP2, n0, c0, R.hd, R.n, R.d, R.a, R.c]
/-- A destination alone. -/
theorem ReadsBack.dst {k : Hd → Dst → Instr}
    (he : encode (k h d) = [encR maj fn h (dstN d) (dstCode d) 0 0] := by rfl)
    (hd : ∀ w, fld w 26 6 = maj → fld w 0 3 = fn → decode w 0 true = asD w k := by intro w hm hf; rw [decode, hm, hf]; rfl)
    (hm : maj < 64 ∧ fn < 8 := by decide) : ReadsBack (k h d) := by
  refine .ofR he hd hm (dstN_le d) (dstCode_lt64 d) (by decide) (by decide) fun w R => ?_
  simp [asD, nOk, a0, c0, R.hd, R.n, R.d, R.a, R.c]
/-- Two sources. -/
theorem ReadsBack.ac {k : Hd → Src → Src → Instr}
    (he : encode (k h a c) = [encR maj fn h 0 0 a.code c.code] := by rfl)
    (hd : ∀ w, fld w 26 6 = maj → fld w 0 3 = fn → decode w 0 true = asAC w k := by intro w hm hf; rw [decode, hm, hf]; rfl)
    (hm : maj < 64 ∧ fn < 8 := by decide) : ReadsBack (k h a c) := by
  refine .ofR he hd hm (by decide) (by decide) (src_code_lt a) (src_code_lt c) fun w R => ?_
  simp [asAC, n0, d0, R.hd, R.n, R.d, R.a, R.c]
/-- One source. -/
theorem ReadsBack.src {k : Hd → Src → Instr}
    (he : encode (k h a) = [encR maj fn h 0 0 a.code 0] := by rfl)
    (hd : ∀ w, fld w 26 6 = maj → fld w 0 3 = fn → decode w 0 true = asA w k := by intro w hm hf; rw [decode, hm, hf]; rfl)
    (hm : maj < 64 ∧ fn < 8 := by decide) : ReadsBack (k h a) := by
  refine .ofR he hd hm (by decide) (by decide) (src_code_lt a) (by decide) fun w R => ?_
  simp [asA, n0, d0, c0, R.hd, R.n, R.d, R.a, R.c]
/-- No operand. -/
theorem ReadsBack.plain {k : Hd → Instr}
    (he : encode (k h) = [encR maj fn h 0 0 0 0] := by rfl)
    (hd : ∀ w, fld w 26 6 = maj → fld w 0 3 = fn → decode w 0 true = asNone w k := by intro w hm hf; rw [decode, hm, hf]; rfl)
    (hm : maj < 64 ∧ fn < 8 := by decide) : ReadsBack (k h) := by
  refine .ofR he hd hm (by decide) (by decide) (by decide) (by decide) fun w R => ?_
  simp [asNone, n0, d0, a0, c0, R.hd, R.n, R.d, R.a, R.c]
/-- A link register and a target (R117). -/
theorem ReadsBack.link {k : Hd → Fin 48 → Src → Instr}
    (he : encode (k h e a) = [encR maj fn h 0 e a.code 0] := by rfl)
    (hd : ∀ w, fld w 26 6 = maj → fld w 0 3 = fn → decode w 0 true = asJrl w k := by intro w hm hf; rw [decode, hm, hf]; rfl)
    (hm : maj < 64 ∧ fn < 8 := by decide) : ReadsBack (k h e a) := by
  refine .ofR he hd hm (by decide) (fin_lt64 e) (src_code_lt a) (by decide) fun w R => ?_
  simp [asJrl, n0, c0, R.hd, R.n, R.d, R.a, R.c]
/-- A modulo register and two sources. -/
theorem ReadsBack.mset {k : Hd → Fin 7 → Src → Src → Instr} {m : Fin 7}
    (he : encode (k h m a c) = [encR maj fn h 0 (m + 1) a.code c.code] := by rfl)
    (hd : ∀ w, fld w 26 6 = maj → fld w 0 3 = fn → decode w 0 true = asMset w k := by intro w hm hf; rw [decode, hm, hf]; rfl)
    (hm : maj < 64 ∧ fn < 8 := by decide) : ReadsBack (k h m a c) := by
  refine .ofR he hd hm (by decide) (by omega) (src_code_lt a) (src_code_lt c) fun w R => ?_
  simp [asMset, n0, R.hd, R.n, R.d, R.a, R.c]
/-- A destination and a modulo register. -/
theorem ReadsBack.mget {k : Hd → Dst → Fin 7 → Instr} {m : Fin 7}
    (he : encode (k h d m) = [encR maj fn h (dstN d) (dstCode d) (m + 1) 0] := by rfl)
    (hd : ∀ w, fld w 26 6 = maj → fld w 0 3 = fn → decode w 0 true = asMget w k := by intro w hm hf; rw [decode, hm, hf]; rfl)
    (hm : maj < 64 ∧ fn < 8 := by decide) : ReadsBack (k h d m) := by
  refine .ofR he hd hm (dstN_le d) (dstCode_lt64 d) (by omega) (by decide) fun w R => ?_
  simp [asMget, nOk, c0, R.hd, R.n, R.d, R.a, R.c]
/-- A destination and a CSR number in a and c. -/
theorem ReadsBack.csrr {k : Hd → Dst → BitVec 12 → Instr} {r : BitVec 12}
    (he : encode (k h d r) = [encR maj fn h (dstN d) (dstCode d) (r.toNat / 64) (r.toNat % 64)] := by rfl)
    (hd : ∀ w, fld w 26 6 = maj → fld w 0 3 = fn → decode w 0 true = asCsrr w k := by intro w hm hf; rw [decode, hm, hf]; rfl)
    (hm : maj < 64 ∧ fn < 8 := by decide) : ReadsBack (k h d r) := by
  refine .ofR he hd hm (dstN_le d) (dstCode_lt64 d) (by omega) (by omega) fun w R => ?_
  simp [asCsrr, nOk, R.hd, R.n, R.d, R.ac, Nat.div_add_mod']
/-- A CSR number in a and c, and a source in d. -/
theorem ReadsBack.csrx {k : Hd → BitVec 12 → Src → Instr} {r : BitVec 12}
    (he : encode (k h r a) = [encR maj fn h 0 a.code (r.toNat / 64) (r.toNat % 64)] := by rfl)
    (hd : ∀ w, fld w 26 6 = maj → fld w 0 3 = fn → decode w 0 true = asCsrx w k := by intro w hm hf; rw [decode, hm, hf]; rfl)
    (hm : maj < 64 ∧ fn < 8 := by decide) : ReadsBack (k h r a) := by
  refine .ofR he hd hm (by decide) (src_code_lt a) (by omega) (by omega) fun w R => ?_
  simp [asCsrx, n0, R.hd, R.n, R.d, R.ac, Nat.div_add_mod']
/-- A trap number in c. -/
theorem ReadsBack.trap {k : Hd → BitVec 6 → Instr} {r : BitVec 6}
    (he : encode (k h r) = [encR maj fn h 0 0 0 r.toNat] := by rfl)
    (hd : ∀ w, fld w 26 6 = maj → fld w 0 3 = fn → decode w 0 true = asTrap w k := by intro w hm hf; rw [decode, hm, hf]; rfl)
    (hm : maj < 64 ∧ fn < 8 := by decide) : ReadsBack (k h r) := by
  refine .ofR he hd hm (by decide) (by decide) (by decide) r.isLt fun w R => ?_
  simp [asTrap, n0, d0, a0, R.hd, R.n, R.d, R.a, R.c]
/-- A number in d and a source. -/
theorem ReadsBack.da {m : Nat} {k : Hd → Fin m → Src → Instr} {n : Fin m}
    (he : encode (k h n a) = [encR maj fn h 0 n a.code 0] := by rfl)
    (hd : ∀ w, fld w 26 6 = maj → fld w 0 3 = fn → decode w 0 true = asDA m w k := by intro w hm hf; rw [decode, hm, hf]; rfl)
    (hle : m ≤ 64 := by decide) (hm : maj < 64 ∧ fn < 8 := by decide) : ReadsBack (k h n a) := by
  refine .ofR he hd hm (by decide) (fin_lt64 n hle) (src_code_lt a) (by decide) fun w R => ?_
  simp [asDA, n0, c0, R.hd, R.n, R.d, R.a, R.c]
/-- A number in d. -/
theorem ReadsBack.dlit {m : Nat} {k : Hd → Fin m → Instr} {n : Fin m}
    (he : encode (k h n) = [encR maj fn h 0 n 0 0] := by rfl)
    (hd : ∀ w, fld w 26 6 = maj → fld w 0 3 = fn → decode w 0 true = asDLit m w k := by intro w hm hf; rw [decode, hm, hf]; rfl)
    (hle : m ≤ 64 := by decide) (hm : maj < 64 ∧ fn < 8 := by decide) : ReadsBack (k h n) := by
  refine .ofR he hd hm (by decide) (fin_lt64 n hle) (by decide) (by decide) fun w R => ?_
  simp [asDLit, n0, a0, c0, R.hd, R.n, R.d, R.a, R.c]
/-- A chain mask other than 0 in d. -/
theorem ReadsBack.mask {k : Hd → BitVec 4 → Instr} {n : BitVec 4} (h0 : (n != 0) = true)
    (he : encode (k h n) = [encR maj fn h 0 n.toNat 0 0] := by rfl)
    (hd : ∀ w, fld w 26 6 = maj → fld w 0 3 = fn → decode w 0 true = asMask w k := by intro w hm hf; rw [decode, hm, hf]; rfl)
    (hm : maj < 64 ∧ fn < 8 := by decide) : ReadsBack (k h n) := by
  refine .ofR he hd hm (by decide) (n.isLt.trans (by decide)) (by decide) (by decide) fun w R => ?_
  simp [asMask, n0, a0, c0, R.hd, R.n, R.d, R.a, R.c, toNat_bne_zero h0, n.isLt]
/-- A destination and a number in a. -/
theorem ReadsBack.dstLit {m : Nat} {k : Hd → Dst → Fin m → Instr} {n : Fin m}
    (he : encode (k h d n) = [encR maj fn h (dstN d) (dstCode d) n 0] := by rfl)
    (hd : ∀ w, fld w 26 6 = maj → fld w 0 3 = fn → decode w 0 true = asDstLit m w k := by intro w hm hf; rw [decode, hm, hf]; rfl)
    (hle : m ≤ 64 := by decide) (hm : maj < 64 ∧ fn < 8 := by decide) : ReadsBack (k h d n) := by
  refine .ofR he hd hm (dstN_le d) (dstCode_lt64 d) (fin_lt64 n hle) (by decide) fun w R => ?_
  simp [asDstLit, nOk, c0, R.hd, R.n, R.d, R.a, R.c]
/-- A destination, a number in a and a source in c. -/
theorem ReadsBack.dstNC {m : Nat} {k : Hd → Dst → Fin m → Src → Instr} {n : Fin m}
    (he : encode (k h d n c) = [encR maj fn h (dstN d) (dstCode d) n c.code] := by rfl)
    (hd : ∀ w, fld w 26 6 = maj → fld w 0 3 = fn → decode w 0 true = asDstNC m w k := by intro w hm hf; rw [decode, hm, hf]; rfl)
    (hle : m ≤ 64 := by decide) (hm : maj < 64 ∧ fn < 8 := by decide) : ReadsBack (k h d n c) := by
  refine .ofR he hd hm (dstN_le d) (dstCode_lt64 d) (fin_lt64 n hle) (src_code_lt c) fun w R => ?_
  simp [asDstNC, nOk, R.hd, R.n, R.d, R.a, R.c]
/-- A semaphore and two sources. -/
theorem ReadsBack.sem3 {k : Hd → Fin 64 → Src → Src → Instr} {n : Fin 64}
    (he : encode (k h n a c) = [encR maj fn h 0 n a.code c.code] := by rfl)
    (hd : ∀ w, fld w 26 6 = maj → fld w 0 3 = fn → decode w 0 true = asSem3 w k := by intro w hm hf; rw [decode, hm, hf]; rfl)
    (hm : maj < 64 ∧ fn < 8 := by decide) : ReadsBack (k h n a c) := by
  refine .ofR he hd hm (by decide) n.isLt (src_code_lt a) (src_code_lt c) fun w R => ?_
  simp [asSem3, n0, R.hd, R.n, R.d, R.a, R.c]

end

section
variable {h : Hd} {d : Dst} {e : Fin 48} {a c : Src} (maj : Nat)
include maj

/-- d, a, imm9. -/
theorem ReadsBack.i9 {k : Hd → Dst → Src → BitVec 9 → Instr} {i : BitVec 9}
    (he : encode (k h d a i) = [encI maj h (dstN d) (dstCode d) a.code i.toNat] := by rfl)
    (hd : ∀ w, fld w 26 6 = maj → decode w 0 true = asI9 w k := by intro w hm; rw [decode, hm]; rfl)
    (hm : maj < 64 := by decide) : ReadsBack (k h d a i) := by
  refine .ofI he (fun _ R => hd _ R.maj) hm (dstN_le d) (dstCode_lt64 d) (src_code_lt a) i.isLt fun w R => ?_
  have hl := (R.low 0 9 (by decide)).trans (fld_toNat i)
  simp [asI9, nOk, R.hd, R.n, R.d, R.a, hl]
/-- A source and a body end other than 0. -/
theorem ReadsBack.loop {k : Hd → Src → BitVec 9 → Instr} {i : BitVec 9} (h0 : (i != 0) = true)
    (he : encode (k h a i) = [encI maj h 0 0 a.code i.toNat] := by rfl)
    (hd : ∀ w, fld w 26 6 = maj → decode w 0 true = asLoop w k := by intro w hm; rw [decode, hm]; rfl)
    (hm : maj < 64 := by decide) : ReadsBack (k h a i) := by
  refine .ofI he (fun _ R => hd _ R.maj) hm (by decide) (by decide) (src_code_lt a) i.isLt fun w R => ?_
  have hl := (R.low 0 9 (by decide)).trans (fld_toNat i)
  simp [asLoop, n0, d0, R.hd, R.n, R.d, R.a, hl, toNat_bne_zero h0]
/-- An imm9 alone. -/
theorem ReadsBack.burst {k : Hd → BitVec 9 → Instr} {i : BitVec 9}
    (he : encode (k h i) = [encI maj h 0 0 0 i.toNat] := by rfl)
    (hd : ∀ w, fld w 26 6 = maj → decode w 0 true = asBurst w k := by intro w hm; rw [decode, hm]; rfl)
    (hm : maj < 64 := by decide) : ReadsBack (k h i) := by
  refine .ofI he (fun _ R => hd _ R.maj) hm (by decide) (by decide) (by decide) i.isLt fun w R => ?_
  have hl := (R.low 0 9 (by decide)).trans (fld_toNat i)
  simp [asBurst, n0, d0, a0, R.hd, R.n, R.d, R.a, hl]

end

section
variable {h : Hd} {d : Dst} {e : Fin 48} {a c : Src} (maj fn : Nat)
include maj fn

/-- d, a, imm6. -/
theorem ReadsBack.i6 {k : Hd → Dst → Src → BitVec 6 → Instr} {i : BitVec 6}
    (he : encode (k h d a i) = [encI maj h (dstN d) (dstCode d) a.code (fn * 64 + i.toNat)] := by rfl)
    (hd : ∀ w, fld w 26 6 = maj → fld w 6 3 = fn → decode w 0 true = asI6 w k := by intro w hm hf; rw [decode, hm, hf]; rfl)
    (hm : maj < 64 ∧ fn < 8 := by decide) : ReadsBack (k h d a i) := by
  refine .ofI he (fun _ R => hd _ R.maj ((R.low _ _ (by decide)).trans (by unfold fld; omega))) hm.1
    (dstN_le d) (dstCode_lt64 d) (src_code_lt a) (by omega) fun w R => ?_
  have hl : fld w 0 6 = i.toNat := (R.low 0 6 (by decide)).trans (by unfold fld; omega)
  simp [asI6, nOk, R.hd, R.n, R.d, R.a, hl]
/-- A load. -/
theorem ReadsBack.load {k : Hd → Dst → Src → Option (Fin 7) → BitVec 4 → Instr}
    {m : Option (Fin 7)} {o : BitVec 4} (hb : (m.isNone || a.isG) = true)
    (he : encode (k h d a m o) = [encI maj h (dstN d) (dstCode d) a.code (modCode m * 64 + fn * 16 + o.toNat)] := by rfl)
    (hd : ∀ w, fld w 26 6 = maj → fld w 4 2 = fn → decode w 0 true = asLoad w k := by intro w hm hf; rw [decode, hm, hf]; rfl)
    (hm : maj < 64 ∧ fn < 4 := by decide) : ReadsBack (k h d a m o) := by
  have h1 := modCode_lt m
  refine .ofI he (fun _ R => hd _ R.maj ((R.low _ _ (by decide)).trans (by unfold fld; omega))) hm.1
    (dstN_le d) (dstCode_lt64 d) (src_code_lt a) (by omega) fun w R => ?_
  have hl : fld w 0 4 = o.toNat := (R.low 0 4 (by decide)).trans (by unfold fld; omega)
  have hx : fld w 6 3 = modCode m := (R.low 6 3 (by decide)).trans (by unfold fld; omega)
  simp [asLoad, nOk, R.hd, R.n, R.d, R.a, hl, hx, baseOf_code hb]
/-- A store. -/
theorem ReadsBack.store {k : Hd → Src → Src → Option (Fin 7) → BitVec 4 → Instr}
    {m : Option (Fin 7)} {o : BitVec 4} (hb : (m.isNone || a.isG) = true)
    (he : encode (k h c a m o) = [encI maj h 0 c.code a.code (modCode m * 64 + fn * 16 + o.toNat)] := by rfl)
    (hd : ∀ w, fld w 26 6 = maj → fld w 4 2 = fn → decode w 0 true = asStore w k := by intro w hm hf; rw [decode, hm, hf]; rfl)
    (hm : maj < 64 ∧ fn < 4 := by decide) : ReadsBack (k h c a m o) := by
  have h1 := modCode_lt m
  refine .ofI he (fun _ R => hd _ R.maj ((R.low _ _ (by decide)).trans (by unfold fld; omega))) hm.1
    (by decide) (src_code_lt c) (src_code_lt a) (by omega) fun w R => ?_
  have hl : fld w 0 4 = o.toNat := (R.low 0 4 (by decide)).trans (by unfold fld; omega)
  have hx : fld w 6 3 = modCode m := (R.low 6 3 (by decide)).trans (by unfold fld; omega)
  simp [asStore, n0, R.hd, R.n, R.d, R.a, hl, hx, baseOf_code hb]
/-- An atomic. -/
theorem ReadsBack.amo {k : Hd → Bool → Scope → Order → Fin 48 → Src → Instr} {w : Bool} {sc : Scope} {o : Order}
    (he : encode (k h w sc o e a) = [encI maj h 0 e a.code (fn * 64 + sc.code * 8 + o.code * 2 + w.toNat)] := by rfl)
    (hd : ∀ w, fld w 26 6 = maj → fld w 6 3 = fn → decode w 0 true = asAmo w k := by intro w hm hf; rw [decode, hm, hf]; rfl)
    (hm : maj < 64 ∧ fn < 8 := by decide) : ReadsBack (k h w sc o e a) := by
  have h1 := scope_code_lt sc
  have h2 := order_code_lt o
  have h3 := Bool.toNat_le w
  refine .ofI he (fun _ R => hd _ R.maj ((R.low _ _ (by decide)).trans (by unfold fld; omega))) hm.1
    (by decide) (fin_lt64 e) (src_code_lt a) (by omega) fun v R => ?_
  have hs : fld v 3 3 = sc.code := (R.low 3 3 (by decide)).trans (by unfold fld; omega)
  have ho : fld v 1 2 = o.code := (R.low 1 2 (by decide)).trans (by unfold fld; omega)
  have hw : fld v 0 1 = w.toNat := (R.low 0 1 (by decide)).trans (by unfold fld; omega)
  simp [asAmo, n0, R.hd, R.n, R.d, R.a, hs, ho, hw]
/-- A compare-and-swap, with an even d (R364). -/
theorem ReadsBack.cas {k : Hd → Bool → Scope → Order → Fin 48 → Src → Instr}
    {w : Bool} {sc : Scope} {o : Order} (h0 : (e.val % 2 == 0) = true)
    (he : encode (k h w sc o e a) = [encI maj h 0 e a.code (fn * 64 + sc.code * 8 + o.code * 2 + w.toNat)] := by rfl)
    (hd : ∀ w, fld w 26 6 = maj → fld w 6 3 = fn → decode w 0 true = asCas w k := by intro w hm hf; rw [decode, hm, hf]; rfl)
    (hm : maj < 64 ∧ fn < 8 := by decide) : ReadsBack (k h w sc o e a) := by
  have h1 := scope_code_lt sc
  have h2 := order_code_lt o
  have h3 := Bool.toNat_le w
  refine .ofI he (fun _ R => hd _ R.maj ((R.low _ _ (by decide)).trans (by unfold fld; omega))) hm.1
    (by decide) (fin_lt64 e) (src_code_lt a) (by omega) fun v R => ?_
  have hs : fld v 3 3 = sc.code := (R.low 3 3 (by decide)).trans (by unfold fld; omega)
  have ho : fld v 1 2 = o.code := (R.low 1 2 (by decide)).trans (by unfold fld; omega)
  have hw : fld v 0 1 = w.toNat := (R.low 0 1 (by decide)).trans (by unfold fld; omega)
  simp [asCas, n0, R.hd, R.n, R.d, R.a, hs, ho, hw, h0]
/-- A fence of an order other than RLX. -/
theorem ReadsBack.fence {k : Hd → Scope → Order → Instr} {sc : Scope} {o : Order} (h0 : (o != .rlx) = true)
    (he : encode (k h sc o) = [encI maj h 0 0 0 (fn * 64 + sc.code * 8 + o.code * 2)] := by rfl)
    (hd : ∀ w, fld w 26 6 = maj → fld w 6 3 = fn → decode w 0 true = asFence w k := by intro w hm hf; rw [decode, hm, hf]; rfl)
    (hm : maj < 64 ∧ fn < 8 := by decide) : ReadsBack (k h sc o) := by
  have h1 := scope_code_lt sc
  have h2 := order_code_lt o
  refine .ofI he (fun _ R => hd _ R.maj ((R.low _ _ (by decide)).trans (by unfold fld; omega))) hm.1
    (by decide) (by decide) (by decide) (by omega) fun w R => ?_
  have hs : fld w 3 3 = sc.code := (R.low 3 3 (by decide)).trans (by unfold fld; omega)
  have ho : fld w 1 2 = o.code := (R.low 1 2 (by decide)).trans (by unfold fld; omega)
  have hw : fld w 0 1 = 0 := (R.low 0 1 (by decide)).trans (by unfold fld; omega)
  simp [asFence, n0, d0, a0, R.hd, R.n, R.d, R.a, hs, ho, hw, order_code_bne_zero h0]
/-- No operand, in format I. -/
theorem ReadsBack.plainI {k : Hd → Instr}
    (he : encode (k h) = [encI maj h 0 0 0 (fn * 64)] := by rfl)
    (hd : ∀ w, fld w 26 6 = maj → fld w 6 3 = fn → decode w 0 true = asNoneI w k := by intro w hm hf; rw [decode, hm, hf]; rfl)
    (hm : maj < 64 ∧ fn < 8 := by decide) : ReadsBack (k h) := by
  refine .ofI he (fun _ R => hd _ R.maj ((R.low _ _ (by decide)).trans (by unfold fld; omega))) hm.1
    (by decide) (by decide) (by decide) (by omega) fun w R => ?_
  have hl : fld w 0 6 = 0 := (R.low 0 6 (by decide)).trans (by unfold fld; omega)
  simp [asNoneI, n0, d0, a0, R.hd, R.n, R.d, R.a, hl]
/-- A tensor and a source. -/
theorem ReadsBack.tdef {k : Hd → Fin 128 → Src → Instr} {n : Fin 128}
    (he : encode (k h n a) = [encI maj h 0 0 a.code (fn * 128 + n)] := by rfl)
    (hd : ∀ w, fld w 26 6 = maj → fld w 7 2 = fn → decode w 0 true = asTdef w k := by intro w hm hf; rw [decode, hm, hf]; rfl)
    (hm : maj < 64 ∧ fn < 4 := by decide) : ReadsBack (k h n a) := by
  refine .ofI he (fun _ R => hd _ R.maj ((R.low _ _ (by decide)).trans (by unfold fld; omega))) hm.1
    (by decide) (by decide) (src_code_lt a) (by omega) fun w R => ?_
  have ht := tidOf_eq ((R.low 0 7 (by decide)).trans (by unfold fld; omega) : fld w 0 7 = n)
  simp [asTdef, n0, d0, R.hd, R.n, R.d, R.a, ht]
/-- A tensor, a source, and one in d. -/
theorem ReadsBack.tmod {k : Hd → Fin 128 → Src → Src → Instr} {n : Fin 128}
    (he : encode (k h n a c) = [encI maj h 0 c.code a.code (fn * 128 + n)] := by rfl)
    (hd : ∀ w, fld w 26 6 = maj → fld w 7 2 = fn → decode w 0 true = asTmod w k := by intro w hm hf; rw [decode, hm, hf]; rfl)
    (hm : maj < 64 ∧ fn < 4 := by decide) : ReadsBack (k h n a c) := by
  refine .ofI he (fun _ R => hd _ R.maj ((R.low _ _ (by decide)).trans (by unfold fld; omega))) hm.1
    (by decide) (src_code_lt c) (src_code_lt a) (by omega) fun w R => ?_
  have ht := tidOf_eq ((R.low 0 7 (by decide)).trans (by unfold fld; omega) : fld w 0 7 = n)
  simp [asTmod, n0, R.hd, R.n, R.d, R.a, ht]
/-- A destination, a tensor and a source. -/
theorem ReadsBack.tget {k : Hd → Dst → Fin 128 → Src → Instr} {n : Fin 128}
    (he : encode (k h d n a) = [encI maj h (dstN d) (dstCode d) a.code (fn * 128 + n)] := by rfl)
    (hd : ∀ w, fld w 26 6 = maj → fld w 7 2 = fn → decode w 0 true = asTget w k := by intro w hm hf; rw [decode, hm, hf]; rfl)
    (hm : maj < 64 ∧ fn < 4 := by decide) : ReadsBack (k h d n a) := by
  refine .ofI he (fun _ R => hd _ R.maj ((R.low _ _ (by decide)).trans (by unfold fld; omega))) hm.1
    (dstN_le d) (dstCode_lt64 d) (src_code_lt a) (by omega) fun w R => ?_
  have ht := tidOf_eq ((R.low 0 7 (by decide)).trans (by unfold fld; omega) : fld w 0 7 = n)
  simp [asTget, nOk, R.hd, R.n, R.d, R.a, ht]
/-- A tensor alone. -/
theorem ReadsBack.tkill {k : Hd → Fin 128 → Instr} {n : Fin 128}
    (he : encode (k h n) = [encI maj h 0 0 0 (fn * 128 + n)] := by rfl)
    (hd : ∀ w, fld w 26 6 = maj → fld w 7 2 = fn → decode w 0 true = asTkill w k := by intro w hm hf; rw [decode, hm, hf]; rfl)
    (hm : maj < 64 ∧ fn < 4 := by decide) : ReadsBack (k h n) := by
  refine .ofI he (fun _ R => hd _ R.maj ((R.low _ _ (by decide)).trans (by unfold fld; omega))) hm.1
    (by decide) (by decide) (by decide) (by omega) fun w R => ?_
  have ht := tidOf_eq ((R.low 0 7 (by decide)).trans (by unfold fld; omega) : fld w 0 7 = n)
  simp [asTkill, n0, d0, a0, R.hd, R.n, R.d, R.a, ht]

end

section
variable {g p q : Fin 8} {ct : CmpMode} {a c : Src} (maj fn : Nat)
include maj fn

/-- A compare with a register. -/
theorem ReadsBack.cmp {k : Fin 8 → CmpMode → Fin 8 → Fin 8 → Src → Src → Instr}
    (he : encode (k g ct p q a c) = [encC maj g ct p q a (c.code * 4 + fn)] := by rfl)
    (hd : ∀ w, fld w 26 6 = maj → fld w 0 2 = fn → decode w 0 true = asCmp w k := by intro w hm hf; rw [decode, hm, hf]; rfl)
    (hm : maj < 64 ∧ fn < 4 := by decide) : ReadsBack (k g ct p q a c) := by
  have hc := src_code_lt c
  have R := encC_reads g ct p q a hm.1 (show c.code * 4 + fn < 256 by omega)
  have hl : fld (encC maj g ct p q a (c.code * 4 + fn)) 2 6 = c.code := (R.low 2 6 (by decide)).trans (by unfold fld; omega)
  refine .ofWord he ((hd _ R.maj ((R.low 0 2 (by decide)).trans (by unfold fld; omega))).trans ?_)
  simp [asCmp, R.g, R.ct, R.p, R.q, R.a, hl]
/-- A compare with an immediate. -/
theorem ReadsBack.cmpI {k : Fin 8 → CmpMode → Fin 8 → Fin 8 → Src → BitVec 6 → Instr} {i : BitVec 6}
    (he : encode (k g ct p q a i) = [encC maj g ct p q a (fn * 64 + i.toNat)] := by rfl)
    (hd : ∀ w, fld w 26 6 = maj → fld w 6 2 = fn → decode w 0 true = asCmpI w k := by intro w hm hf; rw [decode, hm, hf]; rfl)
    (hm : maj < 64 ∧ fn < 4 := by decide) : ReadsBack (k g ct p q a i) := by
  have R := encC_reads g ct p q a hm.1 (show fn * 64 + i.toNat < 256 by omega)
  have hl : fld (encC maj g ct p q a (fn * 64 + i.toNat)) 0 6 = i.toNat := (R.low 0 6 (by decide)).trans (by unfold fld; omega)
  refine .ofWord he ((hd _ R.maj ((R.low 6 2 (by decide)).trans (by unfold fld; omega))).trans ?_)
  simp [asCmpI, R.g, R.ct, R.p, R.q, R.a, hl]

end

/-- A branch displacement. -/
theorem ReadsBack.branch (maj : Nat) {k : Fin 8 → BitVec 23 → Instr} {g : Fin 8} {i : BitVec 23}
    (he : encode (k g i) = [maj * 67108864 + g * 8388608 + i.toNat] := by rfl)
    (hd : ∀ w, fld w 26 6 = maj → decode w 0 true = asB w k := by intro w hm; rw [decode, hm]; rfl)
    (hm : maj < 64 := by decide) : ReadsBack (k g i) := by
  have hg := g.isLt
  have h1 : fld (maj * 67108864 + g * 8388608 + i.toNat) 26 6 = maj := by unfold fld; omega
  have h2 : guardOf (maj * 67108864 + g * 8388608 + i.toNat) = g := Fin.ext (by show fld _ 23 3 = _; unfold fld; omega)
  have h3 : fld (maj * 67108864 + g * 8388608 + i.toNat) 0 23 = i.toNat := by unfold fld; omega
  refine .ofWord he ((hd _ h1).trans ?_)
  simp [asB, h2, h3]

/-! ## Long forms (R49) -/

theorem ReadsBack.ofWords {i : Instr} {w w2 : Nat} (he : encode i = [w, w2]) (hd : decode w w2 true = .ok i) : ReadsBack i := by
  intro v vs h
  rw [he] at h
  cases h
  exact hd

/-- The first word of a long form has its kind in bits 14 to 12, and 0 below them. -/
theorem encL_reads {n d kind : Nat} (h : Hd) (hn : n ≤ 1) (hd : d < 64) (hk : kind < 4) :
    fld (encL h n d kind) 26 6 = 0x3e ∧ hdOf (encL h n d kind) = h ∧ fld (encL h n d kind) 22 1 = n ∧ fld (encL h n d kind) 15 6 = d ∧
    fld (encL h n d kind) 12 3 = kind ∧ fld (encL h n d kind) 0 12 = 0 := by
  obtain ⟨h1, h2, h3, h4⟩ := encHead_reads (l := kind * 4096) h (maj := 0x3e) (by decide) hn hd (by omega)
  refine ⟨h1, h2, h3, h4, ?_, ?_⟩ <;> (unfold encL; rw [fld_encHead_add _ _ _ _ _ (by decide)]; unfold fld; omega)

/-- A long form with a destination. -/
theorem ReadsBack.longDst (kind : Nat) {k : Hd → Dst → BitVec 32 → Instr} {h : Hd} {d : Dst} {i : BitVec 32}
    (he : encode (k h d i) = [encL h (dstN d) (dstCode d) kind, i.toNat])
    (hk : kind < 4)
    (hd : ∀ w w2, fld w 26 6 = 0x3e → fld w 12 3 = kind → decode w w2 true = (do
      need (nOk w && fld w 0 12 == 0) .reservedField
      return k (hdOf w) (← dstOf (fld w 22 1) (fld w 15 6)) (BitVec.ofNat 32 w2))) : ReadsBack (k h d i) := by
  obtain ⟨h1, h2, h3, h4, h5, h6⟩ := encL_reads h (dstN_le d) (dstCode_lt64 d) hk
  refine .ofWords he ((hd _ _ h1 h5).trans ?_)
  simp [nOk, h2, h3, h4, h6]
/-- A long form that reads d and writes it. -/
theorem ReadsBack.longReg (kind : Nat) {k : Hd → Fin 48 → BitVec 32 → Instr} {h : Hd} {d : Fin 48} {i : BitVec 32}
    (he : encode (k h d i) = [encL h 0 d kind, i.toNat])
    (hk : kind < 4)
    (hd : ∀ w w2, fld w 26 6 = 0x3e → fld w 12 3 = kind → decode w w2 true = (do
      need (n0 w && fld w 0 12 == 0) .reservedField
      return k (hdOf w) (← litOf 48 (fld w 15 6)) (BitVec.ofNat 32 w2))) : ReadsBack (k h d i) := by
  obtain ⟨h1, h2, h3, h4, h5, h6⟩ := encL_reads h (Nat.zero_le 1) (fin_lt64 d) hk
  refine .ofWords he ((hd _ _ h1 h5).trans ?_)
  simp [n0, h2, h3, h4, h6]


/-! ## Decoding what the encoder writes (O1) -/

/-- Every well-formed instruction is read back: the numbers are its major and its function in the map of R50. -/
theorem readsBack (i : Instr) (hw : i.WF) : ReadsBack i := by
  cases i with
  | add => exact .r3 0x01 0
  | sub => exact .r3 0x01 1
  | addw => exact .r3 0x01 2
  | subw => exact .r3 0x01 3
  | and => exact .r3 0x02 0
  | or => exact .r3 0x02 1
  | xor => exact .r3 0x02 2
  | andn => exact .r3 0x02 3
  | orn => exact .r3 0x02 4
  | xnor => exact .r3 0x02 5
  | sll => exact .r3 0x03 0
  | srl => exact .r3 0x03 1
  | sra => exact .r3 0x03 2
  | rol => exact .r3 0x03 3
  | ror => exact .r3 0x03 4
  | sllw => exact .r3 0x03 5
  | srlw => exact .r3 0x03 6
  | sraw => exact .r3 0x03 7
  | mul => exact .r3 0x04 0
  | mulh => exact .r3 0x04 1
  | mulhu => exact .r3 0x04 2
  | mulhsu => exact .r3 0x04 3
  | div => exact .r3 0x04 4
  | divu => exact .r3 0x04 5
  | rem => exact .r3 0x04 6
  | remu => exact .r3 0x04 7
  | min => exact .r3 0x05 0
  | max => exact .r3 0x05 1
  | minu => exact .r3 0x05 2
  | maxu => exact .r3 0x05 3
  | abs => exact .r2 0x05 4
  | movnz => exact .rd3 0x05 5
  | movz => exact .rd3 0x05 6
  | clz => exact .r2 0x06 0
  | ctz => exact .r2 0x06 1
  | popc => exact .r2 0x06 2
  | bfxu => exact .r3 0x06 3
  | bfxs => exact .r3 0x06 4
  | bfi => exact .rd3 0x06 5
  | rev8 => exact .r2 0x06 6
  | sh1add => exact .r3 0x07 0
  | sh2add => exact .r3 0x07 1
  | sh3add => exact .r3 0x07 2
  | sh4add => exact .r3 0x07 3
  | sh6add => exact .r3 0x07 4
  | sh8add => exact .r3 0x07 5
  | sh13add => exact .r3 0x07 6
  | addi => exact .i9 0x08
  | andi => exact .i9 0x09
  | ori => exact .i9 0x0a
  | slli => exact .i6 0x0b 0 (he := by simp [encode])
  | srli => exact .i6 0x0b 1
  | srai => exact .i6 0x0b 2
  | rori => exact .i6 0x0b 3
  | xori => exact .i6 0x0b 4
  | cmpeq => exact .cmp 0x0c 0
  | cmpne => exact .cmp 0x0c 1
  | cmplt => exact .cmp 0x0c 2
  | cmpge => exact .cmp 0x0c 3
  | cmpltu => exact .cmp 0x0d 0
  | cmpgeu => exact .cmp 0x0d 1
  | cmpts => exact .cmp 0x0d 2
  | cmptc => exact .cmp 0x0d 3
  | cmpeqi => exact .cmpI 0x0e 0 (he := by simp [encode])
  | cmpnei => exact .cmpI 0x0e 1
  | cmplti => exact .cmpI 0x0e 2
  | cmpgei => exact .cmpI 0x0e 3
  | cmpltui => exact .cmpI 0x0f 0 (he := by simp [encode])
  | cmpgeui => exact .cmpI 0x0f 1
  | cmptsi => exact .cmpI 0x0f 2
  | cmptci => exact .cmpI 0x0f 3
  | pand => exact .p3 0x10 0
  | por => exact .p3 0x10 1
  | pxor => exact .p3 0x10 2
  | pandn => exact .p3 0x10 3
  | pnot => exact .p2 0x10 4
  | pget => exact .dst 0x10 5
  | pput => exact .ac 0x10 6
  | br => exact .branch 0x11
  | brl => exact .branch 0x12
  | jr => exact .src 0x13 0
  | jrl => exact .link 0x13 1
  | ret => exact .plain 0x13 2
  | loop => exact .loop 0x14 hw
  | lbu => exact .load 0x15 0 hw
  | lhu => exact .load 0x15 1 hw
  | lwu => exact .load 0x15 2 hw
  | ld => exact .load 0x15 3 hw
  | lb => exact .load 0x16 0 hw
  | lh => exact .load 0x16 1 hw
  | lw => exact .load 0x16 2 hw
  | sb => exact .store 0x17 0 hw
  | sh => exact .store 0x17 1 hw
  | sw => exact .store 0x17 2 hw
  | sd => exact .store 0x17 3 hw
  | mset => exact .mset 0x18 0
  | mgetb => exact .mget 0x18 1
  | mgetl => exact .mget 0x18 2
  | csrr => exact .csrr 0x19 0
  | csrw => exact .csrx 0x19 1
  | csrs => exact .csrx 0x19 2
  | csrc => exact .csrx 0x19 3
  | amoadd => exact .amo 0x1a 0 (he := by simp [encode])
  | amoand => exact .amo 0x1a 1
  | amoor => exact .amo 0x1a 2
  | amoxor => exact .amo 0x1a 3
  | amomin => exact .amo 0x1a 4
  | amomax => exact .amo 0x1a 5
  | amoswap => exact .amo 0x1a 6
  | amocas => exact .cas 0x1a 7 hw
  | fence => exact .fence 0x1b 0 hw (he := by simp [encode])
  | fenceI => exact .plainI 0x1b 1
  | nop => exact .plain 0x1c 0
  | trap => exact .trap 0x1c 1
  | eret => exact .plain 0x1c 2
  | brk => exact .plain 0x1c 3
  | link => exact .da 0x20 0
  | kick => exact .dlit 0x20 1
  | fork => exact .mask 0x20 2 hw
  | rdv => exact .mask 0x20 3 hw
  | drain => exact .plain 0x20 4
  | chseq => exact .dstLit 0x21 0
  | chstat => exact .dstLit 0x21 1
  | semi => exact .sem3 0x22 0
  | semb => exact .sem3 0x22 1
  | semw => exact .sem3 0x22 2
  | semp => exact .da 0x22 3
  | semr => exact .dstNC 0x22 4
  | semk => exact .dlit 0x22 5
  | tdef => exact .tdef 0x23 0 (he := by simp [encode])
  | tmod => exact .tmod 0x23 1
  | tget => exact .tget 0x23 2
  | tkill => exact .tkill 0x23 3
  | claim => exact .src 0x24 0
  | release => exact .src 0x24 1
  | aclr => exact .src 0x24 2
  | hstat => exact .r2 0x24 3
  | partw => exact .dst 0x24 4
  | axis => exact .da 0x25 0
  | resi => exact .da 0x25 1
  | resx => exact .da 0x25 2
  | resr => exact .dstNC 0x25 3
  | resclr => exact .dlit 0x25 4
  | qsw => exact .da 0x25 5
  | qsr => exact .dstLit 0x25 6
  | covset => exact .da 0x26 0
  | covget => exact .dstNC 0x26 1
  | covstat => exact .dstNC 0x26 2
  | spawn => exact .src 0x27 0
  | enq => exact .ac 0x27 1
  | await => exact .ac 0x27 2
  | resolve => exact .ac 0x27 3
  | yield => exact .plain 0x27 4
  | endRec => exact .plain 0x27 5
  | cancel => exact .src 0x27 6
  | join => exact .src 0x28 0
  | leave => exact .src 0x28 1
  | gbar => exact .src 0x28 2
  | wfe => exact .plain 0x28 3
  | sev => exact .src 0x28 4
  | ctxsave => exact .src 0x29 0
  | ctxrestore => exact .src 0x29 1
  | qbind => exact .ac 0x2a 0
  | qunbind => exact .src 0x2a 1
  | qdepth => exact .r2 0x2a 2
  | tprobe => exact .r2 0x2b 0
  | tinv => exact .ac 0x2b 1
  | burst => exact .burst 0x2c
  | li => exact .longDst 0 rfl (by decide) fun w w2 hm hk => by rw [decode, hm]; unfold asLong; rw [hk]; rfl
  | liu => exact .longDst 1 rfl (by decide) fun w w2 hm hk => by rw [decode, hm]; unfold asLong; rw [hk]; rfl
  | lih => exact .longReg 2 rfl (by decide) fun w w2 hm hk => by rw [decode, hm]; unfold asLong; rw [hk]; rfl
  | addl => exact .longReg 3 rfl (by decide) fun w w2 hm hk => by rw [decode, hm]; unfold asLong; rw [hk]; rfl
  | _ => exact .noWords rfl

/-- Settles O1: each form reads its fields back, and each instruction is one of the map with its form. -/
theorem decodeEncode : Obligations.DecodeEncode := readsBack


/-! ## What the decoder can read (O3) -/

/-- What a dealer may be given: a well-formed instruction that has an encoding. -/
def ForDealer (i : Instr) : Prop := i.WF ∧ encode i ≠ []

/-- Every instruction that a part of the decoder reads has the property. -/
def Yields {α : Type} (P : α → Prop) (r : Except Cause α) : Prop := ∀ a, r = .ok a → P a

theorem Yields.error {α : Type} {P : α → Prop} (c : Cause) : Yields P (.error c) := nofun
theorem Yields.ok {α : Type} {P : α → Prop} {a : α} (h : P a) : Yields P (.ok a) := by
  rintro _ ⟨⟩
  exact h
theorem Yields.bind {α β : Type} {P : β → Prop} {m : Except Cause α} {f : α → Except Cause β} (h : ∀ a, m = .ok a → Yields P (f a)) :
    Yields P (m >>= f) := by
  cases m with
  | error c => exact .error c
  | ok a => exact h a rfl
/-- A check that has passed holds. -/
theorem need_ok {ok : Bool} {c : Cause} {u : Unit} (h : need ok c = .ok u) : ok = true := by
  unfold need at h
  split at h
  · assumption
  · cases h

/-! Forms whose every instruction is well formed: what they read is k of some operands. -/

section
variable {w : Nat}

theorem Yields.asR3 {k : Hd → Dst → Src → Src → Instr}
    (hk : ∀ h d a c, ForDealer (k h d a c) := by intros; exact ⟨rfl, List.cons_ne_nil _ _⟩) : Yields ForDealer (asR3 w k) :=
  .bind fun _ _ => .bind fun _ _ => .bind fun _ _ => .bind fun _ _ => .ok (hk _ _ _ _)
theorem Yields.asR2 {k : Hd → Dst → Src → Instr}
    (hk : ∀ h d a, ForDealer (k h d a) := by intros; exact ⟨rfl, List.cons_ne_nil _ _⟩) : Yields ForDealer (asR2 w k) :=
  .bind fun _ _ => .bind fun _ _ => .bind fun _ _ => .ok (hk _ _ _)
theorem Yields.asRd3 {k : Hd → Fin 48 → Src → Src → Instr}
    (hk : ∀ h d a c, ForDealer (k h d a c) := by intros; exact ⟨rfl, List.cons_ne_nil _ _⟩) : Yields ForDealer (asRd3 w k) :=
  .bind fun _ _ => .bind fun _ _ => .bind fun _ _ => .bind fun _ _ => .ok (hk _ _ _ _)
theorem Yields.asI9 {k : Hd → Dst → Src → BitVec 9 → Instr}
    (hk : ∀ h d a i, ForDealer (k h d a i) := by intros; exact ⟨rfl, List.cons_ne_nil _ _⟩) : Yields ForDealer (asI9 w k) :=
  .bind fun _ _ => .bind fun _ _ => .bind fun _ _ => .ok (hk _ _ _ _)
theorem Yields.asI6 {k : Hd → Dst → Src → BitVec 6 → Instr}
    (hk : ∀ h d a i, ForDealer (k h d a i) := by intros; exact ⟨rfl, List.cons_ne_nil _ _⟩) : Yields ForDealer (asI6 w k) :=
  .bind fun _ _ => .bind fun _ _ => .bind fun _ _ => .ok (hk _ _ _ _)
theorem Yields.asCmp {k : Fin 8 → CmpMode → Fin 8 → Fin 8 → Src → Src → Instr}
    (hk : ∀ g ct p q a c, ForDealer (k g ct p q a c) := by intros; exact ⟨rfl, List.cons_ne_nil _ _⟩) : Yields ForDealer (asCmp w k) :=
  .bind fun _ _ => .bind fun _ _ => .bind fun _ _ => .ok (hk _ _ _ _ _ _)
theorem Yields.asCmpI {k : Fin 8 → CmpMode → Fin 8 → Fin 8 → Src → BitVec 6 → Instr}
    (hk : ∀ g ct p q a i, ForDealer (k g ct p q a i) := by intros; exact ⟨rfl, List.cons_ne_nil _ _⟩) : Yields ForDealer (asCmpI w k) :=
  .bind fun _ _ => .bind fun _ _ => .ok (hk _ _ _ _ _ _)
theorem Yields.asP3 {k : Hd → Fin 8 → Fin 8 → Fin 8 → Instr}
    (hk : ∀ h p q r, ForDealer (k h p q r) := by intros; exact ⟨rfl, List.cons_ne_nil _ _⟩) : Yields ForDealer (asP3 w k) :=
  .bind fun _ _ => .bind fun _ _ => .bind fun _ _ => .bind fun _ _ => .ok (hk _ _ _ _)
theorem Yields.asP2 {k : Hd → Fin 8 → Fin 8 → Instr}
    (hk : ∀ h p q, ForDealer (k h p q) := by intros; exact ⟨rfl, List.cons_ne_nil _ _⟩) : Yields ForDealer (asP2 w k) :=
  .bind fun _ _ => .bind fun _ _ => .bind fun _ _ => .ok (hk _ _ _)
theorem Yields.asD {k : Hd → Dst → Instr}
    (hk : ∀ h d, ForDealer (k h d) := by intros; exact ⟨rfl, List.cons_ne_nil _ _⟩) : Yields ForDealer (asD w k) :=
  .bind fun _ _ => .bind fun _ _ => .ok (hk _ _)
theorem Yields.asAC {k : Hd → Src → Src → Instr}
    (hk : ∀ h a c, ForDealer (k h a c) := by intros; exact ⟨rfl, List.cons_ne_nil _ _⟩) : Yields ForDealer (asAC w k) :=
  .bind fun _ _ => .bind fun _ _ => .bind fun _ _ => .ok (hk _ _ _)
theorem Yields.asA {k : Hd → Src → Instr}
    (hk : ∀ h a, ForDealer (k h a) := by intros; exact ⟨rfl, List.cons_ne_nil _ _⟩) : Yields ForDealer (asA w k) :=
  .bind fun _ _ => .bind fun _ _ => .ok (hk _ _)
theorem Yields.asNone {k : Hd → Instr}
    (hk : ∀ h, ForDealer (k h) := by intros; exact ⟨rfl, List.cons_ne_nil _ _⟩) : Yields ForDealer (asNone w k) :=
  .bind fun _ _ => .ok (hk _)
theorem Yields.asB {k : Fin 8 → BitVec 23 → Instr}
    (hk : ∀ g i, ForDealer (k g i) := by intros; exact ⟨rfl, List.cons_ne_nil _ _⟩) : Yields ForDealer (asB w k) :=
  .ok (hk _ _)
theorem Yields.asJrl {k : Hd → Fin 48 → Src → Instr}
    (hk : ∀ h d a, ForDealer (k h d a) := by intros; exact ⟨rfl, List.cons_ne_nil _ _⟩) : Yields ForDealer (asJrl w k) :=
  .bind fun _ _ => .bind fun _ _ => .bind fun _ _ => .ok (hk _ _ _)
theorem Yields.asMset {k : Hd → Fin 7 → Src → Src → Instr}
    (hk : ∀ h m a c, ForDealer (k h m a c) := by intros; exact ⟨rfl, List.cons_ne_nil _ _⟩) : Yields ForDealer (asMset w k) :=
  .bind fun _ _ => .bind fun _ _ => .bind fun _ _ => .bind fun _ _ => .ok (hk _ _ _ _)
theorem Yields.asMget {k : Hd → Dst → Fin 7 → Instr}
    (hk : ∀ h d m, ForDealer (k h d m) := by intros; exact ⟨rfl, List.cons_ne_nil _ _⟩) : Yields ForDealer (asMget w k) :=
  .bind fun _ _ => .bind fun _ _ => .bind fun _ _ => .ok (hk _ _ _)
theorem Yields.asCsrr {k : Hd → Dst → BitVec 12 → Instr}
    (hk : ∀ h d r, ForDealer (k h d r) := by intros; exact ⟨rfl, List.cons_ne_nil _ _⟩) : Yields ForDealer (asCsrr w k) :=
  .bind fun _ _ => .bind fun _ _ => .ok (hk _ _ _)
theorem Yields.asCsrx {k : Hd → BitVec 12 → Src → Instr}
    (hk : ∀ h r a, ForDealer (k h r a) := by intros; exact ⟨rfl, List.cons_ne_nil _ _⟩) : Yields ForDealer (asCsrx w k) :=
  .bind fun _ _ => .bind fun _ _ => .ok (hk _ _ _)
theorem Yields.asAmo {k : Hd → Bool → Scope → Order → Fin 48 → Src → Instr}
    (hk : ∀ h w sc o d a, ForDealer (k h w sc o d a) := by intros; exact ⟨rfl, List.cons_ne_nil _ _⟩) : Yields ForDealer (asAmo w k) :=
  .bind fun _ _ => .bind fun _ _ => .bind fun _ _ => .bind fun _ _ => .ok (hk _ _ _ _ _ _)
theorem Yields.asNoneI {k : Hd → Instr}
    (hk : ∀ h, ForDealer (k h) := by intros; exact ⟨rfl, List.cons_ne_nil _ _⟩) : Yields ForDealer (asNoneI w k) :=
  .bind fun _ _ => .ok (hk _)
theorem Yields.asTrap {k : Hd → BitVec 6 → Instr}
    (hk : ∀ h n, ForDealer (k h n) := by intros; exact ⟨rfl, List.cons_ne_nil _ _⟩) : Yields ForDealer (asTrap w k) :=
  .bind fun _ _ => .ok (hk _ _)
theorem Yields.asDA {m : Nat} {k : Hd → Fin m → Src → Instr}
    (hk : ∀ h n a, ForDealer (k h n a) := by intros; exact ⟨rfl, List.cons_ne_nil _ _⟩) : Yields ForDealer (asDA m w k) :=
  .bind fun _ _ => .bind fun _ _ => .bind fun _ _ => .ok (hk _ _ _)
theorem Yields.asDLit {m : Nat} {k : Hd → Fin m → Instr}
    (hk : ∀ h n, ForDealer (k h n) := by intros; exact ⟨rfl, List.cons_ne_nil _ _⟩) : Yields ForDealer (asDLit m w k) :=
  .bind fun _ _ => .bind fun _ _ => .ok (hk _ _)
theorem Yields.asDstLit {m : Nat} {k : Hd → Dst → Fin m → Instr}
    (hk : ∀ h d n, ForDealer (k h d n) := by intros; exact ⟨rfl, List.cons_ne_nil _ _⟩) : Yields ForDealer (asDstLit m w k) :=
  .bind fun _ _ => .bind fun _ _ => .bind fun _ _ => .ok (hk _ _ _)
theorem Yields.asDstNC {m : Nat} {k : Hd → Dst → Fin m → Src → Instr}
    (hk : ∀ h d n c, ForDealer (k h d n c) := by intros; exact ⟨rfl, List.cons_ne_nil _ _⟩) : Yields ForDealer (asDstNC m w k) :=
  .bind fun _ _ => .bind fun _ _ => .bind fun _ _ => .bind fun _ _ => .ok (hk _ _ _ _)
theorem Yields.asSem3 {k : Hd → Fin 64 → Src → Src → Instr}
    (hk : ∀ h n a c, ForDealer (k h n a c) := by intros; exact ⟨rfl, List.cons_ne_nil _ _⟩) : Yields ForDealer (asSem3 w k) :=
  .bind fun _ _ => .bind fun _ _ => .bind fun _ _ => .bind fun _ _ => .ok (hk _ _ _ _)
theorem Yields.asTdef {k : Hd → Fin 128 → Src → Instr}
    (hk : ∀ h n a, ForDealer (k h n a) := by intros; exact ⟨rfl, List.cons_ne_nil _ _⟩) : Yields ForDealer (asTdef w k) :=
  .bind fun _ _ => .bind fun _ _ => .ok (hk _ _ _)
theorem Yields.asTmod {k : Hd → Fin 128 → Src → Src → Instr}
    (hk : ∀ h n a c, ForDealer (k h n a c) := by intros; exact ⟨rfl, List.cons_ne_nil _ _⟩) : Yields ForDealer (asTmod w k) :=
  .bind fun _ _ => .bind fun _ _ => .bind fun _ _ => .ok (hk _ _ _ _)
theorem Yields.asTget {k : Hd → Dst → Fin 128 → Src → Instr}
    (hk : ∀ h d n a, ForDealer (k h d n a) := by intros; exact ⟨rfl, List.cons_ne_nil _ _⟩) : Yields ForDealer (asTget w k) :=
  .bind fun _ _ => .bind fun _ _ => .bind fun _ _ => .ok (hk _ _ _ _)
theorem Yields.asTkill {k : Hd → Fin 128 → Instr}
    (hk : ∀ h n, ForDealer (k h n) := by intros; exact ⟨rfl, List.cons_ne_nil _ _⟩) : Yields ForDealer (asTkill w k) :=
  .bind fun _ _ => .ok (hk _ _)
theorem Yields.asBurst {k : Hd → BitVec 9 → Instr}
    (hk : ∀ h i, ForDealer (k h i) := by intros; exact ⟨rfl, List.cons_ne_nil _ _⟩) : Yields ForDealer (asBurst w k) :=
  .bind fun _ _ => .ok (hk _ _)

/-! Forms with a check that their instructions need. -/

/-- An immediate that a field other than 0 holds is not 0. -/
theorem ofNat_fld_bne_zero {lo n : Nat} (h : (fld w lo n != 0) = true) : (BitVec.ofNat n (fld w lo n) != 0#n) = true := by
  rw [bne_iff_ne] at h ⊢
  intro e
  have := congrArg BitVec.toNat e
  rw [BitVec.toNat_ofNat, Nat.mod_eq_of_lt (a := fld w lo n) (Nat.mod_lt _ (Nat.two_pow_pos n))] at this
  exact h this
theorem Yields.asLoop {k : Hd → Src → BitVec 9 → Instr}
    (hk : ∀ h a i, (i != 0) = true → ForDealer (k h a i) := by intro _ _ _ h; exact ⟨h, List.cons_ne_nil _ _⟩) :
    Yields ForDealer (asLoop w k) := by
  refine .bind fun _ h => .bind fun _ _ => .ok (hk _ _ _ (ofNat_fld_bne_zero ?_))
  have := need_ok h
  simp only [Bool.and_eq_true] at this
  exact this.2
theorem Yields.asMask {k : Hd → BitVec 4 → Instr}
    (hk : ∀ h i, (i != 0) = true → ForDealer (k h i) := by intro _ _ h; exact ⟨h, List.cons_ne_nil _ _⟩) :
    Yields ForDealer (asMask w k) := by
  refine .bind fun _ _ => .bind fun _ h => .ok (hk _ _ ?_)
  have := need_ok h
  simp only [Bool.and_eq_true, bne_iff_ne, decide_eq_true_eq] at this ⊢
  intro e
  have := congrArg BitVec.toNat e
  rw [BitVec.toNat_ofNat] at this
  simp at this
  omega
/-- A base that the decoder reads beside a modulo field is one that the field takes (R46). -/
theorem baseOf_ok {m a : Nat} {r : Src} (h : baseOf m a = .ok r) : ((modOf m).isNone || r.isG) = true := by
  by_cases h0 : m = 0
  · subst h0
    rfl
  by_cases ha : a < 48
  · have hr : .g ⟨a, ha⟩ = r := by simpa [baseOf, srcOf, ha, need] using h
    simp [← hr, Src.isG]
  · rw [baseOf, beq_false_of_ne h0, decide_eq_false ha] at h
    cases h
theorem Yields.asLoad {k : Hd → Dst → Src → Option (Fin 7) → BitVec 4 → Instr}
    (hk : ∀ h d a m o, (m.isNone || a.isG) = true → ForDealer (k h d a m o) := by intro _ _ _ _ _ h; exact ⟨h, List.cons_ne_nil _ _⟩) :
    Yields ForDealer (asLoad w k) :=
  .bind fun _ _ => .bind fun _ _ => .bind fun _ h => .ok (hk _ _ _ _ _ (baseOf_ok h))
theorem Yields.asStore {k : Hd → Src → Src → Option (Fin 7) → BitVec 4 → Instr}
    (hk : ∀ h v a m o, (m.isNone || a.isG) = true → ForDealer (k h v a m o) := by intro _ _ _ _ _ h; exact ⟨h, List.cons_ne_nil _ _⟩) :
    Yields ForDealer (asStore w k) :=
  .bind fun _ _ => .bind fun _ _ => .bind fun _ h => .ok (hk _ _ _ _ _ (baseOf_ok h))
theorem litOf_ok {n j : Nat} {i : Fin n} (h : litOf n j = .ok i) : i.val = j := by
  unfold litOf at h
  split at h
  · cases h; rfl
  · cases h
theorem Yields.asCas {k : Hd → Bool → Scope → Order → Fin 48 → Src → Instr}
    (hk : ∀ h w sc o d a, (d.val % 2 == 0) = true → ForDealer (k h w sc o d a) := by
      intro _ _ _ _ _ _ h; exact ⟨h, List.cons_ne_nil _ _⟩) :
    Yields ForDealer (asCas w k) :=
  .bind fun _ _ => .bind fun _ _ => .bind fun _ h => .bind fun _ hd => .bind fun _ _ =>
    .ok (hk _ _ _ _ _ _ (by rw [litOf_ok hd]; exact need_ok h))
theorem ordOf_bne_rlx {j : Nat} (h : (j != 0) = true) : (ordOf j != .rlx) = true := by
  unfold ordOf
  split
  · exact h
  all_goals rfl
theorem Yields.asFence {k : Hd → Scope → Order → Instr}
    (hk : ∀ h sc o, (o != .rlx) = true → ForDealer (k h sc o) := by intro _ _ _ h; exact ⟨h, List.cons_ne_nil _ _⟩) :
    Yields ForDealer (asFence w k) := by
  refine .bind fun _ h => .bind fun _ _ => .ok (hk _ _ _ (ordOf_bne_rlx ?_))
  have := need_ok h
  simp only [Bool.and_eq_true] at this
  exact this.2

theorem Yields.asLong {w2 : Nat} {al : Bool} : Yields ForDealer (asLong w w2 al) := by
  unfold Sys2Proof.asLong
  split
  · exact .bind fun _ _ => .bind fun _ _ => .bind fun _ _ => .ok ⟨rfl, List.cons_ne_nil _ _⟩
  · exact .bind fun _ _ => .bind fun _ _ => .bind fun _ _ => .ok ⟨rfl, List.cons_ne_nil _ _⟩
  · exact .bind fun _ _ => .bind fun _ _ => .bind fun _ _ => .ok ⟨rfl, List.cons_ne_nil _ _⟩
  · exact .bind fun _ _ => .bind fun _ _ => .bind fun _ _ => .ok ⟨rfl, List.cons_ne_nil _ _⟩
  · exact .error _

end

/-- Whatever the word, the decoder reads only what a dealer may be given: the map of R50, major by major and function by function. -/
theorem Yields.decode (w w2 : Nat) (al : Bool) : Yields ForDealer (decode w w2 al) := by
  unfold Sys2Proof.decode
  split
  · split
    · exact .asR3
    · exact .asR3
    · exact .asR3
    · exact .asR3
    · exact .error _
  · split
    · exact .asR3
    · exact .asR3
    · exact .asR3
    · exact .asR3
    · exact .asR3
    · exact .asR3
    · exact .error _
  · split
    · exact .asR3
    · exact .asR3
    · exact .asR3
    · exact .asR3
    · exact .asR3
    · exact .asR3
    · exact .asR3
    · exact .asR3
    · exact .error _
  · split
    · exact .asR3
    · exact .asR3
    · exact .asR3
    · exact .asR3
    · exact .asR3
    · exact .asR3
    · exact .asR3
    · exact .asR3
    · exact .error _
  · split
    · exact .asR3
    · exact .asR3
    · exact .asR3
    · exact .asR3
    · exact .asR2
    · exact .asRd3
    · exact .asRd3
    · exact .error _
  · split
    · exact .asR2
    · exact .asR2
    · exact .asR2
    · exact .asR3
    · exact .asR3
    · exact .asRd3
    · exact .asR2
    · exact .error _
  · split
    · exact .asR3
    · exact .asR3
    · exact .asR3
    · exact .asR3
    · exact .asR3
    · exact .asR3
    · exact .asR3
    · exact .error _
  · exact .asI9
  · exact .asI9
  · exact .asI9
  · split
    · exact .asI6
    · exact .asI6
    · exact .asI6
    · exact .asI6
    · exact .asI6
    · exact .error _
  · split
    · exact .asCmp
    · exact .asCmp
    · exact .asCmp
    · exact .asCmp
    · exact .error _
  · split
    · exact .asCmp
    · exact .asCmp
    · exact .asCmp
    · exact .asCmp
    · exact .error _
  · split
    · exact .asCmpI
    · exact .asCmpI
    · exact .asCmpI
    · exact .asCmpI
    · exact .error _
  · split
    · exact .asCmpI
    · exact .asCmpI
    · exact .asCmpI
    · exact .asCmpI
    · exact .error _
  · split
    · exact .asP3
    · exact .asP3
    · exact .asP3
    · exact .asP3
    · exact .asP2
    · exact .asD
    · exact .asAC
    · exact .error _
  · exact .asB
  · exact .asB
  · split
    · exact .asA
    · exact .asJrl
    · exact .asNone
    · exact .error _
  · exact .asLoop
  · split
    · exact .asLoad
    · exact .asLoad
    · exact .asLoad
    · exact .asLoad
    · exact .error _
  · split
    · exact .asLoad
    · exact .asLoad
    · exact .asLoad
    · exact .error _
  · split
    · exact .asStore
    · exact .asStore
    · exact .asStore
    · exact .asStore
    · exact .error _
  · split
    · exact .asMset
    · exact .asMget
    · exact .asMget
    · exact .error _
  · split
    · exact .asCsrr
    · exact .asCsrx
    · exact .asCsrx
    · exact .asCsrx
    · exact .error _
  · split
    · exact .asAmo
    · exact .asAmo
    · exact .asAmo
    · exact .asAmo
    · exact .asAmo
    · exact .asAmo
    · exact .asAmo
    · exact .asCas
    · exact .error _
  · split
    · exact .asFence
    · exact .asNoneI
    · exact .error _
  · split
    · exact .asNone
    · exact .asTrap
    · exact .asNone
    · exact .asNone
    · exact .error _
  · split
    · exact .asDA
    · exact .asDLit
    · exact .asMask
    · exact .asMask
    · exact .asNone
    · exact .error _
  · split
    · exact .asDstLit
    · exact .asDstLit
    · exact .error _
  · split
    · exact .asSem3
    · exact .asSem3
    · exact .asSem3
    · exact .asDA
    · exact .asDstNC
    · exact .asDLit
    · exact .error _
  · split
    · exact .asTdef
    · exact .asTmod
    · exact .asTget
    · exact .asTkill
    · exact .error _
  · split
    · exact .asA
    · exact .asA
    · exact .asA
    · exact .asR2
    · exact .asD
    · exact .error _
  · split
    · exact .asDA
    · exact .asDA
    · exact .asDA
    · exact .asDstNC
    · exact .asDLit
    · exact .asDA
    · exact .asDstLit
    · exact .error _
  · split
    · exact .asDA
    · exact .asDstNC
    · exact .asDstNC
    · exact .error _
  · split
    · exact .asA
    · exact .asAC
    · exact .asAC
    · exact .asAC
    · exact .asNone
    · exact .asNone
    · exact .asA
    · exact .error _
  · split
    · exact .asA
    · exact .asA
    · exact .asA
    · exact .asNone
    · exact .asA
    · exact .error _
  · split
    · exact .asA
    · exact .asA
    · exact .error _
  · split
    · exact .asAC
    · exact .asA
    · exact .asR2
    · exact .error _
  · split
    · exact .asR2
    · exact .asAC
    · exact .error _
  · exact .asBurst
  · exact .asLong
  · exact .error _

/-- Settles O3: every form of the map yields instructions of a dealer only. -/
theorem decoderKeepsToTheTable : Obligations.DecoderKeepsToTheTable := fun w w2 al => Yields.decode w w2 al

/-- Settles O2: the decoder evaluated on the printed words. -/
theorem decodedWords : Obligations.DecodedWords := by
  unfold Obligations.DecodedWords
  decide

end Sys2Proof
end

section
/-!
PROOFS. Completing an instruction (O12, O30). Charging its event (R424 to R426) leaves every context but for its counters and the marks of
descheduled queues; then the end test and the end of the group decide the rest. Each fact is stated of `complete` once, and read off for the
dealer's own instruction and for one that waited.
-/
namespace Sys2Proof.Machine
open Sys2Proof

/-! ## States alike but for the marks of descheduled queues (R426) -/

/-- The context without the mark of a descheduled queue. -/
def Ctx.unmark (x : Ctx) : Ctx := { x with desched := false }
/-- The tile with the marks of its contexts taken away. -/
def Tile.unmark (t : Tile) : Tile := { t with slots := t.slots.map (Option.map Ctx.unmark) }
/-- The state without marks and without its queues. -/
def State.unmark (s : State) : State := { s with tiles := s.tiles.map Tile.unmark, queues := Vector.replicate 256 {} }

theorem vec_get_map {α β : Type} {n : Nat} (v : Vector α n) (f : α → β) (i : Fin n) : (v.map f).get i = f (v.get i) := by
  show (v.map f)[i.val] = f v[i.val]
  simp

/-- Two states that differ in marks and queues only. -/
def Alike (s t : State) : Prop := t.unmark = s.unmark

theorem Alike.trans {s t u : State} (h : Alike s t) (k : Alike t u) : Alike s u := Eq.trans k h
theorem Alike.of_queues {s t : State} {q : Vector Queue 256} (h : Alike s t) : Alike s { t with queues := q } := h
theorem Alike.withQueues (s : State) (q : Vector Queue 256) : Alike s { s with queues := q } := rfl

theorem Alike.rest {s t : State} (h : Alike s t) : t = { s with tiles := t.tiles, queues := t.queues } :=
  calc t = { t.unmark with tiles := t.tiles, queues := t.queues } := rfl
    _ = { s.unmark with tiles := t.tiles, queues := t.queues } := by rw [h]
theorem Alike.tile {s t : State} (h : Alike s t) (n : TileNo) : (t.tile n).unmark = (s.tile n).unmark := by
  have e := congrArg (fun u : State => u.tile n) h
  simpa only [State.tile, State.unmark, vec_get_map] using e
theorem Alike.slots {s t : State} (h : Alike s t) (n : TileNo) : { t.tile n with slots := (s.tile n).slots } = s.tile n :=
  calc ({ t.tile n with slots := (s.tile n).slots } : Tile) = { (t.tile n).unmark with slots := (s.tile n).slots } := rfl
    _ = { (s.tile n).unmark with slots := (s.tile n).slots } := by rw [h.tile]
theorem Alike.ctx {s t : State} (h : Alike s t) (n : TileNo) (c : SlotNo) :
    (t.ctx? n c).map Ctx.unmark = (s.ctx? n c).map Ctx.unmark := by
  have e := congrArg (fun u : Tile => u.slots.get c) (h.tile n)
  simpa only [State.ctx?, Tile.unmark, vec_get_map] using e
theorem Alike.ctx_some {s t : State} (h : Alike s t) {n : TileNo} {c : SlotNo} {x : Ctx} (hx : s.ctx? n c = some x) :
    ∃ y, t.ctx? n c = some y ∧ y.unmark = x.unmark := by
  have e := h.ctx n c
  rw [hx, Option.map_some] at e
  exact Option.map_eq_some_iff.mp e

theorem Alike.markQueue (q : Fin 256) (on : Bool) (s : State) : Alike s (s.markQueue q on) := by
  unfold Alike State.unmark State.markQueue
  simp only [Vector.map_map]
  congr 1
  apply congrArg (fun f => s.tiles.map f)
  funext t
  simp only [Function.comp, Tile.unmark, Vector.map_map]
  congr 1
  apply congrArg (fun f => t.slots.map f)
  funext o
  cases o with
  | none => rfl
  | some x => simp only [Function.comp, Option.map_some]; split <;> rfl
theorem Alike.deschedule (q : Fin 256) (s : State) : Alike s (s.deschedule q) := by
  unfold State.deschedule
  dsimp only
  split
  · exact (Alike.withQueues s _).trans (.markQueue q true _)
  · rfl
theorem Alike.closePeriod (q : Fin 256) (k : Nat) (s : State) : Alike s (s.closePeriod q k) := by
  unfold State.closePeriod
  dsimp only
  split
  · exact (Alike.withQueues s _).trans (.markQueue q false _)
  · exact .withQueues s _
theorem Alike.settleQueue (q : Fin 256) (s : State) : Alike s (s.settleQueue q) := by
  unfold State.settleQueue
  split
  · split
    · exact .closePeriod q _ s
    · rfl
  · rfl
theorem Alike.chargeQueue (s : State) (i : Fin 256) (k : Fin 9) (n : Nat) : Alike s (s.chargeQueue i k n) := by
  unfold State.chargeQueue
  exact (Alike.settleQueue i s).trans ((Alike.withQueues _ _).trans (.deschedule i _))
theorem Alike.chargeJob (job : Nat) (k : Fin 9) (n : Nat) (s : State) : Alike s (s.chargeJob job k n) := by
  unfold State.chargeJob
  split
  · rfl
  · exact .chargeQueue s _ k n

/-- Counting an event changes the counter of its context, and then marks and queues only. -/
theorem Alike.charge {s : State} {t : TileNo} {c : SlotNo} {x : Ctx} (hx : s.ctx? t c = some x) (k : Fin 9) :
    Alike (s.setSlot t c (some (x.count k 1))) (s.charge t c k 1) := by
  unfold State.charge
  rw [hx]
  exact .chargeJob x.job k 1 _

/-! ## The end test (R119, R120) -/

/-- The instruction at pc is the last one of the body of level L, and L is active. -/
def endsBody (x : Ctx) (pc : Word) (L : Fin 2) : Prop := (x.loops.get L).act = true ∧ (x.loops.get L).le = pc

theorem endTest_none {x : Ctx} {pc : Word} (h : ∀ L, ¬ endsBody x pc L) (len : Nat) :
    endTest x pc len = (x, pc + BitVec.ofNat 64 (4 * len), false) := by
  have h0 := h 0
  have h1 := h 1
  simp only [endsBody] at h0 h1
  simp [endTest, h0, h1]
theorem endTest_last {x : Ctx} {pc : Word} {L : Fin 2} (h : endsBody x pc L) (hin : L = 0 → ¬ endsBody x pc 1) (len : Nat) :
    endTest x pc len =
      if (x.loops.get L).lc.toNat ≤ 1 then ({ x with loops := x.loops.set L (x.loops.get L).stop }, (x.loops.get L).le + 4, true)
      else ({ x with loops := x.loops.set L { x.loops.get L with lc := (x.loops.get L).lc - 1 } }, (x.loops.get L).ls, true) := by
  simp only [endsBody] at h hin
  match L with
  | 0 => simp [endTest, h, hin rfl]
  | 1 => simp [endTest, h]
/-- Every outcome of the end test: no level ends here, or one does and its place alone is written. -/
theorem endTest_cases (x : Ctx) (pc : Word) :
    (∀ L, ¬ endsBody x pc L) ∨ ∃ L, endsBody x pc L ∧ (L = 0 → ¬ endsBody x pc 1) := by
  by_cases h1 : endsBody x pc 1
  · exact .inr ⟨1, h1, nofun⟩
  by_cases h0 : endsBody x pc 0
  · exact .inr ⟨0, h0, fun _ => h1⟩
  · exact .inl fun L => match L with
      | 0 => h0
      | 1 => h1

/-- The end test writes loop levels only, and keeps their bounds. -/
theorem endTest_frame (x : Ctx) (pc : Word) (len : Nat) :
    (endTest x pc len).1 = { x with loops := (endTest x pc len).1.loops } ∧ SameBounds x (endTest x pc len).1 := by
  rcases endTest_cases x pc with h | ⟨L, h, hin⟩
  · rw [endTest_none h]
    exact ⟨rfl, fun _ => ⟨rfl, rfl⟩⟩
  · rw [endTest_last h hin]
    have bounds : ∀ l : LoopLevel, l.ls = (x.loops.get L).ls → l.le = (x.loops.get L).le →
        SameBounds x { x with loops := x.loops.set L l } := by
      intro l hs he K
      by_cases hK : L = K
      · subst hK
        simp [hs, he]
      · simp [vec_get_set_ne _ _ _ _ _ hK]
    split
    · exact ⟨rfl, bounds _ rfl rfl⟩
    · exact ⟨rfl, bounds _ rfl rfl⟩

/-! ## Completing without a transfer -/

/-- A context whose instruction makes its latch entry and waits no longer (R42). -/
def latched (v : Option Word) (x : Ctx) : Ctx := { x with wait := none, answers := [], latches := v :: x.latches }
/-- A context after its instruction has completed without a transfer: its latch entry is made, and the end test has run (R42, R120). -/
def fallen (len : Nat) (ends : Bool) (v : Option Word) (x : Ctx) : Ctx :=
  let r := endTest (latched v x) x.pc len
  { r.1 with pc := r.2.1, latches := if ends || r.2.2 then [] else r.1.latches }

/-- Completing without a transfer writes of its context the pc, the group, the loop levels, the wait and its answers. -/
theorem fallen_frame (len : Nat) (ends : Bool) (v : Option Word) (x : Ctx) :
    fallen len ends v x = { x with
      wait := none, answers := [], pc := (fallen len ends v x).pc, latches := (fallen len ends v x).latches,
      loops := (fallen len ends v x).loops } :=
  congrArg (fun z : Ctx => { z with pc := (fallen len ends v x).pc, latches := (fallen len ends v x).latches })
    (endTest_frame (latched v x) x.pc len).1
theorem fallen_core (len : Nat) (ends : Bool) (v : Option Word) (x : Ctx) : (fallen len ends v x).core = x.core :=
  (congrArg Ctx.core (fallen_frame len ends v x)).trans rfl
theorem fallen_regs (len : Nat) (ends : Bool) (v : Option Word) (x : Ctx) : (fallen len ends v x).regs = x.regs := by rw [fallen_frame]
theorem fallen_preds (len : Nat) (ends : Bool) (v : Option Word) (x : Ctx) : (fallen len ends v x).preds = x.preds := by rw [fallen_frame]
theorem fallen_wait (len : Nat) (ends : Bool) (v : Option Word) (x : Ctx) : (fallen len ends v x).wait = none := by rw [fallen_frame]
theorem fallen_bounds (len : Nat) (ends : Bool) (v : Option Word) (x : Ctx) : SameBounds x (fallen len ends v x) :=
  (endTest_frame (latched v x) x.pc len).2
theorem fallen_next {x : Ctx} (h : ∀ L, ¬ endsBody x x.pc L) (len : Nat) (ends : Bool) (v : Option Word) :
    fallen len ends v x = { x with
      wait := none, answers := [], pc := x.pc + BitVec.ofNat 64 (4 * len), latches := if ends then [] else v :: x.latches } := by
  unfold fallen
  rw [endTest_none (x := latched v x) h]
  cases ends <;> rfl
theorem fallen_last {x : Ctx} {L : Fin 2} (h : endsBody x x.pc L) (hin : L = 0 → ¬ endsBody x x.pc 1) (len : Nat) (ends : Bool)
    (v : Option Word) :
    fallen len ends v x =
      if (x.loops.get L).lc.toNat ≤ 1 then
        { x with wait := none, answers := [], latches := [], loops := x.loops.set L (x.loops.get L).stop, pc := (x.loops.get L).le + 4 }
      else
        { x with
          wait := none, answers := [], latches := [], loops := x.loops.set L { x.loops.get L with lc := (x.loops.get L).lc - 1 }
          pc := (x.loops.get L).ls } := by
  unfold fallen
  rw [endTest_last (x := latched v x) h hin]
  by_cases hc : (x.loops.get L).lc.toNat ≤ 1
  · rw [if_pos hc, if_pos (show ((latched v x).loops.get L).lc.toNat ≤ 1 from hc)]
    cases ends <;> rfl
  · rw [if_neg hc, if_neg (show ¬ ((latched v x).loops.get L).lc.toNat ≤ 1 from hc)]
    cases ends <;> rfl

/-- A context takes nothing pending where no cause and no engine fault waits for it (R180, R375). -/
theorem takePending_none {s : State} {t : TileNo} {c : SlotNo} {x : Ctx} (hx : s.ctx? t c = some x) (ha : x.asyncs = [])
    (hf : pendingFault x = none) : takePending t c s = s := by
  unfold takePending
  simp only [hx, ha, hf]
  split <;> rfl

theorem Ctx.quiet_iff (x : Ctx) : x.quiet = true ↔ x.asyncs = [] ∧ pendingFault x = none ∧ x.stepping = false := by
  simp [Ctx.quiet, and_assoc]

theorem complete_fall_eq {s : State} {t : TileNo} {c : SlotNo} {x : Ctx} (hx : (s.charge t c 8 1).ctx? t c = some x) (len : Nat)
    (ends : Bool) (v : Option Word) : complete t c len ends false { val := v } s =
      if ends || (endTest (latched v x) x.pc len).2.2 then takePending t c ((s.charge t c 8 1).setSlot t c (some (fallen len ends v x)))
      else (s.charge t c 8 1).setSlot t c (some (fallen len ends v x)) := by
  simp only [complete, hx]
  rfl

/-- Where nothing pends, completing without a transfer charges the event and puts the fallen context into its slot; d and a are the mark
and the counters that the charge leaves. -/
theorem complete_fall {s : State} {t : TileNo} {c : SlotNo} {y : Ctx} (hy : s.ctx? t c = some y) (hq : y.quiet = true) (len : Nat)
    (ends : Bool) (v : Option Word) :
    ∃ d a, complete t c len ends false { val := v } s =
      (s.charge t c 8 1).setSlot t c (some (fallen len ends v { y with desched := d, activity := a })) := by
  obtain ⟨ha, hf, -⟩ := y.quiet_iff.mp hq
  obtain ⟨x0, hx0, hu⟩ := (Alike.charge hy 8).ctx_some (State.ctx_setSlot s t c _)
  have e : x0 = { y with desched := x0.desched, activity := x0.activity } :=
    calc x0 = { x0.unmark with desched := x0.desched, activity := x0.activity } := rfl
      _ = { (y.count 8 1).unmark with desched := x0.desched, activity := x0.activity } := by rw [hu]
  refine ⟨x0.desched, x0.activity, ?_⟩
  rw [← e]
  have fr := fallen_frame len ends v x0
  have quiet : takePending t c ((s.charge t c 8 1).setSlot t c (some (fallen len ends v x0))) =
      (s.charge t c 8 1).setSlot t c (some (fallen len ends v x0)) := by
    refine takePending_none (State.ctx_setSlot ..) ?_ ?_
    · rw [fr, e]
      exact ha
    · rw [fr, e]
      exact hf
  rw [complete_fall_eq hx0, quiet, ite_self]

/-! ## What stays where one slot changes -/

/-- From s to u the context in slot c of tile t may change, and else marks of descheduled queues and the queues. -/
structure SlotStep (t : TileNo) (c : SlotNo) (s u : State) : Prop where
  rest   : u = { s with tiles := u.tiles, queues := u.queues }
  tiles  : ∀ n : TileNo, { u.tile n with slots := (s.tile n).slots } = s.tile n
  others : ∀ (n : TileNo) (b : SlotNo) (z : Ctx), (n, b) ≠ (t, c) → s.ctx? n b = some z →
    ∃ z', u.ctx? n b = some z' ∧ { z' with desched := z.desched } = z

theorem SlotStep.refl (t : TileNo) (c : SlotNo) (s : State) : SlotStep t c s s :=
  ⟨rfl, fun _ => rfl, fun _ _ z _ hz => ⟨z, hz, rfl⟩⟩
theorem SlotStep.trans {t : TileNo} {c : SlotNo} {s u v : State} (h : SlotStep t c s u) (k : SlotStep t c u v) : SlotStep t c s v where
  rest :=
    calc v = { u with tiles := v.tiles, queues := v.queues } := k.rest
      _ = { ({ s with tiles := u.tiles, queues := u.queues } : State) with tiles := v.tiles, queues := v.queues } :=
        congrArg (fun w : State => { w with tiles := v.tiles, queues := v.queues }) h.rest
  tiles n :=
    calc ({ v.tile n with slots := (s.tile n).slots } : Tile)
      _ = { ({ v.tile n with slots := (u.tile n).slots } : Tile) with slots := (s.tile n).slots } := rfl
      _ = { u.tile n with slots := (s.tile n).slots } := congrArg (fun w : Tile => { w with slots := (s.tile n).slots }) (k.tiles n)
      _ = s.tile n := h.tiles n
  others n b z hne hz := by
    obtain ⟨z1, h1, e1⟩ := h.others n b z hne hz
    obtain ⟨z2, h2, e2⟩ := k.others n b z1 hne h1
    exact ⟨z2, h2, (congrArg (fun w : Ctx => { w with desched := z.desched }) e2).trans e1⟩
theorem SlotStep.alike {s u : State} (h : Alike s u) (t : TileNo) (c : SlotNo) : SlotStep t c s u where
  rest := h.rest
  tiles := h.slots
  others n b z _ hz := by
    obtain ⟨z', hz', e⟩ := h.ctx_some hz
    exact ⟨z', hz', congrArg (fun w : Ctx => { w with desched := z.desched }) e⟩

/-- A slot is put into the tile it stands in, and other slots read as before. -/
theorem State.ctx_setSlot_ne (s : State) {t n : TileNo} {c b : SlotNo} (x : Option Ctx) (h : (n, b) ≠ (t, c)) :
    (s.setSlot t c x).ctx? n b = s.ctx? n b := by
  by_cases ht : t = n
  · subst ht
    have hb : c ≠ b := fun e => h (by rw [e])
    simp only [State.ctx?, State.setSlot, State.tile_setTile]
    exact vec_get_set_ne _ _ _ _ _ hb
  · simp only [State.ctx?, State.setSlot, State.tile_setTile_ne _ _ _ _ ht]
theorem SlotStep.setSlot (t : TileNo) (c : SlotNo) (s : State) (x : Option Ctx) : SlotStep t c s (s.setSlot t c x) where
  rest := rfl
  tiles n := by
    by_cases ht : t = n
    · subst ht
      simp only [State.setSlot, State.tile_setTile]
    · simp only [State.setSlot, State.tile_setTile_ne _ _ _ _ ht]
  others n b z hne hz := ⟨z, (State.ctx_setSlot_ne s x hne).trans hz, rfl⟩
theorem SlotStep.modCtx (t : TileNo) (c : SlotNo) (s : State) (f : Ctx → Ctx) : SlotStep t c s (s.modCtx t c f) := by
  unfold State.modCtx
  split
  · exact .setSlot ..
  · exact .refl ..
theorem SlotStep.charge (t : TileNo) (c : SlotNo) (s : State) (k : Fin 9) : SlotStep t c s (s.charge t c k 1) := by
  cases hx : s.ctx? t c with
  | none => unfold State.charge; rw [hx]; exact .refl ..
  | some x => exact (SlotStep.setSlot t c s _).trans (.alike (.charge hx k) t c)

/-- Where nothing pends, a completed context is the fallen one, and the rest of the machine is as it was but for marks and queues. -/
theorem complete_fall_frame {s : State} {t : TileNo} {c : SlotNo} {y : Ctx} (hy : s.ctx? t c = some y) (hq : y.quiet = true) (len : Nat)
    (ends : Bool) (v : Option Word) :
    SlotStep t c s (complete t c len ends false { val := v } s) ∧
    ∃ d a, (complete t c len ends false { val := v } s).ctx? t c = some (fallen len ends v { y with desched := d, activity := a }) := by
  obtain ⟨d, a, e⟩ := complete_fall hy hq len ends v
  rw [e]
  exact ⟨(SlotStep.charge t c s 8).trans (.setSlot ..), d, a, State.ctx_setSlot ..⟩

/-- Settles O12: the completed context is the fallen one of y, whose pc, group and loops the end test decides. -/
theorem completing : Obligations.Completing := by
  intro s s1 x y len ends v hy hq hs
  have hf : finish s x len ends { val := v } s1 = complete s.cur s.mySlot len ends false { val := v } s1 := by
    unfold finish
    rw [hs, Bool.false_and]
  have ne : ∀ L : Fin 2, L ≠ 1 - L := by decide
  rw [hf]
  obtain ⟨frame, d, a, hz⟩ := complete_fall_frame hy hq len ends v
  refine ⟨_, hz, fallen_core .., fallen_regs .., fallen_preds .., fallen_wait .., fallen_bounds len ends v _, ?_, ?_, frame.rest⟩
  · intro hno
    rw [fallen_next (x := { y with desched := d, activity := a }) hno]
    exact ⟨rfl, rfl, rfl⟩
  · intro L hact hle hin
    rw [fallen_last (x := { y with desched := d, activity := a }) ⟨hact, hle⟩ hin]
    by_cases hc : (y.loops.get L).lc.toNat ≤ 1
    · simp [hc, vec_get_set_ne _ _ _ _ _ (ne L), LoopLevel.stop]
    · simp [hc, vec_get_set_ne _ _ _ _ _ (ne L), hact]

/-- From y to z general registers only have changed. -/
def RegsOnly (y z : Ctx) : Prop := z = { y with regs := z.regs }

section
variable {y z : Ctx} (h : RegsOnly y z)
include h
theorem RegsOnly.pc : z.pc = y.pc := by rw [h]
theorem RegsOnly.loops : z.loops = y.loops := by rw [h]
theorem RegsOnly.preds : z.preds = y.preds := by rw [h]
theorem RegsOnly.core : z.core = y.core := (congrArg Ctx.core h).trans rfl
theorem RegsOnly.quiet : z.quiet = y.quiet := (congrArg Ctx.quiet h).trans rfl
end

theorem RegsOnly.refl (y : Ctx) : RegsOnly y y := rfl
theorem RegsOnly.setReg (y : Ctx) (g : Fin 48) (v : Word) : RegsOnly y (y.setReg g v) := rfl
theorem RegsOnly.setDst (y : Ctx) (d : Dst) (v : Word) : RegsOnly y (y.setDst d v) := by
  cases d with
  | none => exact .refl y
  | some g => exact .setReg y g v

/-- A context in whose wait w a value has been delivered: the destination that the wait keeps takes it. -/
def Ctx.deliver (w : Wait) (v : Option Word) (y : Ctx) : Ctx :=
  match w.dst, v with
  | some d, some u => y.setDst d u
  | _, _ => y

theorem RegsOnly.deliver (w : Wait) (v : Option Word) (y : Ctx) : RegsOnly y (y.deliver w v) := by
  unfold Ctx.deliver
  split
  · exact .setDst y _ _
  · exact .refl y

theorem Ctx.deliver_regs (w : Wait) (v : Option Word) (y : Ctx) :
    (y.deliver w v).regs = (match w.dst, v with
      | some d, some u => (y.setDst d u).regs
      | _, _ => y.regs) := by
  unfold Ctx.deliver
  cases w.dst <;> cases v <;> rfl

/-- Waking a context that has the dealer delivers the value and completes the instruction with its group. -/
theorem wake_eq {s : State} {t : TileNo} {c : SlotNo} {y : Ctx} (hy : s.ctx? t c = some y) (hc : (s.tile t).cur = c) (w : Wait)
    (v : Option Word) :
    wake t c w { val := v } s =
      (complete t c w.len true (y.stepping && !y.active) { val := v } (s.modCtx t c (Ctx.deliver w v))).settled := by
  have hd : onDealer t c s = .ok ((), s) := by
    refine (bind_ok _ _ _ _ _ (see_run _ s)).trans ?_
    rw [hc, beq_self_eq_true]
    rfl
  have hf : finishWait t c w { val := v } s =
      .ok ((), complete t c w.len true (y.stepping && !y.active) { val := v } (s.modCtx t c (Ctx.deliver w v))) :=
    (bind_ok _ _ _ _ _ hd).trans (bind_ok _ _ _ _ _ (getCtx_run t c s y hy))
  rw [wake, hf]

theorem State.settled_ctx (s : State) (t : TileNo) (c : SlotNo) : s.settled.ctx? t c = s.ctx? t c := rfl
theorem SlotStep.settled {t : TileNo} {c : SlotNo} {s u : State} (h : SlotStep t c s u) :
    u.settled = { s.settled with tiles := u.settled.tiles, queues := u.settled.queues } := (congrArg State.settled h.rest).trans rfl

/-- A woken context, where no level ends with its instruction. -/
theorem wake_next {s : State} {t : TileNo} {c : SlotNo} {y : Ctx} (hy : s.ctx? t c = some y) (hc : (s.tile t).cur = c)
    (hq : y.quiet = true) (hno : ∀ L, ¬ endsBody y y.pc L) (w : Wait) (v : Option Word) :
    (∃ d a, (wake t c w { val := v } s).ctx? t c = some { y.deliver w v with
      desched := d, activity := a, wait := none, answers := [], pc := y.pc + BitVec.ofNat 64 (4 * w.len), latches := [] }) ∧
    wake t c w { val := v } s =
      { s.settled with tiles := (wake t c w { val := v } s).tiles, queues := (wake t c w { val := v } s).queues } := by
  obtain ⟨-, -, hs⟩ := y.quiet_iff.mp hq
  have R := RegsOnly.deliver w v y
  have hm : (s.modCtx t c (Ctx.deliver w v)).ctx? t c = some (y.deliver w v) := by rw [State.ctx_modCtx, hy, Option.map_some]
  obtain ⟨frame, d, a, hz⟩ := complete_fall_frame hm (R.quiet.trans hq) w.len true v
  have hno' : ∀ L, ¬ endsBody (y.deliver w v) (y.deliver w v).pc L := by
    unfold endsBody
    rw [R.loops, R.pc]
    exact hno
  rw [fallen_next (x := { y.deliver w v with desched := d, activity := a }) hno'] at hz
  rw [wake_eq hy hc, hs, Bool.false_and, State.settled_ctx, ← R.pc]
  exact ⟨⟨d, a, hz⟩, ((SlotStep.modCtx t c s _).trans frame).settled⟩

/-- Settles O30: the value is delivered, then the instruction completes with its group. -/
theorem waking : Obligations.Waking := by
  intro s t c w y v hy hc hq hno
  have R := RegsOnly.deliver w v y
  obtain ⟨⟨d, a, hz⟩, rest⟩ := wake_next hy hc hq hno w v
  exact ⟨_, hz, rfl, rfl, rfl, R.core, R.preds, R.loops, y.deliver_regs w v, rest⟩

end Sys2Proof.Machine
end

section
/-!
PROOFS. The instructions on registers and predicates: what each form of operands runs to, and from that the immediate results (O8), the false
guard (O11), TRAP, BREAK, ERET and NOP (O17), stale latches (O20), and the frame of register instructions (O49).
-/
namespace Sys2Proof.Machine
open Sys2Proof

/-! ## Instructions whose effect changes its own context only -/

theorem State.upMe_reqs (s : State) (f : Ctx → Ctx) : (s.upMe f).reqs = s.reqs := State.modCtx_reqs ..
theorem State.upMe_ctx {s : State} {x : Ctx} (hr : Ready s x) (f : Ctx → Ctx) : (s.upMe f).ctx? s.cur s.mySlot = some (f x) := by
  rw [State.upMe, State.ctx_modCtx, hr.here, Option.map_some]

section
variable {s : State} {x : Ctx} {h : Hd} {a c : Src} {u v : Word}

/-- Such an instruction owes no unit, so it completes. -/
theorem dealer_upMe {eff : M Eff} {e : Eff} {f : Ctx → Ctx} (hr : Ready s x) (hg : x.pred h.guard = true)
    (he : eff s = .ok (e, s.upMe f)) (len : Nat) (ends : Bool) (dst : Option Dst) :
    dealer h eff s len ends dst = .next (finish s x len (ends || h.stop) e (s.upMe f)) := by
  have hm := State.upMe_reqs s f
  refine dealer_done _ _ _ _ _ _ _ _ _ _ hr hg he (pays_free _ _ _ ?_ ?_)
  · rw [State.meterHbm, hm]
    exact hr.hbm
  · rw [State.meterNet, hm]
    exact hr.net
/-- So does one that changes nothing. -/
theorem dealer_pure {eff : M Eff} {e : Eff} (hr : Ready s x) (hg : x.pred h.guard = true) (he : eff s = .ok (e, s)) (len : Nat)
    (ends : Bool) (dst : Option Dst) : dealer h eff s len ends dst = .next (finish s x len (ends || h.stop) e s) :=
  dealer_done _ _ _ _ _ _ _ _ _ _ hr hg he (pays_free _ _ _ hr.hbm hr.net)

/-! ## Forms of operands -/

theorem op1_run (hr : Ready s x) (ha : Reads s x a u) (d : Dst) (f : Word → Word) :
    op1 d a f s = .ok ({ val := some (f u) }, s.upMe (·.setDst d (f u))) := readA_bind hr ha _
theorem op2_run (hr : Ready s x) (ha : Reads s x a u) (hc : Reads s x c v) (d : Dst) (f : Word → Word → Word) :
    op2 d a c f s = .ok ({ val := some (f u v) }, s.upMe (·.setDst d (f u v))) := (readA_bind hr ha _).trans (readC_bind hr hc _)
theorem op3_run (hr : Ready s x) (ha : Reads s x a u) (hc : Reads s x c v) (e : Fin 48) (f : Word → Word → Word → Word) :
    op3 e a c f s = .ok ({ val := some (f (x.regs.get e) u v) }, s.upMe (·.setReg e (f (x.regs.get e) u v))) :=
  (readA_bind hr ha _).trans ((readC_bind hr hc _).trans (myCtx_bind hr _))

/-! ## Immediates (R49, R113) -/

/-- The high word over the low half of a register, as one concatenation. -/
theorem lih_value (k : BitVec 32) (w : Word) : (zx k <<< 32) ||| zx (low32 w) = k ++ w.setWidth 32 := by
  apply BitVec.eq_of_getLsbD_eq
  intro i hi
  refine Eq.trans ?_ (BitVec.getLsbD_append (x := k) (y := w.setWidth 32)).symm
  by_cases h : i < 32
  · simp [zx, low32, h, hi]
  · simp [zx, low32, h, hi]

/-- Settles O8: each immediate operation is a form of one source, each long form one of none. -/
theorem immediateResults : Obligations.ImmediateResults := by
  intro s x h d e a u i j k hr hg ha
  simp only [List.forall_mem_cons, List.not_mem_nil, false_implies, implies_true, and_true]
  have one : ∀ f, dealer h (op1 d a f) s = .next (finish s x 1 h.stop { val := some (f u) } (s.upMe (·.setDst d (f u)))) :=
    fun f => dealer_upMe hr hg (op1_run hr ha d f) 1 false none
  refine ⟨⟨one _, one _, one _, one _, one _, one _, one _, one _⟩, ⟨?_, ?_⟩, ?_, ?_⟩
  · exact dealer_upMe hr hg rfl 2 false none
  · exact dealer_upMe hr hg rfl 2 false none
  · rw [← lih_value]
    exact dealer_upMe hr hg (myCtx_bind hr _) 2 false none
  · exact dealer_upMe hr hg (myCtx_bind hr _) 2 false none

/-! ## A false guard (R40) -/

/-- Settles O11: the wrapper looks at the guard before the effect, whatever that is. -/
theorem falseGuard : Obligations.FalseGuard := by
  intro s x h d e a c m o n k sem t w sc ord i hr hg
  refine ⟨?_, ?_, ?_, ?_⟩
  · repeat' refine List.forall_mem_cons.mpr ⟨dealer_skip _ _ _ _ _ _ _ hr hg, ?_⟩
    exact List.forall_mem_nil _
  · repeat' refine List.forall_mem_cons.mpr ⟨dealer_skip _ _ _ _ _ _ _ hr hg, ?_⟩
    exact List.forall_mem_nil _
  · repeat' refine List.forall_mem_cons.mpr ⟨dealer_skip _ _ _ _ _ _ _ hr hg, ?_⟩
    exact List.forall_mem_nil _
  · intro g hg'
    repeat' refine List.forall_mem_cons.mpr ⟨dealer_skip s x ⟨g, false⟩ _ _ _ _ hr hg', ?_⟩
    exact List.forall_mem_nil _

/-! ## Traps and returns (R51, R383) -/

/-- Settles O17: each of the five is run as its definition says. -/
theorem trapsAndReturns : Obligations.TrapsAndReturns := by
  intro s x h n hr hg
  refine ⟨?_, ?_, ?_, ?_, ?_⟩
  · refine dealer_pure (e := { ctl := .dplus (if n = 62 then .firmwareCall else .trapInsn) (n.setWidth 64) }) hr hg ?_ 1 true none
    by_cases hn : n = 62
    · subst hn; rfl
    · rw [if_neg hn, if_neg hn]; rfl
  · exact dealer_pure hr hg rfl 1 true none
  · exact dealer_pure hr hg rfl 1 false none
  · intro ha
    exact dealer_upMe hr hg ((myCtx_bind hr _).trans (check_bind_ok ha _ _ _ s)) 1 true none
  · intro ha
    exact dealer_trap _ _ _ _ _ _ _ _ _ hr hg ((myCtx_bind hr _).trans (check_bind_fail ha _ _ _ s))

/-! ## Stale latches (R42, R377) -/

/-- A further operand that is a latch entry without a value ends the effect; EVAL is the a operand. -/
theorem readC_stale {k : Fin 8} (hr : Ready s x) (hk : (x.latches[k.val]?).join = none) :
    readC (.b k) u s = .error (.trap .latchStale u ⟨0, [], s.free, s.reqs⟩) := by
  refine (me_bind _ s).trans ((getCtx_bind hr _).trans ?_)
  simp only [srcVal, hk]
  rfl

/-- Settles O20: each of the forms reads a, then the latch entry. -/
theorem staleLatches : Obligations.StaleLatches := by
  intro s x h d e a u k hr hg ha hk
  have stale : ∀ f : Word → Word → M Eff,
      dealer h (readA a >>= fun av => readC (.b k) av >>= f av) s = .next (preciseTrap s x .latchStale u) :=
    fun f => dealer_trap _ _ _ _ _ _ _ _ _ hr hg ((readA_bind hr ha _).trans (bind_error _ _ _ _ (readC_stale hr hk)))
  repeat' refine List.forall_mem_cons.mpr ⟨stale _, ?_⟩
  exact List.forall_mem_nil _

end

/-! ## Frames (R40 to R42, R424) -/

/-- A step from s to t that leaves of the machine everything but the contexts' marks and queues, and of the dealer's context, which was x and
is y, everything but registers, predicates, loop counts and what completing writes. -/
def Framed (s : State) (x : Ctx) (t : State) (y : Ctx) : Prop :=
  t.ctx? s.cur s.mySlot = some y ∧ y.core = x.core ∧ SameBounds x y ∧ t.mem = s.mem ∧
  (∀ n : TileNo, { t.tile n with slots := (s.tile n).slots } = s.tile n) ∧
  (∀ (n : TileNo) (b : SlotNo) (z : Ctx), (n, b) ≠ (s.cur, s.mySlot) → s.ctx? n b = some z →
    ∃ z' : Ctx, t.ctx? n b = some z' ∧ { z' with desched := z.desched } = z) ∧
  t = { s with tiles := t.tiles, queues := t.queues }

/-- From y to z predicates only have changed. -/
def PredsOnly (y z : Ctx) : Prop := z = { y with preds := z.preds }

section
variable {s : State} {x : Ctx} (hr : Ready s x) (hq : x.quiet = true)
include hr hq

/-- An instruction that changes its context to z, of the same core, quiet and with the same loops, and completes without a transfer. -/
theorem finish_framed {f : Ctx → Ctx} (hc : (f x).core = x.core) (hz : (f x).quiet = true) (hl : (f x).loops = x.loops) (len : Nat)
    (ends : Bool) (v : Option Word) :
    ∃ y, Framed s x (finish s x len ends { val := v } (s.upMe f)) y ∧ y.preds = (f x).preds ∧ y.regs = (f x).regs := by
  obtain ⟨-, -, hs⟩ := x.quiet_iff.mp hq
  obtain ⟨frame, d, a, hy⟩ := complete_fall_frame (State.upMe_ctx hr f) hz len ends v
  have S := (SlotStep.modCtx s.cur s.mySlot s f).trans frame
  rw [finish, hs, Bool.false_and]
  refine ⟨_, ⟨hy, (fallen_core ..).trans hc, ?_, ?_, S.tiles, S.others, S.rest⟩, fallen_preds .., fallen_regs ..⟩
  · have B := fallen_bounds len ends v { f x with desched := d, activity := a }
    unfold SameBounds at B ⊢
    rw [← hl]
    exact B
  · exact (congrArg State.mem S.rest).trans rfl

/-- An instruction that writes w to d. -/
theorem framed_of_setDst {i : Instr} {d : Dst} {w : Word} {len : Nat} {ends : Bool}
    (hi : exec i s = .next (finish s x len ends { val := some w } (s.upMe (·.setDst d w)))) :
    ∃ t y, exec i s = .next t ∧ Framed s x t y ∧ y.preds = x.preds ∧ ∀ n : Fin 48, d ≠ some n → y.regs.get n = x.regs.get n := by
  have R := RegsOnly.setDst x d w
  obtain ⟨y, F, hp, hg⟩ := finish_framed hr hq (f := (·.setDst d w)) R.core (R.quiet.trans hq) R.loops len ends (some w)
  refine ⟨_, y, hi, F, hp.trans R.preds, fun n hn => ?_⟩
  rw [hg]
  cases d with
  | none => rfl
  | some g => exact Ctx.setReg_get_ne x g n w fun e => hn (congrArg some e)

/-- An instruction that writes predicates. -/
theorem framed_of_preds {i : Instr} {f : Ctx → Ctx} {len : Nat} {ends : Bool} (hf : PredsOnly x (f x))
    (hi : exec i s = .next (finish s x len ends {} (s.upMe f))) :
    ∃ t y, exec i s = .next t ∧ Framed s x t y ∧ y.regs = x.regs := by
  obtain ⟨y, F, -, hg⟩ := finish_framed hr hq (f := f) ((congrArg Ctx.core hf).trans rfl)
    ((congrArg Ctx.quiet hf).trans hq) (by rw [hf]) len ends none
  exact ⟨_, y, hi, F, hg.trans (by rw [hf])⟩

end

theorem PredsOnly.refl (x : Ctx) : PredsOnly x x := rfl
theorem PredsOnly.trans {x y z : Ctx} (h : PredsOnly x y) (k : PredsOnly y z) : PredsOnly x z :=
  Eq.trans k (congrArg (fun w : Ctx => { w with preds := z.preds }) h)
theorem PredsOnly.setPred (x : Ctx) (p : Fin 8) (v : Bool) : PredsOnly x (x.setPred p v) := by
  unfold Ctx.setPred
  split <;> rfl
theorem PredsOnly.setPreds (x : Ctx) (p q : Fin 8) (v w : Bool) : PredsOnly x (setPreds x p q v w) :=
  (PredsOnly.setPred x p v).trans (.setPred _ q w)
theorem PredsOnly.cmpWrite (ct : CmpMode) (p q : Fin 8) (c : Bool) (x : Ctx) : PredsOnly x (cmpWrite ct p q c x) := by
  unfold Machine.cmpWrite
  cases ct with
  | plain | z | all | any | xor | mix => exact .setPreds ..
  | hit => cases c <;> exact .setPred ..
theorem PredsOnly.cmpFalse (ct : CmpMode) (p q : Fin 8) (x : Ctx) : PredsOnly x (cmpFalse ct p q x) := by
  unfold Machine.cmpFalse
  cases ct with
  | z => exact .setPreds ..
  | plain | all | any | xor | hit | mix => exact .refl x
/-- A fold of writes to predicates. -/
theorem PredsOnly.foldl {α : Type} {f : Ctx → α → Ctx} (hf : ∀ y i, PredsOnly y (f y i)) (l : List α) (x : Ctx) :
    PredsOnly x (l.foldl f x) := by
  induction l generalizing x with
  | nil => exact .refl x
  | cons i l ih => exact (hf x i).trans (ih _)

/-- A compare whose operands can be read writes predicates only, under any guard and in any mode (R114). -/
theorem compare_run {s : State} {x : Ctx} {operands : M (Word × Word)} {a b : Word} (hr : Ready s x) (ho : operands s = .ok ((a, b), s))
    (g : Fin 8) (ct : CmpMode) (p q : Fin 8) (k : Cond) :
    ∃ f, PredsOnly x (f x) ∧ compare g ct p q k operands s = .next (finish s x 1 false {} (s.upMe f)) := by
  have hg : x.pred 0 = true := rfl
  by_cases hp : x.pred g = true
  · refine ⟨cmpWrite ct p q (condHolds k a b), .cmpWrite .., dealer_upMe (h := ⟨0, false⟩) hr hg ((myCtx_bind hr _).trans ?_) 1 false none⟩
    rw [if_pos hp]
    exact bind_ok _ _ _ _ _ ho
  · refine ⟨cmpFalse ct p q, .cmpFalse .., dealer_upMe (h := ⟨0, false⟩) hr hg ((myCtx_bind hr _).trans ?_) 1 false none⟩
    rw [if_neg hp]
    rfl

/-- Settles O49: each instruction writes its destination, or predicates, and completes without a transfer. -/
theorem registerFrames : Obligations.RegisterFrames := by
  intro s x h d e a c u v i j k g p q r ct hr hq hg ha hc
  have one : ∀ f, dealer h (op1 d a f) s = .next (finish s x 1 h.stop { val := some (f u) } (s.upMe (·.setDst d (f u)))) :=
    fun f => dealer_upMe hr hg (op1_run hr ha d f) 1 false none
  have two : ∀ f, dealer h (op2 d a c f) s = .next (finish s x 1 h.stop { val := some (f u v) } (s.upMe (·.setDst d (f u v)))) :=
    fun f => dealer_upMe hr hg (op2_run hr ha hc d f) 1 false none
  have three : ∀ f, dealer h (op3 e a c f) s =
      .next (finish s x 1 h.stop { val := some (f (x.regs.get e) u v) } (s.upMe (·.setDst (some e) (f (x.regs.get e) u v)))) :=
    fun f => dealer_upMe hr hg (op3_run hr ha hc e f) 1 false none
  have regs : cmpRegs a c s = .ok ((u, v), s) := (readA_bind hr ha _).trans (readC_bind hr hc _)
  have imm : ∀ w, cmpImm a w s = .ok ((u, w), s) := fun w => readA_bind hr ha _
  refine ⟨?_, ?_⟩
  · iterate 30 refine List.forall_mem_cons.mpr ⟨framed_of_setDst hr hq (two _), ?_⟩
    iterate 5 refine List.forall_mem_cons.mpr ⟨framed_of_setDst hr hq (one _), ?_⟩
    iterate 9 refine List.forall_mem_cons.mpr ⟨framed_of_setDst hr hq (two _), ?_⟩
    iterate 8 refine List.forall_mem_cons.mpr ⟨framed_of_setDst hr hq (one _), ?_⟩
    refine List.forall_mem_cons.mpr ⟨framed_of_setDst hr hq (dealer_upMe hr hg rfl 2 false none), ?_⟩
    refine List.forall_mem_cons.mpr ⟨framed_of_setDst hr hq (dealer_upMe hr hg rfl 2 false none), ?_⟩
    refine List.forall_mem_cons.mpr ⟨framed_of_setDst hr hq (dealer_upMe hr hg (myCtx_bind hr _) 1 false none), ?_⟩
    iterate 3 refine List.forall_mem_cons.mpr ⟨framed_of_setDst hr hq (three _), ?_⟩
    refine List.forall_mem_cons.mpr ⟨framed_of_setDst hr hq (dealer_upMe hr hg (myCtx_bind hr _) 2 false none), ?_⟩
    refine List.forall_mem_cons.mpr ⟨framed_of_setDst hr hq (dealer_upMe hr hg (myCtx_bind hr _) 2 false none), ?_⟩
    exact List.forall_mem_nil _
  · have cmp : ∀ {i : Instr} {k : Cond} {o : M (Word × Word)} {w : Word × Word}, o s = .ok (w, s) → (exec i s = compare g ct p q k o s) →
        ∃ t y, exec i s = .next t ∧ Framed s x t y ∧ y.regs = x.regs := by
      intro i k o w ho hi
      obtain ⟨f, hf, e⟩ := compare_run hr ho g ct p q k
      exact framed_of_preds hr hq hf (hi.trans e)
    iterate 8 refine List.forall_mem_cons.mpr ⟨cmp regs rfl, ?_⟩
    iterate 8 refine List.forall_mem_cons.mpr ⟨cmp (imm _) rfl, ?_⟩
    iterate 5 refine List.forall_mem_cons.mpr ⟨framed_of_preds hr hq (.setPred ..) (dealer_upMe hr hg rfl 1 false none), ?_⟩
    refine List.forall_mem_cons.mpr ⟨framed_of_preds hr hq ?_
      (dealer_upMe hr hg ((readA_bind hr ha _).trans (readC_bind hr hc _)) 1 false none), List.forall_mem_nil _⟩
    exact .foldl (fun y i => by split; exacts [.setPred .., .refl y]) _ x

end Sys2Proof.Machine
end

section
/-!
PROOFS. The plain fetch (O4) fails where a scrubbed instruction cache marks the word: whether the cached copy is still there is a free choice,
and drawing it moves the counter of free values.
-/
namespace Sys2Proof.Machine
open Sys2Proof

/-! ## The counter of free values -/

/-- The effect leaves the counter of free values where it is or moves it on. -/
def Draws {α : Type} (m : M α) : Prop := ∀ s a t, m s = .ok (a, t) → s.free ≤ t.free

theorem Draws.pure {α : Type} (a : α) : Draws (pure a : M α) := by
  rintro s _ _ ⟨⟩
  exact Nat.le_refl _
theorem Draws.see {α : Type} (f : State → α) : Draws (see f) := by
  rintro s _ _ ⟨⟩
  exact Nat.le_refl _
theorem Draws.bind {α β : Type} {m : M α} {f : α → M β} (hm : Draws m) (hf : ∀ a, Draws (f a)) : Draws (m >>= f) := by
  intro s b u h
  obtain ⟨a, t, h1, h2⟩ := (bind_ok_iff m f s u b).mp h
  exact (hm s a t h1).trans (hf a t b u h2)
theorem Draws.ite {α : Type} {p : Prop} [Decidable p] {m n : M α} (hm : Draws m) (hn : Draws n) : Draws (if p then m else n) := by
  split
  · exact hm
  · exact hn
theorem Draws.modTile (t : TileNo) (f : Tile → Tile) : Draws (modTile t f) := by
  rintro s _ _ ⟨⟩
  exact Nat.le_refl _
theorem Draws.drawNat : Draws drawNat := by
  rintro s _ _ ⟨⟩
  exact Nat.le_succ _
theorem Draws.fail {α : Type} (c : Cause) : Draws (fetchFault c : M α) := fun _ _ _ h => by cases h

theorem Draws.drawBit : Draws drawBit := by
  rintro s _ _ ⟨⟩
  exact Nat.le_succ _
theorem Draws.upd {f : State → State} (hf : ∀ s, (f s).free = s.free) : Draws (upd f) := by
  rintro s _ _ ⟨⟩
  exact (hf s).ge

/-- An optional first part. -/
theorem Draws.first {α : Type} {p : Prop} [Decidable p] {m : M Unit} {k : Unit → M α} (hm : Draws m) (hk : ∀ u, Draws (k u)) :
    Draws (if p then m >>= k else k ()) := .ite (.bind hm hk) (hk ())

/-! ## Fetching (R107, R109) -/

/-- The fetch of a word once it is known whether the mark of the cache makes it unreadable. -/
def fetchHeld (t : TileNo) (x : Ctx) (pa : Nat) (marked lost : Bool) : M (Nat × Nat) := do
  if marked && !lost then modTile t fun x => { x with ibad := x.ibad.filter (· != pa / 8 * 8) } else pure ()
  let bad ← see fun s => if lost then 4 else badBytes s pa 4
  if lost && !x.strict then return (0, 4)
  else if bad != 0 && x.strict then fetchFault .eccStrict
  else do
    let now ← see fun s => readNat s pa 4
    let old ← see fun s => s.hist.filter fun h => h.1 == pa && decide (icacheFrom s t pa ≤ h.2.2)
    if old.isEmpty then return (now, bad)
    else do
      let k ← drawNat
      let pick := old[k % (old.length + 1)]?
      let at' ← see (·.wstamp)
      modTile t fun x => { x with icache := ((pa, (pick.map (·.2.2)).getD at') :: x.icache.filter (·.1 != pa)).take 16384 }
      return ((pick.map (·.2.1.toNat)).getD now, bad)
theorem fetchWord_eq (t : TileNo) (x : Ctx) (pa : Nat) :
    fetchWord t x pa = (see fun s => (s.tile t).ibad.contains (pa / 8 * 8)) >>= fun marked =>
      if marked then drawBit >>= fetchHeld t x pa marked else fetchHeld t x pa marked false := rfl

theorem Draws.fetchHeld (t : TileNo) (x : Ctx) (pa : Nat) (marked lost : Bool) : Draws (fetchHeld t x pa marked lost) := by
  refine .first (.modTile _ _) fun _ => .bind (.see _) fun bad => ?_
  refine .ite (.pure _) (.ite (.fail _) (.bind (.see _) fun now => .bind (.see _) fun old => ?_))
  exact .ite (.pure _) (.bind .drawNat fun k => .bind (.see _) fun at' => .bind (.modTile _ _) fun _ => .pure _)
theorem Draws.fetchWord (t : TileNo) (x : Ctx) (pa : Nat) : Draws (fetchWord t x pa) := by
  rw [fetchWord_eq]
  exact .bind (.see _) fun _ => .ite (.bind .drawBit fun _ => .fetchHeld _ _ _ _ _) (.fetchHeld _ _ _ _ _)
theorem Draws.countFetch (t : TileNo) (c : SlotNo) (x : Ctx) (bad : Nat) : Draws (countFetch t c x bad) := by
  unfold Machine.countFetch
  exact .ite (.pure _) (.bind (.upd fun _ => State.modCtx_free _ _ _ _) fun _ => .upd fun _ => State.addErr_free _ _)

/-- The fetch of a word that the instruction cache marks draws whether the cached copy is still there (R109, R381, log 7). -/
theorem fetchWord_marked {s s' : State} {t : TileNo} {x : Ctx} {pa : Nat} {r : Nat × Nat}
    (hm : (s.tile t).ibad.contains (pa / 8 * 8) = true) (h : fetchWord t x pa s = .ok (r, s')) : s.free < s'.free := by
  have hd : drawBit s = .ok (Config.freeBit s.free, { s with free := s.free + 1 }) := rfl
  rw [fetchWord_eq, bind_ok _ _ _ _ _ (see_run _ s), hm, if_pos rfl, bind_ok _ _ _ _ _ hd] at h
  exact Nat.lt_of_succ_le (Draws.fetchHeld _ _ _ _ _ _ _ _ h)

/-- What a fetch does with the words it has read (R52). -/
def fetched (t : TileNo) (c : SlotNo) (x : Ctx) (w b1 : Nat) (second : Nat × Nat) : M Instr := do
  let (w2, b2) := second
  let bad (e : Cause) : M Instr := do
    let r ← see fun s => causeRec s t x .eccStrict x.pc (BitVec.ofNat 64 (b1 + b2))
    trapDrop e (BitVec.ofNat 64 w) (b1 + b2) (if b1 + b2 = 0 then [] else [r])
  match decode w w2 (x.pc.toNat % 8 == 0) with
  | .error e => bad e
  | .ok i =>
    if x.latches.length < 16 then do
      countFetch t c x (b1 + b2)
      return i
    else bad .illegalOp
theorem fetchInstr_eq {s : State} {t : TileNo} {c : SlotNo} {x : Ctx} {pa : Nat} (ha : x.pc.toNat % 4 = 0)
    (hp : fetchPlace t x x.pc s = .ok (pa, s)) (hf : meterFetch t pa s = .ok ((), s)) :
    fetchInstr t c x s = (fetchWord t x pa >>= fun w =>
      if isLong w.1 && x.pc.toNat % 8 == 0 then fetchWord t x (pa + 4) >>= fetched t c x w.1 w.2
      else fetched t c x w.1 w.2 (0, 0)) s := by
  unfold fetchInstr
  rw [ha]
  exact (bind_ok _ _ _ _ _ hp).trans (bind_ok _ _ _ _ _ hf)
theorem Draws.fetched (t : TileNo) (c : SlotNo) (x : Ctx) (w b1 : Nat) (p : Nat × Nat) : Draws (fetched t c x w b1 p) := by
  obtain ⟨w2, b2⟩ := p
  have fail : ∀ (f : State → ErrRec) (e : Cause) (l : ErrRec → List ErrRec),
      Draws (Machine.see f >>= fun r => trapDrop e (BitVec.ofNat 64 w) (b1 + b2) (l r) : M Instr) :=
    fun f e l => .bind (.see f) fun _ _ _ _ h => by cases h
  unfold Machine.fetched
  dsimp only
  cases decode w w2 (x.pc.toNat % 8 == 0) with
  | error e => exact fail _ e _
  | ok i => exact .ite (.bind (.countFetch _ _ _ _) fun _ => .pure i) (fail _ _ _)

/-- So a fetch that begins with such a word moves the counter on. -/
theorem fetchInstr_marked {s s' : State} {t : TileNo} {c : SlotNo} {x : Ctx} {pa : Nat} {i : Instr} (ha : x.pc.toNat % 4 = 0)
    (hp : fetchPlace t x x.pc s = .ok (pa, s)) (hf : meterFetch t pa s = .ok ((), s))
    (hm : (s.tile t).ibad.contains (pa / 8 * 8) = true) (h : fetchInstr t c x s = .ok (i, s')) : s.free < s'.free := by
  rw [fetchInstr_eq ha hp hf] at h
  obtain ⟨w, s1, h1, h2⟩ := (bind_ok_iff _ _ _ _ _).mp h
  have rest := Draws.ite (.bind (.fetchWord _ _ _) fun _ => .fetched _ _ _ _ _ _) (.fetched _ _ _ _ _ _) _ _ _ h2
  exact (fetchWord_marked hm h1).trans_le rest

/-- A state whose next word is a NOP, which the scrubber has marked in the instruction cache of the tile. -/
def scrubbed : State :=
  let s := State.reset.withFetchWord 32 0x70000000
  s.setTile 0 { s.tile 0 with ibad := [clPoolAt 0 0] }

/-- Refutes O4: in the plain case of its second part nothing says that the cache's copy of the word is unmarked, and the fetch of a marked word
draws a free value, so it does not leave the state as it was. -/
theorem not_stepRunsDecoded : ¬ Obligations.StepRunsDecoded := by
  intro h
  have e := h.2 scrubbed 0 0 placedCtx (.nop ⟨0, false⟩) 0x70000000 0 rfl (by decide) (by decide) (by decide) (by decide)
    (fun p hp => by cases hp) (by decide) (by decide) rfl (by decide)
  exact Nat.lt_irrefl _ (fetchInstr_marked (pa := clPoolAt 0 0) (by decide) rfl rfl (by decide) e)

end Sys2Proof.Machine
end

section
/-!
PROOFS. LINK (O48): its faults of kind L, the commitment, and the image of a NOP, which passes every step of R176.
-/
namespace Sys2Proof.Machine
open Sys2Proof

/-! ## Faults of kind L (R374) -/

/-- A dealer instruction whose effect raises a cause of kind L with nothing done. -/
theorem dealer_ltrap {s : State} {x : Ctx} {h : Hd} {eff : M Eff} {c : Cause} {v : Word} (hr : Ready s x) (hg : x.pred h.guard = true)
    (he : eff s = .error (.ltrap c v ⟨0, [], s.free, s.reqs⟩)) (len : Nat) (ends : Bool) (dst : Option Dst) :
    dealer h eff s len ends dst =
      .next (enterTrap s.cur s.mySlot .l c x.pc v [] (applySide s.cur s.mySlot ⟨0, [], s.free, s.reqs⟩ s)) := by
  have h1 : s.ctx? s.cur (s.tile s.cur).cur = some x := hr.here
  have hreqs : (applySide s.cur (s.tile s.cur).cur ⟨0, [], s.free, s.reqs⟩ s).reqs = s.reqs := applySide_reqs ..
  have h3 : (applySide s.cur (s.tile s.cur).cur ⟨0, [], s.free, s.reqs⟩ s).meterHbm = 0 := by
    rw [State.meterHbm, hreqs]; exact hr.hbm
  have h4 : (applySide s.cur (s.tile s.cur).cur ⟨0, [], s.free, s.reqs⟩ s).meterNet = 0 := by
    rw [State.meterNet, hreqs]; exact hr.net
  simp only [dealer, h1, hr.runs, hg, if_true, runEff, he, paidOr_zero _ _ _ _ _ _ _ _ _ _ h3 h4]
  rfl

/-! ## LINK around its checks (R178) -/

/-- The LINK in hand of the acting dealer. -/
abbrev State.linking (s : State) (x : Ctx) (ch : Fin 4) (u : Word) : Linking := { t := s.cur, c := s.mySlot, x := x, ch := ch, ga := u }

section
variable {s s1 s2 : State} {x : Ctx} {h : Hd} {ch : Fin 4} {a : Src} {u : Word}

/-- LINK completes where its checks and its commitment do. -/
theorem exec_link_done (hr : Ready s x) (hg : x.pred h.guard = true) (ha : Reads s x a u) (hk : linkAt (s.linking x ch u) s = .ok ((), s1))
    (hp : Pays s x s1 s2) : exec (.link h ch a) s = .next (finish s x 1 true {} s2) :=
  dealer_done _ _ _ _ _ _ _ _ _ _ hr hg
    ((readA_bind hr ha _).trans <| (me_bind _ s).trans <| (getCtx_bind hr _).trans <| bind_ok _ _ _ _ _ hk) hp
/-- LINK takes the cause at which its checks end. -/
theorem exec_link_fails {c : Cause} (hr : Ready s x) (hg : x.pred h.guard = true) (ha : Reads s x a u)
    (hk : linkAt (s.linking x ch u) s = .error (.ltrap c u ⟨0, [], s.free, s.reqs⟩)) :
    exec (.link h ch a) s = .next (enterTrap s.cur s.mySlot .l c x.pc u [] (applySide s.cur s.mySlot ⟨0, [], s.free, s.reqs⟩ s)) :=
  dealer_ltrap hr hg
    ((readA_bind hr ha _).trans <| (me_bind _ s).trans <| (getCtx_bind hr _).trans <| bind_error _ _ _ _ hk) 1 true none

end

/-! ## Checks of LINK -/

namespace Linking

/-- A check that holds leaves the rest of LINK. -/
theorem check_bind_ok {α : Type} {ok : Bool} (h : ok = true) (k : Linking) (c : Cause) (f : Unit → M α) (s : State) :
    (k.check ok c >>= f) s = f () s := by
  subst h
  rfl
/-- A check that fails ends LINK with its cause; nothing was dropped before it. -/
theorem check_bind_fail {α : Type} {ok : Bool} (h : ok = false) {k : Linking} (hk : k.drops = 0) (c : Cause) (f : Unit → M α) (s : State) :
    (k.check ok c >>= f) s = .error (.ltrap c k.ga ⟨0, [], s.free, s.reqs⟩) := by
  obtain ⟨t, sl, x, ch, ga, drops⟩ := k
  cases hk
  subst h
  rfl

section
variable {k : Linking} {s : State}

/-- Step 1 of R176 at an address of chain memory. -/
theorem addr_run (h1 : spaceOf k.ga = 0 ∨ spaceOf k.ga = 8) (h2 : offOf k.ga < 16777216) (h3 : offOf k.ga % 64 = 0) :
    k.addr s = .ok (offOf k.ga, s) := by
  refine (check_bind_ok ?_ k _ _ s).trans ((check_bind_ok ?_ k _ _ s).trans rfl)
  · simpa [h2] using h1
  · simp [h3]
/-- Step 1 of R176 at an address of another space. -/
theorem addr_space (hk : k.drops = 0) (h1 : spaceOf k.ga ≠ 0) (h2 : spaceOf k.ga ≠ 8) :
    k.addr s = .error (.ltrap .addressSpace k.ga ⟨0, [], s.free, s.reqs⟩) :=
  check_bind_fail (by simp [h1, h2]) hk _ _ s
/-- Step 1 of R176 at a misaligned address. -/
theorem addr_misaligned (hk : k.drops = 0) (h1 : spaceOf k.ga = 0 ∨ spaceOf k.ga = 8) (h2 : offOf k.ga < 16777216)
    (h3 : offOf k.ga % 64 ≠ 0) : k.addr s = .error (.ltrap .misalignedData k.ga ⟨0, [], s.free, s.reqs⟩) := by
  refine (check_bind_ok ?_ k _ _ s).trans (check_bind_fail ?_ hk _ _ s)
  · simpa [h2] using h1
  · simp [h3]

end
end Linking

/-! ## The image (R176 step 1) -/

/-- What collecting the releases of a read changes: the releases that the context has seen (R347). -/
structure ReadNoted (t : TileNo) (c : SlotNo) (x : Ctx) (s s' : State) : Prop where
  ctx    : ∃ seen, s'.ctx? t c = some { x with seen }
  mem    : s'.mem = s.mem
  poison : s'.poison = s.poison
  free   : s'.free = s.free
  reqs   : s'.reqs = s.reqs

/-- A context that has seen some releases, each kept once. -/
def seeing (ps : List Pub) (x : Ctx) : Ctx := { x with seen := ps ++ x.seen.filter fun p => !ps.contains p }

theorem noteRead_run {s : State} {t : TileNo} {c : SlotNo} {x : Ctx} (hx : s.ctx? t c = some x) (k n : Nat) :
    ∃ s', noteRead t c k n s = .ok ((), s') ∧ ReadNoted t c x s s' := by
  by_cases he : ((pubsOver s k n).filter (·.fence)).isEmpty = true
  · refine ⟨s, ?_, ⟨⟨x.seen, hx⟩, rfl, rfl, rfl, rfl⟩⟩
    simp only [noteRead, noteFences, bind, StateT.bind, Except.bind, see_run, he, if_true, pure_run]
  · refine ⟨s.modCtx t c (seeing ((pubsOver s k n).filter (·.fence))), ?_,
      ⟨⟨(seeing ((pubsOver s k n).filter (·.fence)) x).seen, ?_⟩, State.modCtx_mem .., State.modCtx_poison .., State.modCtx_free ..,
        State.modCtx_reqs ..⟩⟩
    · simp only [noteRead, noteFences, bind, StateT.bind, Except.bind, see_run, he]
      exact modCtx_run ..
    · rw [State.ctx_modCtx, hx]
      rfl

/-- What memory reads as depends on its bytes and on its bad code words alone. -/
theorem readNat_congr {s s' : State} (hm : s'.mem = s.mem) (hp : s'.poison = s.poison) (k n : Nat) : readNat s' k n = readNat s k n := by
  suffices h : ∀ k, readBytes s' k n = readBytes s k n by rw [readNat, readNat, h]
  induction n with
  | zero => exact fun _ => rfl
  | succ n ih => intro k; simp only [readBytes, hm, hp, ih]
theorem badBytes_congr {s s' : State} (hp : s'.poison = s.poison) (k n : Nat) : badBytes s' k n = badBytes s k n := by
  induction n generalizing k with
  | zero => rfl
  | succ n ih => simp only [badBytes, hp, ih]
/-- Bytes that read as zero begin with bytes that do. -/
theorem readNat_zero_of_le {s : State} {k m n : Nat} (h : readNat s k n = 0) (hmn : m ≤ n) : readNat s k m = 0 := by
  induction m generalizing k n with
  | zero => rfl
  | succ m ih =>
    obtain _ | n := n
    · omega
    simp only [readNat, readBytes, leNat] at h ih ⊢
    have hrest := ih (k := k + 1) (n := n) (by omega) (by omega)
    omega

/-- An image of 64 readable zero bytes of chain memory. -/
theorem Linking.image_zero {k : Linking} {s : State} {o : Nat} (hx : s.ctx? k.t k.c = some k.x) (h1 : k.inChain s o 64 = true)
    (h2 : badBytes s (spAt k.t o) 64 = 0) (h3 : readNat s (spAt k.t o) 64 = 0) :
    ∃ s', k.image o s = .ok ((0, 0), s') ∧ ReadNoted k.t k.c k.x s s' := by
  obtain ⟨s', hn, hs⟩ := noteRead_run hx (spAt k.t o) 64
  have hlong : (bits (readNat s (spAt k.t o) 4) 4 1 == 1) = false := by
    rw [readNat_zero_of_le h3 (by decide)]
    rfl
  have hbad : badBytes s' (spAt k.t o) 64 = 0 := (badBytes_congr hs.poison _ _).trans h2
  have hval : readNat s' (spAt k.t o) 64 = 0 := (readNat_congr hs.mem hs.poison _ _).trans h3
  refine ⟨s', ?_, hs⟩
  refine (bind_ok _ _ _ _ _ (see_run _ s)).trans <| (check_bind_ok h1 k _ _ s).trans <| (bind_ok _ _ _ _ _ (see_run _ s)).trans ?_
  simp only [hlong, Bool.false_eq_true, if_false]
  refine (bind_ok _ _ _ _ _ (see_run _ s)).trans <| (check_bind_ok h1 k _ _ s).trans <| (bind_ok _ _ _ _ _ hn).trans <|
    (bind_ok _ _ _ _ _ (see_run _ s')).trans ?_
  rw [hbad]
  refine (check_bind_ok rfl k _ _ s').trans <| (bind_ok _ _ _ _ _ (see_run _ s')).trans ?_
  rw [hval]
  rfl

/-! ## The commitment (R177) -/

namespace Linking

/-- The sequence numbers of the chains after the commitment (R171). -/
def nextSeq (k : Linking) (ch : ChainNo) : Nat := if ch = k.ch then ((k.x.chain k.ch).seq + 1) % 4294967296 else (k.x.chain ch).seq

/-- The entry that a commitment appends. -/
def entry (k : Linking) (b : Blk) (cap : Cap) (env : Env) (ps : List Page) (s : State) : Entry :=
  { seq := (k.x.chain k.ch).seq, slots := env.slots, tiles := env.tiles, linkId := s.links
    pins := ps.map fun p => (dieNo k.t, p.leaf.base, p.leaf.size)
    linked := b, cur := b
    cap := { cap with
      wins := winsOf s env.spans
      leaves := ps.map fun p => ⟨p.leaf.base, p.leaf.size, p.leaf.pa, p.leaf.chk⟩
      target := match b.body with
        | .patch q => some (q.tchain, (k.nextSeq q.tchain + q.trel - 1) % 4294967296)
        | .nop | .endB | .load _ | .store _ | .matrix _ | .vector _ | .rendezvous | .resolve _ _ => none }
    sp := ownPad k.t env, spans := env.spans }

/-- The chain with the block behind its others. -/
def append (k : Linking) (e : Entry) (q : Chain) : Chain := { q with seq := k.nextSeq k.ch, queue := q.queue ++ [e] }

/-- The context after the commitment. -/
def committed (k : Linking) (b : Blk) (e : Entry) (y : Ctx) : Ctx :=
  takeTickets b (promiseBytes b (promise k.ch (k.x.chain k.ch).seq b (y.modChain k.ch (k.append e))))

/-- The machine with one more LINK and the pins of a die. -/
def pinned (k : Linking) (pins : List Pin) (s : State) : State :=
  { s with links := s.links + 1, dies := s.dies.set (dieNo k.t) { s.dies.get (dieNo k.t) with pins } }

theorem commit_run (k : Linking) (b : Blk) (cap : Cap) (env : Env) (ps : List Page) (pins : List Pin) (s : State) :
    k.commit b cap env ps pins s = .ok ((), (k.pinned pins s).modCtx k.t k.c (k.committed b (k.entry b cap env ps s))) := by
  unfold commit committed append nextSeq entry
  cases b.body <;> rfl

end Linking

/-- The chains, the general registers and the predicates of two contexts agree. -/
structure ChainsKept (x y : Ctx) : Prop where
  chains : y.chains = x.chains
  regs   : y.regs = x.regs
  preds  : y.preds = x.preds

namespace ChainsKept

theorem refl (x : Ctx) : ChainsKept x x := ⟨rfl, rfl, rfl⟩
theorem trans {x y z : Ctx} (h : ChainsKept x y) (h' : ChainsKept y z) : ChainsKept x z :=
  ⟨h'.chains.trans h.chains, h'.regs.trans h.regs, h'.preds.trans h.preds⟩
theorem foldl {α : Type} {f : Ctx → α → Ctx} (hf : ∀ y a, ChainsKept y (f y a)) (l : List α) (x : Ctx) : ChainsKept x (l.foldl f x) := by
  induction l generalizing x with
  | nil => exact .refl x
  | cons a l ih => exact (hf x a).trans (ih _)
theorem modSem (x : Ctx) (n : SemNo) (f : Sem → Sem) : ChainsKept x (x.modSem n f) := ⟨rfl, rfl, rfl⟩

theorem promise (ch : ChainNo) (seq : Nat) (b : Blk) (x : Ctx) : ChainsKept x (promise ch seq b x) := by
  refine (foldl (fun y w => modSem y w.sem _) b.waits x).trans (foldl (fun y p => ?_) b.posts _)
  split
  · exact .refl y
  · exact modSem y _ _
theorem promiseBytes (b : Blk) (x : Ctx) : ChainsKept x (promiseBytes b x) := by
  unfold Machine.promiseBytes
  split
  case h_1 | h_2 =>
    dsimp only
    split
    · exact modSem x _ _
    · exact .refl x
  all_goals exact .refl x
theorem takeTickets (b : Blk) (x : Ctx) : ChainsKept x (takeTickets b x) := by
  unfold Machine.takeTickets
  refine foldl ?_ _ _
  exact fun _ _ => ⟨rfl, rfl, rfl⟩

/-- Besides the chain of the block, a commitment keeps chains, registers and predicates. -/
theorem committed (k : Linking) (b : Blk) (e : Entry) (y : Ctx) : ChainsKept (y.modChain k.ch (k.append e)) (k.committed b e y) :=
  (promise _ _ b _).trans ((promiseBytes b _).trans (takeTickets b _))

end ChainsKept

namespace Linking

/-- The chain of the block after a commitment. -/
theorem committed_same (k : Linking) (b : Blk) (e : Entry) (y : Ctx) :
    (k.committed b e y).chains.get k.ch = k.append e (y.chains.get k.ch) := by
  rw [(ChainsKept.committed k b e y).chains]
  exact vec_get_set _ k.ch _ k.ch.isLt
/-- The other chains after a commitment. -/
theorem committed_other (k : Linking) (b : Blk) (e : Entry) (y : Ctx) {j : ChainNo} (hj : j ≠ k.ch) :
    (k.committed b e y).chains.get j = y.chains.get j := by
  rw [(ChainsKept.committed k b e y).chains]
  exact vec_get_set_ne _ k.ch j _ k.ch.isLt hj.symm
theorem nextSeq_same (k : Linking) : k.nextSeq k.ch = ((k.x.chain k.ch).seq + 1) % 4294967296 := if_pos rfl

/-- The context in the slot after a commitment. -/
theorem commit_ctx {k : Linking} {s : State} {y : Ctx} (hy : s.ctx? k.t k.c = some y) (b : Blk) (e : Entry) (pins : List Pin) :
    ((k.pinned pins s).modCtx k.t k.c (k.committed b e)).ctx? k.t k.c = some (k.committed b e y) := by
  have hy' : (k.pinned pins s).ctx? k.t k.c = some y := hy
  rw [State.ctx_modCtx, hy', Option.map_some]

end Linking

/-! ## The block of the zero image -/

/-- A NOP without tokens. -/
def nopBlk : Blk :=
  { hdr := { kind := .nop, psel := 0, csel := 0, patchok := false, w0 := none, w1 := none, p0 := none, p1 := none }, body := .nop }

theorem formCause_zero (x : Ctx) (ch : ChainNo) : formCause x ch 0 = .ok nopBlk := by
  have hrest : zeroRange 0 16 48 = true := by rw [zeroRange, bf, bits, Nat.zero_div, Nat.zero_mod]; rfl
  have hparse : parseBlk opAssigned ch 0 = formed (zeroRange 0 16 48) >>= fun _ => .ok nopBlk := rfl
  rw [formCause, hparse, hrest]
  rfl

namespace Linking

section
variable {k : Linking} {s : State}

theorem pages_nop (t : TileNo) (x : Ctx) : envPages t x [] s = .ok (([], none), s) := rfl
theorem named_nop : k.named nopBlk s = .ok ((), s) := rfl
theorem pointer_none : k.pointer none s = .ok ((0, 0), s) := rfl

theorem resources_nop (cap : Cap) : k.resources nopBlk cap {} [] ([], none) s = .ok ((), s) := by
  refine (bind_ok _ _ _ _ _ (see_run _ s)).trans ?_
  refine (check_bind_ok rfl k _ _ s).trans ?_
  refine (bind_ok _ _ _ _ _ (see_run _ s)).trans ?_
  refine (check_bind_ok rfl k _ _ s).trans ?_
  refine (bind_ok _ _ _ _ _ (pure_run () s)).trans ?_
  refine (check_bind_ok ?_ k _ _ s).trans ?_
  · simp
  refine (check_bind_ok rfl k _ _ s).trans ?_
  refine (bind_ok _ _ _ _ _ (see_run _ s)).trans ?_
  refine (check_bind_ok rfl k _ _ s).trans ?_
  refine (bind_ok _ _ _ _ _ (pure_run () s)).trans ?_
  exact pure_run () s

theorem translation_nop (cap : Cap) : ∃ pins, k.translation nopBlk cap {} ([], none) s = .ok (([], pins), s) := ⟨_, rfl⟩

theorem tokens_nop (hb : ∀ m : SemNo, (k.x.sems.get m).bind = none) : ∃ own, k.tokens nopBlk {} s = .ok (own, s) := by
  have hsync : (!unsynced k.x nopBlk (ownPad k.t {}) {}) = true := by
    simp [unsynced, Ctx.sem, hb]
  exact ⟨_, (bind_ok _ _ _ _ _ rfl).trans <| (check_bind_ok hsync k _ _ s).trans rfl⟩

end

/-- The rest of LINK once the image has been read as zeros: the chain has room, and the block is a NOP. -/
theorem linkAt_zero {k : Linking} {s s1 : State} (hd : k.drops = 0) (ho : k.addr s = .ok (offOf k.ga, s))
    (hi : k.image (offOf k.ga) s = .ok ((0, 0), s1)) (hl : (k.x.chains.get k.ch).queue.length < 64)
    (hb : ∀ m : SemNo, (k.x.sems.get m).bind = none) :
    ∃ cap pins, linkAt k s = k.commit nopBlk cap {} [] pins s1 := by
  obtain ⟨t, c, x, ch, ga, drops⟩ := k
  cases hd
  obtain ⟨own, hown⟩ := tokens_nop (s := s1) (k := ⟨t, c, x, ch, ga, 0⟩) hb
  obtain ⟨pins, hpins⟩ := translation_nop (s := s1) (k := ⟨t, c, x, ch, ga, 0⟩) (x.capture nopBlk 0 0)
  refine ⟨{ x.capture nopBlk 0 0 with after := own }, pins, ?_⟩
  refine (bind_ok _ _ _ _ _ ho).trans <| (bind_ok _ _ _ _ _ hi).trans <| (check_bind_ok (decide_eq_true hl) _ _ _ s1).trans <|
    (check_bind_ok rfl _ _ _ s1).trans ?_
  rw [formCause_zero]
  refine (bind_ok _ _ _ _ _ named_nop).trans <| (bind_ok _ _ _ _ _ pointer_none).trans <| (bind_ok _ _ _ _ _ pointer_none).trans <|
    (bind_ok _ _ _ _ _ (pages_nop t x)).trans <| (bind_ok _ _ _ _ _ (resources_nop _)).trans <| (bind_ok _ _ _ _ _ hpins).trans <|
    (bind_ok _ _ _ _ _ hown).trans ?_
  exact (bind_ok _ _ _ _ _ (commit_run ..)).trans (commit_run ..).symm

/-- LINK of a zero image into a full chain. -/
theorem linkAt_full {k : Linking} {s s1 : State} (hd : k.drops = 0) (ho : k.addr s = .ok (offOf k.ga, s))
    (hi : k.image (offOf k.ga) s = .ok ((0, 0), s1)) (hl : (k.x.chains.get k.ch).queue.length = 64) :
    linkAt k s = .error (.ltrap .chainFull k.ga ⟨0, [], s1.free, s1.reqs⟩) := by
  obtain ⟨t, c, x, ch, ga, drops⟩ := k
  cases hd
  have hfull : decide ((x.chain ch).queue.length < 64) = false := decide_eq_false (by rw [Ctx.chain, hl]; decide)
  exact (bind_ok _ _ _ _ _ ho).trans <| (bind_ok _ _ _ _ _ hi).trans <| check_bind_fail hfull rfl _ _ s1

end Linking

/-! ## O48 -/

/-- A LINK that a NOP without tokens has made leaves the context with one more entry, and memory as it was. -/
theorem Linking.linkAt_nop {k : Linking} {s : State} (hd : k.drops = 0) (hx : s.ctx? k.t k.c = some k.x)
    (ho : k.addr s = .ok (offOf k.ga, s)) (hi : k.inChain s (offOf k.ga) 64 = true) (hbad : badBytes s (spAt k.t (offOf k.ga)) 64 = 0)
    (hzero : readNat s (spAt k.t (offOf k.ga)) 64 = 0) (hl : (k.x.chains.get k.ch).queue.length < 64)
    (hb : ∀ m : SemNo, (k.x.sems.get m).bind = none) :
    ∃ (s2 : State) (seen : List Pub) (e : Entry), linkAt k s = .ok ((), s2) ∧ s2.mem = s.mem ∧ s2.reqs = s.reqs ∧
      s2.ctx? k.t k.c = some (k.committed nopBlk e { k.x with seen }) ∧ e.seq = (k.x.chains.get k.ch).seq ∧ e.linked = nopBlk ∧
      e.cur = nopBlk ∧ e.run = {} := by
  obtain ⟨s1, hi1, hs1⟩ := Linking.image_zero hx hi hbad hzero
  obtain ⟨seen, hseen⟩ := hs1.ctx
  obtain ⟨cap, pins, hk⟩ := linkAt_zero hd ho hi1 hl hb
  exact ⟨_, seen, k.entry nopBlk cap {} [] s1, hk.trans (k.commit_run ..), (State.modCtx_mem ..).trans hs1.mem,
    (State.modCtx_reqs ..).trans hs1.reqs, Linking.commit_ctx hseen .., rfl, rfl, rfl, rfl⟩

/-- Settles O48: LINK follows the steps of R176 up to the one that fails, or to the commitment. -/
theorem linkCommits : Obligations.LinkCommits := by
  refine ⟨fun s s1 s2 x h ch a u hr hg ha => ?_, fun s k b cap env ps pins hk => ?_⟩
  case refine_2 =>
    have hkept := ChainsKept.committed k b (k.entry b cap env ps s) k.x
    refine ⟨_, k.committed b (k.entry b cap env ps s) k.x, k.entry b cap env ps s, k.commit_run .., Linking.commit_ctx hk .., ?_⟩
    rw [Linking.committed_same]
    exact ⟨rfl, rfl, rfl, rfl, rfl, k.nextSeq_same, rfl, fun j hj => k.committed_other b _ _ hj, hkept.regs, hkept.preds,
      State.modCtx_mem ..⟩
  refine ⟨exec_link_done hr hg ha, fun h1 h2 h3 => ?_, fun h1 h2 => ?_, fun h1 h2 h3 hi hbad hzero => ⟨fun hl => ?_, fun hl hb => ?_⟩⟩
  · exact exec_link_fails hr hg ha (bind_error _ _ _ _ (Linking.addr_misaligned rfl h1 h2 h3))
  · exact exec_link_fails hr hg ha (bind_error _ _ _ _ (Linking.addr_space rfl h1 h2))
  · obtain ⟨s', him, hs'⟩ := Linking.image_zero (k := s.linking x ch u) hr.here hi hbad hzero
    have hfull := Linking.linkAt_full (k := s.linking x ch u) rfl (Linking.addr_run h1 h2 h3) him hl
    rw [hs'.free, hs'.reqs] at hfull
    exact exec_link_fails hr hg ha hfull
  · obtain ⟨t, seen, e, hk, hmem, hreqs, hy, hseq, hlinked, hcur, hrun⟩ :=
      Linking.linkAt_nop (k := s.linking x ch u) rfl hr.here (Linking.addr_run h1 h2 h3) hi hbad hzero hl hb
    have hpays : Pays s x t t := pays_free _ _ _ (by rw [State.meterHbm, hreqs]; exact hr.hbm) (by rw [State.meterNet, hreqs]; exact hr.net)
    have hchain := (s.linking x ch u).committed_same nopBlk e { x with seen }
    rw [Linking.append, Linking.nextSeq_same] at hchain
    exact ⟨t, _, e, exec_link_done hr hg ha hk hpays, hy, hmem, hchain, hseq, congrArg Blk.body hlinked, hcur.trans hlinked.symm, hrun,
      fun j hj => Linking.committed_other _ _ _ _ hj, rfl, rfl⟩

end Sys2Proof.Machine
end

section
/-!
PROOFS. The integer instructions: what their operations compute (R110 to R112), and from that their results (O5), division (O6) and the
bit-field instructions (O7).
-/
namespace Sys2Proof.Machine
open Sys2Proof

/-! ## Values of the table of R110 -/

theorem mul_eq_ofNat (u v : Word) : u * v = BitVec.ofNat 64 (u.toNat * v.toNat) := by
  apply BitVec.eq_of_toNat_eq
  rw [BitVec.toNat_mul, BitVec.toNat_ofNat]
theorem highHalf_natCast (n : Nat) : highHalf (n : Int) = BitVec.ofNat 64 (n / 2 ^ 64) := by
  rw [← BitVec.ofInt_natCast]
  rfl
theorem sminW_eq (u v : Word) : sminW u v = BitVec.ofInt 64 (min u.toInt v.toInt) := by
  unfold sminW
  simp only [BitVec.sle_iff_toInt_le, min_def]
  split <;> exact BitVec.ofInt_toInt.symm
theorem smaxW_eq (u v : Word) : smaxW u v = BitVec.ofInt 64 (max u.toInt v.toInt) := by
  unfold smaxW
  simp only [BitVec.sle_iff_toInt_le, max_def]
  split <;> exact BitVec.ofInt_toInt.symm
theorem uminW_eq (u v : Word) : uminW u v = BitVec.ofNat 64 (min u.toNat v.toNat) := by
  unfold uminW
  simp only [BitVec.ule_iff_toNat_le, min_def]
  split <;> simp
theorem umaxW_eq (u v : Word) : umaxW u v = BitVec.ofNat 64 (max u.toNat v.toNat) := by
  unfold umaxW
  simp only [BitVec.ule_iff_toNat_le, max_def]
  split <;> simp
theorem abs_eq (u : Word) : (if u.slt 0 then -u else u) = BitVec.ofInt 64 |u.toInt| := by
  simp only [BitVec.slt_iff_toInt_lt]
  split
  next h => rw [abs_of_neg h, BitVec.ofInt_neg, BitVec.ofInt_toInt]
  next h => rw [abs_of_nonneg (not_lt.mp h), BitVec.ofInt_toInt]
/-- A shift to the left multiplies. -/
theorem shiftLeft_add (u v : Word) (k : Nat) : (u <<< k) + v = u * BitVec.twoPow 64 k + v := by
  rw [BitVec.shiftLeft_eq_mul_twoPow]

/-! ## Counts of bits (R110) -/

/-- Above the highest one bit stand zeros only. -/
theorem clzN_eq {a b : Nat} (ha : a.testBit b = true) : ∀ n, b < n → (∀ m, b < m → m < n → a.testBit m = false) → clzN a n = n - 1 - b := by
  intro n
  induction n with
  | zero => intro h; omega
  | succ n ih =>
    intro hb hm
    unfold clzN
    by_cases e : b = n
    · subst e
      simp [ha]
    · rw [if_neg (by simp [hm n (by omega) (by omega)]), ih (by omega) fun m h1 h2 => hm m h1 (by omega)]
      omega
/-- Below the lowest one bit stand zeros only. -/
theorem ctzN_eq {n : Nat} : ∀ {a b : Nat}, b < n → a.testBit b = true → (∀ m, m < b → a.testBit m = false) → ctzN a n = b := by
  induction n with
  | zero => intro a b h; omega
  | succ n ih =>
    intro a b hb ha hm
    unfold ctzN
    cases b with
    | zero => exact if_pos (by simpa using ha)
    | succ b =>
      have h0 : ¬ a % 2 = 1 := by simpa using hm 0 (by omega)
      rw [Nat.testBit_succ] at ha
      rw [if_neg h0, ih (by omega) ha fun m h => by simpa [Nat.testBit_succ] using hm (m + 1) (by omega)]
      omega
theorem clzN_zero (n : Nat) : clzN 0 n = n := by
  induction n with
  | zero => rfl
  | succ n ih => simp [clzN, ih, Nat.add_comm]
theorem ctzN_zero (n : Nat) : ctzN 0 n = n := by
  induction n with
  | zero => rfl
  | succ n ih => simp [ctzN, ih, Nat.add_comm]
theorem popN_eq (n : Nat) : ∀ a, popN a n = ((List.range n).filter a.testBit).length := by
  induction n with
  | zero => exact fun _ => rfl
  | succ n ih =>
    intro a
    have hs : a.testBit ∘ Nat.succ = (a / 2).testBit := funext fun m => Nat.testBit_succ a m
    rw [popN, ih, List.range_succ_eq_map, List.filter_cons, List.filter_map, hs]
    cases h : a.testBit 0 with
    | true => simp_all [Nat.add_comm]
    | false => simp_all

/-! ## Bytes in reverse order (R110) -/

theorem revN_lt (n : Nat) : ∀ a, revN a n < 2 ^ (8 * n) := by
  induction n with
  | zero => exact fun _ => Nat.one_pos
  | succ n ih =>
    intro a
    have h := ih (a / 256)
    have hb : a % 256 < 256 := Nat.mod_lt _ (by decide)
    rw [revN, show (256 : Nat) = 2 ^ 8 from rfl, ← pow_mul]
    calc a % 2 ^ 8 * 2 ^ (8 * n) + revN (a / 2 ^ 8) n < a % 2 ^ 8 * 2 ^ (8 * n) + 2 ^ (8 * n) := Nat.add_lt_add_left h _
      _ = (a % 2 ^ 8 + 1) * 2 ^ (8 * n) := by ring
      _ ≤ 2 ^ 8 * 2 ^ (8 * n) := Nat.mul_le_mul_right _ hb
      _ = 2 ^ (8 * (n + 1)) := by ring
/-- Byte k of the reversed n bytes is byte n - 1 - k. -/
theorem testBit_revN {n : Nat} : ∀ {a k j : Nat}, k < n → j < 8 → (revN a n).testBit (8 * k + j) = a.testBit (8 * (n - 1 - k) + j) := by
  induction n with
  | zero => intro a k j h; omega
  | succ n ih =>
    intro a k j hk hj
    have hlow : revN (a / 256) n < 2 ^ (8 * n) := revN_lt n _
    rw [revN, show (256 : Nat) ^ n = 2 ^ (8 * n) by rw [pow_mul]; rfl, Nat.mul_comm, Nat.testBit_two_pow_mul_add _ hlow]
    by_cases e : k = n
    · subst e
      rw [if_neg (by omega), show 8 * k + j - 8 * k = j by omega, show 8 * (k + 1 - 1 - k) + j = j by omega,
        show (256 : Nat) = 2 ^ 8 from rfl, Nat.testBit_mod_two_pow, decide_eq_true hj, Bool.true_and]
    · rw [if_pos (by omega), ih (by omega) hj, show (256 : Nat) = 2 ^ 8 from rfl, Nat.testBit_div_two_pow]
      congr 1
      omega

/-! ## Division (R111) -/

theorem divU_eq {u v : Word} (h : v ≠ 0) : (divU u v).toNat = u.toNat / v.toNat := by
  rw [divU, if_neg h, BitVec.toNat_ofNat]
  exact Nat.mod_eq_of_lt (lt_of_le_of_lt (Nat.div_le_self _ _) u.isLt)
theorem remU_eq {u v : Word} (h : v ≠ 0) : (remU u v).toNat = u.toNat - v.toNat * (u.toNat / v.toNat) := by
  rw [remU, if_neg h, BitVec.toNat_ofNat, Nat.mod_eq_of_lt (lt_of_le_of_lt (Nat.mod_le _ _) u.isLt)]
  exact Nat.eq_sub_of_add_eq (Nat.mod_add_div u.toNat v.toNat)
/-- Only the overflow row of R111 leaves the signed range. -/
theorem divS_eq {u v : Word} (h : v ≠ 0) (ho : ¬(u = 0x8000000000000000 ∧ v = -1)) : (divS u v).toInt = u.toInt.tdiv v.toInt := by
  have hs := BitVec.toInt_sdiv_of_ne_or_ne u v (not_and_or.mp ho)
  rw [divS, if_neg h, ← hs, BitVec.ofInt_toInt]
theorem remS_eq {u v : Word} (h : v ≠ 0) : (remS u v).toInt = u.toInt - v.toInt * u.toInt.tdiv v.toInt := by
  rw [remS, if_neg h, ← BitVec.toInt_srem, BitVec.ofInt_toInt, BitVec.toInt_srem, Int.tmod_def]

/-! ## Fields (R112) -/

theorem fieldPos_add_width (c : Word) : fieldPos c + fieldWidth c ≤ 64 := by
  unfold fieldWidth fieldPos
  omega
/-- Bit k of the field as a number. -/
theorem testBit_field (u : Word) (p w k : Nat) : (u.toNat / 2 ^ p % 2 ^ w).testBit k = (decide (k < w) && u.getLsbD (p + k)) := by
  rw [Nat.testBit_mod_two_pow, Nat.testBit_div_two_pow, Nat.add_comm k p]
  rfl
theorem getLsbD_bfxu (u c : Word) {k : Nat} (hk : k < 64) :
    (bfxu u c).getLsbD k = (decide (k < fieldWidth c) && u.getLsbD (fieldPos c + k)) := by
  rw [bfxu, BitVec.getLsbD_ofNat, decide_eq_true hk, Bool.true_and, testBit_field]
/-- Bits of a number below 2^w from which 2^w has been taken: its own, then ones. -/
theorem getLsbD_ofInt_sub_two_pow {v w k : Nat} (hv : v < 2 ^ w) (hw : w ≤ 64) (hk : k < 64) :
    (BitVec.ofInt 64 (v - 2 ^ w : Int)).getLsbD k = (decide (w ≤ k) || v.testBit k) := by
  have hp : 2 ^ w ≤ 2 ^ 64 := Nat.pow_le_pow_right (by decide) hw
  have e : BitVec.ofInt 64 (v - 2 ^ w : Int) = BitVec.ofNat 64 (2 ^ w * (2 ^ (64 - w) - 1) + v) := by
    have hq : 2 ^ w * 2 ^ (64 - w) = 2 ^ 64 := by rw [← pow_add, Nat.add_sub_cancel' hw]
    have hsum : ((2 ^ 64 - 2 ^ w + v : Nat) : Int) = (v - 2 ^ w) + 2 ^ 64 := by
      rw [Nat.cast_add, Nat.cast_sub hp, Nat.cast_pow, Nat.cast_pow, Nat.cast_ofNat]
      ring
    rw [← BitVec.ofInt_natCast, Nat.mul_sub, hq, Nat.mul_one, hsum, BitVec.ofInt_add]
    exact (BitVec.add_zero _).symm
  rw [e, BitVec.getLsbD_ofNat, decide_eq_true hk, Bool.true_and, Nat.testBit_two_pow_mul_add _ hv]
  by_cases h : k < w
  · rw [if_pos h, decide_eq_false (not_le.mpr h), Bool.false_or]
  · rw [if_neg h, Nat.testBit_two_pow_sub_one, decide_eq_true (show k - w < 64 - w by omega), decide_eq_true (not_lt.mp h), Bool.true_or]
theorem getLsbD_bfxs (u c : Word) {k : Nat} (hk : k < 64) :
    (bfxs u c).getLsbD k = (decide (fieldWidth c ≠ 0) && u.getLsbD (fieldPos c + min k (fieldWidth c - 1))) := by
  have hw : fieldWidth c ≤ 64 := by have := fieldPos_add_width c; omega
  have hv : u.toNat / 2 ^ fieldPos c % 2 ^ fieldWidth c < 2 ^ fieldWidth c := Nat.mod_lt _ (Nat.two_pow_pos _)
  unfold bfxs
  dsimp only
  by_cases hz : fieldWidth c = 0
  · simp [hz, Nat.mod_one]
  have hlast : fieldWidth c - 1 < fieldWidth c := by omega
  have hsign := testBit_field u (fieldPos c) (fieldWidth c) (fieldWidth c - 1)
  rw [decide_eq_true hlast, Bool.true_and] at hsign
  rw [decide_eq_true hz, Bool.true_and, hsign]
  by_cases hin : k < fieldWidth c
  · rw [show min k (fieldWidth c - 1) = k by omega]
    split
    · rw [getLsbD_ofInt_sub_two_pow hv hw hk, testBit_field, decide_eq_false (by omega), decide_eq_true hin, Bool.false_or, Bool.true_and]
    · rw [BitVec.getLsbD_ofNat, testBit_field, decide_eq_true hk, decide_eq_true hin, Bool.true_and, Bool.true_and]
  · rw [show min k (fieldWidth c - 1) = fieldWidth c - 1 by omega]
    split
    next h => rw [getLsbD_ofInt_sub_two_pow hv hw hk, decide_eq_true (by omega), Bool.true_or, h.2]
    next h =>
      rw [BitVec.getLsbD_ofNat, testBit_field, decide_eq_false hin, Bool.false_and, Bool.and_false]
      exact (Bool.eq_false_iff.mpr fun e => h ⟨hz, e⟩).symm
theorem getLsbD_bfi (d u c : Word) {k : Nat} (hk : k < 64) :
    (bfi d u c).getLsbD k =
      if fieldPos c ≤ k ∧ k < fieldPos c + fieldWidth c then u.getLsbD (k - fieldPos c) else d.getLsbD k := by
  have hm : (BitVec.ofNat 64 ((2 ^ fieldWidth c - 1) * 2 ^ fieldPos c)).getLsbD k =
      decide (fieldPos c ≤ k ∧ k < fieldPos c + fieldWidth c) := by
    rw [BitVec.getLsbD_ofNat, decide_eq_true hk, Bool.true_and, Nat.mul_comm, Nat.testBit_two_pow_mul, Nat.testBit_two_pow_sub_one,
      ← Bool.decide_and]
    congr 1
    apply propext
    omega
  unfold bfi
  simp only [BitVec.getLsbD_or, BitVec.getLsbD_and, BitVec.getLsbD_not, BitVec.getLsbD_shiftLeft, hm, hk]
  split <;> rename_i h
  · simp [h]
  · simp [h]

/-! ## The instructions -/

section
variable {s : State} {x : Ctx} {h : Hd} {a c : Src} {u v w : Word}

/-- An instruction of one source completes with its value. -/
theorem dealer_op1 (hr : Ready s x) (hg : x.pred h.guard = true) (ha : Reads s x a u) (d : Dst) {f : Word → Word} (hf : f u = w) :
    dealer h (op1 d a f) s = .next (finish s x 1 h.stop { val := some w } (s.upMe (·.setDst d w))) := by
  subst hf
  exact dealer_upMe hr hg (op1_run hr ha d f) 1 false none
/-- An instruction of two sources completes with its value. -/
theorem dealer_op2 (hr : Ready s x) (hg : x.pred h.guard = true) (ha : Reads s x a u) (hc : Reads s x c v) (d : Dst)
    {f : Word → Word → Word} (hf : f u v = w) :
    dealer h (op2 d a c f) s = .next (finish s x 1 h.stop { val := some w } (s.upMe (·.setDst d w))) := by
  subst hf
  exact dealer_upMe hr hg (op2_run hr ha hc d f) 1 false none
/-- An instruction of two sources that reads its destination completes with its value. -/
theorem dealer_op3 (hr : Ready s x) (hg : x.pred h.guard = true) (ha : Reads s x a u) (hc : Reads s x c v) (e : Fin 48)
    (f : Word → Word → Word → Word) :
    dealer h (op3 e a c f) s =
      .next (finish s x 1 h.stop { val := some (f (x.regs.get e) u v) } (s.upMe (·.setReg e (f (x.regs.get e) u v)))) :=
  dealer_upMe hr hg (op3_run hr ha hc e f) 1 false none

end

/-- Settles O5: each operation is a form of one, two or three sources whose value is that of the table. -/
theorem integerResults : Obligations.IntegerResults := by
  intro s x h d e a c u v hr hg ha hc
  have one : ∀ {f : Word → Word} {w : Word}, f u = w →
      dealer h (op1 d a f) s = .next (finish s x 1 h.stop { val := some w } (s.upMe (·.setDst d w))) := dealer_op1 hr hg ha d
  have two : ∀ {f : Word → Word → Word} {w : Word}, f u v = w →
      dealer h (op2 d a c f) s = .next (finish s x 1 h.stop { val := some w } (s.upMe (·.setDst d w))) := dealer_op2 hr hg ha hc d
  have scaled : ∀ k : Nat, (u <<< k) + v = u * BitVec.twoPow 64 k + v := shiftLeft_add u v
  refine ⟨?_, ?_, fun n hn hb => ?_, fun n hn hb => ?_, ?_, popN_eq 64 _, fun k j hk hj => ?_⟩
  · iterate 18 refine List.forall_mem_cons.mpr ⟨two rfl, ?_⟩
    refine List.forall_mem_cons.mpr ⟨two (mul_eq_ofNat u v), ?_⟩
    refine List.forall_mem_cons.mpr ⟨two rfl, ?_⟩
    refine List.forall_mem_cons.mpr ⟨two (highHalf_natCast (u.toNat * v.toNat)), ?_⟩
    refine List.forall_mem_cons.mpr ⟨two rfl, ?_⟩
    refine List.forall_mem_cons.mpr ⟨two (sminW_eq u v), ?_⟩
    refine List.forall_mem_cons.mpr ⟨two (smaxW_eq u v), ?_⟩
    refine List.forall_mem_cons.mpr ⟨two (uminW_eq u v), ?_⟩
    refine List.forall_mem_cons.mpr ⟨two (umaxW_eq u v), ?_⟩
    refine List.forall_mem_cons.mpr ⟨one (abs_eq u), ?_⟩
    iterate 4 refine List.forall_mem_cons.mpr ⟨one rfl, ?_⟩
    iterate 7 refine List.forall_mem_cons.mpr ⟨two (scaled _), ?_⟩
    exact List.forall_mem_nil _
  · refine List.forall_mem_cons.mpr ⟨dealer_op3 hr hg ha hc e _, ?_⟩
    exact List.forall_mem_cons.mpr ⟨dealer_op3 hr hg ha hc e _, List.forall_mem_nil _⟩
  · exact clzN_eq hb.1 64 hn fun m h1 _ => hb.2 m h1
  · exact ctzN_eq hn hb.1 hb.2
  · rintro rfl
    exact ⟨clzN_zero 64, ctzN_zero 64⟩
  · rw [BitVec.getLsbD_ofNat, decide_eq_true (by omega), Bool.true_and, testBit_revN hk hj]
    rfl

/-- Settles O6: the four are forms of two sources; their values are those of the table row by row. -/
theorem divisionResults : Obligations.DivisionResults := by
  intro s x h d a c u v hr hg ha hc
  refine ⟨divS u v, remS u v, divU u v, remU u v, ?_, ?_, ?_, fun hv => ⟨divU_eq hv, remU_eq hv⟩, fun hv ho => ⟨divS_eq hv ho, remS_eq hv⟩⟩
  · iterate 4 refine List.forall_mem_cons.mpr ⟨dealer_op2 hr hg ha hc d rfl, ?_⟩
    exact List.forall_mem_nil _
  · rintro rfl
    exact ⟨rfl, rfl, rfl, rfl⟩
  · rintro rfl rfl
    exact ⟨by decide, by decide⟩

/-- Settles O7: the field as the three operations cut it out or put it in, bit by bit. -/
theorem bitFieldResults : Obligations.BitFieldResults := by
  rintro s x h d e a c u v _ _ hr hg ha hc rfl rfl
  exact ⟨bfxu u v, bfxs u v, bfi (x.regs.get e) u v, dealer_op2 hr hg ha hc d rfl, dealer_op2 hr hg ha hc d rfl,
    dealer_op3 hr hg ha hc e _, fun _ => getLsbD_bfxu u v, fun _ => getLsbD_bfxs u v, fun _ => getLsbD_bfi _ u v⟩

end Sys2Proof.Machine
end

section
/-!
PROOFS. Predicates and transfers: the compares (O9), predicate logic (O10), branches and jumps (O14), LOOP (O16), and what completing with a
transfer does to the loop levels (O13).
-/
namespace Sys2Proof.Machine
open Sys2Proof

/-! ## Predicates (R95) -/

theorem Ctx.pred_zero (x : Ctx) : x.pred 0 = true := rfl
/-- The predicate just written holds the value, but p0 reads true; the others are as they were. -/
theorem Ctx.pred_setPred (x : Ctx) (p r : Fin 8) (v : Bool) : (x.setPred p v).pred r = if r = p ∧ r ≠ 0 then v else x.pred r := by
  by_cases hp : p = 0
  · subst hp
    rw [if_neg (fun h => h.2 h.1), Ctx.setPred, if_pos rfl]
  · have hbit : (x.setPred p v).preds.getLsbD r = if r = p then v else x.preds.getLsbD r := by
      rw [Ctx.setPred, if_neg hp]
      have hr : r.val < 8 := r.isLt
      by_cases e : r = p
      · subst e
        cases v <;> simp
      · have hv : r.val ≠ p.val := Fin.val_ne_of_ne e
        cases v <;> simp [e, hr] <;> grind
    by_cases h0 : r = 0
    · subst h0
      rw [if_neg (fun h => h.2 rfl), Ctx.pred_zero, Ctx.pred_zero]
    · unfold Ctx.pred
      rw [hbit, beq_false_of_ne h0, Bool.false_or, Bool.false_or]
      by_cases e : r = p
      · rw [if_pos e, if_pos ⟨e, h0⟩]
      · rw [if_neg e, if_neg fun h => e h.1]

/-- Changing the context whose dealer acts depends on that context alone. -/
theorem State.upMe_const {s : State} {x : Ctx} (hr : Ready s x) (f : Ctx → Ctx) : s.upMe f = s.upMe fun _ => f x := by
  unfold State.upMe State.modCtx
  rw [hr.here]

/-! ## Compares (R114, R115) -/

/-- The context after a compare whose condition is c: its guard is judged first (R114). -/
def compared (g : Fin 8) (ct : CmpMode) (p q : Fin 8) (c : Bool) (x : Ctx) : Ctx :=
  if x.pred g then cmpWrite ct p q c x else cmpFalse ct p q x

theorem PredsOnly.compared (g : Fin 8) (ct : CmpMode) (p q : Fin 8) (c : Bool) (x : Ctx) : PredsOnly x (compared g ct p q c x) := by
  unfold Machine.compared
  split
  · exact .cmpWrite ..
  · exact .cmpFalse ..

/-- A compare whose operands can be read completes, and leaves the compared context. -/
theorem compare_done {s : State} {x : Ctx} {operands : M (Word × Word)} {a b : Word} (hr : Ready s x) (ho : operands s = .ok ((a, b), s))
    (g : Fin 8) (ct : CmpMode) (p q : Fin 8) (k : Cond) :
    compare g ct p q k operands s = .next (finish s x 1 false {} (s.upMe fun _ => compared g ct p q (condHolds k a b) x)) := by
  have hg : x.pred 0 = true := rfl
  unfold compared
  by_cases hp : x.pred g = true
  · rw [if_pos hp, ← State.upMe_const hr]
    refine dealer_upMe (h := ⟨0, false⟩) hr hg ((myCtx_bind hr _).trans ?_) 1 false none
    rw [if_pos hp]
    exact bind_ok _ _ _ _ _ ho
  · rw [if_neg hp, ← State.upMe_const hr]
    refine dealer_upMe (h := ⟨0, false⟩) hr hg ((myCtx_bind hr _).trans ?_) 1 false none
    rw [if_neg hp]
    rfl

theorem condHolds_lt (a b : Word) : condHolds .lt a b = decide (a.toInt < b.toInt) := rfl
theorem condHolds_ge (a b : Word) : condHolds .ge a b = decide (b.toInt ≤ a.toInt) := by
  rw [condHolds, BitVec.slt_eq_decide, ← decide_not, decide_eq_decide]
  exact not_lt
theorem condHolds_ltu (a b : Word) : condHolds .ltu a b = decide (a.toNat < b.toNat) := rfl
theorem condHolds_geu (a b : Word) : condHolds .geu a b = decide (b.toNat ≤ a.toNat) := by
  rw [condHolds, BitVec.ult_eq_decide, ← decide_not, decide_eq_decide]
  exact not_lt
theorem sx_toInt (i : BitVec 6) : (sx i).toInt = i.toInt := BitVec.toInt_signExtend_of_le (by decide)
theorem zx_toNat {n : Nat} (i : BitVec n) (h : n ≤ 64) : (zx i).toNat = i.toNat := BitVec.toNat_setWidth_of_le h

/-- Settles O9: each compare leaves the compared context, whose predicates are read off mode by mode. -/
theorem compareWrites : Obligations.CompareWrites := by
  intro s x g p q ct a b u v i hr ha hb e he
  have regs : cmpRegs a b s = .ok ((u, v), s) := (readA_bind hr ha _).trans (readC_bind hr hb _)
  have imm : ∀ w, cmpImm a w s = .ok ((u, w), s) := fun w => readA_bind hr ha _
  have done : ∀ {j : Instr} {k : Cond} {o : M (Word × Word)} {w : Word × Word} {c : Bool}, o s = .ok (w, s) →
      (exec j s = compare g ct p q k o s) → condHolds k w.1 w.2 = c →
      exec j s = .next (finish s x 1 false {} (s.upMe fun _ => compared g ct p q c x)) := by
    rintro j k o w _ ho hj rfl
    exact hj.trans (compare_done hr ho g ct p q k)
  have run : exec e.1 s = .next (finish s x 1 false {} (s.upMe fun _ => compared g ct p q e.2 x)) := by
    simp only [List.mem_cons, List.not_mem_nil, or_false] at he
    rcases he with rfl | rfl | rfl | rfl | rfl | rfl | rfl | rfl | rfl | rfl | rfl | rfl | rfl | rfl | rfl | rfl
    · exact done regs rfl (beq_eq_decide u v)
    · exact done regs rfl decide_not.symm
    · exact done regs rfl (condHolds_lt u v)
    · exact done regs rfl (condHolds_ge u v)
    · exact done regs rfl (condHolds_ltu u v)
    · exact done regs rfl (condHolds_geu u v)
    · exact done regs rfl decide_not.symm
    · exact done regs rfl (beq_eq_decide (u &&& v) 0)
    · exact done (imm _) rfl (beq_eq_decide u _)
    · exact done (imm _) rfl decide_not.symm
    · exact done (imm _) rfl (by rw [condHolds_lt, sx_toInt])
    · exact done (imm _) rfl (by rw [condHolds_ge, sx_toInt])
    · exact done (imm _) rfl (by rw [condHolds_ltu, zx_toNat _ (by decide)])
    · exact done (imm _) rfl (by rw [condHolds_geu, zx_toNat _ (by decide)])
    · exact done (imm _) rfl decide_not.symm
    · exact done (imm _) rfl (beq_eq_decide (u &&& i.setWidth 64) 0)
  refine ⟨_, run, fun r => ?_, PredsOnly.compared ..⟩
  dsimp only
  by_cases h0 : r = 0
  · subst h0
    rw [Ctx.pred_zero, if_pos rfl]
    rfl
  · unfold compared
    rw [if_neg h0]
    cases ct <;> cases x.pred g <;> cases e.2 <;> simp [cmpWrite, cmpFalse, setPreds, Ctx.pred_setPred, h0] <;> grind

/-! ## Predicate logic (R116) -/

/-- Each predicate of a list that is set in v takes its bit of u (R116). -/
def putPreds (u v : Word) (l : List (Fin 8)) (x : Ctx) : Ctx :=
  l.foldl (fun y i => if v.getLsbD i.val then y.setPred i (u.getLsbD i.val) else y) x

theorem pred_putPreds (u v : Word) (l : List (Fin 8)) (x : Ctx) (r : Fin 8) :
    (putPreds u v l x).pred r = if r ∈ l ∧ r ≠ 0 ∧ v.getLsbD r = true then u.getLsbD r else x.pred r := by
  induction l generalizing x with
  | nil => exact (if_neg fun h => nomatch h.1).symm
  | cons i l ih =>
    have one : (if v.getLsbD i.val then x.setPred i (u.getLsbD i.val) else x).pred r =
        if r = i ∧ r ≠ 0 ∧ v.getLsbD r = true then u.getLsbD r else x.pred r := by
      by_cases hv : v.getLsbD i.val = true
      · rw [if_pos hv, Ctx.pred_setPred]
        grind
      · rw [if_neg hv]
        grind
    rw [putPreds, List.foldl_cons, ← putPreds, ih, one]
    grind
theorem PredsOnly.putPreds (u v : Word) (l : List (Fin 8)) (x : Ctx) : PredsOnly x (putPreds u v l x) := by
  refine .foldl (fun y i => ?_) l x
  split
  · exact .setPred ..
  · exact .refl y

/-- Settles O10: the five two-predicate forms write one predicate each, PPUT folds over the eight, and PGET reads them. -/
theorem predicateLogic : Obligations.PredicateLogic := by
  intro s x h pd pa pc d a c u v hr hg ha hc
  have one : ∀ (f : Ctx → Bool) {j : Instr}, (exec j s = dealer h (modMe (fun y => y.setPred pd (f y)) >>= fun _ => pure {}) s) →
      ∃ y : Ctx, exec j s = .next (finish s x 1 h.stop {} (s.upMe fun _ => y)) ∧ y = { x with preds := y.preds } ∧
        ∀ r : Fin 8, y.pred r = if r = pd ∧ r ≠ 0 then f x else x.pred r := by
    intro f j hj
    refine ⟨_, ?_, PredsOnly.setPred x pd (f x), fun r => x.pred_setPred pd r (f x)⟩
    rw [hj, ← State.upMe_const hr fun y => y.setPred pd (f y)]
    exact dealer_upMe hr hg rfl 1 false none
  refine ⟨?_, ⟨_, ?_, PredsOnly.putPreds u v (List.finRange 8) x, fun r => ?_⟩, ⟨_, dealer_upMe hr hg (myCtx_bind hr _) 1 false none, fun k hk => ?_⟩⟩
  · simp only [List.forall_mem_cons, List.not_mem_nil, false_implies, implies_true, and_true]
    exact ⟨one (fun y => y.pred pa && y.pred pc) rfl, one (fun y => y.pred pa || y.pred pc) rfl, one (fun y => y.pred pa ^^ y.pred pc) rfl,
      one (fun y => y.pred pa && !y.pred pc) rfl, one (fun y => !y.pred pa) rfl⟩
  · refine (dealer_upMe hr hg ((readA_bind hr ha _).trans (readC_bind hr hc _)) 1 false none).trans ?_
    rw [State.upMe_const hr]
    rfl
  · rw [pred_putPreds]
    simp
  · have hw : (zx (x.preds ||| 1)).getLsbD k = (x.preds.getLsbD k || decide (k = 0)) := by
      rw [zx, BitVec.getLsbD_setWidth, decide_eq_true hk, Bool.true_and, BitVec.getLsbD_or]
      exact congrArg (x.preds.getLsbD k || ·) ((BitVec.getLsbD_one ..).trans (Bool.true_and _))
    rw [hw]
    by_cases k8 : k < 8
    · rw [dif_pos k8, Ctx.pred, Bool.or_comm]
      congr 1
      exact decide_eq_decide.mpr Fin.mk_eq_zero.symm
    · rw [dif_neg k8, BitVec.getLsbD_of_ge _ _ (not_lt.mp k8), Bool.false_or]
      exact decide_eq_false fun e => k8 (by omega)

/-! ## Branches and jumps (R117, R118) -/

theorem jumpCheck_bind_ok {α : Type} {u : Word} (hu : u.toNat % 4 = 0) (f : Unit → M α) (s : State) : (jumpCheck u >>= f) s = f () s :=
  check_bind_ok (by simp [hu]) _ _ f s
theorem branchTarget_eq (x : Ctx) (disp : BitVec 23) : branchTarget x disp = x.pc + 4 * disp.signExtend 64 := by
  rw [branchTarget, BitVec.shiftLeft_eq_mul_twoPow, BitVec.mul_comm]
  rfl

/-- Settles O14: each of the five computes its target, and the jumps check it. -/
theorem branches : Obligations.Branches := by
  intro s x h e a u disp hr ha
  refine ⟨fun hg => ⟨?_, ?_, fun hu => ⟨?_, ?_⟩, fun hu => ?_⟩, fun hg => ?_⟩
  · rw [← branchTarget_eq]
    exact dealer_pure (h := ⟨h.guard, false⟩) hr hg (myCtx_bind hr _) 1 true none
  · rw [← branchTarget_eq]
    exact dealer_upMe (h := ⟨h.guard, false⟩) hr hg (myCtx_bind hr _) 1 true none
  · exact dealer_pure hr hg ((readA_bind hr ha _).trans (jumpCheck_bind_ok hu _ s)) 1 true none
  · exact dealer_upMe hr hg ((readA_bind hr ha _).trans <| (jumpCheck_bind_ok hu _ s).trans (myCtx_bind hr _)) 1 true none
  · exact dealer_pure hr hg ((myCtx_bind hr _).trans (jumpCheck_bind_ok hu _ s)) 1 true none
  · refine List.forall_mem_cons.mpr ⟨dealer_skip s x ⟨h.guard, false⟩ _ _ _ _ hr hg, ?_⟩
    refine List.forall_mem_cons.mpr ⟨dealer_skip s x ⟨h.guard, false⟩ _ _ _ _ hr hg, ?_⟩
    iterate 3 refine List.forall_mem_cons.mpr ⟨dealer_skip _ _ _ _ _ _ _ hr hg, ?_⟩
    exact List.forall_mem_nil _

/-! ## LOOP (R119) -/

/-- Settles O16: the two nesting checks, then the count. -/
theorem loopStarts : Obligations.LoopStarts := by
  intro s x h a u imm last hr hg ha hl
  have hlast : x.pc + (zx imm <<< 2) = last := by
    rw [hl, BitVec.shiftLeft_eq_mul_twoPow, BitVec.mul_comm]
    rfl
  have start : ∀ L : Fin 2, L = (if (x.loops.get 0).act then 1 else 0) → (x.loops.get 1).act = false →
      ((x.loops.get 0).act = true → (x.loops.get 0).ls.toNat ≤ x.pc.toNat ∧ last.toNat < (x.loops.get 0).le.toNat) →
      exec (.loop h a imm) s =
        .next (finish s x 1 true { ctl := (loopStart x L u last).2 } (s.upMe fun _ => (loopStart x L u last).1)) := by
    rintro _ rfl h1 h0
    refine dealer_upMe hr hg ((readA_bind hr ha _).trans <| (myCtx_bind hr _).trans ?_) 1 true none
    rw [hlast]
    refine (check_bind_ok (by simp [h1]) _ _ _ s).trans <| (check_bind_ok ?_ _ _ _ s).trans rfl
    by_cases hact : (x.loops.get 0).act = true
    · simp [h0 hact]
    · simp [hact]
  intro nest L
  have inner : ¬ nest → (x.loops.get 1).act = false ∧
      ((x.loops.get 0).act = true → (x.loops.get 0).ls.toNat ≤ x.pc.toNat ∧ last.toNat < (x.loops.get 0).le.toNat) := by
    intro hn
    obtain ⟨h1, h0⟩ := not_or.mp hn
    exact ⟨by simpa using h1, fun hact => by_contra fun hb => h0 ⟨hact, hb⟩⟩
  refine ⟨fun hn => ?_, fun hn hu => ?_, fun hn hu => ?_⟩
  · refine dealer_trap _ _ _ _ _ _ _ _ _ hr hg ((readA_bind hr ha _).trans <| (myCtx_bind hr _).trans ?_)
    rw [hlast]
    by_cases h1 : (x.loops.get 1).act = true
    · exact check_bind_fail (by simp [h1]) _ _ _ s
    · refine (check_bind_ok (by simp [h1]) _ _ _ s).trans (check_bind_fail ?_ _ _ _ s)
      obtain ⟨hact, hout⟩ := hn.resolve_left h1
      rw [hact, ← Bool.decide_and, decide_eq_false hout]
      rfl
  · obtain ⟨h1, h0⟩ := inner hn
    rw [start L rfl h1 h0, loopStart, if_pos hu]
  · obtain ⟨h1, h0⟩ := inner hn
    rw [start L rfl h1 h0, loopStart, if_neg hu, State.upMe_const hr fun y => { y with loops := y.loops.set L ⟨u, x.pc + 4, last, true⟩ }]

/-! ## Transfers (R122) -/

/-- The level is active and its body does not hold the target. -/
def leaves (l : LoopLevel) (tgt : Word) : Prop := l.act = true ∧ ¬(l.ls.toNat ≤ tgt.toNat ∧ tgt.toNat ≤ l.le.toNat)

theorem leaves_iff (l : LoopLevel) (tgt : Word) :
    (l.act && !(decide (l.ls.toNat ≤ tgt.toNat) && decide (tgt.toNat ≤ l.le.toNat))) = true ↔ leaves l tgt := by
  rw [leaves, Bool.and_eq_true, ← Bool.decide_and, Bool.not_eq_true', decide_eq_false_iff_not]

/-- A transfer that leaves the body of level 0 ends both levels. -/
theorem leaveLoops_outer {x : Ctx} {tgt : Word} (h : leaves (x.loops.get 0) tgt) :
    leaveLoops x tgt = { x with
      loops := #v[(x.loops.get 0).stop, if (x.loops.get 1).act then (x.loops.get 1).stop else x.loops.get 1] } := by
  unfold leaveLoops
  dsimp only
  rw [if_pos ((leaves_iff _ _).mpr h)]
/-- One that leaves the body of level 1 only ends that level. -/
theorem leaveLoops_inner {x : Ctx} {tgt : Word} (h0 : ¬ leaves (x.loops.get 0) tgt) (h1 : leaves (x.loops.get 1) tgt) :
    leaveLoops x tgt = { x with loops := #v[x.loops.get 0, (x.loops.get 1).stop] } := by
  unfold leaveLoops
  dsimp only
  rw [if_neg fun e => h0 ((leaves_iff _ _).mp e), if_pos ((leaves_iff _ _).mpr h1)]
/-- One that leaves no body changes no level. -/
theorem leaveLoops_none {x : Ctx} {tgt : Word} (h0 : ¬ leaves (x.loops.get 0) tgt) (h1 : ¬ leaves (x.loops.get 1) tgt) :
    leaveLoops x tgt = x := by
  unfold leaveLoops
  dsimp only
  rw [if_neg fun e => h0 ((leaves_iff _ _).mp e), if_neg fun e => h1 ((leaves_iff _ _).mp e)]

/-- A transfer writes loop levels only, and keeps their bounds. -/
theorem leaveLoops_frame (x : Ctx) (tgt : Word) :
    leaveLoops x tgt = { x with loops := (leaveLoops x tgt).loops } ∧ SameBounds x (leaveLoops x tgt) := by
  by_cases h0 : leaves (x.loops.get 0) tgt
  · rw [leaveLoops_outer h0]
    refine ⟨rfl, fun L => ?_⟩
    match L with
    | 0 => exact ⟨rfl, rfl⟩
    | 1 =>
      show (if (x.loops.get 1).act then (x.loops.get 1).stop else x.loops.get 1).ls = _ ∧
        (if (x.loops.get 1).act then (x.loops.get 1).stop else x.loops.get 1).le = _
      split
      · exact ⟨rfl, rfl⟩
      · exact ⟨rfl, rfl⟩
  by_cases h1 : leaves (x.loops.get 1) tgt
  · rw [leaveLoops_inner h0 h1]
    exact ⟨rfl, fun L => match L with
      | 0 => ⟨rfl, rfl⟩
      | 1 => ⟨rfl, rfl⟩⟩
  · rw [leaveLoops_none h0 h1]
    exact ⟨rfl, fun _ => ⟨rfl, rfl⟩⟩

/-- A context after its instruction has completed with a transfer: its group is closed (R42, R122). -/
def jumped (v : Option Word) (tgt : Word) (x : Ctx) : Ctx := { leaveLoops (latched v x) tgt with pc := tgt, latches := [] }

theorem jumped_frame (v : Option Word) (tgt : Word) (x : Ctx) :
    jumped v tgt x = { x with wait := none, answers := [], pc := tgt, latches := [], loops := (leaveLoops (latched v x) tgt).loops } :=
  congrArg (fun z : Ctx => { z with pc := tgt, latches := [] }) (leaveLoops_frame (latched v x) tgt).1

theorem complete_jump_eq {s : State} {t : TileNo} {c : SlotNo} {x : Ctx} (hx : (s.charge t c 8 1).ctx? t c = some x) (len : Nat)
    (v : Option Word) (tgt : Word) : complete t c len true false { val := v, ctl := .jump tgt } s =
      takePending t c ((s.charge t c 8 1).setSlot t c (some (jumped v tgt x))) := by
  simp only [complete, hx]
  rfl

/-- Where nothing pends, completing with a transfer puts the jumped context into its slot; d and a are the mark and the counters that the
charge leaves. -/
theorem complete_jump {s : State} {t : TileNo} {c : SlotNo} {y : Ctx} (hy : s.ctx? t c = some y) (hq : y.quiet = true) (len : Nat)
    (v : Option Word) (tgt : Word) :
    ∃ d a, (complete t c len true false { val := v, ctl := .jump tgt } s).ctx? t c =
      some (jumped v tgt { y with desched := d, activity := a }) := by
  obtain ⟨ha, hf, -⟩ := y.quiet_iff.mp hq
  obtain ⟨x0, hx0, hu⟩ := (Alike.charge hy 8).ctx_some (State.ctx_setSlot s t c _)
  have e : x0 = { y with desched := x0.desched, activity := x0.activity } :=
    calc x0 = { x0.unmark with desched := x0.desched, activity := x0.activity } := rfl
      _ = { (y.count 8 1).unmark with desched := x0.desched, activity := x0.activity } := by rw [hu]
  refine ⟨x0.desched, x0.activity, ?_⟩
  rw [← e, complete_jump_eq hx0, takePending_none (State.ctx_setSlot ..), State.ctx_setSlot]
  · rw [jumped_frame, e]
    exact ha
  · rw [jumped_frame, e]
    exact hf

/-- Settles O13: the completed context is the jumped one of y, whose levels the target decides. -/
theorem transferring : Obligations.Transferring := by
  intro s s1 x y len v tgt hy hq hs
  obtain ⟨d, a, hz⟩ := complete_jump hy hq len v tgt
  have hf : finish s x len true { val := v, ctl := .jump tgt } s1 = complete s.cur s.mySlot len true false { val := v, ctl := .jump tgt } s1 := by
    unfold finish
    rw [hs, Bool.false_and]
  rw [hf]
  have bounds := (leaveLoops_frame (latched v { y with desched := d, activity := a }) tgt).2
  refine ⟨_, hz, ?_⟩
  rw [jumped_frame]
  refine ⟨rfl, rfl, rfl, rfl, rfl, bounds, fun h0 L hact => ?_, fun h1 => ?_, fun h0 => ?_, fun h0 h1 => ?_⟩
  · rw [leaveLoops_outer (x := latched v { y with desched := d, activity := a }) h0]
    match L with
    | 0 => exact ⟨rfl, rfl⟩
    | 1 =>
      show (if (y.loops.get 1).act then (y.loops.get 1).stop else y.loops.get 1).lc = 0 ∧
        (if (y.loops.get 1).act then (y.loops.get 1).stop else y.loops.get 1).act = false
      rw [if_pos hact]
      exact ⟨rfl, rfl⟩
  · by_cases h0 : leaves (y.loops.get 0) tgt
    · rw [leaveLoops_outer (x := latched v { y with desched := d, activity := a }) h0]
      show (if (y.loops.get 1).act then (y.loops.get 1).stop else y.loops.get 1).lc = 0 ∧
        (if (y.loops.get 1).act then (y.loops.get 1).stop else y.loops.get 1).act = false
      rw [if_pos h1.1]
      exact ⟨rfl, rfl⟩
    · rw [leaveLoops_inner (x := latched v { y with desched := d, activity := a }) h0 h1]
      exact ⟨rfl, rfl⟩
  · by_cases h1 : leaves (y.loops.get 1) tgt
    · rw [leaveLoops_inner (x := latched v { y with desched := d, activity := a }) h0 h1]
      rfl
    · rw [leaveLoops_none (x := latched v { y with desched := d, activity := a }) h0 h1]
      rfl
  · rw [leaveLoops_none (x := latched v { y with desched := d, activity := a }) h0 h1]
    rfl

end Sys2Proof.Machine
end

section
/-!
PROOFS. The modulo registers (O21), and the CSRs: what they read (O22) and what a write leaves (O23).
-/
namespace Sys2Proof.Machine
open Sys2Proof

/-! ## The modulo step (R126) -/

/-- Inside a buffer of non-zero length the step goes round. -/
theorem modStep_inside {m : ModReg} {a : Word} (hl : m.len ≠ 0) (h1 : m.base.toNat ≤ a.toNat) (h2 : a.toNat < m.base.toNat + m.len.toNat)
    (step : Int) :
    ∃ p : Nat, modStep m a step = BitVec.ofNat 64 p ∧ m.base.toNat ≤ p ∧ p < m.base.toNat + m.len.toNat ∧
      ∃ q : Int, (p : Int) = a.toNat + step + q * m.len.toNat := by
  have hn : m.len.toNat ≠ 0 := fun e => hl (BitVec.eq_of_toNat_eq e)
  have hpos : (0 : Int) < m.len.toNat := by omega
  have hr0 := Int.emod_nonneg ((a.toNat - m.base.toNat : Int) + step) hpos.ne'
  have hr1 := Int.emod_lt_of_pos ((a.toNat - m.base.toNat : Int) + step) hpos
  have hdm := Int.emod_add_mul_ediv ((a.toNat - m.base.toNat : Int) + step) m.len.toNat
  refine ⟨(m.base.toNat + ((a.toNat - m.base.toNat : Int) + step) % m.len.toNat).toNat, ?_, by omega, by omega,
    -(((a.toNat - m.base.toNat : Int) + step) / m.len.toNat), ?_⟩
  · unfold modStep
    dsimp only
    rw [if_pos ⟨hn, h1, h2⟩]
    rfl
  · rw [Int.toNat_of_nonneg (by omega), neg_mul, mul_comm (_ / _)]
    omega
/-- Elsewhere, or with length 0, it is a plain addition. -/
theorem modStep_outside {m : ModReg} {a : Word} (h : m.len = 0 ∨ a.toNat < m.base.toNat ∨ m.base.toNat + m.len.toNat ≤ a.toNat)
    (step : Int) : modStep m a step = a + BitVec.ofInt 64 step := by
  refine if_neg fun ⟨hn, h1, h2⟩ => ?_
  rcases h with h | h | h
  · exact hn (by rw [h]; rfl)
  · exact absurd h1 (by omega)
  · exact absurd h2 (by omega)

/-- Settles O21: MSET writes the register, the other two read it, and the step goes round inside the buffer only. -/
theorem moduloRegisters : Obligations.ModuloRegisters := by
  refine ⟨fun s x h d k a c u v hr hg ha hc => ⟨?_, ?_, ?_⟩, fun m a step => ⟨fun hl h1 h2 => modStep_inside hl h1 h2 step, fun h => modStep_outside h step⟩⟩
  · exact dealer_upMe hr hg ((readA_bind hr ha _).trans (readC_bind hr hc _)) 1 false none
  · exact dealer_upMe hr hg (myCtx_bind hr _) 1 false none
  · exact dealer_upMe hr hg (myCtx_bind hr _) 1 false none

/-! ## Reading a CSR (R98 to R103) -/

theorem csrRead_elatch (s : State) (t : TileNo) (c : SlotNo) (x : Ctx) (j : Fin 8) : csrRead s t c x (0x028 + j) = x.elatch.get j := by
  match j with
  | 0 | 1 | 2 | 3 | 4 | 5 | 6 | 7 => rfl
theorem csrRead_dkb (s : State) (t : TileNo) (c : SlotNo) (x : Ctx) (n : Fin 4) :
    csrRead s t c x (0x040 + n) = ((s.tile t).dkb.get n).setWidth 64 := by
  match n with
  | 0 | 1 | 2 | 3 => rfl
theorem csrRead_dkt (s : State) (t : TileNo) (c : SlotNo) (x : Ctx) (n : Fin 4) :
    csrRead s t c x (0x048 + n) = ((s.tile t).dkt.get n).setWidth 64 := by
  match n with
  | 0 | 1 | 2 | 3 => rfl
/-- LOOPST has one flag for each level (R102). -/
theorem csrRead_loopst (s : State) (t : TileNo) (c : SlotNo) (x : Ctx) :
    (csrRead s t c x 0x01E).getLsbD 0 = (x.loops.get 0).act ∧ (csrRead s t c x 0x01E).getLsbD 1 = (x.loops.get 1).act := by
  show (BitVec.ofNat 64 (loopst x)).getLsbD 0 = _ ∧ (BitVec.ofNat 64 (loopst x)).getLsbD 1 = _
  unfold loopst
  cases (x.loops.get 0).act <;> cases (x.loops.get 1).act <;> exact ⟨rfl, rfl⟩
theorem ctxidWord_toNat (x : Ctx) (c : SlotNo) : (ctxidWord x c).toNat = x.num.toNat * 65536 + c := by
  rw [ctxidWord, BitVec.toNat_ofNat]
  exact Nat.mod_eq_of_lt (by omega)

/-- Settles O22: CSRR checks its number, then reads; the listed registers are fields. -/
theorem csrReads : Obligations.CsrReads := by
  refine ⟨fun s x h d r hr hg => ⟨fun hk => ?_, fun hk => ?_⟩, fun s t c x j n => ?_⟩
  · refine dealer_upMe hr hg ((check_bind_ok ?_ _ _ _ s).trans <| (me_bind _ s).trans (getCtx_bind hr _)) 1 false none
    exact bne_iff_ne.mpr hk
  · refine dealer_trap _ _ _ _ _ _ _ _ _ hr hg (check_bind_fail ?_ _ _ _ s)
    rw [hk]
    rfl
  · obtain ⟨act0, act1⟩ := csrRead_loopst s t c x
    refine ⟨?_, ctxidWord_toNat x c, rfl, rfl, rfl, rfl, rfl, rfl, rfl, act0, act1, rfl, rfl, csrRead_elatch s t c x j, rfl,
      csrRead_dkb s t c x n, csrRead_dkt s t c x n, rfl⟩
    exact (BitVec.toNat_ofNat ..).trans (Nat.mod_eq_of_lt (by omega))

/-! ## Writing a CSR (R100, R103, R373): what it leaves in each field -/

/-- Every place of a vector in which one was set. -/
theorem vec_get_set_eq {α : Type} {n : Nat} (v : Vector α n) (i : Nat) (y : α) (h : i < n) (j : Fin n) :
    (v.set i y h).get j = if i = j.val then y else v.get j := Vector.getElem_set ..

section
variable (x : Ctx) (n : Nat) (v : Word)

theorem csrWrite_regs : (csrWrite x n v).regs = x.regs := by
  unfold csrWrite
  split <;> rfl
theorem csrWrite_preds : (csrWrite x n v).preds = x.preds := by
  unfold csrWrite
  split <;> rfl
theorem csrWrite_pc : (csrWrite x n v).pc = x.pc := by
  unfold csrWrite
  split <;> rfl
theorem csrWrite_num : (csrWrite x n v).num = x.num := by
  unfold csrWrite
  split <;> rfl
theorem csrWrite_partw : (csrWrite x n v).partw = x.partw := by
  unfold csrWrite
  split <;> rfl
theorem csrWrite_fpctl : (csrWrite x n v).fpctl = if n = 0x010 then put32 x.fpctl 0xF v else x.fpctl := by
  unfold csrWrite
  split <;> simp_all [setLoop]
theorem csrWrite_nbv : (csrWrite x n v).nbv = if n = 0x011 then put32 x.nbv 1 v else x.nbv := by
  unfold csrWrite
  split <;> simp_all [setLoop]
theorem csrWrite_nancnt : (csrWrite x n v).nancnt = if n = 0x012 then put32 x.nancnt 0xFFFFFFFF v else x.nancnt := by
  unfold csrWrite
  split <;> simp_all [setLoop]
theorem csrWrite_satcnt : (csrWrite x n v).satcnt = if n = 0x013 then put32 x.satcnt 0xFFFFFFFF v else x.satcnt := by
  unfold csrWrite
  split <;> simp_all [setLoop]
theorem csrWrite_errmode : (csrWrite x n v).errmode = if n = 0x014 then put32 x.errmode 1 v else x.errmode := by
  unfold csrWrite
  split <;> simp_all [setLoop]
theorem csrWrite_dropcnt : (csrWrite x n v).dropcnt = if n = 0x015 then put32 x.dropcnt 0xFFFFFFFF v else x.dropcnt := by
  unfold csrWrite
  split <;> simp_all [setLoop]
theorem csrWrite_ecause : (csrWrite x n v).ecause = if n = 0x021 then put32 x.ecause 0x3F v else x.ecause := by
  unfold csrWrite
  split <;> simp_all [setLoop]
theorem csrWrite_chainbase : (csrWrite x n v).chainbase = if n = 0x030 then put32 x.chainbase 0xFFFFC0 v else x.chainbase := by
  unfold csrWrite
  split <;> simp_all [setLoop]
theorem csrWrite_chainlim : (csrWrite x n v).chainlim = if n = 0x031 then put32 x.chainlim 0xFFFFC0 v else x.chainlim := by
  unfold csrWrite
  split <;> simp_all [setLoop]
theorem csrWrite_epc : (csrWrite x n v).epc = if n = 0x020 then wordAlign v else x.epc := by
  unfold csrWrite
  split <;> simp_all [setLoop]
theorem csrWrite_eval : (csrWrite x n v).eval = if n = 0x022 then v else x.eval := by
  unfold csrWrite
  split <;> simp_all [setLoop]
theorem csrWrite_tvec : (csrWrite x n v).tvec = if n = 0x023 then wordAlign v else x.tvec := by
  unfold csrWrite
  split <;> simp_all [setLoop]
theorem csrWrite_dbgctl : (csrWrite x n v).dbgctl = if n = 0x020 then x.dbgctl &&& 0xFFFF000F#32 else x.dbgctl := by
  unfold csrWrite
  split <;> simp_all [setLoop]
/-- The registers of a level stand three apart (R99). -/
theorem csrWrite_loop (L : Fin 2) : (csrWrite x n v).loops.get L =
    { x.loops.get L with
      lc := if n = 0x018 + 3 * L.val then v else (x.loops.get L).lc
      ls := if n = 0x019 + 3 * L.val then wordAlign v else (x.loops.get L).ls
      le := if n = 0x01A + 3 * L.val then wordAlign v else (x.loops.get L).le } := by
  unfold csrWrite
  match L with
  | 0 => split <;> simp_all [setLoop, vec_get_set_eq]
  | 1 => split <;> simp_all [setLoop, vec_get_set_eq]
theorem csrWrite_elatch (j : Fin 8) : (csrWrite x n v).elatch.get j = if n = 0x028 + j.val then v else x.elatch.get j := by
  unfold csrWrite
  match j with
  | 0 | 1 | 2 | 3 | 4 | 5 | 6 | 7 => split <;> simp_all [setLoop, vec_get_set_eq]

end

/-- A write leaves what other registers read, but that one of EPC clears fields of DBGCTL. -/
theorem csrRead_csrWrite_ne (s : State) (t : TileNo) (c : SlotNo) (x : Ctx) (v : Word) {n m : Nat} (hm : m ≠ n) (he : ¬(n = 0x020 ∧ m = 0x050)) :
    csrRead s t c (csrWrite x n v) m = csrRead s t c x m := by
  unfold csrRead
  split <;> simp_all [csrWrite_num, csrWrite_partw, csrWrite_fpctl, csrWrite_nbv, csrWrite_nancnt, csrWrite_satcnt, csrWrite_errmode,
    csrWrite_dropcnt, csrWrite_ecause, csrWrite_chainbase, csrWrite_chainlim, csrWrite_epc, csrWrite_eval, csrWrite_tvec, csrWrite_dbgctl,
    csrWrite_loop, csrWrite_elatch, ctxidWord, loopst, Ne.symm hm]

/-- A 32-bit register reads its writable bits as written, the others as they were (R103). -/
theorem zx_put32 (old mask : BitVec 32) (v : Word) :
    zx (put32 old mask v) = ((((zx old).setWidth 32) &&& ~~~mask) ||| (v.setWidth 32 &&& mask)).setWidth 64 := by
  rw [zx, zx, BitVec.setWidth_setWidth_of_le, BitVec.setWidth_eq]
  · rfl
  · decide
/-- The 64-bit registers without fixed bits take the source whole (R99). -/
theorem csrRead_csrWrite_whole (s : State) (t : TileNo) (c : SlotNo) (x : Ctx) (v : Word) {n : Nat}
    (hn : n ∈ [0x018, 0x01B, 0x022, 0x028, 0x029, 0x02A, 0x02B, 0x02C, 0x02D, 0x02E, 0x02F]) : csrRead s t c (csrWrite x n v) n = v := by
  simp only [List.mem_cons, List.not_mem_nil, or_false] at hn
  rcases hn with rfl | rfl | rfl | rfl | rfl | rfl | rfl | rfl | rfl | rfl | rfl
  · exact congrArg LoopLevel.lc (csrWrite_loop x 0x018 v 0)
  · exact congrArg LoopLevel.lc (csrWrite_loop x 0x01B v 1)
  · rfl
  · exact csrWrite_elatch x 0x028 v 0
  · exact csrWrite_elatch x 0x029 v 1
  · exact csrWrite_elatch x 0x02A v 2
  · exact csrWrite_elatch x 0x02B v 3
  · exact csrWrite_elatch x 0x02C v 4
  · exact csrWrite_elatch x 0x02D v 5
  · exact csrWrite_elatch x 0x02E v 6
  · exact csrWrite_elatch x 0x02F v 7
/-- The addresses take the source with its two low bits clear (R99, R373). -/
theorem csrRead_csrWrite_aligned (s : State) (t : TileNo) (c : SlotNo) (x : Ctx) (v : Word) {n : Nat}
    (hn : n ∈ [0x019, 0x01A, 0x01C, 0x01D, 0x020, 0x023]) : csrRead s t c (csrWrite x n v) n = wordAlign v := by
  simp only [List.mem_cons, List.not_mem_nil, or_false] at hn
  rcases hn with rfl | rfl | rfl | rfl | rfl | rfl
  · exact congrArg LoopLevel.ls (csrWrite_loop x 0x019 v 0)
  · exact congrArg LoopLevel.le (csrWrite_loop x 0x01A v 0)
  · exact congrArg LoopLevel.ls (csrWrite_loop x 0x01C v 1)
  · exact congrArg LoopLevel.le (csrWrite_loop x 0x01D v 1)
  · rfl
  · rfl
/-- A write of EPC clears TGCNT and TLVALID (R373). -/
theorem zx_clear_group (d : BitVec 32) : zx (d &&& 0xFFFF000F#32) = zx d &&& ~~~0xFFF0#64 :=
  calc zx (d &&& 0xFFFF000F#32) = zx d &&& zx 0xFFFF000F#32 := BitVec.setWidth_and
    _ = zx d &&& (zx 0xFFFFFFFF#32 &&& ~~~0xFFF0#64) := rfl
    _ = zx (d &&& 0xFFFFFFFF#32) &&& ~~~0xFFF0#64 := by
      rw [← BitVec.and_assoc]
      exact congrArg (· &&& ~~~0xFFF0#64) BitVec.setWidth_and.symm
    _ = zx d &&& ~~~0xFFF0#64 := by rw [show (0xFFFFFFFF#32) = BitVec.allOnes 32 from rfl, BitVec.and_allOnes]

/-! ## CSRW, CSRS and CSRC -/

section
variable {s : State} {x : Ctx} {h : Hd} {r : BitVec 12} {a : Src} {v : Word} (hr : Ready s x) (hg : x.pred h.guard = true)
include hr

/-- The effect of a CSR write up to its checks (R100). -/
theorem csrModify_checked (f : Word → Word → Word) (hk : csrClass r.toNat = .rw) (hb : boundsActive x r.toNat = false) :
    csrModify r a f s = (readC a (zx r) >>= fun w => (see fun s' => csrRead s' s.cur s.mySlot x r.toNat) >>= fun old =>
      modMe (fun y => csrWrite y r.toNat (f old w)) >>= fun _ => pure {}) s := by
  refine (me_bind _ s).trans <| (getCtx_bind hr _).trans ?_
  rw [hk, hb]
  rfl

include hg

/-- A write of a register that the dealer may write. -/
theorem dealer_csrModify (ha : Reads s x a v) (f : Word → Word → Word) (hk : csrClass r.toNat = .rw) (hb : boundsActive x r.toNat = false) :
    dealer h (csrModify r a f) s 1 true =
      .next (finish s x 1 true {} (s.upMe fun y => csrWrite y r.toNat (f (csrRead s s.cur s.mySlot x r.toNat) v))) :=
  dealer_upMe hr hg ((csrModify_checked hr f hk hb).trans (readC_bind hr ha _)) 1 true none
/-- A write of any other register takes the first cause that applies (R100). -/
theorem dealer_csrModify_trap (f : Word → Word → Word) {c : Cause}
    (hc : (csrClass r.toNat = .unknown ∧ c = .csrUnknown) ∨ (csrClass r.toNat = .priv ∧ c = .priv) ∨
      (csrClass r.toNat = .readonly ∧ c = .csrReadonly) ∨ (csrClass r.toNat = .rw ∧ boundsActive x r.toNat = true ∧ c = .loopBoundsWrite)) :
    dealer h (csrModify r a f) s 1 true = .next (preciseTrap s x c (r.setWidth 64)) := by
  refine dealer_trap _ _ _ _ _ _ _ _ _ hr hg ((me_bind _ s).trans <| (getCtx_bind hr _).trans ?_)
  rcases hc with ⟨hk, rfl⟩ | ⟨hk, rfl⟩ | ⟨hk, rfl⟩ | ⟨hk, hb, rfl⟩
  · rw [hk]
    rfl
  · rw [hk]
    rfl
  · rw [hk]
    rfl
  · rw [hk, hb]
    rfl

end

/-- Settles O23: the checks in their order, then the write, whose fields are read back one by one. -/
theorem csrWrites : Obligations.CsrWrites := by
  refine ⟨fun s x h r a v hr hg ha => ⟨fun hk hb => ?_, fun i hi p hp hc => ?_⟩, fun s t c x n v hk => ?_⟩
  · iterate 3 refine List.forall_mem_cons.mpr ⟨dealer_csrModify hr hg ha _ hk hb, ?_⟩
    exact List.forall_mem_nil _
  · have cause : (csrClass r.toNat = .unknown ∧ p.2 = .csrUnknown) ∨ (csrClass r.toNat = .priv ∧ p.2 = .priv) ∨
        (csrClass r.toNat = .readonly ∧ p.2 = .csrReadonly) ∨
        (csrClass r.toNat = .rw ∧ boundsActive x r.toNat = true ∧ p.2 = .loopBoundsWrite) := by
      simp only [List.mem_cons, List.not_mem_nil, or_false] at hp
      rcases hp with rfl | rfl | rfl | rfl
      · exact .inl ⟨of_decide_eq_true hc, rfl⟩
      · exact .inr (.inl ⟨of_decide_eq_true hc, rfl⟩)
      · exact .inr (.inr (.inl ⟨of_decide_eq_true hc, rfl⟩))
      · obtain ⟨hk, hb⟩ := Bool.and_eq_true_iff.mp hc
        exact .inr (.inr (.inr ⟨of_decide_eq_true hk, hb, rfl⟩))
    revert i
    iterate 3 refine List.forall_mem_cons.mpr ⟨dealer_csrModify_trap hr hg _ cause, ?_⟩
    exact List.forall_mem_nil _
  · refine ⟨csrWrite_regs x n v, csrWrite_preds x n v, csrWrite_pc x n v, fun m _ hm he => csrRead_csrWrite_ne s t c x v hm he, ?_,
      csrRead_csrWrite_whole s t c x v, csrRead_csrWrite_aligned s t c x v, fun p hp hn => ?_⟩
    · rintro rfl
      exact zx_clear_group x.dbgctl
    · subst hn
      clear hk
      revert p
      simp only [List.forall_mem_cons]
      exact ⟨zx_put32 .., zx_put32 .., zx_put32 .., zx_put32 .., zx_put32 .., zx_put32 .., zx_put32 .., zx_put32 .., zx_put32 ..,
        List.forall_mem_nil _⟩

end Sys2Proof.Machine
end

section
/-!
PROOFS. Loads and stores that complete (O25, O26), and those of the own scratchpad (O27).
-/
namespace Sys2Proof.Machine
open Sys2Proof

/-! ## The two forms (R106, R124) -/

section
variable {s s1 s2 : State} {x : Ctx} {h : Hd} {a : Src} {u : Word} {m : Option (Fin 7)} {o : BitVec 4} {n : Nat}

/-- A load whose access delivers bytes completes with their value. -/
theorem loadOp_done {bs : List Byte} {w : Word} (hr : Ready s x) (hg : x.pred h.guard = true) (ha : Reads s x a u)
    (hs : spaceOk (memAddr u m o n) = true) (hm : (memAddr u m o n).toNat % n = 0)
    (hl : Runs (loadAny s.cur s.mySlot x (memAddr u m o n) n 0) s bs s1) {d : Dst} {f : Nat → Word} (hf : f (leNat bs) = w)
    (hp : Pays s x (s1.upMe fun y => (memStep y a m o n).setDst d w) s2) :
    loadOp h d a m o n f s = .next (finish s x 1 h.stop { val := some w } s2) := by
  subst hf
  exact dealer_done _ _ _ _ _ _ _ _ _ _ hr hg
    ((readA_bind hr ha _).trans <| (me_bind _ s).trans <| (getCtx_bind hr _).trans <|
      (bind_ok _ _ _ _ _ (accessChecks_ok hs hm s)).trans <| bind_ok _ _ _ _ _ hl) hp
/-- A store whose access takes its bytes completes. -/
theorem storeOp_done {v : Src} {w : Word} (hr : Ready s x) (hg : x.pred h.guard = true) (ha : Reads s x a u) (hv : Reads s x v w)
    (hs : spaceOk (memAddr u m o n) = true) (hm : (memAddr u m o n).toNat % n = 0)
    (hw : Runs (storeAny s.cur s.mySlot x (memAddr u m o n) (natLe n w.toNat) 0) s () s1)
    (hp : Pays s x (s1.upMe fun y => memStep y a m o n) s2) :
    storeOp h v a m o n s = .next (finish s x 1 h.stop {} s2) :=
  dealer_done _ _ _ _ _ _ _ _ _ _ hr hg
    ((readA_bind hr ha _).trans <| (readC_bind hr hv _).trans <| (me_bind _ s).trans <| (getCtx_bind hr _).trans <|
      (bind_ok _ _ _ _ _ (accessChecks_ok hs hm s)).trans <| bind_ok _ _ _ _ _ hw) hp

end

/-- The low bits of a number, zero-extended. -/
theorem zx_ofNat (n v : Nat) : zx (BitVec.ofNat n v) = BitVec.ofNat 64 (v % 2 ^ n) := by
  apply BitVec.eq_of_toNat_eq
  rw [zx, BitVec.toNat_setWidth, BitVec.toNat_ofNat, BitVec.toNat_ofNat]
/-- A sign-extended field as a number. -/
theorem sx_eq_ofNat {n : Nat} (v : BitVec n) : sx v = BitVec.ofNat 64 (v.signExtend 64).toNat := by
  rw [BitVec.ofNat_toNat, BitVec.setWidth_eq]
  rfl

/-- Settles O25: each load is the one form with its size and extension. -/
theorem loadsComplete : Obligations.LoadsComplete := by
  intro s s1 s2 x h d a m o u bs hr hg ha p hp hs hm hl hpay
  simp only [List.mem_cons, List.not_mem_nil, or_false] at hp
  rcases hp with rfl | rfl | rfl | rfl | rfl | rfl | rfl
  · show execLbu h d a m o s = _; exact loadOp_done hr hg ha hs hm hl (zx_ofNat 8 _) hpay
  · show execLhu h d a m o s = _; exact loadOp_done hr hg ha hs hm hl (zx_ofNat 16 _) hpay
  · show execLwu h d a m o s = _; exact loadOp_done hr hg ha hs hm hl (zx_ofNat 32 _) hpay
  · show execLd h d a m o s = _; exact loadOp_done hr hg ha hs hm hl (rfl) hpay
  · show execLb h d a m o s = _; exact loadOp_done hr hg ha hs hm hl (sx_eq_ofNat _) hpay
  · show execLh h d a m o s = _; exact loadOp_done hr hg ha hs hm hl (sx_eq_ofNat _) hpay
  · show execLw h d a m o s = _; exact loadOp_done hr hg ha hs hm hl (sx_eq_ofNat _) hpay

/-- Settles O26: each store is the one form with its size. -/
theorem storesComplete : Obligations.StoresComplete := by
  intro s s1 s2 x h v a m o u w hr hg ha hv p hp hs hm hw hpay
  simp only [List.mem_cons, List.not_mem_nil, or_false] at hp
  rcases hp with rfl | rfl | rfl | rfl
  · show execSb h v a m o s = _; exact storeOp_done hr hg ha hv hs hm hw hpay
  · show execSh h v a m o s = _; exact storeOp_done hr hg ha hv hs hm hw hpay
  · show execSw h v a m o s = _; exact storeOp_done hr hg ha hv hs hm hw hpay
  · show execSd h v a m o s = _; exact storeOp_done hr hg ha hv hs hm hw hpay

/-! ## The own scratchpad (R105, R106, R318) -/

/-- An address of the own scratchpad: its space, its offset, and its alignment by sizes that divide the start of the space. -/
theorem ownPad_addr {a : Word} (h1 : 0x8000000000000000 ≤ a.toNat) (h2 : a.toNat - 0x8000000000000000 < 16777216) :
    spaceOf a = 8 ∧ offOf a = a.toNat - 0x8000000000000000 ∧ spaceOk a = true := by
  have hs : spaceOf a = 8 := by unfold spaceOf; omega
  have ho : offOf a = a.toNat - 0x8000000000000000 := by unfold offOf; omega
  refine ⟨hs, ho, ?_⟩
  rw [← ho] at h2
  simp [spaceOk, hs, h2]
theorem ownPad_aligned {a : Word} (h1 : 0x8000000000000000 ≤ a.toNat) {n : Nat} (hn : n ∣ 0x8000000000000000)
    (h2 : (a.toNat - 0x8000000000000000) % n = 0) : a.toNat % n = 0 := by
  have hd : n ∣ a.toNat - 0x8000000000000000 + 0x8000000000000000 := Nat.dvd_add (Nat.dvd_of_mod_eq_zero h2) hn
  rw [Nat.sub_add_cancel h1] at hd
  exact Nat.mod_eq_zero_of_dvd hd

/-- An access of n bytes at offset o of the own scratchpad of tile t: inside the context's bytes, outside the deck rings, readable, and with
no release published there. -/
structure OpenPad (s : State) (t : TileNo) (x : Ctx) (a : Word) (o n : Nat) : Prop where
  space  : spaceOf a = 8
  off    : offOf a = o
  inside : o + n ≤ padBytes x.partw
  ring   : hitsDeck (s.tile t) o n = false
  good   : badBytes s (spAt t o) n = 0
  pubs   : pubsOver s (spAt t o) n = []

section
variable {s : State} {t : TileNo} {c : SlotNo} {x : Ctx} {a : Word} {o n : Nat}

/-- Such an access finds its place. -/
theorem OpenPad.resolve (P : OpenPad s t x a o n) (w : Bool) : Machine.resolve t x a n w s = .ok (.pad t o, s) := by
  unfold Machine.resolve
  rw [P.space, P.off]
  refine (check_bind_ok (decide_eq_true P.inside) _ _ _ s).trans <| (bind_ok _ _ _ _ _ (see_run _ s)).trans ?_
  exact check_bind_ok (by rw [P.ring]; rfl) _ _ _ s
/-- A load there delivers the bytes and changes nothing. -/
theorem OpenPad.load (P : OpenPad s t x a o n) (j : Nat) : loadAny t c x a n j s = .ok (cellsRead s.mem (spAt t o) n, s) := by
  have note : noteRead t c (spAt t o) n s = .ok ((), s) := by
    refine (bind_ok _ _ _ _ _ (see_run _ s)).trans ?_
    rw [P.pubs]
    rfl
  have read : eccRead t c x a (spAt t o) n s = .ok (cellsRead s.mem (spAt t o) n, s) := by
    refine (bind_ok _ _ _ _ _ (see_run _ s)).trans ?_
    rw [P.good]
    rfl
  exact (bind_ok _ _ _ _ _ (P.resolve false)).trans <| (bind_ok _ _ _ _ _ rfl).trans <| (bind_ok _ _ _ _ _ note).trans read
/-- A store there writes its bytes, where no release fence came before it. -/
theorem OpenPad.store {bs : List Byte} (P : OpenPad s t x a o n) (hn : bs.length = n) (hf : x.fences = []) (j : Nat) :
    storeAny t c x a bs j s = .ok ((), writeBytes s (spAt t o) bs) := by
  subst hn
  have ecc : eccWrite x a (.pad t o) bs.length s = .ok ((), s) := by
    refine (bind_ok _ _ _ _ _ (see_run _ s)).trans ?_
    rw [P.good, beq_self_eq_true, Bool.or_true]
    rfl
  refine (bind_ok _ _ _ _ _ (P.resolve true)).trans <| (bind_ok _ _ _ _ _ rfl).trans <| (bind_ok _ _ _ _ _ ecc).trans ?_
  refine (bind_ok _ _ _ _ _ (upd_run _ s)).trans ?_
  unfold publish
  rw [hf]
  rfl

end

theorem cellsRead_length (m : List Host.Cell) (n : Nat) : ∀ k, (cellsRead m k n).length = n := by
  induction n with
  | zero => exact fun _ => rfl
  | succ n ih => exact fun k => congrArg (· + 1) (ih (k + 1))
theorem leNat_lt (bs : List Byte) : leNat bs < 256 ^ bs.length := by
  have h := leNat_natLe bs.length (leNat bs)
  rw [natLe_leNat] at h
  rw [h]
  exact Nat.mod_lt _ (by positivity)

section
variable {s : State} {x : Ctx} {h : Hd} {a : Src} {u : Word} {o : BitVec 4} {n off : Nat}

/-- A load from there completes with the number of its bytes. -/
theorem loadOp_openPad (hr : Ready s x) (hg : x.pred h.guard = true) (ha : Reads s x a u) (hs : spaceOk (memAddr u none o n) = true)
    (hm : (memAddr u none o n).toNat % n = 0) (P : OpenPad s s.cur x (memAddr u none o n) off n) (d : Dst) {f : Nat → Word}
    (hf : ∀ v, v < 256 ^ n → f v = BitVec.ofNat 64 v) :
    loadOp h d a none o n f s = .next (finish s x 1 h.stop { val := some (BitVec.ofNat 64 (leNat (cellsRead s.mem (spAt s.cur off) n))) }
      (s.upMe (·.setDst d (BitVec.ofNat 64 (leNat (cellsRead s.mem (spAt s.cur off) n)))))) := by
  have hlt := leNat_lt (cellsRead s.mem (spAt s.cur off) n)
  rw [cellsRead_length] at hlt
  refine loadOp_done hr hg ha hs hm (P.load 0) (hf _ hlt) (pays_free _ _ _ ?_ ?_)
  · rw [State.meterHbm, State.upMe_reqs]
    exact hr.hbm
  · rw [State.meterNet, State.upMe_reqs]
    exact hr.net
/-- A store there completes with its bytes in memory. -/
theorem storeOp_openPad {v : Src} {w : Word} (hr : Ready s x) (hok : s.MemOk) (hg : x.pred h.guard = true) (ha : Reads s x a u)
    (hv : Reads s x v w) (hs : spaceOk (memAddr u none o n) = true) (hm : (memAddr u none o n).toNat % n = 0)
    (P : OpenPad s s.cur x (memAddr u none o n) off n) (hf : x.fences = []) :
    ∃ s1 : State, storeOp h v a none o n s = .next (finish s x 1 h.stop {} s1) ∧ SameOutside (spAt s.cur off) n s s1 ∧
      cellsRead s1.mem (spAt s.cur off) n = natLe n w.toNat ∧ s1.ctx? s.cur s.mySlot = some x := by
  have hlen := natLe_length n w.toNat
  have store := P.store (c := s.mySlot) hlen hf 0
  have hmem : ((writeBytes s (spAt s.cur off) (natLe n w.toNat)).upMe fun y => memStep y a none o n).mem =
      cellsWrite s.mem (spAt s.cur off) (natLe n w.toNat) := State.modCtx_mem ..
  have hreqs : ((writeBytes s (spAt s.cur off) (natLe n w.toNat)).upMe fun y => memStep y a none o n).reqs = s.reqs := State.modCtx_reqs ..
  refine ⟨_, storeOp_done hr hg ha hv hs hm store (pays_free _ _ _ ?_ ?_), fun j hj => ?_, ?_, ?_⟩
  · rw [State.meterHbm, hreqs]
    exact hr.hbm
  · rw [State.meterNet, hreqs]
    exact hr.net
  · rw [hmem]
    exact cellGet_cellsWrite_out _ _ _ _ hok (by rw [hlen]; exact hj)
  · rw [hmem]
    have h := cellsRead_cellsWrite (natLe n w.toNat) s.mem (spAt s.cur off) hok
    rwa [hlen] at h
  · have hx : (writeBytes s (spAt s.cur off) (natLe n w.toNat)).ctx? s.cur s.mySlot = some x := hr.here
    exact (State.ctx_modCtx ..).trans (congrArg (Option.map _) hx)

end

/-- Settles O27: each pair is a load and a store of one size, and an access under these hypotheses is an open one. -/
theorem scratchpadAccesses : Obligations.ScratchpadAccesses := by
  intro s x h d v a o u w hr hok hg ha hv hf p hp
  have low : ∀ n v, v < 2 ^ n → zx (BitVec.ofNat n v) = BitVec.ofNat 64 v := fun n v hv => by rw [zx_ofNat, Nat.mod_eq_of_lt hv]
  obtain ⟨f, hload, hstore, hval, hsize⟩ : ∃ f, exec p.1 s = loadOp h d a none o p.2.2 f s ∧ exec p.2.1 s = storeOp h v a none o p.2.2 s ∧
      (∀ v, v < 256 ^ p.2.2 → f v = BitVec.ofNat 64 v) ∧ 2 ^ 63 % p.2.2 = 0 := by
    simp only [List.mem_cons, List.not_mem_nil, or_false] at hp
    rcases hp with rfl | rfl | rfl | rfl
    · exact ⟨fun v => zx (BitVec.ofNat 8 v), rfl, rfl, low 8, by norm_num⟩
    · exact ⟨fun v => zx (BitVec.ofNat 16 v), rfl, rfl, low 16, by norm_num⟩
    · exact ⟨fun v => zx (BitVec.ofNat 32 v), rfl, rfl, low 32, by norm_num⟩
    · exact ⟨BitVec.ofNat 64, rfl, rfl, fun _ _ => rfl, by norm_num⟩
  intro addr off k h1 h2 h3 h4 h5 h6 h7
  obtain ⟨hspace, hoff, hs⟩ := ownPad_addr h1 h2
  have P : OpenPad s s.cur x addr off p.2.2 := ⟨hspace, hoff, h4, h5, h6, h7⟩
  have hm := ownPad_aligned h1 (Nat.dvd_of_mod_eq_zero hsize) h3
  rw [hload, hstore]
  exact ⟨loadOp_openPad hr hg ha hs hm P d hval, storeOp_openPad hr hok hg ha hv hs hm P hf⟩

end Sys2Proof.Machine
end

section
/-!
PROOFS. The state after reset (O50), and what the resets keep of memory (R449).
-/
namespace Sys2Proof.Machine
open Sys2Proof

/-! ## Every place of a fresh vector (R449) -/

@[simp] theorem vec_get_replicate {α : Type} {n : Nat} (a : α) (i : Fin n) : (Vector.replicate n a).get i = a := by
  show (Vector.replicate n a)[i.val] = a
  rw [Vector.getElem_replicate]

@[simp] theorem State.reset_tile (t : TileNo) : State.reset.tile t = {} := vec_get_replicate _ t
@[simp] theorem State.reset_queue (q : Fin 256) : State.reset.queue q = {} := vec_get_replicate _ q

/-- Settles O50: every table of the reset state holds one fresh entry throughout. -/
theorem resetState : Obligations.ResetState := by
  have hctx : ∀ (t : TileNo) (c : SlotNo), State.reset.ctx? t c = none := fun t c => by
    rw [State.ctx?, State.reset_tile]; exact vec_get_replicate _ c
  have htile : ∀ t : TileNo, (State.reset.tile t).mx.state = .cold ∧ (State.reset.tile t).padJob = none ∧
      (∀ k : Fin 384, ((State.reset.tile t).slotTags.get k).valid = false) ∧
      (∀ k : Fin 192, ((State.reset.tile t).accTags.get k).written = false) := fun t => by
    rw [State.reset_tile]
    exact ⟨rfl, rfl, fun k => by rw [vec_get_replicate], fun k => by rw [vec_get_replicate]⟩
  have hcl : ∀ (c : Fin 48) (k : Fin 32), (State.reset.clusters.get c).grants.get k = none := fun c k => by
    rw [State.reset, vec_get_replicate]; exact vec_get_replicate _ k
  have hdie : ∀ (d : Fin 8) (k : Fin 128), (State.reset.dies.get d).grants.get k = none := fun d k => by
    rw [State.reset, vec_get_replicate]; exact vec_get_replicate _ k
  have hqueue : ∀ q : Fin 256, (State.reset.queue q).en = false ∧ (State.reset.queue q).halt = false ∧ (State.reset.queue q).head = 0 ∧
      (State.reset.queue q).tail = 0 ∧ (State.reset.queue q).malcnt = 0 := fun q => by
    rw [State.reset_queue]; exact ⟨rfl, rfl, rfl, rfl, rfl⟩
  have hlock : ∀ l : Fin 16, (State.reset.hsems.get l).owner = 0 := fun l => by rw [State.reset, vec_get_replicate]
  exact ⟨rfl, rfl, fun _ => rfl, rfl, rfl, rfl, rfl, rfl, rfl, rfl, rfl, rfl, hctx, htile, hcl, hdie, hqueue, hlock⟩

/-! ## Memory after a reset (R449) -/

/-- Leaving cells out by their address: those that stay read as before, the others as unlisted. -/
theorem cellGet_filter (p : Nat → Bool) (m : List Host.Cell) : ∀ lo k, cellsWfFrom lo m = true →
    cellGet (m.filter fun c => p c.1) k = if p k then cellGet m k else unlisted := by
  induction m with
  | nil => intro lo k _; simp [cellGet]
  | cons c r ih =>
    obtain ⟨a, v⟩ := c
    intro lo k h
    simp only [cellsWfFrom, Bool.and_eq_true, decide_eq_true_eq] at h
    obtain ⟨-, hr⟩ := h
    rw [List.filter_cons]
    by_cases hk : k < a + 1
    · have below := cellGet_below (r.filter fun c => p c.1) (a + 1) k (filter_wfFrom _ r _ hr) hk
      by_cases he : a = k
      · subst he
        split
        · simp [cellGet]
        · exact below
      · have hlt : k < a := by omega
        split
        · simp [cellGet, he, hlt]
        · simp [below, cellGet, he, hlt]
    · have hne : a ≠ k := by omega
      have hge : ¬ k < a := by omega
      split <;> simp [cellGet, hne, hge, ih (a + 1) k hr]

/-- What HBM4 holds after a cold reset leaves every byte past it. -/
theorem cellGet_coldFold (l : List (Nat × Byte)) : ∀ m k, Memory.wf m = true → hbmEnd ≤ k →
    cellGet (l.foldl (fun m c => cellSet m (c.1 % hbmEnd) c.2) m) k = cellGet m k := by
  induction l with
  | nil => intros; rfl
  | cons c l ih =>
    intro m k h hk
    have hlt : c.1 % hbmEnd < hbmEnd := Nat.mod_lt _ (by simp [hbmEnd])
    rw [List.foldl_cons, ih _ k (cellSet_wfFrom m 0 _ _ h (Nat.zero_le _)) hk, cellGet_cellSet m 0 _ k _ h, if_neg (by omega)]

theorem cellGet_coldReset {s : State} (h : s.MemOk) (k : Nat) (hk : hbmEnd ≤ k) :
    cellGet (coldReset s).mem k = if 2 ^ 64 ≤ k then cellGet s.mem k else 0 := by
  have hf : cellGet (hostCells s.mem) k = if decide (2 ^ 64 ≤ k) then cellGet s.mem k else unlisted :=
    cellGet_filter (fun k => decide (2 ^ 64 ≤ k)) s.mem 0 k h
  have hc : cellGet (coldReset s).mem k = cellGet (hostCells s.mem) k := cellGet_coldFold _ _ k (h.filter _) hk
  rw [hc, hf]
  simp only [decide_eq_true_eq]
  rfl
theorem cellGet_warmReset {s : State} (h : s.MemOk) (k : Nat) :
    cellGet (warmReset s).mem k = if k < hbmEnd ∨ 2 ^ 64 ≤ k then cellGet s.mem k else 0 := by
  have hf : cellGet (warmReset s).mem k = if isHbm k || decide (2 ^ 64 ≤ k) then cellGet s.mem k else unlisted :=
    cellGet_filter (fun k => isHbm k || decide (2 ^ 64 ≤ k)) s.mem 0 k h
  rw [hf]
  simp only [isHbm, Bool.or_eq_true, decide_eq_true_eq]
  rfl

/-! ## The reset events (R449, R455) -/

theorem execColdReset_eq (s : State) : execColdReset s = .next (coldReset s).settled := agent_done _ _ _ rfl
theorem execWarmReset_eq (s : State) : execWarmReset s = .next (warmReset s).settled := agent_done _ _ _ rfl

/-- A write of RESET: bit 0 of the value chooses cold or warm. -/
theorem execManagementReset_write {s : State} (h : s.input.flag = false) :
    execManagementReset s = .next ((if s.input.value % 2 = 1 then coldReset else warmReset) s).settled := by
  refine agent_done _ _ _ ((bind_ok _ _ _ _ _ (see_run _ s)).trans ?_)
  simp only [h]
  rfl
/-- A read through the management interface. -/
theorem execManagementReset_read {s : State} (h : s.input.flag = true) :
    execManagementReset s = .next ({ s with answer := natLe 8 (mgmtReg s s.input.addr) } : State).settled := by
  refine agent_done _ _ _ ((bind_ok _ _ _ _ _ (see_run _ s)).trans ?_)
  simp only [h]
  rfl

theorem mgmtReg_temp (s : State) (d : Fin 8) : mgmtReg s (0x10 + d.val) = (s.dies.get d).temp := by
  have h : 0x10 ≤ 0x10 + d.val ∧ 0x10 + d.val < 0x18 := by omega
  have hd : (⟨0x10 + d.val - 0x10, by omega⟩ : Fin 8) = d := Fin.ext (by simp)
  rw [mgmtReg, if_neg (by omega), if_neg (by omega), dif_pos h, hd]

end Sys2Proof.Machine
end

section
/-!
PROOFS. Ports, images and the bring-up up to step 5, and the errors that HBM4 finds by itself (O60: R447, R449, R450, R453). All they do beside
their own fields is to append records of the error ring, which is said once as `Recorded`.
-/
namespace Sys2Proof.Machine
open Sys2Proof

theorem upd_bind {α : Type} (f : State → State) (g : Unit → M α) (s : State) : (upd f >>= g) s = g () (f s) := rfl
theorem see_bind {α β : Type} (f : State → α) (g : α → M β) (s : State) : (see f >>= g) s = g (f s) s := rfl
theorem enabled_bind {α : Type} {b : Bool} (h : b = true) (g : Unit → M α) (s : State) : (enabled b >>= g) s = g () s := by
  subst h; rfl

/-! ## Records of the error ring (R451) -/

/-- The states differ in the error ring, its counts and the free values drawn. -/
def Recorded (s t : State) : Prop :=
  ∃ f r c l, t = { s with free := f, errRing := r, errCount := c, lostRec := l }
/-- One record was appended. -/
def RecordedOne (s t : State) : Prop := Recorded s t ∧ t.errCount = (s.errCount + 1) % 4294967296

theorem Recorded.refl (s : State) : Recorded s s := ⟨s.free, s.errRing, s.errCount, s.lostRec, rfl⟩
theorem Recorded.trans {s t u : State} (h : Recorded s t) (k : Recorded t u) : Recorded s u := by
  obtain ⟨_, _, _, _, rfl⟩ := h
  obtain ⟨f, r, c, l, rfl⟩ := k
  exact ⟨f, r, c, l, rfl⟩
theorem Recorded.foldl {α : Type} {f : State → α → State} (h : ∀ s a, Recorded s (f s a)) (l : List α) (s : State) :
    Recorded s (l.foldl f s) := by
  induction l generalizing s with
  | nil => exact .refl s
  | cons a l ih => exact (h s a).trans (ih _)

theorem State.addErr_recorded (s : State) (r : ErrRec) : RecordedOne s (s.addErr r) := by
  unfold State.addErr
  dsimp only
  split
  · exact ⟨⟨_, _, _, _, rfl⟩, rfl⟩
  · exact ⟨⟨_, _, _, _, rfl⟩, rfl⟩
theorem noteBad_recorded (t : TileNo) (job pa n : Nat) (s : State) : Recorded s (noteBad t job pa n s) := by
  unfold noteBad
  dsimp only
  split
  · exact .refl s
  · exact (State.addErr_recorded s _).1

/-- The effect completes and does nothing but append records. -/
def Records (m : M Unit) : Prop := ∀ s, ∃ t, m s = .ok ((), t) ∧ Recorded s t
/-- The effect completes and appends one record. -/
def RecordsOne (m : M Unit) : Prop := ∀ s, ∃ t, m s = .ok ((), t) ∧ RecordedOne s t

theorem RecordsOne.records {m : M Unit} (h : RecordsOne m) : Records m := fun s =>
  have ⟨t, ht, hr⟩ := h s
  ⟨t, ht, hr.1⟩
theorem recordPhys_records (kind src addr : Nat) : RecordsOne (recordPhys kind src addr) := fun s => by
  obtain ⟨⟨f, r, c, l, e⟩, hc⟩ := State.addErr_recorded { s with free := s.free + 1 }
    (physRec { s with free := s.free + 1 } kind src addr (Config.freeNat s.free))
  exact ⟨_, rfl, ⟨f, r, c, l, e⟩, hc⟩
theorem Records.forM {α : Type} (l : List α) {f : α → M Unit} (h : ∀ a, Records (f a)) : Records (l.forM f) := by
  induction l with
  | nil => exact fun s => ⟨s, rfl, .refl s⟩
  | cons a l ih =>
    intro s
    obtain ⟨t, ht, hs⟩ := h a s
    obtain ⟨u, hu, hk⟩ := ih t
    exact ⟨u, (bind_ok _ _ _ _ _ ht).trans hu, hs.trans hk⟩

/-! ## PORT_RESET (R449) -/

theorem freeLock_owner (p : Nat) (l : HsemLock) : (freeLock p l).owner = if l.owner.val = p + 1 then 0 else l.owner := by
  unfold freeLock
  split <;> rfl

theorem execPortReset_next (s : State) (p : Fin 2) (h : s.input.who = p.val) :
    ∃ t, execPortReset s = .next t ∧ t.mem = s.mem ∧ t.ports.get ⟨16 + p.val, by omega⟩ = {} ∧ t.hsems = s.hsems.map (freeLock p.val) := by
  have hp : s.input.who < 2 := by omega
  obtain ⟨t, ht, hr⟩ := Records.forM ((List.finRange 16).filter fun l => (s.hsems.get l).owner.val == s.input.who + 1)
    (fun l => (recordPhys_records 9 (fernenSrc s.input.who) l.val).records)
    { s with ports := s.ports.set (16 + s.input.who) {}, hsems := s.hsems.map (freeLock s.input.who) }
  refine ⟨t.settled, agent_done _ s t ((see_bind _ _ s).trans ?_), ?_⟩
  · rw [dif_pos hp]
    exact ht
  · obtain ⟨f, r, c, l, rfl⟩ := hr
    refine ⟨rfl, ?_, congrArg (fun n => s.hsems.map (freeLock n)) h⟩
    have he : (⟨16 + p.val, by omega⟩ : Fin 18) = ⟨16 + s.input.who, by omega⟩ := Fin.ext (by simp [h])
    rw [he]
    exact vec_get_set s.ports ⟨16 + s.input.who, by omega⟩ {} (by omega)

/-! ## Firmware images and the bring-up (R447, R450) -/

/-- The image is accepted and meant for the processor. -/
def imageFor (s : State) (p : Fin 49) (img : List Byte) : Bool := imageOk s img && (Config.imageTarget img % 2 == 0) == (p == 0)

theorem loadProc_starts {s : State} {p : Fin 49} {img : List Byte} (h : imageFor s p img = true) :
    loadProc p img s = .ok ((), { s with procs := s.procs.set p (startProc p img) }) := by
  exact (see_bind _ _ s).trans (congrFun (if_pos h) s)
theorem loadProc_refuses {s : State} {p : Fin 49} {img : List Byte} (h : imageFor s p img = false) :
    ∃ t, loadProc p img s = .ok ((), t) ∧ Recorded s t := by
  obtain ⟨t, ht, hr⟩ := (recordPhys_records 8 0xF0 0).records s
  refine ⟨t, (see_bind _ _ s).trans (Eq.trans ?_ ht), hr⟩
  exact congrFun (if_neg (by rw [← imageFor, h]; decide)) s

/-- The leaf image goes to the leaf controllers of a list of clusters: each is started with it, or none is. -/
theorem loadLeaves_run (img : List Byte) (l : List (Fin 48)) (s : State) :
    ∃ t, (l.forM fun c => loadProc c.succ img) s = .ok ((), t) ∧ t.procs.get 0 = s.procs.get 0 ∧
      (imageOk s img = true → Config.imageTarget img % 2 = 1 →
        ∀ c : Fin 48, t.procs.get c.succ = if c ∈ l then startProc c.succ img else s.procs.get c.succ) ∧
      (imageOk s img = false → t.procs = s.procs) := by
  induction l generalizing s with
  | nil => exact ⟨s, rfl, rfl, fun _ _ c => by simp, fun _ => rfl⟩
  | cons a l ih =>
    cases hi : imageFor s a.succ img with
    | true =>
      obtain ⟨t, ht, h0, hall, hnone⟩ := ih { s with procs := s.procs.set a.succ (startProc a.succ img) }
      have hok : imageOk s img = true := ((Bool.and_eq_true _ _).mp hi).1
      refine ⟨t, (bind_ok _ _ _ _ _ (loadProc_starts hi)).trans ht, h0.trans ?_, fun hk ho c => (hall hk ho c).trans ?_, fun hk => ?_⟩
      · exact vec_get_set_ne s.procs a.succ 0 _ a.succ.isLt (Fin.succ_ne_zero a)
      · by_cases hc : c = a
        · subst hc
          rw [if_pos List.mem_cons_self]
          exact ite_eq_left_iff.mpr fun _ => vec_get_set s.procs c.succ _ c.succ.isLt
        · have hne : a.succ ≠ c.succ := fun e => hc (Fin.succ_inj.mp e).symm
          simp only [List.mem_cons, hc, false_or]
          rw [vec_get_set_ne s.procs a.succ c.succ _ a.succ.isLt hne]
      · rw [hok] at hk; cases hk
    | false =>
      obtain ⟨u, hu, f, r, c, k, rfl⟩ := loadProc_refuses hi
      obtain ⟨t, ht, h0, hall, hnone⟩ := ih { s with free := f, errRing := r, errCount := c, lostRec := k }
      refine ⟨t, (bind_ok _ _ _ _ _ hu).trans ht, h0, fun hk ho => ?_, hnone⟩
      · have : imageFor s a.succ img = true := by
          have hz : (a.succ == (0 : Fin 49)) = false := beq_false_of_ne (Fin.succ_ne_zero a)
          simp [imageFor, hk, ho, hz]
        rw [hi] at this; cases this

theorem execBankerBoot_starts {s : State} (hb : s.boot = 0) (hf : s.bootFail = false) (hok : imageOk s s.input.bytes = true)
    (ht : Config.imageTarget s.input.bytes % 2 = 0) :
    execBankerBoot s = .next ({ s with boot := 2, procs := s.procs.set 0 (startProc 0 s.input.bytes) } : State).settled := by
  refine agent_done _ _ _ ((see_bind _ _ s).trans ((enabled_bind (by simp [hb, hf]) _ s).trans ((see_bind _ _ s).trans ((see_bind _ _ s).trans ?_))))
  rw [if_pos (by simp [hok, ht])]
  rfl
theorem execBankerBoot_refuses {s : State} (hb : s.boot = 0) (hf : s.bootFail = false) (hok : imageOk s s.input.bytes = false) :
    ∃ t, execBankerBoot s = .next t ∧ t.bootFail = true ∧ t.boot = 0 ∧ t.procs = s.procs := by
  obtain ⟨t, ht, hr⟩ := (recordPhys_records 8 0xF0 0).records { s with bootFail := true }
  refine ⟨t.settled, agent_done _ s t ((see_bind _ _ s).trans ((enabled_bind (by simp [hb, hf]) _ s).trans
    ((see_bind _ _ s).trans ((see_bind _ _ s).trans ?_)))), ?_⟩
  · rw [if_neg (by simp [hok])]
    exact ht
  · obtain ⟨f, r, c, l, rfl⟩ := hr
    exact ⟨rfl, hb, rfl⟩

theorem execHbmTraining_next {s : State} (hb : s.boot = 2) :
    ∃ t, execHbmTraining s = .next t ∧ t.boot = 3 ∧ ∀ k, k ∈ t.fenced ↔ k ∈ s.input.nums ∧ k < 16 := by
  obtain ⟨t, ht, -⟩ := Records.forM (s.input.nums.filter (· < 16)).dedup (fun k => (recordPhys_records 5 (0xE0 + k) 0).records) s
  refine ⟨State.settled { t with boot := 3, fenced := (s.input.nums.filter (· < 16)).dedup },
    agent_done _ s _ ((see_bind _ _ s).trans ((enabled_bind (by simp [hb]) _ s).trans
      ((see_bind _ _ s).trans (bind_ok _ _ _ _ _ ht)))), rfl, fun k => ?_⟩
  show k ∈ (s.input.nums.filter (· < 16)).dedup ↔ _
  rw [List.mem_dedup, List.mem_filter, decide_eq_true_eq]

theorem execLeafBoot_next {s : State} (hb : s.boot = 3) :
    ∃ t, execLeafBoot s = .next t ∧ t.boot = 5 ∧ t.domain = s.input.value % 128 ∧ t.procs.get 0 = s.procs.get 0 ∧
      (imageOk s s.input.bytes = true → Config.imageTarget s.input.bytes % 2 = 1 →
        ∀ c : Fin 48, t.procs.get c.succ = startProc c.succ s.input.bytes) ∧
      (imageOk s s.input.bytes = false → t.procs = s.procs) := by
  obtain ⟨t, ht, h0, hall, hnone⟩ := loadLeaves_run s.input.bytes (List.finRange 48) (clearPools s)
  refine ⟨State.settled { t with boot := 5, domain := s.input.value % 128, routes := routesOf s.input.nums, ports := Vector.replicate 18 {} },
    agent_done _ s _ ((see_bind _ _ s).trans ((enabled_bind (by simp [hb]) _ s).trans
      ((see_bind _ _ s).trans ((upd_bind _ _ s).trans (bind_ok _ _ _ _ _ ht))))), rfl, rfl, h0, fun hk ho c => ?_, hnone⟩
  exact (hall hk ho c).trans (if_pos (List.mem_finRange c))

/-! ## Errors that the scrubber finds (R381, R453) -/

/-- The word at the address of an uncorrectable error is unreadable from now on. -/
def markWord (i : Input) (s : State) : State :=
  if i.flag then { s with poison := if s.poison.contains (codeWord i.addr) then s.poison else codeWord i.addr :: s.poison } else s

theorem agent_congr {m n : M Unit} {s : State} (h : m s = n s) : agent m s = agent n s := by simp only [agent, h]

/-- An error in HBM4 or in a store outside the caches marks its word, and HBM4 counts and records it. -/
theorem execErrorCheckAndScrub_word {s : State} (h1 : s.input.size ≠ 1) (h2 : s.input.size ≠ 2) (ha : s.input.addr < mailAt 0) :
    execErrorCheckAndScrub s = agent (do
      upd (markWord s.input)
      if isHbm s.input.addr then do
        upd (bumpCounter (stackNo s.input.addr) (if s.input.flag then 1 else 0))
        recordPhys (if s.input.flag then 1 else 0) (0xE0 + (stackNo s.input.addr).val) (if s.input.flag then codeWord s.input.addr else s.input.addr)
      else pure ()) s := by
  refine agent_congr ((see_bind _ _ s).trans ?_)
  rw [if_neg (by simp [h1, h2])]
  refine (enabled_bind (decide_eq_true ha) _ s).trans ?_
  by_cases hf : s.input.flag = true
  · have hw : markWord s.input = fun u => { u with
        poison := if u.poison.contains (codeWord s.input.addr) then u.poison else codeWord s.input.addr :: u.poison } := funext fun u => if_pos hf
    rw [if_pos hf, hw]
  · have hw : markWord s.input = id := funext fun u => if_neg hf
    rw [if_neg hf, hw]
    rfl

theorem mem_markWord {i : Input} (h : i.flag = true) (s : State) : codeWord i.addr ∈ (markWord i s).poison := by
  unfold markWord
  rw [if_pos h]
  dsimp only
  split
  · simpa using ‹s.poison.contains (codeWord i.addr) = true›
  · exact List.mem_cons_self

/-- An error of HBM4 makes one record; its word is unreadable where it cannot be corrected. -/
theorem execErrorCheckAndScrub_hbm {s : State} (h1 : s.input.size ≠ 1) (h2 : s.input.size ≠ 2) (ha : isHbm s.input.addr = true) :
    ∃ t, execErrorCheckAndScrub s = .next t ∧ t.mem = s.mem ∧ t.poison = (markWord s.input s).poison ∧
      t.errCount = (s.errCount + 1) % 4294967296 := by
  have hlt : s.input.addr < mailAt 0 := by
    have hb : s.input.addr < hbmEnd := of_decide_eq_true ha
    unfold hbmEnd at hb
    unfold mailAt
    omega
  obtain ⟨t, ht, hr, hc⟩ := recordPhys_records (if s.input.flag then 1 else 0) (0xE0 + (stackNo s.input.addr).val)
    (if s.input.flag then codeWord s.input.addr else s.input.addr)
    (bumpCounter (stackNo s.input.addr) (if s.input.flag then 1 else 0) (markWord s.input s))
  have hm : (markWord s.input s).mem = s.mem := by unfold markWord; split <;> rfl
  have he : (markWord s.input s).errCount = s.errCount := by unfold markWord; split <;> rfl
  rw [execErrorCheckAndScrub_word h1 h2 hlt]
  refine ⟨t.settled, agent_done _ s t ((upd_bind _ _ s).trans ((congrFun (if_pos ha) _).trans ht)), ?_, ?_, ?_⟩
  · obtain ⟨f, r, c, l, rfl⟩ := hr
    exact hm
  · obtain ⟨f, r, c, l, rfl⟩ := hr
    rfl
  · rw [← he]
    exact hc

/-- An uncorrectable error of a pool or of a store of a tile makes its word unreadable and no record. -/
theorem execErrorCheckAndScrub_store {s : State} (h1 : s.input.size ≠ 1) (h2 : s.input.size ≠ 2) (ha : isHbm s.input.addr = false)
    (hm : s.input.addr < mailAt 0) (hf : s.input.flag = true) (hp : codeWord s.input.addr ∉ s.poison) :
    execErrorCheckAndScrub s = .next ({ s with poison := codeWord s.input.addr :: s.poison } : State).settled := by
  have hw : markWord s.input s = { s with poison := codeWord s.input.addr :: s.poison } := by
    rw [markWord, if_pos hf, if_neg (by simpa using hp)]
  rw [execErrorCheckAndScrub_word h1 h2 hm, ← hw]
  exact agent_done _ s _ ((upd_bind _ _ s).trans (congrFun (if_neg (by simp [ha])) _))

/-- An error of a cache of a tile. -/
theorem execErrorCheckAndScrub_cache {s : State} {t : TileNo} (h : s.input.size = 1 ∨ s.input.size = 2) (ht : s.input.who = t.val) :
    execErrorCheckAndScrub s =
      .next (if s.input.flag then s.setTile t (markCache (s.input.size == 2) s.input.addr (s.tile t)) else s).settled := by
  have hw : s.input.who < 384 := by omega
  have he : (⟨s.input.who, hw⟩ : TileNo) = t := Fin.ext ht
  refine agent_done _ s _ ((see_bind _ _ s).trans ?_)
  rw [if_pos h, dif_pos hw, he]
  rfl

end Sys2Proof.Machine
end

section
/-!
PROOFS. Power modes, the frame tick, heat and READY, and with them the settlement of O60 (R101, R329, R430, R450, R452).
-/
namespace Sys2Proof.Machine
open Sys2Proof

/-! ## What a change of mode leaves as it is (R420, R430) -/

/-- Two states that agree in all that a change of mode leaves and that a tick decides by: the memory, the request, the bring-up, the frame, and what
the sensors last reported. -/
structure KeptByMode (s t : State) : Prop where
  mem : t.mem = s.mem
  req : t.req = s.req
  ready : t.ready = s.ready
  boot : t.boot = s.boot
  input : t.input = s.input
  frame : t.frame = s.frame
  frameT : t.frameT = s.frameT
  slips : t.slips = s.slips
  tripped : t.tripped = s.tripped
  flow : t.flow = s.flow
  temp : ∀ d : Fin 8, (t.dies.get d).temp = (s.dies.get d).temp

theorem KeptByMode.trans {s t u : State} (h : KeptByMode s t) (k : KeptByMode t u) : KeptByMode s u where
  mem := k.mem.trans h.mem
  req := k.req.trans h.req
  ready := k.ready.trans h.ready
  boot := k.boot.trans h.boot
  input := k.input.trans h.input
  frame := k.frame.trans h.frame
  frameT := k.frameT.trans h.frameT
  slips := k.slips.trans h.slips
  tripped := k.tripped.trans h.tripped
  flow := k.flow.trans h.flow
  temp d := (k.temp d).trans (h.temp d)

/-- What stays when the dies keep their temperatures and only fields that are not listed change. -/
theorem KeptByMode.of_dies (s : State) {ds : Vector Die 8} (h : ∀ d, (ds.get d).temp = (s.dies.get d).temp)
    (tiles : Vector Tile 384) (queues : Vector Queue 256) (limit mode : PowerMode) (coolAt : Option Nat) (pend : Bool) (time : Nat)
    (f : Nat) (r : List ErrRec) (c l : Nat) :
    KeptByMode s { s with dies := ds, tiles, queues, limit, mode, coolAt, pend, time, free := f, errRing := r, errCount := c, lostRec := l } :=
  ⟨rfl, rfl, rfl, rfl, rfl, rfl, rfl, rfl, rfl, rfl, h⟩

theorem Recorded.kept {s t : State} (h : Recorded s t) : KeptByMode s t := by
  obtain ⟨f, r, c, l, rfl⟩ := h
  exact .of_dies s (fun _ => rfl) s.tiles s.queues s.limit s.mode s.coolAt s.pend s.time f r c l
theorem Recorded.limit {s t : State} (h : Recorded s t) : t.limit = s.limit := by obtain ⟨_, _, _, _, rfl⟩ := h; rfl
theorem Recorded.mode {s t : State} (h : Recorded s t) : t.mode = s.mode := by obtain ⟨_, _, _, _, rfl⟩ := h; rfl
theorem Recorded.pend {s t : State} (h : Recorded s t) : t.pend = s.pend := by obtain ⟨_, _, _, _, rfl⟩ := h; rfl
theorem Recorded.hot {s t : State} (h : Recorded s t) : t.hot = s.hot := by obtain ⟨_, _, _, _, rfl⟩ := h; rfl
theorem Recorded.time {s t : State} (h : Recorded s t) : t.time = s.time := by obtain ⟨_, _, _, _, rfl⟩ := h; rfl

/-! ## The refills that are due leave the temperatures -/

/-- The states differ in their dies, which keep their temperatures. -/
def DiesSettled (s t : State) : Prop := ∃ ds, t = { s with dies := ds } ∧ ∀ e, (ds.get e).temp = (s.dies.get e).temp

theorem DiesSettled.refl (s : State) : DiesSettled s s := ⟨s.dies, rfl, fun _ => rfl⟩
theorem DiesSettled.trans {s t u : State} (h : DiesSettled s t) (k : DiesSettled t u) : DiesSettled s u := by
  obtain ⟨ds, rfl, hd⟩ := h
  obtain ⟨es, rfl, he⟩ := k
  exact ⟨es, rfl, fun e => (he e).trans (hd e)⟩
theorem DiesSettled.set (s : State) (d : Fin 8) {k : Die} (h : k.temp = (s.dies.get d).temp) :
    DiesSettled s { s with dies := s.dies.set d k } := by
  refine ⟨_, rfl, fun e => ?_⟩
  by_cases he : d = e
  · subst he
    exact (congrArg Die.temp (vec_get_set s.dies d k d.isLt)).trans h
  · rw [vec_get_set_ne s.dies d e k d.isLt he]
theorem refills_settled (d : Fin 8) (n : Nat) (s : State) : DiesSettled s (refills d n s) := by
  induction n generalizing s with
  | zero => exact .refl s
  | succ n ih => exact (DiesSettled.set s d (k := refillDie s d) rfl).trans (ih _)
theorem settleDie_settled (d : Fin 8) (s : State) : DiesSettled s (settleDie d s) := by
  unfold settleDie
  dsimp only
  split
  · exact .refl s
  · exact (refills_settled d _ s).trans (.set _ d rfl)
theorem settleDies_settled (s : State) : DiesSettled s (settleDies s) := by
  suffices h : ∀ (l : List (Fin 8)) (s : State), DiesSettled s (l.foldl (fun s d => settleDie d s) s) from h _ s
  intro l
  induction l with
  | nil => exact .refl
  | cons d l ih => exact fun s => (settleDie_settled d s).trans (ih _)

/-! ## The banker sets a mode (R430) -/

/-- The state with another mode in force, before the change is recorded. -/
def withMode (m : PowerMode) (stop : Nat) (s : State) : State :=
  { settleDies s with
    mode := m, pend := false, time := (settleDies s).time + (if m = s.mode then 0 else min stop twentyUs)
    dies := (settleDies s).dies.map fun (d : Die) => { d with
      poolHbm := Config.poolUnits m.rank false, poolNet := Config.poolUnits m.rank true } }

theorem withMode_kept (m : PowerMode) (stop : Nat) (s : State) :
    KeptByMode s (withMode m stop s) ∧ (withMode m stop s).limit = s.limit := by
  obtain ⟨ds, e, ht⟩ := settleDies_settled s
  unfold withMode
  rw [e]
  exact ⟨⟨rfl, rfl, rfl, rfl, rfl, rfl, rfl, rfl, rfl, rfl, fun d => by rw [vec_get_map]; exact ht d⟩, rfl⟩

/-- The banker sets a mode; a change is recorded. -/
theorem applyMode_run (m : PowerMode) (stop : Nat) (s : State) :
    ∃ t, applyMode m stop s = .ok ((), t) ∧ Recorded (withMode m stop s) t := by
  have hrun : applyMode m stop s = (if m = s.mode then pure () else do
      let k ← drawNat
      recordPhys (k % 11) 0xF0 0 : M Unit) (withMode m stop s) := rfl
  rw [hrun]
  split
  · exact ⟨_, rfl, .refl _⟩
  · obtain ⟨t, ht, hr⟩ := (recordPhys_records (Config.freeNat (withMode m stop s).free % 11) 0xF0 0).records
      { withMode m stop s with free := (withMode m stop s).free + 1 }
    exact ⟨t, ht, Recorded.trans ⟨_, _, _, _, rfl⟩ hr⟩

theorem recordThermal_records (kind : Nat) : RecordsOne (recordThermal kind) := fun s => recordPhys_records kind _ 0 s

/-- A step down that is due: LIMIT falls below the mode in force, and the mode with it. -/
theorem stepDown_run (s : State) :
    ∃ t, stepDown s = .ok ((), t) ∧ KeptByMode s t ∧ t.limit = s.mode.slower ∧ t.mode = slowerOf s.req s.mode.slower := by
  obtain ⟨u, hu, hr, -⟩ := recordThermal_records 6 { s with limit := s.mode.slower, coolAt := none }
  have h0 : KeptByMode s { s with limit := s.mode.slower, coolAt := none } :=
    ⟨rfl, rfl, rfl, rfl, rfl, rfl, rfl, rfl, rfl, rfl, fun _ => rfl⟩
  have hk : KeptByMode s u := h0.trans hr.kept
  have hl : u.limit = s.mode.slower := hr.limit
  have hm : u.mode = s.mode := hr.mode
  have hrun : stepDown s =
      (if slowerOf u.req u.limit = u.mode then pure () else applyMode (slowerOf u.req u.limit) u.input.value : M Unit) u :=
    (upd_bind _ _ s).trans ((bind_ok _ _ _ _ _ hu).trans (see_bind _ _ u))
  rw [hrun, hk.req, hl]
  split
  · exact ⟨u, rfl, hk, hl, ‹slowerOf s.req s.mode.slower = u.mode›.symm⟩
  · obtain ⟨t, ht, hrt⟩ := applyMode_run (slowerOf s.req s.mode.slower) u.input.value u
    obtain ⟨hkm, hlm⟩ := withMode_kept (slowerOf s.req s.mode.slower) u.input.value u
    exact ⟨t, ht, hk.trans (hkm.trans hrt.kept), hrt.limit.trans (hlm.trans hl), hrt.mode⟩

/-! ## The sensors and the trip (R452) -/

theorem State.above_iff (s : State) (n : Nat) : s.above n = true ↔ ∃ d : Fin 8, n < (s.dies.get d).temp := by
  rw [State.above, List.any_eq_true]
  simp only [Vector.mem_toList_iff, decide_eq_true_eq]
  constructor
  · rintro ⟨k, hk, hn⟩
    obtain ⟨i, hi, rfl⟩ := Vector.getElem_of_mem hk
    exact ⟨⟨i, hi⟩, hn⟩
  · rintro ⟨d, hn⟩
    exact ⟨_, Vector.getElem_mem d.isLt, hn⟩
theorem State.above_congr {s t : State} (h : ∀ d : Fin 8, (t.dies.get d).temp = (s.dies.get d).temp) (n : Nat) : t.above n = s.above n := by
  rw [Bool.eq_iff_iff, State.above_iff, State.above_iff]
  simp only [h]

theorem takeTemps_temp (l : List Nat) (s : State) (d : Fin 8) :
    ((takeTemps l s).dies.get d).temp = l[d.val]?.getD (s.dies.get d).temp := by
  show ((takeTemps l s).dies[d.val]).temp = _
  simp [takeTemps]

/-- The trip that the readings of a tick are due. -/
def tripsAt (s : State) : Bool := (takeTemps s.input.nums s).above 110 || decide ((takeTemps s.input.nums s).flow < 20)

/-- A change of mode does not change what the readings decide. -/
theorem KeptByMode.tripDue {s t : State} (h : KeptByMode s t) : (noteTemps (takeTemps t.input.nums t)).tripDue = tripsAt s := by
  have ha : (noteTemps (takeTemps t.input.nums t)).above 110 = (takeTemps s.input.nums s).above 110 :=
    State.above_congr (s := takeTemps s.input.nums s) (t := noteTemps (takeTemps t.input.nums t)) (fun d => by
      show ((takeTemps t.input.nums t).dies.get d).temp = _
      rw [takeTemps_temp, takeTemps_temp, h.input, h.temp]) 110
  have hf : (noteTemps (takeTemps t.input.nums t)).flow = (takeTemps s.input.nums s).flow := by
    show t.input.nums[9]?.getD t.flow = s.input.nums[9]?.getD s.flow
    rw [h.input, h.flow]
  rw [State.tripDue, ha, hf]
  rfl

/-- The clocks stop, and the trip is recorded. -/
theorem tripNow_run (s : State) : ∃ t, tripNow s = .ok ((), t) ∧ RecordedOne { s with tripped := true } t := by
  have hrun : tripNow s = (if s.above 110 then recordThermal 7 else recordPhys 7 0xF0 0 : M Unit) { s with tripped := true } := rfl
  rw [hrun]
  split
  · exact recordThermal_records 7 _
  · exact recordPhys_records 7 0xF0 0 _

/-! ## The frame tick (R101, R329) -/

theorem noteBudgets_rest (s : State) : ∃ tiles queues, noteBudgets s = { s with tiles, queues } := by
  have h : ∀ (l : List (Fin 256)) (s : State), Alike s (l.foldl (fun s q => s.settleQueue q) s) := by
    intro l
    induction l with
    | nil => exact fun _ => rfl
    | cons q l ih => exact fun s => (Alike.settleQueue q s).trans (ih _)
  unfold noteBudgets
  rw [(h (List.finRange 256) s).rest]
  exact ⟨_, _, rfl⟩
theorem settlePend_rest (s : State) : ∃ p, settlePend s = { s with pend := p } := by
  unfold settlePend
  split
  · exact ⟨_, rfl⟩
  · exact ⟨s.pend, rfl⟩
theorem recordSlip_recorded (j : Nat) (s : State) : Recorded s (recordSlip j s) := (State.addErr_recorded s _).1

/-- What a frame tick has done when it is over. -/
structure TickDone (s t : State) : Prop where
  frame : t.frame = s.frame + 1
  slips : t.slips = []
  frameT : t.frameT = s.time
  mem : t.mem = s.mem
  req : t.req = s.req
  ready : t.ready = s.ready
  boot : t.boot = s.boot
  input : t.input = s.input
  hot : s.hot = true → t.limit = s.mode.slower ∧ t.mode = slowerOf s.req s.mode.slower
  cool : s.hot = false → t.limit = s.limit ∧ t.mode = s.mode
  tripped : t.tripped = (s.tripped || tripsAt s)

/-- The tick up to its step down: the records of what held it back, the new frame, the periods that are over. -/
def tickBegun (s : State) : State := noteBudgets (advanceFrame (s.slips.foldl (fun s j => recordSlip j s) s))

theorem tickBegun_kept (s : State) :
    KeptByMode { s with frame := s.frame + 1, frameT := s.time, slips := [] } (tickBegun s) ∧
    (tickBegun s).limit = s.limit ∧ (tickBegun s).mode = s.mode ∧ (tickBegun s).hot = s.hot := by
  obtain ⟨f, r, c, l, e⟩ := Recorded.foldl (fun s j => recordSlip_recorded j s) s.slips s
  obtain ⟨tiles, queues, e2⟩ := noteBudgets_rest (advanceFrame (s.slips.foldl (fun s j => recordSlip j s) s))
  unfold tickBegun
  rw [e2, e]
  exact ⟨⟨rfl, rfl, rfl, rfl, rfl, rfl, rfl, rfl, rfl, rfl, fun _ => rfl⟩, rfl, rfl, rfl⟩

/-- The step down of a tick, where one is due. -/
theorem stepDownIfHot_run (s : State) :
    ∃ t, (if s.hot then stepDown else pure () : M Unit) s = .ok ((), t) ∧ KeptByMode s t ∧
      (s.hot = true → t.limit = s.mode.slower ∧ t.mode = slowerOf s.req s.mode.slower) ∧
      (s.hot = false → t.limit = s.limit ∧ t.mode = s.mode) := by
  cases hh : s.hot with
  | true =>
    obtain ⟨t, ht, hk, hl⟩ := stepDown_run s
    exact ⟨t, ht, hk, fun _ => hl, nofun⟩
  | false => exact ⟨s, rfl, (Recorded.refl s).kept, nofun, fun _ => ⟨rfl, rfl⟩⟩

/-- The trip of a tick, where one is due. -/
theorem tripIfDue_run (s : State) :
    ∃ t, (if s.tripDue then tripNow else pure () : M Unit) s = .ok ((), t) ∧ Recorded { s with tripped := s.tripped || s.tripDue } t := by
  cases hd : s.tripDue with
  | true =>
    obtain ⟨t, ht, hr, -⟩ := tripNow_run s
    exact ⟨t, ht, by rw [Bool.or_true]; exact hr⟩
  | false => exact ⟨s, rfl, by rw [Bool.or_false]; exact .refl s⟩

/-- The step goes on alike after a branch taken and after one left out. -/
theorem branch_then {α : Type} {b : Bool} {m : M Unit} {k : Unit → M α} {s u : State}
    (h : (if b then m else pure () : M Unit) s = .ok ((), u)) : (if b then m >>= k else k () : M α) s = k () u := by
  cases b with
  | true => exact bind_ok _ _ _ _ _ h
  | false => cases h; rfl

theorem noteHolders_recorded (s : State) : Recorded s (noteHolders s) := by
  unfold noteHolders
  refine Recorded.foldl (fun s j => Recorded.foldl (fun s va => ?_) (Job.pushed j) s) _ s
  split
  · exact .refl s
  · exact (noteBad_recorded ..).trans (noteBad_recorded ..)

theorem frameTick_run (s : State) : ∃ t, frameTick s = .ok ((), t) ∧ TickDone s t := by
  obtain ⟨hk0, hl0, hm0, hh0⟩ := tickBegun_kept s
  obtain ⟨u, hu, hk1, hhot, hcool⟩ := stepDownIfHot_run (tickBegun s)
  obtain ⟨p, hp⟩ := settlePend_rest u
  have hk : KeptByMode { s with frame := s.frame + 1, frameT := s.time, slips := [] } { u with pend := p } := by
    have h2 : KeptByMode u { u with pend := p } := ⟨rfl, rfl, rfl, rfl, rfl, rfl, rfl, rfl, rfl, rfl, fun _ => rfl⟩
    exact hk0.trans (hk1.trans h2)
  obtain ⟨t, ht, hr⟩ := tripIfDue_run (noteTemps (takeTemps u.input.nums { u with pend := p }))
  have hreq : (tickBegun s).req = s.req := hk0.req
  have htrip : u.tripped = s.tripped := hk.tripped
  have hdue : (noteTemps (takeTemps u.input.nums { u with pend := p })).tripDue = tripsAt s := hk.tripDue
  rw [hh0, hm0, hreq] at hhot
  rw [hh0, hl0, hm0] at hcool
  refine ⟨t, ?_, ?_⟩
  · refine (upd_bind _ _ s).trans ((upd_bind _ _ _).trans ((upd_bind _ _ _).trans ((see_bind _ _ _).trans ?_)))
    refine (branch_then hu).trans ((upd_bind _ _ u).trans ?_)
    rw [hp]
    exact ht
  · obtain ⟨f, r, c, l, rfl⟩ := hr
    refine ⟨hk.frame, hk.slips, hk.frameT, hk.mem, hk.req, hk.ready, hk.boot, hk.input, hhot, hcool, ?_⟩
    rw [← hdue, ← htrip]
    rfl

/-- A tick that timetabled records hold back. -/
theorem execFrameTick_held {s : State} (hd : s.frameAt + 2048 ≤ s.now) (hh : holders s ≠ []) :
    execFrameTick s = .next ({ noteHolders s with slips := (s.slips ++ holders s).dedup } : State).settled := by
  refine agent_done _ s _ ((see_bind _ _ s).trans ((enabled_bind (decide_eq_true hd) _ s).trans
    ((see_bind _ _ s).trans ((upd_bind _ _ s).trans ?_))))
  rw [if_pos hh, upd_run]
  obtain ⟨f, r, c, l, e⟩ := noteHolders_recorded s
  have hs : (noteHolders s).slips = s.slips := by rw [e]
  rw [hs]
/-- The readings decide alike after a change of mode. -/
theorem KeptByMode.tripsAt {s t : State} (h : KeptByMode s t) : tripsAt t = tripsAt s :=
  ((Recorded.refl t).kept.tripDue).symm.trans h.tripDue
/-- A tick after records does what it does before them. -/
theorem TickDone.of_recorded {s u t : State} (h : Recorded s u) (k : TickDone u t) : TickDone s t := by
  have htrip := h.kept.tripsAt
  obtain ⟨f, r, c, l, rfl⟩ := h
  obtain ⟨hframe, hslips, hframeT, hmem, hreq, hready, hboot, hinput, hhot, hcool, htripped⟩ := k
  exact ⟨hframe, hslips, hframeT, hmem, hreq, hready, hboot, hinput, hhot, hcool, by rw [← htrip]; exact htripped⟩

/-- A tick that nothing holds back. -/
theorem execFrameTick_advances {s : State} (hd : s.frameAt + 2048 ≤ s.now) (hh : holders s = []) :
    ∃ t, execFrameTick s = .next (State.settled t) ∧ TickDone s t := by
  obtain ⟨t, ht, hk⟩ := frameTick_run (noteHolders s)
  refine ⟨t, agent_done _ s _ ((see_bind _ _ s).trans ((enabled_bind (decide_eq_true hd) _ s).trans
    ((see_bind _ _ s).trans ((upd_bind _ _ s).trans ?_)))), hk.of_recorded (noteHolders_recorded s)⟩
  rw [if_neg (not_not.mpr hh)]
  exact ht

/-! ## READY (R450) -/

/-- The tick that comes with the last step of the bring-up, where it is due. -/
theorem tickIfDue_run (due : Bool) (s : State) :
    ∃ t, (if due then frameTick else pure () : M Unit) s = .ok ((), t) ∧ t.mem = s.mem ∧ t.ready = s.ready ∧ t.boot = s.boot ∧
      t.tripped = (s.tripped || (due && tripsAt s)) ∧ t.limit = if due = true ∧ s.hot = true then s.mode.slower else s.limit := by
  cases due with
  | true =>
    obtain ⟨t, ht, hk⟩ := frameTick_run s
    refine ⟨t, ht, hk.mem, hk.ready, hk.boot, hk.tripped, ?_⟩
    cases hh : s.hot with
    | true => exact (hk.hot hh).1.trans (if_pos ⟨rfl, rfl⟩).symm
    | false => exact (hk.cool hh).1.trans (if_neg nofun).symm
  | false => exact ⟨s, rfl, rfl, rfl, rfl, (Bool.or_false _).symm, (if_neg nofun).symm⟩

/-- The end of the bring-up after the tick: READY in the fastest mode that LIMIT allows, or the clocks have stopped. -/
def endBringup : M Unit := do
  if ← see (·.tripped) then pure ()
  else do
    upd fun s => { s with boot := 6, ready := true, req := .full }
    applyMode (slowerOf .full (← see (·.limit))) (← see (·.input.value))

theorem execBringupReady_eq {s : State} (hb : s.boot = 5) (hw : s.frameAt + 2048 ≤ s.now ∨ (s.frame ≠ 0 ∧ s.frameT = s.time)) :
    ∃ t, execBringupReady s = agent (fun _ => endBringup t) s ∧ t.mem = s.mem ∧ t.ready = s.ready ∧ t.boot = s.boot ∧
      t.tripped = (s.tripped || (decide (s.frameAt + 2048 ≤ s.now) && tripsAt s)) ∧
      t.limit = if decide (s.frameAt + 2048 ≤ s.now) = true ∧ s.hot = true then s.mode.slower else s.limit := by
  obtain ⟨t, ht, hk⟩ := tickIfDue_run (decide (s.frameAt + 2048 ≤ s.now)) s
  refine ⟨t, agent_congr ((see_bind _ _ s).trans ((enabled_bind (by simp [hb]) _ s).trans ((see_bind _ _ s).trans ((see_bind _ _ s).trans
    ((enabled_bind ?_ _ s).trans (branch_then ht)))))), hk⟩
  rw [Bool.or_eq_true, Bool.and_eq_true, bne_iff_ne, beq_iff_eq]
  exact hw.imp_left decide_eq_true

theorem endBringup_ready {t : State} (h : t.tripped = false) :
    ∃ u, endBringup t = .ok ((), u) ∧ u.boot = 6 ∧ u.ready = true ∧ u.mode = slowerOf .full t.limit ∧ u.limit = t.limit ∧
      u.req = .full ∧ u.pend = false ∧ u.mem = t.mem := by
  obtain ⟨u, hu, hr⟩ := applyMode_run (slowerOf .full t.limit) t.input.value { t with boot := 6, ready := true, req := .full }
  obtain ⟨hk, hl⟩ := withMode_kept (slowerOf .full t.limit) t.input.value { t with boot := 6, ready := true, req := .full }
  have hku := hk.trans hr.kept
  refine ⟨u, ?_, hku.boot, hku.ready, hr.mode, hr.limit.trans hl, hku.req, hr.pend, hku.mem⟩
  refine (see_bind _ _ t).trans ?_
  rw [h]
  exact hu
theorem endBringup_tripped {t : State} (h : t.tripped = true) : endBringup t = .ok ((), t) := by
  refine (see_bind _ _ t).trans ?_
  rw [h]
  rfl

/-! ## Thermal steps and trips (R452) -/

theorem execThermalStepUp_next {s : State} {n : Nat} (hc : s.coolAt = some n) (hl : s.limit ≠ .full) (ht : n + 198000000000 ≤ s.time) :
    ∃ t, execThermalStepUp s = .next t ∧ t.limit = s.limit.faster ∧ t.pend = (s.pend || slowerOf s.req s.limit.faster != s.mode) ∧
      t.errCount = (s.errCount + 1) % 4294967296 := by
  obtain ⟨t, hrun, hr, he⟩ := recordThermal_records 6
    { s with limit := s.limit.faster, pend := s.pend || slowerOf s.req s.limit.faster != s.mode, coolAt := some s.time }
  refine ⟨t.settled, agent_done _ s t ((see_bind _ _ s).trans ((bind_ok _ _ _ _ _ (congrFun (congrArg present hc) s)).trans
    ((enabled_bind ?_ _ s).trans ((upd_bind _ _ s).trans hrun)))), hr.limit, hr.pend, he⟩
  rw [Bool.and_eq_true, bne_iff_ne, decide_eq_true_eq]
  exact ⟨hl, ht⟩

theorem execThermalTrip_next {s : State} (h : (takeTemps s.input.nums s).above 110 = true ∨ s.input.value < 20) :
    ∃ t, execThermalTrip s = .next t ∧ t.tripped = true ∧ t.mem = s.mem ∧ t.errCount = (s.errCount + 1) % 4294967296 := by
  obtain ⟨t, hrun, hr, he⟩ := tripNow_run { takeTemps s.input.nums s with flow := s.input.value }
  refine ⟨t.settled, agent_done _ s t ((see_bind _ _ s).trans ((upd_bind _ _ s).trans ((upd_bind _ _ _).trans ((see_bind _ _ _).trans
    ((enabled_bind ?_ _ _).trans hrun))))), hr.kept.tripped, hr.kept.mem, he⟩
  rw [State.tripDue, Bool.or_eq_true, decide_eq_true_eq]
  exact h

/-! ## Stopped clocks (R452) -/

theorem step_dealer_tripped {s : State} {t : TileNo} {r : List Turn} (h : s.tripped = true) (ha : s.agenda = .dealer t :: r) :
    step s = .fault .clocksStopped := by
  rw [step, ha]
  exact if_pos h
theorem step_event_tripped {s : State} {i : Instr} {inp : Input} {r : List Turn} (h : s.tripped = true) (ha : s.agenda = .event i inp :: r) :
    step s = if isReset i then exec i { s with agenda := r, input := inp } else .fault .clocksStopped := by
  rw [step, ha]
  dsimp only
  rw [h]
  cases isReset i <;> rfl

/-! ## The obligation -/

/-- What a read through the management interface leaves. -/
theorem managementReset_reads {s : State} (h : s.input.flag = true) :
    ∃ v, exec .managementReset s = .next ({ s with answer := natLe 8 v } : State).settled ∧
      (s.input.addr = 0 → v = 0x7400) ∧ (s.input.addr = 1 → v = statusWord s) ∧
      (∀ d : Fin 8, s.input.addr = 0x10 + d.val → v = (s.dies.get d).temp) ∧ (s.input.addr = 0x20 → v = s.power) ∧
      (s.input.addr = 0x21 → v = s.flow) := by
  refine ⟨mgmtReg s s.input.addr, execManagementReset_read h, fun ha => ?_, fun ha => ?_, fun d ha => ?_, fun ha => ?_, fun ha => ?_⟩
  · rw [ha]; rfl
  · rw [ha]; rfl
  · rw [ha, mgmtReg_temp]
  · rw [ha]; rfl
  · rw [ha]; rfl

/-- The last step of the bring-up, where the tick it needs has come and where its readings trip the clocks. -/
theorem bringupReady_ends {s : State} (hb : s.boot = 5)
    (hw : decide (s.frameAt + 2048 ≤ s.now) = true ∨ (s.frame ≠ 0 ∧ s.frameT = s.time)) :
    (let due := decide (s.frameAt + 2048 ≤ s.now)
     let trips := s.tripped || (due && tripsAt s)
     let limit := if due = true ∧ s.hot = true then s.mode.slower else s.limit
     (trips = false → ∃ s', exec .bringupReady s = .next s' ∧ s'.boot = 6 ∧ s'.ready = true ∧ s'.mode = slowerOf .full limit ∧
       s'.limit = limit ∧ s'.req = .full ∧ s'.pend = false ∧ s'.mem = s.mem) ∧
     (trips = true → ∃ s', exec .bringupReady s = .next s' ∧ s'.boot = 5 ∧ s'.ready = s.ready ∧ s'.tripped = true ∧ s'.mem = s.mem)) := by
  obtain ⟨t, hrun, hmem, hready, hboot, htrip, hlimit⟩ := execBringupReady_eq hb (hw.imp_left of_decide_eq_true)
  refine ⟨fun h => ?_, fun h => ?_⟩
  · obtain ⟨u, hu, h1, h2, h3, h4, h5, h6, h7⟩ := endBringup_ready (htrip.trans h)
    rw [hlimit] at h3 h4
    exact ⟨u.settled, hrun.trans (agent_done _ s u hu), h1, h2, h3, h4, h5, h6, h7.trans hmem⟩
  · exact ⟨t.settled, hrun.trans (agent_done _ s t (endBringup_tripped (htrip.trans h))), hboot.trans hb, hready, htrip.trans h, hmem⟩

/-- Settles O60: each event by the lemma that runs it. -/
theorem resetsAndTicks : Obligations.ResetsAndTicks := by
  refine ⟨fun s => ⟨execColdReset_eq s, execWarmReset_eq s, fun hf hv => ?_, fun hf hv => ?_, managementReset_reads,
      rfl, fun hm => ⟨?_, ?_⟩, rfl, fun hm => ⟨?_, ?_⟩⟩,
    fun s p hp => ?_,
    fun s => ⟨fun hb hf => ⟨execBankerBoot_starts hb hf, execBankerBoot_refuses hb hf⟩, execHbmTraining_next, execLeafBoot_next,
      fun hb => bringupReady_ends hb⟩,
    fun s hd => ⟨execFrameTick_held hd, fun hh => ?_⟩,
    fun s n => execThermalStepUp_next, fun s => execThermalTrip_next,
    fun s t i inp r h => ⟨step_dealer_tripped h, fun ha hi => ?_, fun ha hi => ?_⟩,
    fun s h1 h2 ha => ⟨fun hf => ?_, fun hf => ?_⟩, fun s => execErrorCheckAndScrub_store,
    fun s t h ht => ⟨fun hf => ?_, fun hf => ?_⟩⟩
  · exact (execManagementReset_write hf).trans (by rw [if_pos hv])
  · exact (execManagementReset_write hf).trans (by rw [if_neg (by omega)])
  · intro k hk
    rw [cellGet_coldReset hm k (by unfold hbmEnd; omega), if_pos hk]
  · intro k hk hlt
    rw [cellGet_coldReset hm k hk, if_neg (by omega)]
  · intro k hk
    rw [cellGet_warmReset hm k, if_pos (.inl hk)]
  · intro k hk hlt
    rw [cellGet_warmReset hm k, if_neg (by omega)]
  · obtain ⟨t, hrun, hmem, hport, hlocks⟩ := execPortReset_next s p hp
    exact ⟨t, hrun, hmem, hport, fun l => by rw [hlocks, vec_get_map, freeLock_owner]⟩
  · obtain ⟨t, hrun, hk⟩ := execFrameTick_advances hd hh
    refine ⟨t.settled, hrun, hk.frame, hk.slips, hk.frameT, hk.mem, hk.hot, hk.cool, hk.tripped.trans ?_⟩
    rw [tripsAt, Bool.or_assoc]
  · rw [step_event_tripped h ha, hi]
    rfl
  · rw [step_event_tripped h ha, hi]
    rfl
  · obtain ⟨t, hrun, hmem, hp, he⟩ := execErrorCheckAndScrub_hbm h1 h2 ha
    exact ⟨t, hrun, hmem, hp.trans (by rw [markWord, if_neg (by simp [hf])]), he⟩
  · obtain ⟨t, hrun, -, hp, he⟩ := execErrorCheckAndScrub_hbm h1 h2 ha
    exact ⟨t, hrun, hp ▸ mem_markWord hf s, he⟩
  · exact (execErrorCheckAndScrub_cache h ht).trans (by rw [if_neg (by simp [hf])])
  · exact (execErrorCheckAndScrub_cache h ht).trans (by rw [if_pos hf])

end Sys2Proof.Machine
end

section
/-!
PROOFS. The pool instructions where their checks pass (O31), and what clearing a run does to bytes and tags (O33).
-/
namespace Sys2Proof.Machine
open Sys2Proof

/-! ## Pool instructions (R144 to R147) -/

@[simp] theorem clearRun_reqs (t : TileNo) (r : Run) (s : State) : (clearRun t r s).reqs = s.reqs := by
  unfold clearRun
  dsimp only
  split <;> rfl

section
variable {s : State} {x : Ctx} {h : Hd} {a : Src} {u : Word} (hr : Ready s x) (hg : x.pred h.guard = true) (ha : Reads s x a u)
include hr hg

/-- An instruction that makes no request has nothing to pay. -/
theorem dealer_reqs {eff : M Eff} {e : Eff} {s1 : State} (he : eff s = .ok (e, s1)) (hq : s1.reqs = s.reqs) (len : Nat) (ends : Bool)
    (dst : Option Dst) : dealer h eff s len ends dst = .next (finish s x len (ends || h.stop) e s1) := by
  refine dealer_done _ _ _ _ _ _ _ _ _ _ hr hg he (pays_free _ _ _ ?_ ?_)
  · rw [State.meterHbm, hq]
    exact hr.hbm
  · rw [State.meterNet, hq]
    exact hr.net

theorem execPartw_next (d : Dst) : execPartw h d s =
    .next (finish s x 1 true { val := some (x.partw.setWidth 64) } (s.upMe (·.setDst d (x.partw.setWidth 64)))) :=
  dealer_upMe hr hg (myCtx_bind hr _) 1 true none

include ha

theorem execClaim_next (hc : runFits u false false = true) (hi : runInside x u)
    (hy : ∀ y ∈ residents (s.tile s.cur), runTouched y (runOf u) = false) : execClaim h a s =
      .next (finish s x 1 true {} (clearRun s.cur (runOf u) (s.upMe fun y =>
        if (runOf u).acc then { y with heldTiles := y.heldTiles ||| runMask 192 (runOf u) }
        else { y with heldSlots := y.heldSlots ||| runMask 384 (runOf u) }))) := by
  refine dealer_reqs hr hg ?_ ?_ 1 true none
  · exact (readA_bind hr ha _).trans <| (me_bind _ s).trans <| (getCtx_bind hr _).trans <| (runChecks_bind_ok hc hi _ s).trans <|
      (bind_ok _ _ _ _ _ (see_run _ s)).trans <| check_bind_ok (by simpa using hy) _ _ _ s
  · rw [clearRun_reqs, State.upMe_reqs]

theorem execRelease_next (hc : runFits u false false = true) (hi : runInside x u) (hh : runHeld x (runOf u) = true)
    (hn : runNamed x (runOf u) = false) : execRelease h a s = .next (finish s x 1 true {} (s.upMe (dropRun (runOf u)))) := by
  refine dealer_upMe hr hg ?_ 1 true none
  refine (readA_bind hr ha _).trans <| (myCtx_bind hr _).trans <| (runChecks_bind_ok hc hi _ s).trans <| (check_bind_ok hh _ _ _ s).trans ?_
  rw [hn]
  rfl

theorem execAclr_next (hc : runFits u false true = true) (hi : runInside x u) (hh : runHeld x (runOf u) = true)
    (hn : runNamed x (runOf u) = false) : execAclr h a s = .next (finish s x 1 true {} (clearRun s.cur (runOf u) s)) :=
  dealer_reqs hr hg ((readA_bind hr ha _).trans <| (me_bind _ s).trans <| (getCtx_bind hr _).trans <| (runChecks_bind_ok hc hi _ s).trans <|
    (check_bind_ok hh _ _ _ s).trans <| check_bind_ok (by rw [hn]; rfl) _ _ _ s) (clearRun_reqs ..) 1 true none

theorem execHstat_next (hc : runFits u true false = true) (hi : runInside x u) (d : Dst) : execHstat h d a s =
    .next (finish s x 1 true { val := some (hstatWord (s.tile s.cur) x s.mySlot (runOf u)) }
      (s.upMe (·.setDst d (hstatWord (s.tile s.cur) x s.mySlot (runOf u))))) :=
  dealer_upMe hr hg ((readA_bind hr ha _).trans <| (me_bind _ s).trans <| (getCtx_bind hr _).trans <| (runChecks_bind_ok hc hi _ s).trans <|
    bind_ok _ _ _ _ _ (see_run _ s)) 1 true none

end

/-- Settles O31: each instruction follows its checks through. -/
theorem poolInstructions : Obligations.PoolInstructions := by
  intro s x h d a u hr hg ha
  refine ⟨execPartw_next hr hg d, ?_⟩
  intro r hrest hcount hi
  have fits : ∀ {one tiles}, (one = true → r.count = 1) → (tiles = true → r.acc = true) → runFits u one tiles = true := by
    rintro (_ | _) (_ | _) h1 h2 <;> simp_all [runFits, r]
  have any : runFits u false false = true := fits nofun nofun
  refine ⟨execClaim_next hr hg ha any hi, fun hh hn => ⟨execRelease_next hr hg ha any hi hh hn, fun hacc => ?_⟩, fun hone => ?_⟩
  · exact execAclr_next hr hg ha (fits nofun fun _ => hacc) hi hh hn
  · exact execHstat_next hr hg ha (fits (fun _ => hone) nofun) hi d

/-! ## Clearing a run (R136, R137, R145) -/

theorem cellGet_zeroCells {m : List Host.Cell} (h : Memory.wf m = true) (k n j : Nat) :
    cellGet (zeroCells m k n) j = if k ≤ j ∧ j < k + n then 0 else cellGet m j := by
  refine (cellGet_filter (fun a => decide (a < k) || decide (k + n ≤ a)) m 0 j h).trans ?_
  by_cases hj : k ≤ j ∧ j < k + n
  · rw [if_neg (by simp; omega), if_pos hj]
    rfl
  · rw [if_pos (by simp; omega), if_neg hj]

/-- The places of a run set to one value, one after another. -/
def setRun {α : Type} {n : Nat} (r : Run) (a : α) (v : Vector α n) : Vector α n :=
  (List.range' r.first r.count).foldl (fun v u => if h : u < n then v.set u a else v) v

/-- The places of the run hold the value, the others are as they were. -/
theorem vec_get_setRun {α : Type} {n : Nat} (r : Run) (a : α) (v : Vector α n) (u : Fin n) :
    (setRun r a v).get u = if r.first ≤ u ∧ u.val < r.first + r.count then a else v.get u := by
  unfold setRun
  generalize r.first = i, r.count = k
  induction k generalizing v i with
  | zero => rw [if_neg (by omega)]; rfl
  | succ k ih =>
    rw [List.range'_succ, List.foldl_cons, ih]
    by_cases hi : i = u
    · subst hi
      rw [if_neg (by omega), if_pos (by omega), dif_pos u.isLt, vec_get_set]
    · have same : (if h : i < n then v.set i a h else v).get u = v.get u := by
        split
        · next h => exact vec_get_set_ne v ⟨i, h⟩ u a h fun e => hi (congrArg Fin.val e)
        · rfl
      rw [same]
      exact ite_congr (propext (by omega)) (fun _ => rfl) fun _ => rfl

section
variable {s : State} {t : TileNo} {r : Run}

theorem clearRun_tiles (ha : r.acc = true) : clearRun t r s =
    zeroBytes (s.setTile t { s.tile t with accTags := setRun r {} (s.tile t).accTags }) (accAt t r.first 0) (16384 * r.count) := by
  unfold clearRun
  rw [if_pos ha]
  rfl
theorem clearRun_slots (ha : r.acc = false) : clearRun t r s =
    zeroBytes (zeroBytes (s.setTile t { s.tile t with slotTags := setRun r {} (s.tile t).slotTags }) (handAt t r.first 0) (8192 * r.count))
      (compAt t r.first 0) (2048 * (min (r.first + r.count) 192 - min r.first 192)) := by
  unfold clearRun
  rw [if_neg (by simp [ha])]
  rfl

@[simp] theorem zeroBytes_tile (s : State) (k n : Nat) (t : TileNo) : (zeroBytes s k n).tile t = s.tile t := rfl
@[simp] theorem zeroBytes_mem (s : State) (k n : Nat) : (zeroBytes s k n).mem = zeroCells s.mem k n := rfl

theorem accTags_clearRun (ha : r.acc = true) (u : Fin 192) : ((clearRun t r s).tile t).accTags.get u =
    if r.first ≤ u ∧ u.val < r.first + r.count then {} else (s.tile t).accTags.get u := by
  rw [clearRun_tiles ha, zeroBytes_tile, State.tile_setTile]
  exact vec_get_setRun ..
theorem slotTags_clearRun (ha : r.acc = false) (u : Fin 384) : ((clearRun t r s).tile t).slotTags.get u =
    if r.first ≤ u ∧ u.val < r.first + r.count then {} else (s.tile t).slotTags.get u := by
  rw [clearRun_slots ha, zeroBytes_tile, zeroBytes_tile, State.tile_setTile]
  exact vec_get_setRun ..

theorem cellGet_clearRun_tiles (hm : s.MemOk) (ha : r.acc = true) (k : Nat) : cellGet (clearRun t r s).mem k =
    if accAt t r.first 0 ≤ k ∧ k < accAt t r.first 0 + 16384 * r.count then 0 else cellGet s.mem k := by
  rw [clearRun_tiles ha, zeroBytes_mem, State.setTile_mem, cellGet_zeroCells hm]
/-- Slots and companions are two ranges. -/
theorem cellGet_clearRun_slots (hm : s.MemOk) (ha : r.acc = false) (k : Nat) : cellGet (clearRun t r s).mem k =
    if (handAt t r.first 0 ≤ k ∧ k < handAt t r.first 0 + 8192 * r.count) ∨
      (compAt t r.first 0 ≤ k ∧ k < compAt t r.first 0 + 2048 * (min (r.first + r.count) 192 - min r.first 192)) then 0
    else cellGet s.mem k := by
  rw [clearRun_slots ha, zeroBytes_mem, cellGet_zeroCells (State.MemOk.zeroBytes (hm.setTile _ _) _ _), zeroBytes_mem, State.setTile_mem,
    cellGet_zeroCells hm, ← ite_or]
  exact if_congr or_comm rfl rfl

end

/-- Settles O33: the run's bytes and tags, of tiles and of slots. -/
theorem clearedUnits : Obligations.ClearedUnits := fun _ _ _ hm =>
  ⟨fun ha _ => ⟨cellGet_clearRun_tiles hm ha, accTags_clearRun ha⟩, fun ha _ => ⟨cellGet_clearRun_slots hm ha, slotTags_clearRun ha⟩⟩

end Sys2Proof.Machine
end

section
/-!
PROOFS. The steps that complete a dealer's wait (O37): each finds its wait, acts, and leaves the waiting context with the dealer, whose instruction
`finishWait` then completes.
-/
namespace Sys2Proof.Machine
open Sys2Proof

/-! ## A context that has the dealer (R321) -/

/-- Slot c of tile t holds a context, and that context has the dealer. -/
structure Dealt (t : TileNo) (c : SlotNo) (s : State) : Prop where
  here : (s.ctx? t c).isSome
  cur  : (s.tile t).cur = c

section
variable {t : TileNo} {c : SlotNo} {s : State}

/-- The slots and the choice of the dealer are all that matters. -/
theorem Dealt.of_tile {u : State} (h : Dealt t c s) (hs : (u.tile t).slots = (s.tile t).slots) (hc : (u.tile t).cur = (s.tile t).cur) :
    Dealt t c u := ⟨by rw [State.ctx?, hs]; exact h.here, hc.trans h.cur⟩
theorem Dealt.setTile (h : Dealt t c s) {x : Tile} (hs : x.slots = (s.tile t).slots) (hc : x.cur = (s.tile t).cur) :
    Dealt t c (s.setTile t x) := h.of_tile (by rw [State.tile_setTile, hs]) (by rw [State.tile_setTile, hc])
theorem State.modCtx_tile_cur (s : State) (t : TileNo) (c : SlotNo) (f : Ctx → Ctx) : ((s.modCtx t c f).tile t).cur = (s.tile t).cur := by
  unfold State.modCtx State.setSlot
  split
  · rw [State.tile_setTile]
  · rfl
theorem Dealt.modCtx (h : Dealt t c s) (f : Ctx → Ctx) : Dealt t c (s.modCtx t c f) :=
  ⟨by rw [State.ctx_modCtx, Option.isSome_map]; exact h.here, (State.modCtx_tile_cur ..).trans h.cur⟩

/-- An acquire of the dealer's (R342, R354). -/
def acquireAt (t : TileNo) (ps : List Stamp) (s : State) : State :=
  (mergeAt t ps s).setTile t { (mergeAt t ps s).tile t with dcache := [] }
theorem dealerAcquire_run (t : TileNo) (ps : List Stamp) (s : State) : dealerAcquire t ps s = .ok ((), acquireAt t ps s) := rfl
theorem Dealt.acquireAt (h : Dealt t c s) (ps : List Stamp) : Dealt t c (acquireAt t ps s) := by
  have hm : Dealt t c (mergeAt t ps s) := h.setTile rfl rfl
  exact hm.setTile rfl rfl

/-- An endpoint is no part of the slots. -/
theorem State.modEp_tile (s : State) (n : Nat) (e : Fin 8) (f : Endpoint → Endpoint) (t : TileNo) :
    ∃ eps, (s.modEp n e f).tile t = { s.tile t with eps := eps } := by
  unfold State.modEp
  split
  · next h =>
    by_cases ht : (⟨n, h⟩ : TileNo) = t
    · subst ht
      rw [State.tile_setTile]
      exact ⟨_, rfl⟩
    · rw [State.tile_setTile_ne _ _ _ _ ht]
      exact ⟨_, rfl⟩
  · exact ⟨_, rfl⟩
theorem Dealt.modEp (h : Dealt t c s) (n : Nat) (e : Fin 8) (f : Endpoint → Endpoint) : Dealt t c (s.modEp n e f) := by
  obtain ⟨eps, he⟩ := s.modEp_tile n e f t
  exact h.of_tile (by rw [he]) (by rw [he])
theorem Dealt.deliverFlight (h : Dealt t c s) (u : TileNo) (e : Fin 8) (p : Endpoint) : Dealt t c (deliverFlight u e p s) := by
  unfold Machine.deliverFlight
  split
  · exact h
  · next b _ =>
    refine Dealt.of_tile (s := if _ then s.modEp b.tile b.ep _ else s) ?_ rfl rfl
    split
    · exact h.modEp ..
    · exact h
theorem Dealt.unbindEp (h : Dealt t c s) (u : TileNo) (e : Fin 8) : Dealt t c (unbindEp u e s) := by
  unfold Machine.unbindEp
  dsimp only
  split
  · exact h
  · refine Dealt.modEp (Dealt.of_tile (h.deliverFlight u e (s.ep u e)) ?_ ?_) .. <;> rfl
theorem Dealt.unbind (h : Dealt t c s) (u : TileNo) (b : BindWord) : Dealt t c (unbind u b s) := by
  unfold Machine.unbind
  split
  · exact h.of_tile rfl rfl
  · exact h.unbindEp ..

/-- Job tables are no part of a tile. -/
theorem setCancel_tiles (job : Nat) (k : Fin 48) (s : State) : (setCancel job k s).tiles = s.tiles := by
  unfold setCancel
  dsimp only
  split <;> rfl
theorem setCancels_tiles (job : Nat) (l : List (Fin 48)) (s : State) :
    (l.foldl (fun s k => setCancel job k s) s).tiles = s.tiles := by
  induction l generalizing s with
  | nil => rfl
  | cons k l ih => exact (ih _).trans (setCancel_tiles job k s)

/-! ## The steps -/

/-- A step of another agent that ends by completing the wait of a context that has the dealer. -/
theorem agent_wakes {m : M Unit} {w : Wait} {s1 : State} (hm : m s = finishWait t c w {} s1) (h : Dealt t c s1) :
    agent m s = .next (wake t c w {} s1) := by
  obtain ⟨y, hy⟩ := Option.isSome_iff_exists.mp h.here
  have hd : onDealer t c s1 = .ok ((), s1) := by
    refine (bind_ok _ _ _ _ _ (see_run _ s1)).trans ?_
    rw [h.cur, beq_self_eq_true]
    rfl
  have hf : ∃ u, finishWait t c w {} s1 = .ok ((), u) :=
    ⟨_, (bind_ok _ _ _ _ _ hd).trans (bind_ok _ _ _ _ _ (getCtx_run t c s1 y hy))⟩
  obtain ⟨u, hu⟩ := hf
  rw [agent_done m s u (hm.trans hu), wake, hu]

theorem ctx_bind {α : Type} {x : Ctx} (h : s.ctx? t c = some x) (f : Ctx → M α) : (getCtx t c >>= f) s = f x s :=
  bind_ok _ _ _ _ _ (getCtx_run t c s x h)
theorem present_bind {α β : Type} {o : Option α} {a : α} (h : o = some a) (f : α → M β) (s : State) : (present o >>= f) s = f a s := by
  subst h
  exact bind_ok _ _ _ _ _ (present_some a s)

/-- Where every chain of a list has its holding MARK, they are found in order. -/
theorem holdingMarks_run {x : Ctx} (ms : List (ChainNo × Entry)) (h : ∀ p ∈ ms, holdingMark x p.1 = some p.2) (s : State) :
    (((ms.map Prod.fst).mapM fun k => do
      let e ← present (holdingMark x k)
      return (k, e)) : M _) s = .ok (ms, s) := by
  induction ms with
  | nil => rfl
  | cons p ms ih =>
    rw [List.map_cons, List.mapM_cons]
    refine (bind_ok _ _ _ _ _ (present_bind (h p (.head _)) _ s)).trans ?_
    exact bind_ok _ _ _ _ _ (ih fun q hq => h q (.tail _ hq))

section
variable {x : Ctx} {w : Wait} (hx : s.ctx? t c = some x) (hw : x.wait = some w)
include hx hw

/-- Every such step looks for the context, then for its wait. -/
theorem wait_bind {α : Type} (f : Ctx → Wait → M α) :
    (getCtx t c >>= fun x => present x.wait >>= f x) s = f x w s := (ctx_bind hx _).trans (present_bind hw _ s)

/-- The MARKs of the rendezvous retire together, and none is left. -/
theorem rdvRelease_wakes {mask : BitVec 4} {ms : List (ChainNo × Entry)} {s1 : State} {y : Ctx} (hk : w.kind = .rdv mask)
    (hms : ms.map Prod.fst = maskChains mask) (hm : ∀ p ∈ ms, holdingMark x p.1 = some p.2)
    (hr : Runs (ms.forM fun p => blockStep t c p.1 p.2 x.job (retireBlock t c p.1 p.2 0 0)) s () s1) (hc : (s1.tile t).cur = c)
    (hy : s1.ctx? t c = some y) (hgone : ∀ p ∈ ms, (y.entry? p.1 p.2.seq).isNone = true) :
    exec (.rdvRelease t c) s = .next (wake t c w {} s1) := by
  refine agent_wakes ((wait_bind hx hw _).trans ?_) ⟨by rw [hy]; rfl, hc⟩
  simp only [hk, ← hms]
  refine (bind_ok _ _ _ _ _ (holdingMarks_run ms hm s)).trans <| (bind_ok _ _ _ _ _ hr).trans <| (ctx_bind hy _).trans ?_
  rw [if_pos (List.all_eq_true.mpr hgone)]

variable (hd : Dealt t c s)
include hd

theorem releaseComplete_wakes {v : Word} (hk : w.kind = .release v) (hn : runNamed x (runOf v) = false) :
    exec (.releaseComplete t c) s = .next (wake t c w {} (s.modCtx t c (dropRun (runOf v)))) := by
  refine agent_wakes ((wait_bind hx hw _).trans ?_) (hd.modCtx _)
  simp only [hk]
  exact (enabled_bind (by rw [hn]; rfl) _ s).trans (bind_ok _ _ _ _ _ (modCtx_run ..))

theorem semIdleAction_wakes {op : Fin 3} {n : SemNo} {a v : Word} (hk : w.kind = .semIdle op n a v) (hi : x.semIdle n = true) :
    exec (.semIdleAction t c) s = .next (wake t c w {} (s.modCtx t c (·.modSem n (semAct op a v)))) := by
  refine agent_wakes ((wait_bind hx hw _).trans ?_) (hd.modCtx _)
  simp only [hk]
  exact (enabled_bind hi _ s).trans (bind_ok _ _ _ _ _ (modCtx_run ..))

theorem semwGrant_wakes {n : SemNo} {thr k : Nat} (hk : w.kind = .semw n thr k) (hf : (x.sem n).first? = some .dealer)
    (hm : (x.sem n).meets thr = true) :
    exec (.semwGrant t c) s = .next (wake t c w {} ((acquireAt t ((x.sem n).acquired thr) s).modCtx t c (·.modSem n fun m =>
      { m.take k with order := m.order.drop 1 }))) := by
  refine agent_wakes ((wait_bind hx hw _).trans ?_) ((hd.acquireAt _).modCtx _)
  simp only [hk]
  exact (enabled_bind (by rw [hf, hm]; rfl) _ s).trans <| (bind_ok _ _ _ _ _ (dealerAcquire_run ..)).trans (bind_ok _ _ _ _ _ (modCtx_run ..))

theorem drainComplete_wakes (hk : w.kind = .drain) (hq : drained s x = true) :
    exec (.drainComplete t c) s = .next (wake t c w {} (acquireAt t [] s)) := by
  refine agent_wakes ((wait_bind hx hw _).trans ?_) (hd.acquireAt _)
  simp only [hk]
  exact (see_bind _ _ s).trans <| (enabled_bind hq _ s).trans (bind_ok _ _ _ _ _ (dealerAcquire_run ..))

/-- With no cluster named, the flag reaches all of them. -/
theorem cancelFlagsSet_wakes {job : Nat} (hk : w.kind = .cancel job) (hn : s.input.nums = []) :
    (let s1 := (List.finRange 48).foldl (fun s k => setCancel job k s) s
     s1.cancelledAll job = true → exec (.cancelFlagsSet t c) s = .next (wake t c w {} s1)) := by
  intro s1 hall
  have ht : ∀ n, s1.tile n = s.tile n := fun n => congrArg (·.get n) (setCancels_tiles job _ s)
  have h1 : Dealt t c s1 := hd.of_tile (by rw [ht]) (by rw [ht])
  refine agent_wakes ((wait_bind hx hw _).trans ?_) h1
  simp only [hk]
  refine (see_bind _ _ s).trans ((upd_bind _ _ s).trans ?_)
  simp only [hn, List.isEmpty_nil, Bool.true_or, if_true]
  refine (see_bind _ _ s1).trans ?_
  rw [if_pos (by rw [hall, h1.cur, beq_self_eq_true]; rfl)]

theorem wfeWake_wakes (hk : w.kind = .wfe) (he : x.event = true) (hrun : x.run = .run) : exec (.wfeWake t c) s =
    .next (wake t c w {} ((acquireAt t x.evStamps s).modCtx t c fun y => { y with event := false, evStamps := [] })) := by
  refine agent_wakes ((wait_bind hx hw _).trans ?_) ((hd.acquireAt _).modCtx _)
  exact (enabled_bind (by rw [hk, he, hrun]; rfl) _ s).trans <| (bind_ok _ _ _ _ _ (dealerAcquire_run ..)).trans (bind_ok _ _ _ _ _ (modCtx_run ..))

theorem qunbindIdle_wakes {v : Word} {b : BindWord} (hk : w.kind = .qunbind v) (hb : bindWord v.toNat 0 = some b)
    (hn : namesEp x b = false) : exec (.qunbindIdle t c) s = .next (wake t c w {} (unbind t b s)) := by
  refine agent_wakes ((wait_bind hx hw _).trans ?_) (hd.unbind t b)
  simp only [hk]
  exact (present_bind hb _ s).trans <| (enabled_bind (by rw [hn]; rfl) _ s).trans (upd_bind ..)

theorem tinvPinsReleased_wakes {ps : List (Nat × Nat)} (hk : w.kind = .tinv ps) (hp : ∀ p ∈ ps, pinStands s x.job p = false) :
    exec (.tinvPinsReleased t c) s = .next (wake t c w {} (acquireAt t [] s)) := by
  refine agent_wakes ((wait_bind hx hw _).trans ?_) (hd.acquireAt _)
  simp only [hk]
  exact (see_bind _ _ s).trans <| (enabled_bind (by simpa using hp) _ s).trans (bind_ok _ _ _ _ _ (dealerAcquire_run ..))

end
end

/-- Settles O37: each step as one that ends by completing the wait. -/
theorem waitsEnd : Obligations.WaitsEnd := by
  intro s t c x w hx hw hc
  have hd : Dealt t c s := ⟨by rw [hx]; rfl, hc⟩
  exact ⟨fun v hk hn => releaseComplete_wakes hx hw hd hk hn, fun op n a v hk hi => semIdleAction_wakes hx hw hd hk hi,
    fun n thr k hk hf hm => semwGrant_wakes hx hw hd hk hf (decide_eq_true hm), fun hk hq => drainComplete_wakes hx hw hd hk hq,
    fun job hk hn => cancelFlagsSet_wakes hx hw hd hk hn, fun hk he hr => wfeWake_wakes hx hw hd hk he hr,
    fun v b hk hb hn => qunbindIdle_wakes hx hw hd hk hb hn, fun ps hk hp => tinvPinsReleased_wakes hx hw hd hk hp,
    fun mask ms s1 hk hms hm hr hc ⟨y, hy, hgone⟩ => rdvRelease_wakes hx hw hk hms hm hr hc hy hgone⟩

end Sys2Proof.Machine
end

section
/-!
PROOFS. O54 fails where memory is not in its canonical form (log 3), which its clause on pops does not ask for: the clearing of a tile that takes
a job up may then uncover a cell of the record. In canonical memory, which every step keeps (O51), that clause holds (`recordPop_starts`).
-/
namespace Sys2Proof.Machine
open Sys2Proof

/-! ## What a pop leaves below the stores of the tiles (R388) -/

/-- The first key of the tiles' stores: HBM4 and the pools lie below it. -/
def storesBase : Nat := 0x10000000000

/-- From s to u, both canonical, only the stores of the tiles have been written: below them every byte reads as before, and every code word can be
read as before. -/
structure StoresOnly (s u : State) : Prop where
  ok     : u.MemOk
  bytes  : ∀ k, k < storesBase → cellGet u.mem k = cellGet s.mem k
  poison : ∀ p, p < storesBase → (p ∈ u.poison ↔ p ∈ s.poison)

section
variable {s u : State}

theorem StoresOnly.refl (h : s.MemOk) : StoresOnly s s := ⟨h, fun _ _ => rfl, fun _ _ => .rfl⟩
/-- What changes neither memory nor its readability adds nothing. -/
theorem StoresOnly.of_mem {v : State} (h : StoresOnly s u) (hm : v.mem = u.mem) (hp : v.poison = u.poison) : StoresOnly s v :=
  ⟨h.ok.of_mem hm, fun k hk => by rw [hm]; exact h.bytes k hk, fun p hb => by rw [hp]; exact h.poison p hb⟩
/-- A write in the stores covers no code word below them. -/
theorem mem_poisonDrop_below {l : List Nat} {k n p : Nat} (hk : storesBase ≤ k) (hp : p < storesBase) : p ∈ poisonDrop l k n ↔ p ∈ l := by
  unfold poisonDrop
  rw [List.mem_filter, and_iff_left]
  simp
  omega
theorem StoresOnly.writeBytes (h : StoresOnly s u) {k : Nat} (hk : storesBase ≤ k) (bs : List Byte) (b : Bool) :
    StoresOnly s (writeBytes u k bs b) where
  ok := h.ok.writeBytes k bs b
  bytes j hj := (cellGet_cellsWrite_out bs _ k j h.ok (.inl (by omega))).trans (h.bytes j hj)
  poison p hp := (mem_poisonDrop_below hk hp).trans (h.poison p hp)
theorem StoresOnly.writeNat (h : StoresOnly s u) {k : Nat} (hk : storesBase ≤ k) (n v : Nat) : StoresOnly s (writeNat u k n v) :=
  h.writeBytes hk ..
theorem StoresOnly.zeroBytes (h : StoresOnly s u) {k : Nat} (hk : storesBase ≤ k) (n : Nat) : StoresOnly s (zeroBytes u k n) where
  ok := h.ok.zeroBytes k n
  bytes j hj := by
    rw [zeroBytes_mem, cellGet_zeroCells h.ok, if_neg (by omega)]
    exact h.bytes j hj
  poison p hp := (mem_poisonDrop_below hk hp).trans (h.poison p hp)
theorem StoresOnly.foldl {α : Type} {f : State → α → State} (hf : ∀ v a, StoresOnly s v → StoresOnly s (f v a)) (l : List α)
    (h : StoresOnly s u) : StoresOnly s (l.foldl f u) := by
  induction l generalizing u with
  | nil => exact h
  | cons a l ih => exact ih (hf u a h)

theorem storesBase_le_spAt (t off : Nat) : storesBase ≤ spAt t off := by
  unfold storesBase spAt
  omega

/-- Decks lie in the scratchpads. -/
theorem StoresOnly.dequeue (h : StoresOnly s u) (t : TileNo) (p : PopSrc) : StoresOnly s (dequeue t p u) := by
  unfold Machine.dequeue
  split
  · dsimp only
    split
    · exact .of_mem (.foldl (fun v k hv => hv.writeNat (storesBase_le_spAt ..) ..) _ h) rfl rfl
    · exact .of_mem (.foldl (fun v k hv => hv.writeNat (storesBase_le_spAt ..) ..) _ h) rfl rfl
  · exact h.of_mem rfl rfl
theorem StoresOnly.adoptPad (h : StoresOnly s u) (t : TileNo) (job : Nat) : StoresOnly s (adoptPad t job u) := by
  unfold Machine.adoptPad
  split
  · exact h
  · dsimp only
    have cleared := h.zeroBytes (storesBase_le_spAt t 0) 67108864
    split
    · exact cleared.of_mem rfl rfl
    · exact .foldl (fun v d hv => hv.writeBytes (storesBase_le_spAt ..) _ _) _ (cleared.of_mem rfl rfl)

theorem codeWord_le (k : Nat) : codeWord k ≤ k := by
  unfold codeWord
  split <;> omega
theorem StoresOnly.readBytes (h : StoresOnly s u) (n k : Nat) (hk : k + n ≤ storesBase) : readBytes u k n = readBytes s k n := by
  induction n generalizing k with
  | zero => rfl
  | succ n ih =>
    have hc := codeWord_le k
    simp only [Machine.readBytes, ih (k + 1) (by omega), h.bytes k (by omega), h.poison (codeWord k) (by omega)]
theorem StoresOnly.recDw (h : StoresOnly s u) {pa k : Nat} (hp : pa + 64 ≤ storesBase) (hk : k < 8) : recDw u pa k = recDw s pa k :=
  congrArg leNat (h.readBytes 8 (pa + 8 * k) (by omega))

end

/-! ## A pop in canonical memory (R313) -/

/-- What the pop of a record says of the new context. -/
def StartsAs (s : State) (num : BitVec 16) (q : Queued) (pa : Nat) (y : Ctx) : Prop :=
  y.num = num ∧ y.job = recJob s pa q ∧ y.record = q.va ∧ y.cls = recClass s pa q ∧ y.pc = BitVec.ofNat 64 (recDw s pa 0) ∧
  y.regs.get 0 = BitVec.ofNat 64 (recDw s pa 1) ∧ y.regs.get 1 = q.va ∧ y.regs.get 2 = BitVec.ofNat 64 (recDw s pa 6) ∧
  y.regs.get 3 = BitVec.ofNat 64 (recDw s pa 7) ∧ ∀ n : Fin 48, 4 ≤ n.val → y.regs.get n = 0

theorem vec_get_eq_getElem {α : Type} {n : Nat} (v : Vector α n) (i : Fin n) : v.get i = v[i.val] := rfl
theorem newCtx_startsAs (s : State) (num : BitVec 16) (q : Queued) (pa : Nat) (p : Tmpl) : StartsAs s num q pa (newCtx s num q pa p) := by
  refine ⟨rfl, rfl, rfl, rfl, rfl, ?_, ?_, ?_, ?_, fun n hn => ?_⟩
  · simp [newCtx, vec_get_eq_getElem]
  · simp [newCtx, vec_get_eq_getElem]
  · simp [newCtx, vec_get_eq_getElem]
  · simp [newCtx, vec_get_eq_getElem]
  · have h : ∀ k < 4, k ≠ n.val := fun k hk => by omega
    simp [newCtx, vec_get_eq_getElem, h]

section
variable {s u : State} {num : BitVec 16} {q : Queued} {pa : Nat} {y : Ctx}

/-- Job and class of a record come from its doublewords. -/
theorem recJob_congr (h : ∀ k : Fin 8, recDw u pa k.val = recDw s pa k.val) : recJob u pa q = recJob s pa q := by
  have d2 : recDw u pa 2 = recDw s pa 2 := h 2
  have d3 : recDw u pa 3 = recDw s pa 3 := h 3
  unfold recJob recChecked
  rw [d2, d3]
theorem recPrio_congr (h : ∀ k : Fin 8, recDw u pa k.val = recDw s pa k.val) : recPrio u pa = recPrio s pa :=
  Fin.ext (congrArg (bits · 32 2) (h 2))
theorem recClass_congr (h : ∀ k : Fin 8, recDw u pa k.val = recDw s pa k.val) : recClass u pa q = recClass s pa q := by
  have d2 : recDw u pa 2 = recDw s pa 2 := h 2
  unfold recClass recChecked
  rw [d2, recPrio_congr h]
theorem recValid_congr (h : ∀ k : Fin 8, recDw u pa k.val = recDw s pa k.val) : recValid u pa q = recValid s pa q := by
  have d0 : recDw u pa 0 = recDw s pa 0 := h 0
  have d2 : recDw u pa 2 = recDw s pa 2 := h 2
  have d3 : recDw u pa 3 = recDw s pa 3 := h 3
  simp only [recValid, recChecked, recJoin, recPrio_congr h, d0, d2, d3]

/-- The record reads the same where only the stores have been written since. -/
theorem StartsAs.of_storesOnly (h : StoresOnly s u) (hp : pa + 64 ≤ storesBase) (k : StartsAs u num q pa y) : StartsAs s num q pa y := by
  have dw : ∀ k : Fin 8, recDw u pa k.val = recDw s pa k.val := fun k => h.recDw hp k.isLt
  obtain ⟨hnum, hjob, hrec, hcls, hpc, h0, h1, h2, h3, hz⟩ := k
  exact ⟨hnum, hjob.trans (recJob_congr dw), hrec, hcls.trans (recClass_congr dw), hpc.trans (congrArg _ (dw 0)),
    h0.trans (congrArg _ (dw 1)), h1, h2.trans (congrArg _ (dw 6)), h3.trans (congrArg _ (dw 7)), hz⟩
/-- When the context lost the dealer, and whether its engines are to stop, is no part of it. -/
theorem StartsAs.lost (k : StartsAs s num q pa y) (n : Nat) (b : Bool) : StartsAs s num q pa { y with lost := n, stopping := b } := k

end

section
variable {s u : State} {t : TileNo} {c : SlotNo} {num : BitVec 16} {q : Queued} {pa : Nat}

theorem setRecDw_tiles (pa k v : Nat) (s : State) : (setRecDw pa k v s).tiles = s.tiles := rfl
theorem acquireAt_ctx (t : TileNo) (ps : List Stamp) (s : State) (c : SlotNo) : (acquireAt t ps s).ctx? t c = s.ctx? t c := by
  simp only [acquireAt, mergeAt, State.ctx?, State.tile_setTile]

/-- A new context keeps its slot, whichever of the two contexts has the dealer then. -/
theorem enterSlot_ctx {x : Ctx} (h : s.ctx? t c = some x) :
    (enterSlot t c s).ctx? t c = some x ∨ (enterSlot t c s).ctx? t c = some { x with lost := s.now, stopping := false } := by
  unfold enterSlot
  split
  · refine .inr ?_
    have hc : (1 : SlotNo) - (1 - c) = c := sub_sub_cancel 1 c
    have hne : (t, c) ≠ (t, 1 - c) := by
      have : ∀ c : SlotNo, c ≠ 1 - c := by decide
      simpa using this c
    have other : ∀ (z : State) (f : Ctx → Ctx), (z.modCtx t (1 - c) f).ctx? t c = z.ctx? t c := fun z f => by
      unfold State.modCtx
      split
      · exact State.ctx_setSlot_ne z _ hne
      · rfl
    unfold switchTo
    rw [hc, other, State.ctx?, State.tile_setTile]
    exact (State.ctx_modCtx ..).trans (congrArg _ h)
  · exact .inl h

/-- The state in which a pop reads its record: the record is touched and out of its queue, the tile has taken its job up, and the number is live. -/
def popAdopted (t : TileNo) (num : BitVec 16) (q : Queued) (job : Nat) (u : State) : State :=
  (adoptPad t job (dequeue t q.src (hwTouch t q.job q.va.toNat u))).modJob job fun j => { j with live := num :: j.live }
/-- With the new context in its slot. -/
def popPlaced (t : TileNo) (c : SlotNo) (num : BitVec 16) (q : Queued) (pa job : Nat) (u : State) : State :=
  let v := popAdopted t num q job u
  v.setSlot t c (some (newCtx v num q pa (tmplFor v job (recParent v pa))))
/-- With its record running. -/
def popRunning (t : TileNo) (c : SlotNo) (num : BitVec 16) (q : Queued) (pa job : Nat) (u : State) : State :=
  let v := popPlaced t c num q pa job u
  setRecDw pa 2 (withState (recDw v pa 2) 3) v

/-- With what its release carries acquired, and the dealer at the context that is to have it. -/
def popEntered (t : TileNo) (c : SlotNo) (num : BitVec 16) (q : Queued) (pa job : Nat) (u : State) : State :=
  let v := popRunning t c num q pa job u
  enterSlot t c (acquireAt t (carriedAt v pa) v)

/-- A new record that slot c of tile t can take: it can be reached and read, its job is not cancelled, it is valid and resumes nothing, `num` is a
free number of its job, and its access races with none (R311 to R316). -/
structure NewRecord (s : State) (t : TileNo) (c : SlotNo) (num : BitVec 16) (q : Queued) (pa : Nat) : Prop where
  empty : s.ctx? t c = none
  place : hwXlate s q.job q.va.toNat true = some pa
  below : pa + 64 ≤ storesBase
  reads : badBytes s pa 64 = 0
  lives : s.cancelled (clOf t) q.job = false
  valid : recValid s pa q = true
  fresh : recResume s pa = false
  free  : ∀ j, s.job? (recJob s pa q) = some j → j.live.length < 65536 ∧ num ∉ j.live
  alone : hwTag t q.job q.va.toNat true s ≠ none

/-- The access races where its granule is checked and its tag races. -/
theorem hwTag_eq_none_iff {job va : Nat} {w : Bool} : hwTag t job va w s = none ↔ ∃ e, hwLeaf s job va w = some e ∧
    checkedAt s (leafPa e va) e.chk = true ∧ raceTag s t (tagGet s.tags (leafPa e va / 256)) w true = none := by
  unfold hwTag
  cases hwLeaf s job va w with
  | none => simp
  | some e => by_cases hc : checkedAt s (leafPa e va) e.chk = true <;> simp [hc]

/-- Records of the error ring change nothing that a pop looks at. -/
theorem NewRecord.recorded (h : NewRecord s t c num q pa) (k : Recorded s u) : NewRecord u t c num q pa := by
  obtain ⟨f, r, n, l, rfl⟩ := k
  have dw : ∀ j : Fin 8, recDw { s with free := f, errRing := r, errCount := n, lostRec := l } pa j.val = recDw s pa j.val :=
    fun j => readNat_congr rfl rfl ..
  have d2 : recDw { s with free := f, errRing := r, errCount := n, lostRec := l } pa 2 = recDw s pa 2 := dw 2
  refine ⟨h.empty, h.place, h.below, (badBytes_congr rfl ..).trans h.reads, h.lives, ?_, ?_, ?_, ?_⟩
  · exact (recValid_congr dw).trans h.valid
  · exact (congrArg (bits · 39 1 == 1) d2).trans h.fresh
  · intro j hj
    rw [recJob_congr dw] at hj
    exact h.free j hj
  · intro hn
    obtain ⟨e, hleaf, hchk, hrace⟩ := hwTag_eq_none_iff.mp hn
    exact h.alone (hwTag_eq_none_iff.mpr ⟨e, hleaf, hchk, hrace⟩)

/-- The pop of a new record into an empty slot, where it does not race. -/
theorem popInto_new (h : NewRecord u t c num q pa) :
    popInto t c num q pa u = .ok ((), popEntered t c num q pa (recJob u pa q) u) := by
  have hlive : ∀ l, ((u.job? (recJob u pa q)).map (·.live)).getD [] = l → l.length < 65536 ∧ l.contains num = false := by
    rintro _ rfl
    cases hj : u.job? (recJob u pa q) with
    | none => exact ⟨by decide, rfl⟩
    | some j => simpa using h.free j hj
  obtain ⟨hlen, hnum⟩ := hlive _ rfl
  have vacated : vacate t c u = .ok ((), u) := by
    refine (see_bind _ _ u).trans ?_
    rw [h.empty]
    rfl
  have touched : popTouch t q u = .ok (false, hwTouch t q.job q.va.toNat u) := by
    have raced : (hwTag t q.job q.va.toNat true u).isNone = false := by
      rw [Option.isNone_eq_false_iff]
      exact Option.isSome_iff_ne_none.mpr h.alone
    refine (see_bind _ _ u).trans ?_
    rw [raced]
    rfl
  unfold popInto
  refine (see_bind _ _ u).trans ?_
  rw [h.lives, if_neg Bool.false_ne_true]
  refine (see_bind _ _ u).trans ?_
  rw [h.valid, Bool.not_true, if_neg Bool.false_ne_true]
  refine (see_bind _ _ u).trans ?_
  rw [h.fresh, if_neg Bool.false_ne_true]
  refine (see_bind _ _ u).trans ((see_bind _ _ u).trans ?_)
  rw [if_pos hlen]
  refine (enabled_bind (by rw [hnum]; rfl) _ u).trans ((bind_ok _ _ _ _ _ vacated).trans (bind_ok _ _ _ _ _ touched))

/-- The tag of a granule is all that the access of the hardware changes. -/
theorem hwTag_tags {job va : Nat} {w : Bool} {v : State} (h : hwTag t job va w u = some v) : ∃ ts, v = { u with tags := ts } := by
  unfold hwTag at h
  split at h
  · exact ⟨u.tags, (Option.some.inj h).symm⟩
  · dsimp only at h
    split at h
    · obtain ⟨tag, -, rfl⟩ := Option.map_eq_some_iff.mp h
      exact ⟨_, rfl⟩
    · exact ⟨u.tags, (Option.some.inj h).symm⟩

/-- Up to there only the stores have been written. -/
theorem popAdopted_storesOnly (h : u.MemOk) (t : TileNo) (num : BitVec 16) (q : Queued) (job : Nat) :
    StoresOnly u (popAdopted t num q job u) := by
  have touched : StoresOnly u (hwTouch t q.job q.va.toNat u) := by
    unfold hwTouch hwReach
    split
    · next v hv =>
      obtain ⟨ts, rfl⟩ := hwTag_tags hv
      exact (StoresOnly.refl h).of_mem rfl rfl
    · exact (StoresOnly.refl h).of_mem (State.addErr_mem ..) (State.addErr_poison ..)
  exact .of_mem (.adoptPad (.dequeue touched t q.src) t job) rfl rfl

theorem popEntered_starts (hm : u.MemOk) (hp : pa + 64 ≤ storesBase) (t : TileNo) (c : SlotNo) (num : BitVec 16) (q : Queued) (job : Nat) :
    ∃ y, (popEntered t c num q pa job u).ctx? t c = some y ∧ StartsAs u num q pa y := by
  have starts := fun p => (newCtx_startsAs (popAdopted t num q job u) num q pa p).of_storesOnly (popAdopted_storesOnly hm ..) hp
  have placed : (popPlaced t c num q pa job u).ctx? t c = some (newCtx (popAdopted t num q job u) num q pa _) := State.ctx_setSlot ..
  rcases enterSlot_ctx ((acquireAt_ctx t (carriedAt (popRunning t c num q pa job u) pa) (popRunning t c num q pa job u) c).trans placed)
    with h | h
  · exact ⟨_, h, starts _⟩
  · exact ⟨_, h, starts _⟩

/-- A pop of a new, readable record into an empty slot makes a context with the arguments of its record, where memory is canonical (R313, R320):
the clause of O54 with the hypothesis that it lacks. -/
theorem recordPop_starts (hm : s.MemOk) (hf : s.input.flag = false) (hq : (popOrder s t).find? (poppable s t c) = some q)
    (h : NewRecord s t c num q pa) :
    ∃ s' y, exec (.recordPop t c num) s = .next s' ∧ s'.ctx? t c = some y ∧ StartsAs s num q pa y := by
  obtain ⟨u, hu⟩ : ∃ u, (failedRestores s t (some q)).foldl (fun z k => noteRebind t k z) s = u := ⟨_, rfl⟩
  have noted : Recorded s u := hu ▸ Recorded.foldl (fun z k => (State.addErr_recorded z _).1) _ s
  have hn : NewRecord u t c num q pa := h.recorded noted
  have same : StoresOnly s u := by
    obtain ⟨f, r, n, l, rfl⟩ := noted
    exact (StoresOnly.refl hm).of_mem rfl rfl
  have free : slotFree s t c = true := by
    unfold slotFree
    rw [h.empty]
    rfl
  obtain ⟨y, hy, hs⟩ := popEntered_starts same.ok h.below t c num q (recJob u pa q)
  refine ⟨_, y, agent_done _ s (popEntered t c num q pa (recJob u pa q) u) ?_, (State.settled_ctx ..).trans hy,
    hs.of_storesOnly same h.below⟩
  refine (see_bind _ _ s).trans ((enabled_bind free _ s).trans ((see_bind _ _ s).trans ((see_bind _ _ s).trans ?_)))
  rw [hf, if_neg Bool.false_ne_true, hq]
  refine (see_bind _ _ s).trans ((upd_bind _ _ s).trans ?_)
  rw [hu]
  refine (enabled_bind rfl _ u).trans ((see_bind _ _ u).trans ((present_bind hn.place _ u).trans ((upd_bind _ _ u).trans ?_)))
  rw [noteBad, if_pos hn.reads]
  exact popInto_new hn

end

/-! ## A hidden cell (log 3) -/

/-- A tile without a job, and a queued record of job 7 at 0x2000, one of whose bytes stands out of order in the list of cells: it is hidden behind
the first byte of the tile's stores. -/
def hiddenCellState : State :=
  { State.reset with
    jobs := [{ id := 7, ptbase := 0x1000, tenant := 0, queue := 0, ntile := 1 }]
    clusters := State.reset.clusters.set 0 { overflow := (Vector.replicate 4 []).set 0 [(7, 0x2000)] }
    mem := [(0x1000, 0x1F), (0x2018, 7), (tileBase 0, 1), (0x2030, 5)] }

/-- The record as it stands in the overflow queue. -/
def hiddenRecord : Queued := ⟨.over 0 0, 7, 0x2000, 0⟩

/-- Before the pop the hidden byte reads 0. -/
theorem hiddenRecord_dw6 : recDw hiddenCellState 0x2000 6 = 0 := by decide

/-- The pop clears the tile's stores before it reads the record, and the hidden byte is then the third register of the new context. -/
theorem pop_uncovers_hiddenCell {s' : State} (h : exec (.recordPop 0 0 1) hiddenCellState = .next s') :
    (s'.ctx? 0 0).map (·.regs.get 2) = some 5 := by
  have run : (match exec (.recordPop 0 0 1) hiddenCellState with
    | .next t => (t.ctx? 0 0).map (·.regs.get 2)
    | .fault _ | .refused _ => none) = some 5 := by decide +kernel
  rwa [h] at run

/-- Nothing else about the record is out of order. -/
theorem hiddenRecord_new : NewRecord hiddenCellState 0 0 1 hiddenRecord 0x2000 where
  empty := by decide
  place := by decide
  below := by decide
  reads := by decide
  lives := by decide
  valid := by decide
  fresh := by decide
  free j hj := by
    rw [show recJob hiddenCellState 0x2000 hiddenRecord = 7 by decide] at hj
    cases hj
    exact ⟨by decide, by decide⟩
  alone := by decide

/-- Refutes O54: the record of `hiddenCellState` can be popped, but its doubleword 6 is 0 before the pop and 5 in the new context. -/
theorem not_streaming : ¬ Obligations.Streaming := by
  intro h
  obtain ⟨-, hpop, -⟩ := h
  have new := hiddenRecord_new
  obtain ⟨s', y, hrun, hy, -, -, -, -, -, -, -, hreg, -⟩ := hpop hiddenCellState 0 0 1 hiddenRecord 0x2000 new.empty rfl (by decide)
    new.place new.below new.reads new.lives new.valid new.fresh new.free new.alone
  have h5 := pop_uncovers_hiddenCell hrun
  rw [hy, Option.map_some, hreg, hiddenRecord_dw6] at h5
  exact absurd h5 (by decide)

end Sys2Proof.Machine
end

section
/-!
PROOFS. The instructions on the tensor identifier table where their checks pass, and the causes of TKILL and TGET (O34).
-/
namespace Sys2Proof.Machine
open Sys2Proof

/-- A doubleword of an entry, as the entry holds it. -/
theorem titDw_eq_get (e : Tit) {k : Nat} (hk : k < 32) : BitVec.ofNat 64 (titDw e k) = e.get ⟨k, hk⟩ := by
  have at_k : e.toList[k]? = some (e.get ⟨k, hk⟩) := (Vector.getElem?_toList ..).trans (Vector.getElem?_eq_getElem hk)
  calc BitVec.ofNat 64 (titDw e k)
    _ = BitVec.ofNat 64 (e.toList[k]?.getD 0).toNat := rfl
    _ = e.get ⟨k, hk⟩ := by rw [at_k, Option.getD_some, BitVec.ofNat_toNat, BitVec.setWidth_eq]

/-! ## TDEF, TMOD, TGET and TKILL (R154, R155) -/

section
variable {s : State} {x : Ctx} {h : Hd} {n : Fin 128} (hr : Ready s x) (hg : x.pred h.guard = true)
include hr hg

theorem execTkill_next (hn : x.titLocked n = false) :
    execTkill h n s = .next (finish s x 1 true {} (s.upMe (·.titSet n (Vector.replicate 32 0)))) :=
  dealer_upMe hr hg ((myCtx_bind hr _).trans (check_bind_ok (congrArg not hn) _ _ _ s)) 1 true none
theorem execTkill_tidInUse (hn : x.titLocked n = true) : execTkill h n s = .next (preciseTrap s x .tidInUse 0) :=
  dealer_trap _ _ _ _ _ _ _ _ _ hr hg ((myCtx_bind hr _).trans (check_bind_fail (congrArg not hn) _ _ _ s))

variable {a c : Src} {u v : Word} (ha : Reads s x a u)
include ha

/-- TDEF of an image that the loads deliver: the entry is the image with VALID set. -/
theorem execTdef_next {s1 s2 : State} {img : List Word} {e : Tit} (hn : x.titLocked n = false) (hu : u.toNat % 64 = 0)
    (hl : Runs (loadDws s.cur s.mySlot x u 32) s img s1)
    (he : e = Vector.ofFn fun k => if k = 0 then withValid (img[0]?.getD 0) true else img[k.val]?.getD 0) (ok : titOk e = true)
    (hp : Pays s x (s1.upMe (·.titSet n e)) s2) : execTdef h n a s = .next (finish s x 1 true {} s2) := by
  subst he
  refine dealer_done _ _ _ _ _ _ _ _ _ _ hr hg ?_ hp
  exact (readA_bind hr ha _).trans <| (me_bind _ s).trans <| (getCtx_bind hr _).trans <| (bind_ok _ _ _ _ _ hl).trans <|
    (check_bind_ok (beq_iff_eq.mpr hu) _ _ _ s1).trans <| (check_bind_ok (congrArg not hn) _ _ _ s1).trans <| check_bind_ok ok _ _ _ s1

/-- TMOD of a valid entry: one doubleword is replaced, VALID kept. -/
theorem execTmod_next {e : Tit} (hc : Reads s x c v) (hn : x.titLocked n = false) (hk : u.toNat < 32) (hv : titValid (x.titGet n) = true)
    (he : e = (x.titGet n).set u.toNat (if u = 0 then withValid v true else v) hk) (ok : titOk e = true) :
    execTmod h n a c s = .next (finish s x 1 true {} (s.upMe (·.titSet n e))) := by
  subst he
  refine dealer_upMe hr hg ?_ 1 true none
  refine (readA_bind hr ha _).trans <| (readC_bind hr hc _).trans <| (myCtx_bind hr _).trans <| (check_bind_ok hv _ _ _ s).trans ?_
  rw [dif_pos hk, hv]
  exact (check_bind_ok (congrArg not hn) _ _ _ s).trans (check_bind_ok ok _ _ _ s)

theorem execTget_next (d : Dst) (hk : u.toNat < 32) : execTget h d n a s =
    .next (finish s x 1 true { val := some ((x.titGet n).get ⟨u.toNat, hk⟩) } (s.upMe (·.setDst d ((x.titGet n).get ⟨u.toNat, hk⟩)))) := by
  rw [← titDw_eq_get]
  exact dealer_upMe hr hg ((readA_bind hr ha _).trans ((check_bind_ok (decide_eq_true hk) _ _ _ s).trans (myCtx_bind hr _))) 1 true none
theorem execTget_reservedField (d : Dst) (hk : 32 ≤ u.toNat) : execTget h d n a s = .next (preciseTrap s x .reservedField u) :=
  dealer_trap _ _ _ _ _ _ _ _ _ hr hg ((readA_bind hr ha _).trans (check_bind_fail (decide_eq_false (Nat.not_lt.mpr hk)) _ _ _ s))

end

/-- Settles O34: each of the four follows its checks through, with the lock open, or shut for TKILL. -/
theorem tensorTable : Obligations.TensorTable := by
  intro s s1 s2 x h d n a c u v img hr hg ha hc
  refine ⟨fun hn => ⟨fun hu hl ok hp => ?_, fun hk hv ok => ?_, ?_⟩, fun hk => ?_, fun hn => ?_, fun hk => ?_⟩
  · exact execTdef_next hr hg ha hn hu hl rfl ok hp
  · exact execTmod_next hr hg ha hc hn hk hv rfl ok
  · exact execTkill_next hr hg hn
  · exact execTget_next hr hg ha d hk
  · exact execTkill_tidInUse hr hg hn
  · exact execTget_reservedField hr hg ha d hk

end Sys2Proof.Machine
end

section
/-!
PROOFS. The instructions on semaphores that wait (O36): SEMW up to its place in the wait order, and SEMI, SEMB and SEMK of a semaphore in use.
-/
namespace Sys2Proof.Machine
open Sys2Proof

section
variable {s : State} {x : Ctx} {h : Hd} (hr : Ready s x) (hg : x.pred h.guard = true)
include hr hg

/-- An instruction that makes no request and then waits owes no unit. -/
theorem dealer_reqs_waits {eff : M Eff} {s1 : State} {k : WaitKind} (he : eff s = .error (.wait k s1)) (hq : s1.reqs = s.reqs) :
    dealer h eff s 1 true = .next (waits s h 1 none k s1) := by
  refine dealer_wait _ _ _ _ _ _ _ _ _ hr hg he ?_ ?_
  · rw [State.meterHbm, hq]
    exact hr.hbm
  · rw [State.meterNet, hq]
    exact hr.net

end

/-! ## A semaphore in use (R229) -/

/-- On a semaphore that is not idle, SEMI, SEMB and SEMK wait. -/
theorem semIdleOr_waits {s : State} {x : Ctx} {n : SemNo} (hr : Ready s x) (hi : x.semIdle n = false) (op : Fin 3) (v w : Word) :
    semIdleOr op n v w s = .error (.wait (.semIdle op n v w) s) := by
  refine (myCtx_bind hr _).trans ?_
  rw [hi]
  rfl

theorem semiChecks_bind_ok {v w : Word} (hi : initOk v.toNat w.toNat = true) (hc : v.toNat % 4096 ≤ v.toNat / 4096 % 4096) (f : Unit → M Eff)
    (s : State) : (semiChecks v w >>= f) s = f () s := by
  have hle : bits v.toNat 0 12 ≤ bits v.toNat 12 12 := by simpa [bits] using hc
  exact bind_ok _ _ _ _ _ ((check_bind_ok hi _ _ _ s).trans (by rw [decide_eq_true hle]; rfl))

/-- A region word of a kind that binds names its region (R224). -/
theorem regionOf_binds {v : Nat} (h1 : 1 ≤ v % 8) (h3 : v % 8 ≤ 3) :
    regionOf v = some ⟨v % 8, v / 65536 % 16777216, v / 1099511627776 % 16777216⟩ := by
  simp [regionOf, bits, h1, h3]
/-- The other kinds name none. -/
theorem regionOf_free {v : Nat} (h : v % 8 = 0 ∨ v % 8 = 4) : regionOf v = none := by
  rcases h with h | h <;> simp [regionOf, bits, h]

/-- SEMB of a kind that names no region has one check. -/
theorem sembChecks_run_free {x : Ctx} {n : SemNo} {v w : Word} (hk : regionOk v.toNat = true) (hw : w.toNat < 4294967296)
    (hf : v.toNat % 8 = 0 ∨ v.toNat % 8 = 4) (s : State) : sembChecks x n v w s = .ok ((), s) := by
  refine (check_bind_ok (by rw [hk, decide_eq_true hw]; rfl) _ _ _ s).trans ?_
  rw [regionOf_free hf]
  rfl
/-- SEMB of a kind that binds checks its region too (R224, R226). -/
theorem sembChecks_run_binds {x : Ctx} {n : SemNo} {v w : Word} (hk : regionOk v.toNat = true) (hw : w.toNat < 4294967296)
    (h1 : 1 ≤ v.toNat % 8) (h3 : v.toNat % 8 ≤ 3)
    (hi : regionIn x.partw ⟨v.toNat % 8, v.toNat / 65536 % 16777216, v.toNat / 1099511627776⟩ = true)
    (ho : x.overlaps n ⟨v.toNat % 8, v.toNat / 65536 % 16777216, v.toNat / 1099511627776⟩ = false) (s : State) :
    sembChecks x n v w s = .ok ((), s) := by
  have hlen : v.toNat / 1099511627776 % 16777216 = v.toNat / 1099511627776 := by have := v.isLt; omega
  refine (check_bind_ok (by rw [hk, decide_eq_true hw]; rfl) _ _ _ s).trans ?_
  rw [regionOf_binds h1 h3, hlen]
  refine (check_bind_ok hi _ _ _ s).trans ?_
  rw [ho]
  rfl

/-- Kind 0 declares and leaves the binding (R233). -/
theorem semAct_declare {v : Word} (h0 : bits v.toNat 0 3 = 0) (w : Word) : semAct 1 v w = (·.declare w.toNat) := by
  funext m
  simp only [semAct, h0]

/-! ## SEMW, SEMI, SEMB and SEMK (R232 to R234, R237) -/

section
variable {s : State} {x : Ctx} {h : Hd} {n : Fin 64} {a c : Src} {u v : Word} (hr : Ready s x) (hg : x.pred h.guard = true)
include hr hg

theorem execSemk_waits (hi : x.semIdle n = false) : execSemk h n s = .next (waits s h 1 none (.semIdle 2 n 0 0) s) :=
  dealer_reqs_waits hr hg (semIdleOr_waits hr hi 2 0 0) rfl

variable (ha : Reads s x a u) (hc : Reads s x c v)
include ha hc

theorem execSemi_waits (hi : x.semIdle n = false) (hk : initOk u.toNat v.toNat = true) (hle : u.toNat % 4096 ≤ u.toNat / 4096 % 4096) :
    execSemi h n a c s = .next (waits s h 1 none (.semIdle 0 n u v) s) :=
  dealer_reqs_waits hr hg ((readA_bind hr ha _).trans <| (readC_bind hr hc _).trans <| (semiChecks_bind_ok hk hle _ s).trans <|
    semIdleOr_waits hr hi 0 u v) rfl

/-- SEMB with KIND 0 acts whether or not the semaphore is idle. -/
theorem execSemb_declares (hk : sembChecks x n u v s = .ok ((), s)) (h0 : u.toNat % 8 = 0) :
    execSemb h n a c s = .next (finish s x 1 true {} (s.upMe (·.modSem n (·.declare v.toNat)))) := by
  have h0' : bits u.toNat 0 3 = 0 := by simpa [bits] using h0
  refine dealer_upMe hr hg ?_ 1 true none
  refine (readA_bind hr ha _).trans <| (readC_bind hr hc _).trans <| (myCtx_bind hr _).trans <| (bind_ok _ _ _ _ _ hk).trans ?_
  rw [if_pos h0', semAct_declare h0']
  rfl
theorem execSemb_waits (hk : sembChecks x n u v s = .ok ((), s)) (h0 : u.toNat % 8 ≠ 0) (hi : x.semIdle n = false) :
    execSemb h n a c s = .next (waits s h 1 none (.semIdle 1 n u v) s) := by
  have h0' : bits u.toNat 0 3 ≠ 0 := by simpa [bits] using h0
  refine dealer_reqs_waits hr hg ?_ rfl
  refine (readA_bind hr ha _).trans <| (readC_bind hr hc _).trans <| (myCtx_bind hr _).trans <| (bind_ok _ _ _ _ _ hk).trans ?_
  rw [if_neg h0']
  exact semIdleOr_waits hr hi 1 u v

theorem execSemw_semUnsatisfiable (hu : (x.sems.get n).ceil < u.toNat ∨ u.toNat < v.toNat) :
    execSemw h n a c s = .next (preciseTrap s x .semUnsatisfiable u) := by
  refine dealer_trap _ _ _ _ _ _ _ _ _ hr hg <| (readA_bind hr ha _).trans <| (readC_bind hr hc _).trans <| (myCtx_bind hr _).trans <|
    check_bind_fail ?_ _ _ _ s
  rw [← Bool.decide_and, decide_eq_false_iff_not, not_and_or, not_le, not_le]
  exact hu
theorem execSemw_forwardWait (hu : u.toNat ≤ (x.sems.get n).ceil) (hv : v.toNat ≤ u.toNat) (hn : (x.sems.get n).n < u.toNat) :
    execSemw h n a c s = .next (preciseTrap s x .forwardWait u) :=
  dealer_trap _ _ _ _ _ _ _ _ _ hr hg <| (readA_bind hr ha _).trans <| (readC_bind hr hc _).trans <| (myCtx_bind hr _).trans <|
    (check_bind_ok (by rw [← Bool.decide_and]; exact decide_eq_true ⟨hu, hv⟩) _ _ _ s).trans <|
    check_bind_fail (decide_eq_false (Nat.not_le.mpr hn)) _ _ _ s
theorem execSemw_waits (hu : u.toNat ≤ (x.sems.get n).ceil) (hv : v.toNat ≤ u.toNat) (hn : u.toNat ≤ (x.sems.get n).n) :
    execSemw h n a c s = .next (waits s h 1 none (.semw n u.toNat v.toNat) (s.upMe (·.modSem n fun m =>
      { m with n := m.n - v.toNat, order := m.order ++ [.dealer] }))) :=
  dealer_reqs_waits hr hg ((readA_bind hr ha _).trans <| (readC_bind hr hc _).trans <| (myCtx_bind hr _).trans <|
    (check_bind_ok (by rw [← Bool.decide_and]; exact decide_eq_true ⟨hu, hv⟩) _ _ _ s).trans <|
    (check_bind_ok (decide_eq_true hn) _ _ _ s).trans rfl) (State.upMe_reqs ..)

end

/-- Settles O36: each instruction follows its checks through to its wait, or to the check that fails. -/
theorem semaphoreWaits : Obligations.SemaphoreWaits := by
  intro s x h n a c u v hr hg ha hc
  refine ⟨fun hu => execSemw_semUnsatisfiable hr hg ha hc hu, fun hu hv => ⟨fun hn => ?_, fun hn => ?_⟩, fun hi => ⟨?_, fun hk hle => ?_,
    fun hk hw => ⟨fun h0 => ?_, fun h4 => ?_, fun h1 h3 => fun hin ho => ?_⟩⟩⟩
  · exact execSemw_forwardWait hr hg ha hc hu hv hn
  · exact execSemw_waits hr hg ha hc hu hv hn
  · exact execSemk_waits hr hg hi
  · exact execSemi_waits hr hg ha hc hi hk hle
  · exact execSemb_declares hr hg ha hc (sembChecks_run_free hk hw (.inl h0) s) h0
  · exact execSemb_waits hr hg ha hc (sembChecks_run_free hk hw (.inr h4) s) (by omega) hi
  · exact execSemb_waits hr hg ha hc (sembChecks_run_binds hk hw h1 h3 hin ho s) (by omega) hi

end Sys2Proof.Machine
end

section
/-!
PROOFS. The instructions that drive chains (O38): KICK, FORK, DRAIN, RDV, CHSEQ and CHSTAT.
-/
namespace Sys2Proof.Machine
open Sys2Proof

/-! ## The chains of a mask (R179, R183) -/

theorem mem_maskChains {m : BitVec 4} {j : ChainNo} : j ∈ maskChains m ↔ m.getLsbD j = true := by simp [maskChains]
theorem maskChains_nodup (m : BitVec 4) : (maskChains m).Nodup := (List.nodup_finRange 4).filter _

theorem Ctx.modChain_get (x : Ctx) (k j : ChainNo) (f : Chain → Chain) :
    (x.modChain k f).chains.get j = if k = j then f (x.chains.get j) else x.chains.get j := by
  split
  · next h => subst h; exact vec_get_set _ k _ k.isLt
  · next h => exact vec_get_set_ne _ k j _ k.isLt h

/-- A change of each chain of a list changes those chains only, each once. -/
theorem foldl_modChain (f : Chain → Chain) {l : List ChainNo} (hl : l.Nodup) (x : Ctx) :
    (let y := l.foldl (fun y k => y.modChain k f) x
     y = { x with chains := y.chains } ∧ ∀ j, y.chains.get j = if j ∈ l then f (x.chains.get j) else x.chains.get j) := by
  induction l generalizing x with
  | nil => exact ⟨rfl, fun j => (if_neg List.not_mem_nil).symm⟩
  | cons k l ih =>
    obtain ⟨hk, hl⟩ := List.nodup_cons.mp hl
    obtain ⟨hrest, hget⟩ := ih hl (x.modChain k f)
    refine ⟨hrest, fun j => (hget j).trans ?_⟩
    rw [Ctx.modChain_get]
    by_cases hj : k = j
    · subst hj
      simp [hk]
    · simp [hj, Ne.symm hj]
/-- A change of each chain of a mask, as FORK and RDV make it. -/
def Ctx.modChains (m : BitVec 4) (f : Chain → Chain) (x : Ctx) : Ctx := (maskChains m).foldl (fun y k => y.modChain k f) x
theorem Ctx.modChains_frame (m : BitVec 4) (f : Chain → Chain) (x : Ctx) :
    x.modChains m f = { x with chains := (x.modChains m f).chains } ∧
      ∀ j, (x.modChains m f).chains.get j = if m.getLsbD j = true then f (x.chains.get j) else x.chains.get j := by
  obtain ⟨hrest, hget⟩ := foldl_modChain f (maskChains_nodup m) x
  exact ⟨hrest, fun j => (hget j).trans (if_congr mem_maskChains rfl rfl)⟩

/-! ## Putting back what is there -/

theorem vec_set_get {α : Type} {n : Nat} (v : Vector α n) (i : Fin n) : v.set i.val (v.get i) i.isLt = v := Vector.set_getElem_self i.isLt
theorem State.setTile_tile (s : State) (t : TileNo) : s.setTile t (s.tile t) = s := by
  rw [State.setTile, State.tile, vec_set_get]
theorem State.setSlot_ctx (s : State) (t : TileNo) (c : SlotNo) : s.setSlot t c (s.ctx? t c) = s := by
  rw [State.setSlot, State.ctx?, vec_set_get, State.setTile_tile]
/-- A change that leaves the context of a slot leaves the machine. -/
theorem State.modCtx_eq_self {s : State} {t : TileNo} {c : SlotNo} {x : Ctx} (hx : s.ctx? t c = some x) {f : Ctx → Ctx} (hf : f x = x) :
    s.modCtx t c f = s := by
  rw [State.modCtx, hx]
  calc s.setSlot t c (some (f x)) = s.setSlot t c (s.ctx? t c) := by rw [hf, hx]
    _ = s := s.setSlot_ctx t c

/-! ## A context with nothing queued (R181) -/

/-- Nothing of the chains of a context is left: no block, and no fault. -/
def Ctx.atRest (x : Ctx) : Prop := ∀ j : Fin 4, (x.chains.get j).queue = [] ∧ (x.chains.get j).state ≠ .faulted

theorem mem_vec_get {α : Type} {n : Nat} {v : Vector α n} {a : α} (h : a ∈ v.toList) : ∃ i : Fin n, v.get i = a := by
  obtain ⟨i, hi, e⟩ := Vector.mem_iff_getElem.mp (Vector.mem_toList_iff.mp h)
  exact ⟨⟨i, hi⟩, e⟩
/-- A change that no place of a vector feels leaves the vector. -/
theorem vec_map_eq_self {α : Type} {n : Nat} {v : Vector α n} {f : α → α} (h : ∀ i : Fin n, f (v.get i) = v.get i) : v.map f = v := by
  ext i hi
  rw [Vector.getElem_map]
  exact h ⟨i, hi⟩

section
variable {x : Ctx} (h : x.atRest)
include h

theorem allBlocks_atRest : allBlocks x = [] := by
  refine List.flatMap_eq_nil_iff.mpr fun k hk => ?_
  obtain ⟨j, rfl⟩ := mem_vec_get hk
  exact (h j).1
theorem closePatches_atRest : x.closePatches = x := by
  have e : x.closePatches.chains = x.chains := vec_map_eq_self fun j => by rw [(h j).1, List.map_nil, ← (h j).1]
  calc x.closePatches = { x with chains := x.closePatches.chains } := rfl
    _ = x := by rw [e]
theorem start_atRest :
    ({ x.closePatches with chains := x.closePatches.chains.map fun k => if k.queue.isEmpty then k else k.start } : Ctx) = x := by
  rw [closePatches_atRest h, vec_map_eq_self fun j => by rw [(h j).1]; rfl]

/-- Nothing starts, and nothing is abandoned. -/
theorem drainStart_atRest {s : State} (hr : Ready s x) : drainStart s = .ok ((), s) := by
  refine (me_bind _ s).trans <| (getCtx_bind hr _).trans <| (check_bind_ok (by rw [allBlocks_atRest h]; rfl) _ _ _ s).trans ?_
  rw [if_neg]
  · exact congrArg (fun t : State => Except.ok ((), t)) (State.modCtx_eq_self hr.here (start_atRest h))
  · rw [List.any_eq_true]
    rintro ⟨k, hk, hf⟩
    obtain ⟨j, rfl⟩ := mem_vec_get hk
    rw [Bool.and_eq_true, beq_iff_eq] at hf
    exact (h j).2 hf.1
/-- With no message of a block under way and no contribution held, the context is drained. -/
theorem drained_atRest {s : State} (hm : s.anyOutstanding x = false) (he : ∀ j : Fin 4, (x.covs.get j).early = []) : drained s x = true := by
  have hc : (x.covs.toList.all fun k => k.early.isEmpty) = true := by
    rw [List.all_eq_true]
    intro k hk
    obtain ⟨j, rfl⟩ := mem_vec_get hk
    rw [he j]
    rfl
  rw [drained, allBlocks_atRest h, hm, hc]
  rfl

end

@[simp] theorem acquireAt_reqs (t : TileNo) (ps : List Stamp) (s : State) : (acquireAt t ps s).reqs = s.reqs := rfl
@[simp] theorem acquireAt_mem (t : TileNo) (ps : List Stamp) (s : State) : (acquireAt t ps s).mem = s.mem := rfl
@[simp] theorem acquireAt_dcache (t : TileNo) (ps : List Stamp) (s : State) : ((acquireAt t ps s).tile t).dcache = [] := by
  rw [acquireAt, State.tile_setTile]

/-! ## The instructions -/

section
variable {s : State} {x : Ctx} {h : Hd} (hr : Ready s x) (hg : x.pred h.guard = true)
include hr hg

theorem execKick_next (k : Fin 4) : execKick h k s = .next (finish s x 1 true {} (s.upMe (·.modChain k Chain.kick))) :=
  dealer_upMe hr hg rfl 1 true none
theorem execFork_next (m : BitVec 4) :
    execFork h m s = .next (finish s x 1 true {} (s.upMe (Ctx.modChains m Chain.kick))) :=
  dealer_upMe hr hg rfl 1 true none
theorem execDrain_next (ha : x.atRest) (hm : s.anyOutstanding x = false) (he : ∀ j : Fin 4, (x.covs.get j).early = []) :
    execDrain h s = .next (finish s x 1 true {} (acquireAt s.cur [] s)) := by
  refine dealer_reqs hr hg ?_ (acquireAt_reqs ..) 1 true none
  refine (bind_ok _ _ _ _ _ (drainStart_atRest ha hr)).trans <| (me_bind _ s).trans <| (getCtx_bind hr _).trans <| (see_bind _ _ s).trans ?_
  rw [if_pos (drained_atRest ha hm he)]
  rfl
theorem execRdv_waits {m : BitVec 4} (hm : ∀ j : Fin 4, m.getLsbD j = true → ∃ e ∈ (x.chains.get j).queue, e.isRdv = true) :
    execRdv h m s = .next (waits s h 1 none (.rdv m) (s.upMe (Ctx.modChains m Chain.start))) := by
  refine dealer_reqs_waits hr hg ((myCtx_bind hr _).trans <| (check_bind_ok ?_ _ _ _ s).trans rfl) (State.upMe_reqs ..)
  rw [List.all_eq_true]
  exact fun k hk => List.any_eq_true.mpr (hm k (mem_maskChains.mp hk))
theorem execRdv_rdvMismatch {m : BitVec 4} (hm : ∃ j : Fin 4, m.getLsbD j = true ∧ ∀ e ∈ (x.chains.get j).queue, e.isRdv = false) :
    execRdv h m s = .next (preciseTrap s x .rdvMismatch (m.setWidth 64)) := by
  rw [← BitVec.ofNat_toNat]
  refine dealer_trap _ _ _ _ _ _ _ _ _ hr hg <| (myCtx_bind hr _).trans <| check_bind_fail ?_ _ _ _ s
  obtain ⟨j, hj, hq⟩ := hm
  rw [List.all_eq_false]
  refine ⟨j, mem_maskChains.mpr hj, ?_⟩
  rw [Bool.not_eq_true, List.any_eq_false]
  exact fun e he => by rw [hq e he]; decide
theorem execChseq_next (d : Dst) (k : Fin 4) : execChseq h d k s =
    .next (finish s x 1 true { val := some (BitVec.ofNat 64 (x.chains.get k).seq) } (s.upMe (·.setDst d (BitVec.ofNat 64 (x.chains.get k).seq)))) :=
  dealer_upMe hr hg (myCtx_bind hr _) 1 true none
theorem execChstat_next (d : Dst) (k : Fin 4) : execChstat h d k s =
    .next (finish s x 1 true { val := some (BitVec.ofNat 64 (chstatWord (x.chains.get k))) }
      (s.upMe (·.setDst d (BitVec.ofNat 64 (chstatWord (x.chains.get k)))))) :=
  dealer_upMe hr hg (myCtx_bind hr _) 1 true none

end

/-! ## KICK of one chain (R179) -/

theorem kick_stopped {k : Chain} (h : k.state = .stopped) : k.kick = { k with state := .running } := by simp only [Chain.kick, h]
theorem kick_running {k : Chain} (h : k.state = .running) : k.kick = k := by simp only [Chain.kick, h]
theorem kick_faulted {k : Chain} {f : ChainFault} (h : k.state = .faulted) (hf : k.fault = some f) :
    k.kick = if f.reported then { k with state := .running, fault := none } else k := by simp only [Chain.kick, h, hf]
/-- Blocks and the next number stay. -/
theorem kick_keeps (k : Chain) : k.kick.queue = k.queue ∧ k.kick.seq = k.seq := by
  unfold Chain.kick
  split
  · exact ⟨rfl, rfl⟩
  · exact ⟨rfl, rfl⟩
  · split
    · split
      · exact ⟨rfl, rfl⟩
      · exact ⟨rfl, rfl⟩
    · exact ⟨rfl, rfl⟩

/-- Settles O38: each instruction, and then the chain that a KICK leaves. -/
theorem chainControl : Obligations.ChainControl := by
  refine ⟨fun s x h d k m hr hg => ⟨execKick_next hr hg k, ?_, fun hq hm he => ?_, fun hm => ?_, execRdv_rdvMismatch hr hg,
    execChseq_next hr hg d k, execChstat_next hr hg d k⟩, fun k => ?_⟩
  · exact ⟨_, (execFork_next hr hg m).trans (by rw [State.upMe_const hr]), x.modChains_frame m Chain.kick⟩
  · have hout : s.anyOutstanding x = false := by
      rw [State.anyOutstanding, List.any_eq_false]
      intro q hq
      simpa only [Bool.and_eq_true, beq_iff_eq, and_assoc] using hm q hq
    exact ⟨_, execDrain_next hr hg hq hout he, (acquireAt_ctx ..).trans hr.here, acquireAt_mem .., acquireAt_dcache ..⟩
  · obtain ⟨hrest, hget⟩ := x.modChains_frame m Chain.start
    refine ⟨_, (execRdv_waits hr hg hm).trans (by rw [State.upMe_const hr]), hrest, fun j => (hget j).trans ?_⟩
    rw [Chain.start, ite_and]
  · obtain ⟨hqueue, hseq⟩ := kick_keeps k
    refine ⟨hqueue, hseq, kick_stopped, kick_running, fun f hs hf => ?_⟩
    rw [kick_faulted hs hf]
    exact ⟨fun hrep => by simp [hrep], fun hrep => by simp [hrep]⟩

end Sys2Proof.Machine
end

section
/-!
PROOFS. How contexts leave their dealer (O41): the end of a context in a cancelled job, YIELD and END outside one, and CANCEL.
-/
namespace Sys2Proof.Machine
open Sys2Proof

/-- The context in slot c of tile t after its last instruction, once its record has been retired with a cause (R140, R335). -/
def endedWith (t : TileNo) (c : SlotNo) (cause : Nat) (s : State) : State := retireCtx t c cause ((acquireAt t [] s).charge t c 8 1)

@[simp] theorem setCancel_reqs (job : Nat) (k : Fin 48) (s : State) : (setCancel job k s).reqs = s.reqs := by
  unfold setCancel
  dsimp only
  split <;> rfl

section
variable {s s3 : State} {x : Ctx} {h : Hd} {a c : Src} {u v : Word} (hr : Ready s x) (hg : x.pred h.guard = true)
include hr

/-- An effect whose writes by hardware are its dealer's. -/
theorem owning_run {m : M Eff} {e : Eff} {s1 : State} (hm : m s = .ok (e, s1)) :
    owning m s = .ok (e, ownWrites s.cur x s s1) := by
  have hx : s.ctx? s.cur (s.tile s.cur).cur = some x := hr.here
  simp only [owning, owningBy, hm, hx]

include hg

/-- An instruction that leaves the dealer in such an effect. -/
theorem dealer_owning {m : M Eff} {e : Eff} {s1 : State} (hm : m s = .ok (e, s1)) (hp : Pays s x (ownWrites s.cur x s s1) s3) :
    dealer h (owning m) s 1 true = .next (finish s x 1 true e s3) := dealer_done _ _ _ _ _ _ _ _ _ _ hr hg (owning_run hr hm) hp

omit hr hg in
/-- A context of a cancelled job, with its chains abandoned and nothing of them under way, ends here (R327). -/
theorem cancelHere_run {t : TileNo} {k : SlotNo} {s1 : State} {y : Ctx} (ha : Runs (abandonAt t k) s () s1) (hy : s1.ctx? t k = some y)
    (hd : drained s1 y = true) : cancelHere t k s = .ok ({ ctl := .leave }, endedWith t k 0x36 s1) := by
  refine (bind_ok _ _ _ _ _ ha).trans <| (ctx_bind hy _).trans <| (see_bind _ _ s1).trans ?_
  rw [if_pos hd]
  rfl

/-! ## A cancelled job (R327) -/

section
variable (hk : s.cancelled (clOf s.cur) x.job = true) {s1 : State} (hc : cancelHere s.cur s.mySlot s = .ok ({ ctl := .leave }, s1))
  (hp : Pays s x (ownWrites s.cur x s s1) s3)
include hk hc hp

theorem execYield_cancelled : execYield h s = .next (finish s x 1 true { ctl := .leave } s3) := by
  refine dealer_owning hr hg ((me_bind _ s).trans <| (getCtx_bind hr _).trans <| (see_bind _ _ s).trans ?_) hp
  rw [if_pos hk]
  exact hc
theorem execEndRec_cancelled : execEndRec h s = .next (finish s x 1 true { ctl := .leave } s3) := by
  refine dealer_owning hr hg ((me_bind _ s).trans <| (getCtx_bind hr _).trans <| (see_bind _ _ s).trans ?_) hp
  rw [if_pos hk]
  exact hc
theorem execAwait_cancelled (a c : Src) : execAwait h a c s = .next (finish s x 1 true { ctl := .leave } s3) := by
  refine dealer_owning hr hg ((me_bind _ s).trans <| (getCtx_bind hr _).trans <| (see_bind _ _ s).trans ?_) hp
  rw [if_pos hk]
  exact hc
theorem execGbar_cancelled (hw : x.wait = none) (a : Src) : execGbar h a s = .next (finish s x 1 true { ctl := .leave } s3) := by
  refine dealer_owning hr hg ((me_bind _ s).trans <| (getCtx_bind hr _).trans ?_) hp
  rw [hw]
  refine (see_bind _ _ s).trans ?_
  rw [if_pos hk]
  exact hc

end

/-- A GBAR that waits takes its arrival back before its context ends (log 48). -/
theorem execGbar_cancelled_waiting {n gen : Nat} {w : Wait} (hk : s.cancelled (clOf s.cur) x.job = true) (hw : x.wait = some w)
    (hwk : w.kind = .gbar n gen) (hgen : (s.group n).gen = gen) {s1 : State}
    (hc : cancelHere s.cur s.mySlot (s.setGroup { s.group n with arr := (s.group n).arr - 1 }) = .ok ({ ctl := .leave }, s1))
    (hp : Pays s x (ownWrites s.cur x s s1) s3) (a : Src) : execGbar h a s = .next (finish s x 1 true { ctl := .leave } s3) := by
  refine dealer_owning hr hg ((me_bind _ s).trans <| (getCtx_bind hr _).trans ?_) hp
  rw [hw, Option.map_some, hwk]
  refine (see_bind _ _ s).trans ?_
  rw [if_neg (not_not.mpr hgen)]
  refine (see_bind _ _ s).trans ?_
  rw [if_pos hk]
  exact (upd_bind _ _ s).trans hc

/-! ## YIELD and END (R335) -/

theorem execYield_next {pa : Nat} {r r1 s1 s2 s4 : State} (hk : s.cancelled (clOf s.cur) x.job = false) (hpa : runningRec s x = some pa)
    (ht : Runs (ownTag s.cur x x.record true) s () r)
    (he : Runs (eccTouch s.cur s.mySlot x x.record (pa + 16) 16)
      (r.setTile s.cur { r.tile s.cur with dcache := dropLine (r.tile s.cur).dcache (pa / 64 * 64) }) () r1)
    (hs : Runs (suspendRec s.cur s.mySlot x pa 2) r1 () s1)
    (hc : Runs (carry pa (releaseAt s.cur .dev s1).2) (releaseAt s.cur .dev s1).1 () s2)
    (hd : thiefPush s.cur x.job (s2.timed x.job) (recPrio s2 pa) x.record s2 = some s4) (hp : Pays s x (ownWrites s.cur x s s4) s3) :
    execYield h s = .next (finish s x 1 true { ctl := .leave } s3) := by
  refine dealer_owning hr hg ((me_bind _ s).trans <| (getCtx_bind hr _).trans <| (see_bind _ _ s).trans ?_) hp
  rw [hk, if_neg Bool.false_ne_true]
  refine (see_bind _ _ s).trans ?_
  rw [hpa]
  refine (bind_ok _ _ _ _ _ ht).trans <| (bind_ok _ _ _ _ _ (modTile_run ..)).trans <| (bind_ok _ _ _ _ _ he).trans <|
    (bind_ok _ _ _ _ _ hs).trans <| (bind_ok _ _ _ _ _ rfl).trans <| (bind_ok _ _ _ _ _ hc).trans <| (see_bind _ _ s2).trans ?_
  rw [hd]
  rfl

theorem execEndRec_next (hk : s.cancelled (clOf s.cur) x.job = false) (ha : x.atRest) (hm : s.anyOutstanding x = false)
    (he : ∀ j : Fin 4, (x.covs.get j).early = []) (hp : Pays s x (ownWrites s.cur x s (endedWith s.cur s.mySlot 0 s)) s3) :
    execEndRec h s = .next (finish s x 1 true { ctl := .leave } s3) := by
  refine dealer_owning hr hg ((me_bind _ s).trans <| (getCtx_bind hr _).trans <| (see_bind _ _ s).trans ?_) hp
  rw [hk, if_neg Bool.false_ne_true]
  refine (bind_ok _ _ _ _ _ (drainStart_atRest ha hr)).trans <| (getCtx_bind hr _).trans <| (see_bind _ _ s).trans ?_
  rw [if_pos (drained_atRest ha hm he)]
  rfl

/-! ## CANCEL (R336) -/

variable (ha : Reads s x a u)
include ha

theorem execCancel_priv (hu : u.toNat ≠ x.job) : execCancel h a s = .next (preciseTrap s x .priv u) :=
  dealer_trap _ _ _ _ _ _ _ _ _ hr hg <| (readA_bind hr ha _).trans <| (me_bind _ s).trans <| (getCtx_bind hr _).trans <|
    check_bind_fail (beq_eq_false_iff_ne.mpr hu) _ _ _ s

/-- CANCEL of the own job, once the flag of its own cluster stands. -/
theorem execCancel_next (hu : u.toNat = x.job) (hall : (setCancel x.job (clOf s.cur) s).cancelledAll x.job = true) :
    execCancel h a s = .next (finish s x 1 true {} (setCancel x.job (clOf s.cur) s)) := by
  refine dealer_reqs hr hg ?_ (setCancel_reqs ..) 1 true none
  refine (readA_bind hr ha _).trans <| (me_bind _ s).trans <| (getCtx_bind hr _).trans <| (check_bind_ok (beq_iff_eq.mpr hu) _ _ _ s).trans <|
    (upd_bind _ _ s).trans <| (see_bind _ _ _).trans ?_
  rw [if_pos hall]
  rfl
theorem execCancel_waits (hu : u.toNat = x.job) (hall : (setCancel x.job (clOf s.cur) s).cancelledAll x.job = false) :
    execCancel h a s = .next (waits s h 1 none (.cancel x.job) (setCancel x.job (clOf s.cur) s)) := by
  refine dealer_reqs_waits hr hg ?_ (setCancel_reqs x.job (clOf s.cur) s)
  refine (readA_bind hr ha _).trans <| (me_bind _ s).trans <| (getCtx_bind hr _).trans <| (check_bind_ok (beq_iff_eq.mpr hu) _ _ _ s).trans <|
    (upd_bind _ _ s).trans <| (see_bind _ _ _).trans ?_
  rw [hall]
  rfl

end

/-- Settles O41: each instruction follows its own path to the end of its context, or to its wait. -/
theorem recordsEnd : Obligations.RecordsEnd := by
  intro s s3 x h a c u v hr hg ha _
  refine ⟨fun hk s1 y hab hy hd hp => ?_, fun n gen w hk hw hwk hgen s1 y hab hy hd hp => ?_, fun hk => ⟨?_, ?_⟩, fun hu => ⟨?_, ?_⟩,
    execCancel_priv hr hg ha⟩
  · have hc := cancelHere_run hab hy hd
    simp only [List.forall_mem_cons, List.not_mem_nil, false_implies, implies_true, and_true]
    exact ⟨⟨execYield_cancelled hr hg hk hc hp, execEndRec_cancelled hr hg hk hc hp, execAwait_cancelled hr hg hk hc hp a c⟩,
      fun hw => execGbar_cancelled hr hg hk hc hp hw a⟩
  · exact execGbar_cancelled_waiting hr hg hk hw hwk hgen (cancelHere_run hab hy hd) hp a
  · exact fun pa r r1 s1 s2 s4 hpa ht he hs hc hd hp => execYield_next hr hg hk hpa ht he hs hc hd hp
  · exact fun hq hm he hp => execEndRec_next hr hg hk hq hm he hp
  · exact execCancel_next hr hg ha hu
  · exact execCancel_waits hr hg ha hu

end Sys2Proof.Machine
end

section
/-!
PROOFS. Window messages (O56): their arrival on this device or from another one, their answers, and their losses with the notices (R402 to R408).
-/
namespace Sys2Proof.Machine
open Sys2Proof

/-! ## Flits (R398) -/

/-- Two states that differ in the links and in the flits of messages only. -/
def FlitsOnly (s t : State) : Prop := t = { s with ports := t.ports, msgs := t.msgs }

namespace FlitsOnly

theorem refl (s : State) : FlitsOnly s s := rfl
theorem trans {s t u : State} (h : FlitsOnly s t) (k : FlitsOnly t u) : FlitsOnly s u :=
  calc u = { t with ports := u.ports, msgs := u.msgs } := k
    _ = { s with ports := u.ports, msgs := u.msgs } := congrArg (fun v : State => { v with ports := u.ports, msgs := u.msgs }) h
theorem pumpPort (p : Fin 18) (s : State) : FlitsOnly s (pumpPort p s) := by
  unfold Machine.pumpPort
  dsimp only
  split
  · exact .refl s
  · exact rfl
theorem modPortTo (s : State) (dev : Nat) (f : Link → Link) : FlitsOnly s (s.modPortTo dev f) := by
  unfold State.modPortTo
  split
  · split
    · exact rfl
    · exact .refl s
  · exact .refl s
theorem returnFlits (dev : Nat) (cls : Fin 4) (n : Nat) (s : State) : FlitsOnly s (returnFlits dev cls n s) := by
  unfold Machine.returnFlits
  split
  · exact .refl s
  · exact .modPortTo ..
theorem sendFlits (dev : Nat) (cls : Fin 4) (n : Nat) (s : State) : FlitsOnly s (sendFlits dev cls n s) := by
  unfold Machine.sendFlits
  split
  · exact .refl s
  · dsimp only
    split
    · split
      · exact (modPortTo s dev _).trans (pumpPort _ _)
      · exact .modPortTo ..
    · exact .modPortTo ..

section
variable {s t : State} (h : FlitsOnly s t)
include h
theorem mem : t.mem = s.mem := (congrArg State.mem (id h : t = _)).trans rfl
theorem answer : t.answer = s.answer := (congrArg State.answer (id h : t = _)).trans rfl
theorem notices : t.notices = s.notices := (congrArg State.notices (id h : t = _)).trans rfl
end

end FlitsOnly

/-! ## A message at its destination (R402, R404) -/

section
variable {s : State} {a : Arrival}

theorem receive_refused (he : entryOk (s.inw a.inb) a = false) : receive a s = .ok (.refused, s) := by
  refine (see_bind _ _ s).trans ?_
  rw [he]
  rfl
theorem receive_held (he : entryOk (s.inw a.inb) a = true) (hh : heldAtEntry s (s.inw a.inb) a.op = true) : receive a s = .ok (.held, s) := by
  refine (see_bind _ _ s).trans ?_
  rw [he]
  refine (see_bind _ _ s).trans ?_
  rw [hh]
  rfl

/-- Places without checks have no tags. -/
theorem placesTag_unchecked {ps : List (Nat × Bool)} (h : ∀ p ∈ ps, p.2 = false) (s : State) : placesTag ps s = .ok ((), s) := by
  have none : (ps.filterMap fun p => if p.2 then some (p.1 / 256 * 256) else none) = [] :=
    List.filterMap_eq_nil_iff.mpr fun p hp => by rw [h p hp]; rfl
  rw [placesTag, none]
  rfl

/-- A plain write is performed at its places. -/
theorem receive_write {ps : List (Nat × Bool)} {bs : List Byte} (he : entryOk (s.inw a.inb) a = true) (hk : (s.inw a.inb).kind = 0)
    (ht : targetOf s (s.inw a.inb) a = .at ps) (hc : ∀ p ∈ ps, p.2 = false) (ho : a.op = .write bs) :
    receive a s = .ok (.done [] 0 0 [] 0, placesPublish a ps false (placesWrite ps bs false s)) := by
  have hh : heldAtEntry s (s.inw a.inb) a.op = false := by rw [heldAtEntry, hk]; rfl
  have hp : perform (s.inw a.inb) a ps s = .ok ((.done [] 0 0 [] 0, true), placesPublish a ps false (placesWrite ps bs false s)) := by
    rw [perform, hk, ho]
    exact bind_ok _ _ _ _ _ (placesTag_unchecked hc s)
  refine (see_bind _ _ s).trans ?_
  rw [he]
  refine (see_bind _ _ s).trans ?_
  rw [hh]
  refine (see_bind _ _ s).trans ?_
  rw [ht]
  refine (bind_ok _ _ _ _ _ hp).trans ?_
  simp only [countArrival, hk]
  rfl

end

/-- What the arrival of a message of this device to itself leaves (R349, R402). -/
def arrived (m : Msg) (v : Verdict) (s s1 : State) : State :=
  setMsg m.id v.toMsg (if v = .held ∨ v = .refused then s1 else passCache m (m.places s) s1)

section
variable {s s1 : State} {m : Msg} {v : Verdict} (hd : m.dev = s.domain) (hb : msgBehind s m = false) (hp : behindPosts s m = false)
  (hv : receive m.arrival s = .ok (v, s1))
include hd hb hp hv

theorem arriveLocal_run : arriveLocal m s = .ok ((), arrived m v s s1) := by
  refine (see_bind _ _ s).trans <| (enabled_bind (by rw [hd, hb, hp, beq_self_eq_true]; rfl) _ s).trans <| (see_bind _ _ s).trans <|
    (bind_ok _ _ _ _ _ hv).trans ?_
  unfold arrived
  by_cases h : v = .held ∨ v = .refused
  · rw [if_pos (by simpa using h), if_pos h]
    rfl
  · rw [if_neg (by simpa using h), if_neg h]
    rfl

theorem windowMessageArrival_local (hf : s.input.flag = true)
    (hm : s.msgs.find? (fun k => k.id == s.input.value && k.state == .going) = some m) :
    exec .windowMessageArrival s = .next (arrived m v s s1).settled := by
  refine agent_done _ _ _ ((see_bind _ _ s).trans ?_)
  rw [if_pos hf]
  exact (see_bind _ _ s).trans <| (present_bind hm _ s).trans <| arriveLocal_run hd hb hp hv
theorem windowMessageRetry_local {i : Nat} (hm : s.msgs[i]? = some m) (hs : m.state = .held) :
    exec (.windowMessageRetry i) s = .next (arrived m v s s1).settled :=
  agent_done _ _ _ <| (see_bind _ _ s).trans <| (present_bind hm _ s).trans <| (enabled_bind (by rw [hs]; rfl) _ s).trans <|
    arriveLocal_run hd hb hp hv

end

/-- A message of another device, as the event brings it (log 16). -/
def inputArrival (i : Input) : Arrival :=
  { dev := i.who, job := i.nums[1]?.getD 0, inb := winNo (i.nums[0]?.getD 0), off := i.addr, op := inputOp i }

/-- A message of another device: its verdict is the answer (log 86). -/
theorem windowMessageArrival_foreign {s s1 : State} {v : Verdict} (hf : s.input.flag = false) (hw : s.input.who ≠ s.domain)
    (ho : (inputOp s.input).sane = true)
    (hv : receive (inputArrival s.input) s = .ok (v, s1)) :
    ∃ s', exec .windowMessageArrival s = .next s' ∧ s'.mem = s1.mem ∧ s'.answer = v.bytes := by
  let cls : Fin 4 := ⟨(s.input.nums[7]?.getD 0) % 4, Nat.mod_lt _ (by decide)⟩
  have flits : FlitsOnly { s1 with answer := v.bytes } (sendFlits s.input.who cls (1 + unitsOf v.payload)
      (returnFlits s.input.who cls (1 + unitsOf (inputOp s.input).payload) { s1 with answer := v.bytes })) :=
    (FlitsOnly.returnFlits ..).trans (.sendFlits ..)
  refine ⟨_, agent_done _ _ _ ((see_bind _ _ s).trans ?_), flits.mem, flits.answer⟩
  rw [hf, if_neg Bool.false_ne_true]
  refine (see_bind _ _ s).trans <| (enabled_bind ?_ _ s).trans <| bind_ok _ _ _ _ _ hv
  rw [ho, Bool.and_true, bne_iff_ne]
  exact hw

/-! ## The answer at the sender (R403, R404) -/

/-- The context of a message's block once its store's bytes have counted, and the units that the ceiling holds back (R196, R404). -/
def ackedBlock (m : Msg) (ch : ChainNo) (seq n k bad : Nat) (x : Ctx) : Ctx × List Nat :=
  countAck ch seq false m.count (addEvents n k (if blockStrict x ch seq = true then x else addDrops bad x))

/-- The state once the flits of an answer of n bytes have been taken in (R398, R424). -/
def answered (m : Msg) (n : Nat) (s : State) : State := chargePayload m n (returnFlits m.dev m.cls (1 + unitsOf n) s)

section
variable {s : State} {m : Msg} {i : Nat} (hm : s.msgs[i]? = some m) (hb : ackBehind s m = false)
include hm hb

/-- Every answer finds its message first, and takes in its flits. -/
theorem answered_bind {st : MsgState} (ha : msgAnswer s m = some st) (f : Msg → MsgState → M Unit) :
    (do
      let m ← present (← see fun s => s.msgs[i]?)
      let st ← present (← see fun s => msgAnswer s m)
      enabled (← see fun s => !ackBehind s m)
      upd (returnFlits m.dev m.cls (1 + unitsOf st.payload))
      upd (chargePayload m st.payload)
      f m st) s = f m st (answered m st.payload s) :=
  (see_bind _ _ s).trans <| (present_bind hm _ s).trans <| (see_bind _ _ s).trans <| (present_bind ha _ s).trans <|
    (see_bind _ _ s).trans <| (enabled_bind (congrArg not hb) _ s).trans <| (upd_bind _ _ s).trans <| upd_bind ..

section
variable {bs : List Byte} {n k bad : Nat} {ps : List Pub} (ha : msgAnswer s m = some (.done bs n k ps bad))
include ha

theorem windowAck_dealer (hc : m.chain = none) : exec (.windowAck i) s =
    .next ((dropMsg m.id (answered m bs.length s)).modWhere m.tile m.job m.num (giveAnswer m.id (.data bs ps bad))).settled := by
  refine agent_done _ _ _ ((answered_bind hm hb ha _).trans ?_)
  rw [hc]
  rfl
theorem windowAck_read {ch : ChainNo} {seq it z : Nat} (hc : m.chain = some (ch, seq, it)) (ho : m.op = .read z) : exec (.windowAck i) s =
    .next ((dropMsg m.id (answered m bs.length s)).modWhere m.tile m.job m.num (giveRead ch seq m.id (.data bs ps bad))).settled := by
  refine agent_done _ _ _ ((answered_bind hm hb ha _).trans ?_)
  rw [hc, ho]
  rfl

/-- A store whose units the ceiling does not hold back, and whose bytes could be read or are strict. -/
theorem windowAck_write {ch : ChainNo} {seq it : Nat} {w : List Byte} {x : Ctx} (hc : m.chain = some (ch, seq, it)) (ho : m.op = .write w)
    (hx : (dropMsg m.id (answered m bs.length s)).whereCtx m.tile m.job m.num = some x) (hbad : bad = 0 ∨ blockStrict x ch seq = true)
    (hheld : (ackedBlock m ch seq n k bad x).2 = []) :
    exec (.windowAck i) s = .next ((dropMsg m.id (answered m bs.length s)).modWhere m.tile m.job m.num fun _ =>
      if bad = 0 then (ackedBlock m ch seq n k bad x).1
      else faultMsg ch seq it .eccStrict m.addr (ackedBlock m ch seq n k bad x).1).settled := by
  unfold ackedBlock at hheld ⊢
  refine agent_done _ _ _ ((answered_bind hm hb ha _).trans ?_)
  rw [hc, ho]
  refine (upd_bind _ _ _).trans <| (see_bind _ _ _).trans <| (present_bind hx _ _).trans <| (upd_bind _ _ _).trans ?_
  rw [hheld]
  by_cases h0 : bad = 0
  · subst h0
    rfl
  · have hs := hbad.resolve_left h0
    simp only [hs, h0, if_true, if_false, bne_iff_ne, ne_eq, not_false_eq_true, Bool.and_true, Bool.not_true, Bool.and_false, Bool.false_eq_true]
    rfl

end

variable (ha : msgAnswer s m = some .refused)
include ha

theorem windowAck_dealer_refused (hc : m.chain = none) : exec (.windowAck i) s =
    .next ((dropMsg m.id (answered m 0 s)).modWhere m.tile m.job m.num (giveAnswer m.id .refused)).settled := by
  refine agent_done _ _ _ ((answered_bind hm hb ha _).trans ?_)
  rw [hc]
  rfl
theorem windowAck_write_refused {ch : ChainNo} {seq it : Nat} {w : List Byte} (hc : m.chain = some (ch, seq, it)) (ho : m.op = .write w) :
    exec (.windowAck i) s = .next ((setMsg m.id .parked (answered m 0 s)).modWhere m.tile m.job m.num
      (faultMsg ch seq it .windowFault m.addr)).settled := by
  refine agent_done _ _ _ ((answered_bind hm hb ha _).trans ?_)
  rw [hc, ho]
  rfl

end

/-! ## Losses (R403, R405) -/

section
variable {s : State} {m : Msg} {i : Nat} (hm : s.msgs[i]? = some m) (hb : ackBehind s m = false) (hl : m.state = .lost)
include hm hb hl

/-- Every loss finds its message first. -/
theorem lost_bind (f : Msg → M Unit) :
    (do
      let m ← present (← see fun s => s.msgs[i]?)
      enabled (m.state == MsgState.lost && (← see fun s => !ackBehind s m))
      f m) s = f m s :=
  (see_bind _ _ s).trans <| (present_bind hm _ s).trans <| (see_bind _ _ s).trans <| enabled_bind (by rw [hl, hb]; rfl) _ s

theorem lossDetected_dealer (hc : m.chain = none) : exec (.lossDetected i) s =
    .next ((dropMsg m.id s).modWhere m.tile m.job m.num (giveAnswer m.id .lost)).settled := by
  refine agent_done _ _ _ ((lost_bind hm hb hl _).trans ?_)
  rw [hc]
  rfl

variable {ch : ChainNo} {seq it : Nat} {x : Ctx} (hc : m.chain = some (ch, seq, it)) (hx : s.whereCtx m.tile m.job m.num = some x)
include hc hx

theorem lossDetected_read {z : Nat} (ho : m.op = .read z) :
    (let s1 := (dropMsg m.id s).modWhere m.tile m.job m.num (giveRead ch seq m.id .lost)
     exec (.lossDetected i) s = .next (if blockStrict x ch seq = true then s1 else sendNotice m s1).settled) := by
  refine agent_done _ _ _ ((lost_bind hm hb hl _).trans ?_)
  rw [hc, ho]
  refine (see_bind _ _ s).trans <| (present_bind hx _ s).trans <| (upd_bind _ _ s).trans <| (upd_bind _ _ _).trans ?_
  split
  · rfl
  · rfl
theorem lossDetected_write_strict {w : List Byte} (ho : m.op = .write w) (hs : blockStrict x ch seq = true) : exec (.lossDetected i) s =
    .next ((setMsg m.id .parked s).modWhere m.tile m.job m.num (faultMsg ch seq it .windowFault m.addr)).settled := by
  refine agent_done _ _ _ ((lost_bind hm hb hl _).trans ?_)
  rw [hc, ho]
  refine (see_bind _ _ s).trans <| (present_bind hx _ s).trans ?_
  rw [if_pos hs]
  rfl
/-- Under counted-drop the lost bytes count, and the destination gets a notice (log 135). -/
theorem lossDetected_write_counted {w : List Byte} (ho : m.op = .write w) (hs : blockStrict x ch seq = false)
    (hheld : (countLost ch seq w.length m.count x).2 = []) : exec (.lossDetected i) s =
      .next (let s1 := (dropMsg m.id s).modWhere m.tile m.job m.num fun _ => (countLost ch seq w.length m.count x).1
             sendNotice m (s1.addErr (causeRec s1 m.tile x .windowFault m.addr (BitVec.ofNat 64 w.length)))).settled := by
  refine agent_done _ _ _ ((lost_bind hm hb hl _).trans ?_)
  rw [hc, ho]
  refine (see_bind _ _ s).trans <| (present_bind hx _ s).trans ?_
  rw [hs, if_neg Bool.false_ne_true]
  refine (upd_bind _ _ s).trans <| (upd_bind _ _ _).trans ?_
  rw [show (countLost ch seq (MsgOp.write w).size m.count x).2 = [] from hheld]
  rfl

end

/-! ## Notices (R405 to R407) -/

section
variable {s : State}

theorem lossNotice_own (hf : s.input.flag = true) {n : Nat × Nat × Nat × Nat × Nat} (hn : s.notices[s.input.value]? = some n) :
    exec .lossNotice s = .next (if s.input.size = 1 then sendFlits n.1 3 1 s
      else { returnFlits n.1 3 1 s with notices := s.notices.eraseIdx s.input.value } : State).settled := by
  refine agent_done _ _ _ ((see_bind _ _ s).trans ?_)
  rw [if_pos hf]
  refine (see_bind _ _ s).trans <| (present_bind hn _ s).trans ?_
  split
  · rfl
  · refine (upd_bind _ _ s).trans ?_
    rw [← (FlitsOnly.returnFlits n.1 3 1 s).notices]
    rfl

/-- The inbound entry that a notice of another device names. -/
def noticedInw (s : State) : InWin := s.inw (winNo (s.input.nums[0]?.getD 0))

variable (hf : s.input.flag = false) (hn : s.input.nums[0]?.getD 0 < 256)
include hf hn

theorem lossNotice_uncounted (hk : (noticedInw s).kind = 0) :
    exec .lossNotice s = .next (sendFlits s.input.who 3 1 (returnFlits s.input.who 3 1 s)).settled := by
  refine agent_done _ _ _ ((see_bind _ _ s).trans ?_)
  rw [hf, if_neg Bool.false_ne_true]
  refine (see_bind _ _ s).trans ?_
  rw [if_neg (Nat.not_le.mpr hn), if_pos (by rw [show (s.inw _).kind = 0 from hk]; simp)]
  rfl
/-- At a doorbell the lost amounts count. -/
theorem lossNotice_doorbell {s1 : State} (hv : (noticedInw s).v = true) (hb : (noticedInw s).bound = true) (hk : (noticedInw s).kind = 2)
    (ha : Runs (applyArrival (noticedInw s) (winNo (s.input.nums[0]?.getD 0)) (s.input.nums[3]?.getD 0) true none) s () s1) :
    exec .lossNotice s = .next (sendFlits s.input.who 3 1 (returnFlits s.input.who 3 1 s1)).settled := by
  refine agent_done _ _ _ ((see_bind _ _ s).trans ?_)
  rw [hf, if_neg Bool.false_ne_true]
  refine (see_bind _ _ s).trans ?_
  rw [if_neg (Nat.not_le.mpr hn), if_neg (by rw [show (s.inw _).kind = 2 from hk, show (s.inw _).v = true from hv]; simp)]
  refine (enabled_bind hb _ s).trans ?_
  rw [if_neg (by rw [show (s.inw _).kind = 2 from hk]; decide)]
  exact bind_ok _ _ _ _ _ ha

end

/-- Settles O56: each message, answer, loss and notice takes its own path. -/
theorem peers : Obligations.Peers := by
  refine ⟨fun s m i hd hb hp => ?_, fun s a v s1 hf hw ha ho hv => ?_, fun s m i hm hb => ⟨fun bs n k ps bad ha => ?_, fun ha => ?_, fun hl => ?_⟩,
    fun s => ⟨fun n hf hn => lossNotice_own hf hn, lossNotice_uncounted, fun s1 hf hn hv hb hk ha => lossNotice_doorbell hf hn hv hb hk ha⟩⟩
  · have arrives : ∀ {v s1}, receive m.arrival s = .ok (v, s1) → _ := fun hv =>
      And.intro (windowMessageArrival_local hd hb hp hv) (windowMessageRetry_local (i := i) hd hb hp hv)
    refine ⟨fun he => arrives (receive_refused he), fun he hh => arrives (receive_held he hh), fun ps bs he hk ht hc ho => ?_, fun v s1 hv => ?_⟩
    · exact arrives (receive_write he hk ht hc ho)
    · exact arrives hv
  · subst ha
    obtain ⟨s', hn, hmem, hans⟩ := windowMessageArrival_foreign hf hw ho hv
    refine ⟨s', hn, hmem, hans.trans ?_⟩
    cases v <;> rfl
  · refine ⟨windowAck_dealer hm hb ha, fun ch seq it hc => ⟨fun z ho => windowAck_read hm hb ha hc ho, fun w x ho hx hheld hbad => ?_⟩⟩
    exact windowAck_write hm hb ha hc ho hx hbad hheld
  · exact ⟨windowAck_dealer_refused hm hb ha, fun ch seq it w hc ho => windowAck_write_refused hm hb ha hc ho⟩
  · refine ⟨lossDetected_dealer hm hb hl, fun ch seq it x hc hx => ⟨fun z ho => lossDetected_read hm hb hl hc hx ho, fun w ho => ⟨fun hs => ?_,
      fun hs hheld => ?_⟩⟩⟩
    · exact lossDetected_write_strict hm hb hl hc hx ho hs
    · exact lossDetected_write_counted hm hb hl hc hx ho hs hheld

end Sys2Proof.Machine
end

section
/-!
PROOFS. What the steps of blocks rest on (O53): entries of a chain and their changes, a slot's context through a step (`Leaves`), the units that a
step pays, the posts of a block and its retirement (`Retired`).
-/
namespace Sys2Proof.Machine
open Sys2Proof

/-! ## Entries (R157) -/

section
variable {x : Ctx} {ch j : ChainNo} {seq n : Nat} {f : Entry → Entry}

theorem Ctx.chain_modChain (g : Chain → Chain) : (x.modChain ch g).chain j = if ch = j then g (x.chain j) else x.chain j := x.modChain_get ch j g
theorem Ctx.chain_modChain_same (g : Chain → Chain) : (x.modChain ch g).chain ch = g (x.chain ch) := by rw [Ctx.chain_modChain, if_pos rfl]

/-- A change of the entries with one number leaves the entries with the others. -/
theorem filter_modEntry (q : List Entry) (hf : ∀ e, (f e).seq = e.seq) :
    (q.map fun e => if e.seq == seq then f e else e).filter (·.seq != seq) = q.filter (·.seq != seq) := by
  induction q with
  | nil => rfl
  | cons e q ih =>
    rw [List.map_cons, List.filter_cons, List.filter_cons, ih]
    by_cases h : e.seq = seq
    · simp [h, hf]
    · simp [h]
theorem find_modEntry (q : List Entry) (hf : ∀ e, (f e).seq = e.seq) :
    (q.map fun e => if e.seq == seq then f e else e).find? (·.seq == n) =
      if seq = n then (q.find? (·.seq == n)).map f else q.find? (·.seq == n) := by
  have same : (fun e : Entry => (if e.seq == seq then f e else e).seq == n) = (·.seq == n) := by
    funext e
    split
    · rw [hf]
    · rfl
  rw [List.find?_map, Function.comp_def, same]
  cases hq : q.find? (·.seq == n) with
  | none => simp
  | some e =>
    have hn : e.seq = n := by simpa using List.find?_some hq
    by_cases h : seq = n
    · simp [hn, h]
    · simp [hn, h, Ne.symm h]

theorem Ctx.entry_modEntry (hf : ∀ e, (f e).seq = e.seq) :
    (x.modEntry ch seq f).entry? j n = if ch = j ∧ seq = n then (x.entry? j n).map f else x.entry? j n := by
  rw [Ctx.entry?, Ctx.modEntry, Ctx.chain_modChain]
  by_cases h : ch = j
  · rw [if_pos h, find_modEntry _ hf]
    simp only [h, true_and]
    rfl
  · rw [if_neg h, if_neg fun k => h k.1]
    rfl
theorem Ctx.entry_modRun {g : Progress → Progress} :
    (x.modRun ch seq g).entry? j n = if ch = j ∧ seq = n then (x.entry? j n).map (fun e => { e with run := g e.run }) else x.entry? j n :=
  Ctx.entry_modEntry fun _ => rfl
theorem Ctx.entry_modRun_same {g : Progress → Progress} {e : Entry} (h : x.entry? ch seq = some e) :
    (x.modRun ch seq g).entry? ch seq = some { e with run := g e.run } := by
  rw [Ctx.entry_modRun, if_pos ⟨rfl, rfl⟩, h]
  rfl

/-- The head of a chain is the first entry with its number. -/
theorem Ctx.entry_head {e : Entry} (h : (x.chain ch).queue.head? = some e) : x.entry? ch e.seq = some e := by
  obtain ⟨q, hq⟩ := List.head?_eq_some_iff.mp h
  rw [Ctx.entry?, hq, List.find?_cons, beq_self_eq_true]

/-- Beside the entries with one number, a change of those leaves the chain. -/
theorem Ctx.queue_modEntry_filter (hf : ∀ e, (f e).seq = e.seq) :
    ((x.modEntry ch seq f).chain ch).queue.filter (·.seq != seq) = (x.chain ch).queue.filter (·.seq != seq) := by
  rw [Ctx.modEntry, Ctx.chain_modChain_same]
  exact filter_modEntry _ hf

end

/-! ## The context of a slot through a step -/

/-- From s to u memory and requests stay, and slot c of tile t holds y in u. -/
structure Leaves (t : TileNo) (c : SlotNo) (s u : State) (y : Ctx) : Prop where
  ctx  : u.ctx? t c = some y
  mem  : u.mem = s.mem
  reqs : u.reqs = s.reqs

section
variable {t : TileNo} {c : SlotNo} {s u v : State} {x y : Ctx}

theorem Leaves.refl (h : s.ctx? t c = some x) : Leaves t c s s x := ⟨h, rfl, rfl⟩
theorem Leaves.trans (h : Leaves t c s u x) (k : Leaves t c u v y) : Leaves t c s v y := ⟨k.ctx, k.mem.trans h.mem, k.reqs.trans h.reqs⟩
theorem Leaves.modCtx (h : Leaves t c s u x) (f : Ctx → Ctx) : Leaves t c s (u.modCtx t c f) (f x) where
  ctx := by rw [State.ctx_modCtx, h.ctx, Option.map_some]
  mem := (State.modCtx_mem ..).trans h.mem
  reqs := (State.modCtx_reqs ..).trans h.reqs
theorem unpin_frame (job : Nat) (ps : List (Fin 8 × Nat × Nat)) (s : State) : unpin job ps s = { s with dies := (unpin job ps s).dies } := by
  unfold unpin
  induction ps generalizing s with
  | nil => rfl
  | cons p ps ih =>
    rw [List.foldl_cons]
    refine (ih _).trans ?_
    rfl
theorem Leaves.unpin (h : Leaves t c s u x) (job : Nat) (ps : List (Fin 8 × Nat × Nat)) : Leaves t c s (unpin job ps u) x := by
  have e := unpin_frame job ps u
  exact ⟨(congrArg (fun w : State => w.ctx? t c) e).trans h.ctx, (congrArg State.mem e).trans h.mem, (congrArg State.reqs e).trans h.reqs⟩
theorem Leaves.unmetered (h : Leaves t c s u x) (hs : s.Unmetered) : u.Unmetered := by
  obtain ⟨hh, hn⟩ := hs
  exact ⟨by rw [State.meterHbm, h.reqs]; exact hh, by rw [State.meterNet, h.reqs]; exact hn⟩

end

/-! ## Steps of blocks (R418) -/

section
variable {t : TileNo} {c : SlotNo} {ch : ChainNo} {e : Entry} {job : Nat} {m : M Unit} {s s1 s2 : State}

/-- A step of a block whose units are paid. -/
theorem blockStep_run (hm : m s = .ok ((), s1)) (hp : settleStep s t c (some (ch, e.seq)) job s1 = some s2) :
    blockStep t c ch e job m s = .ok ((), s2) := by
  have h : paying t c (some (ch, e.seq)) job m s = .ok ((), s2) := by simp only [paying, hm, hp]
  simp only [blockStep, h]
/-- A step of a block that owes nothing. -/
theorem blockStep_free (hm : m s = .ok ((), s1)) (hu : s1.Unmetered) : blockStep t c ch e job m s = .ok ((), s1) :=
  blockStep_run hm (settleStep_zero _ _ _ _ _ _ hu.1 hu.2)

end

/-- The refills of a die touch dies only. -/
theorem refills_frame (d : Fin 8) (n : Nat) (s : State) : refills d n s = { s with dies := (refills d n s).dies } := by
  induction n generalizing s with
  | zero => rfl
  | succ n ih => exact (ih _).trans rfl
theorem settleDie_frame (d : Fin 8) (s : State) : settleDie d s = { s with dies := (settleDie d s).dies } := by
  unfold settleDie
  dsimp only
  split
  · rfl
  · exact congrArg (fun u : State => { u with dies := u.dies.set d { u.dies.get d with period := (s.dies.get d).period + 1024 * refillsDue s d } })
      (refills_frame d _ s)
theorem State.dropReq_ctx (s : State) (t : TileNo) (c : SlotNo) (w : Option (ChainNo × Nat)) (b : SlotNo) :
    (s.dropReq t c w).ctx? t b = s.ctx? t b := by
  unfold State.dropReq
  split
  · rfl
  · simp only [State.ctx?, State.tile_setTile]

theorem settleDie_ctx (d : Fin 8) (s : State) (t : TileNo) (c : SlotNo) : (settleDie d s).ctx? t c = s.ctx? t c := by
  rw [settleDie_frame]
  rfl

/-- What paying leaves: contexts and memory, and nothing that is still owed (R419, R421). -/
theorem payUnits_leaves {s0 s s' : State} {t : TileNo} {c : SlotNo} {w : Option (ChainNo × Nat)} {job : Nat} (h : payUnits s0 t c w job s = some s') :
    s'.mem = s.mem ∧ s'.Unmetered ∧ s'.ctx? t c = s.ctx? t c := by
  unfold payUnits at h
  dsimp only at h
  split at h
  · next free =>
    cases h
    exact ⟨rfl, by simpa [State.Unmetered] using free, rfl⟩
  · split at h
    · cases h
      exact ⟨rfl, ⟨rfl, rfl⟩, rfl⟩
    · split at h
      · cases h
        exact ⟨settleDie_mem _ s, ⟨rfl, rfl⟩, settleDie_ctx _ s t c⟩
      · split at h
        · cases h
          exact ⟨(State.dropReq_mem _ _ _ _).trans (settleDie_mem _ s), ⟨rfl, rfl⟩, (State.dropReq_ctx _ _ _ _ _).trans (settleDie_ctx _ s t c)⟩
        · cases h

/-- The accesses of a step change a counter of its context, and the mark of a descheduled queue (R424, R426). -/
theorem chargeAccess_leaves {s0 s : State} {t : TileNo} {c : SlotNo} {x y : Ctx} (hx : s0.ctx? t c = some x) (hy : s.ctx? t c = some y)
    (hj : y.job = x.job) (hn : y.num = x.num) (n : Nat) :
    ∃ d a, (chargeAccess s0 t c n s).ctx? t c = some { y with desched := d, activity := a } := by
  unfold chargeAccess
  have here : ((s.ctx? t c).any fun y => y.job == x.job && y.num == x.num) = true := by simp [hy, hj, hn]
  split
  · exact ⟨_, _, hy⟩
  · simp only [hx]
    split
    · exact ⟨_, _, hy⟩
    · next j _ =>
      rw [here, if_pos rfl]
      have counted : (s.modCtx t c (·.count 6 n)).ctx? t c = some (y.count 6 n) := by rw [State.ctx_modCtx, hy, Option.map_some]
      obtain ⟨z, hz, hu⟩ := (Alike.chargeQueue _ j.queue 6 n).ctx_some counted
      refine ⟨z.desched, z.activity, hz.trans (congrArg some ?_)⟩
      calc z = { z.unmark with desched := z.desched, activity := z.activity } := rfl
        _ = { (y.count 6 n).unmark with desched := z.desched, activity := z.activity } := by rw [hu]

/-- What a paid step leaves of its context (R418, R424). -/
theorem settleStep_leaves {s s1 s2 : State} {t : TileNo} {c : SlotNo} {w : Option (ChainNo × Nat)} {job : Nat} {x y : Ctx}
    (h : settleStep s t c w job s1 = some s2) (hx : s.ctx? t c = some x) (hy : s1.ctx? t c = some y) (hj : y.job = x.job) (hn : y.num = x.num) :
    s2.mem = s1.mem ∧ s2.Unmetered ∧ ∃ d a, s2.ctx? t c = some { y with desched := d, activity := a } := by
  obtain ⟨hm, hu, hc⟩ := payUnits_leaves h
  obtain ⟨d, a, hz⟩ := chargeAccess_leaves hx hy hj hn s1.meterHbm
  exact ⟨hm.trans (chargeAccess_mem ..), hu, d, a, hc.trans hz⟩

/-! ## Posts and retirement (R166, R170) -/

/-- A post of a semaphore, applied. -/
def Ctx.post (p : PostTok) (y : Ctx) : Ctx := y.modSem p.sem fun m => { m with count := m.count + p.amt }
/-- A block's posts of semaphores, applied in order. -/
def Ctx.postAll (b : Blk) (y : Ctx) : Ctx := b.posts.foldl (fun y p => y.post p) y

theorem Ctx.modSem_get (x : Ctx) (n k : SemNo) (f : Sem → Sem) : (x.modSem n f).sem k = if n = k then f (x.sem k) else x.sem k := by
  split
  · next h => subst h; exact vec_get_set _ n _ n.isLt
  · next h => exact vec_get_set_ne _ n k _ n.isLt h
theorem postAll_chains (b : Blk) (y : Ctx) : (y.postAll b).chains = y.chains := by
  unfold Ctx.postAll
  induction b.posts generalizing y with
  | nil => rfl
  | cons p ps ih => exact (ih _).trans rfl
/-- Each semaphore's count is raised by its posts. -/
theorem postAll_count (b : Blk) (y : Ctx) (n : SemNo) :
    ((y.postAll b).sem n).count = (y.sem n).count + ((b.posts.filter (·.sem == n)).map (·.amt)).sum := by
  unfold Ctx.postAll
  induction b.posts generalizing y with
  | nil => rfl
  | cons p ps ih =>
    rw [List.foldl_cons, ih, Ctx.post, Ctx.modSem_get, List.filter_cons]
    by_cases h : p.sem = n
    · simp [h, Nat.add_assoc]
    · simp [h]

theorem postsOver_congr {x y : Ctx} (h : y.sems = x.sems) (ps : List PostTok) : postsOver y ps = postsOver x ps := by
  unfold postsOver Ctx.sem
  rw [h]

/-- The posts of a block that resolves no future, within their ceilings. -/
theorem applyPosts_run {s u : State} {t : TileNo} {c : SlotNo} {y : Ctx} {e : Entry} (h : Leaves t c s u y)
    (hp : ∀ p ∈ e.linked.posts, p.fut = false) (hl : postsOver y e.linked.posts = false) :
    ∃ v, applyPosts t c y e u = .ok ((), v) ∧ Leaves t c s v (y.postAll e.linked) := by
  unfold applyPosts Ctx.postAll
  rw [if_neg (by rw [hl]; exact Bool.false_ne_true)]
  unfold Blk.posts at hp ⊢
  cases h0 : e.linked.hdr.p0 with
  | none =>
    cases h1 : e.linked.hdr.p1 with
    | none => exact ⟨_, rfl, h⟩
    | some q =>
      have hq : q.fut = false := hp q (by simp [h1])
      refine ⟨_, ?_, h.modCtx (Ctx.post q)⟩
      simp only [hq]
      rfl
  | some p =>
    have hp0 : p.fut = false := hp p (by simp [h0])
    cases h1 : e.linked.hdr.p1 with
    | none =>
      refine ⟨_, ?_, h.modCtx (Ctx.post p)⟩
      simp only [hp0]
      rfl
    | some q =>
      have hq : q.fut = false := hp q (by simp [h1])
      refine ⟨_, ?_, (h.modCtx (Ctx.post p)).modCtx (Ctx.post q)⟩
      simp only [hp0, hq]
      rfl

/-- From y to z block e of chain ch has retired: its entry is gone, its posts are made, and other chains stay. -/
structure Retired (y : Ctx) (ch : ChainNo) (e : Entry) (z : Ctx) : Prop where
  queue  : (z.chain ch).queue = (y.chain ch).queue.filter (·.seq != e.seq)
  state  : (z.chain ch).state = (y.chain ch).state
  others : ∀ j, j ≠ ch → z.chain j = y.chain j
  counts : ∀ n, (z.sem n).count = (y.sem n).count + ((e.linked.posts.filter (·.sem == n)).map (·.amt)).sum

theorem contributeAll_frame (e : Entry) (bsum bn : Nat) (x : Ctx) :
    contributeAll e bsum bn x = { x with covs := (contributeAll e bsum bn x).covs } := by
  unfold contributeAll
  induction e.cap.covs generalizing x with
  | nil => rfl
  | cons k ks ih =>
    rw [List.foldl_cons]
    refine (ih _).trans ?_
    split <;> rfl

theorem contributeAll_chains (e : Entry) (bsum bn : Nat) (x : Ctx) : (contributeAll e bsum bn x).chains = x.chains := by
  rw [contributeAll_frame]
theorem contributeAll_sems (e : Entry) (bsum bn : Nat) (x : Ctx) : (contributeAll e bsum bn x).sems = x.sems := by
  rw [contributeAll_frame]

/-- What a retirement leaves of a context, whatever it notes of the chain beside its queue. -/
theorem retired_of {y : Ctx} {ch : ChainNo} {e : Entry} (bsum bn : Nat) {g : Chain → Chain}
    (hq : (g (y.chain ch)).queue = (y.chain ch).queue.filter (·.seq != e.seq)) (hs : (g (y.chain ch)).state = (y.chain ch).state) :
    Retired y ch e (contributeAll e bsum bn ((y.postAll e.linked).modChain ch g)) := by
  have all : ∀ j, (contributeAll e bsum bn ((y.postAll e.linked).modChain ch g)).chain j = if ch = j then g (y.chain j) else y.chain j := by
    intro j
    rw [Ctx.chain, contributeAll_chains]
    show ((y.postAll e.linked).modChain ch g).chain j = _
    rw [Ctx.chain_modChain, Ctx.chain, postAll_chains]
    rfl
  have own := (all ch).trans (if_pos rfl)
  exact {
    queue := by rw [own, hq]
    state := by rw [own, hs]
    others := fun j hj => (all j).trans (if_neg (Ne.symm hj))
    counts := fun n => by
      rw [Ctx.sem, contributeAll_sems]
      exact postAll_count e.linked y n }

theorem retireBlock_run {s u : State} {t : TileNo} {c : SlotNo} {ch : ChainNo} {y : Ctx} {e : Entry} (h : Leaves t c s u y)
    (hp : ∀ p ∈ e.linked.posts, p.fut = false) (hl : postsOver y e.linked.posts = false) (bsum bn : Nat) :
    ∃ v z, retireBlock t c ch e bsum bn u = .ok ((), v) ∧ Leaves t c s v z ∧ Retired y ch e z := by
  obtain ⟨v, hv, hlv⟩ := applyPosts_run h hp hl
  exact ⟨_, _, (ctx_bind h.ctx _).trans <| (bind_ok _ _ _ _ _ hv).trans <| (bind_ok _ _ _ _ _ (modCtx_run ..)).trans (upd_run ..),
    (hlv.modCtx _).unpin _ _, retired_of bsum bn rfl rfl⟩

end Sys2Proof.Machine
end

section
/-!
PROOFS. Actions of blocks that end in their retirement (O53): NOP, END and MARK.
-/
namespace Sys2Proof.Machine
open Sys2Proof

/-! ## Actions (R170, R182, R264) -/

/-- The block has acted, and waits for its retirement. -/
def Ctx.acted (ch : ChainNo) (seq : Nat) (x : Ctx) : Ctx := x.modRun ch seq fun r => { r with ended := true, stalled := false }

section
variable {t : TileNo} {c : SlotNo} {ch : ChainNo} {x y : Ctx} {e : Entry} {s s1 s2 : State} {act : M Unit}

theorem Acts.named (h : Acts s t c ch x e) : x.entry? ch e.seq = some e := Ctx.entry_head h.head

/-- The block that acts. -/
theorem actingBlock_run (h : Acts s t c ch x e) (hp : e.cap.pred = true) : actingBlock t c ch s = .ok ((x, e), s) := by
  unfold actingBlock
  refine (ctx_bind h.here _).trans <| (present_bind h.head _ s).trans <| (enabled_bind ?_ _ s).trans <| (enabled_bind ?_ _ s)
  · simp [h.on]
  · simp [h.going, hp]

/-- A block retires as its entry says it, whatever has been noted of its run. -/
theorem Retired.of_run {e' : Entry} {z : Ctx} (h : Retired y ch e' z) (hs : e'.seq = e.seq) (hl : e'.linked = e.linked) : Retired y ch e z :=
  ⟨hs ▸ h.queue, h.state, h.others, hl ▸ h.counts⟩

/-- The retirement of a block as a step of its own. -/
theorem retireStep_run (h : s.ctx? t c = some y) (hu : s.Unmetered) (hp : ∀ p ∈ e.linked.posts, p.fut = false)
    (hl : postsOver y e.linked.posts = false) (job bsum bn : Nat) :
    ∃ s' z, blockStep t c ch e job (retireBlock t c ch e bsum bn) s = .ok ((), s') ∧ Leaves t c s s' z ∧ Retired y ch e z := by
  obtain ⟨s', z, hr, hz, hd⟩ := retireBlock_run (Leaves.refl h) hp hl bsum bn
  exact ⟨s', z, blockStep_free hr (hz.unmetered hu), hz, hd⟩

/-- An action whose units are paid, and then the retirement of its block. -/
theorem actRetire_run {r : Progress} (he : e.run.ended = false) (run : act s = .ok ((), s1))
    (pay : settleStep s t c (some (ch, e.seq)) x.job (s1.modCtx t c (·.acted ch e.seq)) = some s2) (hy : s2.ctx? t c = some y)
    (hn : y.entry? ch e.seq = some { e with run := r }) (hr : r.ended = true) (hp : ∀ p ∈ e.linked.posts, p.fut = false)
    (hl : postsOver y e.linked.posts = false) (hu : s2.Unmetered) :
    ∃ s' z, actRetire t c x ch e act s = .ok ((), s') ∧ Leaves t c s2 s' z ∧ Retired y ch e z := by
  obtain ⟨s', z, hs', hz, hd⟩ := retireStep_run (ch := ch) (e := { e with run := r }) hy hu hp hl x.job 0 0
  have acts : (act >>= fun _ => modRun t c ch e.seq fun r => { r with ended := true, stalled := false }) s =
      .ok ((), s1.modCtx t c (·.acted ch e.seq)) := bind_ok _ _ _ _ _ run
  refine ⟨s', z, ?_, hz, hd.of_run rfl rfl⟩
  unfold actRetire
  rw [he, if_neg Bool.false_ne_true]
  refine (bind_ok _ _ _ _ _ (blockStep_run acts pay)).trans <| (ctx_bind hy _).trans ?_
  rw [hn]
  simp only [hr, if_true]
  exact hs'

/-- An action that changes its context only, neither its semaphores nor its own entry, and then the retirement of its block. -/
theorem actRetire_free {f : Ctx → Ctx} (h : Acts s t c ch x e) (he : e.run.ended = false) (run : act s = .ok ((), s.modCtx t c f))
    (hf : (f x).sems = x.sems) (hn : (f x).entry? ch e.seq = some e) :
    ∃ s' z, actRetire t c x ch e act s = .ok ((), s') ∧ Leaves t c s s' z ∧ Retired ((f x).acted ch e.seq) ch e z := by
  have acts := ((Leaves.refl h.here).modCtx f).modCtx (·.acted ch e.seq)
  have units := acts.unmetered h.units
  obtain ⟨s', z, hs', hz, hd⟩ := actRetire_run he run (settleStep_zero _ _ _ _ _ _ units.1 units.2) acts.ctx (Ctx.entry_modRun_same hn) rfl h.plain
    ((postsOver_congr hf _).trans h.low) units
  exact ⟨s', z, hs', acts.trans hz, hd⟩

/-- Retirement after the block has acted: the mark that it acted goes with its entry. -/
theorem Retired.posted {z : Ctx} (h : Retired (y.acted ch e.seq) ch e z) (hq : (y.chain ch).queue = (x.chain ch).queue) (hs : y.sems = x.sems) :
    Posted x ch e z := by
  refine ⟨?_, fun n => ?_⟩
  · rw [h.queue, ← hq]
    exact Ctx.queue_modEntry_filter fun _ => rfl
  · rw [h.counts, Ctx.sem, Ctx.sem, ← hs]
    rfl

/-! ## NOP, END and MARK (R182) -/

theorem nop_retires (h : Acts s t c ch x e) (he : e.run.ended = false) (hp : e.cap.pred = true) (hb : e.cur.body = .nop) :
    ∃ s' y, exec (.nopBlock t c ch) s = .next s' ∧ s'.ctx? t c = some y ∧ s'.mem = s.mem ∧ Posted x ch e y := by
  have idle : (pure () : M Unit) s = .ok ((), s.modCtx t c id) := by rw [State.modCtx_eq_self h.here rfl]; rfl
  obtain ⟨s', z, hs', hz, hd⟩ := actRetire_free h he idle rfl h.named
  refine ⟨s'.settled, z, agent_done _ _ _ ?_, hz.ctx, hz.mem, hd.posted rfl rfl⟩
  refine (bind_ok _ _ _ _ _ (actingBlock_run h hp)).trans ?_
  simp only [hb]
  exact hs'

theorem end_retires (h : Acts s t c ch x e) (he : e.run.ended = false) (hp : e.cap.pred = true) (hb : e.cur.body = .endB) :
    ∃ s' y, exec (.endBlock t c ch) s = .next s' ∧ s'.ctx? t c = some y ∧ s'.mem = s.mem ∧ Posted x ch e y ∧ (y.chain ch).state = .stopped := by
  have own : ∀ g : Chain → Chain, (x.modChain ch g).chain ch = g (x.chain ch) := Ctx.chain_modChain_same
  have kept : (x.modChain ch fun k => { k with state := .stopped }).entry? ch e.seq = some e := by
    rw [Ctx.entry?, own]
    exact h.named
  obtain ⟨s', z, hs', hz, hd⟩ := actRetire_free (f := (·.modChain ch fun k => { k with state := .stopped })) h he (modCtx_run ..) rfl kept
  refine ⟨s'.settled, z, agent_done _ _ _ ?_, hz.ctx, hz.mem, hd.posted (by rw [own]) rfl, ?_⟩
  · refine (bind_ok _ _ _ _ _ (actingBlock_run h hp)).trans ?_
    simp only [hb]
    exact hs'
  · rw [hd.state, Ctx.acted, Ctx.modRun, Ctx.modEntry, Ctx.chain_modChain_same, own]

theorem mark_resolves {f v : Word} (h : Acts s t c ch x e) (he : e.run.ended = false) (hp : e.cap.pred = true) (hb : e.cur.body = .resolve f v)
    (run : engineResolve t x e.cap f v .iteration s = .ok ((), s1)) (hx : s1.ctx? t c = some x)
    (pay : settleStep s t c (some (ch, e.seq)) x.job (s1.modCtx t c (·.acted ch e.seq)) = some s2) :
    ∃ s' y, exec (.markResolve t c ch) s = .next s' ∧ s'.ctx? t c = some y ∧ s'.mem = s1.mem ∧ Posted x ch e y := by
  have acts := (Leaves.refl hx).modCtx (·.acted ch e.seq)
  have noted : (x.acted ch e.seq).entry? ch e.seq = some { e with run := { e.run with ended := true, stalled := false } } :=
    Ctx.entry_modRun_same h.named
  obtain ⟨hm, hu, d, a, hy⟩ := settleStep_leaves pay h.here acts.ctx rfl rfl
  obtain ⟨s', z, hs', hz, hd⟩ := actRetire_run he run pay hy noted rfl h.plain h.low hu
  refine ⟨s'.settled, z, agent_done _ _ _ ?_, hz.ctx, hz.mem.trans (hm.trans acts.mem), ?_⟩
  · refine (bind_ok _ _ _ _ _ (actingBlock_run h hp)).trans ?_
    simp only [hb]
    exact hs'
  · exact Retired.posted (y := { x with desched := d, activity := a }) hd rfl rfl

theorem rendezvous_holds (h : Acts s t c ch x e) (he : e.run.ended = false) (hp : e.cap.pred = true) (hb : e.cur.body = .rendezvous) :
    exec (.markRendezvous t c ch) s = .next (s.modCtx t c (·.modRun ch e.seq fun r => { r with ended := true })).settled := by
  refine agent_done _ _ _ <| (bind_ok _ _ _ _ _ (actingBlock_run h hp)).trans ?_
  refine (enabled_bind ?_ _ s).trans (modCtx_run ..)
  rw [hb, he]
  rfl

end

end Sys2Proof.Machine
end

section
/-!
PROOFS. PATCH and what the leaf controller gets of it, and the retirement of a block whose walk is done (O53).
-/
namespace Sys2Proof.Machine
open Sys2Proof

/-! ## PATCH (R264) -/

section
variable {t : TileNo} {c : SlotNo} {ch j : ChainNo} {x y z : Ctx} {e r : Entry} {s : State} {p : PatchBody} {g : ChainNo × Nat} {n : Nat}

/-- The entries that a retirement leaves. -/
theorem Retired.entry (h : Retired y ch e z) : z.entry? j n = if ch = j ∧ e.seq = n then none else y.entry? j n := by
  unfold Ctx.entry?
  by_cases hj : ch = j
  · subst hj
    rw [h.queue, List.find?_filter]
    by_cases hn : e.seq = n
    · rw [if_pos ⟨rfl, hn⟩, List.find?_eq_none]
      intro a _
      simp [hn]
    · rw [if_neg fun k => hn k.2]
      congr 1
      funext a
      by_cases ha : a.seq = n
      · simp [ha, Ne.symm hn]
      · simp [ha]
  · rw [h.others j (Ne.symm hj), if_neg fun k => hj k.1]

/-- The write of a PATCH into the queued copy of its target. -/
def Ctx.patched (p : PatchBody) (g : ChainNo × Nat) (v : Nat) (x : Ctx) : Ctx :=
  x.modEntry g.1 g.2 fun y => { y with cur := y.cur.patch p.tfield v }

theorem Ctx.entry_patched (v : Nat) : (x.patched p g v).entry? j n =
    if g.1 = j ∧ g.2 = n then (x.entry? j n).map (fun y => { y with cur := y.cur.patch p.tfield v }) else x.entry? j n :=
  Ctx.entry_modEntry fun _ => rfl

/-- The action of a PATCH of a linked target that admits the word read. -/
theorem patchAct_run (hg : e.cap.target = some g) (hl : x.isLinked g = true) (hy : x.entry? g.1 g.2 = some r) (hs : r.run.started = false)
    (hp : r.cur.patchable p.tfield = true) (hb : badBytes s (spAt t p.src) 4 = 0)
    (ha : admitted x r p.tfield (leNat (cellsRead s.mem (spAt t p.src) 4)) = true) :
    patchAct t c x ch e p s = .ok ((), s.modCtx t c (·.patched p g (leNat (cellsRead s.mem (spAt t p.src) 4)))) := by
  have read : engineBytes t c x e.cap (spAt t p.src) 4 (padWord p.src) false s = .ok (cellsRead s.mem (spAt t p.src) 4, s) := by
    unfold engineBytes
    refine (see_bind _ _ s).trans ?_
    rw [hb, if_pos rfl]
    rfl
  unfold patchAct
  simp only [hg, hl, hy, hs, hp, Bool.not_true, Bool.not_false, Bool.and_self, Bool.false_eq_true, if_false, echeck, if_true]
  refine (bind_ok _ _ _ _ _ (rfl : (pure () : M Unit) s = .ok ((), s))).trans <| (bind_ok _ _ _ _ _ read).trans ?_
  rw [if_pos ha]
  exact modCtx_run ..

/-- What the leaf controller gets of a PATCH leaves the entries, once the PATCH itself has retired. -/
theorem keepRefused_leaves (h : s.ctx? t c = some x) (hn : x.entry? ch e.seq = none) :
    ∃ s' z, keepRefused t c ch e p s = .ok ((), s') ∧ Leaves t c s s' z ∧ ∀ j n, z.entry? j n = x.entry? j n := by
  have noted : ∀ (v : Nat) (j : ChainNo) (n : Nat), (x.modRun ch e.seq fun r => { r with refused := v }).entry? j n = x.entry? j n := by
    intro v j n
    rw [Ctx.entry_modRun]
    split
    · next k =>
      rw [← k.1, ← k.2, hn]
      rfl
    · rfl
  have kept := fun v => (Leaves.refl h).modCtx (·.modRun ch e.seq fun r => { r with refused := v })
  have run : keepRefused t c ch e p s = _ := ctx_bind h _
  rw [run]
  cases (x.chain ch).fault with
  | none => exact ⟨_, _, rfl, .refl h, fun _ _ => rfl⟩
  | some f =>
    by_cases hc : f.cause = .patchRange
    · simp only [if_pos hc]
      cases e.cap.target.bind fun g => (x.entry? g.1 g.2).map fun y => (g, admittedRange y p.tfield) with
      | none => exact ⟨_, _, rfl, kept _, noted _⟩
      | some o => exact ⟨_, _, rfl, ⟨(kept _).ctx, (kept _).mem, (kept _).reqs⟩, noted _⟩
    · simp only [if_neg hc]
      exact ⟨_, _, rfl, .refl h, fun _ _ => rfl⟩

/-- A PATCH of a target that admits the word read writes it and retires (R264). -/
theorem patch_retires (h : Acts s t c ch x e) (he : e.run.ended = false) (hg : e.cap.target = some g) (hl : x.isLinked g = true)
    (hy : x.entry? g.1 g.2 = some r) (hs : r.run.started = false) (hp : r.cur.patchable p.tfield = true) (hb : badBytes s (spAt t p.src) 4 = 0)
    (ha : admitted x r p.tfield (leNat (cellsRead s.mem (spAt t p.src) 4)) = true) :
    ∃ s' z, (do actRetire t c x ch e (patchAct t c x ch e p); keepRefused t c ch e p) s = .ok ((), s') ∧ s'.ctx? t c = some z ∧ s'.mem = s.mem ∧
      z.entry? ch e.seq = none ∧
      z.entry? g.1 g.2 = some { r with cur := r.cur.patch p.tfield (leNat (cellsRead s.mem (spAt t p.src) 4)) } := by
  have other : ¬ (ch = g.1 ∧ e.seq = g.2) := by
    rintro ⟨h1, h2⟩
    rw [← h1, ← h2, h.named, Option.some.injEq] at hy
    rw [← hy, h.going] at hs
    exact Bool.noConfusion hs
  have own : ∀ v, (x.patched p g v).entry? ch e.seq = some e := fun v => by
    rw [Ctx.entry_patched, if_neg fun k => other ⟨k.1.symm, k.2.symm⟩, h.named]
  obtain ⟨s1, z, hs1, hz, hd⟩ := actRetire_free h he (patchAct_run hg hl hy hs hp hb ha) rfl (own _)
  obtain ⟨s', w, hs', hw, same⟩ := keepRefused_leaves (p := p) hz.ctx (hd.entry.trans (if_pos ⟨rfl, rfl⟩))
  refine ⟨s', w, (bind_ok _ _ _ _ _ hs1).trans hs', hw.ctx, hw.mem.trans hz.mem, (same _ _).trans (hd.entry.trans (if_pos ⟨rfl, rfl⟩)), ?_⟩
  rw [same, hd.entry, if_neg other, Ctx.acted, Ctx.entry_modRun, if_neg other, Ctx.entry_patched, if_pos ⟨rfl, rfl⟩, hy]
  rfl

theorem patchAction_run {s' : State} (h : Acts s t c ch x e) (hpred : e.cap.pred = true) (hbody : e.cur.body = .patch p)
    (hstall : e.run.stalled = false)
    (run : (do actRetire t c x ch e (patchAct t c x ch e p); keepRefused t c ch e p : M Unit) s = .ok ((), s')) :
    exec (.patchAction t c ch) s = .next s'.settled := by
  refine agent_done _ _ _ ((bind_ok _ _ _ _ _ (actingBlock_run h hpred)).trans ?_)
  simp only [hbody]
  exact (enabled_bind (by rw [hstall]; rfl) _ s).trans run
theorem patchHoldResume_run {s' : State} (h : Acts s t c ch x e) (hpred : e.cap.pred = true) (hbody : e.cur.body = .patch p)
    (hg : e.cap.target = some g) (hl : x.isLinked g = true) (hstall : e.run.stalled = true)
    (run : (do actRetire t c x ch e (patchAct t c x ch e p); keepRefused t c ch e p : M Unit) s = .ok ((), s')) :
    exec (.patchHoldResume t c ch) s = .next s'.settled := by
  refine agent_done _ _ _ ((bind_ok _ _ _ _ _ (actingBlock_run h hpred)).trans ?_)
  simp only [hbody, hg]
  exact (enabled_bind (by rw [hstall, hl]; rfl) _ s).trans run

theorem patch_writes (h : Acts s t c ch x e) (he : e.run.ended = false) (hpred : e.cap.pred = true) (hbody : e.cur.body = .patch p)
    (hg : e.cap.target = some g) (hl : x.isLinked g = true)
    (hy : x.entry? g.1 g.2 = some r) (hs : r.run.started = false) (hp : r.cur.patchable p.tfield = true) (hb : badBytes s (spAt t p.src) 4 = 0)
    (ha : admitted x r p.tfield (leNat (cellsRead s.mem (spAt t p.src) 4)) = true) :
    ∃ s' z, exec (if e.run.stalled then .patchHoldResume t c ch else .patchAction t c ch) s = .next s' ∧ s'.ctx? t c = some z ∧ s'.mem = s.mem ∧
      z.entry? ch e.seq = none ∧
      z.entry? g.1 g.2 = some { r with cur := r.cur.patch p.tfield (leNat (cellsRead s.mem (spAt t p.src) 4)) } := by
  obtain ⟨s', z, hs', hz⟩ := patch_retires h he hg hl hy hs hp hb ha
  cases hstall : e.run.stalled with
  | true => exact ⟨s'.settled, z, patchHoldResume_run h hpred hbody hg hl hstall hs', hz⟩
  | false => exact ⟨s'.settled, z, patchAction_run h hpred hbody hstall hs', hz⟩

/-! ## Retirement after the walk (R166) -/

theorem walked_retires (h : Acts s t c ch x e) (hf : finishing (x.chain ch).queue = none) (hw : e.walked = true) (hu : e.run.unit < 2)
    (ho : e.run.owed = 0) (hm : s.outstanding x ch e.seq = false) :
    ∃ s' y, exec (.blockRetire t c ch) s = .next s' ∧ s'.ctx? t c = some y ∧ s'.mem = s.mem ∧ Posted x ch e y := by
  obtain ⟨s', z, hs', hz, hd⟩ := retireStep_run (ch := ch) h.here h.units h.plain h.low x.job e.run.bsum e.run.bn
  have idle : ∀ q : Nat → Bool, finishing ((x.chain ch).queue.takeWhile fun e => q e.seq) = none := fun q =>
    List.find?_eq_none.mpr fun a ha => List.find?_eq_none.mp hf a (List.takeWhile_prefix _ |>.subset ha)
  refine ⟨s'.settled, z, agent_done _ _ _ ?_, hz.ctx, hz.mem, hd.queue, hd.counts⟩
  refine (ctx_bind h.here _).trans <| (enabled_bind ?_ _ s).trans ?_
  · simp [h.on]
  · have rest : (do
          let e ← present (x.chain ch).queue.head?
          enabled e.walked
          if 2 ≤ e.run.unit then lastUnit t c x ch e
          else do
            enabled (e.run.owed == 0 && !(← see fun s => s.outstanding x ch e.seq))
            blockStep t c ch e x.job (retireBlock t c ch e e.run.bsum e.run.bn) : M Unit) s = .ok ((), s') := by
      refine (present_bind h.head _ s).trans ?_
      refine (enabled_bind hw _ s).trans ?_
      rw [if_neg (by omega)]
      refine (see_bind _ _ s).trans ?_
      exact (enabled_bind (by simp [ho, hm]) _ s).trans hs'
    split
    · next f _ =>
      rw [idle (· != f.seq)]
      exact rest
    · rw [hf]
      exact rest

end

end Sys2Proof.Machine
end

section
/-!
PROOFS. Grants, the policies for PATCH_RANGE, stalled blocks, linked queues and held posts (O53); O53 itself.
-/
namespace Sys2Proof.Machine
open Sys2Proof

/-! ## Grants (R168, R169, R304) -/

section
variable {t : TileNo} {c : SlotNo} {ch : ChainNo} {x : Ctx} {e : Entry} {s : State}

theorem mergeAt_leaves (h : s.ctx? t c = some x) (ps : List Stamp) : Leaves t c s (mergeAt t ps s) x where
  ctx := by
    rw [← h]
    simp only [State.ctx?, mergeAt, State.tile_setTile]
  mem := rfl
  reqs := rfl

theorem takeWaits_frame (e : Entry) (x : Ctx) : takeWaits e x = { x with sems := (takeWaits e x).sems } := by
  unfold takeWaits
  induction e.linked.waits generalizing x with
  | nil => rfl
  | cons w ws ih => exact (ih _).trans rfl

/-- Taking the waits of a block leaves the entries. -/
theorem takeWaits_entry (e : Entry) (x : Ctx) (j : ChainNo) (n : Nat) : (takeWaits e x).entry? j n = x.entry? j n := by
  rw [takeWaits_frame]
  rfl

theorem grant_starts {p : Bool} (h : s.ctx? t c = some x) (hs : x.stops = false) (hr : readyOf x ch = some e) (hn : x.entry? ch e.seq = some e)
    (hp : e.pending = p) :
    ∃ s' y, agent (grantHead t c ch p) s = .next s' ∧ s'.ctx? t c = some y ∧ s'.mem = s.mem ∧ y.sems = (takeWaits e x).sems ∧ y.regs = x.regs ∧
      ∃ z, y.entry? ch e.seq = some z ∧ z.run.started = true ∧ z.cur = e.cur ∧
        z.run.cov = e.covSel.map fun k => { k with frac := k.fraction (x.covs.get k.cov) } := by
  have step := (mergeAt_leaves h (waitStamps x e)).modCtx fun y => (takeWaits e y).modRun ch e.seq fun r =>
    { r with started := true, cov := e.covSel.map fun k => { k with frac := k.fraction (x.covs.get k.cov) }, unit := e.nullCount x }
  refine ⟨_, _, agent_done _ _ _ ?_, step.ctx, step.mem, rfl, ?_, _, Ctx.entry_modRun_same ((takeWaits_entry e x ch e.seq).trans hn), rfl, rfl, rfl⟩
  · refine (ctx_bind h _).trans <| (enabled_bind (by rw [hs]; rfl) _ s).trans <| (present_bind hr _ s).trans <|
      (enabled_bind (by rw [hp]; exact beq_self_eq_true p) _ s).trans ?_
    exact (bind_ok _ _ _ _ _ (upd_run ..)).trans (modCtx_run ..)
  · show (takeWaits e x).regs = x.regs
    rw [takeWaits_frame]

/-! ## The policies of the leaf controller (R270) -/

section
variable {f : ChainFault} {y : Entry} {p : PatchBody} {g : ChainNo × Nat} {j : Job}

theorem policy_reports (hx : s.ctx? t c = some x) (hs : (x.chain ch).state = .faulted) (hf : (x.chain ch).fault = some f) (hl : f.toLeaf = true)
    (hr : f.reported = false) (he : x.entry? ch f.seq = some e) (hb : e.cur.body = .patch p) (hg : e.cap.target = some g)
    (hy : x.entry? g.1 g.2 = some y) (hj : s.job? x.job = some j) (hp : 2 ≤ j.ppol) :
    exec (.patchRangePolicy t c ch) s = .next (s.modCtx t c (reportRange ch)).settled := by
  obtain ⟨k, hk⟩ := Nat.exists_eq_add_of_le' hp
  refine agent_done _ _ _ <| (ctx_bind hx _).trans <| (present_bind hf _ s).trans <| (enabled_bind (by rw [hs, hl, hr]; rfl) _ s).trans <|
    (present_bind he _ s).trans ?_
  simp only [hb, hg]
  refine (present_bind hy _ s).trans <| (see_bind _ _ s).trans ?_
  rw [hj, Option.elim_some, hk]
  exact modCtx_run ..

theorem policy_clamps (hx : s.ctx? t c = some x) (hs : (x.chain ch).state = .faulted) (hf : (x.chain ch).fault = some f) (hl : f.toLeaf = true)
    (hr : f.reported = false) (he : x.entry? ch f.seq = some e) (hb : e.cur.body = .patch p) (hg : e.cap.target = some g)
    (hy : x.entry? g.1 g.2 = some y) (hj : s.job? x.job = some j) (hp : j.ppol = 0) (hfield : p.tfield ≤ 0x0D) :
    exec (.patchRangePolicy t c ch) s = .next
      ((s.modCtx t c (·.modEntry g.1 g.2 fun y => { y with cur := y.cur.patch p.tfield (clampBound x y p.tfield e.run.refused) })).modCtx
        t c (settle ch e.seq)).settled := by
  refine agent_done _ _ _ <| (ctx_bind hx _).trans <| (present_bind hf _ s).trans <| (enabled_bind (by rw [hs, hl, hr]; rfl) _ s).trans <|
    (present_bind he _ s).trans ?_
  simp only [hb, hg]
  refine (present_bind hy _ s).trans <| (see_bind _ _ s).trans ?_
  rw [hj, Option.elim_some, hp]
  simp only [if_pos hfield]
  exact (bind_ok _ _ _ _ _ (modCtx_run ..)).trans (modCtx_run ..)

end

/-! ## Stalled blocks, linked queues and held posts (R192, R217, R410) -/

theorem stall_resumes (hx : s.ctx? t c = some x) (hs : (x.chain ch).state = .running)
    (he : (x.chain ch).queue.find? (fun e => e.run.stalled && e.cur.body.engine) = some e)
    (hp : ∃ p ∈ queuePorts e.cur.body, (if p.2 then s.canPush t p.1 x else s.canPop t p.1 x) = true) :
    exec (.queueStallResume t c ch) s = .next (s.modCtx t c (·.modRun ch e.seq fun p => { p with stalled := false })).settled :=
  agent_done _ _ _ <| (ctx_bind hx _).trans <| (enabled_bind (by rw [hs]; rfl) _ s).trans <| (present_bind he _ s).trans <|
    (see_bind _ _ s).trans <| (enabled_bind (List.any_eq_true.mpr hp) _ s).trans (modCtx_run ..)

/-- A change of an endpoint is what it makes of the endpoint that is there. -/
theorem State.modEp_congr {n : Nat} {k : Fin 8} {f g : Endpoint → Endpoint} (h : f (s.ep n k) = g (s.ep n k)) : s.modEp n k f = s.modEp n k g := by
  unfold State.modEp
  unfold State.ep at h
  split
  · next hn =>
    rw [dif_pos hn] at h
    dsimp only
    rw [h]
  · rfl

section
variable {k : Fin 8} {b : EpBind} {bs : List Byte} {r : List (List Byte)}

theorem entry_arrives (hb : (s.ep t k).bind = some b) (hd : b.dev = none) (hi : s.input.flag = false) (hc : b.consumer = true)
    (hf : s.formed t k = true) (hq : (s.ep b.tile b.ep).flight = bs :: r) :
    exec (.linkedQueueEntryArrive t k) s =
      .next ((s.modEp b.tile b.ep fun p => { p with flight := r }).modEp t k fun q => { q with entries := q.entries ++ [bs] }).settled := by
  have taken : (s.modEp b.tile b.ep fun p => { p with flight := p.flight.drop 1 }) = s.modEp b.tile b.ep fun p => { p with flight := r } :=
    State.modEp_congr (by rw [hq]; rfl)
  have head : (s.ep b.tile b.ep).flight.head? = some bs := by rw [hq]; rfl
  rw [← taken]
  refine agent_done _ _ _ <| (see_bind _ _ s).trans ?_
  rw [hi, if_neg Bool.false_ne_true]
  refine (see_bind _ _ s).trans <| (present_bind hb _ s).trans <| (enabled_bind hc _ s).trans ?_
  rw [hd]
  exact (see_bind _ _ s).trans <| (enabled_bind hf _ s).trans <| (see_bind _ _ s).trans <| (present_bind head _ s).trans <|
    (bind_ok _ _ _ _ _ (upd_run ..)).trans (upd_run ..)

theorem credit_returns (hb : (s.ep t k).bind = some b) (hd : b.dev = none) (hi : s.input.flag = false) (hc : b.consumer = false)
    (hq : 0 < (s.ep t k).back) :
    exec (.linkedQueueCreditReturn t k) s =
      .next (s.modEp t k fun p => { p with back := p.back - 1, credits := p.credits + 1 }).settled := by
  refine agent_done _ _ _ <| (see_bind _ _ s).trans ?_
  rw [hi, if_neg Bool.false_ne_true]
  refine (see_bind _ _ s).trans <| (present_bind hb _ s).trans <| (enabled_bind (by rw [hc]; rfl) _ s).trans ?_
  rw [hd]
  exact (enabled_bind (decide_eq_true hq) _ s).trans (upd_run ..)

end

theorem held_applies {n : SemNo} {u : HeldUnit} {r : List HeldUnit} (hx : s.ctx? t c = some x) (hq : (x.sem n).held = u :: r)
    (hc : (x.sem n).exceeds u.amount u.lost = false) :
    (let s1 := s.modCtx t c (·.modSem n fun m => { m with held := r }.arrive u)
     exec (.heldPostApply t c n) s = .next (match u.ack with
       | some k => (s1.modCtx t c (·.modRun k.1 k.2 fun p => { p with owed := p.owed - 1 })).settled
       | none => s1.settled)) := by
  dsimp only
  cases ha : u.ack with
  | none =>
    refine agent_done _ _ _ <| (ctx_bind hx _).trans ?_
    simp only [hq]
    refine (enabled_bind (by rw [hc]; rfl) _ s).trans <| (bind_ok _ _ _ _ _ (modCtx_run ..)).trans ?_
    rw [ha]
    rfl
  | some k =>
    refine agent_done _ _ _ <| (ctx_bind hx _).trans ?_
    simp only [hq]
    refine (enabled_bind (by rw [hc]; rfl) _ s).trans <| (bind_ok _ _ _ _ _ (modCtx_run ..)).trans ?_
    rw [ha]
    exact modCtx_run ..

end

/-! ## The obligation -/

/-- Settles O53: one lemma for each step that it names. -/
theorem blockSteps : Obligations.BlockSteps := by
  unfold Obligations.BlockSteps
  refine ⟨?_, ?_, ?_, ?_, ?_, ?_⟩
  · intro s t c ch x e hx hs hr hn
    cases hp : e.pending with
    | true =>
      rw [if_pos rfl]
      exact grant_starts hx hs hr hn hp
    | false =>
      rw [if_neg Bool.false_ne_true]
      exact grant_starts hx hs hr hn hp
  · intro s t c ch x e h
    refine ⟨fun he hp => ⟨nop_retires h he hp, end_retires h he hp, fun f v s1 s2 hb run hx pay => mark_resolves h he hp hb run hx pay,
      rendezvous_holds h he hp, fun p g y hb hg hl hy hs ht hr ha => patch_writes h he hp hb hg hl hy hs ht hr ha⟩, walked_retires h⟩
  · intro s t c ch x f e y p g j hx hs hf hl hr he hb hg hy hj
    exact ⟨policy_reports hx hs hf hl hr he hb hg hy hj, policy_clamps hx hs hf hl hr he hb hg hy hj⟩
  · intro s t c ch x e hx hs he hp
    exact stall_resumes hx hs he hp
  · intro s t k b bs r hb hd hi
    exact ⟨entry_arrives hb hd hi, credit_returns hb hd hi⟩
  · intro s t c n x u r hx hq hc
    exact held_applies hx hq hc

end Sys2Proof.Machine
end

section
/-!
PROOFS. What an iteration of a block rests on (O52): what a state shows of a step under way (`Worked`), what a solvent tile's tenants pay, and what states
that differ in their tiles share (`Sited`).
-/
namespace Sys2Proof.Machine
open Sys2Proof

/-! ## What a state shows of a step under way -/

/-- From s to u a step of a block in slot c of tile t: the slot holds y, memory is m, at most n units of each resource are owed, and clock, dies and
tags of accumulator tiles are as in s. -/
structure Worked (t : TileNo) (c : SlotNo) (s u : State) (m : List Host.Cell) (n : Nat) (y : Ctx) : Prop where
  ctx  : u.ctx? t c = some y
  mem  : u.mem = m
  owes : u.meterHbm ≤ n ∧ u.meterNet ≤ n
  now  : u.now = s.now
  dies : u.dies = s.dies
  acc  : (u.tile t).accTags = (s.tile t).accTags

theorem State.setSlot_accTags (s : State) (t : TileNo) (c : SlotNo) (x : Option Ctx) (n : TileNo) :
    ((s.setSlot t c x).tile n).accTags = (s.tile n).accTags := by
  by_cases h : t = n
  · subst h
    simp only [State.setSlot, State.tile_setTile]
  · simp only [State.setSlot, State.tile_setTile_ne _ _ _ _ h]
theorem State.modCtx_accTags (s : State) (t : TileNo) (c : SlotNo) (f : Ctx → Ctx) (n : TileNo) :
    ((s.modCtx t c f).tile n).accTags = (s.tile n).accTags := by
  unfold State.modCtx
  split
  · exact State.setSlot_accTags ..
  · rfl
theorem Alike.accTags {s u : State} (h : Alike s u) (n : TileNo) : (u.tile n).accTags = (s.tile n).accTags :=
  (congrArg Tile.accTags (h.slots n) :)

theorem State.meterHbm_request (s : State) (h n : Nat) : (s.request h n).meterHbm = s.meterHbm + h := by
  unfold State.request State.meterHbm unitSums
  split
  · next z => simp at z; simp [z.1]
  · simp
theorem State.meterNet_request (s : State) (h n : Nat) : (s.request h n).meterNet = s.meterNet + n := by
  unfold State.request State.meterNet unitSums
  split
  · next z => simp at z; simp [z.2]
  · simp
theorem State.request_frame (s : State) (h n : Nat) : s.request h n = { s with reqs := (s.request h n).reqs } := by
  unfold State.request
  split <;> rfl

namespace Worked
variable {t : TileNo} {c : SlotNo} {s u v : State} {m : List Host.Cell} {n : Nat} {y : Ctx}

theorem refl (h : s.ctx? t c = some y) (hu : s.Unmetered) : Worked t c s s s.mem 0 y := ⟨h, rfl, ⟨hu.1.le, hu.2.le⟩, rfl, rfl, rfl⟩

theorem request (w : Worked t c s u m n y) {h k : Nat} (hh : h ≤ 1) (hk : k ≤ 1) : Worked t c s (u.request h k) m (n + 1) y := by
  have e := u.request_frame h k
  have o := w.owes
  exact ⟨(congrArg (·.ctx? t c) e).trans w.ctx, (congrArg State.mem e).trans w.mem,
    ⟨by rw [State.meterHbm_request]; omega, by rw [State.meterNet_request]; omega⟩,
    (congrArg State.now e).trans w.now, (congrArg State.dies e).trans w.dies, (congrArg (fun z : State => (z.tile t).accTags) e).trans w.acc⟩

theorem writeBytes (w : Worked t c s u m n y) (k : Nat) (bs : List Byte) : Worked t c s (writeBytes u k bs) (cellsWrite m k bs) n y :=
  ⟨w.ctx, by rw [writeBytes_mem, w.mem], w.owes, w.now, w.dies, w.acc⟩

theorem modCtx (w : Worked t c s u m n y) (f : Ctx → Ctx) : Worked t c s (u.modCtx t c f) m n (f y) :=
  ⟨by rw [State.ctx_modCtx, w.ctx, Option.map_some], (State.modCtx_mem ..).trans w.mem,
    by unfold State.meterHbm State.meterNet; rw [State.modCtx_reqs]; exact w.owes,
    (State.modCtx_now ..).trans w.now, (State.modCtx_dies ..).trans w.dies, (State.modCtx_accTags ..).trans w.acc⟩

theorem setSlot (w : Worked t c s u m n y) (z : Ctx) : Worked t c s (u.setSlot t c (some z)) m n z :=
  ⟨State.ctx_setSlot .., w.mem, w.owes, w.now, w.dies, (State.setSlot_accTags ..).trans w.acc⟩

/-- Through marks of descheduled queues. -/
theorem alike (w : Worked t c s u m n y) (h : Alike u v) : ∃ d, Worked t c s v m n { y with desched := d } := by
  obtain ⟨z, hz, e⟩ := h.ctx_some w.ctx
  have hy : z = { y with desched := z.desched } := calc
    z = { z.unmark with desched := z.desched } := rfl
    _ = { y.unmark with desched := z.desched } := by rw [e]
  have hq : v.reqs = u.reqs := (congrArg State.reqs h.rest).trans rfl
  exact ⟨z.desched, hz.trans (congrArg some hy), (congrArg State.mem h.rest).trans w.mem,
    by unfold State.meterHbm State.meterNet; rw [hq]; exact w.owes,
    (congrArg State.now h.rest).trans w.now, (congrArg State.dies h.rest).trans w.dies, (h.accTags t).trans w.acc⟩

/-- Through the count of an event (R424). -/
theorem charge (w : Worked t c s u m n y) (k : Fin 9) (j : Nat) :
    ∃ d a, Worked t c s (u.charge t c k j) m n { y with desched := d, activity := a } := by
  unfold State.charge
  rw [w.ctx]
  dsimp only
  split
  · exact ⟨_, _, w⟩
  · obtain ⟨d, h⟩ := (w.setSlot (y.count k j)).alike (.chargeJob y.job k j _)
    exact ⟨d, _, h⟩

/-- Through the request of an access of at most 64 bytes (R418). -/
theorem meterKey (w : Worked t c s u m n y) (a : Word) (k : Nat) {j : Nat} (hj : j ≤ 64) :
    ∃ v, Machine.meterKey t a k j u = .ok ((), v) ∧ v.poison = u.poison ∧ Worked t c s v m (n + 1) y := by
  have one : unitsOf j ≤ 1 := by unfold unitsOf; omega
  have frame (h i : Nat) : (u.request h i).poison = u.poison := (congrArg State.poison (u.request_frame h i)).trans rfl
  unfold Machine.meterKey
  split
  · have small : (unitsAt t k j).1 ≤ 1 ∧ (unitsAt t k j).2 ≤ 1 := by
      unfold unitsAt
      dsimp only
      constructor <;> split <;> omega
    exact ⟨_, rfl, frame .., w.request small.1 small.2⟩
  · split
    · exact ⟨_, rfl, frame .., w.request (Nat.zero_le 1) one⟩
    · exact ⟨u, rfl, rfl, w.ctx, w.mem, ⟨w.owes.1.trans n.le_succ, w.owes.2.trans n.le_succ⟩, w.now, w.dies, w.acc⟩

end Worked

/-! ## Paying (R418, R419, R421) -/

section
variable {t : TileNo} {c : SlotNo} {s u : State} {who : Option (ChainNo × Nat)} {job : Nat}

/-- A solvent tile's tenants can pay what a step owes. -/
theorem payUnits_solvent (hs : s.Solvent t) (hn : u.now = s.now) (hd : u.dies = s.dies) (hh : u.meterHbm ≤ 512) (hj : u.meterNet ≤ 512) :
    ∃ v, payUnits s t c who job u = some v := by
  obtain ⟨rich, period, port⟩ := hs
  have due : refillsDue u (dieNo t) = 0 := by unfold refillsDue; rw [hn, hd]; omega
  have settled : settleDie (dieNo t) u = u := by unfold settleDie; rw [due]; rfl
  have first : s.queuedBehind t c who job = false := by simp [State.queuedBehind, State.portQueue, port]
  unfold payUnits
  dsimp only
  split
  · exact ⟨_, rfl⟩
  · split
    · exact ⟨_, rfl⟩
    · rw [settled]
      split
      · exact ⟨_, rfl⟩
      · next b hb =>
        obtain ⟨rh, rn⟩ := rich b (by rw [← hd]; exact List.mem_of_find?_eq_some hb)
        have ok : (decide (u.meterHbm - (s.paidFor t c who).1 ≤ b.hbm) && decide (u.meterNet - (s.paidFor t c who).2 ≤ b.net) &&
            !s.queuedBehind t c who job) = true := by
          rw [first]
          simp only [Bool.and_eq_true, decide_eq_true_eq, Bool.not_false, and_true]
          omega
        rw [ok]
        exact ⟨_, rfl⟩

theorem chargeAccess_now (s0 : State) (k : Nat) (s : State) : (chargeAccess s0 t c k s).now = s.now ∧ (chargeAccess s0 t c k s).dies = s.dies ∧
    (chargeAccess s0 t c k s).reqs = s.reqs := by
  unfold chargeAccess
  split
  · exact ⟨rfl, rfl, rfl⟩
  · split
    · exact ⟨rfl, rfl, rfl⟩
    · split
      · exact ⟨rfl, rfl, rfl⟩
      · have quiet (v : State) (q : Fin 256) : (v.chargeQueue q 6 k).now = v.now ∧ (v.chargeQueue q 6 k).dies = v.dies ∧
            (v.chargeQueue q 6 k).reqs = v.reqs := by
          have h := (Alike.chargeQueue v q 6 k).rest
          exact ⟨(congrArg State.now h).trans rfl, (congrArg State.dies h).trans rfl, (congrArg State.reqs h).trans rfl⟩
        dsimp only
        split
        · obtain ⟨h1, h2, h3⟩ := quiet (s.modCtx t c (·.count 6 k)) _
          exact ⟨h1.trans (State.modCtx_now ..), h2.trans (State.modCtx_dies ..), h3.trans (State.modCtx_reqs ..)⟩
        · exact quiet _ _

/-- A step of a block of a solvent tile ends with its units paid. -/
theorem blockStep_worked {ch : ChainNo} {e : Entry} {act : M Unit} {m : List Host.Cell} {n : Nat} {x y : Ctx} (hs : s.Solvent t)
    (hx : s.ctx? t c = some x) (run : act s = .ok ((), u)) (w : Worked t c s u m n y) (hn : n ≤ 512) (hj : y.job = x.job) (hy : y.num = x.num) :
    ∃ v d a, blockStep t c ch e x.job act s = .ok ((), v) ∧ v.mem = m ∧ v.ctx? t c = some { y with desched := d, activity := a } := by
  obtain ⟨an, ad, ar⟩ := chargeAccess_now (t := t) (c := c) s u.meterHbm u
  have owes := w.owes
  obtain ⟨v, pay⟩ := payUnits_solvent (c := c) (who := some (ch, e.seq)) (job := x.job) hs (an.trans w.now) (ad.trans w.dies)
    (by unfold State.meterHbm at *; rw [ar]; omega) (by unfold State.meterNet at *; rw [ar]; omega)
  obtain ⟨hm, _, d, a, hc⟩ := settleStep_leaves (w := some (ch, e.seq)) (job := x.job) pay hx w.ctx hj hy
  exact ⟨v, d, a, blockStep_run run pay, hm.trans w.mem, hc⟩
end

/-! ## States that differ in their tiles -/

/-- From s to u only tiles change, and of them neither the decks nor, in any slot, the job and the scratchpad partition of its
context. -/
structure Sited (s u : State) : Prop where
  rest  : u = { s with tiles := u.tiles }
  decks : ∀ n, (u.tile n).dkl = (s.tile n).dkl ∧ (u.tile n).dkb = (s.tile n).dkb
  slots : ∀ n b, (u.ctx? n b).map (fun y => (y.job, y.partw)) = (s.ctx? n b).map fun y => (y.job, y.partw)

/-- The partition of the context of a job on a tile, from the jobs and the partitions of its slots. -/
theorem residentOf_partw (y : Tile) (job : Nat) : (residentOf y job).map (·.partw) =
    (([(y.slots.get 0).map fun z => (z.job, z.partw), (y.slots.get 1).map fun z => (z.job, z.partw)].filterMap id).find?
      (·.1 == job)).map (·.2) := by
  unfold residentOf
  cases y.slots.get 0 with
  | none =>
    cases y.slots.get 1 with
    | none => rfl
    | some b => by_cases hb : b.job = job <;> simp [hb]
  | some a =>
    cases y.slots.get 1 with
    | none => by_cases ha : a.job = job <;> simp [ha]
    | some b => by_cases ha : a.job = job <;> by_cases hb : b.job = job <;> simp [ha, hb]

namespace Sited
variable {s u v : State}

theorem refl (s : State) : Sited s s := ⟨rfl, fun _ => ⟨rfl, rfl⟩, fun _ _ => rfl⟩
theorem trans (h : Sited s u) (k : Sited u v) : Sited s v where
  rest := k.rest.trans (congrArg (fun w : State => { w with tiles := v.tiles }) h.rest)
  decks n := ⟨(k.decks n).1.trans (h.decks n).1, (k.decks n).2.trans (h.decks n).2⟩
  slots n b := (k.slots n b).trans (h.slots n b)

/-- A tile may change beside its decks and its slots. -/
theorem setTile (s : State) (t : TileNo) {y : Tile} (hd : y.dkl = (s.tile t).dkl ∧ y.dkb = (s.tile t).dkb) (hs : y.slots = (s.tile t).slots) :
    Sited s (s.setTile t y) := by
  refine ⟨rfl, fun n => ?_, fun n b => ?_⟩
  · by_cases h : t = n
    · subst h
      rw [State.tile_setTile]
      exact hd
    · rw [State.tile_setTile_ne _ _ _ _ h]
      exact ⟨rfl, rfl⟩
  · by_cases h : t = n
    · subst h
      rw [State.ctx?, State.tile_setTile, hs]
      rfl
    · rw [State.ctx?, State.tile_setTile_ne _ _ _ _ h]
      rfl
/-- A context may change beside its job and its partition. -/
theorem modCtx {t : TileNo} {c : SlotNo} {y : Ctx} (hy : s.ctx? t c = some y) {f : Ctx → Ctx} (hj : (f y).job = y.job)
    (hp : (f y).partw = y.partw) : Sited s (s.modCtx t c f) := by
  unfold State.modCtx
  rw [hy]
  refine ⟨rfl, fun n => ?_, fun n b => ?_⟩
  · by_cases h : t = n
    · subst h
      simp only [State.setSlot, State.tile_setTile, and_self]
    · simp only [State.setSlot, State.tile_setTile_ne _ _ _ _ h, and_self]
  · by_cases h : (n, b) = (t, c)
    · obtain ⟨rfl, rfl⟩ := Prod.mk.inj h
      rw [State.ctx_setSlot, hy, Option.map_some, Option.map_some, hj, hp]
    · rw [State.ctx_setSlot_ne s _ h]

section
variable (h : Sited s u)
include h

theorem mem : u.mem = s.mem := (congrArg State.mem h.rest).trans rfl
theorem poison : u.poison = s.poison := (congrArg State.poison h.rest).trans rfl
theorem reqs : u.reqs = s.reqs := (congrArg State.reqs h.rest).trans rfl
theorem msgs : u.msgs = s.msgs := (congrArg State.msgs h.rest).trans rfl
theorem parkedOf (x : Ctx) (ch : ChainNo) : u.parkedOf x ch = s.parkedOf x ch := by
  unfold State.parkedOf
  rw [h.msgs]
theorem enginePlace (t : TileNo) (cap : Cap) (a : Word) : enginePlace u t cap a = enginePlace s t cap a := by
  rw [h.rest]
  rfl
theorem readable (hs : s.Readable) : u.Readable := fun k n => (badBytes_congr h.poison k n).trans (hs k n)

theorem partition (n : TileNo) (job : Nat) : (residentOf (u.tile n) job).map (·.partw) = (residentOf (s.tile n) job).map (·.partw) := by
  have h0 : ((u.tile n).slots.get 0).map _ = ((s.tile n).slots.get 0).map _ := h.slots n 0
  have h1 : ((u.tile n).slots.get 1).map _ = ((s.tile n).slots.get 1).map _ := h.slots n 1
  rw [residentOf_partw, residentOf_partw, h0, h1]

theorem targetOf (e : InWin) (a : Arrival) : targetOf u e a = targetOf s e a := by
  have bytes : devByte u = devByte s := by
    rw [h.rest]
    rfl
  have decks (n : TileNo) : hitsDeck (u.tile n) = hitsDeck (s.tile n) := by
    funext o k
    simp only [hitsDeck, deckCap, h.decks n]
  have part (n : TileNo) := h.partition n a.job
  unfold Machine.targetOf
  rw [bytes]
  dsimp only
  by_cases ok : (!spaceOk (e.base + BitVec.ofNat 64 a.off)) = true
  · rw [if_pos ok, if_pos ok]
  · rw [if_neg ok, if_neg ok]
    split
    · rfl
    · split
      · next l =>
        have p := h.partition ⟨_, l⟩ a.job
        rw [decks]
        cases hu : residentOf (u.tile ⟨_, l⟩) a.job with
        | none =>
          rw [hu] at p
          rw [Option.map_eq_none_iff.mp p.symm]
        | some y =>
          rw [hu, Option.map_some] at p
          obtain ⟨z, hz, hp⟩ := Option.map_eq_some_iff.mp p.symm
          rw [hz]
          dsimp only
          rw [hp]
      · rfl
    · rfl
theorem msgsBehind (x : Ctx) (ch : ChainNo) (k n : Nat) : msgsBehind u x ch k n = msgsBehind s x ch k n := by
  have places : Msg.places u = Msg.places s := by
    funext m
    have inw : u.inw m.inb = s.inw m.inb := by rw [h.rest]; rfl
    have dom : u.domain = s.domain := (congrArg State.domain h.rest).trans rfl
    unfold Msg.places
    rw [inw, dom, h.targetOf]
  unfold Machine.msgsBehind
  rw [places, h.msgs]
theorem chainBehind (x : Ctx) (ch : ChainNo) (k n : Nat) : chainBehind u x ch k n = chainBehind s x ch k n := by
  have reads : readNat u = readNat s := by
    funext p j
    exact readNat_congr h.mem h.poison p j
  have leads : hwXlate u = hwXlate s := by
    rw [h.rest]
    rfl
  unfold Machine.chainBehind postsTouch
  rw [h.msgsBehind, reads, leads]
end
end Sited

end Sys2Proof.Machine
end

section
/-!
PROOFS. LOAD and STORE iterations between scratchpad and a tensor (O52; R186, R188, R189).
-/
namespace Sys2Proof.Machine
open Sys2Proof

/-! ## The engine takes its block (R185) -/

/-- The engines of tile t have last run blocks of the slots l. -/
def State.turned (s : State) (t : TileNo) (l : Vector (Option SlotNo) 4) : State := s.setTile t { s.tile t with last := l }

section
variable {s : State} {t : TileNo} {c : SlotNo} {ch : ChainNo} {x : Ctx} {e : Entry}

theorem State.turned_ctx (s : State) (t : TileNo) (l : Vector (Option SlotNo) 4) (b : SlotNo) : (s.turned t l).ctx? t b = s.ctx? t b := by
  unfold State.turned
  rw [State.ctx?, State.tile_setTile]
  rfl
theorem State.turned_tile (s : State) (t : TileNo) (l : Vector (Option SlotNo) 4) : (s.turned t l).tile t = { s.tile t with last := l } :=
  State.tile_setTile ..
theorem State.turned_sited (s : State) (t : TileNo) (l : Vector (Option SlotNo) 4) : Sited s (s.turned t l) := .setTile s t ⟨rfl, rfl⟩ rfl
theorem State.Solvent.turned (h : s.Solvent t) (l : Vector (Option SlotNo) 4) : (s.turned t l).Solvent t := by
  obtain ⟨rich, period, port⟩ := h
  exact ⟨rich, period, by rw [State.turned_tile]; exact port⟩

theorem running_run (h : RunsBlock s t c ch x e) : ∃ l, running t c ch s = .ok ((x, e), s.turned t l) := by
  have go : (!e.run.stalled && e.run.await.isNone && (!x.stops || e.mid)) = true := by simp [h.flows, h.free]
  have on : ((x.chain ch).state == .running) = true := by rw [h.on]; rfl
  by_cases hl : ((s.tile t).last.get ch == some c) = true
  · refine ⟨(s.tile t).last, ?_⟩
    rw [show s.turned t (s.tile t).last = s from State.setTile_tile s t]
    refine (ctx_bind h.here _).trans <| (enabled_bind on _ s).trans <| (present_bind h.runs _ s).trans <| (enabled_bind go _ s).trans ?_
    refine (see_bind ..).trans <| (enabled_bind h.turn _ s).trans ?_
    dsimp only
    rw [if_pos hl]
    rfl
  · refine ⟨(s.tile t).last.set ch (some c), ?_⟩
    refine (ctx_bind h.here _).trans <| (enabled_bind on _ s).trans <| (present_bind h.runs _ s).trans <| (enabled_bind go _ s).trans ?_
    refine (see_bind ..).trans <| (enabled_bind h.turn _ s).trans ?_
    dsimp only
    rw [if_neg hl]
    rfl

/-- A step of a chain none of whose messages was refused or lost goes on. -/
theorem orResend_none (hx : s.ctx? t c = some x) (hp : s.parkedOf x ch = none) (m : M Unit) : orResend t c ch m s = m s := by
  refine (ctx_bind hx _).trans <| (see_bind ..).trans ?_
  rw [hp]
end

/-! ## Accesses of an engine (R175, R195) -/

/-- Conversion events, counted (R74). -/
def Ctx.counted (k : Counts) (y : Ctx) : Ctx :=
  { y with
    nancnt := BitVec.ofNat 32 (min (y.nancnt.toNat + k.nan) 0xFFFFFFFF)
    satcnt := BitVec.ofNat 32 (min (y.satcnt.toNat + k.sat) 0xFFFFFFFF) }
theorem countEvents_run (t : TileNo) (c : SlotNo) (k : Counts) (u : State) : countEvents t c k u = .ok ((), u.modCtx t c (Ctx.counted k)) := rfl

section
variable {t : TileNo} {c : SlotNo} {ch : ChainNo} {x y : Ctx} {cap : Cap} {e : Entry} {s u : State} {m : List Host.Cell} {i k n : Nat} {a : Word}

theorem engineBytes_readable (hr : s.Readable) (again : Bool) : engineBytes t c x cap k n a again s = .ok (cellsRead s.mem k n, s) := by
  refine (see_bind ..).trans ?_
  dsimp only
  rw [if_pos (hr k n)]
  rfl

theorem engineRead_at (w : Worked t c s u m i y) (hr : u.Readable) (hp : enginePlace u t e.cap a = .at k false)
    (hb : chainBehind u x ch k n = false) (hn : n ≤ 64) (j : Nat) :
    ∃ v, engineRead t c x ch e a n j false u = .ok (.data (cellsRead m k n), v) ∧ Worked t c s v m (i + 1) y := by
  obtain ⟨v, hv, poison, wv⟩ := w.meterKey a k hn
  refine ⟨v, ?_, wv⟩
  refine (see_bind ..).trans ?_
  rw [hp]
  refine (see_bind ..).trans <| (enabled_bind (by rw [hb]; rfl) _ u).trans ?_
  refine (bind_ok _ _ _ _ _ (show engineRace t x k false false false a .iteration u = .ok ((), u) from rfl)).trans ?_
  refine (bind_ok _ _ _ _ _ hv).trans ?_
  refine (bind_ok _ _ _ _ _ (engineBytes_readable (fun k n => (badBytes_congr poison k n).trans (hr k n)) false)).trans ?_
  rw [wv.mem]
  rfl

theorem engineWrite_at {bs : List Byte} (w : Worked t c s u m i y) (hp : enginePlace u t e.cap a = .at k false)
    (hb : chainBehind u x ch k bs.length = false) (hn : bs.length ≤ 64) (count : Nat) :
    ∃ v, engineWrite t c x ch e a bs count u = .ok ((), v) ∧ Worked t c s v (cellsWrite m k bs) (i + 1) y := by
  obtain ⟨v, hv, _, wv⟩ := w.meterKey a k hn
  refine ⟨_, ?_, wv.writeBytes k bs⟩
  refine (see_bind ..).trans ?_
  rw [hp]
  refine (see_bind ..).trans <| (enabled_bind (by rw [hb]; rfl) _ u).trans ?_
  refine (bind_ok _ _ _ _ _ (show engineRace t x k false true false a .iteration u = .ok ((), u) from rfl)).trans ?_
  exact (bind_ok _ _ _ _ _ hv).trans rfl

end

/-- A branch that leaves the state as it is may be taken or left out. -/
theorem ite_then {α : Type} {p : Prop} [Decidable p] {m : M Unit} {k : Unit → M α} {s : State} (h : m s = .ok ((), s)) :
    (if p then m >>= k else k () : M α) s = k () s := by
  split
  · exact bind_ok _ _ _ _ _ h
  · rfl

/-- y is x after block seq of chain ch has completed k iterations. -/
structure Reached (ch : ChainNo) (seq k : Nat) (x y : Ctx) : Prop where
  job  : y.job = x.job
  num  : y.num = x.num
  iter : (y.entry? ch seq).map (·.run.iter) = some k

/-- What the end of iteration k of a copy block notes of its run. -/
def Progress.copied (k moved lost : Nat) (p : Progress) : Progress :=
  { p with iter := k, answers := [], unit := p.unit + moved, lost := p.lost + lost }
/-- A block that counts no bytes keeps none. -/
def Progress.uncounted (p : Progress) : Progress := { p with unit := 0, lost := 0 }

section
variable {t : TileNo} {c : SlotNo} {ch : ChainNo} {x y : Ctx} {e : Entry} {s u : State} {m : List Host.Cell} {i k n : Nat} {a : Word}
  {b : CopyBody}

theorem flushOut_none (hy : u.ctx? t c = some y) {g : Entry} (hg : y.entry? ch e.seq = some g) (ho : g.run.out = none) : flushOut t c ch e u = u := by
  unfold flushOut
  rw [hy]
  dsimp only
  rw [hg, Option.map_some, ho]
  rfl

/-- An iteration of a copy block that counts no bytes ends. -/
theorem endCopy_run (w : Worked t c s u m i y) (hy : y.entry? ch e.seq = some e) (ho : e.run.out = none) (hc : b.cnten = false) (moved lost : Nat) :
    ∃ v z, endCopy t c ch e b moved lost u = .ok ((), v) ∧ Worked t c s v m i z ∧ Reached ch e.seq (e.run.iter + 1) y z := by
  obtain ⟨d, a, w1⟩ := w.charge 5 (localHalf b (titFmt (y.titNo b.tid)))
  have w2 := w1.modCtx (·.modRun ch e.seq (Progress.copied (e.run.iter + 1) moved lost))
  have named := Ctx.entry_modRun_same (x := { y with desched := d, activity := a }) (g := Progress.copied (e.run.iter + 1) moved lost) hy
  refine ⟨_, _, ?_, w2.modCtx (·.modRun ch e.seq Progress.uncounted), rfl, rfl, ?_⟩
  · refine (ctx_bind w.ctx _).trans <| (upd_bind ..).trans <| (bind_ok _ _ _ _ _ (modCtx_run ..)).trans ?_
    refine (ite_then (congrArg (fun v => Except.ok ((), v)) (flushOut_none w2.ctx named ho))).trans ?_
    rw [hc]
    rfl
  · rw [Ctx.entry_modRun_same named]
    rfl

theorem fmtBytes_le (ty : Nat) : fmtBytes ty ≤ 4 := by
  unfold fmtBytes fmtHalves
  split <;> decide

/-- A LOAD iteration to scratchpad (R188). -/
theorem loadPlain_run {ent : Tit} (w : Worked t c s u m i y) (hy : y.entry? 0 e.seq = some e) (ho : e.run.out = none) (hr : u.Readable)
    (hl : b.lkind = 0) (hc : b.cnten = false)
    (hp : enginePlace u t e.cap (addOff (e.cap.tensOf b.tid).base (elemAt ent b e.index * fmtBytes (titFmt ent))) = .at k false)
    (hb : chainBehind u x 0 k (fmtBytes (titFmt ent)) = false) :
    ∃ v z, loadPlain t c x e b ent u = .ok ((), v) ∧
      Worked t c s v (cellsWrite m (spAt t (localOff b e.index)) (cellsRead m k (fmtBytes (titFmt ent)))) (i + 1) z ∧
      Reached 0 e.seq (e.run.iter + 1) y z := by
  obtain ⟨v1, read, w1⟩ := engineRead_at w hr hp hb ((fmtBytes_le _).trans (by decide)) 0
  obtain ⟨v2, z, done, w2, rz⟩ := endCopy_run (w1.writeBytes (spAt t (localOff b e.index)) _) hy ho hc (2 * fmtBytes (titFmt ent)) 0
  refine ⟨v2, z, ?_, w2, rz⟩
  unfold loadPlain
  simp only [hl]
  refine (see_bind ..).trans ?_
  exact (bind_ok _ _ _ _ _ read).trans <| (upd_bind ..).trans done
end

section
variable {t : TileNo} {c : SlotNo} {ch : ChainNo} {x y : Ctx} {e : Entry} {s : State} {m : List Host.Cell} {n : Nat}

/-- A step of a block whose effect is known, seen from outside. -/
theorem step_advances {step : M Unit} {act : M Unit} {l : Vector (Option SlotNo) 4} (h : RunsBlock s t c ch x e) (hs : s.Solvent t)
    (hstep : step s = blockStep t c ch e x.job act (s.turned t l))
    (run : ∃ v z, act (s.turned t l) = .ok ((), v) ∧ Worked t c (s.turned t l) v m n z ∧ Reached ch e.seq (e.run.iter + 1) x z)
    (hn : n ≤ 512) :
    ∃ s', agent step s = .next s' ∧ Advanced s' t c ch e.seq (e.run.iter + 1) ∧ s'.mem = m := by
  obtain ⟨v, z, hv, w, r⟩ := run
  obtain ⟨v', d, a, paid, mem, ctx⟩ := blockStep_worked (ch := ch) (e := e) (hs.turned l) ((State.turned_ctx ..).trans h.here) hv w hn r.job r.num
  exact ⟨v'.settled, agent_done _ _ _ (hstep.trans paid), ⟨_, ctx, r.iter⟩, mem⟩

theorem RunsBlock.worked (h : RunsBlock s t c ch x e) (l : Vector (Option SlotNo) 4) : Worked t c (s.turned t l) (s.turned t l) s.mem 0 x :=
  .refl ((State.turned_ctx ..).trans h.here) h.units

/-- A LOAD iteration, seen from outside (R186, R188). -/
theorem exec_loadIteration_at {b : CopyBody} {k : Nat} (hr : s.Readable) (hs : s.Solvent t) (ho : e.run.out = none)
    (h : RunsBlock s t c 0 x e) (hbody : e.cur.body = .load b) (hl : b.lkind = 0) (hc : b.cnten = false) (hf : titFmt (x.titNo b.tid) ≠ 8)
    (hn : n = fmtBytes (titFmt (x.titNo b.tid))) (hpark : s.parkedOf x 0 = none) (hb : chainBehind s x 0 k n = false)
    (hp : enginePlace s t e.cap (addOff (e.cap.tensOf b.tid).base (elemAt (x.titNo b.tid) b e.index * n)) = .at k false) :
    ∃ s', exec (.loadIteration t c) s = .next s' ∧ Advanced s' t c 0 e.seq (e.run.iter + 1) ∧
      s'.mem = cellsWrite s.mem (spAt t (localOff b e.index)) (cellsRead s.mem k n) := by
  subst hn
  obtain ⟨l, took⟩ := running_run h
  have sited := s.turned_sited t l
  refine step_advances h hs ?_ (loadPlain_run (h.worked l) h.named ho (sited.readable hr) hl hc ((sited.enginePlace ..).trans hp)
    ((sited.chainBehind ..).trans hb)) (by decide)
  refine (orResend_none h.here hpark _).trans <| (bind_ok _ _ _ _ _ took).trans <| (enabled_bind (decide_eq_true h.left) _ _).trans ?_
  simp only [hbody]
  have wait : e.unitWaits b = false := by unfold Entry.unitWaits; rw [hc]; rfl
  rw [wait, if_neg Bool.false_ne_true, if_pos hf]
end

section
variable {t : TileNo} {c : SlotNo} {x y : Ctx} {e : Entry} {s u : State} {m : List Host.Cell} {i k n : Nat} {b : CopyBody} {ent : Tit}

/-- The local element of a STORE from scratchpad (R188). -/
theorem storeLocal_pad (hr : u.Readable) (hl : b.lkind = 0) (hs : b.shape = false) (hf : titFmt ent ≠ 8)
    (hb : chainBehind u x 1 (spAt t (localOff b e.index)) (fmtBytes (titFmt ent)) = false) (q : List Byte) :
    storeLocal t c x e b (titFmt ent) e.index q u =
      .ok ((titFmt ent, leNat (cellsRead u.mem (spAt t (localOff b e.index)) (fmtBytes (titFmt ent)))), u) := by
  have same : localFmt true b (titFmt ent) = titFmt ent := by simp [localFmt, hl, hs, hf]
  unfold storeLocal
  simp only [hl, same]
  refine (see_bind ..).trans <| (enabled_bind (by rw [hb]; rfl) _ u).trans ?_
  exact bind_ok _ _ _ _ _ (engineBytes_readable hr false)

/-- A STORE iteration from scratchpad without shaping or combining (R193). -/
theorem storePlain_run (w : Worked t c s u m i x) (hy : x.entry? 1 e.seq = some e) (ho : e.run.out = none) (hr : u.Readable)
    (hl : b.lkind = 0) (hc : b.cnten = false) (hs : b.shape = false) (hcomb : b.combine = false) (hf : titFmt ent ≠ 8)
    (hp : enginePlace u t e.cap (addOff (e.cap.tensOf b.tid).base (elemAt ent b e.index * fmtBytes (titFmt ent))) = .at k false)
    (hb : chainBehind u x 1 k (fmtBytes (titFmt ent)) = false)
    (hloc : chainBehind u x 1 (spAt t (localOff b e.index)) (fmtBytes (titFmt ent)) = false) (last : Bool) :
    ∃ v z, storePlain t c x e b ent last u = .ok ((), v) ∧
      Worked t c s v (cellsWrite m k (cellsRead m (spAt t (localOff b e.index)) (fmtBytes (titFmt ent)))) (i + 1) z ∧
      Reached 1 e.seq (e.run.iter + 1) x z := by
  have bytes : natLe (fmtBytes (titFmt ent)) (leNat (cellsRead u.mem (spAt t (localOff b e.index)) (fmtBytes (titFmt ent)))) =
      cellsRead m (spAt t (localOff b e.index)) (fmtBytes (titFmt ent)) := by
    have l := natLe_leNat (cellsRead u.mem (spAt t (localOff b e.index)) (fmtBytes (titFmt ent)))
    rw [w.mem] at l ⊢
    rwa [cellsRead_length] at l
  have w1 := w.modCtx (Ctx.counted {})
  have sited : Sited u (u.modCtx t c (Ctx.counted {})) := .modCtx w.ctx rfl rfl
  have size := cellsRead_length m (fmtBytes (titFmt ent)) (spAt t (localOff b e.index))
  obtain ⟨v2, wrote, w2⟩ := engineWrite_at (bs := cellsRead m (spAt t (localOff b e.index)) (fmtBytes (titFmt ent))) w1
    ((sited.enginePlace ..).trans hp) (by rw [sited.chainBehind, size]; exact hb) (by rw [size]; exact (fmtBytes_le _).trans (by decide))
    (ackCount b (fmtBytes (titFmt ent)))
  obtain ⟨v3, z, done, w3, rz⟩ := endCopy_run w2 hy ho hc
    (if isWindow (addOff (e.cap.tensOf b.tid).base (elemAt ent b e.index * fmtBytes (titFmt ent))) then 0 else 2 * fmtBytes (titFmt ent)) 0
  refine ⟨v3, z, ?_, w3, rz.job, rz.num, rz.iter⟩
  have notQueue : ¬ b.lkind = 3 := by rw [hl]; decide
  unfold storePlain
  have queue : storeQueue t c e b u = .ok ([], u) := by
    rw [storeQueue, if_pos notQueue]
    rfl
  have queueEnd : storeQueueEnd t c e b (fmtBytes (titFmt ent)) last v2 = .ok ((), v2) := by
    rw [storeQueueEnd, if_pos notQueue]
    rfl
  refine (bind_ok _ _ _ _ _ queue).trans ?_
  refine (bind_ok _ _ _ _ _ (storeLocal_pad hr hl hs hf hloc [])).trans ?_
  simp only [hs, hcomb]
  rw [if_neg Bool.false_ne_true, if_neg Bool.false_ne_true, if_pos trivial]
  refine (bind_ok _ _ _ _ _ (countEvents_run ..)).trans ?_
  rw [bytes]
  refine (bind_ok _ _ _ _ _ wrote).trans ?_
  exact (bind_ok _ _ _ _ _ queueEnd).trans done

/-- A STORE iteration, seen from outside (R186, R189). -/
theorem exec_storeIteration_at (hr : s.Readable) (hs : s.Solvent t) (ho : e.run.out = none)
    (h : RunsBlock s t c 1 x e) (hbody : e.cur.body = .store b) (hl : b.lkind = 0) (hc : b.cnten = false) (hsh : b.shape = false)
    (hcomb : b.combine = false) (hpark : s.parkedOf x 1 = none) (hb : chainBehind s x 1 k n = false)
    (hloc : chainBehind s x 1 (spAt t (localOff b e.index)) n = false) (hf : titFmt (x.titNo b.tid) ≠ 8)
    (hn : n = fmtBytes (titFmt (x.titNo b.tid)))
    (hp : enginePlace s t e.cap (addOff (e.cap.tensOf b.tid).base (elemAt (x.titNo b.tid) b e.index * n)) = .at k false) :
    ∃ s', exec (.storeIteration t c) s = .next s' ∧ Advanced s' t c 1 e.seq (e.run.iter + 1) ∧
      s'.mem = cellsWrite s.mem k (cellsRead s.mem (spAt t (localOff b e.index)) n) := by
  subst hn
  obtain ⟨l, took⟩ := running_run h
  have sited := s.turned_sited t l
  refine step_advances h hs ?_ (storePlain_run (h.worked l) h.named ho (sited.readable hr) hl hc hsh hcomb hf ((sited.enginePlace ..).trans hp)
    ((sited.chainBehind ..).trans hb) ((sited.chainBehind ..).trans hloc) (decide (e.total ≤ e.run.iter + 1))) (by decide)
  refine (orResend_none h.here hpark _).trans <| (bind_ok _ _ _ _ _ took).trans <| (enabled_bind (decide_eq_true h.left) _ _).trans ?_
  simp only [hbody]
  have wait : e.unitWaits b = false := by unfold Entry.unitWaits; rw [hc]; rfl
  have empty (v : State) : readsOut v t x e b (x.titNo b.tid) = false := by simp [readsOut, outPlaces, ho]
  have act : (see fun v => readsOut v t x e b (x.titNo b.tid)) = (pure false : M Bool) := by
    funext v
    exact congrArg (fun r => Except.ok (r, v)) (empty v)
  rw [wait, if_neg Bool.false_ne_true, act, pure_bind, if_neg Bool.false_ne_true, hsh, Bool.false_and, if_neg Bool.false_ne_true, if_neg hf]
end

end Sys2Proof.Machine
end

section
/-!
PROOFS. VECTOR iterations of elementwise operators between scratchpad ports (O52; R239, R243, R247, R250).
-/
namespace Sys2Proof.Machine
open Sys2Proof

/-! ## Ports in scratchpad (R239, R243, R247) -/

/-- Every port of the block lies in scratchpad. -/
def VecBody.padded (b : VecBody) : Prop := ∀ k, (b.port k).kind = 1

/-- The key of the element of a port at an index tuple. -/
def padKey (t : TileNo) (p : VPort) (idx : List Nat) : Nat :=
  spAt t (p.base + portElem p idx * fmtBytes p.type)
/-- The element that memory m holds there. -/
def padElem (t : TileNo) (m : List Host.Cell) (p : VPort) (idx : List Nat) : Nat :=
  leNat (cellsRead m (padKey t p idx) (fmtBytes p.type))

theorem VecBody.padded_of {b : VecBody} (hx : b.x.kind = 1) (hy : b.y.kind = 1) (hz : b.z.kind = 1) (hw : b.w.kind = 1) : b.padded := by
  intro k
  unfold VecBody.port
  split
  · exact hx
  · exact hy
  · exact hz
  · exact hw

section
variable {t : TileNo} {c : SlotNo} {x y : Ctx} {e : Entry} {s u : State} {b : VecBody} {idx : List Nat}

theorem portCause_pad {p : VPort} (hk : p.kind = 1) (z : Tile) (o : Nat) : portCause z p o = none := by simp [portCause, hk]
theorem portTag_pad {p : VPort} (hk : p.kind = 1) (o : Nat) (u : State) : portTag t p o u = .ok ((), u) := by
  refine (see_bind ..).trans ?_
  rw [portCause_pad hk]
  rfl
theorem tagsAt_pad (h : b.padded) (idx : List Nat) (ks : List Nat) (u : State) : tagsAt t b idx ks u = .ok ((), u) := by
  unfold tagsAt
  induction ks with
  | nil => rfl
  | cons k ks ih =>
    exact (bind_ok _ _ _ _ _ (portTag_pad (h k) _ u)).trans ih
theorem inputAt_pad (h : b.padded) (hr : u.Readable) (idx : List Nat) (k : Nat) :
    inputAt t c x e b idx k u = .ok (padElem t u.mem (b.port k) idx, u) := by
  unfold inputAt portRead
  simp only [h k]
  exact bind_ok _ _ _ _ _ (engineBytes_readable hr false)
theorem portWrite_pad {p : VPort} (hk : p.kind = 1) (seq : Nat) (idx : List Nat) (v : Nat) (u : State) :
    portWrite t c seq p (portElem p idx) v u = .ok ((), writeNat u (padKey t p idx) (fmtBytes p.type) v) := by
  unfold portWrite
  simp only [hk]
  rfl
theorem unusedInput_pad (h : b.padded) (hr : u.Readable) (idx : List Nat) (k : Nat) : unusedInput t c x e b idx k u = .ok ((), u) := by
  unfold unusedInput
  split
  · rfl
  · exact bind_ok _ _ _ _ _ (inputAt_pad h hr idx k)

/-- No elementwise operator reduces, indexes or is a softmax step (R249). -/
theorem vgroup_elementwise {op : Nat} (h : op ≤ 0x34) :
    vgroup op ≠ some .block ∧ vgroup op ≠ some .segment ∧ vgroup op ≠ some .index ∧ vgroup op ≠ some .softmax := by
  have each : ∀ k < 0x35, vgroup k ≠ some .block ∧ vgroup k ≠ some .segment ∧ vgroup k ≠ some .index ∧ vgroup k ≠ some .softmax := by
    decide
  exact each op (Nat.lt_succ_of_le h)
/-- Every assigned operator reads x. -/
theorem opInputs_x {b : VecBody} (h : (vgroup b.op).isSome = true) : (opInputs b).contains 0 = true := by
  obtain ⟨g, hg⟩ := Option.isSome_iff_exists.mp h
  unfold opInputs
  rw [hg]
  cases g <;> rfl

/-- What an elementwise operator delivers from the elements of its ports in memory m. -/
def elementwise (t : TileNo) (m : List Host.Cell) (fp : BitVec 4) (b : VecBody) (idx : List Nat) : Nat × Counts :=
  opDeliver fp b (padElem t m b.x idx) (if (opInputs b).contains 1 then padElem t m b.y idx else 0)
    (if (opInputs b).contains 2 then padElem t m b.z idx else 0)

/-- Which input SEL selects: x (0) or y (1) (R253). -/
def selPick (fp : BitVec 4) (b : VecBody) (z : Nat) : Nat :=
  match readVal fp b.z.type z with
  | .nan | .zero _ => 1
  | _ => 0

/-- SEL delivers the input that it selects (R253). -/
theorem elementwise_sel (h : b.op = 0x1C) (m : List Host.Cell) (fp : BitVec 4) :
    elementwise t m fp b idx = if selPick fp b (padElem t m b.z idx) = 0 then opDeliver fp b (padElem t m b.x idx) 0 (padElem t m b.z idx)
      else opDeliver fp b 0 (padElem t m b.y idx) (padElem t m b.z idx) := by
  have three : vgroup b.op = some .three := by rw [h]; rfl
  have inputs : opInputs b = [0, 1, 2] := by unfold opInputs; rw [three]
  unfold elementwise opDeliver
  rw [inputs, three, h, if_pos (show [0, 1, 2].contains 1 = true from rfl), if_pos (show [0, 1, 2].contains 2 = true from rfl)]
  simp only [opVal, selPick]
  generalize readVal fp b.z.type (padElem t m b.z idx) = v
  cases v <;> rfl

theorem selIter_pad (h : b.padded) (hr : u.Readable) (hop : b.op = 0x1C) : ∃ xv yv zv, selIter t c x e b idx u = .ok ((xv, yv, zv), u) ∧
    opDeliver e.cap.fp b xv yv zv = elementwise t u.mem e.cap.fp b idx := by
  have plain : (b.z.kind != 4 && (portCause (u.tile t) b.z (portElem b.z idx)).isSome) = false := by
    rw [portCause_pad (show b.z.kind = 1 from h 2)]
    exact Bool.and_false _
  have run : selIter t c x e b idx u = .ok (if selPick e.cap.fp b (padElem t u.mem b.z idx) = 0
      then (padElem t u.mem (b.port (selPick e.cap.fp b (padElem t u.mem b.z idx))) idx, 0, padElem t u.mem b.z idx)
      else (0, padElem t u.mem (b.port (selPick e.cap.fp b (padElem t u.mem b.z idx))) idx, padElem t u.mem b.z idx), u) := by
    refine (see_bind ..).trans ?_
    dsimp only
    rw [plain, if_neg Bool.false_ne_true]
    exact (bind_ok _ _ _ _ _ (inputAt_pad h hr idx 2)).trans <| (bind_ok _ _ _ _ _ (tagsAt_pad h idx _ u)).trans <|
      (bind_ok _ _ _ _ _ (inputAt_pad h hr idx _)).trans <| bind_ok _ _ _ _ _ (unusedInput_pad h hr idx _)
  rw [run, elementwise_sel hop]
  have pick : selPick e.cap.fp b (padElem t u.mem b.z idx) = 0 ∨ selPick e.cap.fp b (padElem t u.mem b.z idx) = 1 := by
    unfold selPick
    split <;> simp
  rcases pick with p | p
  · rw [p]
    exact ⟨_, _, _, rfl, rfl⟩
  · rw [p]
    exact ⟨_, _, _, rfl, rfl⟩

/-- An input is read where the operator uses it. -/
theorem inputIf_pad {α : Type} {p : Bool} (h : b.padded) (hr : u.Readable) (idx : List Nat) (k : Nat) (f : Nat → M α) :
    (if p then inputAt t c x e b idx k >>= f else pure 0 >>= f) u = f (if p then padElem t u.mem (b.port k) idx else 0) u := by
  cases p with
  | true => exact bind_ok _ _ _ _ _ (inputAt_pad h hr idx k)
  | false => rfl

theorem elementwiseInputs_pad (h : b.padded) (hr : u.Readable) (hop : (vgroup b.op).isSome = true) {α : Type} (f : Nat × Nat × Nat → M α) :
    ∃ xv yv zv, opDeliver e.cap.fp b xv yv zv = elementwise t u.mem e.cap.fp b idx ∧
    (do
      let r ← if b.op = 0x1C then selIter t c x e b idx
        else do
          tagsAt t b idx (opInputs b ++ [3])
          let xv ← if (opInputs b).contains 0 then inputAt t c x e b idx 0 else pure 0
          let yv ← if (opInputs b).contains 1 then inputAt t c x e b idx 1 else pure 0
          let zv ← if (opInputs b).contains 2 then inputAt t c x e b idx 2 else pure 0
          pure (xv, yv, zv)
      f r) u = f (xv, yv, zv) u := by
  by_cases sel : b.op = 0x1C
  · obtain ⟨xv, yv, zv, run, eq⟩ := selIter_pad (x := x) (c := c) (e := e) (idx := idx) h hr sel
    refine ⟨xv, yv, zv, eq, ?_⟩
    simp only [if_pos sel]
    exact bind_ok _ _ _ _ _ run
  · refine ⟨if (opInputs b).contains 0 then padElem t u.mem (b.port 0) idx else 0,
      if (opInputs b).contains 1 then padElem t u.mem (b.port 1) idx else 0,
      if (opInputs b).contains 2 then padElem t u.mem (b.port 2) idx else 0, ?_, ?_⟩
    · rw [opInputs_x hop]
      rfl
    · simp only [if_neg sel]
      refine (bind_ok _ _ _ _ _ (tagsAt_pad h idx _ u)).trans ?_
      refine (inputIf_pad h hr idx 0 _).trans ?_
      refine (inputIf_pad h hr idx 1 _).trans ?_
      exact (inputIf_pad h hr idx 2 _).trans rfl

/-- An active element of an elementwise operator between scratchpad ports (R243). -/
theorem activeIter_pad (h : b.padded) (hr : u.Readable) (hop : (vgroup b.op).isSome = true) (hle : b.op ≤ 0x34) (lastOfRow lastOfBlock : Bool) :
    activeIter t c x e b idx lastOfRow lastOfBlock u = .ok (some (elementwise t u.mem e.cap.fp b idx).1,
      writeNat (u.modCtx t c (Ctx.counted (elementwise t u.mem e.cap.fp b idx).2)) (padKey t b.w idx) (fmtBytes b.w.type)
        (elementwise t u.mem e.cap.fp b idx).1) := by
  obtain ⟨nb, ns, ni, nx⟩ := vgroup_elementwise hle
  obtain ⟨g, hg⟩ := Option.isSome_iff_exists.mp hop
  unfold activeIter
  rw [hg] at nb ns ni nx ⊢
  cases g
  case block => exact absurd rfl nb
  case segment => exact absurd rfl ns
  case index => exact absurd rfl ni
  case softmax => exact absurd rfl nx
  case binary | scalar | unary | three | compare | special | bitwise =>
    obtain ⟨xv, yv, zv, eq, run⟩ := elementwiseInputs_pad (c := c) (x := x) (idx := idx) h hr hop (e := e) (fun r =>
      match opDeliver e.cap.fp b r.1 r.2.1 r.2.2 with
      | (r, k) => do
        countEvents t c k
        portWrite t c e.seq b.w (portElem b.w idx) r
        pure (some r))
    refine run.trans ?_
    rw [eq]
    exact (bind_ok _ _ _ _ _ (countEvents_run ..)).trans <| (bind_ok _ _ _ _ _ (portWrite_pad (h 3) ..)).trans rfl

end

section
variable {t : TileNo} {c : SlotNo} {x y : Ctx} {e : Entry} {s u : State} {m : List Host.Cell} {i : Nat} {b : VecBody}

/-- Nothing is pushed at a port in scratchpad. -/
theorem drainW_pad (hy : u.ctx? t c = some y) {p : VPort} (hk : p.kind = 1) (fuel : Nat) : drainW fuel t c x e p u = .ok ((), u) := by
  cases fuel with
  | zero => rfl
  | succ n =>
    refine (ctx_bind hy _).trans ?_
    rw [hk, if_neg (by simp)]
    rfl
theorem wReady_pad (hy : u.ctx? t c = some y) (hn : y.entry? 3 e.seq = some e) (hq : e.run.qw = []) {p : VPort} (hk : p.kind = 1) :
    wReady t c x e p u = .ok ((), u) := by
  refine (bind_ok _ _ _ _ _ (drainW_pad hy hk _)).trans <| (ctx_bind hy _).trans ?_
  rw [hn, Option.elim_some, hq]
  rfl
theorem covStart_none (h : e.run.cov = none) (u : State) : covStart e u = .ok ((), u) := by
  unfold covStart
  rw [h]
  split <;> rfl

/-- The step after the last element of a row begins the next one: where no row is cut short, the next tuple of the walk follows (R241). -/
theorem next_tuple (k n : Nat) : (if k % n + 1 = n then (k / n + 1) * n else k + 1) = k + 1 := by
  split
  · next h =>
    calc (k / n + 1) * n = n * (k / n) + n := by rw [Nat.add_mul, Nat.one_mul, Nat.mul_comm]
      _ = n * (k / n) + (k % n + 1) := by rw [h]
      _ = k + 1 := by rw [← Nat.add_assoc, Nat.div_add_mod]
  · rfl

/-- What an active tuple k of an elementwise operator notes of the run of its block. -/
def Progress.walked (b : VecBody) (k : Nat) (p : Progress) : Progress :=
  let n := b.bnd.headD 0
  let last := k % n + 1 = n
  let next := if last then (k / n + 1) * n else k + 1
  let r := advanceQueues b (opInputs b) p
  { r with
    iter := next
    lens := if last then (if r.gridded then r.lens else []) else r.lens
    seg := if r.gridded then List.replicate (next - (k + 1)) none else [] }
theorem Progress.walked_iter (b : VecBody) (k : Nat) (p : Progress) : (p.walked b k).iter = k + 1 := next_tuple ..

/-- A tuple of an elementwise operator between scratchpad ports, where no row is cut short and no element masked: its element is worked on, its lanes
counted, and the walk goes on. -/
theorem vecTuple_plain (h : b.padded) (hle : b.op ≤ 0x34) (hm : b.msrc = 0) (hrag : b.ragged = false) (hgrid : e.run.gridded = false) :
    ∃ lastOfRow lastOfBlock, vecTuple t c x e b = (do
      let _ ← activeIter t c x e b (indexAt b.bnd e.run.iter) lastOfRow lastOfBlock
      upd fun s => s.charge t c 4 (laneCost b)
      modRun t c 3 e.seq fun p => p.walked b e.run.iter
      drainW 65 t c x e b.w) := by
  obtain ⟨_, ns, _, _⟩ := vgroup_elementwise hle
  have whole : b.readsRlt = false := by simp [VecBody.readsRlt, hrag, hm]
  have all (n v : Nat) : iterated b n v = true := by simp [iterated, hrag]
  have free : (opInputs b).filter (fun j => (b.port j).kind == 4) = [] := by
    rw [List.filter_eq_nil_iff]
    intro j _
    simp [h j]
  have soft : b.op ≠ 0x48 := by omega
  have run : b.op ≠ 0x3F := by omega
  let n := b.bnd.headD 0
  refine ⟨e.run.iter % n + 1 == n, e.total ≤ if e.run.iter % n + 1 == n then (e.run.iter / n + 1) * n else e.run.iter + 1, ?_⟩
  unfold vecTuple
  simp only [whole, hgrid, all, free, hm, hrag]
  simp [ns, soft, run, n, Progress.walked]

/-- A tuple of an elementwise operator between scratchpad ports (R243). -/
theorem vecTuple_run (w : Worked t c s u m i x) (hn : x.entry? 3 e.seq = some e) (h : b.padded) (hr : u.Readable) (hop : (vgroup b.op).isSome = true)
    (hle : b.op ≤ 0x34) (hm : b.msrc = 0) (hrag : b.ragged = false) (hgrid : e.run.gridded = false) :
    ∃ v z, vecTuple t c x e b u = .ok ((), v) ∧
      Worked t c s v (cellsWrite m (padKey t b.w (indexAt b.bnd e.run.iter))
        (natLe (fmtBytes b.w.type) (elementwise t m e.cap.fp b (indexAt b.bnd e.run.iter)).1)) i z ∧
      Reached 3 e.seq (e.run.iter + 1) x z := by
  obtain rfl := w.mem
  obtain ⟨lastOfRow, lastOfBlock, plain⟩ := vecTuple_plain (t := t) (c := c) (x := x) h hle hm hrag hgrid
  let r := elementwise t u.mem e.cap.fp b (indexAt b.bnd e.run.iter)
  obtain ⟨d, a, w1⟩ := ((w.modCtx (Ctx.counted r.2)).writeBytes (padKey t b.w (indexAt b.bnd e.run.iter))
    (natLe (fmtBytes b.w.type) r.1)).charge 4 (laneCost b)
  have w2 := w1.modCtx (·.modRun 3 e.seq (Progress.walked b e.run.iter))
  have same := Ctx.entry_modRun_same (x := { Ctx.counted r.2 x with desched := d, activity := a }) (g := Progress.walked b e.run.iter) hn
  refine ⟨_, _, ?_, w2, rfl, rfl, ?_⟩
  · rw [plain]
    refine (bind_ok _ _ _ _ _ (activeIter_pad h hr hop hle lastOfRow lastOfBlock)).trans <| (upd_bind ..).trans ?_
    exact (bind_ok _ _ _ _ _ (modCtx_run ..)).trans (drainW_pad w2.ctx (h 3) _)
  · rw [same, Option.map_some, Progress.walked_iter]
end

/-- A VECTOR iteration, seen from outside (R243, R250). -/
theorem exec_vectorIteration_at {s : State} {t : TileNo} {c : SlotNo} {x : Ctx} {e : Entry} {b : VecBody} (hr : s.Readable) (hs : s.Solvent t)
    (hcov : e.run.cov = none) (h : RunsBlock s t c 3 x e) (hbody : e.cur.body = .vector b) (hop : (vgroup b.op).isSome = true) (hle : b.op ≤ 0x34)
    (hm : b.msrc = 0) (hrag : b.ragged = false) (hpad : b.padded) (hq : e.run.qw = []) (hgrid : e.run.gridded = false)
    (hpark : s.parkedOf x 3 = none) :
    ∃ s', exec (.vectorIteration t c) s = .next s' ∧ Advanced s' t c 3 e.seq (e.run.iter + 1) ∧
      s'.mem = cellsWrite s.mem (padKey t b.w e.index) (natLe (fmtBytes b.w.type) (elementwise t s.mem e.cap.fp b e.index).1) := by
  obtain ⟨l, took⟩ := running_run h
  have w := h.worked l
  have index : e.index = indexAt b.bnd e.run.iter := by unfold Entry.index; rw [hbody]; rfl
  obtain ⟨v, z, tuple, wv, rz⟩ := vecTuple_run w h.named hpad ((s.turned_sited t l).readable hr) hop hle hm hrag hgrid
  rw [← index] at wv
  refine step_advances (act := do
      covStart e
      wReady t c x e b.w
      vecTuple t c x e b) h hs ?_ ⟨v, z, ?_, wv, rz⟩ (by decide)
  · refine (orResend_none h.here hpark _).trans <| (bind_ok _ _ _ _ _ took).trans <| (enabled_bind (decide_eq_true h.left) _ _).trans ?_
    simp only [hbody, hcov, Bool.and_false, if_neg Bool.false_ne_true]
  · exact (bind_ok _ _ _ _ _ (covStart_none hcov _)).trans <|
      (bind_ok _ _ _ _ _ (wReady_pad w.ctx h.named hq (show b.w.kind = 1 from hpad 3))).trans tuple

end Sys2Proof.Machine
end

section
/-!
PROOFS. A K-step of the matrix engine (O52): its reads, its write and tag, and the power of the array (R201 to R209, R213).
-/
namespace Sys2Proof.Machine
open Sys2Proof

/-! ## The power of the array (R213) -/

/-- As `Worked`, beside what counts its events: the slot holds y but for the mark of a descheduled queue and the activity. -/
def Tallied (t : TileNo) (c : SlotNo) (s u : State) (m : List Host.Cell) (n : Nat) (y : Ctx) : Prop :=
  ∃ d a, Worked t c s u m n { y with desched := d, activity := a }

theorem State.modEvery_tile (job : Nat) (num : BitVec 16) (f : Ctx → Ctx) (s : State) (t : TileNo) :
    (s.modEvery job num f).tile t = { s.tile t with
      slots := (s.tile t).slots.map (Option.map fun x => if x.job = job ∧ x.num = num then f x else x) } :=
  Vector.getElem_map ..
theorem State.modEvery_ctx (job : Nat) (num : BitVec 16) (f : Ctx → Ctx) (s : State) (t : TileNo) (c : SlotNo) :
    (s.modEvery job num f).ctx? t c = (s.ctx? t c).map fun x => if x.job = job ∧ x.num = num then f x else x := by
  unfold State.ctx?
  rw [State.modEvery_tile]
  exact Vector.getElem_map ..

section
variable {t : TileNo} {c : SlotNo} {s u : State} {m : List Host.Cell} {n : Nat} {y : Ctx}

/-- A tile may change beside its slots and its tags of accumulator tiles. -/
theorem Worked.setTile (w : Worked t c s u m n y) {z : Tile} (hs : z.slots = (u.tile t).slots) (ha : z.accTags = (u.tile t).accTags) :
    Worked t c s (u.setTile t z) m n y where
  ctx := by rw [State.ctx?, State.tile_setTile, hs]; exact w.ctx
  mem := w.mem
  owes := w.owes
  now := w.now
  dies := w.dies
  acc := by rw [State.tile_setTile, ha]; exact w.acc

theorem Worked.tallied (w : Worked t c s u m n y) : Tallied t c s u m n y := ⟨y.desched, y.activity, w⟩

namespace Tallied

theorem setTile (h : Tallied t c s u m n y) {z : Tile} (hs : z.slots = (u.tile t).slots) (ha : z.accTags = (u.tile t).accTags) :
    Tallied t c s (u.setTile t z) m n y :=
  h.imp fun _ h => h.imp fun _ w => w.setTile hs ha
theorem modEvery_count (h : Tallied t c s u m n y) (job : Nat) (num : BitVec 16) (k : Fin 9) (j : Nat) :
    Tallied t c s (u.modEvery job num (·.count k j)) m n y := by
  obtain ⟨d, a, w⟩ := h
  have acc : ((u.modEvery job num (·.count k j)).tile t).accTags = (u.tile t).accTags := by rw [State.modEvery_tile]
  have ctx := State.modEvery_ctx job num (·.count k j) u t c
  rw [w.ctx, Option.map_some] at ctx
  split at ctx
  · exact ⟨d, _, ctx, w.mem, w.owes, w.now, w.dies, acc.trans w.acc⟩
  · exact ⟨d, a, ctx, w.mem, w.owes, w.now, w.dies, acc.trans w.acc⟩
theorem chargeOwner (h : Tallied t c s u m n y) (job : Nat) (num : BitVec 16) (k : Fin 9) (j : Nat) :
    Tallied t c s (u.chargeOwner job num k j) m n y := by
  unfold State.chargeOwner
  split
  · exact h
  · obtain ⟨_, a, w⟩ := h.modEvery_count job num k j
    obtain ⟨d, w⟩ := w.alike (.chargeJob job k j _)
    exact ⟨d, a, w⟩
theorem chargeFiller (h : Tallied t c s u m n y) (j : Nat) : Tallied t c s (chargeFiller t j u) m n y := by
  unfold Machine.chargeFiller
  split
  · exact h.chargeOwner ..
  · exact h
theorem settleHold (h : Tallied t c s u m n y) : Tallied t c s (settleHold t u) m n y := by
  unfold Machine.settleHold
  dsimp only
  split
  · exact (h.chargeFiller _).setTile rfl rfl
  · exact h
theorem settleRamp (h : Tallied t c s u m n y) (upto : Nat) : Tallied t c s (settleRamp t upto u) m n y := by
  unfold Machine.settleRamp
  dsimp only
  split
  · split
    · exact h.setTile rfl rfl
    · exact (h.chargeFiller _).setTile rfl rfl
  · exact h
theorem stepPower (h : Tallied t c s u m n y) (who : Nat × BitVec 16) : Tallied t c s (stepPower t who u) m n y := by
  have settled := h.settleHold.settleRamp (max u.now (u.tile t).mx.idle)
  unfold Machine.stepPower
  refine setTile ?_ rfl rfl
  split
  · exact settled
  · split
    · exact settled
    · exact settled.chargeFiller _
  · exact settled.chargeFiller _

end Tallied
end

/-! ## The reads of a K-step (R197, R204, R208) -/

section
variable {t : TileNo} {c : SlotNo} {x : Ctx} {cap : Cap} {u : State}

theorem unitPart_readable (hr : u.Readable) (k n : Nat) (uses : Nat → Bool) : unitPart t c x cap k n uses u = .ok (cellsRead u.mem k n, u) := by
  refine (see_bind ..).trans ?_
  rw [if_pos (hr k n)]
  rfl

/-- The K-vectors of the operand in a slot. -/
def kvecsIn (m : List Host.Cell) (t : TileNo) (fmt dir slot h K : Nat) : Array (List Nat) :=
  (Array.range 64).map fun r => (List.range K).map (kvecCode fmt dir h (cellsRead m (handAt t slot 0) 8192).toArray r)

theorem scales_readable (hr : u.Readable) (ks : List Nat) (k : Nat → Nat) (n : Nat) (uses : Nat → Nat → Bool) :
    ∃ rows, ks.mapM (fun r => unitPart t c x cap (k r) n (uses r)) u = .ok (rows, u) := by
  induction ks with
  | nil => exact ⟨[], rfl⟩
  | cons r ks ih =>
    obtain ⟨rows, h⟩ := ih
    refine ⟨cellsRead u.mem (k r) n :: rows, ?_⟩
    rw [List.mapM_cons]
    exact (bind_ok _ _ _ _ _ (unitPart_readable hr ..)).trans <| (bind_ok _ _ _ _ _ h).trans rfl

/-- The operand in a slot, for its block scales. -/
def operandIn (u : State) (t : TileNo) (fmt dir slot h K : Nat) (scal : Array (Array Nat)) : Operand :=
  { fmt, vec := kvecsIn u.mem t fmt dir slot h K, scal, band := (slotTag (u.tile t) slot).bandscale.toNat }

theorem readOperand_readable (hr : u.Readable) (fmt dir slot h K : Nat) (need : Nat → Bool) :
    ∃ scal, readOperand t c x cap fmt dir slot h K need u = .ok (operandIn u t fmt dir slot h K scal, u) := by
  by_cases scaled : fmt = 8
  · obtain ⟨rows, read⟩ := scales_readable (t := t) (c := c) (x := x) (cap := cap) hr (List.range 64)
      (fun r => compAt t slot (32 * r + 16 * h)) (K / 8) fun r _ => need r
    refine ⟨(rows.map fun r => (r.map BitVec.toNat).toArray).toArray, (bind_ok _ _ _ _ _ (unitPart_readable hr ..)).trans ?_⟩
    dsimp only
    rw [if_pos scaled]
    exact (bind_ok _ _ _ _ _ read).trans rfl
  · refine ⟨#[], (bind_ok _ _ _ _ _ (unitPart_readable hr ..)).trans ?_⟩
    dsimp only
    rw [if_neg scaled]
    rfl
end

/-! ## A K-step (R202 to R209) -/

/-- The K-step is the first of its block on tile T, and starts from 0 (R205). -/
def Entry.fresh (e : Entry) (m : MatBody) (T : Nat) : Bool := m.op % 4 == 1 && !e.run.visited.contains T
/-- What a K-step makes of element i of its tile, from its operands and the bytes that the tile had: the word and its clamps. -/
def kstepCell (e : Entry) (m : MatBody) (A B : Operand) (old : List Byte) (fresh : Bool) (i : Nat) : Nat × Nat :=
  kstepElem m e.cap.nbv (if m.qsen then bf16.val e.cap.qs.toNat else .num (.ofInt 1)) A B (A.vals e.cap.nbv) (B.vals e.cap.nbv)
    (if fresh then 0 else (tileWords old)[i]?.getD 0) (i / 64) (i % 64)
/-- The elements of a tile none of which is skipped, each counted once. -/
def kstepCells (e : Entry) (m : MatBody) (A B : Operand) (old : List Byte) (fresh : Bool) : Array (Nat × Nat × Nat) :=
  (Array.range 4096).map fun i => ((kstepCell e m A B old fresh i).1, (kstepCell e m A B old fresh i).2, 1)
/-- What a K-step of formats fa and fb notes of its block. -/
def Entry.kstepped (fa fb T : Nat) (e : Entry) : Entry :=
  { e with
    cap := { e.cap with fmtA := some fa, fmtB := some fb }
    run := { e.run with iter := e.run.iter + 1, visited := if e.run.visited.contains T then e.run.visited else e.run.visited ++ [T] } }

section
variable {t : TileNo} {c : SlotNo} {x : Ctx} {e : Entry} {u : State} {m : MatBody} {fa fb K : Nat}

theorem Ctx.entry_modEntry_same {ch : ChainNo} {seq : Nat} {f : Entry → Entry} (hf : ∀ e, (f e).seq = e.seq) (h : x.entry? ch seq = some e) :
    (x.modEntry ch seq f).entry? ch seq = some (f e) := by
  rw [Ctx.entry_modEntry hf, if_pos ⟨rfl, rfl⟩, h]
  rfl
theorem tagCheck_ok {g : SlotTag} {tid f : Nat} (hv : g.valid = true) (ht : g.tid.toNat = tid) (hf : g.format.toNat = f) (u : State) :
    tagCheck g tid (some f) u = .ok ((), u) := by
  unfold tagCheck
  simp [hv, ht, hf, echeck]
theorem echeck_bind {α : Type} {p : Bool} (h : p = true) (cause : Cause) (f : Unit → M α) (u : State) : (echeck p cause >>= f) u = f () u := by
  rw [h]
  rfl
/-- Where no cell is skipped, a tile is written whole. -/
theorem writeTile_whole (T : Nat) (ws : Array Nat) :
    writeTile t T ws (fun _ _ => false) = fun u => writeBytes u (accAt t T 0) (wordBytes ws) := by
  funext u
  unfold writeTile
  rw [if_neg (by simp)]

/-- The end of a K-step: its clamps counted, its bytes written, its tile tagged, its cells counted, its block and the power of the array
brought on. -/
theorem kstepEnd_run (hu : u.Unmetered) (hx : u.ctx? t c = some x) (hn : x.entry? 2 e.seq = some e) {T : Nat} (hT : T < 192)
    (cells : Array (Nat × Nat × Nat)) (g : AccTag) (kind : Fin 9) :
    ∃ v z, (do
      countEvents t c ⟨0, cells.foldl (fun (n : Nat) (k : Nat × Nat × Nat) => n + k.2.1) 0⟩
      upd fun s : State => writeBytes s (accAt t T 0) (wordBytes (cells.map Prod.fst))
      setAccTag t T g
      upd fun s : State => s.charge t c kind (cells.foldl (fun (n : Nat) (k : Nat × Nat × Nat) => n + k.2.2) 0 / 64)
      modCtx t c fun y => y.modEntry 2 e.seq fun e => e.kstepped fa fb T
      upd (stepPower t (x.job, x.num))) u = .ok ((), v) ∧ v.Unmetered ∧ v.ctx? t c = some z ∧ Reached 2 e.seq (e.run.iter + 1) x z ∧
      accTag (v.tile t) T = g ∧ v.mem = cellsWrite u.mem (accAt t T 0) (wordBytes (cells.map Prod.fst)) := by
  let k : Counts := ⟨0, cells.foldl (fun (n : Nat) (k : Nat × Nat × Nat) => n + k.2.1) 0⟩
  have w1 := ((Worked.refl hx hu).modCtx (Ctx.counted k)).writeBytes (accAt t T 0) (wordBytes (cells.map Prod.fst))
  let u1 := writeBytes (u.modCtx t c (Ctx.counted k)) (accAt t T 0) (wordBytes (cells.map Prod.fst))
  let u2 := u1.setTile t { u1.tile t with accTags := if h : T < 192 then (u1.tile t).accTags.set T g else (u1.tile t).accTags }
  have ctx : u2.ctx? t c = some (Ctx.counted k x) := by
    rw [State.ctx?, State.tile_setTile]
    exact w1.ctx
  obtain ⟨d, a, w3⟩ := (Worked.refl ctx ⟨Nat.le_zero.mp w1.owes.1, Nat.le_zero.mp w1.owes.2⟩).charge kind
    (cells.foldl (fun (n : Nat) (k : Nat × Nat × Nat) => n + k.2.2) 0 / 64)
  have w4 := w3.modCtx (·.modEntry 2 e.seq (Entry.kstepped fa fb T))
  obtain ⟨d', a', w5⟩ := w4.tallied.stepPower (x.job, x.num)
  refine ⟨_, _, ?_, ⟨Nat.le_zero.mp w5.owes.1, Nat.le_zero.mp w5.owes.2⟩, w5.ctx, ⟨rfl, rfl, ?_⟩, ?_, w5.mem.trans w1.mem⟩
  · refine (bind_ok _ _ _ _ _ (countEvents_run ..)).trans <| (upd_bind ..).trans ?_
    have tagged : setAccTag t T g u1 = .ok ((), u2) := rfl
    exact (bind_ok _ _ _ _ _ tagged).trans <| (upd_bind ..).trans <| (bind_ok _ _ _ _ _ (modCtx_run ..)).trans rfl
  · have named := Ctx.entry_modEntry_same (x := { Ctx.counted k x with desched := d, activity := a }) (f := Entry.kstepped fa fb T) (fun _ => rfl) hn
    exact congrArg (Option.map fun f : Entry => f.run.iter) named
  · unfold accTag
    rw [dif_pos hT, w5.acc, State.tile_setTile]
    dsimp only
    rw [dif_pos hT]
    exact vec_get_set _ ⟨T, hT⟩ _ hT

/-- Slot and half of the first operand of the block's next K-step (R202). -/
def Entry.slotA (e : Entry) (m : MatBody) (fa fb : Nat) : Nat × Nat := matSlot m.a e.index (mixedPair (some fa) (some fb))
/-- Slot of the second operand. -/
def Entry.slotB (e : Entry) (m : MatBody) : Nat := (matSlot m.b e.index false).1

/-- A K-step whose tags, pairing, directions and accumulator format agree (R204 to R209). -/
theorem matIter_run {T : Nat} (hcov : e.run.cov = none) (hr : u.Readable) (hu : u.Unmetered) (hx : u.ctx? t c = some x)
    (hn : x.entry? 2 e.seq = some e) (hfa : e.cap.fmtA = some fa) (hfb : e.cap.fmtB = some fb) (hnbv : e.cap.nbv = false)
    (ha : tagCheck (slotTag (u.tile t) (e.slotA m fa fb).1) m.a.tid (some fa) u = .ok ((), u))
    (hb : tagCheck (slotTag (u.tile t) (e.slotB m)) m.b.tid (some fb) u = .ok ((), u))
    (hk : pairK m.op fa fb = some K) (da : dirOk m.a.dir fa = true) (db : dirOk m.b.dir fb = true) (hT : matTile m e.index = T) (hlt : T < 192)
    (hg : (accTag (u.tile t) T).written = false ∨ (accTag (u.tile t) T).format.toNat = if 4 ≤ m.op then 7 else 0) :
    ∃ sa sb v z, matIter t c x e m u = .ok ((), v) ∧ v.Unmetered ∧ v.ctx? t c = some z ∧ Reached 2 e.seq (e.run.iter + 1) x z ∧
      accTag (v.tile t) T = { format := BitVec.ofNat 4 (if 4 ≤ m.op then 7 else 0), written := true } ∧
      v.mem = cellsWrite u.mem (accAt t T 0) (wordBytes ((kstepCells e m
        (operandIn u t fa m.a.dir (e.slotA m fa fb).1 (e.slotA m fa fb).2 K sa) (operandIn u t fb m.b.dir (e.slotB m) 0 K sb)
        (cellsRead u.mem (accAt t T 0) 16384) (e.fresh m T)).map (·.1))) := by
  obtain ⟨sa, ra⟩ := readOperand_readable (t := t) (c := c) (x := x) (cap := e.cap) hr fa m.a.dir (e.slotA m fa fb).1 (e.slotA m fa fb).2 K
    fun _ => (List.range 8).any fun _ => !false
  obtain ⟨sb, rb⟩ := readOperand_readable (t := t) (c := c) (x := x) (cap := e.cap) hr fb m.b.dir (e.slotB m) 0 K
    fun _ => (List.range 8).any fun _ => !false
  have known : (e.cap.fmtA.isSome && e.cap.fmtB.isSome) = true := by rw [hfa, hfb]; rfl
  have dirs : (dirOk m.a.dir fa && dirOk m.b.dir fb) = true := by rw [da, db]; rfl
  have nbv : (!(e.cap.nbv && (fmtNoNbv fa || fmtNoNbv fb))) = true := by rw [hnbv]; rfl
  have fits : (e.fresh m T || !(accTag (u.tile t) T).written || (accTag (u.tile t) T).format.toNat == if 4 ≤ m.op then 7 else 0) = true := by
    rcases hg with h | h <;> simp [h]
  let A := operandIn u t fa m.a.dir (e.slotA m fa fb).1 (e.slotA m fa fb).2 K sa
  let B := operandIn u t fb m.b.dir (e.slotB m) 0 K sb
  obtain ⟨v, z, done, rest⟩ := kstepEnd_run (fa := fa) (fb := fb) hu hx hn hlt
    (kstepCells e m A B (cellsRead u.mem (accAt t T 0) 16384) (e.fresh m T))
    { format := BitVec.ofNat 4 (if 4 ≤ m.op then 7 else 0), written := true } (kstepKind fa fb)
  refine ⟨sa, sb, v, z, ?_, rest⟩
  unfold matIter
  refine (bind_ok _ _ _ _ _ (covStart_none hcov u)).trans ?_
  dsimp only
  rw [known, Bool.true_and, hfa, hfb, hcov, hT]
  have computed (r q : Nat) : cellSkipped none T r q = false := rfl
  simp only [Option.getD_some, computed, Bool.false_eq_true, ↓reduceIte, ← kstepCell.eq_1, ← kstepCells.eq_1]
  refine (see_bind ..).trans <| (see_bind ..).trans <| (bind_ok _ _ _ _ _ ha).trans <| (bind_ok _ _ _ _ _ hb).trans ?_
  rw [hk]
  refine (echeck_bind dirs ..).trans <| (echeck_bind nbv ..).trans <| (see_bind ..).trans <| (echeck_bind fits ..).trans ?_
  refine (bind_ok _ _ _ _ _ ra).trans <| (bind_ok _ _ _ _ _ rb).trans ?_
  simp only [writeTile_whole]
  split
  · exact (see_bind ..).trans done
  · exact (bind_ok _ _ _ _ _ (unitPart_readable hr ..)).trans done
end

end Sys2Proof.Machine
end

section
/-!
PROOFS. The words that an integer K-step writes (O52; R88, R209), the step seen from outside; O52 itself.
-/
namespace Sys2Proof.Machine
open Sys2Proof

/-! ## Words in memory (R1, R137) -/

/-- Byte j of a run of cells. -/
theorem cellsRead_get (m : List Host.Cell) {n j : Nat} (h : j < n) (k : Nat) : (cellsRead m k n)[j]? = some (cellGet m (k + j)) := by
  induction n generalizing k j with
  | zero => omega
  | succ n ih =>
    cases j with
    | zero => rfl
    | succ j => rw [cellsRead, List.getElem?_cons_succ, ih (by omega), Nat.add_right_comm, Nat.add_assoc]
/-- A part of a run of cells. -/
theorem cellsRead_part (m : List Host.Cell) (k a : Nat) {b n : Nat} (h : a + b ≤ n) :
    ((cellsRead m k n).drop a).take b = cellsRead m (k + a) b := by
  refine List.ext_getElem? fun j => ?_
  rw [List.getElem?_take, List.getElem?_drop]
  split
  · next hj => rw [cellsRead_get _ (by omega), cellsRead_get _ hj, Nat.add_assoc]
  · next hj => rw [List.getElem?_eq_none (by rw [cellsRead_length]; omega)]

theorem wordBytes_length (ws : Array Nat) : (wordBytes ws).length = 4 * ws.size := by
  simp [wordBytes, List.length_flatMap, Nat.mul_comm]
/-- The four bytes of word i. -/
theorem flatMap_natLe_part (ws : List Nat) {i v : Nat} (h : ws[i]? = some v) : ((ws.flatMap (natLe 4)).drop (4 * i)).take 4 = natLe 4 v := by
  induction ws generalizing i with
  | nil => simp at h
  | cons w ws ih =>
    rw [List.flatMap_cons]
    cases i with
    | zero =>
      obtain rfl : w = v := by simpa using h
      rw [Nat.mul_zero, List.drop_zero, List.take_left' (natLe_length ..)]
    | succ i =>
      rw [show 4 * (i + 1) = (natLe 4 w).length + 4 * i by rw [natLe_length]; omega, ← List.drop_drop, List.drop_left]
      exact ih (by simpa using h)

/-- Word i of words written is read back. -/
theorem leNat_wordBytes {m : List Host.Cell} (hm : Memory.wf m = true) (k : Nat) {ws : Array Nat} {i v : Nat} (h : ws[i]? = some v)
    (hv : v < 4294967296) :
    leNat (cellsRead (cellsWrite m k (wordBytes ws)) (k + 4 * i) 4) = v := by
  have size : i < ws.size := (Array.getElem?_eq_some_iff.mp h).1
  have list : ws.toList[i]? = some v := by rw [Array.getElem?_toList, h]
  rw [← cellsRead_part _ k (4 * i) (n := (wordBytes ws).length) (by rw [wordBytes_length]; omega), cellsRead_cellsWrite _ _ _ hm, wordBytes,
    flatMap_natLe_part _ list, leNat_natLe, Nat.mod_eq_of_lt (by omega)]

/-- Word i of a tile. -/
theorem tileWords_get (m : List Host.Cell) (k : Nat) {i : Nat} (h : i < 4096) :
    (tileWords (cellsRead m k 16384))[i]? = some (leNat (cellsRead m (k + 4 * i) 4)) := by
  have byte (j : Nat) (hj : j < 4) : (cellsRead m k 16384).toArray[4 * i + j]?.getD 0 = cellGet m (k + 4 * i + j) := by
    rw [List.getElem?_toArray, cellsRead_get _ (by omega), Option.getD_some, Nat.add_assoc]
  unfold tileWords
  dsimp only
  rw [Array.getElem?_map, Array.getElem?_range, if_pos h, Option.map_some]
  rw [byte 1 (by omega), byte 2 (by omega), byte 3 (by omega), show 4 * i = 4 * i + 0 from rfl, byte 0 (by omega)]
  rfl

/-! ## The integer K-step (R88, R209) -/

/-- An 8-bit code as the integer of its byte. -/
theorem toInt_byte (b : Byte) : toInt 8 b.toNat = b.toInt := by
  unfold toInt
  have := b.isLt
  rw [BitVec.toInt_eq_toNat_cond, Nat.mod_eq_of_lt this]
  norm_num
  split <;> split <;> omega
/-- A 32-bit word is its integer modulo 2^32. -/
theorem toInt_word {c : Nat} (h : c < 4294967296) : (toInt 32 c) % 4294967296 = c := by
  unfold toInt
  norm_num
  rw [Nat.mod_eq_of_lt h]
  split <;> omega

/-- The sum of the products of pairs, or its negative. -/
def pairSum (sub : Bool) (ab : List (Int × Int)) : Int := let s := (ab.map fun p => p.1 * p.2).sum; if sub then -s else s
theorem pairSum_split (sub : Bool) (n : Nat) (ab : List (Int × Int)) : pairSum sub ab = pairSum sub (ab.take n) + pairSum sub (ab.drop n) := by
  have parts : (ab.map fun p => p.1 * p.2).sum = ((ab.take n).map fun p => p.1 * p.2).sum + ((ab.drop n).map fun p => p.1 * p.2).sum := by
    rw [← List.sum_append, ← List.map_append, List.take_append_drop]
  unfold pairSum
  dsimp only
  rw [parts]
  split <;> ring

/-- Without clamping, groups of 8 wrap as the whole sum does (R88). -/
theorem kstepI_wraps (sub : Bool) (fuel : Nat) : ∀ {c : Nat} {ab : List (Int × Int)}, ab.length ≤ fuel → c < 4294967296 →
    kstepI sub false c ab fuel = (((c + pairSum sub ab) % 4294967296).toNat, 0) := by
  induction fuel with
  | zero =>
    intro c ab hl hc
    obtain rfl : ab = [] := List.length_eq_zero_iff.mp (by omega)
    simp [kstepI, pairSum]
    omega
  | succ fuel ih =>
    intro c ab hl hc
    unfold kstepI
    cases ab with
    | nil =>
      simp [pairSum]
      omega
    | cons p ab =>
      have group : (if sub then -(((p :: ab).take 8).map fun p => p.1 * p.2).foldl (· + ·) 0
          else (((p :: ab).take 8).map fun p => p.1 * p.2).foldl (· + ·) 0) = pairSum sub ((p :: ab).take 8) := by
        rw [← List.sum_eq_foldl]
        rfl
      have word := toInt_word hc
      simp only [List.isEmpty_cons, Bool.false_eq_true, if_false, group]
      rw [ih (by simp at hl ⊢; omega) (by omega), pairSum_split sub 8 (p :: ab)]
      congr 2
      omega

/-- The integers of the bytes of a K-vector in a slot, untransposed (R202, R203). -/
def intVec (m : List Host.Cell) (t : TileNo) (slot r : Nat) : List Int :=
  (List.range 128).map fun k => (cellGet m (handAt t slot (128 * r + k))).toInt

theorem kvecsIn_int (m : List Host.Cell) (t : TileNo) (slot : Nat) {r : Nat} (h : r < 64) :
    (((kvecsIn m t 5 0 slot 0 128)[r]?.getD []).map (toInt 8)) = intVec m t slot r := by
  unfold kvecsIn intVec
  rw [Array.getElem?_map, Array.getElem?_range, if_pos h, Option.map_some, Option.getD_some, List.map_map]
  refine List.map_congr_left fun k hk => ?_
  have code : kvecCode 5 0 0 (cellsRead m (handAt t slot 0) 8192).toArray r k = (cellGet m (handAt t slot (128 * r + k))).toNat := by
    have hk := List.mem_range.mp hk
    have byte : (cellsRead m (handAt t slot 0) 8192).toArray[128 * r + (128 * 0 + k)]?.getD 0 = cellGet m (handAt t slot (128 * r + k)) := by
      rw [List.getElem?_toArray, cellsRead_get _ (by omega)]
      simp [handAt]
    exact congrArg BitVec.toNat byte
  exact (congrArg (toInt 8) code).trans (toInt_byte _)

theorem leNat_word_lt (m : List Host.Cell) (k : Nat) : leNat (cellsRead m k 4) < 4294967296 := by
  have h := leNat_lt (cellsRead m k 4)
  rwa [cellsRead_length] at h
theorem accAt_add (t T o : Nat) : accAt t T 0 + o = accAt t T o := rfl
/-- The sum of the products of two K-vectors, or its negative, element by element. -/
theorem pairSum_intVec (sub : Bool) (m : List Host.Cell) (t : TileNo) (sa sb r q : Nat) :
    pairSum sub ((intVec m t sa r).zip (intVec m t sb q)) =
      (let s := ((List.range 128).map fun k => (cellGet m (handAt t sa (128 * r + k))).toInt * (cellGet m (handAt t sb (128 * q + k))).toInt).sum
       if sub then -s else s) := by
  unfold pairSum intVec
  rw [List.zip_map', List.map_map]
  rfl

/-- A cell of an integer K-step with untransposed operands, without clamping (R209). -/
theorem kstepCell_int {e : Entry} {m : MatBody} {A B : Operand} {mem : List Host.Cell} {t : TileNo} {sa sb T r q : Nat} (hop : 4 ≤ m.op)
    (hsat : m.sat = false) (hA : A.vec = kvecsIn mem t 5 0 sa 0 128) (hB : B.vec = kvecsIn mem t 5 0 sb 0 128) (fresh : Bool)
    (hr : r < 64) (hq : q < 64) :
    (kstepCell e m A B (cellsRead mem (accAt t T 0) 16384) fresh (64 * r + q)).1 =
      ((((if fresh then 0 else leNat (cellsRead mem (accAt t T (4 * (64 * r + q))) 4) : Nat) : Int) +
        pairSum (m.op % 4 == 2) ((intVec mem t sa r).zip (intVec mem t sb q))) % 4294967296).toNat := by
  have pairs : ((A.vec[r]?.getD []).zip (B.vec[q]?.getD [])).map (fun p => (toInt 8 p.1, toInt 8 p.2)) =
      (intVec mem t sa r).zip (intVec mem t sb q) := by
    rw [← kvecsIn_int mem t sa hr, ← kvecsIn_int mem t sb hq, hA, hB, List.zip_map]
    rfl
  have row : (64 * r + q) / 64 = r := by omega
  have col : (64 * r + q) % 64 = q := by omega
  have word := tileWords_get mem (accAt t T 0) (i := 64 * r + q) (by omega)
  have old : (if fresh then 0 else leNat (cellsRead mem (accAt t T (4 * (64 * r + q))) 4)) < 4294967296 := by
    split
    · decide
    · exact leNat_word_lt ..
  unfold kstepCell kstepElem
  rw [row, col, word, Option.getD_some, accAt_add]
  dsimp only
  rw [if_pos hop, pairs, hsat, kstepI_wraps _ _ le_rfl old]

/-- A word of the tile after an integer K-step with untransposed operands, without clamping (R209). -/
theorem kstepWord_int {e : Entry} {m : MatBody} {A B : Operand} {mem : List Host.Cell} {t : TileNo} {sa sb T r q : Nat} (hmem : Memory.wf mem = true)
    (hop : 4 ≤ m.op) (hsat : m.sat = false) (hA : A.vec = kvecsIn mem t 5 0 sa 0 128) (hB : B.vec = kvecsIn mem t 5 0 sb 0 128) (fresh : Bool)
    (hr : r < 64) (hq : q < 64) :
    leNat (cellsRead (cellsWrite mem (accAt t T 0) (wordBytes ((kstepCells e m A B (cellsRead mem (accAt t T 0) 16384) fresh).map Prod.fst)))
        (accAt t T (4 * (64 * r + q))) 4) =
      ((((if fresh then 0 else leNat (cellsRead mem (accAt t T (4 * (64 * r + q))) 4) : Nat) : Int) +
        pairSum (m.op % 4 == 2) ((intVec mem t sa r).zip (intVec mem t sb q))) % 4294967296).toNat := by
  have cell := kstepCell_int (e := e) (T := T) hop hsat hA hB fresh hr hq
  have word : ((kstepCells e m A B (cellsRead mem (accAt t T 0) 16384) fresh).map Prod.fst)[64 * r + q]? =
      some (kstepCell e m A B (cellsRead mem (accAt t T 0) 16384) fresh (64 * r + q)).1 := by
    rw [kstepCells, Array.getElem?_map, Array.getElem?_map, Array.getElem?_range, if_pos (by omega)]
    rfl
  exact (leNat_wordBytes hmem _ word (by rw [cell]; omega)).trans cell

/-! ## The step (R186, R201) -/

section
variable {s : State} {t : TileNo} {c : SlotNo} {x : Ctx} {e : Entry} {m : MatBody} {fa fb K T : Nat}

/-- A K-step, seen from outside: what its operands read, and what it writes. -/
theorem exec_matrixKStep_at (hr : s.Readable) (hcov : e.run.cov = none) (h : RunsBlock s t c 2 x e) (hbody : e.cur.body = .matrix m)
    (hfa : e.cap.fmtA = some fa) (hfb : e.cap.fmtB = some fb) (hnbv : e.cap.nbv = false)
    (ha : ∀ u, tagCheck (slotTag (s.tile t) (e.slotA m fa fb).1) m.a.tid (some fa) u = .ok ((), u))
    (hb : ∀ u, tagCheck (slotTag (s.tile t) (e.slotB m)) m.b.tid (some fb) u = .ok ((), u))
    (hk : pairK m.op fa fb = some K) (da : dirOk m.a.dir fa = true) (db : dirOk m.b.dir fb = true) (hT : matTile m e.index = T) (hlt : T < 192)
    (hg : (accTag (s.tile t) T).written = false ∨ (accTag (s.tile t) T).format.toNat = if 4 ≤ m.op then 7 else 0) :
    ∃ (A B : Operand) (s' : State), exec (if 4 ≤ m.op then .matrixIntKStep t c else .matrixFloatKStep t c) s = .next s' ∧
      Advanced s' t c 2 e.seq (e.run.iter + 1) ∧
      accTag (s'.tile t) T = { format := BitVec.ofNat 4 (if 4 ≤ m.op then 7 else 0), written := true } ∧
      s'.mem = cellsWrite s.mem (accAt t T 0) (wordBytes ((kstepCells e m A B (cellsRead s.mem (accAt t T 0) 16384) (e.fresh m T)).map Prod.fst)) ∧
      A.vec = kvecsIn s.mem t fa m.a.dir (e.slotA m fa fb).1 (e.slotA m fa fb).2 K ∧
      B.vec = kvecsIn s.mem t fb m.b.dir (e.slotB m) 0 K := by
  obtain ⟨l, took⟩ := running_run h
  have sited := s.turned_sited t l
  have tile := s.turned_tile t l
  have slot (k : Nat) : slotTag ((s.turned t l).tile t) k = slotTag (s.tile t) k := by rw [tile]; rfl
  have tag : accTag ((s.turned t l).tile t) T = accTag (s.tile t) T := by rw [tile]; rfl
  obtain ⟨sa, sb, v, z, run, units, ctx, reached, tagged, mem⟩ := matIter_run (u := s.turned t l) (t := t) (c := c) (x := x) hcov
    (sited.readable hr) h.units ((State.turned_ctx ..).trans h.here) h.named hfa hfb hnbv (by rw [slot]; exact ha _)
    (by rw [slot]; exact hb _) hk da db hT hlt (by rw [tag]; exact hg)
  have step (int : Bool) (hint : decide (4 ≤ m.op) = int) : matStep t c int s = .ok ((), v) := by
    refine (bind_ok _ _ _ _ _ took).trans <| (enabled_bind (decide_eq_true h.left) _ _).trans ?_
    simp only [hbody]
    exact (enabled_bind (by rw [hint, beq_self_eq_true]) _ _).trans (blockStep_free run units)
  refine ⟨_, _, v.settled, ?_, ⟨z, ctx, reached.iter⟩, tagged, mem, rfl, rfl⟩
  by_cases int : 4 ≤ m.op
  · rw [if_pos int]
    exact agent_done _ _ _ (step true (decide_eq_true int))
  · rw [if_neg int]
    exact agent_done _ _ _ (step false (decide_eq_false int))
end

/-- A write of cells leaves the others. -/
theorem SameOutside.cellsWrite {s s' : State} (hs : s.MemOk) {k n : Nat} {bs : List Byte} (hm : s'.mem = Machine.cellsWrite s.mem k bs)
    (hn : bs.length = n) : SameOutside k n s s' := by
  intro j hj
  rw [hm]
  exact cellGet_cellsWrite_out _ _ _ _ hs (by omega)
/-- Cells written are read back. -/
theorem cellsRead_written {s s' : State} (hs : s.MemOk) {k n : Nat} {bs : List Byte} (hm : s'.mem = cellsWrite s.mem k bs) (hn : bs.length = n) :
    cellsRead s'.mem k n = bs := by
  rw [hm, ← hn]
  exact cellsRead_cellsWrite _ _ _ hs

/-- A K-step of integer operands reads whole slots, untransposed and unhalved (R200, R202). -/
theorem pairK_int {op fa fb K : Nat} (h : 4 ≤ op) (hk : pairK op fa fb = some K) : fa = 5 ∧ fb = 5 ∧ K = 128 := by
  unfold pairK at hk
  rw [if_pos h] at hk
  split at hk
  · next f => exact ⟨f.1, f.2, (Option.some.inj hk).symm⟩
  · cases hk

/-- Settles O52: each engine's iteration, seen through what its step leaves in memory and in its context. -/
theorem engineIterations : Obligations.EngineIterations := by
  intro s t c x e hmem hr hs hcov hout
  refine ⟨fun b k n h hbody hl hc hf hn hpark hb hp => ?_, fun b k n h hbody hl hc hsh hcomb hpark hb hloc hf hn hp => ?_,
    fun b h hbody _ hle hop hm hrag hx hy hz hw hq hgrid hpark => ?_,
    fun m fa fb K h hbody hfa hfb hav hat haf hbv hbt hbf hk da db hnbv hlt hg => ?_⟩
  · obtain ⟨s', run, adv, wrote⟩ := exec_loadIteration_at hr hs hout h hbody hl hc hf hn hpark hb hp
    have len := cellsRead_length s.mem n k
    exact ⟨s', run, adv, .cellsWrite hmem wrote len, cellsRead_written hmem wrote len⟩
  · obtain ⟨s', run, adv, wrote⟩ := exec_storeIteration_at hr hs hout h hbody hl hc hsh hcomb hpark hb hloc hf hn hp
    have len := cellsRead_length s.mem n (spAt t (localOff b e.index))
    exact ⟨s', run, adv, .cellsWrite hmem wrote len, cellsRead_written hmem wrote len⟩
  · obtain ⟨s', run, adv, wrote⟩ := exec_vectorIteration_at hr hs hcov h hbody hop hle hm hrag (VecBody.padded_of hx hy hz hw) hq hgrid hpark
    exact ⟨s', run, adv, .cellsWrite hmem wrote (natLe_length ..), cellsRead_written hmem wrote (natLe_length ..)⟩
  · obtain ⟨A, B, s', run, adv, tagged, wrote, va, vb⟩ := exec_matrixKStep_at hr hcov h hbody hfa hfb hnbv (tagCheck_ok hav hat haf)
      (tagCheck_ok hbv hbt hbf) hk da db rfl hlt hg
    refine ⟨s', run, adv, .cellsWrite hmem wrote ?_, tagged, fun hop hsat hda hdb r q hrow hcol => ?_⟩
    · rw [wordBytes_length, kstepCells, Array.size_map, Array.size_map, Array.size_range]
    · obtain ⟨rfl, rfl, rfl⟩ := pairK_int hop hk
      rw [hda] at va
      rw [hdb] at vb
      have word := kstepWord_int (e := e) (T := matTile m e.index) hmem hop hsat va vb (e.fresh m (matTile m e.index)) hrow hcol
      rw [pairSum_intVec, ← wrote] at word
      simpa [Entry.fresh, Entry.slotA, Entry.slotB] using word

end Sys2Proof.Machine
end

section
/-!
PROOFS. FENCE, FENCE.I, TPROBE and BURST (O24): what a fence orders by, the answer of a probe, and the power of the array (R213, R214, R342, R347,
R348, R354, R360, R361, R393).
-/
namespace Sys2Proof.Machine
open Sys2Proof

/-! ## What a fence orders by (R342, R354) -/

/-- The epoch of a tile, its ring of snapshots, and the lines of its data cache. -/
def Tile.order (x : Tile) : Nat × List (Nat × Frontier) × List Line := (x.ep, x.ring, x.dcache)

/-- The order of a tile once it has begun an epoch, the snapshot of the last one in its ring (R354). -/
def Tile.nextEpoch (x : Tile) (t : TileNo) : Nat × List (Nat × Frontier) × List Line :=
  ((x.ep + 1) % 4294967296, ((x.ep, frRaise x.fr t x.ep) :: x.ring).take 32, x.dcache)

theorem State.modCtx_order (s : State) (t : TileNo) (c : SlotNo) (f : Ctx → Ctx) :
    ((s.modCtx t c f).tile t).order = (s.tile t).order := by
  unfold State.modCtx State.setSlot
  split
  · rw [State.tile_setTile]
    rfl
  · rfl
theorem mergeAt_order (t : TileNo) (ps : List Stamp) (s : State) : ((mergeAt t ps s).tile t).order = (s.tile t).order := by
  rw [mergeAt, State.tile_setTile]
  rfl
theorem acquireAt_order (t : TileNo) (ps : List Stamp) (s : State) :
    ((acquireAt t ps s).tile t).order = ((s.tile t).ep, (s.tile t).ring, []) := by
  simp only [acquireAt, mergeAt, State.tile_setTile, Tile.order]
/-- A release at TILE scope keeps the epoch; a wider one ends it. -/
theorem releaseAt_order (t : TileNo) (sc : Scope) (s : State) :
    ((releaseAt t sc s).1.tile t).order = if sc = .tile then (s.tile t).order else (s.tile t).nextEpoch t := by
  cases sc with
  | tile => rfl
  | clu | die | dev | dom =>
    simp only [releaseAt, State.tile_setTile]
    rfl

section
variable {t : TileNo} {c : SlotNo} {s u : State} {y : Ctx}

theorem Leaves.releaseAt (h : Leaves t c s u y) (sc : Scope) : Leaves t c s (releaseAt t sc u).1 y := by
  cases sc with
  | tile => exact h
  | clu | die | dev | dom =>
    refine ⟨?_, h.mem, h.reqs⟩
    rw [← h.ctx]
    simp only [Machine.releaseAt, State.ctx?, State.tile_setTile]
theorem Leaves.mergeAt (h : Leaves t c s u y) (ps : List Stamp) : Leaves t c s (mergeAt t ps u) y := h.trans (mergeAt_leaves h.ctx ps)
theorem Leaves.acquireAt (h : Leaves t c s u y) (ps : List Stamp) : Leaves t c s (acquireAt t ps u) y := by
  refine ⟨?_, h.mem, h.reqs⟩
  rw [← h.ctx]
  simp only [Machine.acquireAt, Machine.mergeAt, State.ctx?, State.tile_setTile]

/-- An operation of the order AR takes its place there (R348). -/
theorem soEnter_run (h : Leaves t c s u y) (sc : Scope) (p : Option Stamp) :
    ∃ v, soEnter t sc p u = .ok ((), v) ∧ Leaves t c s v y ∧ (v.tile t).order = (u.tile t).order := by
  have merged := h.mergeAt (u.so.filterMap fun e => if covering e.1 e.2.1 sc t then some e.2.2 else none)
  have order := mergeAt_order t (u.so.filterMap fun e => if covering e.1 e.2.1 sc t then some e.2.2 else none) u
  cases p with
  | none => exact ⟨_, rfl, merged, order⟩
  | some p => exact ⟨_, rfl, ⟨merged.ctx, merged.mem, merged.reqs⟩, order⟩
end

/-! ## FENCE (R360) -/

/-- The context keeps the release of a fence for its later writes (R347). -/
def Ctx.fenced (sc : Scope) (p : Option Stamp) (y : Ctx) : Ctx := { y with fences := (sc, p) :: y.fences.filter (·.1 != sc) }

/-- The release of a FENCE by the dealer of a tile. -/
def fenceRelease (sc : Scope) (s : State) : State := (releaseAt s.cur sc s).1.modCtx s.cur s.mySlot (Ctx.fenced sc (releaseAt s.cur sc s).2)

theorem fenceRelease_run {α : Type} (sc : Scope) (f : Option Stamp → M α) (s : State) :
    (do
      let p ← release s.cur sc
      modMe (Ctx.fenced sc p)
      f p) s = f (releaseAt s.cur sc s).2 (fenceRelease sc s) := by
  have dealer : (releaseAt s.cur sc s).1.cur = s.cur ∧ (releaseAt s.cur sc s).1.mySlot = s.mySlot := by
    cases sc with
    | tile => exact ⟨rfl, rfl⟩
    | clu | die | dev | dom => simp [releaseAt, State.mySlot]
  refine (bind_ok _ _ s _ _ rfl).trans <| (bind_ok _ _ _ _ _ (modMe_run ..)).trans ?_
  rw [State.upMe, dealer.1, dealer.2]
  rfl

section
variable {s : State} {x : Ctx} {h : Hd}

theorem fenceRelease_leaves (hr : Ready s x) (sc : Scope) :
    Leaves s.cur s.mySlot s (fenceRelease sc s) (x.fenced sc (releaseAt s.cur sc s).2) :=
  ((Leaves.refl hr.here).releaseAt sc).modCtx _
theorem fenceRelease_order (sc : Scope) (s : State) :
    ((fenceRelease sc s).tile s.cur).order =
      if sc = .tile then (s.tile s.cur).order else (s.tile s.cur).nextEpoch s.cur :=
  (State.modCtx_order ..).trans (releaseAt_order ..)

/-- A dealer instruction that has left memory and owes no unit completes. -/
theorem dealer_leaves {eff : M Eff} {e : Eff} {s1 : State} {y : Ctx} (hr : Ready s x) (hg : x.pred h.guard = true)
    (he : eff s = .ok (e, s1)) (hl : Leaves s.cur s.mySlot s s1 y) (len : Nat) (ends : Bool) (dst : Option Dst) :
    dealer h eff s len ends dst = .next (finish s x len (ends || h.stop) e s1) :=
  have free := hl.unmetered ⟨hr.hbm, hr.net⟩
  dealer_done _ _ _ _ _ _ _ _ _ _ hr hg he (pays_free _ _ _ free.1 free.2)

/-- The order that a FENCE leaves in its tile: a release wider than TILE begins an epoch, and an acquire empties the data cache. -/
def Tile.fencedOrder (z : Tile) (t : TileNo) (sc : Scope) (ord : Order) : Nat × List (Nat × Frontier) × List Line :=
  let o := if ord.isRel = true ∧ sc ≠ .tile then z.nextEpoch t else z.order
  (o.1, o.2.1, if ord.isAcq = true then [] else z.dcache)

theorem Tile.fencedOrder_next {z : Tile} {t : TileNo} {sc : Scope} {ord : Order} (h : ord.isRel = true ∧ sc ≠ .tile) :
    z.fencedOrder t sc ord = ((z.nextEpoch t).1, (z.nextEpoch t).2.1, if ord.isAcq = true then [] else z.dcache) := by
  rw [fencedOrder, if_pos h]
theorem Tile.fencedOrder_same {z : Tile} {t : TileNo} {sc : Scope} {ord : Order} (h : ¬(ord.isRel = true ∧ sc ≠ .tile)) :
    z.fencedOrder t sc ord = (z.ep, z.ring, if ord.isAcq = true then [] else z.dcache) := by
  rw [fencedOrder, if_neg h]
  rfl

/-- After the release of a fence, with the data cache as the acquire leaves it. -/
theorem fenceRelease_fencedOrder (sc : Scope) (s : State) {ord : Order} (h : ord.isRel = true) :
    (((fenceRelease sc s).tile s.cur).ep, ((fenceRelease sc s).tile s.cur).ring,
      if ord.isAcq = true then [] else ((fenceRelease sc s).tile s.cur).dcache) = (s.tile s.cur).fencedOrder s.cur sc ord := by
  have order := fenceRelease_order sc s
  by_cases narrow : sc = .tile
  · rw [if_pos narrow] at order
    obtain ⟨ep, rest⟩ := Prod.mk.inj order
    obtain ⟨ring, lines⟩ := Prod.mk.inj rest
    rw [Tile.fencedOrder_same fun w => w.2 narrow, ep, ring, lines]
  · rw [if_neg narrow] at order
    obtain ⟨ep, rest⟩ := Prod.mk.inj order
    obtain ⟨ring, lines⟩ := Prod.mk.inj rest
    rw [Tile.fencedOrder_next ⟨h, narrow⟩, ep, ring, lines]
    rfl

theorem exec_fence (hr : Ready s x) (hg : x.pred h.guard = true) (sc : Scope) (ord : Order) :
    ∃ s1, exec (.fence h sc ord) s = .next (finish s x 1 true {} s1) ∧
      Leaves s.cur s.mySlot s s1 (if ord.isRel = true then x.fenced sc (releaseAt s.cur sc s).2 else x) ∧
      (s1.tile s.cur).order = (s.tile s.cur).fencedOrder s.cur sc ord := by
  let ps := x.seen.filterMap fun q => if covering q.scope q.tile sc s.cur then q.stamp else none
  have released := fenceRelease_leaves hr sc
  cases ord with
  | rlx => exact ⟨s, dealer_leaves hr hg ((me_bind _ s).trans (getCtx_bind hr _)) (.refl hr.here) 1 true none, .refl hr.here, rfl⟩
  | acq =>
    have acquired := (Leaves.refl hr.here).acquireAt ps
    exact ⟨_, dealer_leaves hr hg ((me_bind _ s).trans (getCtx_bind hr _)) acquired 1 true none, acquired, acquireAt_order ..⟩
  | rel =>
    refine ⟨_, dealer_leaves hr hg ((me_bind _ s).trans <| (getCtx_bind hr _).trans <| fenceRelease_run sc _ s) released 1 true none,
      released, fenceRelease_fencedOrder (ord := .rel) sc s rfl⟩
  | ar =>
    obtain ⟨s1, run, entered, kept⟩ := soEnter_run (released.acquireAt ps) sc (releaseAt s.cur sc s).2
    exact ⟨_, dealer_leaves hr hg ((me_bind _ s).trans <| (getCtx_bind hr _).trans <| (fenceRelease_run sc _ s).trans <|
      (bind_ok _ _ _ _ _ (dealerAcquire_run ..)).trans <| bind_ok _ _ _ _ _ run) entered 1 true none, entered,
      kept.trans <| (acquireAt_order ..).trans <| fenceRelease_fencedOrder (ord := .ar) sc s rfl⟩

/-! ## FENCE.I and TPROBE (R361, R393) -/

theorem exec_fenceI (hr : Ready s x) (hg : x.pred h.guard = true) : exec (.fenceI h) s =
    .next (finish s x 1 true {} (s.setTile s.cur { s.tile s.cur with ifence := s.wstamp, icache := [], ibad := [] })) := by
  have leaves : Leaves s.cur s.mySlot s (s.setTile s.cur { s.tile s.cur with ifence := s.wstamp, icache := [], ibad := [] }) x := by
    refine ⟨?_, rfl, rfl⟩
    rw [← hr.here]
    simp only [State.ctx?, State.tile_setTile]
  exact dealer_leaves hr hg (me_bind _ s) leaves 1 true none

/-- What TPROBE answers for a translation (R393). -/
def probeAnswer (s : State) (job va : Nat) (r : Except (Cause × Nat) TlbEntry) : Word :=
  match r with
  | .error e => BitVec.ofNat 64 (256 * e.1.code)
  | .ok e => probeWord s job e va

section
variable {a : Src} {u : Word} (hr : Ready s x) (hg : x.pred h.guard = true) (ha : Reads s x a u)
include hr hg ha

theorem exec_tprobe_space (d : Dst) (hs : spaceOf u ≠ 0) :
    exec (.tprobe h d a) s = .next (finish s x 1 true { val := some 0x1F00 } (s.upMe (·.setDst d 0x1F00))) := by
  refine dealer_upMe hr hg ((readA_bind hr ha _).trans <| (me_bind _ s).trans <| (getCtx_bind hr _).trans ?_) 1 true none
  rw [if_pos (by simpa using hs)]
  rfl
theorem exec_tprobe_walked (d : Dst) (hs : spaceOf u = 0) {s1 s2 : State} {r : Except (Cause × Nat) TlbEntry}
    (hx : Runs (xlate s.cur true x.job (offOf u)) s r s1)
    (hp : Pays s x (s1.upMe (·.setDst d (probeAnswer s1 x.job (offOf u) r))) s2) :
    exec (.tprobe h d a) s = .next (finish s x 1 true { val := some (probeAnswer s1 x.job (offOf u) r) } s2) := by
  refine dealer_done _ _ _ _ _ _ _ _ _ _ hr hg ((readA_bind hr ha _).trans <| (me_bind _ s).trans <| (getCtx_bind hr _).trans ?_) hp
  rw [if_neg (by simpa using hs)]
  refine (bind_ok _ _ _ _ _ hx).trans ?_
  cases r with
  | error e => rfl
  | ok e => rfl
end
end

/-! ## A hold that has passed (R213, R214) -/

theorem chargeFiller_mx (t : TileNo) (n : Nat) (s : State) : ((chargeFiller t n s).tile t).mx = (s.tile t).mx := by
  unfold chargeFiller State.chargeOwner
  split
  · split
    · rfl
    · refine (congrArg Tile.mx ((Alike.chargeJob ..).slots t) :).trans ?_
      rw [State.modEvery_tile]
  · rfl
theorem chargeFiller_now (t : TileNo) (n : Nat) (s : State) : (chargeFiller t n s).now = s.now := by
  unfold chargeFiller State.chargeOwner
  split
  · split
    · rfl
    · exact (congrArg State.now (Alike.chargeJob ..).rest).trans rfl
  · rfl

/-- The power of the array once a hold that has passed has ended. -/
def MxPower.settled (m : MxPower) (now : Nat) : MxPower :=
  if m.hold ≠ 0 ∧ m.hold ≤ now then { m with idle := max m.idle m.hold, hold := 0, from' := 0 } else m

theorem settleHold_mx (t : TileNo) (s : State) : ((settleHold t s).tile t).mx = ((s.tile t).mx).settled s.now := by
  unfold settleHold MxPower.settled
  dsimp only
  split
  · rw [State.tile_setTile, chargeFiller_mx]
  · rfl
theorem settleHold_now (t : TileNo) (s : State) : (settleHold t s).now = s.now := by
  unfold settleHold
  dsimp only
  split
  · exact chargeFiller_now ..
  · rfl

theorem MxPower.settled_hold (m : MxPower) (now : Nat) : (m.settled now).hold = if m.hold ≤ now then 0 else m.hold := by
  unfold MxPower.settled
  by_cases passed : m.hold ≤ now
  · by_cases unset : m.hold = 0
    · simp [unset]
    · simp [unset, passed]
  · simp [passed]
theorem MxPower.settled_state (m : MxPower) (now : Nat) : (m.settled now).state = m.state := by
  unfold MxPower.settled
  split <;> rfl
theorem MxPower.settled_since (m : MxPower) (now : Nat) : (m.settled now).since = m.since := by
  unfold MxPower.settled
  split <;> rfl

/-! ## BURST (R214) -/

/-- The power of the array after a BURST that holds it until a cycle. -/
def MxPower.burst (m : MxPower) (who : Nat × BitVec 16) (now last : Nat) : MxPower :=
  { m.rampUp who false now with hold := max m.hold last, from' := if m.hold = 0 then now else m.from' }

theorem MxPower.burst_cold {m : MxPower} (h : m.state = .cold) (who : Nat × BitVec 16) (now last : Nat) :
    (m.burst who now last).state = .ramp ∧ (m.burst who now last).since = now := by
  unfold MxPower.burst MxPower.rampUp
  rw [if_pos h]
  exact ⟨rfl, rfl⟩
theorem MxPower.burst_warm {m : MxPower} (h : m.state ≠ .cold) (who : Nat × BitVec 16) (now last : Nat) :
    (m.burst who now last).state = m.state ∧ (m.burst who now last).since = m.since := by
  unfold MxPower.burst MxPower.rampUp
  rw [if_neg h]
  exact ⟨rfl, rfl⟩

theorem exec_burst {s : State} {x : Ctx} {h : Hd} (hr : Ready s x) (hg : x.pred h.guard = true) (n : BitVec 9) :
    ∃ s1 d a, exec (.burst h n) s = .next (finish s x 1 h.stop {} s1) ∧ s1.mem = s.mem ∧
      s1.ctx? s.cur s.mySlot = some { x with desched := d, activity := a } ∧
      (s1.tile s.cur).mx = ((s.tile s.cur).mx.settled s.now).burst (x.job, x.num) s.now (s.now + 2 * n.toNat) := by
  obtain ⟨d, a, held⟩ := (Worked.refl hr.here ⟨hr.hbm, hr.net⟩).tallied.settleHold
  let z := settleHold s.cur s
  have burst := held.setTile (z := { z.tile s.cur with
    mx := (z.tile s.cur).mx.burst (x.job, x.num) s.now (s.now + 2 * n.toNat) }) rfl rfl
  obtain ⟨hbm, net⟩ := burst.owes
  refine ⟨_, d, a, dealer_done _ _ _ _ 1 false none _ _ _ hr hg ?_ (pays_free _ _ _ (Nat.le_zero.mp hbm) (Nat.le_zero.mp net)),
    burst.mem, burst.ctx, ?_⟩
  · exact (me_bind _ s).trans <| (getCtx_bind hr _).trans <| (see_bind _ _ s).trans <| (upd_bind _ _ s).trans rfl
  · rw [State.tile_setTile, ← settleHold_mx]

/-- Settles O24: each of the four runs as its definition says. -/
theorem fencesAndProbe : Obligations.FencesAndProbe := by
  intro s x h d a u sc ord n hr hg ha
  refine ⟨?_, exec_fenceI hr hg, exec_tprobe_space hr hg ha d, fun hs s1 s2 r hx => ?_, ?_⟩
  · obtain ⟨s1, run, leaves, order⟩ := exec_fence hr hg sc ord
    have lines := congrArg (·.2.2) order
    refine ⟨s1, run, leaves.mem, fun wide => ?_, fun narrow => ?_, fun acq => lines.trans (if_pos acq),
      fun acq => lines.trans (if_neg (by simp [acq])), _, leaves.ctx, ?_, fun rel => ?_, fun rel => ?_⟩
    · rw [Tile.fencedOrder_next wide] at order
      exact ⟨congrArg (·.1) order, congrArg (·.2.1.head?) order⟩
    · rw [Tile.fencedOrder_same narrow] at order
      exact ⟨congrArg (·.1) order, congrArg (·.2.1) order⟩
    · split <;> rfl
    · rw [if_pos rel]
      exact ⟨_, rfl⟩
    · rw [if_neg (by simp [rel])]
  · have run := exec_tprobe_walked hr hg ha d hs hx (s2 := s2)
    cases r with
    | error e => exact run
    | ok e => exact run
  · obtain ⟨s1, d, a, run, mem, ctx, mx⟩ := exec_burst hr hg n
    refine ⟨s1, run, mem, ⟨_, ctx, rfl, rfl, rfl, rfl⟩, ?_, fun cold => ?_, fun warm => ?_⟩
    · rw [mx, ← MxPower.settled_hold]
      rfl
    · rw [mx]
      exact MxPower.burst_cold ((MxPower.settled_state ..).trans cold) ..
    · rw [mx]
      obtain ⟨state, since⟩ := MxPower.burst_warm (fun cold => warm ((MxPower.settled_state ..).symm.trans cold)) ..
      exact ⟨state.trans (MxPower.settled_state ..), since.trans (MxPower.settled_since ..)⟩

end Sys2Proof.Machine
end

section
/-!
PROOFS. Links, shares and the power of the array (O57): replay, permits and command links (R397, R398, R446), refills, waiting requests,
subnetworks and budget periods (R419, R420, R423, R425, R426), and RAMP, FULL and the hold (R213, R214).
-/
namespace Sys2Proof.Machine
open Sys2Proof

/-! ## Ports (R397, R398) -/

theorem portNo_bind {α : Type} {n : Nat} {p : Fin 18} (h : n = p.val) (f : Fin 18 → M α) (s : State) : (portNo n >>= f) s = f p s := by
  subst h
  rw [portNo, dif_pos p.isLt]
  rfl

/-- The state with another link at a port. -/
def State.setPort (s : State) (p : Fin 18) (k : Link) : State := { s with ports := s.ports.set p k }

@[simp] theorem State.setPort_same (s : State) (p : Fin 18) (k : Link) : (s.setPort p k).ports.get p = k := vec_get_set _ p k p.isLt
theorem State.setPort_ne (s : State) {p j : Fin 18} (k : Link) (h : j ≠ p) : (s.setPort p k).ports.get j = s.ports.get j :=
  vec_get_set_ne _ p j k p.isLt h.symm
theorem modPort_bind {α : Type} (p : Fin 18) (f : Link → Link) (g : Unit → M α) (s : State) :
    (modPort p f >>= g) s = g () (s.setPort p (f (s.ports.get p))) := rfl

/-- The ring ends with the record that was appended. -/
theorem State.addErr_last (s : State) (r : ErrRec) : (s.addErr r).errRing.getLast? = some r := by
  unfold State.addErr
  dsimp only
  split <;> exact List.getLast?_concat ..

/-- An event of a port is counted and recorded; the links stay. -/
theorem portEvent_run (p : Fin 18) (kind : Nat) (j : Fin 5) (s : State) :
    ∃ t, portEvent p kind j s = .ok ((), t) ∧ t.ports = s.ports ∧ t.errCount = (s.errCount + 1) % 4294967296 ∧ t.errRing.getLast? ≠ none := by
  let u : State := { bumpCounter (portCounter p) j s with free := s.free + 1 }
  let r : ErrRec := physRec u kind (portSrc p) 0 (Config.freeNat s.free)
  obtain ⟨⟨f, l, c, n, e⟩, count⟩ := u.addErr_recorded r
  refine ⟨u.addErr r, rfl, (congrArg State.ports e).trans rfl, count.trans rfl, ?_⟩
  rw [State.addErr_last]
  exact Option.some_ne_none r

/-- The failures of the flit that a receiver rejects now (R397). -/
def failures (i : Input) (k : Link) : Nat := if i.flag then k.tries + 1 else 1

/-- A channel whose permit has come back: it may be used again, or it is withheld where one is owed (R398). -/
def Chan.returned (c : Chan) : Chan :=
  if c.withheld = 0 then { c with permits := c.permits + 1, sent := 0 } else { c with withheld := c.withheld - 1, sent := 0 }

/-- The link of a port once an audit flit has acknowledged its returns (R398). -/
def Link.acknowledged (k : Link) (nums : List Nat) : Link :=
  { k with chans := Vector.ofFn fun ch => { k.chans.get ch with returns := (k.chans.get ch).returns - nums[4 + ch.val]?.getD 0 } }

theorem Link.acknowledged_chan (k : Link) (nums : List Nat) (ch : Fin 4) : (k.acknowledged nums).chans.get ch =
    { k.chans.get ch with returns := (k.chans.get ch).returns - nums[4 + ch.val]?.getD 0 } := Vector.getElem_ofFn ..

section
variable {s : State} {p : Fin 18} (hw : s.input.who = p.val)
include hw

theorem exec_flitReplay (hk : (s.ports.get p).retraining = false) :
    ∃ s', exec .flitReplay s = .next s' ∧ s'.errRing.getLast? ≠ none ∧
      (s'.ports.get p).retraining = decide (4 ≤ failures s.input (s.ports.get p)) ∧
      (s'.ports.get p).tries = if failures s.input (s.ports.get p) < 4 then failures s.input (s.ports.get p) else 0 := by
  let n := failures s.input (s.ports.get p)
  by_cases few : n < 4
  · obtain ⟨t, run, ports, -, ring⟩ := portEvent_run p 2 2 (s.setPort p { s.ports.get p with tries := n })
    refine ⟨t.settled, agent_done _ _ t <| (see_bind _ _ s).trans <| (portNo_bind hw _ s).trans <| (see_bind _ _ s).trans <|
      (enabled_bind (by rw [hk]; rfl) _ s).trans <| (congrFun (if_pos few) s).trans <| (modPort_bind ..).trans run, ring, ?_⟩
    rw [show t.settled.ports = _ from ports, State.setPort_same, if_pos few]
    exact ⟨hk.trans (decide_eq_false (by omega)).symm, rfl⟩
  · obtain ⟨t, run, ports, -, ring⟩ := portEvent_run p 3 3 (s.setPort p { s.ports.get p with tries := 0, retraining := true })
    refine ⟨_, agent_done _ _ _ <| (see_bind _ _ s).trans <| (portNo_bind hw _ s).trans <| (see_bind _ _ s).trans <|
      (enabled_bind (by rw [hk]; rfl) _ s).trans <| (congrFun (if_neg few) s).trans <| (modPort_bind ..).trans <|
      (bind_ok _ _ _ _ _ run).trans (upd_run ..), ring, ?_⟩
    show (t.ports.get p).retraining = _ ∧ (t.ports.get p).tries = _
    rw [ports, State.setPort_same, if_neg few]
    exact ⟨(decide_eq_true (by omega)).symm, rfl⟩

theorem exec_retrainComplete (hk : (s.ports.get p).retraining = true) :
    exec .retrainComplete s = .next (pumpPort p (s.setPort p { s.ports.get p with retraining := false })).settled :=
  agent_done _ _ _ <| (see_bind _ _ s).trans <| (portNo_bind hw _ s).trans <| (see_bind _ _ s).trans <| (enabled_bind hk _ s).trans <|
    (modPort_bind ..).trans (upd_run ..)

theorem exec_permitReturn : exec .permitReturn s = .next (pumpPort p (s.setPort p { s.ports.get p with
    chans := (s.ports.get p).chans.set (chanNo s.input.addr) ((s.ports.get p).chans.get (chanNo s.input.addr)).returned })).settled :=
  agent_done _ _ _ <| (see_bind _ _ s).trans <| (portNo_bind hw _ s).trans <| (modPort_bind ..).trans (upd_run ..)

theorem exec_resynchronisation (hv : s.input.value ≠ 0) :
    ∃ s', exec .resynchronisation s = .next s' ∧ s'.errCount = (s.errCount + 1) % 4294967296 := by
  let q : Chan := (s.ports.get p).chans.get (chanNo s.input.addr)
  let q' : Chan := if s.input.flag then { q with withheld := q.withheld + s.input.value } else { q with permits := q.permits + s.input.value }
  obtain ⟨t, run, -, count, -⟩ := portEvent_run p 4 4
    (s.setPort p { s.ports.get p with chans := (s.ports.get p).chans.set (chanNo s.input.addr) q' })
  refine ⟨_, agent_done _ _ _ <| (see_bind _ _ s).trans <| (portNo_bind hw _ s).trans <| (enabled_bind (by simpa using hv) _ s).trans <|
    (modPort_bind ..).trans <| (bind_ok _ _ _ _ _ run).trans (upd_run ..), ?_⟩
  exact ((congrArg State.errCount (FlitsOnly.pumpPort p t)).trans rfl).trans count

theorem exec_auditFlit :
    ∃ a, exec .auditFlit s = .next ({ s.setPort p ((s.ports.get p).acknowledged s.input.nums) with answer := a } : State).settled := by
  have answers (whole : Bool) (bs : List Byte) (u : State) :
      ∃ a, (if whole then pure () else upd fun u => { u with answer := bs } : M Unit) u = .ok ((), { u with answer := a }) := by
    cases whole with
    | true => exact ⟨u.answer, rfl⟩
    | false => exact ⟨bs, rfl⟩
  obtain ⟨a, run⟩ := answers _ _ (s.setPort p ((s.ports.get p).acknowledged s.input.nums))
  exact ⟨a, agent_done _ _ _ <| (see_bind _ _ s).trans <| (portNo_bind hw _ s).trans <| (modPort_bind ..).trans <| (see_bind ..).trans run⟩
end

/-! ## Command links (R446) -/

/-- Sending takes a permit (R446). -/
theorem linkStep_send {l : Nat × List (List Byte) × Nat} (h : l.1 ≠ 0) (lost : Bool) (m : List Byte) :
    linkStep false lost m l = some (l.1 - 1, l.2.1 ++ [m], l.2.2 + 1) := by
  rw [linkStep, if_neg Bool.false_ne_true, if_neg h]
theorem linkStep_consume {l : Nat × List (List Byte) × Nat} {m : List Byte} {r : List (List Byte)} (h : l.2.1 = m :: r) (lost : Bool)
    (bs : List Byte) : linkStep true lost bs l = some (if lost then l.1 else l.1 + 1, r, l.2.2) := by
  rw [linkStep, if_pos rfl, h]

theorem linkAudit_early {l : Nat × List (List Byte) × Nat} (h : l.2.2 ≠ 4096) : linkAudit l = (l, false) := if_neg h
theorem linkAudit_due {l : Nat × List (List Byte) × Nat} (h : l.2.2 = 4096) :
    linkAudit l = ((8 - l.2.1.length, l.2.1, 0), l.1 + l.2.1.length != 8) := if_pos h

theorem toNat_bne (a b : Nat) : (a != b).toNat = if a = b then 0 else 1 := by
  by_cases h : a = b <;> simp [h]

/-- A step of the link to a leaf, with its audit. -/
theorem exec_commandLinkMessage {s : State} {c : Fin 48} (hw : s.input.who = c.val) (ha : s.input.addr = 0)
    (hb : (s.input.flag || s.input.bytes.length == 64) = true) {l : Nat × List (List Byte) × Nat}
    (hl : linkStep s.input.flag (s.input.value != 0) s.input.bytes (s.clusters.get c).cmdDown = some l) :
    ∃ s', exec .commandLinkMessage s = .next s' ∧ s'.clusters.get c = { s.clusters.get c with
        cmdDown := (linkAudit l).1, cmdFixes := (s.clusters.get c).cmdFixes + (linkAudit l).2.toNat } ∧
      (s.input.flag = true → s'.answer = (s.clusters.get c).cmdDown.2.1.headD []) ∧
      ((linkAudit l).2 = true → s'.errCount = (s.errCount + 1) % 4294967296) := by
  have hc : s.input.who < 48 := hw ▸ c.isLt
  obtain rfl : c = ⟨s.input.who, hc⟩ := Fin.ext hw.symm
  let k : Cluster := s.clusters.get ⟨s.input.who, hc⟩
  let u : State := { s with
    clusters := s.clusters.set s.input.who { k with cmdDown := (linkAudit l).1, cmdFixes := k.cmdFixes + (linkAudit l).2.toNat }
    answer := if s.input.flag then k.cmdDown.2.1.headD [] else s.answer }
  have put : u.clusters.get ⟨s.input.who, hc⟩ =
      { k with cmdDown := (linkAudit l).1, cmdFixes := k.cmdFixes + (linkAudit l).2.toNat } := vec_get_set _ ⟨s.input.who, hc⟩ _ hc
  have records (due : Bool) : ∃ t, (if due then recordPhys 4 s.input.who 0 else pure () : M Unit) u = .ok ((), t) ∧ Recorded u t ∧
      (due = true → t.errCount = (s.errCount + 1) % 4294967296) := by
    cases due with
    | true =>
      obtain ⟨t, run, rec, count⟩ := recordPhys_records 4 s.input.who 0 u
      exact ⟨t, run, rec, fun _ => count⟩
    | false => exact ⟨u, rfl, .refl u, nofun⟩
  obtain ⟨t, run, rec, count⟩ := records (linkAudit l).2
  refine ⟨t.settled, agent_done _ s t ((see_bind _ _ s).trans ?_), ?_, fun flag => ?_, count⟩
  · rw [dif_pos hc]
    refine (see_bind _ _ s).trans <| (enabled_bind hb _ s).trans ?_
    rw [ha]
    exact (present_bind hl _ s).trans <| (upd_bind ..).trans run
  · obtain ⟨f, r, n, m, rfl⟩ := rec
    exact put
  · obtain ⟨f, r, n, m, rfl⟩ := rec
    exact if_pos flag

/-! ## Shares (R419, R420, R423, R425, R426) -/

/-- A step that is not enabled ends at once. -/
theorem enabled_stops {α : Type} {b : Bool} (h : b = false) (g : Unit → M α) (s : State) : (enabled b >>= g) s = .error .idle := by
  subst h
  exact bind_error _ _ _ _ (enabled_false s)

theorem exec_tokenRefill {s : State} {d : Fin 8} (h : (s.dies.get d).period + 1024 ≤ s.now) :
    exec (.tokenRefill d) s = .next ({ s with dies := s.dies.set d (refillDie s d) } : State).settled :=
  agent_done _ _ _ <| (see_bind _ _ s).trans <| (enabled_bind (decide_eq_true h) _ s).trans (upd_run ..)

theorem exec_bandwidthRequest {s : State} {t : TileNo} {c : SlotNo} (h : ([0, 1] : List SlotNo).find? (mayLeave s t) = some c) :
    exec (.bandwidthRequest t) s =
      .next (s.modCtx t c fun x => { x with wait := x.wait.map fun w => { w with kind := .again } }).settled :=
  agent_done _ _ _ <| (see_bind _ _ s).trans <| (present_bind h _ s).trans (modCtx_run ..)

/-- A router may power subnetwork n, the one above k, up, or down (R423). -/
def Tile.powerDue (x : Tile) (up : Bool) (k n : Fin 4) (now : Nat) : Bool :=
  if up then x.subs.get k && !x.subs.get n && (x.occ.get k).1 == 2 && decide ((x.occ.get k).2 + 256 ≤ now)
  else x.subs.get n && (x.occ.get n).1 == 0 && decide ((x.occ.get n).2 + 4096 ≤ now)
/-- Subnetwork n of a router is powered up, or down. -/
def Tile.powered (x : Tile) (up : Bool) (n : Fin 4) (now : Nat) : Tile :=
  if up then { x with subs := x.subs.set n true, occ := x.occ.set n (0, now) } else { x with subs := x.subs.set n false }

theorem Tile.powered_subs_ne (x : Tile) (up : Bool) {n j : Fin 4} (now : Nat) (h : n ≠ j) :
    (x.powered up n now).subs.get j = x.subs.get j := by
  cases up with
  | true => exact vec_get_set_ne _ n j _ n.isLt h
  | false => exact vec_get_set_ne _ n j _ n.isLt h
theorem Tile.report_subs (x : Tile) (k : Fin 4) (l now : Nat) : (x.report k l now).subs = x.subs := by
  unfold Tile.report
  split <;> rfl

section
variable {s : State} {t : TileNo} (up : Bool)

/-- A router powers a subnetwork where its buffers have dwelt, and does nothing else. -/
theorem exec_subnetworkPower_power {k n : Fin 4} (hm : s.input.nums = []) (hv : s.input.value = k.val) (hn : n.val = k.val + 1) :
    exec (.subnetworkPower t up) s =
      .next (if (s.tile t).powerDue up k n s.now then (s.setTile t ((s.tile t).powered up n s.now)).settled else s) := by
  have hk : s.input.value < 3 := by omega
  have hk4 : s.input.value < 4 := by omega
  have hn4 : s.input.value + 1 < 4 := by omega
  obtain rfl : k = ⟨s.input.value, hk4⟩ := Fin.ext hv.symm
  obtain rfl : n = ⟨s.input.value + 1, hn4⟩ := Fin.ext hn
  split
  · next due =>
    refine agent_done _ _ _ <| (see_bind _ _ s).trans ?_
    rw [id, hm]
    dsimp only
    rw [dif_pos hk]
    cases up with
    | true => exact (enabled_bind due _ s).trans (modTile_run ..)
    | false => exact (enabled_bind due _ s).trans (modTile_run ..)
  · next due =>
    refine agent_idle _ _ <| (see_bind _ _ s).trans ?_
    rw [id, hm]
    dsimp only
    rw [dif_pos hk]
    cases up with
    | true => exact enabled_stops (eq_false_of_ne_true due) _ s
    | false => exact enabled_stops (eq_false_of_ne_true due) _ s
/-- There is no subnetwork above the last one. -/
theorem exec_subnetworkPower_none (hm : s.input.nums = []) (hv : ¬s.input.value < 3) : exec (.subnetworkPower t up) s = .next s := by
  refine agent_idle _ _ <| (see_bind _ _ s).trans ?_
  rw [id, hm]
  dsimp only
  rw [dif_neg hv]
  rfl
/-- A router's buffers report an occupancy. -/
theorem exec_subnetworkPower_report {l : Nat} {r : List Nat} (hm : s.input.nums = l :: r) :
    exec (.subnetworkPower t up) s =
      .next (s.setTile t ((s.tile t).report ⟨s.input.value % 4, Nat.mod_lt _ (by decide)⟩ l s.now)).settled := by
  refine agent_done _ _ _ <| (see_bind _ _ s).trans ?_
  rw [id, hm]
  rfl

/-- Subnetwork 0 is always on: no step of a router changes it. -/
theorem exec_subnetworkPower_zero {s' : State} (h : exec (.subnetworkPower t up) s = .next s') :
    (s'.tile t).subs.get 0 = (s.tile t).subs.get 0 := by
  cases hm : s.input.nums with
  | cons l r =>
    rw [exec_subnetworkPower_report up hm] at h
    obtain rfl := Host.Outcome.next.inj h
    show (((s.setTile t _).tile t).subs).get 0 = _
    rw [State.tile_setTile, Tile.report_subs]
  | nil =>
    by_cases hv : s.input.value < 3
    · have hk : s.input.value < 4 := by omega
      have hn : s.input.value + 1 < 4 := by omega
      rw [exec_subnetworkPower_power up (k := ⟨s.input.value, hk⟩) (n := ⟨s.input.value + 1, hn⟩) hm rfl rfl] at h
      obtain rfl := Host.Outcome.next.inj h
      split
      · show (((s.setTile t _).tile t).subs).get 0 = _
        rw [State.tile_setTile]
        exact Tile.powered_subs_ne _ _ _ (Fin.ne_of_val_ne (Nat.succ_ne_zero _))
      · rfl
    · rw [exec_subnetworkPower_none up hm hv] at h
      obtain rfl := Host.Outcome.next.inj h
      rfl
end

theorem exec_budgetPeriodEnd {s : State} {q : Fin 256} {cyc at' : Nat} (h : (s.queue q).due = some (cyc, at')) (hc : cyc < s.now) :
    exec (.budgetPeriodEnd q) s = .next (s.closePeriod q at').settled := by
  have hq : queueNo q.val s = .ok (q, s) := by
    rw [queueNo, dif_pos q.isLt]
    rfl
  exact agent_done _ _ _ <| (bind_ok _ _ _ _ _ hq).trans <| (see_bind _ _ s).trans <| (present_bind h _ s).trans <|
    (see_bind _ _ s).trans <| (enabled_bind (decide_eq_true hc) _ s).trans (upd_run ..)
theorem closePeriod_queue (s : State) (q : Fin 256) (at' : Nat) : (s.closePeriod q at').queue q = endPeriod at' (s.queue q) := by
  unfold State.closePeriod
  dsimp only
  split <;> exact vec_get_set _ q _ q.isLt

/-! ## The power of the array (R213, R214) -/

theorem exec_rampComplete {s : State} {t : TileNo} (hs : (s.tile t).mx.state = .ramp) (hn : (s.tile t).mx.since + 48 ≤ s.now) :
    exec (.rampComplete t) s = .next (settleRamp t s.now s).settled :=
  agent_done _ _ _ <| (see_bind _ _ s).trans <| (see_bind _ _ s).trans <|
    (enabled_bind (by rw [hs, decide_eq_true hn]; rfl) _ s).trans (upd_run ..)
theorem settleRamp_full {s : State} {t : TileNo} {upto : Nat} (hs : (s.tile t).mx.state = .ramp) (hn : (s.tile t).mx.since + 48 ≤ upto) :
    ((settleRamp t upto s).tile t).mx.state = .full := by
  unfold settleRamp
  dsimp only
  rw [if_pos ⟨hs, hn⟩, State.tile_setTile]

theorem exec_burstHoldExpiry {s : State} {t : TileNo} (h0 : (s.tile t).mx.hold ≠ 0) (hn : (s.tile t).mx.hold ≤ s.now) :
    exec (.burstHoldExpiry t) s = .next (settleHold t s).settled :=
  agent_done _ _ _ <| (see_bind _ _ s).trans <| (see_bind _ _ s).trans <|
    (enabled_bind (by rw [decide_eq_true hn, Bool.and_true]; simpa using h0) _ s).trans (upd_run ..)

theorem exec_matrixCold {s : State} {t : TileNo} (hs : ((settleHold t s).tile t).mx.state = .full)
    (hh : ((settleHold t s).tile t).mx.hold ≤ s.now)
    (hi : max (max ((settleHold t s).tile t).mx.idle ((settleHold t s).tile t).mx.hold) ((settleHold t s).tile t).mx.since + 64 ≤ s.now)
    (hb : (((settleHold t s).tile t).slots.toList.all fun o => o.all fun x => !x.matBusy) = true) :
    exec (.matrixCold t) s = .next ((settleHold t s).setTile t { (settleHold t s).tile t with
      mx := { ((settleHold t s).tile t).mx with state := .cold, since := 0 } }).settled := by
  rw [← settleHold_now t] at hh hi
  exact agent_done _ _ _ <| (upd_bind _ _ s).trans <| (see_bind _ _ _).trans <| (see_bind _ _ _).trans <|
    (enabled_bind (by rw [hs, decide_eq_true hh, decide_eq_true hi]; rfl) _ _).trans <| (enabled_bind hb _ _).trans (modTile_run ..)

/-! ## Power modes (R430) -/

theorem exec_powerModeChange {s : State} (hr : s.ready = true) (hf : s.frameT = s.time) (hm : slowerOf s.req s.limit ≠ s.mode)
    (hv : s.input.value ≤ 3960000) :
    ∃ s', exec .powerModeChange s = .next s' ∧ s'.mode = slowerOf s.req s.limit ∧ s'.pend = false ∧ s'.time = s.time + s.input.value ∧
      s'.now = s.now := by
  obtain ⟨t, run, rec⟩ := applyMode_run (slowerOf s.req s.limit) s.input.value s
  obtain ⟨ds, dies, -⟩ := settleDies_settled s
  have go : (s.ready && s.frameT == s.time && slowerOf s.req s.limit != s.mode && decide (s.input.value ≤ twentyUs)) = true := by
    rw [hr, hf, beq_self_eq_true, bne_iff_ne.mpr hm, decide_eq_true (show s.input.value ≤ twentyUs from hv)]
    rfl
  refine ⟨_, agent_done _ _ _ ((see_bind _ _ s).trans ((enabled_bind go _ s).trans run)), rec.mode, rec.pend, rec.time.trans ?_, ?_⟩
  · show (settleDies s).time + _ = _
    rw [dies, if_neg hm, Nat.min_eq_left (show s.input.value ≤ twentyUs from hv)]
  · obtain ⟨f, r, c, l, rfl⟩ := rec
    exact (congrArg State.now dies).trans rfl

/-- Settles O57: each event by the lemma that runs it. -/
theorem linksAndShares : Obligations.LinksAndShares := by
  refine ⟨fun s p hw => ⟨exec_flitReplay hw, exec_retrainComplete hw, ⟨fun free => ?_, fun owed => ?_, exec_resynchronisation hw⟩, ?_⟩,
    fun s c hw ha => ⟨fun flag len permit early => ?_, fun flag len permit due => ?_, fun m r flag msgs early => ?_⟩,
    fun s d => exec_tokenRefill, fun s t c => exec_bandwidthRequest,
    fun s t k n hm hv hn => ⟨fun on off full dwell => ?_, fun on low dwell => ?_⟩, fun s s' t up => exec_subnetworkPower_zero up,
    fun s t up k l r hm hv hl => ?_, fun s q cyc at' due past => ?_,
    fun s t => ⟨fun ramp long => ⟨_, exec_rampComplete ramp long, settleRamp_full ramp long⟩, exec_matrixCold,
      fun held past => ⟨_, exec_burstHoldExpiry held past, ?_⟩⟩, fun s => exec_powerModeChange⟩
  · rw [exec_permitReturn hw, Chan.returned, if_pos free]
    rfl
  · rw [exec_permitReturn hw, Chan.returned, if_neg owed]
    rfl
  · obtain ⟨a, run⟩ := exec_auditFlit hw
    refine ⟨_, run, fun j other => s.setPort_ne _ other, fun ch => ?_⟩
    show (((((s.setPort p _).ports.get p).chans.get ch).returns) = _) ∧ ((((s.setPort p _).ports.get p).chans.get ch).permits) = _
    rw [State.setPort_same, Link.acknowledged_chan]
    exact ⟨rfl, rfl⟩
  · obtain ⟨s', run, put, -⟩ := exec_commandLinkMessage hw ha (by simp [len]) (by rw [flag]; exact linkStep_send permit _ _)
    exact ⟨s', run, by rw [put, linkAudit_early fun e => early (Nat.succ.inj e)]⟩
  · obtain ⟨s', run, put, -, count⟩ := exec_commandLinkMessage hw ha (by simp [len]) (by rw [flag]; exact linkStep_send permit _ _)
    rw [linkAudit_due (congrArg Nat.succ due)] at put count
    refine ⟨s', run, ?_, ?_, fun differs => count ?_⟩
    · rw [put, List.length_append, List.length_singleton]
    · rw [put, List.length_append, List.length_singleton]
      exact congrArg _ (toNat_bne _ 8)
    · rw [List.length_append, List.length_singleton]
      exact bne_iff_ne.mpr differs
  · obtain ⟨s', run, put, answer, -⟩ := exec_commandLinkMessage hw ha (by simp [flag]) (by rw [flag]; exact linkStep_consume msgs _ _)
    refine ⟨s', run, by rw [answer flag, msgs, List.headD_cons], ?_⟩
    rw [put]
    refine (congrArg Prod.fst (linkAudit_early (l := (_, r, _)) early)).trans ?_
    by_cases kept : s.input.value = 0 <;> simp [kept]
  · rw [exec_subnetworkPower_power true hm hv hn, if_pos (by simp [Tile.powerDue, on, off, full, dwell])]
    rfl
  · rw [exec_subnetworkPower_power false hm hv hn, if_pos (by simp [Tile.powerDue, on, low, dwell])]
    rfl
  · obtain rfl : k = ⟨s.input.value % 4, Nat.mod_lt _ (by decide)⟩ := Fin.ext hv.symm
    rw [exec_subnetworkPower_report up hm, Tile.report, if_neg hl]
  · refine ⟨_, exec_budgetPeriodEnd due past, (congrArg State.mem (Alike.closePeriod q at' s).rest).trans rfl, closePeriod_queue s q at', ?_⟩
    exact (congrArg Queue.used (closePeriod_queue s q at')).trans rfl
  · show ((settleHold t s).tile t).mx.hold = 0 ∧ ((settleHold t s).tile t).mx.state = _ ∧ ((settleHold t s).tile t).mx.idle = _
    rw [settleHold_mx, MxPower.settled, if_pos ⟨held, past⟩]
    exact ⟨rfl, rfl, rfl⟩

end Sys2Proof.Machine
end

section
/-!
PROOFS. The instructions on semaphores that complete (O35): SEMI, SEMB and SEMK of an idle semaphore, SEMP within the ceiling, and SEMR.
-/
namespace Sys2Proof.Machine
open Sys2Proof

/-! ## An idle semaphore (R229) -/

/-- What a change makes of the context in a slot is all that matters of it. -/
theorem State.modCtx_congr {s : State} {t : TileNo} {c : SlotNo} {x : Ctx} (hx : s.ctx? t c = some x) {f g : Ctx → Ctx} (hfg : f x = g x) :
    s.modCtx t c f = s.modCtx t c g := by
  simp only [State.modCtx, hx, hfg]

/-- On an idle semaphore, SEMI, SEMB and SEMK act at once. -/
theorem semIdleOr_acts {s : State} {x : Ctx} {n : SemNo} (hr : Ready s x) (hi : x.semIdle n = true) (op : Fin 3) (v w : Word) :
    semIdleOr op n v w s = .ok ({}, s.upMe (·.modSem n (semAct op v w))) := by
  refine (myCtx_bind hr _).trans ?_
  rw [hi]
  rfl

/-- Kind 4 unbinds (R233). -/
theorem semAct_unbind {v : Word} (h4 : v.toNat % 8 = 4) (w : Word) :
    semAct 1 v w = fun m => ({ m with bind := none } : Sem).declare w.toNat := by
  have hb : bits v.toNat 0 3 = 4 := by simpa [bits] using h4
  funext m
  simp only [semAct, hb]
/-- Kinds 1 to 3 bind the region that the word names (R224, R233). -/
theorem semAct_bind {v : Word} (h1 : 1 ≤ v.toNat % 8) (h3 : v.toNat % 8 ≤ 3) (w : Word) :
    semAct 1 v w = fun m => ({ m with bind := some ⟨v.toNat % 8, v.toNat / 65536 % 16777216, v.toNat / 1099511627776⟩ } : Sem).declare w.toNat := by
  have hb : bits v.toNat 0 3 = v.toNat % 8 := by simp [bits]
  have hlen : v.toNat / 1099511627776 % 16777216 = v.toNat / 1099511627776 := by have := v.isLt; omega
  funext m
  unfold semAct
  dsimp only
  split
  · omega
  · omega
  · rw [regionOf_binds h1 h3, hlen]

/-! ## SEMI, SEMB, SEMK, SEMP and SEMR (R232, R233, R235 to R237) -/

section
variable {s : State} {x : Ctx} {h : Hd} {d : Dst} {n : Fin 64} {a c : Src} {u v : Word} (hr : Ready s x) (hg : x.pred h.guard = true)
include hr hg

theorem execSemk_acts (hi : x.semIdle n = true) : execSemk h n s = .next (finish s x 1 true {} (s.upMe (·.modSem n fun _ => {}))) :=
  dealer_upMe hr hg (semIdleOr_acts hr hi 2 0 0) 1 true none

theorem execSemr_next (hc : Reads s x c v) (hv : v.toNat < 7) : execSemr h d n c s =
    .next (finish s x 1 true { val := some (BitVec.ofNat 64 ((x.sems.get n).select v.toNat)) }
      (s.upMe (·.setDst d (BitVec.ofNat 64 ((x.sems.get n).select v.toNat))))) :=
  dealer_upMe hr hg ((readC_bind hr hc _).trans <| (check_bind_ok (decide_eq_true hv) _ _ _ s).trans <| (myCtx_bind hr _).trans rfl) 1 true none

variable (ha : Reads s x a u)
include ha

theorem execSemp_next (hm : (x.sems.get n).phaseMode = false) (hle : (x.sems.get n).count + u.toNat ≤ (x.sems.get n).ceil) :
    execSemp h n a s = .next (finish s x 1 true {} (s.upMe (·.modSem n fun m =>
      { m with count := m.count + u.toNat, n := min (m.n + u.toNat) 4294967295 }))) :=
  dealer_upMe hr hg ((readA_bind hr ha _).trans <| (myCtx_bind hr _).trans <| (check_bind_ok (congrArg not hm) _ _ _ s).trans <|
    (check_bind_ok (decide_eq_true hle) _ _ _ s).trans rfl) 1 true none

variable (hc : Reads s x c v)
include hc

theorem execSemi_acts (hi : x.semIdle n = true) (hk : initOk u.toNat v.toNat = true) (hle : u.toNat % 4096 ≤ u.toNat / 4096 % 4096) :
    execSemi h n a c s =
      .next (finish s x 1 true {} (s.upMe (·.modSem n fun _ => semInit (x.sems.get n) u.toNat v.toNat))) := by
  have taken : s.upMe (·.modSem n (semAct 0 u v)) = s.upMe (·.modSem n fun _ => semInit (x.sems.get n) u.toNat v.toNat) :=
    State.modCtx_congr hr.here rfl
  rw [← taken]
  exact dealer_upMe hr hg ((readA_bind hr ha _).trans <| (readC_bind hr hc _).trans <| (semiChecks_bind_ok hk hle _ s).trans <|
    semIdleOr_acts hr hi 0 u v) 1 true none

/-- SEMB of a kind that binds or unbinds acts once its checks pass. -/
theorem execSemb_acts (hk : sembChecks x n u v s = .ok ((), s)) (h0 : u.toNat % 8 ≠ 0) (hi : x.semIdle n = true) :
    execSemb h n a c s = .next (finish s x 1 true {} (s.upMe (·.modSem n (semAct 1 u v)))) := by
  have h0' : bits u.toNat 0 3 ≠ 0 := by simpa [bits] using h0
  refine dealer_upMe hr hg ?_ 1 true none
  refine (readA_bind hr ha _).trans <| (readC_bind hr hc _).trans <| (myCtx_bind hr _).trans <| (bind_ok _ _ _ _ _ hk).trans ?_
  rw [if_neg h0']
  exact semIdleOr_acts hr hi 1 u v

end

/-- The mode bit of the init word (R232). -/
theorem semInit_phaseMode (m : Sem) (u : Word) (w : Nat) : (semInit m u.toNat w).phaseMode = u.getLsbD 24 := by
  simp only [semInit, bits, BitVec.getLsbD, Nat.testBit_eq_decide_div_mod_eq, beq_eq_decide, pow_one]

/-- Settles O35: each instruction follows its checks through to what it does. -/
theorem semaphores : Obligations.Semaphores := by
  intro s x h d n a c u v hr hg ha hc
  refine ⟨fun hi hk hle => ?_, fun hk hw => ⟨fun h0 => ?_, fun h4 hi => ?_, fun h1 h3 hi => fun hin ho => ?_⟩, fun hi => ?_,
    fun hm hle => ?_, fun hv => ?_⟩
  · have low : bits u.toNat 0 12 = u.toNat % 4096 := by simp [bits]
    exact ⟨semInit (x.sems.get n) u.toNat v.toNat, execSemi_acts hr hg ha hc hi hk hle, low, rfl, semInit_phaseMode _ u _, rfl, low, rfl, rfl,
      rfl, rfl, rfl, rfl⟩
  · exact execSemb_declares hr hg ha hc (sembChecks_run_free hk hw (.inl h0) s) h0
  · rw [← semAct_unbind h4]
    exact execSemb_acts hr hg ha hc (sembChecks_run_free hk hw (.inr h4) s) (by omega) hi
  · rw [← semAct_bind h1 h3]
    exact execSemb_acts hr hg ha hc (sembChecks_run_binds hk hw h1 h3 hin ho s) (by omega) hi
  · exact execSemk_acts hr hg hi
  · exact execSemp_next hr hg ha hm hle
  · exact execSemr_next hr hg hc hv

end Sys2Proof.Machine
end

section
/-!
PROOFS. A pending cause at a waiting instruction (O55): what an interruption needs and leaves, the watchdog, and the machine check (R375, R376, R379,
R380).
-/
namespace Sys2Proof.Machine
open Sys2Proof

/-- Two changes of a context are one. -/
theorem State.modCtx_modCtx (s : State) (t : TileNo) (c : SlotNo) (f g : Ctx → Ctx) : (s.modCtx t c f).modCtx t c g = s.modCtx t c (g ∘ f) := by
  unfold State.modCtx
  cases hx : s.ctx? t c with
  | none => simp only [hx]
  | some x => simp [State.setSlot, State.setTile, State.tile, State.ctx?, vec_get_set]

/-- Whether a wait can be interrupted is decided by its barrier or its message. -/
theorem interruptible_congr {s u : State} (hg : u.groups = s.groups) (hm : u.msgs = s.msgs) (w : Wait) : interruptible u w = interruptible s w := by
  simp only [interruptible, State.group, hg, hm]

/-- The cause k has become pending at the context in slot c of tile t (R374). -/
def pended (t : TileNo) (c : SlotNo) (k : Cause) (s : State) : State := s.modCtx t c fun y => { y with asyncs := y.asyncs ++ [k] }

section
variable {t : TileNo} {c : SlotNo} {s : State} {x : Ctx} {w : Wait}

theorem pended_interruptible (t : TileNo) (c : SlotNo) (k : Cause) (s : State) (w : Wait) :
    interruptible (pended t c k s) w = interruptible s w := interruptible_congr (State.modCtx_groups ..) (State.modCtx_msgs ..) w

section
variable (hx : s.ctx? t c = some x) (hw : x.wait = some w) (hrun : x.run = .run) (hact : x.active = false) (hint : interruptible s w = true)
include hx hw hrun hact hint

/-- An interruption takes the wait back and takes what is pending. -/
theorem interrupt_run (hp : x.asyncs ≠ [] ∨ (pendingFault x).isSome = true) :
    interrupt t c s = .ok ((), takePending t c (withdraw t c w s)) := by
  have due : (x.run == .run && !x.active && (!x.asyncs.isEmpty || (pendingFault x).isSome)) = true := by
    rw [hrun, hact]
    simpa using hp
  exact (wait_bind hx hw _).trans <| (enabled_bind due _ s).trans <| (see_bind _ _ s).trans (enabled_bind hint _ s)

/-- A cause that has just become pending does so at once. -/
theorem interrupt_pended (k : Cause) :
    interrupt t c (pended t c k s) = .ok ((), takePending t c (withdraw t c w (pended t c k s))) := by
  have hy : (pended t c k s).ctx? t c = some { x with asyncs := x.asyncs ++ [k] } := by rw [pended, State.ctx_modCtx, hx, Option.map_some]
  exact interrupt_run hy hw hrun hact ((pended_interruptible ..).trans hint) (.inl (by simp))

theorem trapEntry_next (hp : x.asyncs ≠ [] ∨ (pendingFault x).isSome = true) :
    exec (.trapEntry t c) s = .next (takePending t c (withdraw t c w s)).settled :=
  agent_done _ _ _ (interrupt_run hx hw hrun hact hint hp)

theorem watchdog_next (hk : w.kind ≠ .wfe) (hcur : x.recounts = true → (s.tile t).cur = c)
    (hlate : w.since + 2 * ((s.job? x.job).map (·.watchdog)).getD 67108864 < s.now) (hnew : Cause.watchdog ∉ x.asyncs) :
    exec (.watchdog t c) s = .next (takePending t c (withdraw t c w (pended t c .watchdog s))).settled := by
  have due : (x.run == .run && w.kind != .wfe && decide (w.since + 2 * ((s.job? x.job).map (·.watchdog)).getD 67108864 < s.now) &&
      !x.asyncs.contains .watchdog && (!x.recounts || (s.tile t).cur == c)) = true := by
    have turn : x.recounts = false ∨ (s.tile t).cur = c := by
      cases hr : x.recounts with
      | false => exact .inl rfl
      | true => exact .inr (hcur hr)
    simpa [hrun, hk, hnew, turn] using hlate
  refine agent_done _ _ _ ((wait_bind hx hw _).trans ?_)
  refine (see_bind _ _ s).trans <| (see_bind _ _ s).trans <| (see_bind _ _ s).trans <| (enabled_bind due _ s).trans <|
    (bind_ok _ _ _ _ _ (modCtx_run ..)).trans <| (see_bind _ _ _).trans ?_
  rw [if_pos (by rw [hact]; exact (pended_interruptible t c .watchdog s w).trans hint)]
  exact interrupt_pended hx hw hrun hact hint .watchdog

theorem machineCheck_interrupts (hnew : Cause.machineCheck ∉ x.asyncs) :
    exec (.machineCheck t c) s = .next (takePending t c (withdraw t c w (pended t c .machineCheck s))).settled := by
  refine agent_done _ _ _ ((ctx_bind hx _).trans ?_)
  refine (enabled_bind (by simpa using hnew) _ s).trans <| (bind_ok _ _ _ _ _ (modCtx_run ..)).trans <| (see_bind _ _ _).trans ?_
  rw [if_pos (by rw [hact, hrun, hw]; exact (pended_interruptible t c .machineCheck s w).trans hint)]
  exact interrupt_pended hx hw hrun hact hint .machineCheck

end

/-- Where nothing waits, a machine check becomes pending only. -/
theorem machineCheck_pends (hx : s.ctx? t c = some x) (hw : x.wait = none) (hnew : Cause.machineCheck ∉ x.asyncs) :
    exec (.machineCheck t c) s = .next (pended t c .machineCheck s).settled := by
  refine agent_done _ _ _ ((ctx_bind hx _).trans ?_)
  refine (enabled_bind (by simpa using hnew) _ s).trans <| (bind_ok _ _ _ _ _ (modCtx_run ..)).trans <| (see_bind _ _ _).trans ?_
  rw [hw, if_neg (by simp)]
  rfl

end

end Sys2Proof.Machine
end

section
/-!
PROOFS. A context that the leaf holds (O55): what its steps leave of the context until they send it on, and the steps themselves (R378, R380, R448).
-/
namespace Sys2Proof.Machine
open Sys2Proof

/-! ## What leaves the contexts of the slots -/

section
variable (t : TileNo) (c : SlotNo)

theorem State.addErr_ctx (s : State) (r : ErrRec) : (s.addErr r).ctx? t c = s.ctx? t c := by
  simp only [State.ctx?, State.tile, State.addErr_tiles]
theorem State.modJob_ctx (s : State) (job : Nat) (f : Job → Job) : (s.modJob job f).ctx? t c = s.ctx? t c := rfl
theorem appendLog_ctx (job : Nat) (v : Word) (s : State) : (appendLog job v s).ctx? t c = s.ctx? t c := rfl
theorem State.modEp_ctx (s : State) (n : Nat) (e : Fin 8) (f : Endpoint → Endpoint) : (s.modEp n e f).ctx? t c = s.ctx? t c := by
  obtain ⟨eps, h⟩ := s.modEp_tile n e f t
  rw [State.ctx?, h]
  rfl
theorem foldl_ctx {α : Type} {f : State → α → State} (h : ∀ s a, (f s a).ctx? t c = s.ctx? t c) (l : List α) (s : State) :
    (l.foldl f s).ctx? t c = s.ctx? t c := by
  induction l generalizing s with
  | nil => rfl
  | cons a l ih => exact (ih _).trans (h s a)
theorem deliverFlight_ctx (n : TileNo) (e : Fin 8) (p : Endpoint) (s : State) : (deliverFlight n e p s).ctx? t c = s.ctx? t c := by
  unfold deliverFlight
  split
  · rfl
  · next b _ =>
    show (if _ then s.modEp b.tile b.ep _ else s).ctx? t c = _
    split
    · exact State.modEp_ctx ..
    · rfl
theorem unbindEp_ctx (n : TileNo) (e : Fin 8) (s : State) : (unbindEp n e s).ctx? t c = s.ctx? t c := by
  unfold unbindEp
  dsimp only
  split
  · rfl
  · exact (State.modEp_ctx ..).trans (deliverFlight_ctx t c n e (s.ep n e) s)
theorem unbindAll_ctx (n : TileNo) (job : Nat) (num : BitVec 16) (s : State) : (unbindAll n job num s).ctx? t c = s.ctx? t c := by
  refine foldl_ctx t c (fun z e => ?_) (List.finRange 8) s
  split
  · exact unbindEp_ctx ..
  · rfl
theorem unbindSaved_ctx (g : Saved) (s : State) : (unbindSaved g s).ctx? t c = s.ctx? t c := by
  unfold unbindSaved
  refine (foldl_ctx t c (fun z e => State.modEp_ctx ..) g.eps _).trans ?_
  exact (foldl_ctx t c (fun z e => deliverFlight_ctx ..) g.eps _).trans (unbindAll_ctx ..)

end

/-! ## A save area, whatever is recorded (R372) -/

theorem readBytes_congr {s u : State} (hm : u.mem = s.mem) (hp : u.poison = s.poison) (k n : Nat) : readBytes u k n = readBytes s k n := by
  induction n generalizing k with
  | zero => rfl
  | succ n ih => simp only [readBytes, hm, hp, ih]
theorem Recorded.hwXlate {s u : State} (h : Recorded s u) (job a : Nat) (w : Bool) : hwXlate u job a w = hwXlate s job a w := by
  obtain ⟨f, r, c, l, rfl⟩ := h
  rfl
theorem Recorded.readArea {s u : State} (h : Recorded s u) (job a n : Nat) : readArea u job a n = readArea s job a n := by
  have hm : u.mem = s.mem := by obtain ⟨f, r, c, l, rfl⟩ := h; rfl
  have hp : u.poison = s.poison := by obtain ⟨f, r, c, l, rfl⟩ := h; rfl
  simp only [Machine.readArea, h.hwXlate, readBytes_congr hm hp, badBytes_congr hp]
theorem Recorded.savedAt {s u : State} (h : Recorded s u) (job : Nat) (a : Word) : u.savedAt job a = s.savedAt job a := by
  simp only [State.savedAt, h.readArea]

/-! ## The record of a trap, and going on (R378, R448) -/

/-- The leaf has recorded the cause for which it holds x (R378). -/
def leafRecorded (t : TileNo) (x : Ctx) (r : TrapRec) (s : State) : State := s.addErr (causeRec s t x r.cause r.eval r.epc)
/-- The context goes on at the address that the leaf received, with a result in g4 (R378, R448). -/
def goneOn (t : TileNo) (c : SlotNo) (r : TrapRec) (v : Word) (s : State) : State :=
  resumeStep t c (s.modCtx t c fun y => { y.setReg 4 v with run := .run, pc := r.epc, leafTrap := none })
/-- What the leaf could not read of a save area is recorded (R453, log 111). -/
def areaRecorded (t : TileNo) (x : Ctx) (bad : Nat) (s : State) : State :=
  if bad = 0 then s else s.addErr { causeRec s t x .eccStrict (x.regs.get 5) (BitVec.ofNat 64 bad) with ctx := 0 }

section
variable {t : TileNo} {c : SlotNo} {s : State} {x : Ctx} {r : TrapRec}

theorem leafRecorded_ctx (t n : TileNo) (c : SlotNo) (x : Ctx) (r : TrapRec) (s : State) : (leafRecorded t x r s).ctx? n c = s.ctx? n c :=
  State.addErr_ctx ..
theorem leafRecorded_saved (t : TileNo) (x : Ctx) (r : TrapRec) (s : State) : (leafRecorded t x r s).saved = s.saved := State.addErr_saved ..
theorem leafRecorded_recorded (t : TileNo) (x : Ctx) (r : TrapRec) (s : State) : Recorded s (leafRecorded t x r s) := (State.addErr_recorded s _).1
theorem areaRecorded_ctx (t n : TileNo) (c : SlotNo) (x : Ctx) (bad : Nat) (s : State) : (areaRecorded t x bad s).ctx? n c = s.ctx? n c := by
  unfold areaRecorded
  split
  · rfl
  · exact State.addErr_ctx ..
theorem areaRecorded_saved (t : TileNo) (x : Ctx) (bad : Nat) (s : State) : (areaRecorded t x bad s).saved = s.saved := by
  unfold areaRecorded
  split
  · rfl
  · exact State.addErr_saved ..

/-- A service ends by sending its context on. -/
theorem fwResult_run (hx : s.ctx? t c = some x) (hr : x.leafTrap = some r) (v : Word) : fwResult t c v s = .ok ((), goneOn t c r v s) := by
  refine congrArg (fun z => Except.ok ((), resumeStep t c z)) ?_
  refine (State.modCtx_modCtx ..).trans (State.modCtx_congr hx ?_)
  simp only [Function.comp_apply, Ctx.setReg, hr]

/-- What FW_UNBIND_SAVED does with what it has found in the area: the saved context, or else its number's bindings on the tile (R448). -/
def unbindFound (t : TileNo) (c : SlotNo) (x : Ctx) (found : Option (Nat × BitVec 16)) : M Unit :=
  match found with
  | some (u, num) => do
    match ← see fun s => s.saved.find? fun g => g.job == x.job && g.num == num && g.tile.val == u with
    | some g => upd (unbindSaved g)
    | none => if h : u < 384 then upd (unbindAll ⟨u, h⟩ x.job num) else pure ()
    fwResult t c 0
  | none => fwResult t c (BitVec.allOnes 64)

section
variable (hx : s.ctx? t c = some x) (hr : x.leafTrap = some r)
include hx hr

theorem unbindFound_none : unbindFound t c x none s = .ok ((), goneOn t c r (BitVec.allOnes 64) s) := fwResult_run hx hr _

variable {u : TileNo} {k : BitVec 16}

theorem unbindFound_saved {g : Saved} (hg : s.saved.find? (fun g => g.job == x.job && g.num == k && g.tile.val == u.val) = some g) :
    unbindFound t c x (some (u.val, k)) s = .ok ((), goneOn t c r 0 (unbindSaved g s)) := by
  refine (see_bind _ _ s).trans ?_
  rw [hg]
  exact (upd_bind _ _ s).trans (fwResult_run ((unbindSaved_ctx ..).trans hx) hr _)
theorem unbindFound_resident (hg : s.saved.find? (fun g => g.job == x.job && g.num == k && g.tile.val == u.val) = none) :
    unbindFound t c x (some (u.val, k)) s = .ok ((), goneOn t c r 0 (unbindAll u x.job k s)) := by
  refine (see_bind _ _ s).trans ?_
  rw [hg]
  dsimp only
  rw [dif_pos u.isLt]
  exact (upd_bind _ _ s).trans (fwResult_run ((unbindAll_ctx ..).trans hx) hr _)

end

section
variable (hx : s.ctx? t c = some x) (hl : x.run = .leaf) (hr : x.leafTrap = some r)
include hx hl hr

theorem leafHeld_run : leafHeld t c s = .ok ((x, r), s) :=
  (ctx_bind hx _).trans <| (enabled_bind (by rw [hl]; rfl) _ s).trans (present_bind hr _ s)

/-- The service records the call and goes on with the context. -/
theorem fwCall_run (hc : r.cause = .firmwareCall) {n : Nat} (hn : serviceNo x = n) : fwCall t c n s = .ok (x, leafRecorded t x r s) :=
  (bind_ok _ _ _ _ _ (leafHeld_run hx hl hr)).trans <| enabled_bind (by rw [hc, hn]; simp) _ s

/-! ## The services (R448)

Each runs from the state in which its call has been recorded, and sends the context on. -/

section
variable (hc : r.cause = .firmwareCall)
include hc

theorem fwDomainNumber_next (hn : serviceNo x = 0) :
    exec (.fwDomainNumber t c) s = .next (goneOn t c r (BitVec.ofNat 64 s.domain) (leafRecorded t x r s)).settled := by
  have hd : (leafRecorded t x r s).domain = s.domain := by
    obtain ⟨f, e, n, l, h⟩ := leafRecorded_recorded t x r s
    rw [h]
  rw [← hd]
  exact agent_done _ _ _ <| (bind_ok _ _ _ _ _ (fwCall_run hx hl hr hc hn)).trans <| (see_bind _ _ _).trans <|
    fwResult_run ((leafRecorded_ctx ..).trans hx) hr _

theorem fwSetWatchdog_sets (hn : serviceNo x = 1) (hp : 20 ≤ (x.regs.get 5).toNat ∧ (x.regs.get 5).toNat ≤ 40) :
    exec (.fwSetWatchdog t c) s = .next (goneOn t c r 0 ((leafRecorded t x r s).modJob x.job fun j =>
      { j with watchdog := 2 ^ (x.regs.get 5).toNat })).settled := by
  refine agent_done _ _ _ ((bind_ok _ _ _ _ _ (fwCall_run hx hl hr hc hn)).trans ?_)
  rw [if_pos hp]
  exact (upd_bind _ _ _).trans (fwResult_run ((State.modJob_ctx ..).trans ((leafRecorded_ctx ..).trans hx)) hr _)
theorem fwSetWatchdog_refuses (hn : serviceNo x = 1) (hp : ¬ (20 ≤ (x.regs.get 5).toNat ∧ (x.regs.get 5).toNat ≤ 40)) :
    exec (.fwSetWatchdog t c) s = .next (goneOn t c r (BitVec.allOnes 64) (leafRecorded t x r s)).settled := by
  refine agent_done _ _ _ ((bind_ok _ _ _ _ _ (fwCall_run hx hl hr hc hn)).trans ?_)
  rw [if_neg hp]
  exact fwResult_run ((leafRecorded_ctx ..).trans hx) hr _

theorem fwLog_next (hn : serviceNo x = 3) :
    exec (.fwLog t c) s = .next (goneOn t c r 0 (appendLog x.job (x.regs.get 5) (leafRecorded t x r s))).settled :=
  agent_done _ _ _ <| (bind_ok _ _ _ _ _ (fwCall_run hx hl hr hc hn)).trans <| (upd_bind _ _ _).trans <|
    fwResult_run ((appendLog_ctx ..).trans ((leafRecorded_ctx ..).trans hx)) hr _

/-- FW_UNBIND_SAVED: the area is read after the call has been recorded, and what of it cannot be read is recorded too. -/
theorem fwUnbindSaved_next (hn : serviceNo x = 2) {found : Option (Nat × BitVec 16)} {bad : Nat}
    (hs : s.savedAt x.job (x.regs.get 5) = (found, bad)) {z : State}
    (hz : unbindFound t c x found (areaRecorded t x bad (leafRecorded t x r s)) = .ok ((), z)) :
    exec (.fwUnbindSaved t c) s = .next z.settled := by
  refine agent_done _ _ _ ((bind_ok _ _ _ _ _ (fwCall_run hx hl hr hc hn)).trans ((see_bind _ _ _).trans ?_))
  rw [(leafRecorded_recorded t x r s).savedAt, hs]
  by_cases hb : bad = 0
  · rw [areaRecorded, if_pos hb] at hz
    dsimp only
    rw [if_pos hb]
    exact hz
  · rw [areaRecorded, if_neg hb] at hz
    dsimp only
    rw [if_neg hb]
    exact hz

section
variable (hn : serviceNo x = 2) {found : Option (Nat × BitVec 16)} {bad : Nat} (hs : s.savedAt x.job (x.regs.get 5) = (found, bad))
include hn hs

theorem fwUnbindSaved_refuses (hf : found = none) : exec (.fwUnbindSaved t c) s =
    .next (goneOn t c r (BitVec.allOnes 64) (areaRecorded t x bad (leafRecorded t x r s))).settled := by
  subst hf
  exact fwUnbindSaved_next hx hl hr hc hn hs (unbindFound_none ((areaRecorded_ctx ..).trans ((leafRecorded_ctx ..).trans hx)) hr)

variable {u : TileNo} {k : BitVec 16} (hf : found = some (u.val, k))
include hf

theorem fwUnbindSaved_saved {g : Saved} (hg : s.saved.find? (fun g => g.job == x.job && g.num == k && g.tile.val == u.val) = some g) :
    exec (.fwUnbindSaved t c) s = .next (goneOn t c r 0 (unbindSaved g (areaRecorded t x bad (leafRecorded t x r s)))).settled := by
  subst hf
  rw [← leafRecorded_saved t x r s, ← areaRecorded_saved t x bad] at hg
  exact fwUnbindSaved_next hx hl hr hc hn hs (unbindFound_saved ((areaRecorded_ctx ..).trans ((leafRecorded_ctx ..).trans hx)) hr hg)
theorem fwUnbindSaved_resident (hg : s.saved.find? (fun g => g.job == x.job && g.num == k && g.tile.val == u.val) = none) :
    exec (.fwUnbindSaved t c) s = .next (goneOn t c r 0 (unbindAll u x.job k (areaRecorded t x bad (leafRecorded t x r s)))).settled := by
  subst hf
  rw [← leafRecorded_saved t x r s, ← areaRecorded_saved t x bad] at hg
  exact fwUnbindSaved_next hx hl hr hc hn hs (unbindFound_resident ((areaRecorded_ctx ..).trans ((leafRecorded_ctx ..).trans hx)) hr hg)

end

/-- A service number that names no service gets all ones. -/
theorem leafTrapHandling_noService (hn : 3 < serviceNo x) :
    exec (.leafTrapHandling t c) s = .next (goneOn t c r (BitVec.allOnes 64) (leafRecorded t x r s)).settled := by
  refine agent_done _ _ _ ((bind_ok _ _ _ _ _ (leafHeld_run hx hl hr)).trans ?_)
  refine (enabled_bind (by rw [decide_eq_true hn, Bool.or_true]) _ s).trans ((upd_bind _ _ s).trans ?_)
  rw [if_pos (by rw [hc]; rfl)]
  exact fwResult_run ((leafRecorded_ctx ..).trans hx) hr _

end

/-! ## The other causes (R378, R380) -/

section
variable (hc : r.cause ≠ .firmwareCall)
include hc

/-- LEAF_TRAP_HANDLING of another cause holds the context for debug, or ends it. -/
theorem leafTrapHandling_debugs (hd : (r.cause = .brk ∨ r.cause = .step) ∧ x.dbgctl.getLsbD 1 = true) :
    exec (.leafTrapHandling t c) s = .next ((leafRecorded t x r s).modCtx t c fun y => { y with run := .debug }).settled := by
  have hcall : (r.cause == .firmwareCall) = false := beq_eq_false_iff_ne.mpr hc
  refine agent_done _ _ _ ((bind_ok _ _ _ _ _ (leafHeld_run hx hl hr)).trans ?_)
  refine (enabled_bind (by rw [bne, hcall]; rfl) _ s).trans ((upd_bind _ _ s).trans ?_)
  rw [if_neg (by rw [hcall]; exact Bool.false_ne_true), if_pos (by simpa using hd)]
  rfl
theorem leafTrapHandling_retires (hd : ¬ ((r.cause = .brk ∨ r.cause = .step) ∧ x.dbgctl.getLsbD 1 = true)) {z : State}
    (hz : z = retireCtx t c r.cause.code (faultGrid t x (leafRecorded t x r s))) :
    exec (.leafTrapHandling t c) s =
      .next (if (z.job? x.job).any (·.fcancel) then (cancelJob x.job z).settled else z.settled) := by
  subst hz
  have hcall : (r.cause == .firmwareCall) = false := beq_eq_false_iff_ne.mpr hc
  rw [← apply_ite State.settled]
  refine agent_done _ _ _ ((bind_ok _ _ _ _ _ (leafHeld_run hx hl hr)).trans ?_)
  refine (enabled_bind (by rw [bne, hcall]; rfl) _ s).trans ((upd_bind _ _ s).trans ?_)
  rw [if_neg (by rw [hcall]; exact Bool.false_ne_true), if_neg (by simpa using hd)]
  refine (upd_bind _ _ _).trans <| (upd_bind _ _ _).trans <| (see_bind _ _ _).trans ?_
  split
  · rw [if_pos ‹_›]
    rfl
  · rw [if_neg ‹_›]
    rfl

end
end
end

/-! ## A cancelled job ends (R327, R417) -/

theorem endJob_job (job : Nat) (s : State) : (endJob job s).job? job = none := by
  unfold endJob
  cases hj : s.job? job with
  | none => exact hj
  | some j =>
    refine List.find?_eq_none.mpr fun k hk => ?_
    simpa using (List.mem_filter.mp hk).2

theorem State.settled_job (s : State) (job : Nat) : s.settled.job? job = s.job? job := rfl
/-- A step of another agent that ends with a change of the state. -/
theorem agent_upd {m : M Unit} {s z : State} {f : State → State} (h : m s = upd f z) : agent m s = .next (f z).settled := agent_done _ _ _ h

theorem jobCancelComplete_ends {s : State} {job : Nat} (hj : (s.job? job).isSome = true) (hall : s.cancelledAll job = true)
    (hq : s.jobQuiet job = true) : ∃ s', exec (.jobCancelComplete job) s = .next s' ∧ s'.job? job = none := by
  refine ⟨_, agent_upd ((see_bind _ _ s).trans <| (enabled_bind (by rw [hj, hall, hq]; rfl) _ s).trans <| (upd_bind _ _ s).trans
    (see_bind _ _ _)), ?_⟩
  exact (State.settled_job ..).trans (endJob_job job _)

/-! ## The obligation -/

/-- Settles O55: each step follows its checks through. -/
theorem interrupts : Obligations.Interrupts := by
  refine ⟨fun s t c x w hx hw hrun hact hint => ⟨?_, fun hk hcur hlate hnew => ?_, fun hnew => ?_⟩, fun s t c x hx hw hnew => ?_,
    fun s t c x r hx hl hr => ⟨fun hc => ⟨fun hn => ?_, fun hn hp1 hp2 => ?_, fun hn hp => ?_, fun found bad hn hs => ⟨fun hf => ?_,
      fun u k hf => ⟨fun g hg => ?_, fun hg _ => ?_⟩⟩, fun hn => ?_, fun hn => ?_⟩, fun hb hd => ?_, fun z hc hd hz => ?_⟩,
    fun s job j hj hall hq => ?_⟩
  · exact trapEntry_next hx hw hrun hact hint
  · exact watchdog_next hx hw hrun hact hint hk hcur hlate hnew
  · exact machineCheck_interrupts hx hw hrun hact hint hnew
  · exact machineCheck_pends hx hw hnew
  · exact fwDomainNumber_next hx hl hr hc hn
  · exact fwSetWatchdog_sets hx hl hr hc hn ⟨hp1, hp2⟩
  · exact fwSetWatchdog_refuses hx hl hr hc hn (by omega)
  · exact fwUnbindSaved_refuses hx hl hr hc hn hs hf
  · exact fwUnbindSaved_saved hx hl hr hc hn hs hf hg
  · exact fwUnbindSaved_resident hx hl hr hc hn hs hf hg
  · exact fwLog_next hx hl hr hc hn
  · exact leafTrapHandling_noService hx hl hr hc hn
  · exact leafTrapHandling_debugs hx hl hr (by rcases hb with h | h <;> rw [h] <;> nofun) ⟨hb, hd⟩
  · exact leafTrapHandling_retires hx hl hr hc hd hz
  · exact jobCancelComplete_ends (by rw [hj]; rfl) hall hq

end Sys2Proof.Machine
end

section
/-!
PROOFS. O46 fails where a shaping block of the context stands FAULTED on an idle bank: RESI, RESCLR and BANK_IDLE_ACTION then also take the block's
spoiling of the bank away (R286, log 137), and the statement says that they leave the chains as they are. RESCLR does what the statement says
where no block spoils the bank (`execResclr_unspoiled`).
-/
namespace Sys2Proof.Machine
open Sys2Proof

/-! ## RESCLR on an idle bank (R291, R296) -/

section
variable {s : State} {x : Ctx} {h : Hd} {n : Fin 4} (hr : Ready s x)
include hr

/-- An idle bank is acted on at once. -/
theorem bankOr_idle (hi : x.bankIdle n = true) (op : Fin 4) (a : Word) : bankOr op n a s = bankAct s.cur s.mySlot op n a s := by
  refine (me_bind _ s).trans ((getCtx_bind hr _).trans ?_)
  rw [if_pos hi]
theorem bankAct_clear (a : Word) : bankAct s.cur s.mySlot 3 n a s = .ok ({}, s.upMe (·.setBank n {})) := getCtx_bind hr _

/-- RESCLR replaces its idle bank by a bank at reset. -/
theorem execResclr_idle (hg : x.pred h.guard = true) (hi : x.bankIdle n = true) :
    exec (.resclr h n) s = .next (finish s x 1 true {} (s.upMe (·.setBank n {}))) :=
  dealer_upMe hr hg ((bankOr_idle hr hi 3 0).trans (bankAct_clear hr 0)) 1 true none

end

/-! ## Blocks that spoil a bank (R286, log 137) -/

/-- A block that named a bank which has been replaced: it spoils that bank no more. -/
def Entry.unspoil (n : Fin 4) (e : Entry) : Entry := if e.banks n then { e with run := { e.run with spoils := false } } else e

theorem Ctx.setBank_chain (x : Ctx) (n : Fin 4) (k : ResBank) (c : ChainNo) :
    (x.setBank n k).chains.get c = { x.chains.get c with queue := (x.chains.get c).queue.map (·.unspoil n) } :=
  Vector.getElem_map ..
/-- The faults of the chains stay, so what is pending does. -/
theorem Ctx.setBank_quiet (x : Ctx) (n : Fin 4) (k : ResBank) : (x.setBank n k).quiet = x.quiet := by
  have pending : pendingFault (x.setBank n k) = pendingFault x := by simp only [pendingFault, Ctx.setBank_chain]
  rw [Ctx.quiet, pending]
  rfl

/-- No block of the context that names the bank spoils it. -/
def Ctx.Unspoiled (x : Ctx) (n : Fin 4) : Prop :=
  ∀ c : ChainNo, ∀ e ∈ (x.chains.get c).queue, e.banks n = true → e.run.spoils = false

theorem Entry.unspoil_eq_self {e : Entry} {n : Fin 4} (h : e.banks n = true → e.run.spoils = false) : e.unspoil n = e := by
  unfold Entry.unspoil
  split
  · rw [← h ‹_›]
  · rfl
/-- Then a bank that is replaced is all that changes. -/
theorem Ctx.Unspoiled.setBank {x : Ctx} {n : Fin 4} (h : x.Unspoiled n) (k : ResBank) :
    x.setBank n k = { x with banks := x.banks.set n k } := by
  have chains : (x.setBank n k).chains = x.chains := by
    refine Vector.ext fun i hi => (Ctx.setBank_chain x n k ⟨i, hi⟩).trans ?_
    rw [List.map_congr_left fun e he => Entry.unspoil_eq_self (h ⟨i, hi⟩ e he), List.map_id']
    rfl
  exact congrArg (fun v : Vector Chain 4 => { x with banks := x.banks.set n k, chains := v }) chains

/-- RESCLR of an idle bank that no block spoils changes that bank only: the clause of O46 with the hypothesis that it lacks. -/
theorem execResclr_unspoiled {s : State} {x : Ctx} {h : Hd} {n : Fin 4} (hr : Ready s x) (hg : x.pred h.guard = true)
    (hi : x.bankIdle n = true) (hu : x.Unspoiled n) :
    exec (.resclr h n) s = .next (finish s x 1 true {} (s.upMe fun y => { y with banks := y.banks.set n {} })) := by
  have same : s.upMe (·.setBank n {}) = s.upMe fun y => { y with banks := y.banks.set n {} } :=
    State.modCtx_congr hr.here (hu.setBank {})
  rw [execResclr_idle hr hg hi, same]

/-! ## A block that stands FAULTED on its bank -/

/-- The chains of a context are those that its instruction has left it. -/
theorem finish_upMe_chains {s : State} {x : Ctx} {f : Ctx → Ctx} (hr : Ready s x) (hs : x.stepping = false) (hq : (f x).quiet = true)
    (len : Nat) (ends : Bool) :
    ((finish s x len ends {} (s.upMe f)).ctx? s.cur s.mySlot).map (·.chains) = some (f x).chains := by
  obtain ⟨-, d, a, hy⟩ := complete_fall_frame (State.upMe_ctx hr f) hq len ends none
  rw [finish, hs, Bool.false_and, hy, Option.map_some]
  exact congrArg some ((congrArg Ctx.chains (fallen_frame ..)).trans rfl)

/-- A shaping STORE on bank 0 that has faulted at an iteration after its check had passed. -/
def spoilingStore : Entry :=
  let store : Blk :=
    { hdr := { kind := .store, psel := 0, csel := 0, patchok := false, w0 := none, w1 := none, p0 := none, p1 := none }
      body := .store { tid := 0, lkind := 0, combine := false, lring := 1, llvl := 0, ndim := 1, shape := true, cnten := false
                       csem := 0, lbase := 0, torg := 0, lvls := [] } }
  { seq := 0, slots := 0, tiles := 1, linkId := 0, pins := [], linked := store, cur := store, cap := { axis := { en := true } }, sp := []
    run := { started := true, banked := true, spoils := true } }
/-- A context whose store chain is FAULTED at that block, with the fault reported: bank 0 is idle (R291). -/
def spoilingCtx : Ctx :=
  { num := 1, job := 7, record := 0, cls := 0, pc := 0x9000000000000000
    chains := (Vector.replicate 4 {}).set 1
      { state := .faulted, seq := 1, queue := [spoilingStore]
        fault := some { cause := .race, seq := 0, point := .iteration, idx := [], addr := 0, reported := true, toLeaf := false } } }
/-- The machine after reset with that context in slot 0 of tile 0. -/
def spoilingState : State := ({ State.reset with cur := 0 } : State).setSlot 0 0 (some spoilingCtx)

theorem spoilingCtx_ready : Ready spoilingState spoilingCtx := ⟨rfl, rfl, rfl, rfl⟩
theorem spoilingCtx_quiet : spoilingCtx.quiet = true := by decide
theorem spoilingCtx_bankIdle : spoilingCtx.bankIdle 0 = true := by decide

/-- Refutes O46: RESCLR of bank 0 in `spoilingState` leaves the faulted block without its mark of spoiling the bank, and the statement leaves the
block as it was. -/
theorem not_shapingInstructions : ¬ Obligations.ShapingInstructions := by
  intro h
  have hr := spoilingCtx_ready
  obtain ⟨-, -, -, hidle, -⟩ := h spoilingState spoilingState spoilingState spoilingCtx ⟨0, false⟩ none 0 0 .zero .zero 0 0 hr rfl rfl rfl
  obtain ⟨-, -, -, stated⟩ := hidle spoilingCtx_bankIdle
  have same := Host.Outcome.next.inj ((execResclr_idle hr rfl spoilingCtx_bankIdle).symm.trans stated)
  have cleared := finish_upMe_chains (f := (·.setBank 0 {})) hr rfl ((Ctx.setBank_quiet ..).trans spoilingCtx_quiet) 1 true
  have kept := finish_upMe_chains (f := fun y => { y with banks := y.banks.set 0 {} }) hr rfl spoilingCtx_quiet 1 true
  rw [same] at cleared
  have chains : (spoilingCtx.setBank 0 {}).chains = spoilingCtx.chains := Option.some.inj (cleared.symm.trans kept)
  have queue : ((spoilingCtx.setBank 0 {}).chains.get 1).queue = [spoilingStore] := by rw [chains]; rfl
  rw [Ctx.setBank_chain] at queue
  exact absurd (congrArg (List.map (·.run.spoils)) queue) (by decide)

end Sys2Proof.Machine
end

section
/-!
PROOFS. The instructions on coverage controllers (O47): the effect of COVSET, at once or from its wait, the words that COVGET and COVSTAT read, and
the contribution that is next.
-/
namespace Sys2Proof.Machine
open Sys2Proof

/-! ## The controller that a record sets (R297, R308) -/

theorem covFrom_frac (d0 d1 : Nat) : (covFrom d0 d1).frac = d0 % 8 := by simp [covFrom, bits]
theorem covFrom_period (d0 d1 : Nat) : (covFrom d0 d1).period = d1 / 4294967296 % 65536 := by simp [covFrom, bits]

/-! ## COVSET (R308) -/

/-- Steps 3 to 5 of COVSET, for a record that is read and accepted. -/
theorem covsetAct_run {s s1 : State} {t : TileNo} {c : SlotNo} {x : Ctx} {u d0 d1 : Word} (hx : s.ctx? t c = some x) (n : Fin 4)
    (hl : Runs (loadDws t c x u 2) s [d0, d1] s1) (hk : covOk d0.toNat d1.toNat = true) :
    covsetAct t c n u s = .ok ((), s1.modCtx t c fun y => { y with covs := y.covs.set n (covFrom d0.toNat d1.toNat) }) :=
  (ctx_bind hx _).trans <| (bind_ok _ _ _ _ _ hl).trans <| check_bind_ok hk _ _ _ s1

section
variable {s : State} {x : Ctx} {h : Hd} {n : Fin 4} {a : Src} {u : Word} (hr : Ready s x) (hg : x.pred h.guard = true) (ha : Reads s x a u)
include hr hg ha

theorem execCovset_acts {s1 s2 : State} (hu : u.toNat % 16 = 0) (hi : x.covIdle n = true) (hs : Runs (covsetAct s.cur s.mySlot n u) s () s1)
    (hp : Pays s x s1 s2) : execCovset h n a s = .next (finish s x 1 true {} s2) := by
  refine dealer_done _ _ _ _ 1 true none _ _ _ hr hg ?_ hp
  refine (readA_bind hr ha _).trans <| (check_bind_ok (by simpa using hu) _ _ _ s).trans <| (me_bind _ s).trans <| (getCtx_bind hr _).trans ?_
  rw [if_pos hi]
  exact bind_ok _ _ _ _ _ hs

theorem execCovset_waits (hu : u.toNat % 16 = 0) (hi : x.covIdle n = false) :
    execCovset h n a s = .next (waits s h 1 none (.covset n u) s) := by
  refine dealer_reqs_waits hr hg ?_ rfl
  refine (readA_bind hr ha _).trans <| (check_bind_ok (by simpa using hu) _ _ _ s).trans <| (me_bind _ s).trans <| (getCtx_bind hr _).trans ?_
  rw [if_neg (by rw [hi]; exact Bool.false_ne_true)]
  rfl

theorem execCovset_misaligned (hu : u.toNat % 16 ≠ 0) : execCovset h n a s = .next (preciseTrap s x .misalignedData u) :=
  dealer_trap _ _ _ _ _ _ _ _ _ hr hg <| (readA_bind hr ha _).trans <| check_bind_fail (by simpa using hu) _ _ _ s

end

/-! ## COVSET_IDLE_ACTION (R308) -/

section
variable {s s1 s2 : State} {t : TileNo} {c : SlotNo} {x : Ctx} {w : Wait}

theorem onDealer_bind {α : Type} (hc : (s.tile t).cur = c) (f : Unit → M α) : (onDealer t c >>= f) s = f () s :=
  bind_ok _ _ _ _ _ ((see_bind _ _ s).trans (by rw [hc, beq_self_eq_true]; rfl))
/-- An effect that runs and is paid completes its instruction. -/
theorem runEff_done {m : M Eff} {e : Eff} {h : Hd} {len : Nat} {ends : Bool} {dst : Option Dst} (hm : m s = .ok (e, s1))
    (hp : settleStep s t c none x.job s1 = some s2) :
    runEff t c x h len ends dst m s = .next (complete t c len (ends || h.stop) (x.stepping && !x.active) e s2) := by
  simp only [runEff, hm, paidOr, hp]
/-- So does that of a waiting instruction without a destination, once its context has the dealer (R321). -/
theorem waitAct_done {m : M Eff} {e : Eff} (hc : (s.tile t).cur = c) (hd : w.dst = none) (hm : m s = .ok (e, s1))
    (hp : settleStep s t c none x.job s1 = some s2) :
    waitAct t c x w m s = .next (complete t c w.len true (x.stepping && !x.active) e s2) := by
  refine runEff_done ((onDealer_bind hc _).trans <| (bind_ok _ _ _ _ _ hm).trans ?_) hp
  rw [hd]
  rfl

theorem execCovsetIdleAction_completes {n : Fin 4} {a : Word} (hx : s.ctx? t c = some x) (hw : x.wait = some w) (hc : (s.tile t).cur = c)
    (hk : w.kind = .covset n a) (hd : w.dst = none) (hi : x.covIdle n = true) (hs : Runs (covsetAct t c n a) s () s1)
    (hp : settleStep s t c none x.job s1 = some s2) :
    execCovsetIdleAction t c s = .next (complete t c w.len true (x.stepping && !x.active) {} s2) := by
  simp only [execCovsetIdleAction, hx, hw, hk, hi, if_true]
  exact waitAct_done hc hd (bind_ok _ _ _ _ _ hs) hp

end

/-! ## COVGET and COVSTAT (R309) -/

section
variable {s : State} {x : Ctx} {h : Hd} {c : Src} {v : Word} (hr : Ready s x) (hg : x.pred h.guard = true) (hc : Reads s x c v)
  (hv : v.toNat ≤ 2)
include hr hg hc hv

/-- Both read their selector, then the word that it names. -/
theorem dealer_readsCov (d : Dst) (n : Fin 4) (f : Cov → Nat → Nat) :
    dealer h (do
      let k ← readC c (BitVec.ofNat 64 n)
      check (decide (k.toNat ≤ 2)) .reservedField (BitVec.ofNat 64 n)
      op0 d (BitVec.ofNat 64 (f ((← myCtx).covs.get n) k.toNat))) s (ends := true) =
    .next (finish s x 1 true { val := some (BitVec.ofNat 64 (f (x.covs.get n) v.toNat)) }
      (s.upMe (·.setDst d (BitVec.ofNat 64 (f (x.covs.get n) v.toNat))))) :=
  dealer_upMe hr hg ((readC_bind hr hc _).trans <| (check_bind_ok (decide_eq_true hv) _ _ _ s).trans <| (myCtx_bind hr _).trans rfl) 1 true none

end

/-! ## COVERAGE_CONTRIBUTION (R306) -/

theorem execCoverageContribution_applies {s : State} {t : TileNo} {c : SlotNo} {x : Ctx} {n : Fin 4} {e : Nat × Nat × Nat}
    (hx : s.ctx? t c = some x) (he : (x.covs.get n).early.find? (·.1 == (x.covs.get n).appl) = some e) :
    execCoverageContribution t c n s = .next (s.modCtx t c fun y =>
      let k := { (x.covs.get n).apply e.2.1 e.2.2 with early := (x.covs.get n).early.filter (·.1 != e.1) }
      { y with covs := y.covs.set n k }).settled :=
  agent_done _ _ _ ((ctx_bind hx _).trans (present_bind he _ s))

/-! ## The obligation -/

/-- Settles O47: where the checks of an instruction pass its effect runs and is paid; a busy controller and a misaligned record end it before. -/
theorem coverageInstructions : Obligations.CoverageInstructions := by
  intro s s1 s2 x h d n a c u v hr hg ha hc
  refine ⟨fun d0 d1 hu hi hl hk hp => ⟨?_, covFrom_frac .., covFrom_period .., rfl, rfl, rfl⟩, fun hu hi => ?_, fun hu => ?_,
    fun hv => ⟨?_, ?_⟩, fun t k y w m b s3 hy hw hcur hk hd hi hs hp => ?_, fun t k y m e hy he => ?_⟩
  · exact execCovset_acts hr hg ha hu hi (covsetAct_run hr.here n hl hk) hp
  · exact execCovset_waits hr hg ha hu hi
  · exact execCovset_misaligned hr hg ha hu
  · exact dealer_readsCov hr hg hc hv d n Cov.get
  · exact dealer_readsCov hr hg hc hv d n Cov.stat
  · exact execCovsetIdleAction_completes hy hw hcur hk hd hi hs hp
  · exact execCoverageContribution_applies hy he

end Sys2Proof.Machine
end

section
/-!
PROOFS. Taking an exception and returning from it (O18, O19): which cause goes to the leaf controller, the fields that the entry of a handler packs
into DBGCTL and ELATCH, and that ERET unpacks what a precise entry packed.
-/
namespace Sys2Proof.Machine
open Sys2Proof

/-! ## Where a cause goes (R375) -/

theorem TrapKind.keepsGroup_iff (k : TrapKind) : k.keepsGroup = true ↔ k = .d ∨ k = .dplus ∨ k = .l := by
  simp only [TrapKind.keepsGroup, Bool.or_eq_true, beq_iff_eq, or_assoc]
theorem toLeaf_iff (x : Ctx) (k : TrapKind) (c : Cause) :
    toLeaf x k c = true ↔ x.tvec = 0 ∨ c = .firmwareCall ∨ c = .machineCheck ∨
      ((c = .brk ∨ c = .step) ∧ x.dbgctl.getLsbD 1 = true) ∨ ((k = .d ∨ k = .dplus ∨ k = .l) ∧ x.dbgctl.getLsbD 2 = true) := by
  simp only [toLeaf, Ctx.active, Bool.or_eq_true, Bool.and_eq_true, beq_iff_eq, or_assoc]

/-! ## The fields of DBGCTL at an entry (R373, R376) -/

/-- The group that an entry keeps: that of the context for the kinds D, D+ and L, and none for the others (R376). -/
def keptGroup (k : TrapKind) (x : Ctx) : List (Option Word) := if k.keepsGroup then x.latches else []
/-- DBGCTL after the entry of a handler with n instructions in the group, of which the flags `valid` tell those with a value. -/
def entryDbgctl (old : BitVec 32) (n valid : Nat) : BitVec 32 := BitVec.ofNat 32 (old.toNat % 4 + 4 + 16 * n + 256 * valid)

section
variable {old : BitVec 32} {n valid : Nat} (hn : n < 16) (hv : valid < 256)
include hn hv

theorem entryDbgctl_toNat : (entryDbgctl old n valid).toNat = old.toNat % 4 + 4 + 16 * n + 256 * valid := by
  rw [entryDbgctl, BitVec.toNat_ofNat, Nat.mod_eq_of_lt (by omega)]
theorem entryDbgctl_active : (entryDbgctl old n valid).getLsbD 2 = true := by
  rw [BitVec.getLsbD, entryDbgctl_toNat hn hv, Nat.testBit_eq_decide_div_mod_eq, decide_eq_true_eq]
  omega
theorem entryDbgctl_step : (entryDbgctl old n valid).getLsbD 0 = old.getLsbD 0 := by
  rw [BitVec.getLsbD, BitVec.getLsbD, entryDbgctl_toNat hn hv, Nat.testBit_eq_decide_div_mod_eq, Nat.testBit_eq_decide_div_mod_eq,
    decide_eq_decide]
  omega
theorem entryDbgctl_fwdbg : (entryDbgctl old n valid).getLsbD 1 = old.getLsbD 1 := by
  rw [BitVec.getLsbD, BitVec.getLsbD, entryDbgctl_toNat hn hv, Nat.testBit_eq_decide_div_mod_eq, Nat.testBit_eq_decide_div_mod_eq,
    decide_eq_decide]
  omega
theorem entryDbgctl_count : (entryDbgctl old n valid).toNat / 16 % 16 = n := by
  rw [entryDbgctl_toNat hn hv]
  omega
theorem entryDbgctl_valid (j : Nat) : (entryDbgctl old n valid).getLsbD (8 + j) = valid.testBit j := by
  have e : old.toNat % 4 + 4 + 16 * n + 256 * valid = 2 ^ 8 * valid + (old.toNat % 4 + 4 + 16 * n) := by omega
  rw [BitVec.getLsbD, entryDbgctl_toNat hn hv, e, Nat.testBit_two_pow_mul_add _ (by omega), if_neg (by omega), Nat.add_sub_cancel_left]

end

/-- Flag j tells whether the group holds a value for its entry j. -/
theorem testBit_tlvalid (l : List (Option Word)) (j : Nat) : (tlvalid l).testBit j = (l[j]?).join.isSome := by
  induction l generalizing j with
  | nil => simp [tlvalid]
  | cons o l ih =>
    have e : tlvalid (o :: l) = 2 * tlvalid l + (if o.isSome then 1 else 0) := by rw [tlvalid, Nat.add_comm]
    have hb : (if o.isSome then 1 else 0) < 2 := by split <;> omega
    cases j with
    | zero =>
      rw [e, Nat.testBit_zero]
      cases o <;> simp [Nat.add_mod]
    | succ j =>
      rw [Nat.testBit_succ, e, show (2 * tlvalid l + (if o.isSome then 1 else 0)) / 2 = tlvalid l by omega, ih]
      rfl
theorem tlvalid_lt (l : List (Option Word)) : tlvalid l < 2 ^ l.length := by
  induction l with
  | nil => exact Nat.one_pos
  | cons o l ih =>
    rw [tlvalid, List.length_cons, Nat.pow_succ]
    split <;> omega
/-- TLVALID holds the flags of the first eight entries. -/
theorem tlvalid_take_lt (l : List (Option Word)) : tlvalid (l.take 8) < 256 :=
  (tlvalid_lt _).trans_le (Nat.pow_le_pow_right (by decide) (List.length_take_le 8 l))
theorem testBit_tlvalid_take (l : List (Option Word)) (j : Fin 8) : (tlvalid (l.take 8)).testBit j = (l[j.val]?).join.isSome := by
  rw [testBit_tlvalid, List.getElem?_take_of_lt j.isLt]
theorem elatchOf_get (l : List Word) (j : Fin 8) : (elatchOf l).get j = (l[j.val]?).getD 0 := by
  show (elatchOf l)[j.val] = _
  rw [elatchOf, Vector.getElem_ofFn]
theorem elatchOf_group (l : List (Option Word)) (j : Fin 8) : (elatchOf (l.map (·.getD 0))).get j = ((l[j.val]?).join).getD 0 := by
  rw [elatchOf_get, List.getElem?_map]
  cases l[j.val]? with
  | none => rfl
  | some o => rfl

/-! ## The two ways to take a cause (R376, R378) -/

/-- The context of which the leaf has taken a cause (R378). -/
def passed (k : TrapKind) (cause : Cause) (epc ev : Word) (el : List Word) (x : Ctx) : Ctx :=
  { x with
    run := .leaf, wait := none, answers := [], pc := epc, latches := [], stopping := false,
    leafTrap := some ⟨k, cause, epc, ev, keptGroup k x, el⟩ }
/-- The context that has entered its handler, with n as TGCNT (R376). -/
def entered (k : TrapKind) (cause : Cause) (epc ev : Word) (el : List Word) (n : Nat) (x : Ctx) : Ctx :=
  { x with
    epc := wordAlign epc, ecause := BitVec.ofNat 32 cause.code, eval := ev
    dbgctl := entryDbgctl x.dbgctl n (tlvalid ((keptGroup k x).take 8))
    elatch := elatchOf (if k.keepsGroup then (keptGroup k x).map (·.getD 0) else el)
    pc := x.tvec, latches := [], wait := none, stopping := false, answers := [] }

section
variable {s : State} {t : TileNo} {c : SlotNo} {x : Ctx} {k : TrapKind} {cause : Cause} (hx : s.ctx? t c = some x) (epc ev : Word) (el : List Word)
include hx

theorem enterTrap_leaf (h : toLeaf x k cause = true) : (enterTrap t c k cause epc ev el s).ctx? t c = some (passed k cause epc ev el x) := by
  simp only [enterTrap, hx, h, if_true, State.ctx_setSlot]
  rfl
theorem enterTrap_handler (h : toLeaf x k cause = false) :
    (enterTrap t c k cause epc ev el s).ctx? t c = some (entered k cause epc ev el (tgcnt s (keptGroup k x).length) x) := by
  simp only [enterTrap, hx, h, if_false, State.ctx_setSlot, Bool.false_eq_true]
  rfl

end

theorem tgcnt_of_lt (s : State) {n : Nat} (h : n < 16) : tgcnt s n = n := if_pos h
theorem keptGroup_of_keeps {k : TrapKind} (h : k.keepsGroup = true) (x : Ctx) : keptGroup k x = x.latches := if_pos h
theorem keptGroup_of_drops {k : TrapKind} (h : k.keepsGroup = false) (x : Ctx) : keptGroup k x = [] := if_neg (by rw [h]; nofun)

/-- Settles O18: the leaf is passed the cause under R375, and otherwise the fields of the entry are read off. -/
theorem trapEntry : Obligations.TrapEntry := by
  intro s t c x k cause epc ev el hx hl
  have hlen : (keptGroup k x).length < 16 := by
    unfold keptGroup
    split
    · exact hl
    · exact Nat.succ_pos _
  have hkeeps := k.keepsGroup_iff
  have hiff := toLeaf_iff x k cause
  cases hto : toLeaf x k cause with
  | true =>
    refine ⟨_, enterTrap_leaf hx epc ev el hto, rfl, rfl, rfl, rfl, fun _ => ?_, fun hn => absurd (hiff.mp hto) hn⟩
    exact ⟨rfl, rfl, rfl, rfl, rfl, rfl, rfl, _, rfl, rfl, rfl, rfl, rfl, fun hk => keptGroup_of_keeps (hkeeps.mpr hk) x⟩
  | false =>
    have hv := tlvalid_take_lt (keptGroup k x)
    have he := enterTrap_handler hx epc ev el hto
    rw [tgcnt_of_lt s hlen] at he
    refine ⟨_, he, rfl, rfl, rfl, rfl, fun hy => absurd (hiff.mpr hy) (by rw [hto]; nofun), fun _ => ?_⟩
    refine ⟨rfl, rfl, rfl, rfl, rfl, entryDbgctl_active hlen hv, entryDbgctl_step hlen hv, entryDbgctl_fwdbg hlen hv, fun hk => ?_, fun hk => ?_⟩
    · have hg := keptGroup_of_keeps (hkeeps.mpr hk) x
      refine ⟨(entryDbgctl_count hlen hv).trans (by rw [hg]), fun j => ⟨?_, ?_⟩⟩
      · exact (entryDbgctl_valid hlen hv j).trans (by rw [hg, testBit_tlvalid_take])
      · rw [entered, if_pos (hkeeps.mpr hk), hg, elatchOf_group]
    · have hd : k.keepsGroup = false := Bool.eq_false_iff.mpr fun h => hk (hkeeps.mp h)
      have hg := keptGroup_of_drops hd x
      refine ⟨(entryDbgctl_count hlen hv).trans (by rw [hg]; rfl), fun j => ?_, fun j => ?_⟩
      · exact (entryDbgctl_valid hlen hv j).trans (by rw [hg]; exact Nat.zero_testBit j)
      · rw [entered, hd, if_neg Bool.false_ne_true, elatchOf_get]

/-! ## ERET after a precise entry (R383) -/

theorem wordAlign_of_aligned {a : Word} (h : a.toNat % 4 = 0) : wordAlign a = a := by
  have h0 : a.getLsbD 0 = false := by
    rw [BitVec.getLsbD, Nat.testBit_eq_decide_div_mod_eq, decide_eq_false_iff_not]
    omega
  have h1 : a.getLsbD 1 = false := by
    rw [BitVec.getLsbD, Nat.testBit_eq_decide_div_mod_eq, decide_eq_false_iff_not]
    omega
  apply BitVec.eq_of_getLsbD_eq
  intro i hi
  rw [wordAlign, BitVec.getLsbD_and, BitVec.getLsbD_not, decide_eq_true hi, Bool.true_and]
  match i with
  | 0 => rw [h0, Bool.false_and]
  | 1 => rw [h1, Bool.false_and]
  | i + 2 => simp [BitVec.getLsbD, Nat.testBit_succ]

/-- The group of at most eight entries that a precise entry has packed is the one that ERET unpacks. -/
theorem savedGroup_entered {k : TrapKind} {x : Ctx} (hk : k.keepsGroup = true) (hl : x.latches.length ≤ 8) (cause : Cause) (epc ev : Word)
    (el : List Word) : savedGroup (entered k cause epc ev el x.latches.length x) = x.latches := by
  have hg := keptGroup_of_keeps hk x
  have hlen : x.latches.length < 16 := by omega
  have hv := tlvalid_take_lt x.latches
  have hd : (entered k cause epc ev el x.latches.length x).dbgctl = entryDbgctl x.dbgctl x.latches.length (tlvalid (x.latches.take 8)) := by
    rw [entered, hg]
  have hel : ∀ j : Fin 8, (entered k cause epc ev el x.latches.length x).elatch.toList[j.val]?.getD 0 = ((x.latches[j.val]?).join).getD 0 := by
    intro j
    rw [entered, if_pos hk, hg, ← elatchOf_group]
    simp [Vector.get]
  apply List.ext_getElem?
  intro i
  rw [savedGroup, hd, entryDbgctl_count hlen hv, List.getElem?_map]
  by_cases hi : i < x.latches.length
  · have h8 : i < 8 := by omega
    have hi' := hel ⟨i, h8⟩
    simp only at hi'
    rw [List.getElem?_range hi, Option.map_some, entryDbgctl_valid hlen hv, testBit_tlvalid_take x.latches ⟨i, h8⟩, decide_eq_true h8, hi']
    simp only [List.getElem?_eq_getElem hi, Option.join_some, Bool.and_true]
    cases x.latches[i] with
    | none => rfl
    | some v => rfl
  · rw [List.getElem?_eq_none (by simpa using hi), List.getElem?_eq_none (by omega), Option.map_none]

/-- Settles O19: EPC keeps an aligned pc, and the latch entries come back from TGCNT, TLVALID and ELATCH. -/
theorem eretRestoresTheGroup : Obligations.EretRestoresTheGroup := by
  intro s t c x z cause ev hx hl hpc hto hz
  have hk : TrapKind.keepsGroup .d = true := rfl
  have he := enterTrap_handler hx x.pc ev [] hto
  rw [keptGroup_of_keeps hk, tgcnt_of_lt s (by omega), hz, Option.some.injEq] at he
  subst he
  refine ⟨?_, ?_, rfl⟩
  · show ({ ctl := .eret (wordAlign x.pc) (savedGroup _) } : Eff) = _
    rw [wordAlign_of_aligned hpc, savedGroup_entered hk hl]
  · show (_ &&& ~~~4#32).getLsbD 2 = false
    rw [BitVec.getLsbD_and]
    exact Bool.and_false _

end Sys2Proof.Machine
end

section
/-!
PROOFS. What a retired context leaves free (O42): its slot is empty and its number is listed no more, and the retirement of its record, which walks
up its grids and may complete its job, keeps that.
-/
namespace Sys2Proof.Machine
open Sys2Proof

/-- Slot c of tile t is empty, and the number is not among the live ones of its job. -/
structure Vacated (t : TileNo) (c : SlotNo) (job : Nat) (num : BitVec 16) (s : State) : Prop where
  slot : s.ctx? t c = none
  free : ∀ j ∈ s.jobs, j.id = job → num ∉ j.live

namespace Vacated

variable {t : TileNo} {c : SlotNo} {job : Nat} {num : BitVec 16} {s u : State}

/-- The slot and the jobs are all that matters. -/
theorem of_same (h : Vacated t c job num s) (hc : u.ctx? t c = s.ctx? t c) (hj : u.jobs = s.jobs) : Vacated t c job num u :=
  ⟨hc.trans h.slot, by rw [hj]; exact h.free⟩
theorem addErr (h : Vacated t c job num s) (r : ErrRec) : Vacated t c job num (s.addErr r) :=
  h.of_same (State.addErr_ctx ..) (State.addErr_jobs ..)
theorem noteBad (h : Vacated t c job num s) (n : TileNo) (j pa k : Nat) : Vacated t c job num (noteBad n j pa k s) := by
  unfold Machine.noteBad
  dsimp only
  split
  · exact h
  · exact h.addErr _
theorem hwTouch (h : Vacated t c job num s) (n : TileNo) (j va : Nat) : Vacated t c job num (hwTouch n j va s) := by
  unfold Machine.hwTouch hwReach
  split
  · next s' hs =>
    unfold hwTag at hs
    split at hs
    · cases hs
      exact h
    · dsimp only at hs
      split at hs
      · obtain ⟨v, -, rfl⟩ := Option.map_eq_some_iff.mp hs
        exact h.of_same rfl rfl
      · cases hs
        exact h
  · exact h.addErr _
theorem writeNat (h : Vacated t c job num s) (k n v : Nat) : Vacated t c job num (writeNat s k n v) := h.of_same rfl rfl
theorem setRecDw (h : Vacated t c job num s) (pa k v : Nat) : Vacated t c job num (setRecDw pa k v s) := h.writeNat ..

/-- Jobs may change, as long as none lists a number that it did not list. -/
theorem modJob (h : Vacated t c job num s) {f : Job → Job} (hi : ∀ j, (f j).id = j.id) (hl : ∀ j, (f j).live = j.live) (k : Nat) :
    Vacated t c job num (s.modJob k f) := by
  refine ⟨h.slot, fun j hj hid => ?_⟩
  obtain ⟨j0, h0, rfl⟩ := List.mem_map.mp hj
  by_cases hk : (j0.id == k) = true
  · rw [if_pos hk] at hid ⊢
    rw [hl]
    exact h.free j0 h0 ((hi j0).symm.trans hid)
  · rw [if_neg hk] at hid ⊢
    exact h.free j0 h0 hid

/-- A job that completes leaves the list, and no tile's slots change with it (R417). -/
theorem endJob (h : Vacated t c job num s) (k : Nat) : Vacated t c job num (endJob k s) := by
  unfold Machine.endJob
  split
  · exact h
  · obtain ⟨ds, hd, -⟩ := settleDies_settled s
    rw [hd]
    refine ⟨?_, fun j hj => h.free j (List.mem_filter.mp hj).1⟩
    have hs := h.slot
    simp only [State.ctx?, State.tile, vec_get_map] at hs ⊢
    exact hs
theorem gridDone (h : Vacated t c job num s) (k va : Nat) (st : Option Nat) : Vacated t c job num (gridDone k va st s) := by
  unfold Machine.gridDone
  dsimp only
  split
  · exact h.of_same rfl rfl
  · refine endJob ?_ k
    exact h.of_same rfl rfl
/-- OUT goes down along the grids, from a record's grid to the outermost one that completes (R317). -/
theorem gridDown (h : Vacated t c job num s) (n : TileNo) (fuel k va : Nat) : Vacated t c job num (gridDown n fuel k va s) := by
  induction fuel generalizing s va with
  | zero => exact h
  | succ fuel ih =>
    unfold Machine.gridDown
    split
    · exact h
    · next pa _ =>
      have hb := h.noteBad n k pa 16
      generalize Machine.noteBad n k pa 16 s = s1 at hb
      dsimp only
      split
      · exact hb
      · split
        · exact hb.writeNat ..
        · refine gridDone ?_ k va none
          split
          · exact ih (hb.writeNat ..) _
          · exact hb.writeNat ..
theorem gridLeave (h : Vacated t c job num s) (n : TileNo) (k va : Nat) : Vacated t c job num (gridLeave n k va s) := h.gridDown n _ k va
theorem retireRec (h : Vacated t c job num s) (n : TileNo) (k va pa cause : Nat) : Vacated t c job num (retireRec n k va pa cause s) := by
  have hb := ((h.hwTouch n k va).noteBad n k (pa + 16) 8).noteBad n k (pa + 32) 8
  unfold Machine.retireRec
  generalize Machine.noteBad n k (pa + 32) 8 (Machine.noteBad n k (pa + 16) 8 (Machine.hwTouch n k va s)) = s1 at hb
  refine gridLeave (modJob (hb.setRecDw ..) ?_ ?_ k) n k _
  · exact fun _ => rfl
  · exact fun _ => rfl

end Vacated

/-- An emptied slot holds no context. -/
theorem State.emptySlot_ctx (s : State) (t : TileNo) (c : SlotNo) : (s.emptySlot t c).ctx? t c = none := by
  unfold State.emptySlot
  dsimp only
  split
  · exact State.ctx_setSlot ..
  · simp only [State.ctx?, State.tile_setTile]
    exact State.ctx_setSlot ..
theorem State.emptySlot_jobs (s : State) (t : TileNo) (c : SlotNo) : (s.emptySlot t c).jobs = s.jobs := by
  unfold State.emptySlot
  dsimp only
  split <;> rfl

/-- What goes with a context takes its number out of its job (R140). -/
theorem releaseCtx_free (t : TileNo) (x : Ctx) (s : State) : ∀ j ∈ (releaseCtx t x s).jobs, j.id = x.job → x.num ∉ j.live := by
  intro j hj hid
  obtain ⟨j0, -, rfl⟩ := List.mem_map.mp hj
  by_cases h0 : (j0.id == x.job) = true
  · rw [if_pos h0]
    simp
  · rw [if_neg h0] at hid
    exact absurd (beq_iff_eq.mpr hid) h0

/-- Settles O42: the context's slot and number are free before its record is retired, which keeps them so. -/
theorem retiredContext : Obligations.RetiredContext := by
  intro s t c x cause hx
  have h : Vacated t c x.job x.num ((releaseCtx t x s).emptySlot t c) :=
    ⟨State.emptySlot_ctx .., by rw [State.emptySlot_jobs]; exact releaseCtx_free t x s⟩
  suffices hr : Vacated t c x.job x.num (retireCtx t c cause s) from ⟨hr.slot, hr.free⟩
  unfold retireCtx
  simp only [hx]
  split
  · exact h
  · exact (h.setRecDw ..).retireRec ..

end Sys2Proof.Machine
end

section
/-!
PROOFS. Groups and events (O43): JOIN and LEAVE, the arrival at a barrier and the look at it again, WFE, and the flags that SEV sets.
-/
namespace Sys2Proof.Machine
open Sys2Proof

/-- The state after a SEV to tile u has set the flags of a job's contexts there (R338). -/
def flagged (u : TileNo) (job : Nat) (p : Option Stamp) (s : State) : State :=
  let s := (s.modCtx u 0 (setEvent job p)).modCtx u 1 (setEvent job p)
  { s with saved := s.saved.map fun e => if e.tile = u then { e with ctx := setEvent job p e.ctx } else e }

/-- An effect of hardware for a dealer that does not complete leaves no writes to take over. -/
theorem owning_error {m : M Eff} {s : State} {e : Exit} (hm : m s = .error e) : owning m s = .error e := by
  simp only [owning, owningBy, hm]

/-- The release of a dealer leaves the contexts of the slots. -/
theorem releaseAt_ctx (t : TileNo) (sc : Scope) (s : State) (u : TileNo) (c : SlotNo) : (releaseAt t sc s).1.ctx? u c = s.ctx? u c := by
  have slots : ((releaseAt t sc s).1.tile u).slots = (s.tile u).slots := by
    unfold releaseAt
    cases sc with
    | tile => rfl
    | clu | die | dev | dom =>
      by_cases h : t = u
      · subst h
        rw [State.tile_setTile]
      · rw [State.tile_setTile_ne _ _ _ _ h]
  rw [State.ctx?, State.ctx?, slots]
theorem releaseAt_mem (t : TileNo) (sc : Scope) (s : State) : (releaseAt t sc s).1.mem = s.mem := by cases sc <;> rfl
theorem releaseAt_reqs (t : TileNo) (sc : Scope) (s : State) : (releaseAt t sc s).1.reqs = s.reqs := by cases sc <;> rfl

/-- A release goes on with its stamp. -/
theorem release_bind {α : Type} (t : TileNo) (sc : Scope) (f : Option Stamp → M α) (s : State) :
    (release t sc >>= f) s = f (releaseAt t sc s).2 (releaseAt t sc s).1 := bind_ok _ _ _ _ _ rfl

section
variable {s : State} {x : Ctx} {h : Hd} {a : Src} {u : Word} (hr : Ready s x) (hg : x.pred h.guard = true)
include hr hg

/-- An effect of hardware for a dealer that writes no memory and makes no request. -/
theorem dealer_owning_quiet {m : M Eff} {e : Eff} {s1 : State} (hm : m s = .ok (e, s1)) (hh : s1.hist = s.hist) (hq : s1.reqs = s.reqs) :
    dealer h (owning m) s 1 true = .next (finish s x 1 true e s1) :=
  dealer_reqs hr hg ((owning_run hr hm).trans (by rw [ownWrites_none _ _ _ _ hh])) hq 1 true none

/-- An instruction that makes no request, and changes its own context last. -/
theorem dealer_lastUpMe {eff : M Eff} {e : Eff} {s1 : State} {f : Ctx → Ctx} (he : eff s = .ok (e, s1.upMe f)) (hq : s1.reqs = s.reqs) :
    dealer h eff s 1 true = .next (finish s x 1 true e (s1.upMe f)) :=
  dealer_reqs hr hg he ((State.upMe_reqs s1 f).trans hq) 1 true none

/-! ## JOIN and LEAVE (R328, R337) -/

section
variable (ha : Reads s x a u)
include ha

theorem execJoin_next (hu : u.toNat < 4096) (hx : x.grp = none) (hm : (s.group u.toNat).memb ≠ 65535)
    (hj : (s.group u.toNat).memb = 0 ∨ (s.group u.toNat).job = x.job) :
    execJoin h a s = .next (finish s x 1 true {}
      ((s.setGroup { s.group u.toNat with job := x.job, memb := (s.group u.toNat).memb + 1 }).upMe fun y => { y with grp := some u.toNat })) := by
  have open' : (x.grp.isNone && (s.group u.toNat).memb != 65535 && ((s.group u.toNat).memb == 0 || (s.group u.toNat).job == x.job)) = true := by
    simp [hx, hm, hj]
  refine dealer_lastUpMe hr hg ?_ rfl
  exact (readA_bind hr ha _).trans <| (myCtx_bind hr _).trans <| (check_bind_ok (decide_eq_true hu) _ _ _ s).trans <| (see_bind _ _ s).trans <|
    (check_bind_ok open' _ _ _ s).trans rfl
theorem execLeave_next (hu : u.toNat < 4096) (hx : x.grp = some u.toNat) :
    execLeave h a s = .next (finish s x 1 true {} ((leaveGroup u.toNat s).upMe fun y => { y with grp := none })) := by
  refine dealer_lastUpMe hr hg ?_ rfl
  exact (readA_bind hr ha _).trans <| (myCtx_bind hr _).trans <| (check_bind_ok (decide_eq_true hu) _ _ _ s).trans <|
    (check_bind_ok (beq_iff_eq.mpr hx) _ _ _ s).trans rfl
theorem execLeave_groupLimit (hn : ¬(u.toNat < 4096) ∨ x.grp ≠ some u.toNat) : execLeave h a s = .next (preciseTrap s x .groupLimit u) := by
  refine dealer_trap _ _ _ _ _ _ _ _ _ hr hg ((readA_bind hr ha _).trans <| (myCtx_bind hr _).trans ?_)
  by_cases hu : u.toNat < 4096
  · refine (check_bind_ok (decide_eq_true hu) _ _ _ s).trans (check_bind_fail ?_ _ _ _ s)
    exact beq_eq_false_iff_ne.mpr (hn.resolve_left (not_not.mpr hu))
  · exact check_bind_fail (decide_eq_false hu) _ _ _ s

/-! ## GBAR (R337, R347) -/

/-- The group of number n after one more arrival, which is a release (R337). -/
def State.arrived (s : State) (n : Nat) : Grp :=
  { s.group n with arr := (s.group n).arr + 1, stamps := (releaseAt s.cur .dev s).2.toList ++ (s.group n).stamps }

theorem execGbar_last (hu : u.toNat < 4096) (hx : x.grp = some u.toNat) (hw : x.wait = none) (hk : s.cancelled (clOf s.cur) x.job = false)
    (hl : (s.group u.toNat).arr + 1 = (s.group u.toNat).memb) :
    execGbar h a s = .next (finish s x 1 true {}
      (acquireAt s.cur (s.arrived u.toNat).stamps ((releaseAt s.cur .dev s).1.setGroup (releaseBarrier (s.arrived u.toNat))))) := by
  refine dealer_owning_quiet hr hg ((me_bind _ s).trans <| (getCtx_bind hr _).trans ?_) rfl rfl
  rw [hw]
  refine (see_bind _ _ s).trans ?_
  rw [hk, if_neg Bool.false_ne_true]
  refine (readA_bind hr ha _).trans <| (check_bind_ok (decide_eq_true hu) _ _ _ s).trans <| (check_bind_ok (beq_iff_eq.mpr hx) _ _ _ s).trans <|
    (release_bind ..).trans <| (see_bind _ _ _).trans ?_
  exact (congrFun (if_pos hl) _).trans rfl
theorem execGbar_earlier (hu : u.toNat < 4096) (hx : x.grp = some u.toNat) (hw : x.wait = none) (hk : s.cancelled (clOf s.cur) x.job = false)
    (hl : (s.group u.toNat).arr + 1 ≠ (s.group u.toNat).memb) :
    execGbar h a s = .next (waits s h 1 none (.gbar u.toNat (s.group u.toNat).gen)
      ((releaseAt s.cur .dev s).1.setGroup (s.arrived u.toNat))) := by
  refine dealer_reqs_waits hr hg (owning_error ((me_bind _ s).trans <| (getCtx_bind hr _).trans ?_)) rfl
  rw [hw]
  refine (see_bind _ _ s).trans ?_
  rw [hk, if_neg Bool.false_ne_true]
  refine (readA_bind hr ha _).trans <| (check_bind_ok (decide_eq_true hu) _ _ _ s).trans <| (check_bind_ok (beq_iff_eq.mpr hx) _ _ _ s).trans <|
    (release_bind ..).trans <| (see_bind _ _ _).trans ?_
  exact (congrFun (if_neg hl) _).trans rfl

omit ha in
/-- A waiting member goes on once the generation has changed, as an acquire of every arrival. -/
theorem execGbar_released {n gen : Nat} {w : Wait} (hw : x.wait = some w) (hk : w.kind = .gbar n gen) (hn : (s.group n).gen ≠ gen) (a : Src) :
    execGbar h a s = .next (finish s x 1 true {} (acquireAt s.cur (s.group n).past s)) := by
  refine dealer_owning_quiet hr hg ((me_bind _ s).trans <| (getCtx_bind hr _).trans ?_) rfl rfl
  rw [hw, Option.map_some, hk]
  refine (see_bind _ _ s).trans ?_
  rw [if_pos hn]
  rfl

end

/-! ## WFE and SEV (R330, R338) -/

theorem execWfe_next (he : x.event = true) : execWfe h s =
    .next (finish s x 1 true {} ((acquireAt s.cur x.evStamps s).upMe fun y => { y with event := false, evStamps := [] })) := by
  refine dealer_lastUpMe hr hg ((me_bind _ s).trans <| (getCtx_bind hr _).trans ?_) rfl
  rw [if_pos he]
  refine (bind_ok _ _ _ _ _ (dealerAcquire_run ..)).trans ?_
  refine (bind_ok _ _ _ _ _ (modCtx_run ..)).trans ?_
  rw [State.upMe, show (acquireAt s.cur x.evStamps s).mySlot = s.mySlot by simp [State.mySlot, acquireAt, mergeAt]]
  rfl
theorem execWfe_sleeps (he : x.event = false) : execWfe h s = .next (waits s h 1 none .wfe s) := by
  refine dealer_reqs_waits hr hg ((me_bind _ s).trans <| (getCtx_bind hr _).trans ?_) rfl
  rw [he]
  rfl

omit hr hg in
theorem setEvent_event (job : Nat) (p : Option Stamp) (y : Ctx) : (setEvent job p y).event = (y.event || y.job == job) := by
  unfold setEvent
  split
  · next h => simp [h]
  · next h => simp [h]
omit hr hg in
theorem setEvent_frame (job : Nat) (p : Option Stamp) (y : Ctx) :
    setEvent job p y = { y with event := (setEvent job p y).event, evStamps := (setEvent job p y).evStamps } := by
  unfold setEvent
  split <;> rfl

omit hr hg in
/-- Both slots of a tile changed by one function: each reads as changed. -/
theorem State.modCtx_both (s : State) (t : TileNo) (f : Ctx → Ctx) (c : SlotNo) :
    ((s.modCtx t 0 f).modCtx t 1 f).ctx? t c = (s.ctx? t c).map f := by
  have other : ∀ (s : State) {b c : SlotNo}, b ≠ c → (s.modCtx t b f).ctx? t c = s.ctx? t c := by
    intro s b c hbc
    unfold State.modCtx
    split
    · exact State.ctx_setSlot_ne s _ fun e => hbc (Prod.mk.inj e).2.symm
    · rfl
  match c with
  | 0 => rw [other _ (by decide), State.ctx_modCtx]
  | 1 => rw [State.ctx_modCtx, other _ (by decide)]

omit hr hg in
theorem flagged_ctx (u : TileNo) (job : Nat) (p : Option Stamp) (s : State) (c : SlotNo) :
    (flagged u job p s).ctx? u c = (s.ctx? u c).map (setEvent job p) := State.modCtx_both s u _ c

theorem execSev_next (ha : Reads s x a u) (hu : u.toNat < 384) : execSev h a s =
    .next (finish s x 1 true {} (flagged ⟨u.toNat, hu⟩ x.job (releaseAt s.cur .dev s).2 (releaseAt s.cur .dev s).1)) := by
  refine dealer_reqs hr hg ((readA_bind hr ha _).trans <| (me_bind _ s).trans <| (getCtx_bind hr _).trans ?_) ?_ 1 true none
  · exact (congrFun (dif_pos hu) s).trans <| (release_bind ..).trans rfl
  · exact (State.modCtx_reqs ..).trans <| (State.modCtx_reqs ..).trans (releaseAt_reqs ..)
theorem execSev_reservedField (ha : Reads s x a u) (hu : 384 ≤ u.toNat) : execSev h a s = .next (preciseTrap s x .reservedField u) := by
  refine dealer_trap _ _ _ _ _ _ _ _ _ hr hg ((readA_bind hr ha _).trans <| (me_bind _ s).trans <| (getCtx_bind hr _).trans ?_)
  exact (congrFun (dif_neg (Nat.not_lt.mpr hu)) s).trans rfl

end

/-- Settles O43: each instruction by its own lemma. -/
theorem groupInstructions : Obligations.GroupInstructions := by
  intro s x h a u hr hg ha
  refine ⟨⟨fun hu hx hm hj => execJoin_next hr hg ha hu hx hm hj, fun hu hx => ⟨execLeave_next hr hg ha hu hx, fun hw hk => ⟨?_, ?_⟩⟩, ?_,
    execLeave_groupLimit hr hg ha⟩, execWfe_next hr hg, execWfe_sleeps hr hg, fun hu => ?_, execSev_reservedField hr hg ha⟩
  · exact fun hl => execGbar_last hr hg ha hu hx hw hk hl
  · exact fun hl => execGbar_earlier hr hg ha hu hx hw hk hl
  · exact fun n gen w hw hk hn => execGbar_released hr hg hw hk hn a
  · refine ⟨_, execSev_next hr hg ha hu, ?_, fun c y hy => ⟨setEvent x.job (releaseAt s.cur .dev s).2 y, ?_, setEvent_event .., setEvent_frame ..⟩⟩
    · exact (State.modCtx_mem ..).trans <| (State.modCtx_mem ..).trans (releaseAt_mem ..)
    · rw [flagged_ctx, releaseAt_ctx, hy, Option.map_some]

end Sys2Proof.Machine
end

section
/-!
PROOFS. Bindings and translations (O44): QBIND of the two kinds of binding words, QUNBIND, QDEPTH, and TINV.
-/
namespace Sys2Proof.Machine
open Sys2Proof

/-! ## Changing endpoints makes no request -/

theorem State.modEp_reqs (s : State) (n : Nat) (e : Fin 8) (f : Endpoint → Endpoint) : (s.modEp n e f).reqs = s.reqs := by
  unfold State.modEp
  split <;> rfl
theorem deliverFlight_reqs (t : TileNo) (e : Fin 8) (p : Endpoint) (s : State) : (deliverFlight t e p s).reqs = s.reqs := by
  unfold deliverFlight
  split
  · rfl
  · next b _ =>
    show (if _ then s.modEp b.tile b.ep _ else s).reqs = s.reqs
    split
    · exact State.modEp_reqs ..
    · rfl
theorem unbindEp_reqs (t : TileNo) (e : Fin 8) (s : State) : (unbindEp t e s).reqs = s.reqs := by
  unfold unbindEp
  dsimp only
  split
  · rfl
  · exact (State.modEp_reqs ..).trans (deliverFlight_reqs t e (s.ep t e) s)
theorem bindEp_reqs (t : TileNo) (e : Fin 8) (b : EpBind) (s : State) : (bindEp t e b s).reqs = s.reqs := State.modEp_reqs ..
theorem unbind_reqs (t : TileNo) (b : BindWord) (s : State) : (unbind t b s).reqs = s.reqs := by
  unfold unbind
  split
  · rfl
  · exact unbindEp_reqs ..

/-! ## QBIND (R412, R413) -/

/-- A binding word and a peer word that R412 accepts. -/
theorem readBind_run {v w : Word} {b : BindWord} (hb : bindWord v.toNat w.toNat = some b) (s : State) : readBind v w s = .ok (b, s) := by
  simp only [readBind, hb]
  rfl
theorem readBind_reserved {v w : Word} (hb : bindWord v.toNat w.toNat = none) (s : State) :
    readBind v w s = .error (.trap .reservedField v ⟨0, [], s.free, s.reqs⟩) := by
  simp only [readBind, hb]
  rfl

section
variable {s : State} {x : Ctx} {h : Hd} {a c : Src} {u v : Word} {b : BindWord} (hr : Ready s x) (hg : x.pred h.guard = true)
  (ha : Reads s x a u)
include hr ha

section
variable (hc : Reads s x c v)
include hc

include hg

theorem execQbind_reserved (hb : bindWord u.toNat v.toNat = none) : execQbind h a c s = .next (preciseTrap s x .reservedField u) :=
  dealer_trap _ _ _ _ _ _ _ _ _ hr hg <| (readA_bind hr ha _).trans <| (readC_bind hr hc _).trans <|
    bind_error _ _ _ _ (readBind_reserved hb s)

/-- An arrival class of a valid inbound entry of the own job that is not bound. -/
theorem execQbind_arrival (hb : bindWord u.toNat v.toNat = some b) (hk : b.kind = 2) (hv : (s.inw b.inb).v = true)
    (hj : (s.inw b.inb).job = x.job) (hn : (s.inw b.inb).bound = false)
    (hm : (s.inw b.inb).arrk = 1 ∧ (x.sem b.sem).phaseMode = true ∨ (s.inw b.inb).arrk = 2 ∧ (x.sem b.sem).phaseMode = false) :
    execQbind h a c s = .next (finish s x 1 true {}
      (s.setInw b.inb { s.inw b.inb with bound := true, btile := s.cur, bsem := b.sem, bctx := x.num })) := by
  have own : ((s.inw b.inb).v && (s.inw b.inb).job == x.job && ((s.inw b.inb).arrk == 1 || (s.inw b.inb).arrk == 2)) = true := by
    rcases hm with ⟨hm, -⟩ | ⟨hm, -⟩ <;> simp [hv, hj, hm]
  have mode : ((x.sem b.sem).phaseMode == ((s.inw b.inb).arrk == 1)) = true := by
    rcases hm with ⟨hm, hp⟩ | ⟨hm, hp⟩ <;> simp [hm, hp]
  refine dealer_reqs hr hg ((readA_bind hr ha _).trans <| (readC_bind hr hc _).trans <| (bind_ok _ _ _ _ _ (readBind_run hb s)).trans <|
    (me_bind _ s).trans <| (getCtx_bind hr _).trans ?_) ?_ 1 true none
  · rw [if_pos hk]
    exact (see_bind _ _ s).trans <| (check_bind_ok own _ _ _ s).trans <| (check_bind_ok (by rw [hn]; rfl) _ _ _ s).trans <|
      (check_bind_ok mode _ _ _ s).trans <| (upd_bind _ _ s).trans rfl
  · rfl
/-- An endpoint that no resident context has bound, with a peer that can be reached. -/
theorem execQbind_endpoint (hb : bindWord u.toNat v.toNat = some b) (hk : b.kind ≠ 2) (hn : boundHere s s.cur b.ep = false)
    (hp : b.remote = false ∨ s.routed b.dev = true) :
    execQbind h a c s = .next (finish s x 1 true {} (bindEp s.cur b.ep
      { job := x.job, num := x.num, consumer := b.kind == 1, tile := b.tile, ep := b.rep,
        dev := if b.remote && b.dev != s.domain then some b.dev else none } (unbindEp s.cur b.ep s))) := by
  have reached : (!b.remote || s.routed b.dev) = true := by rcases hp with hp | hp <;> simp [hp]
  refine dealer_reqs hr hg ((readA_bind hr ha _).trans <| (readC_bind hr hc _).trans <| (bind_ok _ _ _ _ _ (readBind_run hb s)).trans <|
    (me_bind _ s).trans <| (getCtx_bind hr _).trans ?_) ((bindEp_reqs ..).trans (unbindEp_reqs ..)) 1 true none
  rw [if_neg hk]
  exact (see_bind _ _ s).trans <| (check_bind_ok (by rw [hn]; rfl) _ _ _ s).trans <| (see_bind _ _ s).trans <|
    (check_bind_ok reached _ _ _ s).trans <| (see_bind _ _ s).trans <| (upd_bind _ _ s).trans <| (upd_bind _ _ _).trans rfl
theorem execQbind_rebind (hb : bindWord u.toNat v.toNat = some b) (hk : b.kind ≠ 2) (hn : boundHere s s.cur b.ep = true) :
    execQbind h a c s = .next (preciseTrap s x .queueRebind u) := by
  refine dealer_trap _ _ _ _ _ _ _ _ _ hr hg ((readA_bind hr ha _).trans <| (readC_bind hr hc _).trans <| (bind_ok _ _ _ _ _ (readBind_run hb s)).trans <|
    (me_bind _ s).trans <| (getCtx_bind hr _).trans ?_)
  rw [if_neg hk]
  exact (see_bind _ _ s).trans (check_bind_fail (by rw [hn]; rfl) _ _ _ s)

end

/-! ## QUNBIND and QDEPTH (R414, R415) -/

section
variable (hb : bindWord u.toNat 0 = some b)
include hg hb

theorem execQunbind_notHeld (hh : holdsBinding s s.cur x b = false) : execQunbind h a s = .next (finish s x 1 true {} s) := by
  refine dealer_reqs hr hg ((readA_bind hr ha _).trans <| (bind_ok _ _ _ _ _ (readBind_run hb s)).trans <| (me_bind _ s).trans <|
    (getCtx_bind hr _).trans <| (see_bind _ _ s).trans ?_) rfl 1 true none
  rw [hh]
  rfl
theorem execQunbind_removes (hh : holdsBinding s s.cur x b = true) (hn : namesEp x b = false) :
    execQunbind h a s = .next (finish s x 1 true {} (unbind s.cur b s)) := by
  refine dealer_reqs hr hg ((readA_bind hr ha _).trans <| (bind_ok _ _ _ _ _ (readBind_run hb s)).trans <| (me_bind _ s).trans <|
    (getCtx_bind hr _).trans <| (see_bind _ _ s).trans ?_) (unbind_reqs ..) 1 true none
  rw [hh, hn]
  rfl
theorem execQunbind_waits (hh : holdsBinding s s.cur x b = true) (hn : namesEp x b = true) :
    execQunbind h a s = .next (waits s h 1 none (.qunbind u) s) := by
  refine dealer_reqs_waits hr hg ((readA_bind hr ha _).trans <| (bind_ok _ _ _ _ _ (readBind_run hb s)).trans <| (me_bind _ s).trans <|
    (getCtx_bind hr _).trans <| (see_bind _ _ s).trans ?_) rfl
  rw [hh, hn]
  rfl

end

include hg

theorem execQdepth_next (d : Dst) {e : Fin 8} (hu : u.toNat = e.val) :
    execQdepth h d a s = .next (finish s x 1 true { val := some (BitVec.ofNat 64 (depthWord s s.cur e x)) }
      (s.upMe (·.setDst d (BitVec.ofNat 64 (depthWord s s.cur e x))))) := by
  have he : epNo u.toNat = e := by
    apply Fin.ext
    rw [hu]
    exact Nat.mod_eq_of_lt e.isLt
  refine dealer_upMe hr hg ((readA_bind hr ha _).trans <| (check_bind_ok (decide_eq_true (hu ▸ e.isLt)) _ _ _ s).trans <| (me_bind _ s).trans <|
    (getCtx_bind hr _).trans <| (see_bind _ _ s).trans ?_) 1 true none
  rw [he]
  rfl

/-! ## TINV (R394) -/

omit hr hg ha in
/-- A page-aligned length, which is 0 only with address 0. -/
theorem tinvLength_ok (hq : v.toNat % 65536 = 0) (hv : v ≠ 0 ∨ u = 0) : (v.toNat % 65536 == 0 && (v != 0 || u == 0)) = true := by
  rw [hq]
  rcases hv with hv | hv
  · rw [bne_iff_ne.mpr hv]
    rfl
  · rw [beq_iff_eq.mpr hv, Bool.or_true]
    rfl

/-- The state after the invalidation step of a TINV, which is a release at device scope. -/
def State.invalidated (s : State) (job a n : Nat) : State := tlbInvalidate job a n (releaseAt s.cur .dev s).1

section
variable (hc : Reads s x c v) (hu : u.toNat < 2 ^ 60) (hp : u.toNat % 65536 = 0) (hq : v.toNat % 65536 = 0) (hv : v ≠ 0 ∨ u = 0)
include hc hu hp hq hv

theorem execTinv_next (hn : pinsOver (s.invalidated x.job u.toNat v.toNat) x.job u.toNat v.toNat = []) :
    execTinv h a c s = .next (finish s x 1 true {} (acquireAt s.cur [] (s.invalidated x.job u.toNat v.toNat))) := by
  have hs : (spaceOf u == 0) = true := beq_iff_eq.mpr (Nat.div_eq_of_lt hu)
  have hl := tinvLength_ok hq hv
  refine dealer_reqs hr hg ((readA_bind hr ha _).trans <| (check_bind_ok hs _ _ _ s).trans <| (check_bind_ok (beq_iff_eq.mpr hp) _ _ _ s).trans <|
    (readC_bind hr hc _).trans <| (check_bind_ok hl _ _ _ s).trans <| (me_bind _ s).trans <| (getCtx_bind hr _).trans <|
    (release_bind ..).trans <| (upd_bind _ _ _).trans <| (see_bind _ _ _).trans ?_) ?_ 1 true none
  · exact (congrFun (if_pos (List.isEmpty_iff.mpr hn)) _).trans rfl
  · rfl
theorem execTinv_waits (hn : pinsOver (s.invalidated x.job u.toNat v.toNat) x.job u.toNat v.toNat ≠ []) :
    execTinv h a c s = .next (waits s h 1 none (.tinv (pinsOver (s.invalidated x.job u.toNat v.toNat) x.job u.toNat v.toNat))
      (s.invalidated x.job u.toNat v.toNat)) := by
  have hs : (spaceOf u == 0) = true := beq_iff_eq.mpr (Nat.div_eq_of_lt hu)
  have hl := tinvLength_ok hq hv
  refine dealer_reqs_waits hr hg ((readA_bind hr ha _).trans <| (check_bind_ok hs _ _ _ s).trans <|
    (check_bind_ok (beq_iff_eq.mpr hp) _ _ _ s).trans <| (readC_bind hr hc _).trans <| (check_bind_ok hl _ _ _ s).trans <| (me_bind _ s).trans <|
    (getCtx_bind hr _).trans <| (release_bind ..).trans <| (upd_bind _ _ _).trans <| (see_bind _ _ _).trans ?_) ?_
  · exact (congrFun (if_neg (mt List.isEmpty_iff.mp hn)) _).trans rfl
  · rfl

end
end

/-- Settles O44: each instruction by its own lemmas. -/
theorem bindingInstructions : Obligations.BindingInstructions := by
  intro s x h d a c u v hr hg ha hc
  refine ⟨fun b hb => ⟨?_, ?_, ?_⟩, execQbind_reserved hr hg ha hc, fun b hb => ⟨?_, ?_, ?_⟩, fun e hu => execQdepth_next hr hg ha d hu,
    fun hu hp hq hv => ⟨execTinv_next hr hg ha hc hu hp hq hv, execTinv_waits hr hg ha hc hu hp hq hv⟩⟩
  · exact fun hk hv hj hn hm => execQbind_arrival hr hg ha hc hb hk hv hj hn hm
  · exact fun hk hn hp => execQbind_endpoint hr hg ha hc hb hk hn hp
  · exact fun hk hn => execQbind_rebind hr hg ha hc hb hk hn
  · exact execQunbind_notHeld hr hg ha hb
  · exact execQunbind_removes hr hg ha hb
  · exact execQunbind_waits hr hg ha hb

end Sys2Proof.Machine
end

section
/-!
PROOFS. Records and futures of the own job (O39): SPAWN of a new record, RESOLVE of an unresolved future, and AWAIT without the suspend bit. Each
instruction is run along the accesses that deliver.
-/
namespace Sys2Proof.Machine
open Sys2Proof

/-- JOIN stands in the low word of its doubleword (R310). -/
theorem bits_join (v : Nat) : bits v 0 32 = v % 4294967296 := congrArg (· % 4294967296) (Nat.div_one v)

section
variable {s s1 s3 : State} {x : Ctx} {h : Hd} {a c : Src} {u v : Word} {pa xpa : Nat} (hr : Ready s x) (hg : x.pred h.guard = true)
  (ha : Reads s x a u)
include hr hg ha

/-! ## SPAWN (R331) -/

section
variable {r0 : State} (hop : Runs (operandPlace s.cur x u 64 true) s pa s1) (ht : Runs (eccTouch s.cur s.mySlot x u (pa + 16) 8) s1 () r0)
  (hn : recState (releaseAt s.cur .dev r0).1 pa = 0)
include hop ht hn

/-- In a cancelled job the new record is retired (R327). -/
theorem execSpawn_cancelled (hk : (releaseAt s.cur .dev r0).1.cancelled (clOf s.cur) x.job = true)
    (hp : Pays s x (ownWrites s.cur x s (setRecDw pa 2 (withRetired (recDw (releaseAt s.cur .dev r0).1 pa 2) 0x36)
      (releaseAt s.cur .dev r0).1)) s3) :
    execSpawn h a s = .next (finish s x 1 true {} s3) := by
  refine dealer_owning hr hg ((readA_bind hr ha _).trans <| (me_bind _ s).trans <| (getCtx_bind hr _).trans <| (bind_ok _ _ _ _ _ hop).trans <|
    (bind_ok _ _ _ _ _ ht).trans <| (release_bind ..).trans <| (see_bind _ _ _).trans <| (check_bind_ok (beq_iff_eq.mpr hn) _ _ _ _).trans <|
    (see_bind _ _ _).trans <| (see_bind _ _ _).trans ?_) hp
  rw [if_pos hk]
  rfl

/-- The state in which a SPAWN has written job, group and parent of its record and counted it in its grid (R317, R331). -/
def spawnedIn (t : TileNo) (job pa parent : Nat) (s : State) : State :=
  gridUp t job parent (setRecDw pa 4 parent (setRecDw pa 3 (job % 4294967296 + 4294967296 * 0xFFFFFFFF) s))

variable (hk : (releaseAt s.cur .dev r0).1.cancelled (clOf s.cur) x.job = false) {r2 q2 : State}
  (ho : Runs (ownParent s.cur s.mySlot x) (releaseAt s.cur .dev r0).1 () r2)
  (hc : Runs (carry pa (releaseAt s.cur .dev r0).2) (spawnedIn s.cur x.job pa (((runningRec r2 x).map (recParent r2)).getD 0) r2) () q2)
include hk ho hc

/-- A record that waits for others is parked. -/
theorem execSpawn_parked (hj : recDw (releaseAt s.cur .dev r0).1 pa 2 % 4294967296 ≠ 0)
    (hp : Pays s x (ownWrites s.cur x s (setRecDw pa 2 (spawnFlags (recDw (releaseAt s.cur .dev r0).1 pa 2)
      ((releaseAt s.cur .dev r0).1.timed x.job) 1) q2)) s3) :
    execSpawn h a s = .next (finish s x 1 true {} s3) := by
  refine dealer_owning hr hg ((readA_bind hr ha _).trans <| (me_bind _ s).trans <| (getCtx_bind hr _).trans <| (bind_ok _ _ _ _ _ hop).trans <|
    (bind_ok _ _ _ _ _ ht).trans <| (release_bind ..).trans <| (see_bind _ _ _).trans <| (check_bind_ok (beq_iff_eq.mpr hn) _ _ _ _).trans <|
    (see_bind _ _ _).trans <| (see_bind _ _ _).trans ?_) hp
  rw [hk, if_neg Bool.false_ne_true]
  refine (see_bind _ _ _).trans <| (bind_ok _ _ _ _ _ ho).trans <| (see_bind _ _ _).trans <| (upd_bind _ _ _).trans <| (upd_bind _ _ _).trans <|
    (upd_bind _ _ _).trans <| (bind_ok _ _ _ _ _ hc).trans ?_
  rw [bits_join, if_neg hj]
  rfl

/-- A record that waits for none is queued and pushed. -/
theorem execSpawn_queued (hj : recDw (releaseAt s.cur .dev r0).1 pa 2 % 4294967296 = 0) {q3 : State}
    (hq : ownerPush s.cur x.job ((releaseAt s.cur .dev r0).1.timed x.job)
      (recPrio (setRecDw pa 2 (spawnFlags (recDw (releaseAt s.cur .dev r0).1 pa 2) ((releaseAt s.cur .dev r0).1.timed x.job) 2) q2) pa) u
      (setRecDw pa 2 (spawnFlags (recDw (releaseAt s.cur .dev r0).1 pa 2) ((releaseAt s.cur .dev r0).1.timed x.job) 2) q2) = some q3)
    (hp : Pays s x (ownWrites s.cur x s q3) s3) :
    execSpawn h a s = .next (finish s x 1 true {} s3) := by
  refine dealer_owning hr hg ((readA_bind hr ha _).trans <| (me_bind _ s).trans <| (getCtx_bind hr _).trans <| (bind_ok _ _ _ _ _ hop).trans <|
    (bind_ok _ _ _ _ _ ht).trans <| (release_bind ..).trans <| (see_bind _ _ _).trans <| (check_bind_ok (beq_iff_eq.mpr hn) _ _ _ _).trans <|
    (see_bind _ _ _).trans <| (see_bind _ _ _).trans ?_) hp
  rw [hk, if_neg Bool.false_ne_true]
  refine (see_bind _ _ _).trans <| (bind_ok _ _ _ _ _ ho).trans <| (see_bind _ _ _).trans <| (upd_bind _ _ _).trans <| (upd_bind _ _ _).trans <|
    (upd_bind _ _ _).trans <| (bind_ok _ _ _ _ _ hc).trans ?_
  rw [bits_join, if_pos hj]
  refine (upd_bind _ _ _).trans <| (see_bind _ _ _).trans ?_
  rw [hq]
  rfl

end

/-! ## RESOLVE (R334) -/

variable (hv : Reads s x c v) (hop : Runs (operandPlace s.cur x u 64 true) s pa s1)
include hv hop

theorem execResolve_next {r0 r1 s2 : State} (ht : Runs (eccTouch s.cur s.mySlot x u pa 8) s1 () r0) (hf : resolveFault r0 pa = none)
    (hw : Runs (eccTouch s.cur s.mySlot x u (pa + 16) (8 * (readNat r0 pa 8 / 4 % 8))) r0 () r1)
    (hm : Runs (resolveFuture s.cur x.job x.num.toNat (fun r => trapDrop .race u 0 [r]) u pa v) r1 () s2)
    (hp : Pays s x (ownWrites s.cur x s s2) s3) : execResolve h a c s = .next (finish s x 1 true {} s3) := by
  refine dealer_owning hr hg ((readA_bind hr ha _).trans <| (readC_bind hr hv _).trans <| (me_bind _ s).trans <| (getCtx_bind hr _).trans <|
    (bind_ok _ _ _ _ _ hop).trans <| (bind_ok _ _ _ _ _ ht).trans <| (see_bind _ _ _).trans ?_) hp
  rw [hf]
  exact (see_bind _ _ _).trans <| (bind_ok _ _ _ _ _ hw).trans <| (bind_ok _ _ _ _ _ hm).trans rfl

/-! ## AWAIT (R333) -/

omit hr hg ha hv hop in
/-- The second operand of AWAIT without the suspend bit: its low bits are 0, and the rest is the record's address. -/
theorem await_operand (hv : v.toNat % 64 = 0) : v &&& ~~~63#64 = v ∧ v.getLsbD 0 = false ∧ bits v.toNat 1 5 = 0 := by
  have low : ∀ i, i < 6 → v.getLsbD i = false := by
    intro i hi
    have e : (v.toNat % 2 ^ 6).testBit i = v.getLsbD i := by rw [Nat.testBit_mod_two_pow, decide_eq_true hi, Bool.true_and]; rfl
    rw [← e, show v.toNat % 2 ^ 6 = 0 from hv, Nat.zero_testBit]
  refine ⟨?_, low 0 (by omega), by rw [bits]; omega⟩
  apply BitVec.eq_of_getLsbD_eq
  intro i hi
  rw [BitVec.getLsbD_and, BitVec.getLsbD_not, decide_eq_true hi, Bool.true_and]
  by_cases h : i < 6
  · rw [low i h, Bool.false_and]
  · have e : (63#64).getLsbD i = false := by
      rw [BitVec.getLsbD, show (63#64).toNat = 2 ^ 6 - 1 from rfl, Nat.testBit_two_pow_sub_one, decide_eq_false h]
    rw [e, Bool.not_false, Bool.and_true]

theorem execAwait_next {r0 r1 s2 s4 s5 : State} (hk : s.cancelled (clOf s.cur) x.job = false) (hv64 : v.toNat % 64 = 0)
    (ht : Runs (eccTouch s.cur s.mySlot x u pa 8) s1 () r0) (hop2 : Runs (operandPlace s.cur x v 64 true) r0 xpa s2)
    (ht2 : Runs (eccTouch s.cur s.mySlot x u (xpa + 16) 8) s2 () r1)
    (hst : recState r1 xpa = 1 ∨ (recState r1 xpa = 3 ∧ v = x.record)) (hm : Runs (register s.cur x u v pa xpa) r1 () s4)
    (hc : Runs (carry xpa (releaseAt s.cur .dev s4).2) (releaseAt s.cur .dev s4).1 () s5) (hp : Pays s x (ownWrites s.cur x s s5) s3) :
    execAwait h a c s = .next (finish s x 1 true {} s3) := by
  obtain ⟨hva, hsusp, hbits⟩ := await_operand hv64
  have hok : (bits v.toNat 1 5 == 0 && (!v.getLsbD 0 || v &&& ~~~63#64 == x.record)) = true := by rw [hbits, hsusp]; rfl
  have hstate : (recState r1 xpa == 1 || (recState r1 xpa == 3 && v == x.record)) = true := by
    rcases hst with h1 | ⟨h3, hx⟩
    · rw [h1]
      rfl
    · rw [h3, beq_iff_eq.mpr hx]
      rfl
  refine dealer_owning hr hg ((me_bind _ s).trans <| (getCtx_bind hr _).trans <| (see_bind _ _ s).trans ?_) hp
  rw [hk, if_neg Bool.false_ne_true]
  refine (readA_bind hr ha _).trans <| (readC_bind hr hv _).trans ?_
  refine (check_bind_ok hok _ _ _ _).trans ?_
  rw [hva, hsusp]
  refine (bind_ok _ _ _ _ _ hop).trans <| (bind_ok _ _ _ _ _ ht).trans <| (bind_ok _ _ _ _ _ hop2).trans <| (bind_ok _ _ _ _ _ ht2).trans <|
    (see_bind _ _ _).trans <| (check_bind_ok hstate _ _ _ _).trans <| (bind_ok _ _ _ _ _ hm).trans <| (release_bind ..).trans <|
    (bind_ok _ _ _ _ _ hc).trans ?_
  rfl

end

/-- Settles O39: each instruction by its own lemma. -/
theorem spawnsAndFutures : Obligations.SpawnsAndFutures := by
  intro s s1 s2 s3 x h a c u v pa xpa hr hg ha hv hop
  refine ⟨fun r0 ht hn => ⟨fun hk hp => ?_, fun hk r2 ho q2 hc => ⟨fun hj hp => ?_, fun hj q3 hq hp => ?_⟩⟩, ?_, ?_⟩
  · exact execSpawn_cancelled hr hg ha hop ht hn hk hp
  · exact execSpawn_parked hr hg ha hop ht hn hk ho hc hj hp
  · exact execSpawn_queued hr hg ha hop ht hn hk ho hc hj hq hp
  · exact fun r0 r1 ht hf hw hm hp => execResolve_next hr hg ha hv hop ht hf hw hm hp
  · exact fun r0 r1 s4 s5 hk h64 ht hop2 ht2 hst hm hc hp => execAwait_next hr hg ha hv hop hk h64 ht hop2 ht2 hst hm hc hp

end Sys2Proof.Machine
end

section
/-!
PROOFS. What the accesses of an instruction, its charges and its completion leave as it is: memory, the words that a later fetch may still find, the
tails of the command queues, and which slots hold a context and which of them has the dealer.
-/
namespace Sys2Proof.Machine
open Sys2Proof

/-- From x to y a tile keeps its choice of the dealer's context, and a slot that holds a context still holds one. -/
def Tile.Seated (x y : Tile) : Prop := y.cur = x.cur ∧ ∀ c, (y.slots.get c).isSome = (x.slots.get c).isSome

/-- From s to u memory, its overwritten words and the tails of the queues stay, and no context enters or leaves a slot or changes the dealer. -/
structure Upkeep (s u : State) : Prop where
  mem   : u.mem = s.mem
  hist  : u.hist = s.hist
  tails : ∀ q, (u.queue q).tail = (s.queue q).tail
  seats : ∀ t, (s.tile t).Seated (u.tile t)

/-- An effect that, where it completes, is such a step. -/
structure Upkeeps {α : Type} (m : M α) : Prop where
  step : ∀ {s a u}, m s = .ok (a, u) → Upkeep s u

theorem Tile.Seated.refl (x : Tile) : x.Seated x := ⟨rfl, fun _ => rfl⟩
theorem Tile.Seated.trans {x y z : Tile} (h : x.Seated y) (k : y.Seated z) : x.Seated z :=
  ⟨k.1.trans h.1, fun c => (k.2 c).trans (h.2 c)⟩
/-- Contexts that change in their slots. -/
theorem Tile.Seated.mapSlots (x : Tile) (f : Option Ctx → Option Ctx) (hf : ∀ o, (f o).isSome = o.isSome) :
    x.Seated { x with slots := x.slots.map f } := ⟨rfl, fun c => by rw [vec_get_map, hf]⟩

namespace Upkeep

variable {s u v : State}

theorem refl (s : State) : Upkeep s s := ⟨rfl, rfl, fun _ => rfl, fun _ => .refl _⟩
theorem trans (h : Upkeep s u) (k : Upkeep u v) : Upkeep s v :=
  ⟨k.mem.trans h.mem, k.hist.trans h.hist, fun q => (k.tails q).trans (h.tails q), fun t => (h.seats t).trans (k.seats t)⟩
theorem dealt {t : TileNo} {c : SlotNo} (h : Upkeep s u) (hd : Dealt t c s) : Dealt t c u :=
  ⟨((h.seats t).2 c).trans hd.here, (h.seats t).1.trans hd.cur⟩

/-! Single steps -/

/-- Fields that are none of the four. -/
theorem of_same (hm : u.mem = s.mem) (hh : u.hist = s.hist) (hq : u.queues = s.queues) (ht : u.tiles = s.tiles) : Upkeep s u :=
  ⟨hm, hh, fun q => by rw [State.queue, State.queue, hq], fun t => by rw [State.tile, State.tile, ht]; exact .refl _⟩
theorem setTile (s : State) {t : TileNo} {x : Tile} (h : (s.tile t).Seated x) : Upkeep s (s.setTile t x) := by
  refine ⟨rfl, rfl, fun _ => rfl, fun n => ?_⟩
  by_cases hn : t = n
  · subst hn
    rw [State.tile_setTile]
    exact h
  · rw [State.tile_setTile_ne _ _ _ _ hn]
    exact .refl _
/-- A context is put where one stands. -/
theorem setSlot {t : TileNo} {c : SlotNo} (h : (s.ctx? t c).isSome) (x : Ctx) : Upkeep s (s.setSlot t c (some x)) := by
  refine setTile s ⟨rfl, fun b => ?_⟩
  by_cases hb : c = b
  · subst hb
    rw [vec_get_set]
    exact h.symm
  · rw [vec_get_set_ne _ _ _ _ _ hb]
theorem modCtx (s : State) (t : TileNo) (c : SlotNo) (f : Ctx → Ctx) : Upkeep s (s.modCtx t c f) := by
  unfold State.modCtx
  split
  · next x hx => exact setSlot (by rw [hx]; rfl) _
  · exact refl s
theorem recorded (h : Recorded s u) : Upkeep s u := by
  obtain ⟨f, r, n, l, rfl⟩ := h
  exact of_same rfl rfl rfl rfl
theorem addErr (s : State) (r : ErrRec) : Upkeep s (s.addErr r) := recorded (State.addErr_recorded s r).1
theorem request (s : State) (h n : Nat) : Upkeep s (s.request h n) := by
  unfold State.request
  split
  · exact refl s
  · exact of_same rfl rfl rfl rfl
theorem releaseAt (t : TileNo) (sc : Scope) (s : State) : Upkeep s (releaseAt t sc s).1 := by
  cases sc with
  | tile => exact refl s
  | clu | die | dev | dom => exact setTile s ⟨rfl, fun _ => rfl⟩

/-! Energy (R424 to R426) -/

theorem markQueue (q : Fin 256) (on : Bool) (s : State) : Upkeep s (s.markQueue q on) := by
  refine ⟨rfl, rfl, fun _ => rfl, fun t => ?_⟩
  simp only [State.markQueue, State.tile, vec_get_map]
  exact .mapSlots _ _ fun o => by cases o <;> rfl
theorem setQueue (s : State) {q : Fin 256} {k : Queue} (h : k.tail = (s.queue q).tail) : Upkeep s { s with queues := s.queues.set q k } := by
  refine ⟨rfl, rfl, fun j => ?_, fun t => .refl _⟩
  by_cases hj : q = j
  · subst hj
    rw [State.queue, vec_get_set, h]
  · rw [State.queue, vec_get_set_ne _ _ _ _ _ hj]
    rfl
theorem closePeriod (q : Fin 256) (n : Nat) (s : State) : Upkeep s (s.closePeriod q n) := by
  have h : Upkeep s { s with queues := s.queues.set q (endPeriod n (s.queues.get q)) } := setQueue s rfl
  unfold State.closePeriod
  dsimp only
  split
  · exact h.trans (markQueue ..)
  · exact h
theorem settleQueue (q : Fin 256) (s : State) : Upkeep s (s.settleQueue q) := by
  unfold State.settleQueue
  split
  · split
    · exact closePeriod ..
    · exact refl s
  · exact refl s
theorem deschedule (q : Fin 256) (s : State) : Upkeep s (s.deschedule q) := by
  have h : Upkeep s { s with queues := s.queues.set q { s.queues.get q with desch := true } } := setQueue s rfl
  unfold State.deschedule
  dsimp only
  split
  · exact h.trans (markQueue ..)
  · exact refl s
theorem chargeQueue (s : State) (i : Fin 256) (k : Fin 9) (n : Nat) : Upkeep s (s.chargeQueue i k n) := by
  refine (settleQueue i s).trans ?_
  unfold State.chargeQueue
  generalize s.settleQueue i = s1
  refine (setQueue s1 ?_).trans (deschedule ..)
  rfl
theorem chargeJob (job : Nat) (k : Fin 9) (n : Nat) (s : State) : Upkeep s (s.chargeJob job k n) := by
  unfold State.chargeJob
  split
  · exact refl s
  · exact chargeQueue ..
theorem charge (t : TileNo) (c : SlotNo) (k : Fin 9) (n : Nat) (s : State) : Upkeep s (s.charge t c k n) := by
  unfold State.charge
  split
  · exact refl s
  · next x hx =>
    split
    · exact refl s
    · exact (setSlot (by rw [hx]; rfl) _).trans (chargeJob ..)
theorem modEvery (job : Nat) (num : BitVec 16) (f : Ctx → Ctx) (s : State) : Upkeep s (s.modEvery job num f) := by
  refine ⟨rfl, rfl, fun _ => rfl, fun t => ?_⟩
  simp only [State.modEvery, State.tile, vec_get_map]
  exact .mapSlots _ _ fun o => by cases o <;> rfl
theorem chargeAccess (s0 : State) (t : TileNo) (c : SlotNo) (n : Nat) (s : State) : Upkeep s (chargeAccess s0 t c n s) := by
  unfold Machine.chargeAccess
  split
  · exact refl s
  · split
    · exact refl s
    · split
      · exact refl s
      · dsimp only
        split
        · exact (modCtx ..).trans (chargeQueue ..)
        · exact (modEvery ..).trans (chargeQueue ..)

/-! Bandwidth (R418, R419) -/

theorem settleDie (d : Fin 8) (s : State) : Upkeep s (settleDie d s) := by
  obtain ⟨ds, h, -⟩ := settleDie_settled d s
  rw [h]
  exact of_same rfl rfl rfl rfl
theorem dropReq (s : State) (t : TileNo) (c : SlotNo) (w : Option (ChainNo × Nat)) : Upkeep s (s.dropReq t c w) := by
  unfold State.dropReq
  split
  · exact refl s
  · exact setTile s ⟨rfl, fun _ => rfl⟩
theorem payUnits {s0 : State} {t : TileNo} {c : SlotNo} {w : Option (ChainNo × Nat)} {job : Nat} (h : payUnits s0 t c w job s = some u) :
    Upkeep s u := by
  have cleared : ∀ z : State, Upkeep z { z with reqs := [] } := fun z => of_same rfl rfl rfl rfl
  unfold Machine.payUnits at h
  dsimp only at h
  split at h
  · cases h
    exact refl s
  · split at h
    · cases h
      exact cleared s
    · next j _ =>
      have hs := settleDie (dieNo t) s
      generalize Machine.settleDie (dieNo t) s = s1 at h hs
      split at h
      · cases h
        exact hs.trans (cleared s1)
      · split at h
        · cases h
          have hb : ∀ f, Upkeep s1 (s1.modBucket (dieNo t) j.tenant f) := fun f => of_same rfl rfl rfl rfl
          exact hs.trans ((hb _).trans ((dropReq ..).trans (cleared _)))
        · cases h
theorem settleStep {s0 : State} {t : TileNo} {c : SlotNo} {w : Option (ChainNo × Nat)} {job : Nat} (h : settleStep s0 t c w job s = some u) :
    Upkeep s u := (chargeAccess ..).trans (payUnits h)

/-! Completion (R374 to R376, R383) -/

theorem enterTrap (t : TileNo) (c : SlotNo) (k : TrapKind) (a : Cause) (p e : Word) (l : List Word) (s : State) :
    Upkeep s (enterTrap t c k a p e l s) := by
  unfold Machine.enterTrap
  split
  · exact refl s
  · next x hx =>
    split
    · exact setSlot (by rw [hx]; rfl) _
    · have h : Upkeep s { s with free := s.free + 1 } := of_same rfl rfl rfl rfl
      have hs : (({ s with free := s.free + 1 } : State).ctx? t c).isSome := by
        show (s.ctx? t c).isSome
        rw [hx]
        rfl
      exact h.trans (setSlot hs _)
theorem takePending (t : TileNo) (c : SlotNo) (s : State) : Upkeep s (takePending t c s) := by
  unfold Machine.takePending
  split
  · exact refl s
  · next x hx =>
    have h : (s.ctx? t c).isSome := by rw [hx]; rfl
    split
    · exact refl s
    · split
      · exact (setSlot h _).trans (enterTrap ..)
      · split
        · exact (setSlot h _).trans (enterTrap ..)
        · exact refl s
theorem resumeStep (t : TileNo) (c : SlotNo) (s : State) : Upkeep s (resumeStep t c s) := by
  unfold Machine.resumeStep
  split
  · exact refl s
  · next x hx =>
    split
    · exact (setSlot (by rw [hx]; rfl) _).trans (enterTrap ..)
    · exact refl s
theorem complete (t : TileNo) (c : SlotNo) (n : Nat) (a b : Bool) (e : Eff) (s : State) : Upkeep s (complete t c n a b e s) := by
  have hc := charge t c 8 1 s
  unfold Machine.complete
  generalize s.charge t c 8 1 = s1 at hc
  refine hc.trans ?_
  dsimp only
  split
  · exact refl s1
  · next x hx =>
    have h : (s1.ctx? t c).isSome := by rw [hx]; rfl
    have pending : ∀ (y : Ctx) (p q : Bool) (pc : Word), Upkeep s1
        (if p = true then Machine.enterTrap t c .dplus .step pc 0 [] (s1.setSlot t c (some y))
        else if q = true then Machine.takePending t c (s1.setSlot t c (some y)) else s1.setSlot t c (some y)) := by
      intro y p q pc
      split
      · exact (setSlot h _).trans (enterTrap ..)
      · split
        · exact (setSlot h _).trans (takePending ..)
        · exact setSlot h _
    split
    · exact setSlot h _
    · exact (setSlot h _).trans (resumeStep ..)
    · exact pending ..
    · exact pending ..
    · exact (setSlot h _).trans (enterTrap ..)

end Upkeep

/-! ## Effects -/

namespace Upkeeps

variable {α β : Type}

theorem pure (a : α) : Upkeeps (pure a : M α) := by
  refine ⟨?_⟩
  rintro s _ _ ⟨⟩
  exact .refl s
theorem bind {m : M α} {f : α → M β} (hm : Upkeeps m) (hf : ∀ a, Upkeeps (f a)) : Upkeeps (m >>= f) := by
  refine ⟨fun {s b u} h => ?_⟩
  obtain ⟨a, t, h1, h2⟩ := (bind_ok_iff m f s u b).mp h
  exact (hm.step h1).trans ((hf a).step h2)
theorem ite {p : Prop} [Decidable p] {m n : M α} (hm : Upkeeps m) (hn : Upkeeps n) : Upkeeps (if p then m else n) := by
  split
  · exact hm
  · exact hn
/-- A first effect that is made or not. -/
theorem first {p : Prop} [Decidable p] {m : M PUnit} {k : PUnit → M α} (hm : Upkeeps m) (hk : ∀ u, Upkeeps (k u)) :
    Upkeeps (if p then m >>= k else k ⟨⟩) := .ite (.bind hm hk) (hk _)
/-- An effect that never completes. -/
theorem never {m : M α} (h : ∀ s p, m s ≠ .ok p) : Upkeeps m := ⟨fun e => absurd e (h _ _)⟩
theorem trap (c : Cause) (v : Word) : Upkeeps (trap c v : M α) := never fun _ _ h => by cases h
theorem trapDrop (c : Cause) (v : Word) (n : Nat) (l : List ErrRec) : Upkeeps (trapDrop c v n l : M α) := never fun _ _ h => by cases h
theorem check (b : Bool) (c : Cause) (v : Word) : Upkeeps (check b c v) := .ite (.pure _) (.trap c v)
theorem see (f : State → α) : Upkeeps (see f) := by
  refine ⟨?_⟩
  rintro s _ _ ⟨⟩
  exact .refl s
theorem upd {f : State → State} (h : ∀ s, Upkeep s (f s)) : Upkeeps (upd f) := by
  refine ⟨?_⟩
  rintro s _ _ ⟨⟩
  exact h s
theorem drawBit : Upkeeps drawBit := by
  refine ⟨?_⟩
  rintro s _ _ ⟨⟩
  exact .of_same rfl rfl rfl rfl
theorem modCtx (t : TileNo) (c : SlotNo) (f : Ctx → Ctx) : Upkeeps (modCtx t c f) := .upd fun s => .modCtx s t c f
theorem modTile (t : TileNo) {f : Tile → Tile} (h : ∀ x, Tile.Seated x (f x)) : Upkeeps (modTile t f) := .upd fun s => .setTile s (h _)
theorem forM {γ : Type} (l : List γ) {f : γ → M PUnit} (h : ∀ a, Upkeeps (f a)) : Upkeeps (l.forM f) := by
  induction l with
  | nil => exact .pure _
  | cons a l ih => exact .bind (h a) fun _ => ih
theorem meterPa (t : TileNo) (k n : Nat) : Upkeeps (meterPa t k n) := .upd fun s => .request s _ _

/-! Translation and places (R106, R386) -/

theorem xlate (t : TileNo) (strict : Bool) (job va : Nat) : Upkeeps (xlate t strict job va) := by
  refine .bind (.see _) fun w => .bind (.see _) fun old => ?_
  have fresh : ∀ (l : Tile → List TlbEntry) (r : Except (Cause × Nat) TlbEntry), Upkeeps (w.reads.forM (fun k => Machine.meterPa t k 8) >>=
      fun _ => Machine.modTile t (fun x => { x with tlb := l x }) >>= fun _ => (Pure.pure r : M _)) := fun l r =>
    .bind (.forM _ fun _ => .meterPa t _ 8) fun _ => .bind (.modTile t fun _ => ⟨rfl, fun _ => rfl⟩) fun _ => .pure _
  cases old with
  | none => cases w.leaf <;> exact fresh _ _
  | some e =>
    cases w.leaf with
    | ok f => exact .ite (.pure _) (.bind .drawBit fun _ => .ite (.pure _) (fresh _ _))
    | error c => exact .bind .drawBit fun _ => .ite (.pure _) (fresh _ _)
theorem walkTrap (t : TileNo) (x : Ctx) (c : Cause) (e a : Word) (n : Nat) : Upkeeps (walkTrap t x c e a n : M α) :=
  .bind (.see _) fun _ => .trapDrop c e n _
theorem devPlace (t : TileNo) (x : Ctx) (a : Word) (w : Bool) : Upkeeps (devPlace t x a w) := by
  refine .bind (.xlate t x.strict x.job _) fun r => ?_
  split
  · exact .walkTrap ..
  · refine .bind (.check _ _ _) fun _ => .bind (.see _) fun g => ?_
    split
    · exact .trap _ _
    · exact .bind (.see _) fun _ => .pure _
theorem raceCheck (t : TileNo) (x : Ctx) (pa : Nat) (w a : Bool) : Upkeeps (raceCheck t x pa w a) := by
  refine .bind (.see _) fun tag => .bind (.see _) fun r => ?_
  split
  · exact .bind (.upd fun _ => .of_same rfl rfl rfl rfl) fun _ => .pure _
  · exact .bind (.see _) fun _ => .pure _
theorem raceStep (t : TileNo) (x : Ctx) (a : Word) (p : Place) (w m : Bool) : Upkeeps (raceStep t x a p w m) := by
  unfold Machine.raceStep
  split
  · refine .bind (.raceCheck ..) fun r => ?_
    split
    · exact .pure _
    · exact .trapDrop ..
  · exact .pure _
  · exact .pure _
  · exact .pure _
theorem operandPlace (t : TileNo) (x : Ctx) (a : Word) (n : Nat) (w : Bool) : Upkeeps (operandPlace t x a n w) :=
  .bind (.check _ _ _) fun _ => .bind (.check _ _ _) fun _ => .bind (.devPlace ..) fun _ => .bind (.raceStep ..) fun _ =>
    .bind (.modTile t fun _ => ⟨rfl, fun _ => rfl⟩) fun _ => .pure _

/-! Reads by hardware (R311, R347, R381) -/

theorem noteRead (t : TileNo) (c : SlotNo) (k n : Nat) : Upkeeps (noteRead t c k n) :=
  .bind (.see _) fun _ => .ite (.pure _) (.modCtx ..)
theorem eccRead (t : TileNo) (c : SlotNo) (x : Ctx) (a : Word) (k n : Nat) : Upkeeps (eccRead t c x a k n) :=
  .bind (.see _) fun _ => .ite (.see _) <| .ite (.trap _ _) <| .bind (.modCtx ..) fun _ => .bind (.upd fun s => .addErr s _) fun _ => .see _
theorem eccTouch (t : TileNo) (c : SlotNo) (x : Ctx) (a : Word) (k n : Nat) : Upkeeps (eccTouch t c x a k n) :=
  .bind (.noteRead ..) fun _ => .bind (.forM _ fun _ => .meterPa ..) fun _ => .bind (.eccRead ..) fun _ => .pure _
theorem ownTag (t : TileNo) (x : Ctx) (va : Word) (w : Bool) : Upkeeps (ownTag t x va w) := by
  have tagged : ∀ {s s' : State}, hwTag t x.job va.toNat w s = some s' → Upkeep s s' := by
    intro s s' hs
    unfold hwTag at hs
    split at hs
    · cases hs
      exact .refl s
    · dsimp only at hs
      split at hs
      · obtain ⟨v, -, rfl⟩ := Option.map_eq_some_iff.mp hs
        exact .of_same rfl rfl rfl rfl
      · cases hs
        exact .refl s
  refine ⟨fun {s a u} h => ?_⟩
  obtain ⟨r, s1, h1, h2⟩ := (bind_ok_iff _ _ s u a).mp h
  obtain ⟨rfl, rfl⟩ := Prod.mk.inj (Except.ok.inj h1)
  cases hs : hwTag t x.job va.toNat w s with
  | some s' =>
    rw [hs] at h2
    cases h2
    exact tagged hs
  | none =>
    rw [hs] at h2
    exact (Upkeeps.bind (.see _) fun _ => .trapDrop ..).step h2
theorem ownParent (t : TileNo) (c : SlotNo) (x : Ctx) : Upkeeps (ownParent t c x) := by
  refine .bind (.ownTag ..) fun _ => .bind (.see _) fun r => ?_
  split
  · exact .eccTouch ..
  · exact .pure _

end Upkeeps

end Sys2Proof.Machine
end

section
/-!
PROOFS. ENQ (O45): the entry that it writes, the tail that it advances and the grid word that it raises, each of its ends, and the step that gives a
waiting ENQ its room.
-/
namespace Sys2Proof.Machine
open Sys2Proof

/-! ## Writing where every byte has a place -/

/-- Bytes whose places follow one another are written as one run; nothing but memory and what comes with it changes. -/
theorem writeVia_run {at' : Nat → Option Nat} {a p : Nat} {bs : List Byte} (h : ∀ j, j < bs.length → at' (a + j) = some (p + j)) (s : State) :
    ∃ u, writeVia at' a bs s = some u ∧ u.mem = cellsWrite s.mem p bs := by
  induction bs generalizing a p s with
  | nil => exact ⟨s, rfl, rfl⟩
  | cons b bs ih =>
    have h0 : at' a = some p := h 0 (Nat.succ_pos _)
    obtain ⟨u, hu, hm⟩ := ih (a := a + 1) (p := p + 1) (fun j hj => by
      have := h (j + 1) (Nat.succ_lt_succ hj)
      rwa [← Nat.add_assoc, ← Nat.add_assoc, Nat.add_right_comm a, Nat.add_right_comm p] at this) (writeBytes s p [b])
    refine ⟨u, ?_, hm⟩
    rw [writeVia, h0]
    exact hu
theorem histAdd_withReqs (s : State) (l : List (Nat × Nat)) (n : Nat) : ∀ w, histAdd { s with reqs := l } w n = histAdd s w n := by
  induction n with
  | zero => exact fun _ => rfl
  | succ n ih => exact fun w => congrArg (_ :: ·) (ih (w + 4))
theorem writeBytes_withReqs (s : State) (l : List (Nat × Nat)) (k : Nat) (bs : List Byte) (m : Bool) :
    writeBytes { s with reqs := l } k bs m = { writeBytes s k bs m with reqs := l } := by
  simp only [writeBytes, histAdd_withReqs]
/-- The requests that a step has made go along. -/
theorem writeVia_withReqs (at' : Nat → Option Nat) (l : List (Nat × Nat)) (bs : List Byte) (a : Nat) (s : State) :
    writeVia at' a bs { s with reqs := l } = (writeVia at' a bs s).map fun u => { u with reqs := l } := by
  induction bs generalizing a s with
  | nil => rfl
  | cons b bs ih =>
    simp only [writeVia]
    cases at' a with
    | none => rfl
    | some k =>
      show writeVia at' (a + 1) bs (writeBytes { s with reqs := l } k [b]) = _
      rw [writeBytes_withReqs]
      exact ih (a + 1) (writeBytes s k [b])
/-- Bytes written by way of places are no part of tiles or queues. -/
theorem writeVia_frame {at' : Nat → Option Nat} {a : Nat} {bs : List Byte} {s u : State} (h : writeVia at' a bs s = some u) :
    u.tiles = s.tiles ∧ u.queues = s.queues := by
  induction bs generalizing a s with
  | nil =>
    cases h
    exact ⟨rfl, rfl⟩
  | cons b bs ih =>
    rw [writeVia] at h
    cases hk : at' a with
    | none =>
      rw [hk] at h
      cases h
    | some k =>
      rw [hk] at h
      exact ih (s := writeBytes s k [b]) h
theorem queueAt_withReqs (s : State) (l : List (Nat × Nat)) (k : Queue) (a : Nat) (w : Bool) :
    queueAt { s with reqs := l } k a w = queueAt s k a w := rfl

/-! ## The entry of a queue (R433) -/

/-- The entry of TAIL has been written; where it leads nowhere, nothing has. -/
def entryWritten (q : Fin 256) (bs : List Byte) (s : State) : State :=
  (writeVia (queueAt s (s.queue q) · true) ((s.queue q).entry (s.queue q).tail) bs s).getD s
/-- The grid in which the running record of x counts, as ENQ reads it. -/
def parentGrid (x : Ctx) (s : State) : Nat := ((runningRec s x).map (recParent s)).getD 0
/-- OUT of the grid of x goes up for a packet that starts a grid, where there is one (R317). -/
def gridRaised (t : TileNo) (x : Ctx) (bs : List Byte) (s : State) : State :=
  let parent := if startsGrid bs then parentGrid x s else 0
  if parent = 0 then s else gridUp t x.job parent (gridReq t x.job parent s)

theorem enqEntry_reqs (t : TileNo) (k : Queue) (s : State) : ∃ l, enqEntry t k s = { s with reqs := l } := by
  have req : ∀ a b, ∃ l, s.request a b = { s with reqs := l } := by
    intro a b
    unfold State.request
    split
    · exact ⟨s.reqs, rfl⟩
    · exact ⟨_, rfl⟩
  unfold enqEntry
  split
  · exact req ..
  · split
    · exact req ..
    · exact ⟨s.reqs, rfl⟩

/-- TAIL has advanced by one, and the entry is noted with the grid in which it counts, if there is one (R317, R433). -/
def Queue.tailAdvanced (parent : Nat) (k : Queue) : Queue :=
  { k with
    tail := (k.tail + 1) % 4294967296
    parents := if parent = 0 then k.parents else (k.tail, parent) :: k.parents.filter (·.1 != k.tail) }

/-- What enqueueing does once the entry is written. -/
def entryCounted (t : TileNo) (x : Ctx) (q : Fin 256) (bs : List Byte) (s : State) : State :=
  (gridRaised t x bs s).modQueue q (Queue.tailAdvanced (if startsGrid bs then parentGrid x s else 0))

/-- Enqueueing writes the entry, raises the grid and advances TAIL; l are the requests made so far. -/
theorem enqueue_eq (t : TileNo) (x : Ctx) (q : Fin 256) (bs : List Byte) (s : State) :
    ∃ l : List (Nat × Nat), enqueue t x q bs s = entryCounted t x q bs { entryWritten q bs s with reqs := l } := by
  obtain ⟨l, hl⟩ := enqEntry_reqs t (s.queue q) s
  have hv : writeVia (queueAt (enqEntry t (s.queue q) s) (s.queue q) · true) ((s.queue q).entry (s.queue q).tail) bs
      (enqEntry t (s.queue q) s) =
      (writeVia (queueAt s (s.queue q) · true) ((s.queue q).entry (s.queue q).tail) bs s).map fun u => { u with reqs := l } := by
    rw [hl, writeVia_withReqs]
    simp only [queueAt_withReqs]
  refine ⟨l, ?_⟩
  unfold enqueue entryWritten
  dsimp only
  rw [hv]
  cases writeVia (queueAt s (s.queue q) · true) ((s.queue q).entry (s.queue q).tail) bs s with
  | none =>
    dsimp only [Option.map, Option.getD]
    rw [← hl]
    generalize enqEntry t (s.queue q) s = u
    rfl
  | some u =>
    dsimp only [Option.map, Option.getD]
    rfl

theorem entryCounted_mem (t : TileNo) (x : Ctx) (q : Fin 256) (bs : List Byte) (s : State) :
    (entryCounted t x q bs s).mem = (gridRaised t x bs s).mem := rfl
theorem parentGrid_withReqs (x : Ctx) (s : State) (l : List (Nat × Nat)) : parentGrid x { s with reqs := l } = parentGrid x s := rfl

/-- Raising a grid writes its word, where it has one, and no tile or queue. -/
theorem gridUp_writes (t : TileNo) (job va : Nat) (s : State) :
    ((gridUp t job va s).tiles = s.tiles ∧ (gridUp t job va s).queues = s.queues) ∧
      ((gridUp t job va s).mem = s.mem ∨
        ∃ w v, hwXlate s job va true = some w ∧ (gridUp t job va s).mem = cellsWrite s.mem w (natLe 8 v)) := by
  unfold gridUp
  cases hw : hwXlate s job va true with
  | none => exact ⟨⟨rfl, rfl⟩, .inl rfl⟩
  | some w =>
    obtain ⟨f, r, n, l, e⟩ := noteBad_recorded t job w 8 s
    dsimp only
    rw [e]
    exact ⟨⟨rfl, rfl⟩, .inr ⟨w, _, rfl, rfl⟩⟩
theorem gridRaised_writes (t : TileNo) (x : Ctx) (bs : List Byte) (s : State) :
    ((gridRaised t x bs s).tiles = s.tiles ∧ (gridRaised t x bs s).queues = s.queues) ∧
      ((gridRaised t x bs s).mem = s.mem ∨ startsGrid bs = true ∧
        ∃ w v, hwXlate s x.job (parentGrid x s) true = some w ∧ (gridRaised t x bs s).mem = cellsWrite s.mem w (natLe 8 v)) := by
  have req : ∀ va, ∃ l, gridReq t x.job va s = { s with reqs := l } := by
    intro va
    unfold gridReq State.request
    split
    · split
      · exact ⟨s.reqs, rfl⟩
      · exact ⟨_, rfl⟩
    · exact ⟨s.reqs, rfl⟩
  by_cases hs : startsGrid bs = true
  · have hg : gridRaised t x bs s =
        if parentGrid x s = 0 then s else gridUp t x.job (parentGrid x s) (gridReq t x.job (parentGrid x s) s) := by
      simp only [gridRaised, hs, if_true]
    rw [hg]
    split
    · exact ⟨⟨rfl, rfl⟩, .inl rfl⟩
    · obtain ⟨l, hl⟩ := req (parentGrid x s)
      obtain ⟨hframe, hm⟩ := gridUp_writes t x.job (parentGrid x s) (gridReq t x.job (parentGrid x s) s)
      rw [hl] at hm hframe ⊢
      exact ⟨hframe, hm.imp id fun h => ⟨hs, h⟩⟩
  · have hg : gridRaised t x bs s = s := by
      simp only [gridRaised, hs, if_false, Bool.false_eq_true, if_true]
    rw [hg]
    exact ⟨⟨rfl, rfl⟩, .inl rfl⟩

section
variable (t : TileNo) (x : Ctx) (q : Fin 256) (bs : List Byte) (s : State)

theorem entryWritten_frame : (entryWritten q bs s).tiles = s.tiles ∧ (entryWritten q bs s).queues = s.queues := by
  unfold entryWritten
  cases h : writeVia (queueAt s (s.queue q) · true) ((s.queue q).entry (s.queue q).tail) bs s with
  | none => exact ⟨rfl, rfl⟩
  | some u => exact writeVia_frame h
theorem enqueue_tiles : (enqueue t x q bs s).tiles = s.tiles := by
  obtain ⟨l, e⟩ := enqueue_eq t x q bs s
  rw [e]
  exact (gridRaised_writes ..).1.1.trans (entryWritten_frame ..).1
/-- TAIL advances by one (R433). -/
theorem enqueue_tail : ((enqueue t x q bs s).queue q).tail = ((s.queue q).tail + 1) % 4294967296 := by
  obtain ⟨l, e⟩ := enqueue_eq t x q bs s
  have hq : (gridRaised t x bs { entryWritten q bs s with reqs := l }).queue q = s.queue q := by
    rw [State.queue, (gridRaised_writes ..).1.2]
    exact congrArg (·.get q) (entryWritten_frame ..).2
  rw [e, entryCounted, State.queue, State.modQueue, vec_get_set, Queue.tailAdvanced, hq]
/-- Of memory the entry has been written and, for a packet that starts a grid, the word of that grid. -/
theorem enqueue_mem : (enqueue t x q bs s).mem = (entryWritten q bs s).mem ∨ startsGrid bs = true ∧
    ∃ w v, hwXlate (entryWritten q bs s) x.job (parentGrid x (entryWritten q bs s)) true = some w ∧
      (enqueue t x q bs s).mem = cellsWrite (entryWritten q bs s).mem w (natLe 8 v) := by
  obtain ⟨l, e⟩ := enqueue_eq t x q bs s
  rw [e, entryCounted_mem]
  generalize entryWritten q bs s = u
  have hm := (gridRaised_writes t x bs { u with reqs := l }).2
  rwa [parentGrid_withReqs, hwXlate_reqs] at hm

end

/-! ## What stays until the entry is written, and after it -/

theorem ownLines_upkeep (t : TileNo) (x : Ctx) (s u : State) : Upkeep u (ownLines t x s u) := by
  have h : ∀ ps, Upkeep u { u with pubs := ps } := fun _ => .of_same rfl rfl rfl rfl
  exact (h _).trans (.setTile _ ⟨rfl, fun _ => rfl⟩)
theorem enqPlace_upkeeps (t : TileNo) (x : Ctx) (a : Word) : Upkeeps (enqPlace t x a) :=
  .ite (.bind (.check _ _ _) fun _ => .bind (.check _ _ _) fun _ => .bind (.see _) fun _ => .bind (.check _ _ _) fun _ => .pure _)
    (.operandPlace ..)
theorem enqFetch_upkeeps (t : TileNo) (c : SlotNo) (x : Ctx) (a : Word) (k : Nat) : Upkeeps (enqFetch t c x a k) :=
  .bind (.noteRead ..) fun _ => .first (.meterPa ..) fun _ => .bind (.eccRead ..) fun _ => .first (.ownParent ..) fun _ => .pure _
theorem readBytes_length (s : State) (n k : Nat) : (readBytes s k n).length = n := by
  induction n generalizing k with
  | zero => rfl
  | succ n ih => exact congrArg (· + 1) (ih (k + 1))

/-- An effect that, where it completes, gives n bytes. -/
structure Yields (n : Nat) (m : M (List Byte)) : Prop where
  step : ∀ {s bs u}, m s = .ok (bs, u) → bs.length = n

namespace Yields

variable {α : Type} {n : Nat}

theorem pure {bs : List Byte} (h : bs.length = n) : Yields n (pure bs : M _) := by
  refine ⟨?_⟩
  rintro s _ _ ⟨⟩
  exact h
theorem trap (c : Cause) (v : Word) : Yields n (trap c v) := ⟨fun h => by cases h⟩
theorem see {f : State → List Byte} (h : ∀ s, (f s).length = n) : Yields n (see f) := by
  refine ⟨?_⟩
  rintro s _ _ ⟨⟩
  exact h s
theorem ite {p : Prop} [Decidable p] {m k : M (List Byte)} (hm : Yields n m) (hk : Yields n k) : Yields n (if p then m else k) := by
  split
  · exact hm
  · exact hk
/-- What goes before does not matter. -/
theorem after {m : M α} {f : α → M (List Byte)} (hf : ∀ a, Yields n (f a)) : Yields n (m >>= f) := by
  refine ⟨fun {s bs u} h => ?_⟩
  obtain ⟨a, t, -, h2⟩ := (bind_ok_iff m f s u bs).mp h
  exact (hf a).step h2
theorem bind {m : M (List Byte)} {f : List Byte → M (List Byte)} (hm : Yields n m) (hf : ∀ r, r.length = n → Yields n (f r)) :
    Yields n (m >>= f) := by
  refine ⟨fun {s bs u} h => ?_⟩
  obtain ⟨a, t, h1, h2⟩ := (bind_ok_iff m f s u bs).mp h
  exact (hf a (hm.step h1)).step h2

theorem eccRead (t : TileNo) (c : SlotNo) (x : Ctx) (a : Word) (k : Nat) : Yields n (eccRead t c x a k n) :=
  .after fun _ => .ite (.see fun _ => cellsRead_length ..) <| .ite (.trap _ _) <| .after fun _ => .after fun _ =>
    .see fun _ => readBytes_length ..
theorem enqFetch (t : TileNo) (c : SlotNo) (x : Ctx) (a : Word) (k : Nat) : Yields 64 (enqFetch t c x a k) := by
  have read : Yields 64 (Machine.eccRead t c x a k 64 >>= fun bs => if startsGrid bs = true then ownParent t c x >>= fun _ => Pure.pure bs
      else Pure.pure bs) := .bind (.eccRead ..) fun _ h => .ite (.after fun _ => .pure h) (.pure h)
  exact .after fun _ => .ite (.after fun _ => read) read

end Yields

/-! ## The ends of an instruction that owes units (R374, R418) -/

section
variable {s s1 s2 s3 : State} {x : Ctx} {h : Hd} (hr : Ready s x) (hg : x.pred h.guard = true)
include hr

/-- A precise cause that comes once units are owed is taken when they are paid. -/
theorem dealer_traps {eff : M Eff} {c : Cause} {v : Word} {d : Side} (hg : x.pred h.guard = true) (he : eff s = .error (.trap c v d))
    (hp : Pays s x (applySide s.cur s.mySlot d s) s2) :
    dealer h eff s 1 true = .next (enterTrap s.cur s.mySlot .d c x.pc v [] s2) := by
  have h1 : s.ctx? s.cur (s.tile s.cur).cur = some x := hr.here
  have h2 : settleStep s s.cur (s.tile s.cur).cur none x.job (applySide s.cur (s.tile s.cur).cur d s) = some s2 := hp
  simp only [dealer, h1, hr.runs, hg, if_true, runEff, he, paidOr, h2]
  rfl
/-- A wait that begins with units owed begins once they are paid. -/
theorem dealer_waits {eff : M Eff} {k : WaitKind} (hg : x.pred h.guard = true) (he : eff s = .error (.wait k s1)) (hp : Pays s x s1 s2) :
    dealer h eff s 1 true = .next (waits s h 1 none k s2) := by
  have h1 : s.ctx? s.cur (s.tile s.cur).cur = some x := hr.here
  have h2 : settleStep s s.cur (s.tile s.cur).cur none x.job s1 = some s2 := hp
  simp only [dealer, h1, hr.runs, hg, if_true, runEff, he, paidOr, h2]
  rfl
theorem owningArea_run {m : M Eff} {e : Eff} (hm : m s = .ok (e, s1)) : owningArea m s = .ok (e, ownLines s.cur x s s1) := by
  have hx : s.ctx? s.cur (s.tile s.cur).cur = some x := hr.here
  simp only [owningArea, owningBy, hm, hx]
omit hr in
theorem owningArea_error {m : M Eff} {e : Exit} (hm : m s = .error e) : owningArea m s = .error e := by
  simp only [owningArea, owningBy, hm]

/-! ## ENQ (R332) -/

section
variable {a c : Src} {u v : Word} {pa : Nat} (ha : Reads s x a u) (hc : Reads s x c v)
include hg ha hc

theorem execEnq_reserved (hv : 256 ≤ v.toNat) : execEnq h a c s = .next (preciseTrap s x .reservedField u) := by
  refine dealer_trap _ _ _ _ _ _ _ _ _ hr hg (owningArea_error ((readA_bind hr ha _).trans <| (readC_bind hr hc _).trans <|
    (me_bind _ s).trans <| (getCtx_bind hr _).trans ?_))
  exact congrFun (dif_neg (Nat.not_lt.mpr hv)) s

variable (hq : v.toNat < 256) (hop : Runs (enqPlace s.cur x u) s pa s1)
include hop

/-- A queue that is closed to the job. -/
theorem execEnq_closed (ho : openTo (s1.queue ⟨v.toNat, hq⟩) x.job = false)
    (hp : Pays s x (applySide s.cur s.mySlot ⟨0, [], s1.free, s1.reqs⟩ s) s2) :
    execEnq h a c s = .next (enterTrap s.cur s.mySlot .d .priv x.pc u [] s2) := by
  refine dealer_traps hr hg (owningArea_error ((readA_bind hr ha _).trans <| (readC_bind hr hc _).trans <| (me_bind _ s).trans <|
    (getCtx_bind hr _).trans ?_)) hp
  refine (congrFun (dif_pos hq) s).trans <| (bind_ok _ _ _ _ _ hop).trans <| (see_bind _ _ _).trans ?_
  exact check_bind_fail ho _ _ _ _

variable (ho : openTo (s1.queue ⟨v.toNat, hq⟩) x.job = true)
include ho

/-- In a cancelled job the packet is dropped (R327). -/
theorem execEnq_cancelled (hk : (releaseAt s.cur .dev s1).1.cancelled (clOf s.cur) x.job = true)
    (hp : Pays s x (releaseAt s.cur .dev s1).1 s2) : execEnq h a c s = .next (finish s x 1 true {} s2) := by
  have hh : (releaseAt s.cur .dev s1).1.hist = s.hist := (((enqPlace_upkeeps ..).step hop).trans (.releaseAt ..)).hist
  refine dealer_done _ _ _ _ _ _ _ _ (releaseAt s.cur .dev s1).1 _ hr hg ((owningArea_run hr ((readA_bind hr ha _).trans <|
    (readC_bind hr hc _).trans <| (me_bind _ s).trans <| (getCtx_bind hr _).trans ?_)).trans (by rw [ownLines_none _ _ _ _ hh])) hp
  refine (congrFun (dif_pos hq) s).trans <| (bind_ok _ _ _ _ _ hop).trans <| (see_bind _ _ _).trans <| (check_bind_ok ho _ _ _ _).trans <|
    (release_bind ..).trans <| (see_bind _ _ _).trans ?_
  rw [if_pos hk]
  rfl

variable (hk : (releaseAt s.cur .dev s1).1.cancelled (clOf s.cur) x.job = false)
include hk

theorem execEnq_waits (hf : queueFull ((releaseAt s.cur .dev s1).1.queue ⟨v.toNat, hq⟩) = true) (hp : Pays s x (releaseAt s.cur .dev s1).1 s2) :
    execEnq h a c s = .next (waits s h 1 none (.enq (BitVec.ofNat 64 pa) v) s2) := by
  refine dealer_waits hr hg (owningArea_error ((readA_bind hr ha _).trans <| (readC_bind hr hc _).trans <| (me_bind _ s).trans <|
    (getCtx_bind hr _).trans ?_)) hp
  refine (congrFun (dif_pos hq) s).trans <| (bind_ok _ _ _ _ _ hop).trans <| (see_bind _ _ _).trans <| (check_bind_ok ho _ _ _ _).trans <|
    (release_bind ..).trans <| (see_bind _ _ _).trans ?_
  rw [hk, if_neg Bool.false_ne_true]
  refine (see_bind _ _ _).trans ?_
  rw [if_pos hf]
  rfl

/-- With room the packet is placed. -/
theorem execEnq_placed {bs : List Byte} (hf : queueFull ((releaseAt s.cur .dev s1).1.queue ⟨v.toNat, hq⟩) = false)
    (hb : Runs (enqFetch s.cur s.mySlot x u pa) (releaseAt s.cur .dev s1).1 bs s2)
    (hp : Pays s x (ownLines s.cur x s (enqueue s.cur x ⟨v.toNat, hq⟩ bs s2)) s3) : execEnq h a c s = .next (finish s x 1 true {} s3) := by
  refine dealer_done _ _ _ _ _ _ _ _ _ _ hr hg (owningArea_run hr ((readA_bind hr ha _).trans <| (readC_bind hr hc _).trans <|
    (me_bind _ s).trans <| (getCtx_bind hr _).trans ?_)) hp
  refine (congrFun (dif_pos hq) s).trans <| (bind_ok _ _ _ _ _ hop).trans <| (see_bind _ _ _).trans <| (check_bind_ok ho _ _ _ _).trans <|
    (release_bind ..).trans <| (see_bind _ _ _).trans ?_
  rw [hk, if_neg Bool.false_ne_true]
  refine (see_bind _ _ _).trans ?_
  rw [hf, if_neg Bool.false_ne_true]
  exact (bind_ok _ _ _ _ _ hb).trans <| (upd_bind _ _ _).trans rfl

end

omit hr in
/-- From the enqueued packet to the end of the instruction. -/
theorem enqueued_upkeep {q : Fin 256} {bs : List Byte} (hp : Pays s x (ownLines s.cur x s (enqueue s.cur x q bs s2)) s3) :
    Upkeep (enqueue s.cur x q bs s2) (finish s x 1 true {} s3) :=
  ((ownLines_upkeep ..).trans (.settleStep hp)).trans (.complete ..)

omit hr in
/-- ENQ_QUEUE_ROOM places the packet of a waiting ENQ (R332). -/
theorem enqQueueRoom_wakes {s4 s5 : State} {t : TileNo} {k : SlotNo} {y : Ctx} {w : Wait} {q b : Word} {bs : List Byte} (hq : q.toNat < 256)
    (hy : s.ctx? t k = some y) (hw : y.wait = some w) (hcur : (s.tile t).cur = k) (hk : w.kind = .enq b q)
    (hcl : s.cancelled (clOf t) y.job = false) (hf : queueFull (s.queue ⟨q.toNat, hq⟩) = false)
    (hb : Runs (enqFetch t k y y.pc b.toNat) s bs s4)
    (hp : settleStep s t k none y.job (ownLines t y s (enqueue t y ⟨q.toNat, hq⟩ bs s4)) = some s5) :
    exec (.enqQueueRoom t k) s = .next (wake t k w {} s5) := by
  have hd : Dealt t k s := ⟨by rw [hy]; rfl, hcur⟩
  have hfetch : Upkeep s s4 := (enqFetch_upkeeps ..).step hb
  have hput : Dealt t k (enqueue t y ⟨q.toNat, hq⟩ bs s4) :=
    (hfetch.dealt hd).of_tile (by rw [State.tile, enqueue_tiles]; rfl) (by rw [State.tile, enqueue_tiles]; rfl)
  have hend : Dealt t k s5 := ((ownLines_upkeep t y s _).trans (.settleStep hp)).dealt hput
  have hpay : paying t k none y.job (upd fun _ => ownLines t y s (enqueue t y ⟨q.toNat, hq⟩ bs s4)) s = .ok ((), s5) := by
    simp only [paying, upd_run, hp]
  refine agent_wakes ((wait_bind hy hw _).trans ?_) hend
  simp only [hk]
  refine (see_bind _ _ s).trans ?_
  rw [hcl, if_neg Bool.false_ne_true]
  have hno : queueNo q.toNat s = .ok (⟨q.toNat, hq⟩, s) := congrFun (dif_pos hq) s
  have hon : onDealer t k s = .ok ((), s) := (see_bind _ _ s).trans (by rw [hcur, beq_self_eq_true]; rfl)
  refine (bind_ok _ _ _ _ _ hno).trans <| (see_bind _ _ s).trans <| (enabled_bind (by rw [hf]; rfl) _ s).trans <|
    (bind_ok _ _ _ _ _ hon).trans <| (see_bind _ _ s).trans ?_
  have hb' : enqFetch t k y y.pc b.toNat s = .ok (bs, s4) := hb
  simp only [id, hb']
  exact bind_ok _ _ _ _ _ hpay

end

/-- Settles O45: each end of ENQ by its own lemma; what is written is the entry and, for a packet that starts a grid, the grid's word. -/
theorem queuedPackets : Obligations.QueuedPackets := by
  intro s s1 s2 s3 x h a c u v pa hr hg ha hc
  refine ⟨fun hq hop => ⟨fun ho hp => execEnq_closed hr hg ha hc hq hop ho hp, fun ho => ⟨fun hk hp => execEnq_cancelled hr hg ha hc hq hop ho hk hp,
    fun hk hf hp => execEnq_waits hr hg ha hc hq hop ho hk hf hp, fun hk hf bs hb hp => ⟨execEnq_placed hr hg ha hc hq hop ho hk hf hb hp, ?_⟩⟩⟩,
    execEnq_reserved hr hg ha hc, fun t k y w q hq b bs s4 s5 hy hw hcur hk hcl hf hb hp =>
      enqQueueRoom_wakes hq hy hw hcur hk hcl hf hb hp⟩
  have before : Upkeep s s2 := (((enqPlace_upkeeps ..).step hop).trans (.releaseAt ..)).trans ((enqFetch_upkeeps ..).step hb)
  have after := enqueued_upkeep hp
  have len : bs.length = 64 := (Yields.enqFetch ..).step hb
  refine ⟨(after.tails _).trans (enqueue_tail ..), fun hs p hat => ?_⟩
  have hs2 : Memory.wf s2.mem = true := by rw [before.mem]; exact hs
  obtain ⟨z, hz, hzm⟩ := writeVia_run (at' := (queueAt s2 (s2.queue ⟨v.toNat, hq⟩) · true)) (fun j hj => hat j (len ▸ hj)) s2
  have written : entryWritten ⟨v.toNat, hq⟩ bs s2 = z := by
    unfold entryWritten
    rw [hz]
    rfl
  have put := enqueue_mem s.cur x ⟨v.toNat, hq⟩ bs s2
  rw [written, hzm, ← after.mem] at put
  refine ⟨fun hn => ?_, fun j hj hgrid => ?_⟩
  · have hm : (finish s x 1 true {} s3).mem = cellsWrite s.mem p bs := by
      rcases put with hm | ⟨hst, -⟩
      · rw [hm, before.mem]
      · rw [hn] at hst
        cases hst
    exact ⟨cellsRead_written hs hm len, .cellsWrite hs hm len⟩
  · have entry : cellGet (cellsWrite s2.mem p bs) j = cellGet s.mem j := by
      rw [cellGet_cellsWrite_out _ _ _ _ hs2 (by omega), before.mem]
    rcases put with hm | ⟨-, w, val, hw, hm⟩
    · rw [hm, entry]
    · have hout := hgrid w (by rw [← written] at hw; exact hw)
      rw [hm, cellGet_cellsWrite_out _ _ _ _ (cellsWrite_wf _ _ _ hs2) (by rw [natLe_length]; omega), entry]

end Sys2Proof.Machine
end

section
/-!
PROOFS. O40 fails where memory is not in its canonical form (log 3), which its clause on decrements does not ask for: the write of doubleword 2 of a
record may then uncover a cell of its STATE, and the decrement, which looks at STATE after the write, pushes a record that was not PARKED before it.
-/
namespace Sys2Proof.Machine
open Sys2Proof

/-! ## A hidden STATE (log 3) -/

/-- A record at 0x80 of job 7, whose first page is mapped, with JOIN 1 and two cells of the byte that holds STATE: NEW is read, and PARKED stands behind it. -/
def hiddenParked : State :=
  { State.reset with
    jobs := [{ id := 7, ptbase := 0x1000, tenant := 0, queue := 0 }]
    mem := [(0x90, 1), (0x94, 0), (0x94, 0x10), (0x1000, 0x1F)] }

/-- The race that no resolver meets here. -/
def noRace (_ : ErrRec) : M Unit := pure ()

/-- The decrement finds the record PARKED once it has written JOIN 0, and pushes it: STATE becomes QUEUED. -/
theorem resolveWaiter_pushes_hiddenParked {t : State} (h : Runs (resolveWaiter 0 7 1 noRace 0 0x80) hiddenParked () t) :
    cellGet t.mem 0x94 = 0x20 := by
  have run : (match resolveWaiter 0 7 1 noRace 0 0x80 hiddenParked with
    | .ok (_, t) => some (cellGet t.mem 0x94)
    | .error _ => none) = some 0x20 := by decide +kernel
  have hr : resolveWaiter 0 7 1 noRace 0 0x80 hiddenParked = .ok ((), t) := h
  rw [hr] at run
  exact Option.some.inj run

/-- Only the write of JOIN 0 leaves STATE as it was uncovered, PARKED. -/
theorem setRecDw_hiddenParked {r : State} (h : r.mem = hiddenParked.mem) : cellGet (setRecDw 0x80 2 0 r).mem 0x94 = 0x10 := by
  have hm : (setRecDw 0x80 2 0 r).mem = cellsWrite hiddenParked.mem 0x90 (natLe 8 0) := by
    rw [← h]
    rfl
  rw [hm]
  decide

/-- Refutes O40: the record of `hiddenParked` is NEW, so that its decrement should only write its JOIN, and it is pushed. -/
theorem not_futureStates : ¬ Obligations.FutureStates := by
  intro h
  obtain ⟨-, -, -, hdecr⟩ := h
  have tagged : (hwTag 0 7 0x80 true hiddenParked).isSome = true := by decide
  obtain ⟨r, hr⟩ := Option.isSome_iff_exists.mp tagged
  obtain ⟨r1, hmem, -, hstep⟩ := hdecr hiddenParked r 0 7 1 noRace 0 0x80 0x80 (by decide) (by decide) (by decide) (by decide) (by decide) hr
  have joined : recDw hiddenParked 0x80 2 = 1 := by decide
  rw [joined] at hstep
  obtain ⟨hrest, -⟩ := hstep (by decide)
  have written := hrest fun hlast => by
    obtain ⟨-, hst, -⟩ := hlast
    exact absurd hst (by decide)
  have h20 := resolveWaiter_pushes_hiddenParked written
  rw [setRecDw_hiddenParked hmem] at h20
  exact absurd h20 (by decide)

end Sys2Proof.Machine
end

section
/-!
PROOFS. Atomics (O29): each along its place, its access and its acquire; and, on readable bytes of the own scratchpad, what it leaves in memory and in
its context.
-/
namespace Sys2Proof.Machine
open Sys2Proof

/-! ## Any space (R362, R363) -/

/-- The old value as d takes it. -/
def amoResult (word : Bool) (old : Nat) : Word := if word then (BitVec.ofNat 32 old).signExtend 64 else BitVec.ofNat 64 old
theorem amoResult_eq (word : Bool) (old : Nat) :
    (if word then sx32 (BitVec.ofNat 64 old) else BitVec.ofNat 64 old) = amoResult word old := by
  unfold amoResult
  split
  · have e : (BitVec.ofNat 64 old).truncate 32 = BitVec.ofNat 32 old := by
      apply BitVec.eq_of_toNat_eq
      simp only [BitVec.truncate, BitVec.toNat_setWidth, BitVec.toNat_ofNat]
      omega
    rw [sx32, e]
  · rfl

/-- The bytes of an atomic. -/
def amoSize (word : Bool) : Nat := if word then 4 else 8
/-- The operand of an atomic on n bytes, in d. -/
def amoOperand (x : Ctx) (d : Fin 48) (n : Nat) : Nat := (x.regs.get d).toNat % 2 ^ (8 * n)
/-- The new value of AMOCAS on n bytes, in the register after d. -/
def amoSwapped (x : Ctx) (d : Fin 48) (n : Nat) : Nat := (x.regs.toList[d.val + 1]?.getD 0).toNat % 2 ^ (8 * n)

section
variable {s s1 s2 s3 s4 : State} {x : Ctx} {h : Hd} {a : Src} {u : Word} {word : Bool} {op old : Nat} {sc : Scope} {ord : Order}
  {d : Fin 48} {p : Place} {ps : List Pub}

theorem amoOp_done (hr : Ready s x) (hg : x.pred h.guard = true) (ha : Reads s x a u)
    (hp : Runs (amoPlace s.cur x u sc (amoSize word)) s p s1)
    (hm : Runs (amoAccess s.cur s.mySlot x u p op (amoSize word) sc ord (amoOperand x d (amoSize word)) (amoSwapped x d (amoSize word)))
      s1 (old, ps) s2)
    (hq : Runs (amoAcquire s.cur sc ord ps) s2 () s3) (hpay : Pays s x (s3.upMe (·.setReg d (amoResult word old))) s4) :
    amoOp h word sc ord d a op s = .next (finish s x 1 true { val := some (amoResult word old) } s4) := by
  refine dealer_done _ _ _ _ _ _ _ _ _ _ hr hg ((readA_bind hr ha _).trans <| (me_bind _ s).trans <| (getCtx_bind hr _).trans <|
    (bind_ok _ _ _ _ _ hp).trans <| (bind_ok _ _ _ _ _ hm).trans <| (bind_ok _ _ _ _ _ hq).trans ?_) hpay
  rw [amoResult_eq]
  rfl

end

/-! ## What an atomic may change beside its bytes -/

/-- A state u of an atomic that began in s: its memory is m, the units owed and the dealer are those of s, and the context differs from x in the
releases that it has seen. -/
structure Held (s : State) (x : Ctx) (m : List Host.Cell) (u : State) : Prop where
  mem  : u.mem = m
  reqs : u.reqs = s.reqs
  cur  : u.cur = s.cur
  slot : (u.tile s.cur).cur = s.mySlot
  ctx  : ∃ ps, u.ctx? s.cur s.mySlot = some { x with seen := ps }

section
variable {s u v : State} {x : Ctx} {m : List Host.Cell}

theorem Held.start (hr : Ready s x) : Held s x s.mem s := ⟨rfl, rfl, rfl, rfl, x.seen, hr.here⟩
/-- Fields that are none of these; memory may become another one. -/
theorem Held.of_same (H : Held s x m u) {m' : List Host.Cell} (hm : v.mem = m') (hq : v.reqs = u.reqs) (hc : v.cur = u.cur)
    (ht : v.tiles = u.tiles) : Held s x m' v := by
  have tile : ∀ t, v.tile t = u.tile t := fun t => congrArg (·.get t) ht
  exact ⟨hm, hq.trans H.reqs, hc.trans H.cur, by rw [tile]; exact H.slot, by rw [State.ctx?, tile]; exact H.ctx⟩
/-- A part of the tile that is neither its slots nor the choice of its dealer. -/
theorem Held.setTile (H : Held s x m u) {y : Tile} (hs : y.slots = (u.tile s.cur).slots) (hc : y.cur = (u.tile s.cur).cur) :
    Held s x m (u.setTile s.cur y) :=
  ⟨H.mem, H.reqs, H.cur, by rw [State.tile_setTile, hc]; exact H.slot, by rw [State.ctx?, State.tile_setTile, hs]; exact H.ctx⟩
theorem Held.mergeAt (H : Held s x m u) (ps : List Stamp) : Held s x m (mergeAt s.cur ps u) := H.setTile rfl rfl
theorem Held.releaseAt (H : Held s x m u) (sc : Scope) : Held s x m (releaseAt s.cur sc u).1 := by
  cases sc with
  | tile => exact H
  | clu | die | dev | dom => exact H.setTile rfl rfl


/-- An effect that, begun in a state that s holds with memory m, completes in one that it holds with memory m'. -/
structure Passes {α : Type} (s : State) (x : Ctx) (m m' : List Host.Cell) (e : M α) : Prop where
  step : ∀ u, Held s x m u → ∃ a v, e u = .ok (a, v) ∧ Held s x m' v

namespace Passes

variable {α β : Type} {m' m'' : List Host.Cell}

theorem pure (a : α) : Passes s x m m (pure a : M α) := ⟨fun _ H => ⟨a, _, rfl, H⟩⟩
theorem see (f : State → α) : Passes s x m m (see f) := ⟨fun _ H => ⟨_, _, rfl, H⟩⟩
theorem upd {f : State → State} (h : ∀ u, Held s x m u → Held s x m' (f u)) : Passes s x m m' (upd f) := ⟨fun u H => ⟨⟨⟩, _, rfl, h u H⟩⟩
theorem bind {e : M α} {f : α → M β} (he : Passes s x m m' e) (hf : ∀ a, Passes s x m' m'' (f a)) : Passes s x m m'' (e >>= f) := by
  refine ⟨fun u H => ?_⟩
  obtain ⟨a, v, h1, H1⟩ := he.step u H
  obtain ⟨b, w, h2, H2⟩ := (hf a).step v H1
  exact ⟨b, w, (bind_ok _ _ _ _ _ h1).trans h2, H2⟩
theorem ite {c : Prop} [Decidable c] {e f : M α} (he : Passes s x m m' e) (hf : Passes s x m m' f) :
    Passes s x m m' (if c then e else f) := by
  split
  · exact he
  · exact hf

/-! The parts of an atomic (R347, R348, R354, R363) -/

theorem noteFences (ps : List Pub) : Passes s x m m (noteFences s.cur s.mySlot ps) := by
  refine .ite (.pure _) (.upd fun _ H => ?_)
  obtain ⟨qs, hq⟩ := H.ctx
  exact ⟨(State.modCtx_mem ..).trans H.mem, (State.modCtx_reqs ..).trans H.reqs, (State.modCtx_cur ..).trans H.cur,
    (State.modCtx_tile_cur ..).trans H.slot, _, (State.ctx_modCtx ..).trans (congrArg (Option.map _) hq)⟩
theorem release (sc : Scope) : Passes s x m m (release s.cur sc) := ⟨fun _ H => ⟨_, _, rfl, H.releaseAt sc⟩⟩
theorem placeWrite (o : Nat) (bs : List Byte) : Passes s x m (cellsWrite m (spAt s.cur o) bs) (placeWrite s.cur x (.pad s.cur o) bs true) :=
  .bind (.upd fun _ H => H.of_same (congrArg (cellsWrite · (spAt s.cur o) bs) H.mem) rfl rfl rfl) fun _ =>
    .ite (.pure _) (.upd fun _ H => H.of_same H.mem rfl rfl rfl)
theorem publishAtomic (k n : Nat) (sc : Scope) (r : Option Stamp) : Passes s x m m (Machine.upd (publishAtomic s.cur k n sc r)) :=
  .upd fun _ H => H.of_same H.mem rfl rfl rfl
theorem mergeStamps (ps : List Stamp) : Passes s x m m (mergeStamps s.cur ps) := .upd fun _ H => H.mergeAt ps
theorem soEnter (sc : Scope) (p : Option Stamp) : Passes s x m m (soEnter s.cur sc p) := by
  refine .bind (.see _) fun _ => .bind (.mergeStamps _) fun _ => ?_
  cases p with
  | none => exact .pure _
  | some p => exact .upd fun _ H => H.of_same H.mem rfl rfl rfl
theorem amoAcquire (sc : Scope) (ord : Order) (ps : List Pub) : Passes s x m m (amoAcquire s.cur sc ord ps) := by
  have acquired : ∀ ps, Passes s x m m (dealerAcquire s.cur ps) := fun ps =>
    .bind (.mergeStamps ps) fun _ => .upd fun _ H => H.setTile rfl rfl
  have entered : Passes s x m m (if ord == .ar then do
      let q ← Machine.see fun s' : State => ((s'.tile s.cur).ep + 4294967295) % 4294967296
      Machine.soEnter s.cur sc (if sc = .tile then none else some (s.cur.val, q))
      else Pure.pure () : M Unit) := .ite (.bind (.see _) fun _ => .soEnter ..) (.pure _)
  exact .ite (.bind (acquired _) fun _ => entered) entered

end Passes
end

/-! ## The own scratchpad -/

/-- One of two effects, whichever is made, before what follows. -/
theorem ite_bind_ok {α β : Type} {c : Prop} [Decidable c] {e g : M α} {f : α → M β} {a : α} {u v : State}
    (h : (if c then e else g) u = .ok (a, v)) : (if c then e >>= f else g >>= f) u = f a v := by
  split at h
  · next hc => exact (congrFun (if_pos hc) u).trans (bind_ok _ _ _ _ _ h)
  · next hc => exact (congrFun (if_neg hc) u).trans (bind_ok _ _ _ _ _ h)

/-- Memory after an atomic on the n bytes at k of the memory m: they take its new value, where it has one (R363, R364). -/
def amoMemory (m : List Host.Cell) (k n : Nat) (new : Option Nat) : List Host.Cell := (new.map fun v => cellsWrite m k (natLe n v)).getD m

section
variable {s : State} {x : Ctx} {u : Word} {n op v w o : Nat} {sc : Scope} {ord : Order}

theorem amoPlace_pad (hs : spaceOf u = 8) (ho : offOf u = o) (hok : spaceOk u = true) (hn : u.toNat % n = 0) (hin : o + n ≤ padBytes x.partw)
    (hring : hitsDeck (s.tile s.cur) o n = false) : Runs (amoPlace s.cur x u sc n) s (.pad s.cur o) s := by
  have space : (spaceOf u != 0xC || sc == .dom) = true := by rw [hs]; rfl
  refine (check_bind_ok hok _ _ _ s).trans <| (check_bind_ok space _ _ _ s).trans <| (check_bind_ok (beq_iff_eq.mpr hn) _ _ _ s).trans ?_
  unfold resolve
  rw [hs, ho]
  exact (check_bind_ok (decide_eq_true hin) _ _ _ s).trans <| (see_bind _ _ s).trans (check_bind_ok (by rw [hring]; rfl) _ _ _ s)

/-- The access delivers the old bytes, and memory takes the new value. -/
theorem amoAccess_pad (hr : Ready s x) (hb : badBytes s (spAt s.cur o) n = 0) :
    ∃ s2, Runs (amoAccess s.cur s.mySlot x u (.pad s.cur o) op n sc ord v w) s
        (leNat (cellsRead s.mem (spAt s.cur o) n), pubsOver s (spAt s.cur o) n) s2 ∧
      Held s x (amoMemory s.mem (spAt s.cur o) n (amoNew op n (leNat (cellsRead s.mem (spAt s.cur o) n)) v w)) s2 := by
  have read : eccRead s.cur s.mySlot x u (spAt s.cur o) n s = .ok (cellsRead s.mem (spAt s.cur o) n, s) := by
    refine (see_bind _ _ s).trans ?_
    rw [hb]
    rfl
  generalize hold : leNat (cellsRead s.mem (spAt s.cur o) n) = old
  generalize hps : pubsOver s (spAt s.cur o) n = ps
  obtain ⟨_, u1, hnote, H1⟩ := (Passes.noteFences ps).step s (.start hr)
  have rel : Passes s x s.mem s.mem (if ord.isRel then release s.cur sc else pure none) := .ite (.release _) (.pure _)
  obtain ⟨r, u2, hrel, H2⟩ := rel.step u1 H1
  have run : amoLocal s.cur s.mySlot x u (.pad s.cur o) (spAt s.cur o) op n sc ord v w s = _ :=
    (see_bind _ _ s).trans <| (bind_ok _ _ _ _ _ (pure_run () s)).trans <| (bind_ok _ _ _ _ _ read).trans <| (see_bind _ _ s).trans <|
      (bind_ok _ _ _ _ _ (by rw [hps]; exact hnote)).trans (ite_bind_ok hrel)
  show ∃ s2, amoLocal s.cur s.mySlot x u (.pad s.cur o) (spAt s.cur o) op n sc ord v w s = .ok ((old, ps), s2) ∧ _
  rw [run, hold, hps]
  cases hnew : amoNew op n old v w with
  | none => exact ⟨u2, rfl, H2⟩
  | some new =>
    have publish : Passes s x (cellsWrite s.mem (spAt s.cur o) (natLe n new)) (cellsWrite s.mem (spAt s.cur o) (natLe n new))
        (if ord.isRel then upd (publishAtomic s.cur (spAt s.cur o) n sc r) else pure ()) := .ite (.publishAtomic ..) (.pure _)
    obtain ⟨_, u3, hwrite, H3⟩ := (Passes.placeWrite o (natLe n new)).step u2 H2
    obtain ⟨_, u4, hpub, H4⟩ := publish.step u3 H3
    exact ⟨u4, (bind_ok _ _ _ _ _ hwrite).trans (ite_bind_ok (g := pure ()) hpub), H4⟩

/-! ## Values (R363, R364) -/

/-- Every new value fits the bytes of the atomic. -/
theorem amoNew_lt {old : Nat} (ho : old < 2 ^ (8 * n)) (hv : v < 2 ^ (8 * n)) (hw : w < 2 ^ (8 * n)) :
    ∀ new ∈ amoNew op n old v w, new < 2 ^ (8 * n) := by
  have both : ∀ c : Prop, [Decidable c] → ∀ a b : Nat, a < 2 ^ (8 * n) → b < 2 ^ (8 * n) → (if c then a else b) < 2 ^ (8 * n) := by
    intro c _ a b ha hb
    split
    · exact ha
    · exact hb
  intro new hnew
  unfold amoNew at hnew
  split at hnew
  · cases hnew
    exact Nat.mod_lt _ (by positivity)
  · cases hnew
    exact Nat.and_lt_two_pow _ hv
  · cases hnew
    exact Nat.or_lt_two_pow ho hv
  · cases hnew
    exact Nat.xor_lt_two_pow ho hv
  · cases hnew
    exact both _ _ _ ho hv
  · cases hnew
    exact both _ _ _ hv ho
  · cases hnew
    exact hv
  · split at hnew
    · cases hnew
      exact hw
    · cases hnew

/-- Memory after an atomic, in its bytes and outside them. -/
theorem amoMemory_reads {m : List Host.Cell} (hm : Memory.wf m = true) {k : Nat} {new : Option Nat} (hn : ∀ v ∈ new, v < 2 ^ (8 * n)) :
    leNat (cellsRead (amoMemory m k n new) k n) = new.getD (leNat (cellsRead m k n)) ∧
      ∀ j, j < k ∨ k + n ≤ j → cellGet (amoMemory m k n new) j = cellGet m j := by
  cases new with
  | none => exact ⟨rfl, fun _ _ => rfl⟩
  | some v =>
    have size : 256 ^ n = 2 ^ (8 * n) := by
      rw [pow_mul]
      rfl
    have hread := cellsRead_cellsWrite (natLe n v) m k hm
    rw [natLe_length] at hread
    refine ⟨?_, fun j hj => cellGet_cellsWrite_out _ _ _ _ hm (by rwa [natLe_length])⟩
    show leNat (cellsRead (cellsWrite m k (natLe n v)) k n) = v
    rw [hread, leNat_natLe, size, Nat.mod_eq_of_lt (hn v rfl)]

end

/-- The end of an atomic whose context is quiet. -/
theorem finish_atomic {s u : State} {x : Ctx} {m : List Host.Cell} (hq : x.quiet = true) (H : Held s x m u) (d : Fin 48) (r : Word) :
    ∃ y, (finish s x 1 true { val := some r } (u.upMe (·.setReg d r))).ctx? s.cur s.mySlot = some y ∧
      (finish s x 1 true { val := some r } (u.upMe (·.setReg d r))).mem = m ∧ y.preds = x.preds ∧ y.latches = [] ∧ y.regs = x.regs.set d r := by
  obtain ⟨ps, hx⟩ := H.ctx
  obtain ⟨ha, hf, hs⟩ := x.quiet_iff.mp hq
  have hc : u.mySlot = s.mySlot := (congrArg (fun t => (u.tile t).cur) H.cur).trans H.slot
  have hup : u.upMe (·.setReg d r) = u.modCtx s.cur s.mySlot (·.setReg d r) := by rw [State.upMe, H.cur, hc]
  have hy : (u.modCtx s.cur s.mySlot (·.setReg d r)).ctx? s.cur s.mySlot = some ({ x with seen := ps }.setReg d r) :=
    (State.ctx_modCtx ..).trans (congrArg (Option.map _) hx)
  have quiet : ({ x with seen := ps }.setReg d r : Ctx).quiet = true := (Ctx.quiet_iff _).mpr ⟨ha, hf, hs⟩
  obtain ⟨frame, e, c, hz⟩ := complete_fall_frame hy quiet 1 true (some r)
  rw [finish, hs, Bool.false_and, hup]
  refine ⟨_, hz, ?_, fallen_preds .., rfl, fallen_regs ..⟩
  exact (congrArg State.mem frame.rest).trans ((State.modCtx_mem ..).trans H.mem)

section
variable {s : State} {x : Ctx} {h : Hd} {a : Src} {u : Word} {word : Bool} {op off : Nat} {sc : Scope} {ord : Order} {d : Fin 48}

/-- An atomic on readable bytes of the own scratchpad. -/
theorem amoOp_pad (hr : Ready s x) (hg : x.pred h.guard = true) (ha : Reads s x a u) (hm : s.MemOk) (hq : x.quiet = true) (hs : spaceOf u = 8)
    (ho : offOf u = off) (hok : spaceOk u = true) (hn : u.toNat % amoSize word = 0) (hin : off + amoSize word ≤ padBytes x.partw)
    (hring : hitsDeck (s.tile s.cur) off (amoSize word) = false) (hb : badBytes s (spAt s.cur off) (amoSize word) = 0) :
    let k := spAt s.cur off
    let old := leNat (cellsRead s.mem k (amoSize word))
    ∃ (t : State) (y : Ctx), amoOp h word sc ord d a op s = .next t ∧
      leNat (cellsRead t.mem k (amoSize word)) =
        (amoNew op (amoSize word) old (amoOperand x d (amoSize word)) (amoSwapped x d (amoSize word))).getD old ∧
      SameOutside k (amoSize word) s t ∧ t.ctx? s.cur s.mySlot = some y ∧ y.preds = x.preds ∧ y.latches = [] ∧
      y.regs = x.regs.set d (amoResult word old) := by
  intro k old
  obtain ⟨s2, hacc, H2⟩ := amoAccess_pad (u := u) (op := op) (v := amoOperand x d (amoSize word)) (w := amoSwapped x d (amoSize word)) (sc := sc)
    (ord := ord) hr hb
  obtain ⟨_, s3, hacq, H3⟩ := (Passes.amoAcquire sc ord (pubsOver s k (amoSize word))).step s2 H2
  have free : Pays s x (s3.upMe (·.setReg d (amoResult word old))) (s3.upMe (·.setReg d (amoResult word old))) := by
    refine pays_free _ _ _ ?_ ?_
    · rw [State.meterHbm, State.upMe_reqs, H3.reqs]
      exact hr.hbm
    · rw [State.meterNet, State.upMe_reqs, H3.reqs]
      exact hr.net
  have run := amoOp_done hr hg ha (amoPlace_pad hs ho hok hn hin hring) hacc hacq free
  obtain ⟨y, hy, hmem, hp, hl, hregs⟩ := finish_atomic hq H3 d (amoResult word old)
  have lt : ∀ z : Nat, z % 2 ^ (8 * amoSize word) < 2 ^ (8 * amoSize word) := fun z => Nat.mod_lt _ (by positivity)
  have hold : old < 2 ^ (8 * amoSize word) := by
    have hlt := leNat_lt (cellsRead s.mem k (amoSize word))
    rwa [cellsRead_length, show (256 : Nat) = 2 ^ 8 from rfl, ← pow_mul] at hlt
  obtain ⟨hbytes, hout⟩ := amoMemory_reads hm (k := k) (amoNew_lt (op := op) hold (lt _) (lt _))
  exact ⟨_, y, run, by rw [hmem]; exact hbytes, fun j hj => by rw [hmem]; exact hout j hj, hy, hp, hl, hregs⟩

end

/-- Settles O29: the eight atomics are one operation with eight codes. -/
theorem atomics : Obligations.Atomics := by
  intro s x h word sc ord d a u hr hg ha
  refine ⟨?_, ?_⟩
  · intro n v w q hq p old ps s1 s2 s3 s4 hp hm hacq r hpay
    have hop : exec q.1 s = amoOp h word sc ord d a q.2 s := by
      simp only [List.mem_cons, List.not_mem_nil, or_false] at hq
      rcases hq with rfl | rfl | rfl | rfl | rfl | rfl | rfl | rfl <;> rfl
    rw [hop]
    exact amoOp_done hr hg ha hp hm hacq hpay
  · intro hmem hquiet n off k old v w sgn h1 h2 h3 h4 h5 h6 p hp
    obtain ⟨hspace, hoff, hok⟩ := ownPad_addr h1 h2
    have hdvd : n ∣ 0x8000000000000000 := by
      show (if word then 4 else 8) ∣ _
      split
      · norm_num
      · norm_num
    have done := fun op => amoOp_pad (op := op) (sc := sc) (ord := ord) (d := d) hr hg ha hmem hquiet hspace hoff hok
      (ownPad_aligned h1 hdvd h3) h4 h5 h6
    obtain ⟨op, hop, hval⟩ : ∃ op, exec p.1 s = amoOp h word sc ord d a op s ∧ (amoNew op n old v w).getD old = p.2 := by
      simp only [List.mem_cons, List.not_mem_nil, or_false] at hp
      rcases hp with rfl | rfl | rfl | rfl | rfl | rfl | rfl | rfl
      · exact ⟨0, rfl, rfl⟩
      · exact ⟨1, rfl, rfl⟩
      · exact ⟨2, rfl, rfl⟩
      · exact ⟨3, rfl, rfl⟩
      · exact ⟨4, rfl, rfl⟩
      · exact ⟨5, rfl, rfl⟩
      · exact ⟨6, rfl, rfl⟩
      · exact ⟨7, rfl, by simp only [amoNew]; split <;> rfl⟩
    rw [hop, ← hval]
    exact done op

end Sys2Proof.Machine
end

section
/-!
PROOFS. O59 fails where a field of a queue's descriptor does not fit its place in the image (R432), which its clause on TAIL asks of HEAD, TAIL and
LOGSZ only: the holder of lock 0 writes the descriptor back from the image, in which a BASE of more than 64 bits reaches into LOGSZ.
-/
namespace Sys2Proof.Machine
open Sys2Proof

/-- The banker, who needs no lock, writes TAIL of queue 0, whose BASE has a bit past its 64. -/
def wideBaseState : State :=
  { State.reset with
    queues := State.reset.queues.set 0 { base := 2 ^ 64 }
    input := { who := 2, size := 4, addr := 0x10001C, value := 0 } }

/-- The write puts that bit into LOGSZ. -/
theorem tailWrite_widens {t : State} (h : exec .tailWrite wideBaseState = .next t) : (t.queue 0).logsz = 1 := by
  have run : (match exec .tailWrite wideBaseState with
    | .next t => some (t.queue 0).logsz
    | .fault _ | .refused _ => none) = some 1 := by decide +kernel
  rw [h] at run
  exact Option.some.inj run

/-- Refutes O59: TAIL 0 is valid for queue 0 of `wideBaseState`, and the write changes LOGSZ from 0 to 1. -/
theorem not_registerMap : ¬ Obligations.RegisterMap := by
  intro h
  obtain ⟨hqueue, -⟩ := h
  obtain ⟨htail, -⟩ := hqueue wideBaseState 0 0 (by decide) rfl rfl (by decide)
  obtain ⟨hvalid, -⟩ := htail rfl (by decide) (by decide) (by decide)
  obtain ⟨-, k', hrun, -, -, -, -, -, -, hlog⟩ := hvalid (by decide)
  have h1 := tailWrite_widens hrun
  have h0 : ((wideBaseState.modQueue 0 fun _ => k').settled.queue 0).logsz = 0 := by
    have hq : (wideBaseState.modQueue 0 fun _ => k').settled.queue 0 = k' := vec_get_set wideBaseState.queues 0 k' (h := by decide)
    rw [hq, hlog]
    rfl
  rw [h0] at h1
  exact absurd h1 (by decide)

end Sys2Proof.Machine
end

section
/-!
PROOFS. The front end (O58): the taking of a packet, said once for all types, then what each packet does; the later turns of LOAD_MODEL, the polls of
WAIT, the end of an unload, and completion words.
-/
namespace Sys2Proof.Machine
open Sys2Proof

/-! ## Readable memory (R381) -/

theorem badVia_readable {s : State} (h : s.Readable) (at' : Nat → Option Nat) (n a : Nat) : badVia s at' a n = 0 := by
  induction n generalizing a with
  | zero => rfl
  | succ n ih =>
    rw [badVia, ih]
    cases at' a with
    | none => rfl
    | some k => exact h k 1
/-- Nothing is recorded where every byte could be read. -/
theorem recordBad_none (a : Nat) (s : State) : recordBad a 0 s = .ok ((), s) := rfl
theorem recordBad_bind {α : Type} {s : State} {bad : Nat} (h : bad = 0) (a : Nat) (f : Unit → M α) :
    (recordBad a bad >>= f) s = f () s := by
  subst h
  exact bind_ok _ _ _ _ _ (recordBad_none a s)
theorem State.Readable.modQueue {s : State} (h : s.Readable) (q : Fin 256) (f : Queue → Queue) : (s.modQueue q f).Readable :=
  fun k n => (badBytes_congr (s := s) (s' := s.modQueue q f) rfl k n).trans (h k n)

/-! ## Taking a packet (R433, R438, R443) -/

theorem queueNo_bind {α : Type} (q : Fin 256) (f : Fin 256 → M α) (s : State) : (queueNo q >>= f) s = f q s :=
  bind_ok _ _ _ _ _ (congrFun (dif_pos q.isLt) s)
/-- No port reports a failure. -/
theorem accessFails_bind {α : Type} {s : State} (h : s.input.flag = false) (k : Queue) (f : Bool → M α) :
    (accessFails k >>= f) s = f false s := by
  refine (see_bind _ _ s).trans ?_
  rw [h]
  rfl
theorem startPkt_run (q : Fin 256) (p : Pkt) (s : State) :
    startPkt q p s = .ok ((), s.modQueue q fun k => { k with started := k.started ++ [p] }) := rfl

section
variable {s : State} {q : Fin 256} {p : Packet}

/-- The state in which a queue has taken a packet. -/
def taken (q : Fin 256) (p : Packet) (s : State) : State := s.modQueue q (·.advance p)

/-- A packet that is offered is taken by the step of its type, which goes on with its body. -/
theorem taking_run (h : Offers s q p) {ty : Nat} (ht : p.type = ty) (h8 : ty = 8 → (s.queue q).started = [])
    (h4 : ty = 4 → s.pushing (s.queue q) = false) {body : Fin 256 → Queue → Packet → M Unit} {u : State}
    (hb : body q (s.queue q) p (taken q p s) = .ok ((), u)) :
    agent (taking q ty body) s = .next (u.modQueue q Queue.close).settled := by
  obtain ⟨hready, ⟨hport, -⟩, hnext, hwhole, hturn, hreads⟩ := h
  have empty : (!(p.bar || ty == 8) || (s.queue q).started.isEmpty) = true := by
    by_cases he : (s.queue q).started = []
    · rw [he, List.isEmpty_nil, Bool.or_true]
    · have hbar : p.bar = false := hturn.resolve_right he
      have hty : (ty == 8) = false := beq_eq_false_iff_ne.mpr fun e => he (h8 e)
      rw [hbar, hty]
      rfl
  have alone : (ty != 4 || !s.pushing (s.queue q)) = true := by
    by_cases he : ty = 4
    · rw [h4 he, Bool.not_false, Bool.or_true]
    · rw [bne_iff_ne.mpr he, Bool.true_or]
  have port : (s.input.who == 1 && (s.queue q).host) = false := by rw [beq_eq_false_iff_ne.mpr hport, Bool.false_and]
  refine agent_done _ _ _ ?_
  unfold taking
  refine (queueNo_bind q _ s).trans <| (see_bind _ _ s).trans <| (see_bind _ _ s).trans <| (enabled_bind hready _ s).trans <|
    (see_bind _ _ s).trans ?_
  rw [port, if_neg Bool.false_ne_true]
  refine (see_bind _ _ s).trans ?_
  rw [hnext]
  refine (see_bind _ _ s).trans <| (recordBad_bind (badVia_readable hreads ..) _ _).trans ?_
  rw [hwhole]
  refine (see_bind _ _ s).trans <| (enabled_bind ?_ _ s).trans <| (upd_bind _ _ s).trans <| (bind_ok _ _ _ _ _ hb).trans rfl
  rw [ht, beq_self_eq_true, empty]
  exact alone

/-- A packet whose body ends by starting it. -/
theorem taking_starts (h : Offers s q p) {ty : Nat} (ht : p.type = ty) (h8 : ty = 8 → (s.queue q).started = [])
    (h4 : ty = 4 → s.pushing (s.queue q) = false) {body : Fin 256 → Queue → Packet → M Unit} {u : State} {k : Pkt}
    (hb : body q (s.queue q) p (taken q p s) = startPkt q k u) : agent (taking q ty body) s = .next (started q k u).settled :=
  taking_run h ht h8 h4 (hb.trans (startPkt_run q k u))

/-! ## Packets that touch memory and the queue (R437, R444) -/

theorem Offers.taken_readable (h : Offers s q p) : (taken q p s).Readable := h.reads.modQueue q _
theorem Offers.taken_flag (h : Offers s q p) : (taken q p s).input.flag = false := h.port.2

section
variable (h : Offers s q p)
include h

theorem execWrap_next (ht : p.type = 0) : execWrap q s = .next ((taken q p s).modQueue q Queue.close).settled :=
  taking_run h ht (fun e => absurd e (by decide)) (fun e => absurd e (by decide)) rfl

/-- Where a COPY finds an address (R437). -/
def copyAt (q : Fin 256) (p : Packet) (s : State) (w : Bool) (a : Nat) : Option Nat :=
  if p.get 40 0 1 = 1 then physAt (taken q p s) a else queueAt (taken q p s) (s.queue q) a w

theorem execCopy_copies {bs : List Byte} {u : State} (ht : p.type = 3) (h1 : 1 ≤ p.get 32 0 64) (h2 : p.get 32 0 64 ≤ 2 ^ 40)
    (hr : bytesVia (taken q p s) (copyAt q p s false) (p.get 16 0 64) (p.get 32 0 64) = some bs)
    (hw : writeVia (copyAt q p s true) (p.get 24 0 64) bs (taken q p s) = some u) :
    execCopy q s = .next (started q (p.start (some 0)) u).settled := by
  refine taking_starts h ht (fun e => absurd e (by decide)) (fun e => absurd e (by decide)) ?_
  refine (accessFails_bind h.taken_flag _ _).trans <| (see_bind _ _ _).trans ?_
  have hn : ¬(p.get 32 0 64 = 0 ∨ 2 ^ 40 < p.get 32 0 64 ∨ (false && !(p.get 40 0 1 == 1)) = true) := by
    rintro (hz | hz | hz)
    · omega
    · omega
    · cases hz
  have hat : ∀ w, (fun a => if (p.get 40 0 1 == 1) = true then physAt (taken q p s) a else queueAt (taken q p s) (s.queue q) a w) =
      copyAt q p s w := fun w => by
    funext a
    simp only [copyAt, beq_iff_eq]
  rw [if_neg hn]
  simp only [hat, hr, hw, Option.bind_some]
  exact (see_bind _ _ _).trans <| (upd_bind _ _ _).trans <| (recordBad_bind (badVia_readable h.taken_readable ..) _ _).trans rfl

theorem execCopy_refused (ht : p.type = 3) (hn : p.get 32 0 64 = 0 ∨ 2 ^ 40 < p.get 32 0 64) :
    execCopy q s = .next (started q (p.start (some 1)) (taken q p s)).settled := by
  refine taking_starts h ht (fun e => absurd e (by decide)) (fun e => absurd e (by decide)) ?_
  refine (accessFails_bind h.taken_flag _ _).trans <| (see_bind _ _ _).trans ?_
  have hn : p.get 32 0 64 = 0 ∨ 2 ^ 40 < p.get 32 0 64 ∨ (false && !(p.get 40 0 1 == 1)) = true := hn.imp_right .inl
  rw [if_pos hn]
  rfl

section
variable (ht : p.type = 4) (hp : s.pushing (s.queue q) = false) {pa : Nat} (hat : queueAt (taken q p s) (s.queue q) (p.get 16 0 64) true = some pa)
include ht hp hat

theorem execSignal_stores (hn : p.get 32 0 1 ≠ 1) :
    execSignal q s = .next (started q (p.start (some 0)) (writeNat (taken q p s) pa 8 (p.get 24 0 64))).settled := by
  refine taking_starts h ht (fun e => absurd e (by decide)) (fun _ => hp) ?_
  refine (see_bind _ _ _).trans <| (accessFails_bind h.taken_flag _ _).trans ?_
  rw [hat]
  exact (congrFun (if_neg hn) _).trans <| (upd_bind _ _ _).trans rfl
theorem execSignal_adds (hn : p.get 32 0 1 = 1) :
    execSignal q s = .next (started q (p.start (some 0))
      (writeBytes (taken q p s) pa (natLe 8 (readNat (taken q p s) pa 8 + p.get 24 0 64)) true)).settled := by
  refine taking_starts h ht (fun e => absurd e (by decide)) (fun _ => hp) ?_
  refine (see_bind _ _ _).trans <| (accessFails_bind h.taken_flag _ _).trans ?_
  rw [hat]
  exact (congrFun (if_pos hn) _).trans <| (see_bind _ _ _).trans <| (recordBad_bind (h.taken_readable pa 8) _ _).trans <|
    (upd_bind _ _ _).trans rfl

end

theorem execWait_next (ht : p.type = 5) : execWait q s = .next (((taken q p s).modQueue q fun z => { z with
    wait := some { pkt := p.start none, addr := p.get 16 0 64, value := BitVec.ofNat 64 (p.get 24 0 64),
                   ge := p.get 32 0 1 == 1 } }).modQueue q Queue.close).settled :=
  taking_run h ht (fun e => absurd e (by decide)) (fun e => absurd e (by decide)) rfl
theorem execIndirect_next (ht : p.type = 6) (hn : p.get 24 0 16 ≠ 0) : execIndirect q s = .next (((taken q p s).modQueue q fun z => { z with
    stack := ⟨p.start none, p.get 16 0 64, p.get 24 0 16⟩ :: z.stack }).modQueue q Queue.close).settled :=
  taking_run h ht (fun e => absurd e (by decide)) (fun e => absurd e (by decide)) ((congrFun (if_neg hn) _).trans rfl)
theorem execBarrier_next (ht : p.type = 8) (he : (s.queue q).started = []) :
    execBarrier q s = .next (started q (p.start (some 0)) (taken q p s)).settled :=
  taking_starts h ht (fun _ => he) (fun e => absurd e (by decide)) rfl

/-! ## LAUNCH and INVOKE (R439, R441) -/

/-- The packet's note of its parent has gone. -/
def forgotten (q : Fin 256) (p : Packet) (s : State) : State :=
  (taken q p s).modQueue q fun z => { z with parents := if z.stack.isEmpty then z.parents.filter (·.1 != p.idx) else z.parents }

/-- The models once a packet has created its grid: that of its slot, if it runs one, is live once more. -/
def invoked (slot : Option (Fin 64)) (s : State) : State :=
  match slot with
  | some i => { s with models := s.models.set i { s.models.get i with live := (s.models.get i).live + 1 } }
  | none => s

section
omit h
variable {k : Queue} {b : LaunchBody} {d : Option Desc} {reloc : Vector Word 16}

theorem launchOr_creates {u : State} (slot : Option (Fin 64))
    (hd : (d.bind fun d => launchGrid q k b d reloc (parentOf k p) (forgotten q p s)) = some u) :
    launchOr q k p b d reloc slot (taken q p s) =
      startPkt q { p.start none with grid := some (k.job, b.grid), slot } (invoked slot u) := by
  unfold forgotten at hd
  refine (upd_bind _ _ _).trans <| (see_bind _ _ _).trans ?_
  rw [hd]
  refine (upd_bind _ _ _).trans ?_
  cases slot with
  | none => rfl
  | some i => exact (upd_bind _ _ _).trans rfl
theorem launchOr_refused (slot : Option (Fin 64))
    (hd : (d.bind fun d => launchGrid q k b d reloc (parentOf k p) (forgotten q p s)) = none) :
    launchOr q k p b d reloc slot (taken q p s) = startPkt q (p.start (some 1)) (dropChild k p (forgotten q p s)) := by
  unfold forgotten at hd
  refine (upd_bind _ _ _).trans <| (see_bind _ _ _).trans ?_
  rw [hd]
  exact upd_bind _ _ _

end

/-- The descriptor of a LAUNCH, as its queue reads it. -/
def launchDesc (q : Fin 256) (p : Packet) (s : State) : Option Desc :=
  readDesc (bytesVia (taken q p s) (queueAt (taken q p s) (s.queue q) · false)) (launchBody p).desc

/-- A LAUNCH goes on with its descriptor. -/
theorem execLaunch_reads (ht : p.type = 1) {k : Pkt} {u : State}
    (hl : launchOr q (s.queue q) p (launchBody p) (launchDesc q p s) (Vector.replicate 16 0) none (taken q p s) = startPkt q k u) :
    execLaunch q s = .next (started q k u).settled := by
  refine taking_starts h ht (fun e => absurd e (by decide)) (fun e => absurd e (by decide)) ?_
  refine (accessFails_bind h.taken_flag _ _).trans ?_
  rw [if_neg Bool.false_ne_true]
  refine (see_bind _ _ _).trans <| (see_bind _ _ _).trans ?_
  rw [if_neg Bool.false_ne_true, if_neg Bool.false_ne_true]
  exact (recordBad_bind (badVia_readable h.taken_readable ..) _ _).trans hl

/-- An INVOKE of a slot that is not resident, or not the job's, or of too many buffers. -/
theorem execInvoke_refused (ht : p.type = 2)
    (hm : (s.models.get (slotNo p)).state ≠ .resident ∨ (s.models.get (slotNo p)).job ≠ (s.queue q).job ∨ 16 < p.get 16 8 5) :
    execInvoke q s = .next (started q (p.start (some 1)) (dropChild (s.queue q) p (forgotten q p s))).settled := by
  refine taking_starts h ht (fun e => absurd e (by decide)) (fun e => absurd e (by decide)) ?_
  refine (see_bind _ _ _).trans <| (accessFails_bind h.taken_flag _ _).trans ?_
  rw [if_neg Bool.false_ne_true]
  have hm' : (s.models.get (slotNo p)).state ≠ .resident ∨ (s.models.get (slotNo p)).job ≠ (s.queue q).job ∨ 16 < p.get 16 8 5 ∨
      false = true := hm.imp_right (·.imp_right .inl)
  exact (congrFun (if_pos hm') _).trans <| (upd_bind _ _ _).trans (upd_bind _ _ _)

/-- The relocation registers of an INVOKE: its buffers (R441). -/
def invokeReloc (bufs : List Nat) : Vector Word 16 := Vector.ofFn fun j => BitVec.ofNat 64 (bufs[j.val]?.getD 0)
/-- The LAUNCH that an INVOKE of the model at a base makes of the header's, relocated (R441). -/
def invokeBody (p : Packet) (base img : Nat) (bufs : List Nat) : LaunchBody :=
  let b := launchBody ⟨img, 0⟩
  { b with
    code := b.code + BitVec.ofNat 64 base, desc := base + b.desc, frame := (invokeReloc bufs).get 0 + b.frame
    grid := p.get 32 0 64, recbase := p.get 40 0 64, arg1 := BitVec.ofNat 64 (p.get 48 0 64) }

/-- An INVOKE of a resident model of the job, with buffers and a header that can be read. -/
theorem execInvoke_creates (ht : p.type = 2) {bufs : List Nat} {img : Nat} {d : Desc} {u : State} {m : Model}
    (hm : s.models.get (slotNo p) = m) (hst : m.state = .resident) (hj : m.job = (s.queue q).job) (hn : p.get 16 8 5 ≤ 16)
    (hbufs : ((List.range (p.get 16 8 5)).mapM fun j => natVia (taken q p s) (queueAt (taken q p s) (s.queue q) · false)
      (p.get 24 0 64 + 8 * j) 8) = some bufs)
    (himg : natVia (taken q p s) (physAt (taken q p s)) m.pbase 128 = some img)
    (hd : readDesc (bytesVia (taken q p s) (physAt (taken q p s))) (invokeBody p m.pbase img bufs).desc = some d)
    (hg : launchGrid q (s.queue q) (invokeBody p m.pbase img bufs) d (invokeReloc bufs) (parentOf (s.queue q) p) (forgotten q p s) = some u) :
    execInvoke q s = .next (started q
      { p.start none with grid := some ((s.queue q).job, (invokeBody p m.pbase img bufs).grid), slot := some (slotNo p) }
      (invoked (some (slotNo p)) u)).settled := by
  subst hm
  refine taking_starts h ht (fun e => absurd e (by decide)) (fun e => absurd e (by decide)) ?_
  refine (see_bind _ _ _).trans <| (accessFails_bind h.taken_flag _ _).trans ?_
  rw [if_neg Bool.false_ne_true]
  have ok : ¬((s.models.get (slotNo p)).state ≠ .resident ∨ (s.models.get (slotNo p)).job ≠ (s.queue q).job ∨ 16 < p.get 16 8 5 ∨
      false = true) := by
    rintro (hz | hz | hz | hz)
    · exact hz hst
    · exact hz hj
    · exact Nat.not_lt.mpr hn hz
    · cases hz
  have good := fun at' n a => badVia_readable h.taken_readable at' n a
  refine (congrFun (if_neg ok) _).trans <| (see_bind _ _ _).trans <| (see_bind _ _ _).trans ?_
  have himg' : natVia (taken q p s) (physAt (taken q p s)) ((taken q p s).models.get (slotNo p)).pbase 128 = some img := himg
  rw [hbufs, himg']
  exact (see_bind _ _ _).trans <| (recordBad_bind (good ..) _ _).trans <| (recordBad_bind (good ..) _ _).trans <| (see_bind _ _ _).trans <|
    (recordBad_bind (good ..) _ _).trans (launchOr_creates _ ((congrArg (Option.bind · _) hd).trans hg))

/-! ## LOAD_MODEL (R442) -/

theorem execLoadModel_starts (ht : p.type = 7) (hd : s.input.who = 2 ∨ loadDue (s.queue q) = none) :
    execLoadModel q s = .next (started q { p.start none with load := some (loadOf p) } (taken q p s)).settled := by
  have run : execLoadModel q s = agent (taking q 7 fun q _ p => startPkt q { p.start none with load := some (loadOf p) }) s := by
    refine agent_congr ((queueNo_bind q _ s).trans <| (see_bind _ _ s).trans <| (see_bind _ _ s).trans ?_)
    rcases hd with hw | hn
    · rw [if_pos hw]
    · rw [hn, ite_self]
  rw [run]
  exact taking_starts h ht (fun e => absurd e (by decide)) (fun e => absurd e (by decide)) rfl

end
end

/-! ## The later turns of LOAD_MODEL (R442) -/

/-- A model slot is set, and the packet that is under way changed. -/
def modelPut (q : Fin 256) (i : Nat) (slot : Fin 64) (m : Model) (f : Pkt → Pkt) (s : State) : State :=
  ({ s with models := s.models.set slot m } : State).modQueue q fun k => { k with started := k.started.modify i f }
theorem setModel_modPkt (q : Fin 256) (i : Nat) (slot : Fin 64) (m : Model) (f : Pkt → Pkt) (s : State) :
    (setModel slot m >>= fun _ => modPkt q i f) s = .ok ((), modelPut q i slot m f s) := upd_bind _ _ _

/-- Lock 1 is the banker's. -/
def lockTaken (s : State) : State := { s with hsems := s.hsems.set 1 { s.hsems.get 1 with owner := 3 } }

section
variable {s : State} {q : Fin 256} {i : Nat} {l : Load} (hd : loadDue (s.queue q) = some (i, l)) (hw : s.input.who ≠ 2)
include hd hw

/-- A turn goes on with the packet that is under way. -/
theorem execLoadModel_goesOn {u : State}
    (ht : (if l.locked then loadCopy q (s.queue q) i l else loadLocked q (s.queue q) i l) s = .ok ((), u)) :
    execLoadModel q s = .next u.settled := by
  refine agent_done _ _ _ ((queueNo_bind q _ s).trans <| (see_bind _ _ s).trans <| (see_bind _ _ s).trans ?_)
  rw [if_neg hw, hd]
  exact ht

section
variable (hl : l.locked = false) (ho : (s.hsems.get 1).owner = 0)
include hl ho

omit hd hw hl in
/-- Lock 1 is free and taken first. -/
theorem loadLocked_takes : loadLocked q (s.queue q) i l s =
    (if (s.models.get l.slot).state ≠ (if l.unload then SlotState.resident else .free) ∨ (s.models.get l.slot).job ≠ (s.queue q).job ∨
        (l.unload = false ∧ hbmEnd < l.bytes) then
      modPkt q i fun p => { p with status := some 1 }
    else if l.unload then do
      setModel l.slot { s.models.get l.slot with state := .evicting }
      modPkt q i fun p => { p with slot := some l.slot, load := some { l with locked := true } }
    else do
      let base ← see (·.input.addr)
      enabled (← see fun s => allottable s base l.bytes)
      setModel l.slot { s.models.get l.slot with state := .loading, pbase := base, bytes := l.bytes, live := 0 }
      modPkt q i fun p => { p with load := some { l with locked := true } }) (lockTaken s) :=
  (see_bind _ _ s).trans <| (enabled_bind (beq_iff_eq.mpr ho) _ s).trans <| (upd_bind _ _ s).trans (see_bind _ _ _)

theorem execLoadModel_refuses (hm : (s.models.get l.slot).state ≠ (if l.unload then SlotState.resident else .free) ∨
    (s.models.get l.slot).job ≠ (s.queue q).job) : execLoadModel q s = .next ((lockTaken s).modQueue q fun k => { k with
      started := k.started.modify i fun p => { p with status := some 1 } }).settled := by
  refine execLoadModel_goesOn hd hw ?_
  rw [hl, if_neg Bool.false_ne_true, loadLocked_takes ho, if_pos (hm.imp_right .inl)]
  rfl
theorem execLoadModel_evicts (hu : l.unload = true) (hst : (s.models.get l.slot).state = .resident)
    (hj : (s.models.get l.slot).job = (s.queue q).job) : execLoadModel q s =
      .next (modelPut q i l.slot { s.models.get l.slot with state := .evicting }
        (fun p => { p with slot := some l.slot, load := some { l with locked := true } }) (lockTaken s)).settled := by
  refine execLoadModel_goesOn hd hw ?_
  have ok : ¬((s.models.get l.slot).state ≠ (if l.unload then SlotState.resident else .free) ∨ (s.models.get l.slot).job ≠ (s.queue q).job ∨
      (l.unload = false ∧ hbmEnd < l.bytes)) := by
    rw [hu, if_pos rfl]
    rintro (hz | hz | ⟨hz, -⟩)
    · exact hz hst
    · exact hz hj
    · cases hz
  rw [hl, if_neg Bool.false_ne_true, loadLocked_takes ho, if_neg ok, if_pos hu]
  exact setModel_modPkt ..
theorem execLoadModel_loads (hu : l.unload = false) (hst : (s.models.get l.slot).state = .free)
    (hj : (s.models.get l.slot).job = (s.queue q).job) (ha : allottable (lockTaken s) s.input.addr l.bytes = true) : execLoadModel q s =
      .next (modelPut q i l.slot { s.models.get l.slot with state := .loading, pbase := s.input.addr, bytes := l.bytes, live := 0 }
        (fun p => { p with load := some { l with locked := true } }) (lockTaken s)).settled := by
  refine execLoadModel_goesOn hd hw ?_
  have size : l.bytes ≤ hbmEnd := by
    simp only [allottable, Bool.and_eq_true, decide_eq_true_eq] at ha
    omega
  have ok : ¬((s.models.get l.slot).state ≠ (if l.unload then SlotState.resident else .free) ∨ (s.models.get l.slot).job ≠ (s.queue q).job ∨
      (l.unload = false ∧ hbmEnd < l.bytes)) := by
    rw [hu, if_neg Bool.false_ne_true]
    rintro (hz | hz | ⟨-, hz⟩)
    · exact hz hst
    · exact hz hj
    · omega
  rw [hl, if_neg Bool.false_ne_true, loadLocked_takes ho, if_neg ok, hu, if_neg Bool.false_ne_true]
  exact (see_bind _ _ _).trans <| (see_bind _ _ _).trans <| (enabled_bind ha _ _).trans (setModel_modPkt ..)

end

section
variable (hl : l.locked = true) (hf : s.input.flag = false) (hr : s.Readable)
include hl hf

/-- An image that cannot be reached. -/
theorem execLoadModel_unreached (hi : bytesVia s (queueAt s (s.queue q) · false) l.image l.bytes = none) : execLoadModel q s =
    .next (modelPut q i l.slot { job := (s.models.get l.slot).job } (fun p => { p with status := some 1 }) s).settled := by
  refine execLoadModel_goesOn hd hw ?_
  rw [hl, if_pos rfl]
  refine (see_bind _ _ s).trans <| (accessFails_bind hf _ _).trans ?_
  rw [if_neg Bool.false_ne_true]
  refine (see_bind _ _ s).trans ?_
  rw [if_neg Bool.false_ne_true, hi]
  exact setModel_modPkt ..

variable {bs : List Byte} (hi : bytesVia s (queueAt s (s.queue q) · false) l.image l.bytes = some bs)
include hr hi

omit hd hw hl in
/-- The image is copied, and its header then checked. -/
theorem loadCopy_copies : loadCopy q (s.queue q) i l s =
    (if (decide (128 ≤ l.bytes) && modelOk (writeBytes s (s.models.get l.slot).pbase bs) (s.models.get l.slot).pbase) = true then do
      setModel l.slot { s.models.get l.slot with state := .resident }
      modPkt q i fun p => { p with status := some 0 }
    else do
      setModel l.slot { job := (s.models.get l.slot).job }
      modPkt q i fun p => { p with status := some 1 }) (writeBytes s (s.models.get l.slot).pbase bs) := by
  refine (see_bind _ _ s).trans <| (accessFails_bind hf _ _).trans ?_
  rw [if_neg Bool.false_ne_true]
  refine (see_bind _ _ s).trans ?_
  rw [if_neg Bool.false_ne_true, hi]
  exact (see_bind _ _ s).trans <| (upd_bind _ _ s).trans <| (recordBad_bind (badVia_readable hr ..) _ _).trans (see_bind _ _ _)

theorem execLoadModel_resident (hb : 128 ≤ l.bytes)
    (hm : modelOk (writeBytes s (s.models.get l.slot).pbase bs) (s.models.get l.slot).pbase = true) : execLoadModel q s =
      .next (modelPut q i l.slot { s.models.get l.slot with state := .resident } (fun p => { p with status := some 0 })
        (writeBytes s (s.models.get l.slot).pbase bs)).settled := by
  refine execLoadModel_goesOn hd hw ?_
  rw [hl, if_pos rfl, loadCopy_copies hf hr hi, if_pos (by rw [hm, decide_eq_true hb]; rfl)]
  exact setModel_modPkt ..
theorem execLoadModel_rejects
    (hn : ¬(128 ≤ l.bytes ∧ modelOk (writeBytes s (s.models.get l.slot).pbase bs) (s.models.get l.slot).pbase = true)) : execLoadModel q s =
      .next (modelPut q i l.slot { job := (s.models.get l.slot).job } (fun p => { p with status := some 1 })
        (writeBytes s (s.models.get l.slot).pbase bs)).settled := by
  refine execLoadModel_goesOn hd hw ?_
  rw [hl, if_pos rfl, loadCopy_copies hf hr hi, if_neg (by rwa [Bool.and_eq_true, decide_eq_true_eq])]
  exact setModel_modPkt ..

end
end

/-! ## WAIT_POLL, the end of an unload, and completion (R436, R437, R442) -/

section
variable {s : State} {q : Fin 256}

section
variable {w : QWait} {pa : Nat} (hw : (s.queue q).wait = some w) (hf : s.input.flag = false) (hr : s.Readable)
  (ha : queueAt s (s.queue q) w.addr false = some pa)
include hw hf hr ha

omit hw hf hr ha in
/-- The condition of a WAIT, as a truth value. -/
theorem waitSeen_iff (v : Nat) : (if w.ge then decide (w.value.toNat ≤ v) else v == w.value.toNat) = true ↔
    if w.ge then w.value.toNat ≤ v else v = w.value.toNat := by
  cases w.ge
  · exact beq_iff_eq
  · exact decide_eq_true_iff

theorem execWaitPoll_seen (hv : if w.ge then w.value.toNat ≤ readNat s pa 8 else readNat s pa 8 = w.value.toNat) :
    execWaitPoll q s = .next ((s.modQueue q fun k => { k with wait := none }).modQueue q fun k =>
      { k with started := k.started ++ [{ w.pkt with status := some 0 }] }).settled := by
  refine agent_done _ _ _ ((queueNo_bind q _ s).trans <| (see_bind _ _ s).trans <| (present_bind hw _ s).trans <| (see_bind _ _ s).trans <|
    (accessFails_bind hf _ _).trans ?_)
  rw [ha]
  refine (see_bind _ _ s).trans <| (recordBad_bind (hr pa 8) _ _).trans <| (see_bind _ _ s).trans ?_
  rw [if_pos ((waitSeen_iff _).mpr hv)]
  rfl
theorem execWaitPoll_unseen (hv : ¬(if w.ge then w.value.toNat ≤ readNat s pa 8 else readNat s pa 8 = w.value.toNat)) :
    execWaitPoll q s = .next s.settled := by
  refine agent_done _ _ _ ((queueNo_bind q _ s).trans <| (see_bind _ _ s).trans <| (present_bind hw _ s).trans <| (see_bind _ _ s).trans <|
    (accessFails_bind hf _ _).trans ?_)
  rw [ha]
  refine (see_bind _ _ s).trans <| (recordBad_bind (hr pa 8) _ _).trans <| (see_bind _ _ s).trans ?_
  rw [if_neg (mt (waitSeen_iff _).mp hv)]
  rfl

end

theorem execModelUnloadComplete_frees {i : Fin 64} (hs : (s.models.get i).state = .evicting) (hl : (s.models.get i).live = 0) :
    ∃ u, execModelUnloadComplete i s = .next u ∧ u.mem = s.mem ∧ (u.models.get i).state = .free ∧ (u.models.get i).live = 0 ∧
      (u.models.get i).job = (s.models.get i).job := by
  have idle : ((s.models.get i).state == .evicting && (s.models.get i).live == 0) = true := by rw [hs, hl]; rfl
  refine ⟨_, agent_done _ _ _ ((see_bind _ _ s).trans <| (enabled_bind idle _ s).trans <| (upd_bind _ _ s).trans (upd_run ..)), rfl, ?_⟩
  have slot : ∀ u : State, u.models = s.models.set i { job := (s.models.get i).job } → (u.models.get i).state = .free ∧
      (u.models.get i).live = 0 ∧ (u.models.get i).job = (s.models.get i).job := by
    intro u hu
    rw [hu, vec_get_set]
    exact ⟨rfl, rfl, rfl⟩
  exact slot _ rfl

section
variable {i st : Nat} {p : Pkt} (hp : (s.queue q).started[i]? = some p) (hs : p.status = some st) (ht : p.type ≠ 7)
include hp hs ht

/-- The queue without its started packet i. -/
def completed (q : Fin 256) (i : Nat) (s : State) : State := s.modQueue q fun k => { k with started := k.started.eraseIdx i }

theorem execPacketCompletion_silent (hn : p.sigen = false) : execPacketCompletion q i s = .next (completed q i s).settled := by
  refine agent_done _ _ _ ((queueNo_bind q _ s).trans <| (see_bind _ _ s).trans <| (present_bind hp _ s).trans <| (present_bind hs _ s).trans <|
    (upd_bind _ _ s).trans ?_)
  rw [if_neg ht, hn]
  rfl
theorem execPacketCompletion_writes {a : Nat} (hf : s.input.flag = false) (hn : p.sigen = true)
    (ha : queueAt (completed q i s) (s.queue q) p.sig true = some a) :
    execPacketCompletion q i s = .next (writeNat (completed q i s) a 8 (completionWord p st)).settled := by
  refine agent_done _ _ _ ((queueNo_bind q _ s).trans <| (see_bind _ _ s).trans <| (present_bind hp _ s).trans <| (present_bind hs _ s).trans <|
    (upd_bind _ _ s).trans ?_)
  unfold completed at ha ⊢
  rw [if_neg ht, if_pos hn]
  refine (see_bind _ _ _).trans ?_
  rw [ha]
  exact (accessFails_bind (s := s.modQueue q fun k => { k with started := k.started.eraseIdx i }) hf _ _).trans rfl

end
end

/-- Settles O58: each packet, each later turn and each completion by its own lemma. -/
theorem frontEnd : Obligations.FrontEnd := by
  refine ⟨?_, ?_, ?_, ?_, ?_⟩
  · intro s q p h k s1
    refine ⟨fun ht => ⟨execWrap_next h ht, fun hk => ?_⟩, fun bs u ht h1 h2 => execCopy_copies h ht h1 h2, fun ht hn => execCopy_refused h ht hn,
      fun pa ht hp ha => ⟨execSignal_stores h ht hp ha, execSignal_adds h ht hp ha⟩, execWait_next h, execIndirect_next h, execBarrier_next h, ?_,
      execLoadModel_starts h⟩
    · simp only [Queue.advance, hk, ht, if_true]
    · intro s2
      refine ⟨fun ht => ⟨fun u hu => execLaunch_reads h ht (launchOr_creates none hu), fun hn => execLaunch_reads h ht (launchOr_refused none hn)⟩,
        ?_⟩
      intro m n ht
      refine ⟨execInvoke_refused h ht, fun bufs img d b u hst hj hn hbufs himg hb hd hg => ?_⟩
      subst hb
      exact execInvoke_creates h ht rfl hst hj hn hbufs himg hd hg
  · intro s q i l hd hw m put lock s1
    refine ⟨fun hl ho => ⟨execLoadModel_refuses hd hw hl ho, execLoadModel_evicts hd hw hl ho, execLoadModel_loads hd hw hl ho⟩,
      fun hl hf hr => ⟨fun bs hi hb hm => execLoadModel_resident hd hw hl hf hr hi hb hm, fun bs hi hn => execLoadModel_rejects hd hw hl hf hr hi hn,
        execLoadModel_unreached hd hw hl hf⟩⟩
  · intro s q w pa hw hf hr ha v seen
    exact ⟨execWaitPoll_seen hw hf hr ha, execWaitPoll_unseen hw hf hr ha⟩
  · exact fun s i hs hl => execModelUnloadComplete_frees hs hl
  · intro s q i st p hp hs ht hf s1
    exact ⟨execPacketCompletion_silent hp hs ht, fun a hn ha => execPacketCompletion_writes hp hs ht hf hn ha⟩

end Sys2Proof.Machine
end
